-- ==== Sys2Proof/Word.lean ====
section
/-! DEFINITION. The word types of the KE8 model. Bits are numbered from the least significant bit and every
multi-byte field is little-endian (R10). -/

namespace Sys2Proof

/-- One byte. -/
abbrev Byte := BitVec 8
/-- A 32-bit word: control-mesh words, token ids, counters of 4 bytes. -/
abbrev W32 := BitVec 32
/-- A 64-bit word: general registers, fabric addresses, instruction words. -/
abbrev W64 := BitVec 64
/-- A vector register, 512 bits: exactly one K4 burst (R127). -/
abbrev W512 := BitVec 512

/-- Bits `[hi:lo]` of a natural number, as a natural number. -/
def natBits (x hi lo : Nat) : Nat := (x / 2 ^ lo) % 2 ^ (hi + 1 - lo)

/-- `⌈a / b⌉`. -/
def ceilDiv (a b : Nat) : Nat := (a + b - 1) / b

end Sys2Proof
end

