-- ==== Sys2Proof/Syntax.lean ====
section
/-! DEFINITION. The commands the block takes: one constructor of `Instr` per row of spec/opcode_table.json, with the
operands of that row; and the plain data those operands are made of (places in the module, instruction fields, images,
messages, observations). -/

namespace Sys2Proof

/-! ## Places in the module (R14–R18) -/

/-- A physical dune: erg 0–3, dune 0–47 (R15). -/
structure DuneId where
  erg : Fin 4
  num : Fin 48
  deriving DecidableEq, Repr

/-- A row of a dune, 0–95 (R17). -/
structure RowId where
  dune : DuneId
  num : Fin 96
  deriving DecidableEq, Repr

/-- An active core of a row, 0–15 (R122). -/
structure CoreId where
  row : RowId
  num : Fin 16
  deriving DecidableEq, Repr

/-- A hardware thread of a core, 0–7 (R123). -/
structure Thread where
  core : CoreId
  num : Fin 8
  deriving DecidableEq, Repr

/-- A clock island (R192). The root of time is the time unit of `steward 0` (R214). -/
inductive Island where
  | dune (d : DuneId)
  | bridge (k : Fin 32)
  | hbm (k : Fin 32)
  | bundle (k : Fin 8)
  | pcie
  | mgmt
  | steward (e : Fin 4)
  deriving DecidableEq, Repr

/-- A power domain with its e-fuse (R444). -/
inductive Domain where
  | dune (d : DuneId)
  | hbm (k : Fin 32)
  | bundle (k : Fin 8)
  | edge (e : Fin 4)
  deriving DecidableEq, Repr

/-- Bank A or bank B of a plate (R18). -/
inductive Bank where
  | a | b
  deriving DecidableEq, Repr

/-! ## Thread instructions (R133) -/

/-- The fields of an instruction word (R133) that the row of the table does not fix: guard, d, a, b, i and bits [31:0]
(c and mod when i = 0, imm when i = 1). Class and op are the constructor's. -/
structure Fields where
  gneg : Bool
  gp : BitVec 3
  d : BitVec 5
  a : BitVec 5
  b : BitVec 5
  i : Bool
  low : BitVec 32
  deriving DecidableEq, Repr

/-! ## Control-mesh messages (R210) and fault records (R479) -/

/-- A control message: the header word and up to three further words (R210). -/
structure MeshMsg where
  header : W32
  w1 : W32
  w2 : W32
  w3 : W32
  deriving DecidableEq, Repr

/-- A fault as it travels to the module steward and stands in LastFault (R477, R479). -/
structure FaultRec where
  code : BitVec 16
  severity : Nat
  erg : Nat
  dune : Nat
  row : Nat
  thread : BitVec 8
  beat : Nat
  detail : W64
  htc : Nat
  deriving DecidableEq, Repr

/-! ## Images (R251–R269, R552) -/

/-- A section table entry (R252). -/
structure SectionEntry where
  type : Nat
  variant : Nat
  flags : Nat
  reservedZero : Bool
  offset : Nat
  length : Nat
  crc : W32
  deriving DecidableEq, Repr

/-- A signature block (R254): kind 1 signs the firmware segments, kind 2 the image. -/
structure SigBlock where
  kind : Nat
  reservedZero : Bool
  keyId : BitVec 384
  r : BitVec 384
  s : BitVec 384
  deriving DecidableEq, Repr

/-- One thread of a core's program (R124, R125). -/
structure ThreadProg where
  num : Fin 8
  entry : Nat
  lo : Nat
  hi : Nat
  privF : Bool
  g : List (Fin 32 × W64)
  v : List (Fin 16 × W512)
  p : BitVec 8
  deriving DecidableEq, Repr

/-- The program of one active core of a virtual row; `sect` is the index of its section in the section table, whose flags say whether
it is a firmware segment (R126, R252, R253). `privF` of a thread is the image's mark. -/
structure CoreProg where
  vdune : Nat
  row : Fin 96
  core : Fin 16
  words : List W64
  threads : List ThreadProg
  sect : Nat
  deriving DecidableEq, Repr

/-- Per row: margins and the latest cycle of each segment on each stepping (R231–R233). `obligationsKept` is false where the code breaks
the declaration for obligation 2 or 3 of R233 in a way that only its run shows (assumption 137). -/
structure SegRow where
  vdune : Nat
  row : Fin 96
  margins : List Nat
  latestB0 : List Nat
  latestB1 : List Nat
  obligationsKept : Bool
  deriving DecidableEq, Repr

/-- Per row: the firing-free gaps of the beat, as cycles [start, end) (R108). -/
structure GapRow where
  vdune : Nat
  row : Fin 96
  gaps : List (Nat × Nat)
  deriving DecidableEq, Repr

/-- An entry of the TC0 list (R253, R262): virtual dunes, rows, and fabric SRAM offsets with the level of memory, a row buffer or a
scratchpad bank. -/
structure Tc0Entry where
  srcDune : Nat
  srcRow : Fin 96
  srcBuffer : Bool := true
  srcOffset : Nat := 0
  dstDune : Nat
  dstRow : Fin 96
  dstBuffer : Bool := true
  dstOffset : Nat := 0
  bytes : Nat
  issueCycle : Nat
  budgetNs : Nat
  deriving DecidableEq, Repr

/-- A relocation entry (R263, R265): an address constant, or a symbolic immediate base + Σ c·L. -/
structure Reloc where
  vdune : Nat
  row : Fin 96
  core : Fin 16
  word : Nat
  symbolic : Bool
  base : Nat
  terms : List (Nat × Nat)
  deriving DecidableEq, Repr

/-- The sections that the proof variant may carry of its own (R253). -/
structure Variant where
  programs : List CoreProg
  marksNs : List Nat
  segRows : List SegRow
  gaps : List GapRow
  tc0 : List Tc0Entry
  separations : List (Nat × Nat × Nat)
  relocs : List Reloc
  deriving DecidableEq, Repr

/-- A row of a virtual dune: its plate and core use masks (R259). -/
structure VRow where
  row : Fin 96
  plateMask : BitVec 64
  coreMask : BitVec 16
  deriving DecidableEq, Repr

/-- A virtual dune: virtual erg and number, alternates and rows (R253, R261). -/
structure VDune where
  erg : Fin 4
  num : Fin 48
  alternates : List (Fin 48)
  rows : List VRow
  deriving DecidableEq, Repr

/-- A TC0 time slot between modules (R364): `sound` says that its role is 1 or 2 and its reserved bytes are 0. -/
structure Slot where
  sound : Bool
  send : Bool
  bundle : Fin 8
  peer : Nat
  start : Nat
  deadline : Nat
  length : Nat
  source : W64
  target : W64
  generation : W32
  window : Fin 16
  lanes : Nat
  deriving DecidableEq, Repr

/-- The three bank uses (R331). -/
inductive BankUse where
  | single | capacity | streamed
  deriving DecidableEq, Repr

/-- A bank entry of the weights section (R552): the header's fields, and the bytes of the stream and the scales as far as the section
holds them. `vplate` is the virtual plate number (assumption 10). -/
structure WeightEntry where
  vplate : Nat
  group : Nat
  form : Nat
  elementCount : Nat
  streamBytes : Nat
  scaleCount : Nat
  stream : List Byte
  scales : List Byte
  deriving DecidableEq, Repr

/-- A region of fabric SRAM that the image places: virtual dune, row, row buffer or scratchpad bank, first byte and length (R163). -/
structure SramRegion where
  vdune : Nat
  row : Fin 96
  buffer : Bool
  first : Nat
  bytes : Nat
  deriving DecidableEq, Repr

/-- KV of a stage in the scratchpad of a row (R288, R301): a page of 64 positions stands at `base` + 64 · `bytes` · its number, and each
position's vector has `bytes` bytes of elements of lane type `fmt`. -/
structure KvArea where
  place : Nat × Fin 96
  base : Nat
  bytes : Nat
  fmt : Nat
  deriving DecidableEq, Repr

/-- Recurrent state of a stage in the scratchpad of a row (R301): that of a context stands at `base` + `bytes` · its first page. -/
structure RecurrentArea where
  place : Nat × Fin 96
  base : Nat
  bytes : Nat
  deriving DecidableEq, Repr

/-- Part of the hot region (R311): `bytes` bytes of an adapter's payload from `first` on, at `base` + `bytes` · the hot slot. -/
structure HotPart where
  place : Nat × Fin 96
  base : Nat
  first : Nat
  bytes : Nat
  deriving DecidableEq, Repr

/-- Memory declaration and bank plan (R163, R253, R331, R334): the two reserved regions as it declares them, first byte and last, and
what the image places of its own. -/
structure MemDecl where
  upkeepArea : Option (Nat × Nat)
  scratchArea : Option (Nat × Nat)
  regions : List SramRegion := []
  bankUse : BankUse
  groups : Nat
  bankPeriod : Nat
  entryBeats : List Nat
  residentPlates : List Nat
  negativeBytes : Nat
  adapterSlotBytes : Nat
  /-- debug regions in HBM: first byte and length (R486) -/
  debugRegions : List (Nat × Nat)
  declaredBytes : Nat
  /-- first HBM byte of the staging region (R335) -/
  stagingBase : Nat := 0
  /-- first HBM bytes of the negative region and of the adapter region (R301, R309) -/
  negativeBase : Nat := 0
  adapterBase : Nat := 0
  /-- where the stages hold the KV pool and their recurrent state, and the hot region (R288, R301, R311) -/
  kv : List KvArea := []
  recurrent : List RecurrentArea := []
  hot : List HotPart := []
  deriving DecidableEq, Repr

/-- A stage of the stage map (R229, R253): its virtual dunes and rows, its lanes, and each lane's slot as SRAM offset and bytes. A draft
stage has the beats, counted from the one in which a pass samples, in which it works on the next pass's drafts (R297, R304). -/
structure Stage where
  places : List (Nat × Fin 96)
  lanes : List Nat := []
  slots : List (Nat × Nat) := []
  draftBeats : List Nat := []
  deriving DecidableEq, Repr

/-- A reduction of the reduction plan (R51, R253): the sources of its binary32 operands, in the order of its additions. -/
structure Reduction where
  target : Nat × Fin 96
  order : List (Nat × Fin 96)
  deriving DecidableEq, Repr

/-- The stage map (R253): its main and draft stages, and the limits that serving takes from it (R288, R289). -/
structure StageMap where
  main : List Stage := []
  drafts : List Stage := []
  vocab : Nat
  contextLimit : Nat
  endIds : List W32
  prefillWidth : Nat
  maxSpecDepth : Nat
  draftBeats : Nat
  kvPages : Nat
  deriving DecidableEq, Repr

/-- An image as the loader reads it (R251–R254): its bytes, of which the header, the section table, the signatures and the weights are
read by the layouts of R251, R252, R254 and R552; and the contents of the sections for which the manual gives no byte layout, as data.
`energy` has the main stages first, then the draft stages; `slotTable` holds the slot entries of R364; `twins` pairs stages. -/
structure Image where
  file : List Byte
  ordinary : Variant
  proof : Variant
  stageMap : StageMap
  reductions : List Reduction := []
  energy : List (Nat × Nat × Nat × Nat)
  manifest : List (Nat × Nat)
  vdunes : List VDune
  ergMaps : BitVec 8
  twins : List (Nat × Nat)
  laneGroup : List Bool
  mem : MemDecl
  moduleList : List (BitVec 16)
  slotTable : List Byte := []
  /-- for each traffic class, whether the route plan sends its packets in Y first (R200, R262; assumption 18) -/
  routeRules : List Bool := []
  deriving DecidableEq, Repr

/-! ## Clients, observations and other operands -/

/-- Who sends a dictionary operation: mailbox session 0 (R421), or an open KOA session by number. -/
inductive Via where
  | mailbox
  | session (n : Nat)
  deriving DecidableEq, Repr

/-- Where a KOA message arrived: a management port or the mailbox (R414, R394). -/
inductive KoaSrc where
  | port (k : Fin 2)
  | mailbox
  deriving DecidableEq, Repr

/-- A firmware package as read from host memory or boot flash: its bytes, by the layout of R502. -/
structure Package where
  file : List Byte
  deriving DecidableEq, Repr

/-- What the module's DMA engines read at the address that a command object names. -/
inductive Attach where
  | none
  | image (img : Image)
  | package (p : Package)
  deriving DecidableEq, Repr

/-- A cell that reads as another code during one firing: physical site, input row, physical column 0–255 or 256–258 for
K0–K2, and the code it reads as. -/
structure CellUpset where
  site : Fin 68
  inputRow : Fin 1024
  column : Fin 259
  code : BitVec 4
  deriving DecidableEq, Repr

/-- The read back of a context's negative, and the byte of it at which an uncorrectable word was met, if any (R303, R323, R472). -/
structure NegativeRead where
  ctx : Fin 16384
  hit : Option Nat := none
  deriving DecidableEq, Repr

/-- How a queue transfer ended (R150, R399). -/
inductive XferEnd where
  | done | uncorrectable | hostError
  deriving DecidableEq, Repr

/-- The trims that a strip solves for one column (R112): a logical column, or K0–K2 at 512–514; the gain in steps of 2^-10 from
nominal and the offset in quarters of an ADC step. -/
structure TrimObs where
  column : Fin 515
  gain : Int
  offset : Int
  deriving DecidableEq, Repr

/-- Â − A of a column and phase in a verify firing, in 1/256 units (R107). -/
structure Residual where
  column : Fin 515
  phase : Fin 4
  error : Int
  deriving DecidableEq, Repr

/-- What the part shows in a strip (R106, R107): cells that read otherwise in its proof firings, the trims of the columns whose
trims change, and the residuals of its verify firings that are not 0. -/
structure StripObs where
  upsets : List CellUpset := []
  trims : List TrimObs := []
  residuals : List Residual := []
  deriving DecidableEq, Repr

/-- What became of a bank that a load or a restart writes and strips (R100, R107, R110): its first attempt, and the second, after
the bank has been rewritten. An attempt without a strip is a row that failed its read-back twice. -/
structure SiteTrial where
  row : RowId
  site : Fin 68
  bank : Bank
  first : Option StripObs
  second : Option StripObs
  deriving DecidableEq, Repr

/-- The purpose of a host read that fails (R399). -/
inductive ReadPurpose where
  | prompt (c : Fin 16384)
  | tail (c : Fin 16384)
  | stepTail (f : Fin 16)
  | qld (c : CoreId) (q : Fin 4) (e : Fin 16)
  | image (offset : Nat)
  | adapter
  deriving DecidableEq, Repr

/-- A sensor pair's two readings, in 1/16 °C (R449): `spot` is the spot number of R468's HottestSpot order. -/
structure SpotReading where
  spot : Nat
  first : Int
  second : Int
  deriving DecidableEq, Repr

/-- One 100 µs sample of sensors, feeds and coolant (R449, R453, R463). Temperatures in 1/16 °C, power in W, flow in
1/1000 L/min. -/
structure SensorObs where
  spots : List SpotReading
  inputPower : Nat
  power1s : Nat
  power10ms : Nat
  inlet : Int
  outlet : Int
  flow : Nat
  deriving DecidableEq, Repr

/-- The device found on the stager link (R388). -/
structure StagerDevice where
  present : Bool
  headerOk : Bool
  barBytes : Nat
  deriving DecidableEq, Repr

/-- A PTP message heard on a management port: the PTP time of the root's present instant, in ns (R377). -/
structure PtpObs where
  port : Fin 2
  domain : Nat
  ptpTime : Nat
  deriving DecidableEq, Repr

/-- A word found by the scrub (R473). -/
structure ScrubHit where
  address : Nat
  corrected : Bool
  deriving DecidableEq, Repr

/-- The first failing part of a self-test (R527). -/
inductive SelftestFailure where
  | plateSite (r : RowId) (s : Fin 68)
  | dunePart (d : DuneId)
  | hbmStack (k : Fin 32)
  | edgeUnit (e : Fin 4)
  | controlLanes (e : Fin 4)
  | stewardUnit (e : Fin 4)
  | converter (k : Fin 12)
  deriving DecidableEq, Repr

/-! ## The commands -/

/-- One constructor per row of spec/opcode_table.json. -/
inductive Instr where
  -- ALU (R136, R137)
  | add (t : Thread) (f : Fields)
  | sub (t : Thread) (f : Fields)
  | mul (t : Thread) (f : Fields)
  | mulhs (t : Thread) (f : Fields)
  | mulhu (t : Thread) (f : Fields)
  | divs (t : Thread) (f : Fields)
  | divu (t : Thread) (f : Fields)
  | rems (t : Thread) (f : Fields)
  | remu (t : Thread) (f : Fields)
  | and (t : Thread) (f : Fields)
  | or (t : Thread) (f : Fields)
  | xor (t : Thread) (f : Fields)
  | shl (t : Thread) (f : Fields)
  | shr (t : Thread) (f : Fields)
  | sar (t : Thread) (f : Fields)
  | mins (t : Thread) (f : Fields)
  | maxs (t : Thread) (f : Fields)
  | popc (t : Thread) (f : Fields)
  | clz (t : Thread) (f : Fields)
  | movh (t : Thread) (f : Fields)
  | sel (t : Thread) (f : Fields)
  | cmpEq (t : Thread) (f : Fields)
  | cmpNe (t : Thread) (f : Fields)
  | cmpLts (t : Thread) (f : Fields)
  | cmpLes (t : Thread) (f : Fields)
  | cmpLtu (t : Thread) (f : Fields)
  | cmpLeu (t : Thread) (f : Fields)
  | plog (t : Thread) (f : Fields)
  -- VEC (R138–R140, R551)
  | vadd (t : Thread) (f : Fields)
  | vsub (t : Thread) (f : Fields)
  | vmul (t : Thread) (f : Fields)
  | vfma (t : Thread) (f : Fields)
  | vmin (t : Thread) (f : Fields)
  | vmax (t : Thread) (f : Fields)
  | vdiv (t : Thread) (f : Fields)
  | vsqrt (t : Thread) (f : Fields)
  | vrcp (t : Thread) (f : Fields)
  | vrsq (t : Thread) (f : Fields)
  | vexp2 (t : Thread) (f : Fields)
  | vlog2 (t : Thread) (f : Fields)
  | vred (t : Thread) (f : Fields)
  | vrmax (t : Thread) (f : Fields)
  | vcmp (t : Thread) (f : Fields)
  | vsel (t : Thread) (f : Fields)
  | vbcst (t : Thread) (f : Fields)
  | vext (t : Thread) (f : Fields)
  | vmov (t : Thread) (f : Fields)
  -- CONV (R141–R143)
  | cvt (t : Thread) (f : Fields)
  | cvtk4 (t : Thread) (f : Fields)
  | dck4 (t : Thread) (f : Fields)
  | cvtmx (t : Thread) (f : Fields)
  | dcmx (t : Thread) (f : Fields)
  -- MEM (R144)
  | ldU1 (t : Thread) (f : Fields)
  | ldU2 (t : Thread) (f : Fields)
  | ldU4 (t : Thread) (f : Fields)
  | ld8 (t : Thread) (f : Fields)
  | ldS1 (t : Thread) (f : Fields)
  | ldS2 (t : Thread) (f : Fields)
  | ldS4 (t : Thread) (f : Fields)
  | st1 (t : Thread) (f : Fields)
  | st2 (t : Thread) (f : Fields)
  | st4 (t : Thread) (f : Fields)
  | st8 (t : Thread) (f : Fields)
  | ldv (t : Thread) (f : Fields)
  | stv (t : Thread) (f : Fields)
  -- WIN, Q (R147–R152)
  | wopen (t : Thread) (f : Fields)
  | wclose (t : Thread) (f : Fields)
  | put (t : Thread) (f : Fields)
  | qld (t : Thread) (f : Fields)
  | qst (t : Thread) (f : Fields)
  | qwait (t : Thread) (f : Fields)
  -- PLATE (R145, R146)
  | fire (t : Thread) (f : Fields)
  | firew (t : Thread) (f : Fields)
  | firex (t : Thread) (f : Fields)
  | fwait (t : Thread) (f : Fields)
  -- SYNC, CTL, SYS (R153–R157)
  | barl (t : Thread) (f : Fields)
  | waittC (t : Thread) (f : Fields)
  | waittH (t : Thread) (f : Fields)
  | seal (t : Thread) (f : Fields)
  | nop (t : Thread) (f : Fields)
  | br (t : Thread) (f : Fields)
  | jr (t : Thread) (f : Fields)
  | call (t : Thread) (f : Fields)
  | skip (t : Thread) (f : Fields)
  | gets (t : Thread) (f : Fields)
  | abrt (t : Thread) (f : Fields)
  | sld (t : Thread) (f : Fields)
  | sst (t : Thread) (f : Fields)
  | evt (t : Thread) (f : Fields)
  -- events of threads, plates and memory
  | stallResume (t : Thread)
  | qwaitDeadline (t : Thread)
  | firingEnd (r : RowId) (upsets : List CellUpset)
  | putArrival (id : Nat)
  | queueTransferComplete (c : CoreId) (q : Fin 6) (e : Fin 16) (hostData : List Byte) (how : XferEnd)
  | stripSegmentStart (r : RowId) (site : Fin 68) (bank : Bank)
  | stripSegmentEnd (r : RowId) (obs : StripObs)
  | rowWordStaged (r : RowId) (invalid : Bool)
  | plateRowWrite (r : RowId) (firstDiffers secondDiffers : Bool)
  -- beats
  | beatStart (d : DuneId)
  | segmentMark (d : DuneId)
  | commitCheck (d : DuneId)
  | beatClose (n : Nat)
  | stretch (d : DuneId) (msg : MeshMsg)
  | beatChangePeriod (d : DuneId) (msg : MeshMsg)
  | beatChangePause (d : DuneId) (msg : MeshMsg)
  | beatChangeResume (d : DuneId) (msg : MeshMsg)
  | fix (d : DuneId) (msg : MeshMsg)
  | fallbackCheck
  | hbmImbalanceWindowEnd
  -- fabric and time
  | duneOff (d : DuneId)
  | routeTableRewrite (e : Fin 4)
  | controlParityError (link : Nat) (lane : Fin 2) (twice : Bool)
  | timingPulseExchange (i : Island) (offsetPs : Int)
  | islandLock (i : Island)
  | holdoverEntry (i : Island)
  | holdoverLimit (i : Island)
  -- jobs
  | jobLoad (v : Via) (data : List Byte) (img : Image)
  | loadComplete (trials : List SiteTrial)
  | jobDrain (v : Via) (data : List Byte)
  | drainComplete
  | jobUnload (v : Via) (data : List Byte)
  -- serving
  | intakeSlotWrite (fn : Fin 16) (offset : Fin 4096) (data : List Byte)
  | slotConsume (fn : Fin 16)
  | descriptorNop (fn : Fin 16)
  | submit (fn : Fin 16)
  | cancel (fn : Fin 16)
  | pause (fn : Fin 16)
  | resume (fn : Fin 16)
  | unknownOpcode (fn : Fin 16)
  | promptFetchComplete (c : Fin 16384) (tokens : List W32)
  | contextAdmit (c : Fin 16384)
  | entryListFix (m : Nat)
  | pauseAfterExpiry (c : Fin 16384)
  | negativeWriteComplete (c : Fin 16384)
  | negativeRestoreComplete (c : NegativeRead)
  | tailReadComplete (c : Fin 16384) (tail : W64)
  | stepTailReadComplete (fn : Fin 16) (tail : W64)
  | endRecordSent (c : Fin 16384)
  | drainTimeout
  | adapterInstall (v : Via) (data : List Byte)
  | adapterRemove (v : Via) (data : List Byte)
  | adapterHotCopyComplete (id : Nat)
  | tokenEnvelopeWrite (v : Via) (data : List Byte)
  | intakeEnableWrite (v : Via) (fn : Fin 16) (data : List Byte)
  -- weight replacement and bank plans
  | replaceAbandon (v : Via) (data : List Byte)
  | replaceFixNow (v : Via) (data : List Byte) (img : Image)
  | replaceFixAfterDrain (v : Via) (data : List Byte) (img : Image)
  | replaceInPlace (v : Via) (data : List Byte) (img : Image)
  | replaceCheckComplete
  | latentBuildComplete
  | replaceDrainComplete
  | replaceBufferComplete
  | inplaceRewriteComplete
  | streamReadinessCheck
  | streamReady
  -- hall links and time
  | hello (b : Fin 8) (frame : List Byte)
  | data (b : Fin 8) (frame : List Byte)
  | ack (b : Fin 8) (frame : List Byte)
  | time (b : Fin 8) (frame : List Byte)
  | ctrl (b : Fin 8) (frame : List Byte)
  | replayTimeout (b : Fin 8) (cls : Fin 5) (seq : Nat)
  | reorderGapTimeout (b : Fin 8) (cls : Fin 5)
  | laneDrop (b : Fin 8) (lane : Fin 24)
  | laneRejoin (b : Fin 8) (lane : Fin 24)
  | slotSendStart (k : Nat)
  | slotDeadline (k : Nat)
  | loadCompleteReport (index : Nat)
  | jobStartT0 (t0 : Nat)
  | rootSourceTimeout
  | rootHoldoverLimit
  | ptpMessage (obs : PtpObs)
  | faultInject (v : Via) (data : List Byte)
  -- host attachment
  | pcieBifurcationWrite (v : Via) (data : List Byte)
  | stagerEnumeration (dev : StagerDevice)
  | mailboxDoorbell (value : W32) (att : Attach)
  | eventCauseWrite (fn : Fin 16) (offset : Fin 8) (data : List Byte)
  | apertureBaseWrite (offset : Fin 8) (data : List Byte)
  | windowTableWrite (offset : Fin 65536) (data : List Byte)
  | htcNowRead (fn : Fin 16) (high : Bool) (bytes : Nat)
  | bar2Read (offset : BitVec 32) (bytes : Nat)
  | bar2Write (offset : BitVec 32) (data : List Byte)
  | bar0Write (fn : Fin 16) (offset : BitVec 20) (data : List Byte)
  | functionLevelReset (fn : Fin 16)
  | vfEnableClear (fn : Fin 16)
  | busMasterDisable (fn : Fin 16)
  | linkDown
  | functionReenable (fn : Fin 16)
  | readCompletionError (r : ReadPurpose)
  | completionTimeout (r : ReadPurpose)
  | msixHoldoffExpiry (fn : Fin 16) (vec : Fin 8)
  | msixUnmask (fn : Fin 16) (vec : Fin 8)
  -- KOA and the object dictionary
  | koaHello (src : KoaSrc) (msg : List Byte)
  | koaAuth (src : KoaSrc) (msg : List Byte)
  | koaRequest (src : KoaSrc) (msg : List Byte) (att : Attach)
  | koaClose (src : KoaSrc) (msg : List Byte)
  | sessionIdleTimeout (session : Nat)
  | authTimeout (session : Nat)
  | odRead (v : Via) (index : BitVec 16) (sub : BitVec 8) (offset length : Nat)
  | odWrite (v : Via) (index : BitVec 16) (sub : BitVec 8) (data : List Byte)
  | odDescribe (v : Via) (index : BitVec 16) (sub : BitVec 8)
  | odSubscribe (v : Via) (mask : W64)
  | nvStoreComplete (stored : Bool)
  | restoreDefaults (v : Via) (data : List Byte)
  | odRequest (e : Fin 4) (msg : MeshMsg)
  | odResponse (msg : MeshMsg)
  | telemetry (msg : MeshMsg)
  -- power, heat and coolant
  | pwrEnAssert (lowUs : Nat) (slot : BitVec 6)
  | pwrEnDeassert
  | feedsLost
  | feedIsolate (feedB : Bool)
  | feedRejoin (feedB : Bool)
  | converterFailure (k : Fin 12)
  | efuseTrip (dom : Domain)
  | sensorSample (obs : SensorObs)
  | lengthenStepExpiry
  | lengthenRelaxExpiry
  | comparatorTrip
  | flowStop
  | edgeFieldHot
  | hbmStackTemperature (k : Fin 32) (celsius : Nat)
  | baskShortfallTimeout
  | hbmScrub (k : Fin 32) (hits : List ScrubHit)
  | ppsSecond
  -- faults and sheets
  | fault (rec : FaultRec)
  | freeze (d : DuneId) (msg : MeshMsg)
  | restartAnchor (rounds : List (List SiteTrial))
  | stewardTimeout (e : Fin 4)
  | contactSheetComplete (failed : Bool)
  | reinit (v : Via) (data : List Byte)
  | faultProvoke (v : Via) (data : List Byte)
  -- security and firmware
  | keyEnroll (v : Via) (data : List Byte)
  | keyRemove (v : Via) (data : List Byte)
  | ownerRelease (v : Via) (data : List Byte)
  | antiRollbackCommit (v : Via) (data : List Byte)
  | rootRevoke (v : Via) (data : List Byte)
  | attestNonce (v : Via) (data : List Byte)
  | vendorAccessWrite (v : Via) (data : List Byte)
  | bootRomCheck (e : Fin 4)
  | firmwareInstall (v : Via) (data : List Byte) (pkg : Package)
  | firmwareSync (v : Via) (data : List Byte)
  | poweringComplete
  | selftestComplete (failures : List SelftestFailure)
  | adapterContainerRead (bytes : List Byte)
  | firmwareWriteComplete (verified : Bool)
  | provocationArmed
  | controlMessageDiscard (node : BitVec 8) (msg : MeshMsg)
  | klProtocolError (b : Fin 8) (frame : List Byte)
  | timeFrameDue (b : Fin 8)
  | laneTrainingComplete (b : Fin 8) (lane : Fin 24)
  | cablePresent (b : Fin 8) (grounded : Bool)
  | d3hotEntry (fn : Fin 16)
  | healthTestFailure (e : Fin 4)
  deriving DecidableEq, Repr

end Sys2Proof
end

