-- ==== Sys2Proof/Machine/State.lean ====
section
/-! DEFINITION. The state of the KE8 block as plain data: every register, buffer, queue, counter, mode and pin the spec
gives the module, the queue of waiting commands, and the state after reset. Large arrays (rows, threads, memories) are
sparse maps: an unlisted key holds the default value named beside the field. -/

namespace Sys2Proof.Machine

/-- A sparse map from number to value: keys strictly rising, no entry equal to the default of unlisted keys. -/
abbrev SMap (α : Type) := List (Nat × α)

/-! ## Threads (R123–R129) -/

/-- The three plate instructions (R145). -/
inductive FireKind where
  | fire | firew | firex
  deriving DecidableEq, Repr

/-- What a thread waits for (R130). Cycles are beat cycles. -/
inductive Stall where
  /-- a plate instruction that waits for the row driver (R61) -/
  | plate (kind : FireKind) (input output : Nat) (mask : W64)
  /-- BARL, the round still open (R154) -/
  | barl (bar : Nat)
  /-- WAITT.C, FWAIT, a released BARL: the thread resumes at its first slot at or after the cycle; a stretch moves the
  target of WAITT.C (R146, R153, R154, R237) -/
  | untilCycle (cycle : Nat) (stretches : Bool)
  /-- WAITT.H (R153): an HTC instant in ns -/
  | untilHtc (ns : Nat)
  /-- SEAL waiting for PUT sources to be read (R155): the first time unit after the last read -/
  | sealRead (until_ : Nat)
  /-- a queue with no free entry (R150) -/
  | queueFull (load : Bool) (queue : Nat) (remote localAddr : W64) (bytes : Nat) (gd : BitVec 5)
  /-- QWAIT (R152); deadline 0 is none -/
  | qwait (queue seq deadline : Nat) (pd : BitVec 3)
  deriving DecidableEq, Repr

/-- One hardware thread (R124–R129). The `:=` value of each field is what an unlisted thread holds. -/
structure ThreadState where
  /-- g0–g31 (R127) -/
  g : Vector W64 32 := Vector.replicate 32 0
  /-- v0–v15 (R127) -/
  v : Vector W512 16 := Vector.replicate 16 0
  /-- p0–p7 (R127); bit k is pk -/
  p : BitVec 8 := 0
  /-- word index of the next instruction (R125) -/
  pc : Nat := 0
  /-- the image gives the thread code (R124) -/
  live : Bool := false
  /-- privilege F (R126) -/
  privF : Bool := false
  /-- code range [lo, hi) in words (R124) -/
  lo : Nat := 0
  hi : Nat := 0
  /-- time unit from which a register may be read (R129): g at 0–31, v at 32–47, p at 48–55; 0 when unlisted -/
  ready : SMap Nat := []
  /-- first beat cycle at which the thread may issue again (R123) -/
  nextIssue : Nat := 0
  /-- time unit at which the last PUT source byte of the thread has been read (R155) -/
  putRead : Nat := 0
  stall : Option Stall := none
  /-- SEAL issued in the current beat (R155) -/
  sealed : Bool := false
  deriving DecidableEq, Repr

/-! ## Plates and rows (R92–R103, R131, R147, R154) -/

/-- The site states of R92. -/
inductive SiteState where
  | free | active | shadow | busy | retired | fused
  deriving DecidableEq, Repr

/-- One bank of one plate, or a plate record (R94): cell codes by 256·row + column, digit words by row, weight scales by
256·p + j (4-bit packing) or 512·p + j (2-bit packing). Unlisted cells, digits and scales are 0. -/
structure BankData where
  codes : SMap (BitVec 4) := []
  digits : SMap (BitVec 16) := []
  scales : SMap Byte := []
  twoBit : Bool := false
  generation : Nat := 0
  vplate : Nat := 0
  /-- valid under R97 -/
  valid : Bool := true
  deriving DecidableEq, Repr

/-- The trims of one column of a bank (R112) as codes: gain 1 + gain·2^-10 with gain from −128 to 127, offset in quarters of
an ADC step from −32 to 31; and the temperature coefficient k in 1/°C, none for the one the steward holds (R113). -/
structure ColumnTrim where
  gain : Int := 0
  offset : Int := 0
  coeff : Option Rat := none
  deriving DecidableEq, Repr

/-- A bank in a plate site: its contents and the upkeep facts that go with it (R99–R113). -/
structure BankState where
  data : BankData := {}
  complete : Bool := false
  /-- passed a strip since it was last written (R104) -/
  stripped : Bool := false
  /-- dune Tj that the last strip recorded with its trims, in 1/16 °C (R74, R113), and whether a strip has -/
  stripTj : Int := 0
  solved : Bool := false
  /-- time unit of the last strip passed (R75) -/
  stripTime : Nat := 0
  /-- gain and offset trims by logical column, K0–K2 at 512–514 (R112) -/
  trims : SMap ColumnTrim := []
  /-- the code in every cell of reference rows 0–3 (R99) -/
  reference : SMap (BitVec 4) := []
  /-- tally by 4·column + phase: the sums of the column's codes that the write port computed (R103, R107) -/
  tally : SMap Int := []
  /-- its one rewriting for a failed strip has been used (R110) -/
  rewritten : Bool := false
  deriving DecidableEq, Repr

/-- A plate site (R92, R436). -/
structure Site where
  state : SiteState := .free
  /-- active plate number held or shadowed -/
  plate : Option Nat := none
  /-- bank B is fixed (R103) -/
  fixedB : Bool := false
  bankA : BankState := {}
  bankB : BankState := {}
  /-- trim margin flag (R114) -/
  margin : Bool := false
  /-- re-exposed and no regular strip passed since (R85), and so for trims out of range (R110) -/
  reexposed : Bool := false
  reexposedTrim : Bool := false
  /-- a hard verdict that the restart answers by a re-exposure in place (R86) -/
  hardDue : Bool := false
  /-- its retirement is due under R85 or R118 -/
  retireDue : Bool := false
  /-- the retirement is one of R85, which RepeatSoftRetirements counts -/
  retireSoft : Bool := false
  /-- its re-exposure was deferred (R117) -/
  deferred : Bool := false
  /-- bank A, and after an extended self-test bank B, still hold what self-test wrote into every usable site (R526):
  `Mach.selftest` says what; false once anything has been written into the site -/
  pattern : Bool := true
  /-- beat number at which a SHADOW came to be, for the oldest SHADOW of R115 -/
  since : Nat := 0
  deriving DecidableEq, Repr

/-- The job of a row's write port (R98–R100): the record that is written, whose digit words and scales stand in the port's
buffer, and how many row words are staged and written. The staged words themselves stand in the ring at row buffer offsets
0x3C000 to 0x3FFFF. -/
structure WriteJob where
  site : Nat
  bank : Bank
  record : BankData
  /-- row words staged in the ring and not yet written lie in [written, staged) -/
  staged : Nat := 0
  written : Nat := 0
  /-- time unit from which the write port is free -/
  freeAt : Nat := 0
  /-- time units at which the words in [written, staged) came -/
  arrived : List Nat := []
  deriving DecidableEq, Repr

/-- Why a BUSY site is being rewritten (R115, R118, R81). -/
inductive UpkeepGoal where
  /-- re-exposure: the plate will be mapped to the BUSY site, the former site becomes SHADOW -/
  | reexpose
  /-- retirement by substitution: the suspect site becomes RETIRED -/
  | retire
  /-- step 5: the former site is rewritten and becomes the plate's SHADOW -/
  | shadow
  deriving DecidableEq, Repr

/-- One re-exposure or substitution of a row (R115, R118). -/
structure Upkeep where
  plate : Nat
  goal : UpkeepGoal
  /-- the BUSY site, none before a site has been taken -/
  site : Option Nat
  /-- banks still to be written, each with its record -/
  toWrite : List (Bank × BankData)
  /-- banks still to be stripped -/
  toStrip : List Bank
  /-- trims out of range are its cause (R110) -/
  trim : Bool := false
  deriving DecidableEq, Repr

/-- A strip in progress in a row (R106): site, bank, next segment 0–93, whether that segment is running, and the time unit
at which it ends. -/
structure StripRun where
  site : Nat
  bank : Bank
  segment : Nat
  running : Bool
  until_ : Nat
  /-- the draw of the DRBG that gives its proof vectors -/
  seed : Nat := 0
  /-- a proof firing, the tally or a verify firing has failed; whether a proof firing has given its soft verdict -/
  failed : Bool := false
  verdict : Bool := false
  /-- a solved trim lies outside its range -/
  trimOut : Bool := false
  deriving DecidableEq, Repr

/-- A bask firing in a row (R459): the site fired, the time unit after its last cycle, and the draw of its input. -/
structure BaskRun where
  site : Nat
  until_ : Nat
  seed : Nat
  deriving DecidableEq, Repr

/-- A firing in progress (R57–R68). -/
structure Firing where
  plates : List Nat
  output : Nat
  exact : Bool
  wide : Bool
  twoBit : Bool
  /-- aligned inputs q_i of the 1,024 rows at the executed width (R43) -/
  q : List Int
  /-- shared exponents E_p of the four phase groups; none for a zero group -/
  exps : List (Option Int)
  /-- beat cycles of acceptance and of the last cycle (R72) -/
  start : Nat
  last : Nat
  /-- the dune's Tj at acceptance, in 1/16 °C (R69, R113) -/
  tj : Int := 0
  deriving DecidableEq, Repr

/-- An open window (R171): the descriptor and the privilege of the thread that opened it (R175). -/
structure Window where
  desc : BitVec 128
  openedByF : Bool
  deriving DecidableEq, Repr

/-- An open barrier round (R154). -/
structure Round where
  count : Nat
  arrived : List Nat
  deriving DecidableEq, Repr

/-- One row (R17): issue, firing, windows, barriers, margin account, plate sites and write port. -/
structure RowState where
  /-- stops issuing for the rest of the beat (R86) -/
  stopped : Bool := false
  firing : Option Firing := none
  /-- beat cycle after the last firing's last cycle (R61) -/
  driverFree : Nat := 0
  windows : SMap (Option Window) := []
  barriers : SMap (Option Round) := []
  /-- margin account and raised flag (R232, R235) -/
  account : Nat := 0
  raised : Bool := false
  sites : SMap Site := []
  strip : Option StripRun := none
  bask : Option BaskRun := none
  writer : Option WriteJob := none
  /-- re-exposures queued at the next beat boundary: active plate, bank that fired, and whether its trims are the cause
  (R84, R110) -/
  softPlates : List (Nat × Bank × Bool) := []
  upkeep : List Upkeep := []
  deriving DecidableEq, Repr

/-! ## Dunes and islands (R215, R219, R225–R241) -/

/-- Island time states (R215). -/
inductive TimeState where
  | free | acquire | locked | holdover
  deriving DecidableEq, Repr

/-- DuneState codes of R435. -/
inductive DunePower where
  | usable | off | heat | defect | lost
  deriving DecidableEq, Repr

/-- The beat an island runs (R227, R237). -/
structure Beat where
  n : Nat
  /-- time unit at which beat cycle 0 began -/
  start : Nat
  segment : Nat := 0
  /-- the segment at which the beat was stretched -/
  stretched : Option Nat := none
  /-- the check of C(n) has been made (R244) -/
  checked : Bool := false
  deriving DecidableEq, Repr

/-- Announced beat changes (R240). -/
inductive BeatChange where
  | period (n : Nat) (level : Nat) (p : Nat)
  | pause (n : Nat)
  | resume (anchor : Nat)
  deriving DecidableEq, Repr

/-- An island's HTC copy (R214–R217), kept by its difference from the module root's value: `skew` in 2^-16 ns, positive where it is
ahead, at time unit `since`. -/
structure HtcCopy where
  skew : Int := 0
  since : Nat := 0
  /-- the draw of the drift on which it runs in HOLDOVER; none while it is steered -/
  drift : Option Nat := none
  /-- the dune that it has reattached to, none for its parent in the tree of R214 -/
  parent : Option Nat := none
  /-- the limit of this holdover has been reported (R217) -/
  limited : Bool := false
  deriving DecidableEq, Repr

/-- One dune: supply, island, beat sequencer (R219, R215, R225). -/
structure DuneState where
  power : DunePower := .usable
  time : TimeState := .acquire
  /-- time unit of the last exchange of timing pulses with the parent, and of holdover entry (R214, R215) -/
  exchanged : Nat := 0
  holdSince : Nat := 0
  copy : HtcCopy := {}
  /-- beat anchor: A in ns, n_A, P (R225) -/
  anchor : Nat := 0
  anchorBeat : Nat := 0
  period : Nat := 0
  level : Nat := 0
  /-- the next beat to start -/
  nextBeat : Nat := 0
  beat : Option Beat := none
  /-- beats are paused from this beat on (R240) -/
  pausedFrom : Option Nat := none
  changes : List BeatChange := []
  /-- announced fixes: instant in ns, generation (R342) -/
  fixes : List (Nat × Nat) := []
  /-- FREEZE received (R478) -/
  frozen : Bool := false
  /-- virtual dune hosted by the job: 64·verg + vdune (R435) -/
  hosted : Option Nat := none
  /-- the mean of the dune's 12 spots in 1/16 °C (R451) -/
  tj : Int := 0
  /-- it basks (R459) -/
  basking : Bool := false
  /-- neighbouring routers use their alternate tables for this dune, which lead around it (R219–R221) -/
  alternates : Bool := false
  /-- seq of the last TELEMETRY snapshot (R438) -/
  telemetry : W32 := 0
  deriving DecidableEq, Repr

/-- Any other island (R192). -/
structure IslandState where
  time : TimeState := .acquire
  exchanged : Nat := 0
  holdSince : Nat := 0
  copy : HtcCopy := {}
  deriving DecidableEq, Repr

/-! ## Memory traffic (R131, R148–R152, R199) -/

/-- Bytes that land in fabric SRAM at the end of a cycle (R131): `due` is the first time unit that sees them, `rank` the
order among those of one cycle (0 plate sums, 1 arrivals, 2 + core number for stores). -/
structure Landing where
  due : Nat
  rank : Nat
  addr : Nat
  bytes : List Byte
  deriving DecidableEq, Repr

/-- A load from a scratchpad bank on its way (R168, R169): bank (row key), address and bytes, sign extension, the
destination as an interlock number (none once a later instruction of the thread has written the register), hop count,
requesting row and core, and the time units at which it reaches the bank and is served. -/
structure LoadReq where
  thread : Thread
  dest : Option Nat
  addr : Nat
  bytes : Nat
  signed : Bool
  bank : Nat
  hops : Nat
  reach : Nat
  service : Nat
  deriving DecidableEq, Repr

/-- What a packet carries (R199): a PUT or a slot's bytes; part of a queue transfer, by core, entry and sequence; an event; the prompt
ids of a context's request, by its consumption order, up to a position (R291); the entry list of a beat (R292). -/
inductive Cargo where
  | put
  | queue (core : CoreId) (entry seq : Nat)
  | event (code erg dune beat value : Nat)
  | prompt (ctx order upto : Nat)
  | entryList (beat : Nat)
  /-- a value longer than 8 bytes, on its way to the module steward (R438) -/
  | value
  /-- the read request of a send slot, and 256 bytes of its source by number (R365) -/
  | slotAsk (slot : Nat)
  | slotData (slot num : Nat)
  deriving DecidableEq, Repr

/-- A packet of the data mesh (R199). -/
structure Packet where
  id : Nat
  cargo : Cargo := .put
  /-- sending row, absent for traffic off a port island -/
  src : Option RowId
  sender : Option Thread
  target : W64
  bytes : List Byte
  cls : Nat
  tag : W64
  /-- stamped virtual erg and dune: 64·verg + vdune (R173) -/
  vdune : Nat
  viaLink : Bool
  privF : Bool
  /-- source address, and the time unit after which its last unit has been read (R148) -/
  source : Nat
  readUntil : Nat
  word : W64
  /-- receive slot whose bytes it carries (R366) -/
  slot : Option Nat := none
  /-- flits of the packet -/
  units : Nat := 1
  /-- row keys of the routers on its path, the one where it enters first, and the ports by which it enters and leaves (R196) -/
  route : List Nat := []
  entry : Nat := 4
  exit : Nat := 4
  /-- held at its router for want of a table entry (R220) -/
  held : Bool := false
  /-- what the checks of R149 gave when the first unit reached the arrival port -/
  verdict : Option Bool := none
  /-- output links on which it has met a TC0 collision (R207) -/
  met : List Nat := []
  deriving DecidableEq, Repr

/-- A flit in an input buffer of a router: its packet and its number there, how many routers of the path lie behind it, and the time
unit from which an output port can take it (R201, R208). -/
structure Flit where
  pkt : Nat
  num : Nat
  hop : Nat
  ready : Nat
  deriving DecidableEq, Repr

/-- A unit at an arrival port: the time unit at which it reaches the port, whether it belongs to a queue transfer, its packet and its
number there (R167). -/
structure PortUnit where
  reach : Nat
  queue : Bool
  pkt : Nat
  num : Nat
  deriving DecidableEq, Repr

/-- An outstanding queue transfer (R150, R151). `source` holds the bytes it will deliver as they stood at issue, changed
where a write that races with it is taken (R185); a QLD from host memory has none until it completes. -/
structure Transfer where
  seq : Nat
  load : Bool
  remote : W64
  host : Nat
  localAddr : W64
  length : Nat
  source : List Byte
  /-- function that issues a host transfer (R395) -/
  fn : Nat
  /-- a host read whose function has ended meanwhile: its data are discarded (R390) -/
  discarded : Bool := false
  /-- time unit at which it issued (R399) -/
  issued : Nat := 0
  deriving DecidableEq, Repr

/-- The six decoupling queues of a core (R150): `next` counts the issues of each queue, `entries` holds the outstanding
transfers by 16·queue + entry. A sequence below `next` that no entry holds has completed. -/
structure QueueState where
  next : SMap Nat := []
  entries : SMap (Option Transfer) := []
  deriving DecidableEq, Repr

/-! ## Serving (R275–R328) -/

/-- A request descriptor (R283), with its phase byte's reserved bits. -/
structure Descriptor where
  hostTag : W64
  promptAddr : W64
  promptLen : Nat
  maxNew : Nat
  ringAddr : W64
  tailAddr : W64
  ringEntries : Nat
  opcode : Nat
  priority : Nat
  specDepth : Nat
  flags : BitVec 8
  stopIds : List W32
  seed : W64
  temperature : BitVec 16
  topP : BitVec 16
  topK : Nat
  adapterId : Nat
  reservedZero : Bool
  phaseByte : Byte
  deriving DecidableEq, Repr

/-- Context states (R286). -/
inductive CtxState where
  | free | queued | prefill | decode | pausing | paused | resuming | ending
  deriving DecidableEq, Repr

/-- A pass fixed or in flight (R290): its context, entry beat, positions, and whether it is prefill. -/
structure Pass where
  ctx : Nat
  /-- the consumption order of its request, which tells it from a later one of the context -/
  order : Nat
  beat : Nat
  first : Nat
  count : Nat
  prefill : Bool
  /-- the last prompt position is in it, or it is a decode pass: it samples -/
  samples : Bool
  /-- the adapter that it pins (R311), and the beat from which its context had been ready (R292, R294) -/
  adapter : Nat := 0xFFFF
  ready : Nat := 0
  /-- t_1 to t_d, and the noise of the distributions that proposed them (R304) -/
  drafts : List W32 := []
  draftNoise : Nat := 0
  deriving DecidableEq, Repr

/-- One of the 16,384 request contexts (R286). -/
structure Context where
  state : CtxState := .free
  fn : Nat := 0
  desc : Option Descriptor := none
  prompt : List W32 := []
  /-- prompt fetch outstanding (R285), and the time unit at which its read issued (R399) -/
  fetching : Bool := false
  fetchAt : Nat := 0
  /-- where its prompt stands in HBM; the ids sent to stage 0 and those that have arrived there (R285, R291) -/
  promptAt : Nat := 0
  sent : Nat := 0
  delivered : Nat := 0
  /-- prompt positions entered, and those for which entry lists have been fixed -/
  entered : Nat := 0
  planned : Nat := 0
  /-- committed length L (R304), the same as the records of closed beats give it (R323), and the last sampled token -/
  committed : Nat := 0
  closedLen : Nat := 0
  lastToken : W32 := 0
  /-- the tokens of the request after its prompt, whether posted or held (R304) -/
  generated : List W32 := []
  /-- the beat in which its last pass sampled while the draft stages work, and the draft tokens that they have proposed (R304) -/
  drafting : Option Nat := none
  drafts : List W32 := []
  draftNoise : Nat := 0
  /-- generated tokens posted or held -/
  tokens : Nat := 0
  /-- speculation depth d and its adaptation (R307) -/
  depth : Nat := 0
  belowFloor : Nat := 0
  sinceChange : Nat := 0
  /-- entry beat of the previous pass, with K of R290, and the last beat for whose list a pass of it has been fixed -/
  lastEntry : Option Nat := none
  plannedAt : Option Nat := none
  /-- beat from which it has been ready to enter (R294) and its consumption order -/
  readySince : Nat := 0
  order : Nat := 0
  /-- numbers of the KV pages reserved (R288) -/
  pages : List Nat := []
  /-- records posted to its own ring (R315), the known tail, records since the last tail read, and a read outstanding (R316) -/
  ringRecords : Nat := 0
  knownTail : Nat := 0
  sinceTail : Nat := 0
  tailRead : Bool := false
  tailReadAt : Nat := 0
  fallback : Bool := false
  /-- records that wait for room, each with its beat, none for a record of no beat (R315, R319) -/
  held : List (Option Nat × BitVec 128) := []
  /-- its last token has been sampled and its END record waits for the beat's closure (R320) -/
  ended : Bool := false
  /-- PAUSE held until DECODE (R302) -/
  pauseHeld : Bool := false
  /-- RESUME received while PAUSED (R303) -/
  resumeAsked : Bool := false
  /-- the next record carries RESUMED (R303) -/
  resumedMark : Bool := false
  /-- a pass entered, or a negative held, before n_f (R345) -/
  beforeFix : Bool := false
  /-- bytes of its negative in HBM, none when it has none, and where in the negative region it begins (R301) -/
  negative : Option Nat := none
  negativeAt : Nat := 0
  /-- its negative holds KV as stored -/
  negativeStored : Bool := false
  /-- an uncorrectable error has hit its negative (R323) -/
  negativeHit : Bool := false
  deriving DecidableEq, Repr

/-- A P0 chain (R295). -/
structure Chain where
  ctx : Nat
  phase : Nat
  k : Nat
  positions : Nat
  deriving DecidableEq, Repr

/-- One PCIe function and its window, ring and interrupt state (R275–R282, R318, R389–R401). -/
structure Fn where
  /-- Bus Master Enable and not under R390 -/
  up : Bool := false
  /-- expected phases and armed slots, bit i for slot i (R276) -/
  expected : W32 := 0xFFFFFFFF
  armed : W32 := 0
  next : Nat := 0
  /-- the consumed count (R280) -/
  consumed : Nat := 0
  /-- descriptors the steward holds, not yet carried out, each with its consumption order (R279) -/
  taken : List (Nat × Descriptor) := []
  /-- entries written to the step ring and its known tail (R554) -/
  stepEntries : Nat := 0
  stepKnown : Nat := 0
  stepSince : Nat := 0
  stepTailRead : Bool := false
  stepReadAt : Nat := 0
  /-- records due to the step ring, waiting for their beat's closure or for room (R318, R319) -/
  stepHeld : List (Option Nat × W64 × BitVec 128) := []
  /-- EventCause (R393) -/
  cause : W64 := 0
  /-- masked vectors, all at first as PCIe has it (assumption 22); vectors pending in the PBA, and vectors whose message
  waits for the holdoff (R401) -/
  mask : BitVec 8 := 0xFF
  pba : BitVec 8 := 0
  heldOff : BitVec 8 := 0
  /-- time unit of the last generated message of vectors 2 and 3 -/
  lastMsix : SMap Nat := []
  deriving DecidableEq, Repr

/-- An installed adapter (R309–R311). -/
structure Adapter where
  installed : Bool := false
  hot : Bool := false
  rank : Nat := 0
  bytes : Nat := 0
  lastUse : Nat := 0
  /-- its place in the hot region (R311) -/
  hotSlot : Nat := 0
  deriving DecidableEq, Repr

/-! ## Jobs and replacement (R256–R274, R337–R348) -/

/-- The loaded job. -/
structure Job where
  id : W32
  image : Image
  proof : Bool
  /-- virtual dune (64·verg + number) to physical dune key (48·erg + number) (R261) -/
  map : List (Nat × Nat)
  ergMap : Nat
  /-- load work done: waiting for T0, or RUNNING (R330, R363) -/
  loaded : Bool := false
  /-- a second dune loss refuses the load (R271) -/
  dunesLost : Nat := 0
  /-- module indices that have reported their load (R363) -/
  reports : List Nat := []
  /-- highest beat started -/
  lastStarted : Option Nat := none
  /-- S(n) of beats that have started or at which a PAUSE took effect, until the beat before has closed (R225, R245); after a RESUME
  its anchor stands there as well, later in the list (R240) -/
  starts : List (Nat × Nat) := []
  /-- beats closed so far: the next beat to close (R245) -/
  nextClose : Nat := 0
  /-- lowest beat that a fault of the job belongs to, while one is open -/
  faultBeat : Option Nat := none
  /-- one above the highest beat started before the first open fault was raised (R225) -/
  faultNext : Option Nat := none
  /-- the wanted level last sent to the beat master (R242) -/
  levelSent : Option Nat := none
  /-- the first beat whose passes have not been sampled yet (R305) -/
  sampledTo : Nat := 0
  /-- beats in which a clamped firing occurred (R313) -/
  clampedBeats : List Nat := []
  /-- beat from which the current weights run (R341) and whether a replacement ever completed -/
  weightsFrom : Nat := 0
  /-- bank B is the fixed bank of the job's plates (R103) -/
  fixedB : Bool := false
  /-- dunes marked unusable by a restart of this job (R258) -/
  lost : List Nat := []
  /-- the highest beat that an announcement has named, and the level last announced (R241, R453) -/
  announcedTo : Nat := 0
  levelAnnounced : Nat := 0
  /-- the plan boundary that a PAUSE of R335 holds -/
  planHeld : Option Nat := none
  /-- beat of the PAUSE by which the job unloads (R530) -/
  unloadAt : Option Nat := none
  /-- T0 or restart anchor that a multi-module job waits for, in HTC ns (R363) -/
  startAt : Option Nat := none
  /-- the beat from which slots are counted (R364) -/
  slotBase : Nat := 0
  deriving DecidableEq, Repr

/-- A replacement in progress (R337–R346). -/
structure Replacement where
  method : Nat
  image : Image
  /-- length that the command names, and whether the image could be read (R399) -/
  length : Nat := 0
  unread : Bool := false
  /-- golden records already overwritten in place: those of the first stage at least (R344) -/
  overwritten : Bool := false
  /-- records converted into the golden region or the replacement buffer -/
  buffered : Bool := false
  compatible : Bool := true
  /-- n_p of an announced PAUSE (R343, R344), and the instant of an announced fix (R341) -/
  pauseAt : Option Nat := none
  fixAt : Option Nat := none
  /-- n_f where a RESUME sets it -/
  firstBeat : Option Nat := none
  deriving DecidableEq, Repr

/-- Module states (R523). -/
inductive ModState where
  | off | powering | selftest | standby | loading | running | draining | faulted | dumping | restarting
  | thermalHalt | update
  deriving DecidableEq, Repr

/-- A job restart under way (R481): the state it was entered from, its severity, when it began, and whether its step 2 is
done. -/
structure Restart where
  from_ : ModState
  severity : Nat
  began : Nat
  ended : Bool := false
  deriving DecidableEq, Repr

/-! ## Links and hall time (R350–R385) -/

/-- Bundle states (R361, R382). -/
inductive BundleState where
  | down | training | mismatch | up | degraded
  deriving DecidableEq, Repr

/-- One direction of one class of a bundle: TC0–TC3 and the CTRL class (R355, R369). -/
structure KlClass where
  txNext : Nat := 0
  /-- frames sent and not acknowledged, at most 256: sequence, lane, replays, bytes -/
  unacked : List (Nat × Nat × Nat × List Byte) := []
  rxNext : Nat := 0
  rxHeld : List (Nat × List Byte) := []
  /-- time unit at which a frame went out last, and at which a frame held ahead arrived, by sequence (R355) -/
  sentAt : SMap Nat := []
  heldAt : SMap Nat := []
  /-- frames that an injection reorders: how many further frames of the class each still waits for (R380) -/
  reordered : List (Nat × List Byte) := []
  deriving DecidableEq, Repr

/-- A frame that waits for a lane's next frame slot (R356): its place in the order, its class and sequence if it is kept for
acknowledgement, and whether it is a replay (R355). -/
structure KlWait where
  rank : Nat
  cls : Option Nat := none
  seq : Nat := 0
  again : Bool := false
  bytes : List Byte
  deriving DecidableEq, Repr

/-- A link bundle (R350–R361). -/
structure Bundle where
  state : BundleState := .down
  trained : BitVec 24 := 0
  live : BitVec 24 := 0
  /-- time unit at which a lane left rotation, while it retrains (R371) -/
  dropped : SMap Nat := []
  /-- the cable-present contact is grounded, and the active-cable supply is on (R542) -/
  cable : Bool := false
  supply : Bool := false
  peerVersion : Nat := 1
  classes : SMap KlClass := []
  /-- last TIME frame received: its tx field and its arrival (R374) -/
  peerTx : BitVec 64 := 0
  peerTxAt : BitVec 64 := 0
  /-- sender state, depth and root of the peer's last TIME frame -/
  peerRoot : TimeState := .acquire
  peerDepth : Nat := 0
  peerRootModule : BitVec 16 := 0xFFFF
  timeHeard : Bool := false
  timeAt : Nat := 0
  nextLane : Nat := 0
  /-- frames that wait, when each lane's next frame slot begins in 1/10000 of a time unit, and frames since one of TC3 (R356) -/
  waiting : List KlWait := []
  laneFree : SMap Nat := []
  sinceTc3 : Nat := 64
  /-- time unit of the last HELLO (R361) -/
  helloAt : Nat := 0
  deriving DecidableEq, Repr

/-- A slot's progress since the job's beats last began (R364–R368), which is beat `Job.slotBase`: bytes accepted by the
receiving bundle, bytes written in the target row, deadlines passed, and times the slot has been sent. -/
structure SlotRun where
  taken : Nat := 0
  written : Nat := 0
  deadlines : Nat := 0
  sent : Nat := 0
  deriving DecidableEq, Repr

/-! ## Events, faults, sheets (R475–R492) -/

/-- A 16-byte event (R491). -/
structure Event where
  code : BitVec 16
  erg : Nat
  dune : Nat
  beat : W32
  value : W64
  deriving DecidableEq, Repr

/-- What a contact sheet holds (R486–R490): the header's fields and copies of the state it lays out. -/
structure Sheet where
  kind : Nat
  flags : Nat
  seq : Nat
  htc : Nat
  fault : Nat
  hardMismatch : Nat
  jobId : Nat
  firmware : Nat
  imageHash : BitVec 384
  jobKey : W64
  moduleKey : W64
  omitted : List Nat
  injection : Nat
  snapshot : List Byte
  eventLog : List Byte
  rows : SMap RowState
  threads : SMap ThreadState
  sram : List Host.Cell
  hbm : List Host.Cell
  debug : List (Nat × Nat)
  badCores : List Nat
  job : Option Job
  r : BitVec 384 := 0
  s : BitVec 384 := 0
  deriving DecidableEq, Repr

/-! ## Security and KOA (R405–R438, R500–R536) -/

/-- A client key (R509). -/
structure KeyEntry where
  point : List Byte
  level : Nat
  flags : Byte
  keyId : BitVec 384
  deriving DecidableEq, Repr

/-- A KOA session (R417–R420). -/
structure Session where
  num : Nat
  overMailbox : Bool
  /-- privilege 0–3 once AUTH has completed -/
  priv : Option Nat := none
  test : Bool := false
  testAsked : Bool := false
  keyId : BitVec 384 := 0
  hash : BitVec 384
  c2s : List Byte
  s2c : List Byte
  /-- highest seq received, the next REQUEST to process, and REQUESTs received ahead of it (R419) -/
  rxHigh : Nat := 1
  rxNext : Nat := 2
  waiting : List (Nat × KoaSrc × List Byte × Attach) := []
  txNext : Nat := 1
  /-- responses to the last 8 REQUESTs (R419) -/
  responses : List (Nat × List Byte) := []
  mask : W64 := 0
  evidence : List Byte := []
  /-- when the HELLO or the last REQUEST came (R420) -/
  heard : Nat := 0
  /-- its key has been removed while a REQUEST of it executes: it closes once that has been answered (R513) -/
  closing : Bool := false
  deriving DecidableEq, Repr

/-- Where the RESPONSE to a REQUEST goes once every operation of it has been answered (R422–R425): the way it came, its
seq, its body, and what the DMA engines read at the address its command names. -/
structure Reply where
  src : KoaSrc
  seq : Nat
  body : List Byte
  att : Attach
  deriving DecidableEq, Repr

/-- Writes of non-volatile objects that wait to be stored (R409): object keys with their new values, a new key table
(R510), and the request that they came in, with whether its command still waits for them. -/
structure NvWrite where
  via : Via
  items : List (Nat × Nat)
  keys : Option (List KeyEntry) := none
  reply : Option Reply := none
  /-- a command object writes them (R431, R510, R511), not WRITEs that stand before a command -/
  command : Bool := false
  deriving DecidableEq, Repr

/-- A command object's write that has not been answered yet (R425). -/
structure Answer where
  via : Via
  addr : Nat
  reply : Option Reply
  deriving DecidableEq, Repr

/-- Everything that leaves the module, in order: the block's outputs. -/
inductive Output where
  /-- a posted write of a function: host address and bytes (R397) -/
  | hostWrite (fn : Nat) (addr : Nat) (bytes : List Byte)
  /-- a memory read of a function (R397) -/
  | hostRead (fn : Nat) (addr : Nat) (bytes : Nat)
  /-- the reads of an image at its address on the host or on the stager (R388, R397), as one range: the manual gives them no order -/
  | imageRead (stager : Bool) (addr : Nat) (bytes : Nat)
  /-- an MSI-X message (R401) -/
  | msix (fn : Nat) (vec : Nat)
  /-- a completion of a BAR read; none is Unsupported Request -/
  | completion (value : Option (List Byte))
  /-- a control message sent on the mesh (R210) -/
  | mesh (msg : MeshMsg)
  /-- the wanted lengthening level sent to the beat master, whose form the manual leaves open (R242) -/
  | wantedLevel (level : Nat)
  /-- a KL frame sent on a bundle's lane (R353) -/
  | kl (bundle : Nat) (lane : Nat) (frame : List Byte)
  /-- a KOA message sent from a management port (R414) -/
  | koa (port : Nat) (msg : List Byte)
  /-- the result of a dictionary operation: abort code, total length, data (R423) -/
  | odResult (via : Via) (code : W32) (total : Nat) (data : List Byte)
  /-- a NOTIFY of a session: its seq, and the body's cause and HTC (R422) -/
  | notify (session seq : Nat) (cause : W64) (htc : Nat)
  deriving DecidableEq, Repr

/-- Host-port registers and buffers that no function owns (R392–R400). -/
structure Port where
  mailboxBusy : Bool := false
  mailboxReady : Bool := false
  mailboxLength : Nat := 0
  /-- place of the fabric aperture (R400) -/
  apertureBase : Nat := 0x01E000000000
  htcLatch : W32 := 0
  /-- retraining after a write of PcieBifurcation (R387) -/
  retraining : Bool := false
  linkUp : Bool := false
  /-- bytes of the stager's BAR (R388) -/
  stagerBar : Nat := 0
  /-- the partner's Max_Payload_Size up to 512 bytes and Max_Read_Request_Size up to 4,096, as codes: 128 · 2^code bytes (R397) -/
  payloadCode : Nat := 0
  readCode : Nat := 2
  deriving DecidableEq, Repr

/-- A copy of firmware in boot flash (R503): the package that the part left manufacture with, or one written since. -/
inductive FlashCopy where
  | factory
  | written (p : Package)
  deriving DecidableEq, Repr

/-- Security elements, boot flash and trust (R500–R536). -/
structure Security where
  keys : List KeyEntry := []
  /-- M0–M5 (R514) -/
  meas : Vector (BitVec 384) 6 := Vector.replicate 6 0
  /-- boot flash copies A and B of each erg, then of the power board (index 4) (R503, R532); none is invalid, and an
  unlisted copy is the factory's -/
  copyA : SMap (Option FlashCopy) := []
  copyB : SMap (Option FlashCopy) := []
  /-- the running package of each steward and of the power board -/
  running : SMap (Option FlashCopy) := []
  /-- stewards that have booted, bit e -/
  booted : BitVec 4 := 0
  /-- a steward rewritten once by recovery (R533) -/
  rewritten : BitVec 4 := 0
  /-- security elements that still serve (R508) -/
  serving : BitVec 4 := 15
  /-- package being installed (R532) -/
  install : Option Package := none
  /-- test attribute granted, injection or provocation since power-up (R516) -/
  testSeen : Bool := false
  injectSeen : Bool := false
  /-- evidence of mailbox session 0 -/
  evidence0 : List Byte := []
  helloSecond : Nat := 0
  hellos : Nat := 0
  nextSession : Nat := 1
  deriving DecidableEq, Repr

/-- A control message on its way (R212): the time unit at which its sender issued the header, and the nodes it has reached. -/
structure CtrlMsg where
  msg : MeshMsg
  sent : Nat
  reached : List Nat := []
  deriving DecidableEq, Repr

/-- An armed fault injection (R379) or provocation (R494), as the 256-bit value written. -/
structure Armed where
  value : BitVec 256
  /-- frames, flits or packets still to be affected (R379) -/
  left : Nat
  deriving DecidableEq, Repr

/-- What the last self-test left in the plates (R526): the test pattern in bank A of every usable site, in bank B too after an
extended one, stripped at `time` with each dune at its Tj. -/
structure PlateTest where
  extended : Bool
  time : Nat
  tj : SMap Int
  deriving DecidableEq, Repr

/-- A hard verdict on its way to the module steward (R88): where and in which beat, LastHardMismatch as it would record it, and
the further hard verdicts of its firing. -/
structure HardVerdict where
  erg : Nat
  dune : Nat
  row : Nat
  beat : Nat
  record : Nat
  more : Nat
  deriving DecidableEq, Repr

/-! ## Power, heat and coolant (R439–R471) -/

/-- One sensor pair (R450). Readings in 1/16 °C, the effective temperature in 1/32 °C. -/
structure Spot where
  failed1 : Bool := false
  failed2 : Bool := false
  flagged : Bool := false
  last1 : Int := 0
  last2 : Int := 0
  sampled : Bool := false
  eff : Int := 0
  /-- level of R452 -/
  level : Nat := 0
  /-- with both sensors failed: the values of N in the last second that no later one is below, by sample -/
  climb : List (Nat × Int) := []
  deriving DecidableEq, Repr

/-- Supply, thermal control and sideband state. -/
structure Power where
  pwrEn : Bool := false
  /-- usable feeds: bit 0 feed A, bit 1 feed B (R440); both at reset, with PWR_EN low (assumption 1) -/
  feeds : Nat := 3
  faultN : Bool := false
  thermTrip : Bool := false
  /-- when PWR_EN last fell (R547) -/
  lowSince : Nat := 0
  /-- SLOT_ID at the cabinet, open bits 1, and as sampled on entry into POWERING (R547) -/
  slotPins : BitVec 6 := 63
  slotId : BitVec 6 := 63
  /-- the module steward is lost, or every domain is off, until a power cycle (R446, R465) -/
  dead : Bool := false
  /-- dune domains are switched on (R447, R484) -/
  dunesUp : Bool := false
  /-- e-fuse states by domain key: 0 closed, 1 tripped, 2 held off (R445) -/
  efuse : SMap Nat := []
  spots : SMap Spot := []
  /-- samples taken since power-up, and how many of the last ones in a row saw FlowNominal (R531) -/
  samples : Nat := 0
  flowOk : Nat := 0
  /-- hottest spot at the start of the LengthenStep interval, in 1/32 °C, and when that interval and the LengthenRelax interval
  began (R453) -/
  stepBase : Int := 0
  stepAt : Nat := 0
  relaxAt : Nat := 0
  powerLengthening : Bool := false
  /-- the 10 ms average is above 21 kW (R453) -/
  overload : Bool := false
  /-- HBM stack temperature band: 0, 85, 95, 105, 115 (R461), and stacks that a restart waits for -/
  hbmBand : SMap Nat := []
  hbmHot : List Nat := []
  /-- the HTC second last counted in ColdSeconds, plus 1 (R460) -/
  lastColdSecond : Nat := 0
  /-- rises of HTC_PPS_OUT (R547) -/
  pps : Nat := 0
  deriving DecidableEq, Repr

/-- Counts of the second that the fallback check looks back over (R247). -/
structure FallbackBase where
  stretched : Nat := 0
  beats : Nat := 0
  clamped : Nat := 0
  fast : Nat := 0
  firings : Nat := 0
  precision : Nat := 0
  /-- HTC of the last post of the event, and the last whole second checked, in ns -/
  lastPost : Option Nat := none
  second : Option Nat := none
  deriving DecidableEq, Repr

/-! ## The whole machine -/

/-- Everything but the command queue. -/
structure Mach where
  /-- grade A4E, stepping B1: fixed at manufacture (R4–R6) -/
  gradeE : Bool := false
  steppingB1 : Bool := false
  /-- the model's own clock in units of 1/217 ns since power-up -/
  now : Nat := 0
  /-- HTC minus the clock, in ns (R214) -/
  htcOffset : Int := 0
  /-- MODEL'S OWN: the index of the next free value -/
  fresh : Nat := 0
  mode : ModState := .off
  threads : SMap ThreadState := []
  rows : SMap RowState := []
  dunes : SMap DuneState := []
  /-- islands other than dunes, by island key -/
  islands : SMap IslandState := []
  /-- offsets measured in the last second that no later one exceeds: time unit and ps (R224) -/
  offsets : List (Nat × Nat) := []
  queues : SMap QueueState := []
  /-- fabric SRAM by fabric address (R165); an unlisted byte reads 0x00 -/
  sram : List Host.Cell := []
  /-- HBM by byte address (R177); an unlisted byte reads 0x00 -/
  hbm : List Host.Cell := []
  /-- bytes stored over records and contact sheets, by HBM address (R94, R177, R178): the rest of those regions reads as the
  records and the sheet lay it out -/
  hbmPatch : SMap (Option Byte) := []
  /-- instruction stores by 8192·core + word (R124) -/
  istore : SMap W64 := []
  landings : List Landing := []
  loads : List LoadReq := []
  /-- time unit of the last read a scratchpad bank served, by row key (R169) -/
  bankServed : SMap Nat := []
  packets : List Packet := []
  /-- input buffers of routers by 4·(8·row key + input port) + class; the first flit is next (R195, R201) -/
  flits : SMap (List Flit) := []
  /-- the packet that holds an output's virtual channel, by 4·(8·row key + output port) + class, and the input port served last there
  (R201, R203) -/
  holders : SMap (Option Nat) := []
  turns : SMap Nat := []
  /-- class of the flit that an output port sent last, plus 1, and the time unit after its last TC3 flit (R203) -/
  lastSent : SMap Nat := []
  tc3Sent : SMap Nat := []
  /-- flits sent over a bridge in the cycle under way, by 2·(8·edge + bridge) + direction (R198) -/
  bridgeSent : SMap Nat := []
  /-- units at the arrival ports, by row key, in the order in which they are written (R167) -/
  arrivals : SMap (List PortUnit) := []
  /-- start of the cycle that the fabric runs next -/
  fabricAt : Nat := 0
  /-- dunes that were not usable when the primary route tables were written (R200, R262) -/
  avoided : List Nat := []
  /-- golden records by 2·vplate + half (R177, R332), and staged groups by 64·vplate + group (R335) -/
  golden : SMap (Option BankData) := []
  staging : SMap (Option BankData) := []
  /-- what self-test left in the plates, none before the first self-test or once a power cycle has lost it -/
  selftest : Option PlateTest := none
  /-- the extended self-test under way has started: each dune's Tj at its start (R459, R526) -/
  warming : Option (SMap Int) := none
  /-- non-volatile: the firmware that the stored coefficients come from (assumption 131), and the extended self-test that set
  them, 0 for the factory's (R113, R526) -/
  coeffFrom : FlashCopy := .factory
  coeffTest : Nat := 0
  /-- bask firings since bask began, and when it began (R459) -/
  baskFired : Nat := 0
  baskSince : Nat := 0
  /-- hard verdicts whose FAULT has not reached the module steward; when the recorded one reached it (R88) -/
  hardWaiting : List HardVerdict := []
  hardAt : Nat := 0
  /-- unit registers by fabric address (R188) -/
  unitRegs : SMap W64 := []
  /-- retired control-mesh lanes by link: a bit per lane (R213) -/
  ctlLanes : SMap Nat := []
  /-- control messages on their way, in the order in which they were sent (R212) -/
  ctrl : List CtrlMsg := []
  /-- ergs that wait for new route tables after a second OFF dune (R220) -/
  tablesStale : BitVec 4 := 0
  /-- 256-byte units served per pseudo-channel in the running window (R181) -/
  hbmServed : SMap Nat := []
  /-- bytes that all HBM transfers of the running window have moved (R181) -/
  hbmMoved : Nat := 0
  /-- time unit at which the running imbalance window began (R181) -/
  hbmWindow : Nat := 0
  /-- last event post of the imbalance event (R181) -/
  imbalancePost : Option Nat := none
  moduleKey : W64 := 0
  /-- accepted object values by 256·index + sub; an unlisted object holds its default (R405) -/
  od : SMap Nat := []
  /-- class B objects whose accepted value waits, each with the value in force (R410) -/
  waitingB : List (Nat × Nat) := []
  nvQueue : List NvWrite := []
  answers : List Answer := []
  /-- reads of objects of ergs 1–3 asked of their stewards (R438): tag, client, index, sub, offset, length -/
  odAsked : List (Nat × Via × Nat × Nat × Nat × Nat) := []
  job : Option Job := none
  repl : Option Replacement := none
  restart : Option Restart := none
  /-- time units at which restarts began (R483) -/
  restartTimes : List Nat := []
  /-- the beat of the pending unload or drain, none when none is pending (R529, R530) -/
  unloading : Bool := false
  draining : Bool := false
  /-- time unit at which the drain of the job or of a replacement began (R343, R529) -/
  drainSince : Nat := 0
  ctxs : SMap Context := []
  passes : List Pass := []
  chains : List Chain := []
  ledger : SMap Nat := []
  /-- entry lists fixed, by beat, and those delivered (R292) -/
  entries : SMap (List Pass) := []
  lastEntryFix : Option Nat := none
  /-- beats whose entry list has arrived at stage 0 and which have not started (R292) -/
  listsHere : List Nat := []
  driftGroup : Bool := false
  driftSince : Nat := 0
  orderCount : Nat := 0
  /-- HTC µs at which a P1 candidate last waited (R303) -/
  p1Waited : Nat := 0
  fns : SMap Fn := []
  /-- intake windows by 4096·function + offset (R275) -/
  intake : SMap Byte := []
  adapters : SMap Adapter := []
  /-- adapter containers being read, in order: id, container length, and the time unit at which the read issued (R310, R399) -/
  adapterWait : List (Nat × Nat × Nat) := []
  port : Port := {}
  /-- image offsets of the load or replacement under way whose read has failed once (R399) -/
  imageRetries : List Nat := []
  /-- BAR0 buffers by PF offset: mailbox buffers and window table (R392); MSI-X tables by 2^20 + 4096·function -/
  bar0 : SMap Byte := []
  bundles : SMap Bundle := []
  slotRuns : SMap SlotRun := []
  ctrlSeen : List (Nat × Nat) := []
  ctrlSeq : Nat := 0
  /-- the root's parent: a bundle, or none (R373) -/
  timeParent : Option Nat := none
  ptpHeard : Bool := false
  pendingStep : Int := 0
  injections : List Armed := []
  provocations : List Armed := []
  power : Power := {}
  fallback : FallbackBase := {}
  events : List Event := []
  raised : List FaultRec := []
  sheet : Option Sheet := none
  sheetWriting : Option Nat := none
  /-- the sheet being written is a full one cut to a summary (R466) -/
  sheetCut : Bool := false
  thumbnail : Option Sheet := none
  /-- the thumbnail in the power-board controller's flash (R465) -/
  flashThumb : Option Sheet := none
  sec : Security := {}
  sessions : List Session := []
  /-- fused defect map: plate sites and core sites marked bad, dunes unusable (R258) -/
  badSites : List Nat := []
  badCores : List Nat := []
  badDunes : List Nat := []
  /-- dunes that self-test has switched off until the next power-up (R527) -/
  selftestDunes : List Nat := []
  /-- the retirement list: site keys in order (R93, R437) -/
  retirement : List Nat := []
  out : List Output := []
  deriving DecidableEq, Repr

/-- The state of the block: the commands that wait, first in first out, and the machine. -/
structure State where
  pending : List Instr
  m : Mach
  deriving DecidableEq, Repr

/-- The reasons a step stops with a fault: the spec gives every command an effect, so no meaning raises one and the type
is empty. -/
inductive Fault where
  deriving DecidableEq, Repr

/-- The reasons a command has no meaning. `notModelled` stands for a row of the table not reached yet; no arm of exec
uses it now, and no meaning raises it. -/
inductive Refusal where
  | notModelled (mnemonic : String)
  deriving DecidableEq, Repr

/-- The module right after reset: PWR_EN low, so the module is in OFF with every object at its
default (R442, R409) and nothing in any memory or queue. -/
def State.reset : State := { pending := [], m := {} }

end Sys2Proof.Machine
end

