-- ==== Sys2Proof/Machine/Sparse.lean ====
section
/-! DEFINITION. The two operations over sparse maps, and byte memory over canonical cell lists. A map lists its keys in
rising order and lists no default, so equal maps are equal data. -/

namespace Sys2Proof.Machine

/-- The value at key `k`; `d` is what an unlisted key holds. -/
def sget {α : Type} (d : α) : SMap α → Nat → α
  | [], _ => d
  | (j, v) :: rest, k => if j = k then v else sget d rest k

/-- The map with key `k` listed at its place with value `v`. -/
def sput {α : Type} : SMap α → Nat → α → SMap α
  | [], k, v => [(k, v)]
  | (j, w) :: rest, k, v =>
    if j = k then (k, v) :: rest else if k < j then (k, v) :: (j, w) :: rest else (j, w) :: sput rest k v

/-- The map with key `k` holding `v`; storing the default unlists the key. -/
def sset {α : Type} [DecidableEq α] (d : α) (m : SMap α) (k : Nat) (v : α) : SMap α :=
  if v = d then m.filter fun e => e.1 != k else sput m k v

/-- Change the value at one key. -/
def supd {α : Type} [DecidableEq α] (d : α) (m : SMap α) (k : Nat) (f : α → α) : SMap α := sset d m k (f (sget d m k))

/-- Every listed key is at least `lo`, keys rise strictly, and no listed value is the default. -/
def canonFrom {α : Type} [DecidableEq α] (d : α) : Nat → List (Nat × α) → Bool
  | _, [] => true
  | lo, (j, v) :: rest => decide (lo ≤ j) && decide (v ≠ d) && canonFrom d (j + 1) rest

/-- The canonical form of a sparse map. -/
def canon {α : Type} [DecidableEq α] (d : α) (m : SMap α) : Bool := canonFrom d 0 m

/-- Every listed entry changed by `f`; an entry that becomes the default is unlisted. -/
def smap {α : Type} [DecidableEq α] (d : α) (m : SMap α) (f : Nat → α → α) : SMap α :=
  m.filterMap fun e => if f e.1 e.2 = d then none else some (e.1, f e.1 e.2)

/-- The keys for which the entry satisfies `p`. -/
def skeys {α : Type} (p : α → Bool) (m : SMap α) : List Nat := (m.filter fun e => p e.2).map (·.1)

/-! ## Byte memory

Fabric SRAM and HBM are lists of `Host.Cell`. An unlisted byte reads 0x00 (assumption 3, DESIGN CHOICE): the manual
gives memory no contents at power-on. -/

/-- One byte of a memory. -/
def readByte (mem : List Host.Cell) (a : Nat) : Byte := sget 0 mem a

/-- Memory with one byte written, in canonical form. -/
def writeByte (mem : List Host.Cell) (a : Nat) (b : Byte) : List Host.Cell := sset 0 mem a b

/-- `n` bytes from address `a` upward. -/
def readBytes (mem : List Host.Cell) (a : Nat) : Nat → List Byte
  | 0 => []
  | n + 1 => readByte mem a :: readBytes mem (a + 1) n

/-- Bytes written from address `a` upward. -/
def writeBytes (mem : List Host.Cell) (a : Nat) : List Byte → List Host.Cell
  | [] => mem
  | b :: bs => writeBytes (writeByte mem a b) (a + 1) bs

/-- The canonical form of a byte memory. -/
def Memory.wf (mem : List Host.Cell) : Bool := canon (0 : Byte) mem

/-! ## Little-endian fields (R10) -/

/-- The number spelled by bytes, least significant first. -/
def leNat : List Byte → Nat
  | [] => 0
  | b :: bs => b.toNat + 256 * leNat bs

/-- `n` bytes of a number, least significant first. -/
def leBytes : Nat → Nat → List Byte
  | 0, _ => []
  | n + 1, x => BitVec.ofNat 8 x :: leBytes n (x / 256)

/-- The field of `n` bytes at offset `o` of a byte string. -/
def field (bs : List Byte) (o n : Nat) : Nat := leNat ((bs.drop o).take n)

/-- A byte string cut or filled with 0x00 to n bytes. -/
def padTo (n : Nat) (bs : List Byte) : List Byte := bs.take n ++ List.replicate (n - bs.length) 0

/-! ## CRC-32C -/

/-- One bit of the reflected CRC-32C register, polynomial 0x1EDC6F41. -/
def crcBit (c : Nat) : Nat := if c % 2 = 1 then (c / 2) ^^^ 0x82F63B78 else c / 2

/-- CRC-32C with the register before the final inversion. -/
def crcFold (c : Nat) : List Byte → Nat
  | [] => c
  | b :: bs => crcFold (crcBit (crcBit (crcBit (crcBit (crcBit (crcBit (crcBit (crcBit (c ^^^ b.toNat)))))))) ) bs

/-- CRC-32C (Castagnoli) of a byte string. -/
def crc32c (bs : List Byte) : Nat := crcFold 0xFFFFFFFF bs ^^^ 0xFFFFFFFF

end Sys2Proof.Machine
end

