-- ==== Sys2Proof/Machine/Float.lean ====
section
/-! DEFINITION. Exact binary numbers and the one rounding of the engine, to nearest, ties to even (R138): the formats
binary32, BF16, FP16, E4M3, E5M2, E2M1, E2M3 and E3M2, and the operand cases of the vector arithmetic (R139–R141,
R551). A finite number is ±m·2^e; a result that is not exact carries a sticky bit, so that it is rounded once. -/

namespace Sys2Proof.Machine

/-- The value of a floating-point code. -/
inductive FV where
  | nan
  | inf (neg : Bool)
  | fin (neg : Bool) (m : Nat) (e : Int)
  deriving DecidableEq, Repr

/-- The number of significant bits of `n`. -/
def bitLen (n : Nat) : Nat := if n = 0 then 0 else n.log2 + 1

/-- `m·2^(e)` as an integer number of units `2^u`, for `u ≤ e`. -/
def scaleUp (m : Nat) (e u : Int) : Nat := m * 2 ^ (e - u).toNat

/-- Signed integer of a sign and magnitude. -/
def sgn (neg : Bool) (m : Nat) : Int := if neg then -(m : Int) else m

/-- `m / 2^k` rounded to nearest, ties to even; `st` says that the exact value lies above `m` by less than one unit. -/
def shiftRne (m k : Nat) (st : Bool) : Nat :=
  if k = 0 then m
  else
    let hi := m / 2 ^ k
    let lo := m % 2 ^ k
    let half := 2 ^ (k - 1)
    if lo > half || (lo == half && (st || hi % 2 == 1)) then hi + 1 else hi

/-- A floating-point format: `p` significant bits, `emin` the exponent of the least subnormal unit, `inf` the magnitude
code just above the largest finite one (the code of infinity where the format has one). -/
structure FFmt where
  p : Nat
  emin : Int
  inf : Nat
  deriving DecidableEq, Repr

def fp32 : FFmt := ⟨24, -149, 0x7F800000⟩
def bf16 : FFmt := ⟨8, -133, 0x7F80⟩
def fp16 : FFmt := ⟨11, -24, 0x7C00⟩
def e4m3 : FFmt := ⟨4, -9, 0x7F⟩
def e5m2 : FFmt := ⟨3, -16, 0x7C⟩
def e2m1 : FFmt := ⟨2, -1, 8⟩
def e2m3 : FFmt := ⟨4, -3, 32⟩
def e3m2 : FFmt := ⟨3, -4, 32⟩

/-- The finite value of a magnitude code. -/
def FFmt.decodeMag (f : FFmt) (neg : Bool) (x : Nat) : FV :=
  let ef := x / 2 ^ (f.p - 1)
  let frac := x % 2 ^ (f.p - 1)
  if ef = 0 then .fin neg frac f.emin else .fin neg (frac + 2 ^ (f.p - 1)) (f.emin + ef - 1)

/-- The magnitude code of `m·2^e` (sticky `st`) rounded once to the format; it may reach or pass `f.inf`. -/
def FFmt.roundMag (f : FFmt) (m : Nat) (e : Int) (st : Bool) : Nat :=
  if m = 0 then 0
  else
    let q := max (e + bitLen m - f.p) f.emin
    let hi := if q ≤ e then scaleUp m e q else shiftRne m (q - e).toNat st
    (q - f.emin).toNat * 2 ^ (f.p - 1) + hi

/-- An IEEE-style code of `w` bits: FP32, BF16, FP16, E5M2. -/
def decodeIeee (f : FFmt) (w x : Nat) : FV :=
  let neg := x / 2 ^ (w - 1) % 2 == 1
  let mag := x % 2 ^ (w - 1)
  if mag > f.inf then .nan else if mag = f.inf then .inf neg else f.decodeMag neg mag

/-- An E4M3 code (R26): 0x7F and 0xFF are NaN, no infinity. -/
def decodeE4m3 (x : Nat) : FV := if x % 128 = 127 then .nan else e4m3.decodeMag (x / 128 % 2 == 1) (x % 128)

/-- The sign bit of a `w`-bit code. -/
def signBit (w : Nat) (neg : Bool) : Nat := if neg then 2 ^ (w - 1) else 0

/-- A finite value with sticky bit, rounded to an IEEE-style format; beyond the largest finite value it is ±∞ (R139). -/
def packFin (f : FFmt) (w : Nat) (neg : Bool) (m : Nat) (e : Int) (st : Bool) : Nat :=
  signBit w neg + min (f.roundMag m e st) f.inf

/-! ## The types of VEC, CVT and CVTK4 (R136) -/

/-- Lane width in bits of a type code. -/
def tyWidth (ty : Nat) : Nat :=
  match ty with
  | 0 => 32 | 1 => 16 | 2 => 16 | 3 => 8 | 4 => 8 | 5 => 8 | 6 => 16 | _ => 32

def tyIsFp (ty : Nat) : Bool := ty ≤ 4

/-- VEC accepts codes 0–2 and 5–7. -/
def tyVec (ty : Nat) : Bool := ty ≤ 2 || (5 ≤ ty && ty ≤ 7)

def tyFmt (ty : Nat) : FFmt :=
  match ty with
  | 0 => fp32 | 1 => bf16 | 2 => fp16 | 3 => e4m3 | _ => e5m2

/-- The canonical NaN of a type: R139 for FP32, BF16 and FP16, R141 for FP8. -/
def tyNan (ty : Nat) : Nat :=
  match ty with
  | 0 => 0x7FC00000 | 1 => 0x7FC0 | 2 => 0x7E00 | 3 => 0x7F | _ => 0x7E

/-- The value of a lane of a floating-point type. -/
def tyDecode (ty x : Nat) : FV := if ty = 3 then decodeE4m3 x else decodeIeee (tyFmt ty) (tyWidth ty) x

/-- A value rounded into FP32, BF16 or FP16 (R139, R141). -/
def tyPack (ty : Nat) (v : FV) (st : Bool := false) : Nat :=
  match v with
  | .nan => tyNan ty
  | .inf neg => signBit (tyWidth ty) neg + (tyFmt ty).inf
  | .fin neg m e => packFin (tyFmt ty) (tyWidth ty) neg m e st

/-- A signed lane. -/
def laneInt (w x : Nat) : Int := if x % 2 ^ w < 2 ^ (w - 1) then (x % 2 ^ w : Nat) else (x % 2 ^ w : Nat) - (2 ^ w : Nat)

/-- An integer result written to a lane: wrapped modulo 2^w, or saturated to the type's range (R138). -/
def packInt (w : Nat) (sat : Bool) (x : Int) : Nat :=
  let lim : Int := (2 ^ (w - 1) : Nat)
  let y := if sat then (if x ≥ lim then lim - 1 else if x < -lim then -lim else x) else x
  (y % (2 ^ w : Nat)).toNat

/-! ## Exact arithmetic -/

/-- Sum of two finite numbers; an exact zero sum is −0 only of two negative operands. -/
def addFin (n1 : Bool) (m1 : Nat) (e1 : Int) (n2 : Bool) (m2 : Nat) (e2 : Int) : FV :=
  let u := min e1 e2
  let s := sgn n1 (scaleUp m1 e1 u) + sgn n2 (scaleUp m2 e2 u)
  if s = 0 then .fin (n1 && n2) 0 u else .fin (s < 0) s.natAbs u

def fvNeg : FV → FV
  | .nan => .nan
  | .inf n => .inf (!n)
  | .fin n m e => .fin (!n) m e

/-- x + y under the cases of R139. -/
def fvAdd : FV → FV → FV
  | .nan, _ => .nan
  | _, .nan => .nan
  | .inf a, .inf b => if a = b then .inf a else .nan
  | .inf a, .fin .. => .inf a
  | .fin .., .inf b => .inf b
  | .fin n1 m1 e1, .fin n2 m2 e2 => addFin n1 m1 e1 n2 m2 e2

/-- x · y, exact, under the cases of R139. -/
def fvMul : FV → FV → FV
  | .nan, _ => .nan
  | _, .nan => .nan
  | .inf a, .inf b => .inf (a != b)
  | .inf a, .fin n m _ => if m = 0 then .nan else .inf (a != n)
  | .fin n m _, .inf b => if m = 0 then .nan else .inf (n != b)
  | .fin n1 m1 e1, .fin n2 m2 e2 => .fin (n1 != n2) (m1 * m2) (e1 + e2)

/-- `⌊√n⌋` by bits, from bit `k − 1` down. -/
def isqrtFrom (n : Nat) : Nat → Nat → Nat
  | 0, r => r
  | k + 1, r => if (r + 2 ^ k) * (r + 2 ^ k) ≤ n then isqrtFrom n k (r + 2 ^ k) else isqrtFrom n k r

/-- `⌊√n⌋`. -/
def isqrt (n : Nat) : Nat := isqrtFrom n (bitLen n / 2 + 1) 0

/-- A value together with its sticky bit. -/
abbrev Rounded := FV × Bool

/-- x / y (R139). -/
def fvDiv : FV → FV → Rounded
  | .nan, _ => (.nan, false)
  | _, .nan => (.nan, false)
  | .inf _, .inf _ => (.nan, false)
  | .inf a, .fin n _ _ => (.inf (a != n), false)
  | .fin n _ _, .inf b => (.fin (n != b) 0 0, false)
  | .fin n1 m1 e1, .fin n2 m2 e2 =>
    if m2 = 0 then (if m1 = 0 then .nan else .inf (n1 != n2), false)
    else
      let a := m1 * 2 ^ 64
      (.fin (n1 != n2) (a / m2) (e1 - e2 - 64), decide (a % m2 ≠ 0))

/-- √x (R139). -/
def fvSqrt : FV → Rounded
  | .nan => (.nan, false)
  | .inf n => (if n then .nan else .inf false, false)
  | .fin n m e =>
    if m = 0 then (.fin n 0 e, false)
    else if n then (.nan, false)
    else
      let odd := (e % 2).toNat
      let a := m * 2 ^ (64 + odd)
      let s := isqrt a
      (.fin false s ((e - odd - 64) / 2), decide (s * s ≠ a))

/-- 1 / x (R139). -/
def fvRcp : FV → Rounded
  | .fin n m e => if m = 0 then (.inf n, false) else fvDiv (.fin false 1 0) (.fin n m e)
  | v => fvDiv (.fin false 1 0) v

/-- 1 / √x (R139). -/
def fvRsq : FV → Rounded
  | .nan => (.nan, false)
  | .inf n => (if n then .nan else .fin false 0 0, false)
  | .fin n m e =>
    if m = 0 then (.inf n, false)
    else if n then (.nan, false)
    else
      let odd := (e % 2).toNat
      let d := m * 2 ^ odd
      let s := isqrt (2 ^ 160 / d)
      (.fin false s (-((e - odd) / 2) - 80), decide (s * s * d ≠ 2 ^ 160))

/-- The terms y^k/k! of e^y in units 2^-320, added up from term `k`. -/
def expTerms (y : Nat) : Nat → Nat → Nat → Nat → Nat
  | 0, _, _, acc => acc
  | n + 1, k, term, acc => let t := term * y / (2 ^ 320 * k); expTerms y n (k + 1) t (acc + t)

/-- ln 2 in units 2^-320, from Σ 1/(k·2^k). -/
def ln2Fix : Nat → Nat → Nat → Nat
  | 0, _, acc => acc
  | n + 1, k, acc => ln2Fix n (k + 1) (acc + 2 ^ 320 / (k * 2 ^ k))

/-- 2^x (R139): a power of two for integer x, else irrational, computed to 320 fractional bits. -/
def fvExp2 : FV → Rounded
  | .nan => (.nan, false)
  | .inf n => (if n then .fin false 0 0 else .inf false, false)
  | .fin n m e =>
    if m = 0 then (.fin false 1 0, false)
    else if e + bitLen m > 20 then (if n then .fin false 1 (-100000) else .inf false, false)
    else
      -- x in units 2^-320: exact, for no operand type has a unit below 2^-149
      let x := sgn n (scaleUp m e (-320))
      let k := x / (2 ^ 320 : Nat)
      let f := (x % (2 ^ 320 : Nat)).toNat
      if f = 0 then (.fin false 1 k, false)
      else
        let y := f * ln2Fix 330 1 0 / 2 ^ 320
        (.fin false (expTerms y 90 1 (2 ^ 320) (2 ^ 320)) (k - 320), true)

/-- Binary digits of log2 of `z / 2^400`, for `z / 2^400` in [1, 2). -/
def log2Bits : Nat → Nat → Nat → Nat
  | 0, _, acc => acc
  | n + 1, z, acc =>
    let q := z * z / 2 ^ 400
    if q ≥ 2 ^ 401 then log2Bits n (q / 2) (2 * acc + 1) else log2Bits n q (2 * acc)

/-- log2 x (R139): an integer for a power of two, else irrational, computed to 160 fractional bits. -/
def fvLog2 : FV → Rounded
  | .nan => (.nan, false)
  | .inf n => (if n then .nan else .inf false, false)
  | .fin n m e =>
    if m = 0 then (.inf true, false)
    else if n then (.nan, false)
    else
      let k : Int := e + bitLen m - 1
      if m = 2 ^ (bitLen m - 1) then (.fin (k < 0) k.natAbs 0, false)
      else
        let t := k * (2 ^ 160 : Nat) + log2Bits 160 (m * 2 ^ (401 - bitLen m)) 0
        if t < 0 then (.fin true (t.natAbs - 1) (-160), true) else (.fin false t.toNat (-160), true)

/-- The order of VMIN and VMAX on codes of `w` bits without NaN: −0 is less than +0 (R139). -/
def fpKey (w x : Nat) : Int :=
  if x / 2 ^ (w - 1) % 2 = 1 then -((x % 2 ^ (w - 1) : Nat) : Int) - 1 else (x % 2 ^ (w - 1) : Nat)

/-- x < y and x = y for values that are not NaN (R551); −0 and +0 compare equal. -/
def fvLt : FV → FV → Bool
  | .nan, _ => false
  | _, .nan => false
  | .inf a, .inf b => a && !b
  | .inf a, .fin .. => a
  | .fin .., .inf b => !b
  | .fin n1 m1 e1, .fin n2 m2 e2 =>
    let u := min e1 e2
    decide (sgn n1 (scaleUp m1 e1 u) < sgn n2 (scaleUp m2 e2 u))

def fvEq : FV → FV → Bool
  | .nan, _ => false
  | _, .nan => false
  | .inf a, .inf b => a == b
  | .inf _, .fin .. => false
  | .fin .., .inf _ => false
  | .fin n1 m1 e1, .fin n2 m2 e2 =>
    let u := min e1 e2
    decide (sgn n1 (scaleUp m1 e1 u) = sgn n2 (scaleUp m2 e2 u))

/-- ±m·2^e rounded to the nearest integer, ties to even. -/
def rneInt (neg : Bool) (m : Nat) (e : Int) : Int :=
  if e ≥ 0 then sgn neg (scaleUp m e 0) else sgn neg (shiftRne m (-e).toNat false)

/-- ⌊log2 (m·2^e)⌋ for m ≠ 0. -/
def floorLog2 (m : Nat) (e : Int) : Int := e + bitLen m - 1

/-! ## Lanes of a vector register (R127) -/

/-- Lane `k` of width `w`. -/
def lane (w : Nat) (v : W512) (k : Nat) : Nat := v.toNat / 2 ^ (w * k) % 2 ^ w

/-- A vector register from its lanes of width `w`, lane 0 first; missing lanes are 0. -/
def ofLanes (w : Nat) (ls : List Nat) : W512 := BitVec.ofNat 512 (ls.foldr (fun x acc => x % 2 ^ w + 2 ^ w * acc) 0)

/-- All lanes of width `w`. -/
def lanes (w : Nat) (v : W512) : List Nat := (List.range (512 / w)).map (lane w v)

/-! ## Operand cases of VEC (R138–R140) -/

/-- Two-operand integer or floating-point lane operation. -/
def laneOp2 (ty : Nat) (sat : Bool) (fp : FV → FV → Rounded) (int : Int → Int → Int) (x y : Nat) : Nat :=
  if tyIsFp ty then (let r := fp (tyDecode ty x) (tyDecode ty y); tyPack ty r.1 r.2)
  else packInt (tyWidth ty) sat (int (laneInt (tyWidth ty) x) (laneInt (tyWidth ty) y))

/-- VMIN and VMAX choose a lane's code (R139). -/
def laneMin (max : Bool) (ty x y : Nat) : Nat :=
  let w := tyWidth ty
  if tyIsFp ty then
    if tyDecode ty x = .nan ∨ tyDecode ty y = .nan then tyNan ty
    else if (decide (fpKey w x < fpKey w y)) != max then x else y
  else if (decide (laneInt w x < laneInt w y)) != max then x else y

/-- VFMA: one rounding of the exact a·b + d. -/
def laneFma (ty : Nat) (sat : Bool) (x y z : Nat) : Nat :=
  if tyIsFp ty then tyPack ty (fvAdd (fvMul (tyDecode ty x) (tyDecode ty y)) (tyDecode ty z))
  else
    let w := tyWidth ty
    packInt w sat (laneInt w x * laneInt w y + laneInt w z)

/-- VCMP (R551): 0 EQ, 1 NE, 2 LT, 3 LE. -/
def laneCmp (ty cond x y : Nat) : Nat :=
  let w := tyWidth ty
  let eq := if tyIsFp ty then fvEq (tyDecode ty x) (tyDecode ty y) else decide (laneInt w x = laneInt w y)
  let lt := if tyIsFp ty then fvLt (tyDecode ty x) (tyDecode ty y) else decide (laneInt w x < laneInt w y)
  let r := match cond with
    | 0 => eq | 1 => !eq | 2 => lt | _ => lt || eq
  if r then 2 ^ w - 1 else 0

/-- One level of the reduction tree: lanes 2k and 2k + 1 (R140). -/
def pairUp (f : Nat → Nat → Nat) : List Nat → List Nat
  | x :: y :: rest => f x y :: pairUp f rest
  | l => l

/-- The binary tree of R140 over `n` levels. -/
def tree (f : Nat → Nat → Nat) : Nat → List Nat → List Nat
  | 0, l => l
  | n + 1, l => tree f n (pairUp f l)

/-- VRED and VRMAX (R140): FP16 and BF16 lanes are widened exactly to binary32; the result stands in the lowest bits. -/
def vecReduce (max : Bool) (ty : Nat) (v : W512) : W512 :=
  let w := tyWidth ty
  let wide := if tyIsFp ty then 0 else ty
  let ls := if tyIsFp ty ∧ ty ≠ 0 then (lanes w v).map (fun x => tyPack 0 (tyDecode ty x)) else lanes w v
  let f := if max then laneMin true wide
    else laneOp2 wide false (fun x y => (fvAdd x y, false)) (fun x y => x + y)
  BitVec.ofNat 512 ((tree f 6 ls).headD 0 % 2 ^ tyWidth wide)

/-! ## CVT (R141) -/

/-- One lane converted from type `s` to type `d`. -/
def cvtLane (s d x : Nat) : Nat :=
  if s = d then x % 2 ^ tyWidth s
  else
    let wd := tyWidth d
    let v : FV := if tyIsFp s then tyDecode s x
      else (let i := laneInt (tyWidth s) x; .fin (i < 0) i.natAbs 0)
    if tyIsFp d then
      if d = 3 then
        match v with
        | .nan => 0x7F
        | .inf n => signBit 8 n + 0x7E
        | .fin n m e => signBit 8 n + min (e4m3.roundMag m e false) 0x7E
      else if d = 4 then
        match v with
        | .nan => 0x7E
        | .inf n => signBit 8 n + 0x7C
        | .fin n m e => signBit 8 n + min (e5m2.roundMag m e false) 0x7B
      else tyPack d v
    else
      match v with
      | .nan => 0
      | .inf n => packInt wd true (if n then -(2 ^ 64 : Nat) else (2 ^ 64 : Nat))
      | .fin n m e => packInt wd true (rneInt n m e)

end Sys2Proof.Machine
end

