-- ==== Sys2Proof/Machine/Formats.lean ====
section
/-! DEFINITION. The K4 block and burst (R24–R35), the OCP MX formats (R39–R41) and the weight forms (R36–R38). -/

namespace Sys2Proof.Machine

/-! ## K4 blocks (R24–R35) -/

/-- The value of an E2M1 code (R24). -/
def e2m1Value (c : Nat) : FV := e2m1.decodeMag (c / 8 % 2 == 1) (c % 8)

/-- Byte `i` of a burst (R127). -/
def burstByte (v : W512) (i : Nat) : Nat := v.toNat / 2 ^ (8 * i) % 256

/-- The element code k of block b of a burst (R27, R28). -/
def burstCode (v : W512) (b k : Nat) : Nat := v.toNat / 2 ^ (64 * b + 4 * k) % 16

def burstScale (v : W512) (b : Nat) : Nat := burstByte v (56 + b)

def burstZeroBit (v : W512) (b : Nat) : Bool := burstByte v 63 / 2 ^ b % 2 == 1

/-- The classes of R31. -/
inductive BlockClass where
  | zero | malformed | ordinary
  deriving DecidableEq, Repr

/-- R31: the first test that holds. -/
def classify (zeroBit : Bool) (scale : Nat) (codes : List Nat) : BlockClass :=
  if zeroBit then .zero
  else if scale % 128 = 0 then .zero
  else if scale % 128 = 127 ∨ scale ≥ 128 then .malformed
  else if codes.all (fun c => c % 8 == 0) then .zero
  else .ordinary

/-- Block b of a burst: its class and its 16 values, each m·2^-10 with sign (R27): an E2M1 value is a multiple of 2^-1 and
an E4M3 value one of 2^-9. -/
def readBlock (v : W512) (b : Nat) : BlockClass × List Int :=
  let codes := (List.range 16).map (burstCode v b)
  let c := classify (burstZeroBit v b) (burstScale v b) codes
  match c with
  | .ordinary => (c, codes.map fun k =>
      match fvMul (e2m1Value k) (decodeE4m3 (burstScale v b)) with
      | .fin n m e => sgn n (scaleUp m e (-10))
      | _ => 0)
  | _ => (c, List.replicate 16 0)

/-- A block as a converter writes it: 8 data bytes as a number, scale, class zero, and what it counts (R33). -/
structure K4Block where
  data : Nat
  scale : Nat
  zero : Bool
  sat : Bool
  nans : Nat
  underflow : Bool
  deriving DecidableEq, Repr

/-- The magnitude of a value in comparisons: infinity is larger than any finite value. -/
def magLt : FV → FV → Bool
  | .fin _ m1 e1, .fin _ m2 e2 => let u := min e1 e2; decide (scaleUp m1 e1 u < scaleUp m2 e2 u)
  | .fin .., .inf _ => true
  | _, _ => false

/-- max |v_k| (R33 step 2). -/
def magMax : List FV → FV
  | [] => .fin false 0 0
  | v :: rest => let r := magMax rest; if magLt r v then v else r

/-- The smallest E4M3 code whose value is at least a / 6, clamped to 0x01–0x7E (R33 step 4). -/
def k4Scale (a : FV) : Nat :=
  match a with
  | .fin _ m e =>
    (((List.range 126).map (· + 1)).find? fun c => !magLt (fvMul (.fin false 6 0) (decodeE4m3 c)) (.fin false m e)).getD 0x7E
  | _ => 0x7E

/-- v / s rounded to E2M1 (R33 step 5): the code, 0b0000 for a zero, and whether it saturated. -/
def k4Element (s : Nat) (v : FV) : Nat × Bool :=
  match v with
  | .nan => (0, false)
  | .inf n => (signBit 4 n + 7, true)
  | .fin n m e =>
    let q := fvDiv (.fin false m e) (decodeE4m3 s)
    match q.1 with
    | .fin _ qm qe =>
      let c := min (e2m1.roundMag qm qe q.2) 7
      (if c = 0 then 0 else signBit 4 n + c, magLt (fvMul (.fin false 6 0) (decodeE4m3 s)) (.fin false m e))
    | _ => (0, false)

/-- Codes packed 2 per byte (R27). -/
def packCodes (codes : List Nat) : Nat := codes.foldr (fun c acc => c % 16 + 16 * acc) 0

/-- R33: 16 source values into one K4 block. -/
def encodeK4 (vs : List FV) : K4Block :=
  let nans := (vs.filter (· == .nan)).length
  let src := vs.map fun v => if v = .nan then .fin false 0 0 else v
  let a := magMax src
  match a with
  | .fin _ 0 _ => ⟨0, 0, true, false, nans, false⟩
  | _ =>
    let s := k4Scale a
    let es := src.map (k4Element s)
    let codes := es.map (·.1)
    if codes.all (· == 0) then ⟨0, 0, true, false, nans, true⟩
    else ⟨packCodes codes, s, false, es.any (·.2), nans, false⟩

/-- The bits of `v` outside `[lo, lo + n)`, with `x` there. -/
def spliceBits (v lo n x : Nat) : Nat := v % 2 ^ lo + 2 ^ lo * (x % 2 ^ n) + 2 ^ (lo + n) * (v / 2 ^ (lo + n))

/-- Seven empty positions (R30, R142): only the zero_mask is set. -/
def emptyBurst : W512 := BitVec.ofNat 512 (0x7F * 2 ^ 504)

/-- A block written into position b of a burst: data, scale, zero_mask bit and, if it saturated, sat_seen (R142). -/
def putBlock (v : W512) (b : Nat) (k : K4Block) : W512 :=
  let x := spliceBits v.toNat (64 * b) 64 k.data
  let x := spliceBits x (8 * (56 + b)) 8 k.scale
  let x := spliceBits x (504 + b) 1 (if k.zero then 1 else 0)
  BitVec.ofNat 512 (if k.sat then spliceBits x 511 1 1 else x)

/-- DCK4 (R142): block b as 16 FP32 lanes and whether it is malformed; −0 decodes to +0.0. -/
def decodeK4 (v : W512) (b : Nat) : W512 × Bool :=
  let r := readBlock v b
  (ofLanes 32 (r.2.map fun x => if x = 0 then 0 else tyPack 0 (.fin (x < 0) x.natAbs (-10))), r.1 == .malformed)

/-! ## OCP MX (R39–R41) -/

/-- Element width in bits of an MX format code (R136). -/
def mxWidth (f : Nat) : Nat :=
  match f with
  | 0 => 4 | 1 => 6 | 2 => 6 | _ => 8

def mxFmt (f : Nat) : FFmt :=
  match f with
  | 0 => e2m1 | 1 => e2m3 | 2 => e3m2 | 3 => e4m3 | _ => e5m2

/-- An MX element (R39; assumption 21): NaN and infinity codes exist in the FP8 formats only. -/
def mxElement (f x : Nat) : FV :=
  match f with
  | 5 => let i := laneInt 8 x; .fin (i < 0) i.natAbs (-6)
  | 3 => decodeE4m3 x
  | 4 => decodeIeee e5m2 8 x
  | _ => (mxFmt f).decodeMag (x / 2 ^ (mxWidth f - 1) % 2 == 1) (x % 2 ^ (mxWidth f - 1))

/-- emax of R41. -/
def mxEmax (f : Nat) : Int :=
  match f with
  | 0 => 2 | 1 => 2 | 2 => 4 | 3 => 8 | 4 => 15 | _ => 0

/-- The codes of an MX block in the layout of R143. -/
def mxCodes (f : Nat) (v : W512) : List Nat :=
  (List.range 32).map fun k => v.toNat / 2 ^ (mxWidth f * k) % 2 ^ mxWidth f

/-- The E4M3 code of 2^k for −9 ≤ k ≤ 8. -/
def e4m3Pow2 (k : Int) : Nat := if k ≥ -6 then (k + 7).toNat * 8 else 2 ^ (k + 9).toNat

/-- One half of an MXFP4 block that converts without loss (R40). -/
def mxCopyHalf (codes : List Nat) (k : Int) : K4Block :=
  let cs := codes.map fun c => if c = 8 then 0 else c
  ⟨packCodes cs, e4m3Pow2 k, cs.all (· == 0), false, 0, false⟩

/-- R40: an MX block as two K4 blocks. -/
def mxToK4 (f : Nat) (v : W512) : K4Block × K4Block :=
  let codes := mxCodes f v
  let x := burstByte v 63
  let k : Int := x - 127
  if x = 255 then (⟨0, 0, true, false, 16, false⟩, ⟨0, 0, true, false, 16, false⟩)
  else if f = 0 ∧ -9 ≤ k ∧ k ≤ 8 then (mxCopyHalf (codes.take 16) k, mxCopyHalf (codes.drop 16) k)
  else
    let vals := codes.map fun c => fvMul (mxElement f c) (.fin false 1 k)
    (encodeK4 (vals.take 16), encodeK4 (vals.drop 16))

/-- One element on store (R41 step 4): code and saturation. An MXFP4 zero is written 0b0000 (R25). DEDUCED: MXINT8's largest finite
magnitude is 127/64 on both sides, so its code 0x80 is never written (assumption 21). -/
def mxStoreElement (f : Nat) (k : Int) (v : FV) : Nat × Bool :=
  match v with
  | .nan => (0, false)
  | .inf n => if f = 5 then (if n then 129 else 127, true) else
      (signBit (mxWidth f) n + ((mxFmt f).inf - 1), true)
  | .fin n m e =>
    if f = 5 then
      let i := rneInt n m (e - k + 6)
      let j := if i > 127 then 127 else if i < -127 then -127 else i
      ((j % 256).toNat, i != j || magLt (.fin false 127 (-6)) (.fin false m (e - k)))
    else
      let fm := mxFmt f
      let c := min (fm.roundMag m (e - k) false) (fm.inf - 1)
      ((if f = 0 ∧ c = 0 then 0 else signBit (mxWidth f) n + c), magLt (fm.decodeMag false (fm.inf - 1)) (.fin false m (e - k)))

/-- R41, R143: 32 binary32 values into one MX block: the register, NanElements and MxStoreSaturations. -/
def k4ToMx (f : Nat) (vs : List FV) : W512 × Nat × Nat :=
  let nans := (vs.filter (· == .nan)).length
  let src := vs.map fun v => if v = .nan then .fin false 0 0 else v
  let x : Int := match magMax src with
    | .fin _ 0 _ => 0
    | .fin _ m e => max 0 (min 254 (floorLog2 m e - mxEmax f + 127))
    | _ => 254
  let zero := match magMax src with
    | .fin _ 0 _ => true
    | _ => false
  let es := if zero then List.replicate 32 (0, false) else src.map (mxStoreElement f (x - 127))
  let body := es.foldr (fun c acc => c.1 % 2 ^ mxWidth f + 2 ^ mxWidth f * acc) 0
  (BitVec.ofNat 512 (spliceBits body 504 8 x.toNat), nans, (es.filter (·.2)).length)

/-! ## Weight forms (R36–R38, R552) -/

/-- A weight scale is valid if it is zero or positive and not NaN (R26). -/
def scaleValid (s : Byte) : Bool := s.toNat % 128 == 0 || (s.toNat < 127)

/-- Element i of a weight stream of a form: 0 K4, 1 K3, 2 K2, 3 KT, as the signed value (R36, R37). -/
def weightElement (form : Nat) (bytes : List Byte) (i : Nat) : Int :=
  let bits := fun (w : Nat) => leNat ((bytes.drop (w * i / 8)).take 2) / 2 ^ (w * i % 8) % 2 ^ w
  match form with
  | 0 => laneInt 4 (bits 4)
  | 1 => laneInt 3 (bits 3)
  | 2 => laneInt 2 (bits 2)
  | _ => ((((bytes.drop (i / 5)).headD 0).toNat / 3 ^ (i % 5) % 3 : Nat) : Int) - 1

/-- A signed value as a two's-complement code of w bits. -/
def toCode (w : Nat) (x : Int) : Nat := (x % (2 ^ w : Nat)).toNat

end Sys2Proof.Machine
end

