-- ==== Sys2Proof/Config.lean ====
section
/-! DEFINITION. What the spec leaves open, as constants without a body: nothing in Lean can evaluate one or prove a value
of one, so a claim holds whatever they are. A function of the draw counter `Mach.fresh` gives a new value at each draw. -/

namespace Sys2Proof

/-- Where the manual lets a race give either value, whether the new one is taken; one draw per 64-byte unit (R148, R185). -/
opaque Config.raceTakesNew : Nat → Bool

/-- What decides the distribution that a loaded image's programs compute at a position (R304, R305): the main model or the draft stages;
the image's digest; the weights, as key, cell codes, scales and packing of each bank (R36, R94); the adapter's bytes; the temperature; and
the ids of the text before. `noise` is 0 where these alone decide it (R52), else a draw that stands for what fast firings and compressed
negatives add. -/
structure ModelQuery where
  main : Bool
  noise : Nat
  image : BitVec 384
  weights : List (Nat × List (Nat × BitVec 4) × List (Nat × Byte) × Bool)
  adapter : List Byte
  temperature : BitVec 16
  text : List W32
  deriving DecidableEq, Repr

/-- The weight of each token id in that distribution: the programs and the weights decide it. -/
opaque Config.tokenWeight : ModelQuery → (id : Nat) → Nat

/-- draw and sample of R305, by seed, position and draw index: draw over 2^64, and the place that sample picks in a distribution. -/
opaque Config.seedDraw : (seed : W64) → (position index : Nat) → W64
opaque Config.seedSample : (seed : W64) → (position index : Nat) → List (Nat × Rat) → Nat

/-- Where the serving firmware keeps a prompt in the firmware area, and ids and lists in a firmware scratch region, by draw (R285, R291). -/
opaque Config.promptPlace : Nat → Nat
opaque Config.scratchPlace : Nat → Nat

/-- A byte that the manual leaves open (host memory not yet read, a lost word). -/
opaque Config.freeByte : Nat → Byte

/-- A 64-bit value that the manual leaves open. -/
opaque Config.freeWord : Nat → W64

/-- What the ADC of a column converts in one step of a fast firing, by draw (R69, R78): the analog part decides it. -/
opaque Config.adcCode : Nat → Int

/-- The temperature coefficient of a column that the steward holds, in 1/°C: the factory's, or that of the extended self-test
of a draw; by site key and column, bank B's columns from 1,024 on (R113, R526). -/
opaque Config.storedCoefficient : Nat → Nat → Nat → Rat

/-- One of the 14 values ±1 to ±7 of a proof vector: by the draw that seeds the strip, and the input's number (R106, R508). -/
opaque Config.proofInput : Nat → Nat → Fin 14

/-- The cell codes of self-test's test pattern, by cell (R526), and the factory's aligned bask input by draw and row (R459). -/
opaque Config.testPattern : Nat → BitVec 4
opaque Config.baskInput : Nat → Nat → BitVec 8

/-- Whether a well-formed unit-control address names a register: the manual publishes no register numbers (R157, R188). -/
opaque Config.unitRegister : Nat → Bool

/-- What SLD reads at a unit register's address, by the value last written there and a draw (R157). -/
opaque Config.unitRead : Nat → W64 → Nat → W64

/-! ### Cryptography: the algorithms' results, not their arithmetic (R254, R417, R501, R516) -/

/-- SHA-384 of a byte string. -/
opaque Config.sha384 : List Byte → BitVec 384

/-- Whether (r, s) is an ECDSA signature on brainpoolP384r1 of a digest by the key whose key_id is given. -/
opaque Config.ecdsaVerify : (keyId digest r s : BitVec 384) → Bool

/-- The X coordinate of the ECDH result of a client's point and the engine's ephemeral key of a draw (R417, R418). -/
opaque Config.ecdhX : List Byte → Nat → List Byte

/-- The point of the engine's ephemeral key of a draw (R417, R508). -/
opaque Config.ephemeralPoint : Nat → List Byte

/-- Bytes from the random bit generator of a draw (R508). -/
opaque Config.drbg : (draw length : Nat) → List Byte

/-- HKDF with SHA-384: salt, input, info and length (R418). -/
opaque Config.hkdf : (salt input info : List Byte) → Nat → List Byte

/-- AES-256-GCM: ciphertext followed by the tag, and the plaintext where the tag is right (R415). -/
opaque Config.gcmSeal : (key nonce aad plain : List Byte) → List Byte
opaque Config.gcmOpen : (key nonce aad sealed_ : List Byte) → Option (List Byte)

/-- (r, s) of DevID over a digest, by the draw that the signature takes (R417, R488, R516). -/
opaque Config.devIdSign : BitVec 384 → Nat → BitVec 384 × BitVec 384

/-- Whether 97 bytes are an uncompressed point of the curve (R510). -/
opaque Config.onCurve : List Byte → Bool

/-! ### What each part carries from manufacture (R430, R500, R507, R514) -/

opaque Config.serialNumber : List Byte
opaque Config.pcieVendor : BitVec 16
opaque Config.pcieDevice : BitVec 16
opaque Config.rootKeyHash : Fin 4 → BitVec 384
opaque Config.devIdPoint : List Byte
opaque Config.devIdCertificate : List Byte
opaque Config.deviceCaCertificate : List Byte

/-- SHA-384 of the boot ROM of erg 0 (R514). -/
opaque Config.bootRomDigest : BitVec 384

/-- Version and digest of the firmware that a part leaves manufacture with: steward firmware, and power-board firmware. -/
opaque Config.factoryVersion : W32
opaque Config.factoryDigest : Bool → BitVec 384

/-- The vendor key list of a firmware version (R512). -/
opaque Config.vendorKeys : W32 → List (BitVec 384)

/-- DESCRIBE's length field of an object longer than 32 bits hold (R423 gives none). -/
opaque Config.longLength : Nat → W32

/-- Time in ns that the work of a restart takes, and that a time choice of the engine takes (R481, R363), by draw. -/
opaque Config.restartWork : Nat → Nat

/-! ### What a multi-module hall fixes outside the module (R362, R367, R370) -/

/-- H of R370 for a module list, in ns. -/
opaque Config.hallH : List (BitVec 16) → Nat

/-- The row key of the router that faces a bundle's edge field (R365, R367). -/
opaque Config.edgeRow : Nat → Nat

/-- The row key of the router whose edge port leads to another port island, by control-mesh node (R197, R209). -/
opaque Config.portRow : Nat → Nat

/-- How a copy in HOLDOVER drifts by a draw, in 2^-16 ns per 10 ms, 65,536 being none (R216). -/
opaque Config.holdoverDrift : Nat → Fin 131073

/-- Cycles beyond the first that a flit takes over an island boundary, by draw (R195, R197, R198). -/
opaque Config.crossing : Nat → Nat

/-- Mesh hops on another module between a row and its bundle's router, by virtual address (R367). -/
opaque Config.remoteHops : W64 → Nat

/-- The time in ns that the stitch and bridge crossings of that path add to its bound (R205, R367). -/
opaque Config.remoteCrossings : W64 → Nat

/-- The time root of the beat master, by its ModuleId (R362). -/
opaque Config.masterRoot : BitVec 16 → BitVec 16

end Sys2Proof
end

