-- ==== Sys2Proof/Machine/Container.lean ====
section
/-! DEFINITION. The container of an image, read from its bytes: the header (R251), the section table (R252), the signature section
(R254), the bank entries of the weights section (R552), and the slot entries of a multi-module job (R364). -/

namespace Sys2Proof

open Sys2Proof.Machine

/-! ## The header (R251) -/

/-- KE8IMAGE. -/
def imageMagic : List Byte := [0x4B, 0x45, 0x38, 0x49, 0x4D, 0x41, 0x47, 0x45]

/-- Magic, format_version and header_size are right. -/
def Image.magicOk (img : Image) : Bool :=
  img.file.take 8 == imageMagic && field img.file 8 2 == 1 && field img.file 10 2 == 256

def Image.sectionCount (img : Image) : Nat := field img.file 12 4
def Image.imageLength (img : Image) : Nat := field img.file 16 8
def Image.buildId (img : Image) : W64 := BitVec.ofNat 64 (field img.file 24 8)
def Image.basePeriod (img : Image) : Nat := field img.file 32 4
def Image.wideMarginNs (img : Image) : Nat := field img.file 36 4
def Image.widePolicy (img : Image) : Nat := field img.file 40 1
def Image.proofFactor (img : Image) : Nat := field img.file 41 1
def Image.grades (img : Image) : Nat := field img.file 42 1
def Image.steppings (img : Image) : Nat := field img.file 43 1
def Image.latencyMode (img : Image) : Nat := field img.file 44 1
def Image.modules (img : Image) : Nat := field img.file 45 1
def Image.lanes (img : Image) : Nat := field img.file 46 2
def Image.stages (img : Image) : Nat := field img.file 48 2
def Image.virtualDunes (img : Image) : Nat := field img.file 50 2
def Image.securityVersion (img : Image) : Nat := field img.file 52 4
def Image.hbmAllotmentMin (img : Image) : Nat := field img.file 56 8

/-- Bytes of a range are all 0x00. -/
def zeroBytes (bs : List Byte) (first n : Nat) : Bool := ((bs.drop first).take n).all (· == 0)

def Image.reservedZero (img : Image) : Bool := zeroBytes img.file 64 192

/-! ## The section table (R252) -/

/-- The table entry in 32 bytes. -/
def sectionEntry (bs : List Byte) : SectionEntry where
  type := field bs 0 2
  variant := field bs 2 1
  flags := field bs 3 1
  reservedZero := zeroBytes bs 4 4 && zeroBytes bs 28 4
  offset := field bs 8 8
  length := field bs 16 8
  crc := BitVec.ofNat 32 (field bs 24 4)

/-- The section table, of at most 4,096 entries. -/
def Image.sections (img : Image) : List SectionEntry :=
  (List.range (min img.sectionCount 4096)).map fun i => sectionEntry ((img.file.drop (256 + 32 * i)).take 32)

/-- The bytes of a section. -/
def Image.body (img : Image) (e : SectionEntry) : List Byte := (img.file.drop e.offset).take e.length

/-- The first section of a type. -/
def Image.sectionOf (img : Image) (type : Nat) : Option SectionEntry := img.sections.find? fun e => e.type == type

/-! ## Signatures and digests (R254) -/

def sigType : Nat := 0x00F0

/-- A signature block in 160 bytes. -/
def sigBlock (bs : List Byte) : SigBlock where
  kind := field bs 0 2
  reservedZero := zeroBytes bs 2 14
  keyId := BitVec.ofNat 384 (field bs 16 48)
  r := BitVec.ofNat 384 (field bs 64 48)
  s := BitVec.ofNat 384 (field bs 112 48)

/-- The bytes of the signature section. -/
def Image.sigBytes (img : Image) : List Byte := ((img.sectionOf sigType).map img.body).getD []

def Image.signatures (img : Image) : List SigBlock :=
  (List.range (img.sigBytes.length / 160)).map fun i => sigBlock ((img.sigBytes.drop (160 * i)).take 160)

/-- D: SHA-384 of every byte before the signature section. -/
def Image.digest (img : Image) : BitVec 384 :=
  Config.sha384 (img.file.take (((img.sectionOf sigType).map (·.offset)).getD img.file.length))

/-- What a kind-1 block signs: SHA-384 of the firmware segments, in table order. -/
def Image.firmwareDigest (img : Image) : BitVec 384 :=
  Config.sha384 ((img.sections.filter fun e => e.flags % 2 == 1).flatMap img.body)

/-- A section of the table is a firmware segment (R252). -/
def Image.isFirmware (img : Image) (sect : Nat) : Bool := (img.sections[sect]?.map fun e => e.flags % 2 == 1).getD false

/-! ## Weights (R552) -/

/-- The bank entries in the bytes of a weights section; each begins at a multiple of 64. -/
def bankEntries : Nat → List Byte → List WeightEntry
  | 0, _ => []
  | fuel + 1, bs =>
    if bs.isEmpty then []
    else
      let stream := field bs 16 4
      let scales := field bs 20 4
      { vplate := field bs 0 8, group := field bs 8 1, form := field bs 9 1, elementCount := field bs 12 4, streamBytes := stream
        scaleCount := scales, stream := (bs.drop 32).take stream, scales := (bs.drop (32 + stream)).take scales }
      :: bankEntries fuel (bs.drop (64 * ceilDiv (32 + stream + scales) 64))

def Image.weights (img : Image) : List WeightEntry :=
  match img.sectionOf 0xD with
  | some e => bankEntries (e.length / 32 + 1) (img.body e)
  | none => []

/-! ## Firmware packages (R502) -/

/-- KE8FWPKG. -/
def packageMagic : List Byte := [0x4B, 0x45, 0x38, 0x46, 0x57, 0x50, 0x4B, 0x47]

def Package.magicOk (p : Package) : Bool := p.file.take 8 == packageMagic
def Package.imageType (p : Package) : Nat := field p.file 8 1
def Package.securityVersion (p : Package) : Nat := field p.file 12 4
def Package.version (p : Package) : W32 := BitVec.ofNat 32 (field p.file 16 4)
def Package.bodyLength (p : Package) : Nat := field p.file 24 8

/-- key_id of the signing key: SHA-384 of its point (R501, R502). -/
def Package.keyHash (p : Package) : BitVec 384 := Config.sha384 ((p.file.drop 32).take 97)

def Package.r (p : Package) : BitVec 384 := BitVec.ofNat 384 (field p.file 160 48)
def Package.s (p : Package) : BitVec 384 := BitVec.ofNat 384 (field p.file 208 48)

/-- The package digest: SHA-384 of bytes 0 to 159 and the body. -/
def Package.digest (p : Package) : BitVec 384 := Config.sha384 (p.file.take 160 ++ (p.file.drop 256).take p.bodyLength)

/-! ## Slots (R364) -/

/-- The slot entry in 48 bytes. -/
def slotEntry (bs : List Byte) : Slot where
  sound := (field bs 0 1 == 1 || (field bs 0 1 == 2 && zeroBytes bs 16 8)) && field bs 1 1 < 8 && field bs 36 1 < 16 && zeroBytes bs 38 10
  send := field bs 0 1 == 1
  bundle := Fin.ofNat 8 (field bs 1 1)
  peer := field bs 2 2
  start := field bs 4 4
  deadline := field bs 8 4
  length := field bs 12 4
  source := BitVec.ofNat 64 (field bs 16 8)
  target := BitVec.ofNat 64 (field bs 24 8)
  generation := BitVec.ofNat 32 (field bs 32 4)
  window := Fin.ofNat 16 (field bs 36 1)
  lanes := field bs 37 1

def Image.slots (img : Image) : List Slot :=
  (List.range (img.slotTable.length / 48)).map fun i => slotEntry ((img.slotTable.drop (48 * i)).take 48)

end Sys2Proof
end

