-- ==== Sys2Proof/Machine/Objects.lean ====
section
/-! DEFINITION. The object dictionary: the attributes of every object (R405–R410, R428–R437), stored values, and counters.
The rows below are the tables of the chapters, column for column. -/

namespace Sys2Proof.Machine

/-- An object's attributes. `ty` is the type code of R406; `acc` 0 RO, 1 RW, 2 WO, 3 CONST (R407); `cls` 0 S, 1 B, 2 L
(R410); `dflt` the default, the bytes of an OCTETS read little-endian; `lo`–`hi` the range of an integer write; `len` the
size, or the maximum length of a variable STR or OCTETS (`fixed` false); `priv` the privilege of the write of an RW or WO
object and of the read of any other (R408: 0 Observer, 1 Operator, 2 Owner, 3 Vendor); `nv` non-volatile (R409); `test`
the test attribute is needed. -/
structure ObjInfo where
  idx : Nat
  sub : Nat
  ty : Nat
  acc : Nat
  cls : Nat
  dflt : Nat
  lo : Nat
  hi : Nat
  len : Nat
  fixed : Bool
  priv : Nat
  nv : Bool
  test : Bool
  deriving DecidableEq, Repr

/-- Objects of 0x1000, 0x1100 (R430, R431). -/
def objsIdentity : List ObjInfo := [
  ⟨0x1000, 0, 2, 3, 0, 10, 0, 255, 1, true, 0, false, false⟩,  -- Identity
  ⟨0x1000, 1, 12, 3, 0, 0, 0, 0, 32, false, 0, false, false⟩,  -- VendorName
  ⟨0x1000, 2, 12, 3, 0, 0, 0, 0, 32, false, 0, false, false⟩,  -- ProductName
  ⟨0x1000, 3, 12, 3, 0, 0, 0, 0, 32, false, 0, false, false⟩,  -- PartNumber
  ⟨0x1000, 4, 2, 3, 0, 0, 0, 255, 1, true, 0, false, false⟩,  -- ProductGrade
  ⟨0x1000, 5, 2, 3, 0, 0, 0, 255, 1, true, 0, false, false⟩,  -- SiliconStepping
  ⟨0x1000, 6, 12, 3, 0, 0, 0, 0, 32, false, 0, false, false⟩,  -- SerialNumber
  ⟨0x1000, 7, 3, 3, 0, 0, 0, 65535, 2, true, 0, false, false⟩,  -- PcieVendorId
  ⟨0x1000, 8, 3, 3, 0, 0, 0, 65535, 2, true, 0, false, false⟩,  -- PcieDeviceId
  ⟨0x1000, 9, 4, 0, 2, 0, 0, 0xffffffff, 4, true, 0, false, false⟩,  -- FirmwareVersion
  ⟨0x1000, 10, 2, 0, 2, 0, 0, 255, 1, true, 0, false, false⟩,  -- ModuleState
  ⟨0x1100, 0, 2, 3, 0, 10, 0, 255, 1, true, 0, false, false⟩,  -- Communication
  ⟨0x1100, 1, 3, 1, 0, 0xce51, 1024, 65535, 2, true, 1, true, false⟩,  -- KoaPort
  ⟨0x1100, 2, 2, 1, 0, 1, 0, 2, 1, true, 1, true, false⟩,  -- Ipv4Mode
  ⟨0x1100, 3, 13, 1, 0, 0, 0, 0, 12, true, 1, true, false⟩,  -- Ipv4Address
  ⟨0x1100, 4, 2, 1, 0, 1, 0, 2, 1, true, 1, true, false⟩,  -- Ipv6Mode
  ⟨0x1100, 5, 13, 1, 0, 0, 0, 0, 17, true, 1, true, false⟩,  -- Ipv6Address
  ⟨0x1100, 6, 2, 1, 0, 16, 1, 32, 1, true, 1, true, false⟩,  -- KoaSessionsMax
  ⟨0x1100, 7, 2, 1, 2, 1, 0, 1, 1, true, 2, true, false⟩,  -- MailboxPrivilege
  ⟨0x1100, 8, 2, 0, 2, 0, 0, 255, 1, true, 0, false, false⟩,  -- KoaSessionsOpen
  ⟨0x1100, 9, 5, 0, 2, 0, 0, 0xffffffffffffffff, 8, true, 0, false, false⟩,  -- KoaRejects
  ⟨0x1100, 10, 2, 2, 0, 0, 1, 1, 1, true, 2, false, false⟩]  -- RestoreDefaults

/-- Objects of 0x2210–0x2F00 (R89, R120, R132, R189, R190). -/
def objsConfig : List ObjInfo := [
  ⟨0x2210, 0, 2, 3, 0, 3, 0, 255, 1, true, 0, false, false⟩,  -- PlateFiringConfig
  ⟨0x2210, 1, 3, 1, 1, 8, 0, 256, 2, true, 1, false, false⟩,  -- FlushLimit
  ⟨0x2210, 2, 2, 1, 1, 4, 2, 16, 1, true, 1, false, false⟩,  -- ChecksumHardFactor
  ⟨0x2210, 3, 1, 1, 1, 1, 0, 1, 1, true, 1, false, false⟩,  -- ZeroPhaseSkip
  ⟨0x2220, 0, 2, 3, 0, 4, 0, 255, 1, true, 0, false, false⟩,  -- PlateUpkeepConfig
  ⟨0x2220, 1, 4, 1, 2, 900, 60, 3600, 4, true, 1, false, false⟩,  -- StripInterval
  ⟨0x2220, 2, 2, 1, 2, 10, 2, 30, 1, true, 1, false, false⟩,  -- StripDeltaT
  ⟨0x2220, 3, 2, 1, 2, 75, 50, 95, 1, true, 1, false, false⟩,  -- TrimMarginWarn
  ⟨0x2220, 4, 4, 0, 2, 960, 0, 0xffffffff, 4, true, 0, false, false⟩,  -- MaxStripAge
  ⟨0x2230, 0, 2, 3, 0, 6, 0, 255, 1, true, 0, false, false⟩,  -- MemoryLayout
  ⟨0x2230, 1, 5, 0, 2, 0, 0, 0xffffffffffffffff, 8, true, 0, false, false⟩,  -- HbmAllotmentSize
  ⟨0x2230, 2, 5, 0, 2, 0, 0, 0xffffffffffffffff, 8, true, 0, false, false⟩,  -- HbmGoldenBase
  ⟨0x2230, 3, 5, 0, 2, 0, 0, 0xffffffffffffffff, 8, true, 0, false, false⟩,  -- HbmGoldenSize
  ⟨0x2230, 4, 5, 3, 0, 0x1e000000000, 0, 0xffffffffffffffff, 8, true, 0, false, false⟩,  -- HbmSheetBase
  ⟨0x2230, 5, 5, 0, 2, 0, 0, 0xffffffffffffffff, 8, true, 3, false, false⟩,  -- HbmJobKey
  ⟨0x2230, 6, 5, 3, 0, 0x1f800000000, 0, 0xffffffffffffffff, 8, true, 0, false, false⟩,  -- HbmFirmwareBase
  ⟨0x2231, 0, 2, 3, 0, 3, 0, 255, 1, true, 0, false, false⟩,  -- HbmBalanceConfig
  ⟨0x2231, 1, 3, 1, 2, 8, 2, 2048, 2, true, 1, false, false⟩,  -- HbmImbalanceLimit
  ⟨0x2231, 2, 3, 1, 2, 100, 10, 10000, 2, true, 1, false, false⟩,  -- HbmImbalanceWindow
  ⟨0x2231, 3, 3, 1, 2, 1024, 64, 65535, 2, true, 1, false, false⟩,  -- HbmImbalanceMinBytes
  ⟨0x2F00, 0, 2, 3, 0, 14, 0, 255, 1, true, 0, false, false⟩,  -- LatencyTable
  ⟨0x2F00, 1, 2, 3, 0, 1, 0, 255, 1, true, 0, false, false⟩,  -- AluSimple
  ⟨0x2F00, 2, 2, 3, 0, 3, 0, 255, 1, true, 0, false, false⟩,  -- AluMul
  ⟨0x2F00, 3, 2, 3, 0, 0, 0, 255, 1, true, 0, false, false⟩,  -- AluDiv
  ⟨0x2F00, 4, 2, 3, 0, 2, 0, 255, 1, true, 0, false, false⟩,  -- VecInt
  ⟨0x2F00, 5, 2, 3, 0, 4, 0, 255, 1, true, 0, false, false⟩,  -- VecFp
  ⟨0x2F00, 6, 2, 3, 0, 0, 0, 255, 1, true, 0, false, false⟩,  -- VecDivSqrt
  ⟨0x2F00, 7, 2, 3, 0, 10, 0, 255, 1, true, 0, false, false⟩,  -- VecSpecial
  ⟨0x2F00, 8, 2, 3, 0, 6, 0, 255, 1, true, 0, false, false⟩,  -- VecReduce
  ⟨0x2F00, 9, 2, 3, 0, 6, 0, 255, 1, true, 0, false, false⟩,  -- Conv
  ⟨0x2F00, 10, 2, 3, 0, 5, 0, 255, 1, true, 0, false, false⟩,  -- RowBufferLoad
  ⟨0x2F00, 11, 2, 3, 0, 9, 0, 255, 1, true, 0, false, false⟩,  -- ScratchBase
  ⟨0x2F00, 12, 2, 3, 0, 2, 0, 255, 1, true, 0, false, false⟩,  -- ScratchPerHop
  ⟨0x2F00, 13, 2, 3, 0, 0, 0, 255, 1, true, 0, false, false⟩,  -- PlateDrain
  ⟨0x2F00, 14, 2, 3, 0, 2, 0, 255, 1, true, 0, false, false⟩]  -- Special

/-- Objects of 0x3000–0x3101, 0x3130, 0x3140 (R248, R250, R274, R324, R325, R327, R347, R432). -/
def objsJobs : List ObjInfo := [
  ⟨0x3000, 0, 2, 3, 0, 3, 0, 255, 1, true, 0, false, false⟩,  -- JobControl
  ⟨0x3000, 1, 13, 2, 2, 0, 0, 0, 24, true, 1, false, false⟩,  -- JobCommand
  ⟨0x3000, 2, 4, 0, 2, 0, 0, 0xffffffff, 4, true, 0, false, false⟩,  -- JobId
  ⟨0x3000, 3, 4, 0, 2, 0, 0, 0xffffffff, 4, true, 0, false, false⟩,  -- JobsLoaded
  ⟨0x3010, 0, 2, 3, 0, 7, 0, 255, 1, true, 0, false, false⟩,  -- JobImage
  ⟨0x3010, 1, 2, 1, 0, 0, 0, 1, 1, true, 1, false, false⟩,  -- LoadVariant
  ⟨0x3010, 2, 1, 1, 0, 0, 0, 1, 1, true, 2, true, false⟩,  -- RequireOwnerSignature
  ⟨0x3010, 3, 4, 0, 2, 0, 0, 0xffffffff, 4, true, 0, false, false⟩,  -- LastLoadResult
  ⟨0x3010, 4, 4, 0, 2, 0, 0, 0xffffffff, 4, true, 0, false, false⟩,  -- LastLoadDetail
  ⟨0x3010, 5, 13, 0, 2, 0, 0, 0, 48, true, 0, false, false⟩,  -- ImageHash
  ⟨0x3010, 6, 4, 0, 2, 0, 0, 0xffffffff, 4, true, 0, false, false⟩,  -- MappingChanges
  ⟨0x3010, 7, 3, 0, 2, 0, 0, 65535, 2, true, 0, false, false⟩,  -- UnusableDunes
  ⟨0x3020, 0, 2, 3, 0, 9, 0, 255, 1, true, 0, false, false⟩,  -- JobBeat
  ⟨0x3020, 1, 4, 0, 2, 0, 0, 0xffffffff, 4, true, 0, false, false⟩,  -- BasePeriod
  ⟨0x3020, 2, 4, 0, 2, 0, 0, 0xffffffff, 4, true, 0, false, false⟩,  -- CurrentPeriod
  ⟨0x3020, 3, 2, 0, 2, 0, 0, 255, 1, true, 0, false, false⟩,  -- LengtheningLevel
  ⟨0x3020, 4, 2, 1, 0, 0, 0, 2, 1, true, 1, false, false⟩,  -- WidePolicy
  ⟨0x3020, 5, 5, 0, 2, 0, 0, 0xffffffffffffffff, 8, true, 0, false, false⟩,  -- BeatNumber
  ⟨0x3020, 6, 11, 0, 2, 0, 0, 0xffffffffffffffff, 8, true, 0, false, false⟩,  -- BeatAnchor
  ⟨0x3020, 7, 3, 0, 2, 0xffff, 0, 65535, 2, true, 0, false, false⟩,  -- BeatMaster
  ⟨0x3020, 8, 3, 3, 0, 400, 0, 65535, 2, true, 0, false, false⟩,  -- StretchLead
  ⟨0x3020, 9, 4, 0, 2, 270, 0, 0xffffffff, 4, true, 0, false, false⟩,  -- CloseDelay
  ⟨0x3021, 0, 2, 3, 0, 3, 0, 255, 1, true, 0, false, false⟩,  -- FallbackConfig
  ⟨0x3021, 1, 4, 1, 2, 0x2710, 1, 0xf4240, 4, true, 1, false, false⟩,  -- FallbackStretchLimit
  ⟨0x3021, 2, 4, 1, 2, 1000, 1, 0xf4240, 4, true, 1, false, false⟩,  -- FallbackClampLimit
  ⟨0x3021, 3, 4, 1, 2, 1000, 1, 0xf4240, 4, true, 1, false, false⟩,  -- FallbackPrecisionLimit
  ⟨0x3100, 0, 2, 3, 0, 6, 0, 255, 1, true, 0, false, false⟩,  -- ServingConfig
  ⟨0x3100, 1, 3, 1, 2, 64, 1, 4096, 2, true, 1, false, false⟩,  -- TailPoll
  ⟨0x3100, 2, 2, 1, 2, 30, 0, 100, 1, true, 1, false, false⟩,  -- AcceptFloor
  ⟨0x3100, 3, 3, 3, 0, 1024, 0, 65535, 2, true, 0, false, false⟩,  -- SpecProbeInterval
  ⟨0x3100, 4, 2, 1, 1, 50, 0, 90, 1, true, 1, false, false⟩,  -- P0Share
  ⟨0x3100, 5, 4, 1, 2, 1000, 100, 0xf4240, 4, true, 1, false, false⟩,  -- PauseAfter
  ⟨0x3100, 6, 2, 1, 2, 0, 0, 1, 1, true, 1, false, false⟩,  -- PauseCompression
  ⟨0x3101, 0, 2, 3, 0, 3, 0, 255, 1, true, 0, false, false⟩,  -- JouleGovernor
  ⟨0x3101, 1, 4, 1, 1, 0, 1000, 16400, 4, true, 1, false, false⟩,  -- TokenEnvelope
  ⟨0x3101, 2, 4, 0, 2, 0, 0, 0xffffffff, 4, true, 0, false, false⟩,  -- BeatBudget
  ⟨0x3101, 3, 4, 0, 2, 0, 0, 0xffffffff, 4, true, 0, false, false⟩,  -- P0Reserved
  ⟨0x3130, 0, 2, 3, 0, 4, 0, 255, 1, true, 0, false, false⟩,  -- AdapterControl
  ⟨0x3130, 1, 13, 2, 2, 0, 0, 0, 24, true, 1, false, false⟩,  -- AdapterCommand
  ⟨0x3130, 2, 4, 0, 2, 0, 0, 0xffffffff, 4, true, 0, false, false⟩,  -- LastAdapterResult
  ⟨0x3130, 3, 3, 0, 2, 0, 0, 65535, 2, true, 0, false, false⟩,  -- AdaptersResident
  ⟨0x3130, 4, 3, 0, 2, 0, 0, 65535, 2, true, 0, false, false⟩,  -- AdaptersHot
  ⟨0x3140, 0, 2, 3, 0, 8, 0, 255, 1, true, 0, false, false⟩,  -- WeightControl
  ⟨0x3140, 1, 13, 2, 2, 0, 0, 0, 24, true, 1, false, false⟩,  -- ReplaceCommand
  ⟨0x3140, 2, 2, 0, 2, 0, 0, 255, 1, true, 0, false, false⟩,  -- ReplaceState
  ⟨0x3140, 3, 4, 0, 2, 0, 0, 0xffffffff, 4, true, 0, false, false⟩,  -- LastReplaceResult
  ⟨0x3140, 4, 2, 1, 0, 0, 0, 1, 1, true, 1, false, false⟩,  -- LoadSource
  ⟨0x3140, 5, 5, 1, 0, 0, 0, 0xffffffffffffffff, 8, true, 1, false, false⟩,  -- StagerBase
  ⟨0x3140, 6, 2, 1, 0, 2, 1, 2, 1, true, 1, false, false⟩,  -- GoldenReserve
  ⟨0x3140, 7, 4, 1, 2, 0, 0, 0x927c0, 4, true, 1, false, false⟩,  -- DrainTimeout
  ⟨0x3140, 8, 5, 0, 2, 0, 0, 0xffffffffffffffff, 8, true, 0, false, false⟩]  -- WeightGeneration

/-- Objects of 0x4000–0x4300 (R467–R470). -/
def objsPower : List ObjInfo := [
  ⟨0x4000, 0, 2, 3, 0, 9, 0, 255, 1, true, 0, false, false⟩,  -- PowerSupply
  ⟨0x4000, 1, 10, 0, 2, 0, 0, 0xffffffff, 4, true, 0, false, false⟩,  -- FeedAVoltage
  ⟨0x4000, 2, 10, 0, 2, 0, 0, 0xffffffff, 4, true, 0, false, false⟩,  -- FeedBVoltage
  ⟨0x4000, 3, 10, 0, 2, 0, 0, 0xffffffff, 4, true, 0, false, false⟩,  -- FeedACurrent
  ⟨0x4000, 4, 10, 0, 2, 0, 0, 0xffffffff, 4, true, 0, false, false⟩,  -- FeedBCurrent
  ⟨0x4000, 5, 4, 0, 2, 0, 0, 0xffffffff, 4, true, 0, false, false⟩,  -- InputPower
  ⟨0x4000, 6, 2, 0, 2, 0, 0, 255, 1, true, 0, false, false⟩,  -- FeedState
  ⟨0x4000, 7, 3, 0, 2, 0, 0, 65535, 2, true, 0, false, false⟩,  -- ConvertersOk
  ⟨0x4000, 8, 5, 0, 2, 0, 0, 0xffffffffffffffff, 8, true, 0, false, false⟩,  -- FeedLosses
  ⟨0x4000, 9, 5, 0, 2, 0, 0, 0xffffffffffffffff, 8, true, 0, false, false⟩,  -- PowerOverloads
  ⟨0x4100, 0, 2, 3, 0, 9, 0, 255, 1, true, 0, false, false⟩,  -- ThermalControl
  ⟨0x4100, 1, 2, 0, 2, 0, 0, 255, 1, true, 0, false, false⟩,  -- ThermalLevel
  ⟨0x4100, 2, 2, 0, 2, 0, 0, 255, 1, true, 0, false, false⟩,  -- WantedLevel
  ⟨0x4100, 3, 3, 1, 2, 5, 1, 1000, 2, true, 1, false, false⟩,  -- LengthenStep
  ⟨0x4100, 4, 3, 1, 2, 100, 10, 10000, 2, true, 1, false, false⟩,  -- LengthenRelax
  ⟨0x4100, 5, 10, 0, 2, 0, 0, 0xffffffff, 4, true, 0, false, false⟩,  -- HottestTj
  ⟨0x4100, 6, 4, 0, 2, 0, 0, 0xffffffff, 4, true, 0, false, false⟩,  -- HottestSpot
  ⟨0x4100, 7, 3, 0, 2, 0, 0, 65535, 2, true, 0, false, false⟩,  -- SensorsFlagged
  ⟨0x4100, 8, 3, 0, 2, 0, 0, 65535, 2, true, 0, false, false⟩,  -- SensorsFailed
  ⟨0x4100, 9, 5, 0, 2, 0, 0, 0xffffffffffffffff, 8, true, 0, false, false⟩,  -- DuneShutdowns
  ⟨0x4200, 0, 2, 3, 0, 7, 0, 255, 1, true, 0, false, false⟩,  -- Coolant
  ⟨0x4200, 1, 10, 0, 2, 0, 0, 0xffffffff, 4, true, 0, false, false⟩,  -- InletTemp
  ⟨0x4200, 2, 10, 0, 2, 0, 0, 0xffffffff, 4, true, 0, false, false⟩,  -- OutletTemp
  ⟨0x4200, 3, 10, 0, 2, 0, 0, 0xffffffff, 4, true, 0, false, false⟩,  -- FlowMeasured
  ⟨0x4200, 4, 10, 0, 2, 0, 0, 0xffffffff, 4, true, 0, false, false⟩,  -- FlowEstimated
  ⟨0x4200, 5, 2, 0, 2, 0, 0, 255, 1, true, 0, false, false⟩,  -- CoolantState
  ⟨0x4200, 6, 10, 1, 0, 0x41f00000, 0, 0xffffffff, 4, true, 1, true, false⟩,  -- FlowNominal
  ⟨0x4200, 7, 5, 0, 2, 0, 0, 0xffffffffffffffff, 8, true, 0, false, false⟩,  -- FlowStops
  ⟨0x4300, 0, 2, 3, 0, 8, 0, 255, 1, true, 0, false, false⟩,  -- DriftAndBask
  ⟨0x4300, 1, 4, 1, 1, 2048, 16, 0x100000, 4, true, 1, false, false⟩,  -- DriftPeriod
  ⟨0x4300, 2, 4, 1, 1, 256, 16, 0x100000, 4, true, 1, false, false⟩,  -- DriftPeriodHot
  ⟨0x4300, 3, 1, 1, 2, 1, 0, 1, 1, true, 1, false, false⟩,  -- BaskEnable
  ⟨0x4300, 4, 2, 1, 2, 45, 20, 70, 1, true, 1, false, false⟩,  -- BaskTarget
  ⟨0x4300, 5, 3, 1, 2, 3000, 0, 3000, 2, true, 1, false, false⟩,  -- BaskPowerMax
  ⟨0x4300, 6, 1, 0, 2, 0, 0, 1, 1, true, 0, false, false⟩,  -- BaskShortfall
  ⟨0x4300, 7, 5, 0, 2, 0, 0, 0xffffffffffffffff, 8, true, 0, false, false⟩,  -- ColdSeconds
  ⟨0x4300, 8, 5, 0, 2, 0, 0, 0xffffffffffffffff, 8, true, 0, false, false⟩]  -- HbmThrottleEvents

/-- Objects of 0x5100–0x5401 but the per-bundle ones (R222–R224, R381, R383, R403, R404). -/
def objsFabric : List ObjInfo := [
  ⟨0x5100, 0, 2, 3, 0, 1, 0, 255, 1, true, 0, false, false⟩,  -- FabricConfig
  ⟨0x5100, 1, 2, 1, 0, 64, 16, 255, 1, true, 1, false, false⟩,  -- Tc3ShareInterval
  ⟨0x5101, 0, 2, 3, 0, 10, 0, 255, 1, true, 0, false, false⟩,  -- FabricCounters
  ⟨0x5101, 1, 5, 0, 2, 0, 0, 0xffffffffffffffff, 8, true, 0, false, false⟩,  -- Tc0Flits
  ⟨0x5101, 2, 5, 0, 2, 0, 0, 0xffffffffffffffff, 8, true, 0, false, false⟩,  -- Tc1Flits
  ⟨0x5101, 3, 5, 0, 2, 0, 0, 0xffffffffffffffff, 8, true, 0, false, false⟩,  -- Tc2Flits
  ⟨0x5101, 4, 5, 0, 2, 0, 0, 0xffffffffffffffff, 8, true, 0, false, false⟩,  -- Tc3Flits
  ⟨0x5101, 5, 5, 0, 2, 0, 0, 0xffffffffffffffff, 8, true, 0, false, false⟩,  -- PreemptedPackets
  ⟨0x5101, 6, 5, 0, 2, 0, 0, 0xffffffffffffffff, 8, true, 0, false, false⟩,  -- Tc0Collisions
  ⟨0x5101, 7, 5, 0, 2, 0, 0, 0xffffffffffffffff, 8, true, 0, false, false⟩,  -- BridgeFlits
  ⟨0x5101, 8, 5, 0, 2, 0, 0, 0xffffffffffffffff, 8, true, 0, false, false⟩,  -- DiscardedPackets
  ⟨0x5101, 9, 5, 0, 2, 0, 0, 0xffffffffffffffff, 8, true, 0, false, false⟩,  -- ControlDiscards
  ⟨0x5101, 10, 5, 0, 2, 0, 0, 0xffffffffffffffff, 8, true, 0, false, false⟩,  -- ControlLanesRetired
  ⟨0x5110, 0, 2, 3, 0, 6, 0, 255, 1, true, 0, false, false⟩,  -- IslandTime
  ⟨0x5110, 1, 3, 0, 2, 0, 0, 65535, 2, true, 0, false, false⟩,  -- IslandsLocked
  ⟨0x5110, 2, 3, 0, 2, 0, 0, 65535, 2, true, 0, false, false⟩,  -- IslandsAcquire
  ⟨0x5110, 3, 3, 0, 2, 0, 0, 65535, 2, true, 0, false, false⟩,  -- IslandsHoldover
  ⟨0x5110, 4, 4, 0, 2, 0, 0, 0xffffffff, 4, true, 0, false, false⟩,  -- WorstIslandOffset
  ⟨0x5110, 5, 4, 0, 2, 0, 0, 0xffffffff, 4, true, 0, false, false⟩,  -- LongestHoldover
  ⟨0x5110, 6, 5, 0, 2, 0, 0, 0xffffffffffffffff, 8, true, 0, false, false⟩,  -- IslandHoldoverFaults
  ⟨0x5200, 0, 2, 3, 0, 3, 0, 255, 1, true, 0, false, false⟩,  -- LinkConfig
  ⟨0x5200, 1, 2, 1, 0, 1, 0, 2, 1, true, 1, true, false⟩,  -- LinkMode
  ⟨0x5200, 2, 3, 1, 0, 0xffff, 0, 65535, 2, true, 1, true, false⟩,  -- ModuleId
  ⟨0x5200, 3, 13, 1, 0, 0, 0, 0, 128, true, 1, false, false⟩,  -- PathTable
  ⟨0x5300, 0, 2, 3, 0, 8, 0, 255, 1, true, 0, false, false⟩,  -- HallTime
  ⟨0x5300, 1, 13, 1, 0, 0xffffffff, 0, 0, 4, true, 1, true, false⟩,  -- TimeParents
  ⟨0x5300, 2, 2, 1, 0, 0, 0, 127, 1, true, 1, false, false⟩,  -- PtpDomain
  ⟨0x5300, 3, 11, 1, 0, 0, 0, 0xffffffffffffffff, 8, true, 1, true, false⟩,  -- HallEpoch
  ⟨0x5300, 4, 2, 0, 2, 0, 0, 255, 1, true, 0, false, false⟩,  -- RootState
  ⟨0x5300, 5, 3, 0, 2, 0xffff, 0, 65535, 2, true, 0, false, false⟩,  -- TimeRootModule
  ⟨0x5300, 6, 2, 0, 2, 0, 0, 255, 1, true, 0, false, false⟩,  -- TimeDepth
  ⟨0x5300, 7, 8, 0, 2, 0, 0, 0xffffffff, 4, true, 0, false, false⟩,  -- ParentOffset
  ⟨0x5300, 8, 1, 0, 2, 0, 0, 1, 1, true, 0, false, false⟩,  -- HtcStepPending
  ⟨0x5400, 0, 2, 3, 0, 4, 0, 255, 1, true, 0, false, false⟩,  -- PcieConfig
  ⟨0x5400, 1, 2, 1, 0, 0, 0, 1, 1, true, 1, true, false⟩,  -- PcieBifurcation
  ⟨0x5400, 2, 4, 1, 0, 0xc350, 1000, 0x3d0900, 4, true, 1, false, false⟩,  -- CompletionTimeout
  ⟨0x5400, 3, 3, 1, 2, 2, 0, 1000, 2, true, 1, false, false⟩,  -- MsixHoldoff
  ⟨0x5400, 4, 1, 1, 2, 0, 0, 1, 1, true, 2, false, false⟩,  -- FabricApertureEnable
  ⟨0x5401, 0, 2, 3, 0, 7, 0, 255, 1, true, 0, false, false⟩,  -- PcieStatus
  ⟨0x5401, 1, 2, 0, 2, 0, 0, 255, 1, true, 0, false, false⟩,  -- LinkSpeed
  ⟨0x5401, 2, 2, 0, 2, 0, 0, 255, 1, true, 0, false, false⟩,  -- LinkWidth
  ⟨0x5401, 3, 2, 0, 2, 0, 0, 255, 1, true, 0, false, false⟩,  -- StagerLinkState
  ⟨0x5401, 4, 5, 0, 2, 0, 0, 0xffffffffffffffff, 8, true, 0, false, false⟩,  -- PcieReadErrors
  ⟨0x5401, 5, 5, 0, 2, 0, 0, 0xffffffffffffffff, 8, true, 0, false, false⟩,  -- MailboxOverruns
  ⟨0x5401, 6, 5, 0, 2, 0, 0, 0xffffffffffffffff, 8, true, 0, false, false⟩,  -- ApertureWrites
  ⟨0x5401, 7, 5, 0, 2, 0, 0, 0xffffffffffffffff, 8, true, 0, false, false⟩]  -- FunctionResets

/-- Objects of 0x6000–0x6040 (R495–R498, R535). -/
def objsFaults : List ObjInfo := [
  ⟨0x6000, 0, 2, 3, 0, 3, 0, 255, 1, true, 0, false, false⟩,  -- FaultConfig
  ⟨0x6000, 1, 2, 1, 2, 0, 0, 2, 1, true, 1, false, false⟩,  -- JobFaultSheet
  ⟨0x6000, 2, 2, 1, 2, 8, 1, 64, 1, true, 1, false, false⟩,  -- RestartLimit
  ⟨0x6000, 3, 4, 1, 2, 60, 1, 3600, 4, true, 1, false, false⟩,  -- RestartWindow
  ⟨0x6010, 0, 2, 3, 0, 6, 0, 255, 1, true, 0, false, false⟩,  -- FaultStatus
  ⟨0x6010, 1, 13, 0, 2, 0, 0, 0, 32, true, 0, false, false⟩,  -- LastFault
  ⟨0x6010, 2, 5, 0, 2, 0, 0, 0xffffffffffffffff, 8, true, 0, false, false⟩,  -- JobFaults
  ⟨0x6010, 3, 5, 0, 2, 0, 0, 0xffffffffffffffff, 8, true, 0, false, false⟩,  -- JobRestarts
  ⟨0x6010, 4, 5, 0, 2, 0, 0, 0xffffffffffffffff, 8, true, 0, false, false⟩,  -- FatalJobFaults
  ⟨0x6010, 5, 5, 0, 2, 0, 0, 0xffffffffffffffff, 8, true, 0, false, false⟩,  -- ModuleFaults
  ⟨0x6010, 6, 4, 0, 2, 0, 0, 0xffffffff, 4, true, 0, false, false⟩,  -- LastRestartDuration
  ⟨0x6020, 0, 2, 3, 0, 8, 0, 255, 1, true, 0, false, false⟩,  -- ErrorCounters
  ⟨0x6020, 1, 5, 0, 2, 0, 0, 0xffffffffffffffff, 8, true, 0, false, false⟩,  -- SramCorrected
  ⟨0x6020, 2, 5, 0, 2, 0, 0, 0xffffffffffffffff, 8, true, 0, false, false⟩,  -- SramUncorrectable
  ⟨0x6020, 3, 5, 0, 2, 0, 0, 0xffffffffffffffff, 8, true, 0, false, false⟩,  -- MeshCorrected
  ⟨0x6020, 4, 5, 0, 2, 0, 0, 0xffffffffffffffff, 8, true, 0, false, false⟩,  -- MeshUncorrectable
  ⟨0x6020, 5, 5, 0, 2, 0, 0, 0xffffffffffffffff, 8, true, 0, false, false⟩,  -- BridgeCorrected
  ⟨0x6020, 6, 5, 0, 2, 0, 0, 0xffffffffffffffff, 8, true, 0, false, false⟩,  -- HbmCorrected
  ⟨0x6020, 7, 5, 0, 2, 0, 0, 0xffffffffffffffff, 8, true, 0, false, false⟩,  -- HbmScrubUncorrectable
  ⟨0x6020, 8, 5, 0, 2, 0, 0, 0xffffffffffffffff, 8, true, 0, false, false⟩,  -- ControlRetries
  ⟨0x6030, 0, 2, 3, 0, 8, 0, 255, 1, true, 0, false, false⟩,  -- ContactSheet
  ⟨0x6030, 1, 2, 0, 2, 0, 0, 255, 1, true, 0, false, false⟩,  -- SheetState
  ⟨0x6030, 2, 4, 0, 2, 0, 0, 0xffffffff, 4, true, 0, false, false⟩,  -- SheetSequence
  ⟨0x6030, 3, 13, 0, 2, 0, 0, 0, 4096, true, 2, false, false⟩,  -- SheetHeader
  ⟨0x6030, 4, 13, 0, 2, 0, 0, 0, 103079215104, false, 2, false, false⟩,  -- SheetData
  ⟨0x6030, 5, 13, 0, 2, 0, 0, 0, 1048576, true, 2, false, false⟩,  -- Thumbnail
  ⟨0x6030, 6, 2, 0, 2, 0, 0, 255, 1, true, 0, false, false⟩,  -- ThumbnailSource
  ⟨0x6030, 7, 13, 0, 2, 0, 0, 0, 4096, true, 0, false, false⟩,  -- EventLog
  ⟨0x6030, 8, 5, 0, 2, 0, 0, 0xffffffffffffffff, 8, true, 0, false, false⟩,  -- EventsPosted
  ⟨0x6040, 0, 2, 3, 0, 4, 0, 255, 1, true, 0, false, false⟩,  -- ModuleRecovery
  ⟨0x6040, 1, 2, 2, 2, 0, 1, 1, 1, true, 1, false, false⟩,  -- ModuleCommand
  ⟨0x6040, 2, 4, 0, 2, 0, 0, 0xffffffff, 4, true, 0, false, false⟩,  -- SelftestResult
  ⟨0x6040, 3, 3, 0, 2, 0, 0, 65535, 2, true, 0, false, false⟩,  -- DunesFailedSelftest
  ⟨0x6040, 4, 13, 0, 2, 0, 0, 0, 32, true, 0, true, false⟩]  -- LastPowerLoss

/-- Objects of 0x6120–0x61A0, 0x6300, 0x6310 (R54, R90, R121, R161, R191, R249, R328, R349, R384, R385, R499). -/
def objsCounters : List ObjInfo := [
  ⟨0x6120, 0, 2, 3, 0, 9, 0, 255, 1, true, 0, false, false⟩,  -- PrecisionCounters
  ⟨0x6120, 1, 5, 0, 2, 0, 0, 0xffffffffffffffff, 8, true, 0, false, false⟩,  -- SatBlocks
  ⟨0x6120, 2, 5, 0, 2, 0, 0, 0xffffffffffffffff, 8, true, 0, false, false⟩,  -- FlushedElements
  ⟨0x6120, 3, 5, 0, 2, 0, 0, 0xffffffffffffffff, 8, true, 0, false, false⟩,  -- FlushedBlocks
  ⟨0x6120, 4, 5, 0, 2, 0, 0, 0xffffffffffffffff, 8, true, 0, false, false⟩,  -- WidenedFirings
  ⟨0x6120, 5, 5, 0, 2, 0, 0, 0xffffffffffffffff, 8, true, 0, false, false⟩,  -- ClampedFirings
  ⟨0x6120, 6, 5, 0, 2, 0, 0, 0xffffffffffffffff, 8, true, 0, false, false⟩,  -- NanElements
  ⟨0x6120, 7, 5, 0, 2, 0, 0, 0xffffffffffffffff, 8, true, 0, false, false⟩,  -- MalformedScales
  ⟨0x6120, 8, 5, 0, 2, 0, 0, 0xffffffffffffffff, 8, true, 0, false, false⟩,  -- ConvUnderflowBlocks
  ⟨0x6120, 9, 5, 0, 2, 0, 0, 0xffffffffffffffff, 8, true, 0, false, false⟩,  -- MxStoreSaturations
  ⟨0x6130, 0, 2, 3, 0, 7, 0, 255, 1, true, 0, false, false⟩,  -- PlateVerdicts
  ⟨0x6130, 1, 5, 0, 2, 0, 0, 0xffffffffffffffff, 8, true, 0, false, false⟩,  -- FastFirings
  ⟨0x6130, 2, 5, 0, 2, 0, 0, 0xffffffffffffffff, 8, true, 0, false, false⟩,  -- ExactFirings
  ⟨0x6130, 3, 5, 0, 2, 0, 0, 0xffffffffffffffff, 8, true, 0, false, false⟩,  -- SkippedPhases
  ⟨0x6130, 4, 5, 0, 2, 0, 0, 0xffffffffffffffff, 8, true, 0, false, false⟩,  -- SoftMismatches
  ⟨0x6130, 5, 5, 0, 2, 0, 0, 0xffffffffffffffff, 8, true, 0, false, false⟩,  -- HardMismatches
  ⟨0x6130, 6, 5, 0, 2, 0, 0, 0xffffffffffffffff, 8, true, 0, false, false⟩,  -- RepeatSoftRetirements
  ⟨0x6130, 7, 13, 0, 2, 0, 0, 0, 16, true, 0, false, false⟩,  -- LastHardMismatch
  ⟨0x6140, 0, 2, 3, 0, 10, 0, 255, 1, true, 0, false, false⟩,  -- PlateUpkeepCounters
  ⟨0x6140, 1, 5, 0, 2, 0, 0, 0xffffffffffffffff, 8, true, 0, false, false⟩,  -- StripsPassed
  ⟨0x6140, 2, 5, 0, 2, 0, 0, 0xffffffffffffffff, 8, true, 0, false, false⟩,  -- StripsFailed
  ⟨0x6140, 3, 5, 0, 2, 0, 0, 0xffffffffffffffff, 8, true, 0, false, false⟩,  -- StripSegmentAborts
  ⟨0x6140, 4, 5, 0, 2, 0, 0, 0xffffffffffffffff, 8, true, 0, false, false⟩,  -- ReExposures
  ⟨0x6140, 5, 5, 0, 2, 0, 0, 0xffffffffffffffff, 8, true, 0, false, false⟩,  -- ReExposuresDeferred
  ⟨0x6140, 6, 5, 0, 2, 0, 0, 0xffffffffffffffff, 8, true, 0, false, false⟩,  -- Substitutions
  ⟨0x6140, 7, 5, 0, 2, 0, 0, 0xffffffffffffffff, 8, true, 0, false, false⟩,  -- SitesRetired
  ⟨0x6140, 8, 5, 0, 2, 0, 0, 0xffffffffffffffff, 8, true, 0, false, false⟩,  -- WriteVerifyFailures
  ⟨0x6140, 9, 4, 0, 2, 0, 0, 0xffffffff, 4, true, 0, false, false⟩,  -- OldestStripAge
  ⟨0x6140, 10, 5, 0, 2, 0, 0, 0xffffffffffffffff, 8, true, 0, false, false⟩,  -- TrimMarginWarnings
  ⟨0x6150, 0, 2, 3, 0, 4, 0, 255, 1, true, 0, false, false⟩,  -- InstructionCounters
  ⟨0x6150, 1, 5, 0, 2, 0, 0, 0xffffffffffffffff, 8, true, 0, false, false⟩,  -- LateWaits
  ⟨0x6150, 2, 5, 0, 2, 0, 0, 0xffffffffffffffff, 8, true, 0, false, false⟩,  -- QueueFullStalls
  ⟨0x6150, 3, 5, 0, 2, 0, 0, 0xffffffffffffffff, 8, true, 0, false, false⟩,  -- QWaitDeadlines
  ⟨0x6150, 4, 5, 0, 2, 0, 0, 0xffffffffffffffff, 8, true, 0, false, false⟩,  -- InstructionFaults
  ⟨0x6160, 0, 2, 3, 0, 6, 0, 255, 1, true, 0, false, false⟩,  -- MemoryCounters
  ⟨0x6160, 1, 5, 0, 2, 0, 0, 0xffffffffffffffff, 8, true, 0, false, false⟩,  -- ScratchConflictCycles
  ⟨0x6160, 2, 5, 0, 2, 0, 0, 0xffffffffffffffff, 8, true, 0, false, false⟩,  -- QueueTransfers
  ⟨0x6160, 3, 5, 0, 2, 0, 0, 0xffffffffffffffff, 8, true, 0, false, false⟩,  -- QueueBytes
  ⟨0x6160, 4, 5, 0, 2, 0, 0, 0xffffffffffffffff, 8, true, 0, false, false⟩,  -- HbmImbalanceWindows
  ⟨0x6160, 5, 4, 0, 2, 0, 0, 0xffffffff, 4, true, 0, false, false⟩,  -- HbmWorstRatio
  ⟨0x6160, 6, 3, 0, 2, 0, 0, 65535, 2, true, 0, false, false⟩,  -- HbmBusiestChannel
  ⟨0x6170, 0, 2, 3, 0, 8, 0, 255, 1, true, 0, false, false⟩,  -- BeatCounters
  ⟨0x6170, 1, 5, 0, 2, 0, 0, 0xffffffffffffffff, 8, true, 0, false, false⟩,  -- BeatsRun
  ⟨0x6170, 2, 5, 0, 2, 0, 0, 0xffffffffffffffff, 8, true, 0, false, false⟩,  -- StretchedBeats
  ⟨0x6170, 3, 5, 0, 2, 0, 0, 0xffffffffffffffff, 8, true, 0, false, false⟩,  -- StretchRequests
  ⟨0x6170, 4, 5, 0, 2, 0, 0, 0xffffffffffffffff, 8, true, 0, false, false⟩,  -- StretchClamps
  ⟨0x6170, 5, 5, 0, 2, 0, 0, 0xffffffffffffffff, 8, true, 0, false, false⟩,  -- LengthenedBeats
  ⟨0x6170, 6, 5, 0, 2, 0, 0, 0xffffffffffffffff, 8, true, 0, false, false⟩,  -- BeatChanges
  ⟨0x6170, 7, 5, 0, 2, 0, 0, 0xffffffffffffffff, 8, true, 0, false, false⟩,  -- SealMisses
  ⟨0x6170, 8, 5, 0, 2, 0, 0, 0xffffffffffffffff, 8, true, 0, false, false⟩,  -- FallbackEvents
  ⟨0x6180, 0, 2, 3, 0, 14, 0, 255, 1, true, 0, false, false⟩,  -- ServingCounters
  ⟨0x6180, 1, 5, 0, 2, 0, 0, 0xffffffffffffffff, 8, true, 0, false, false⟩,  -- RequestsSubmitted
  ⟨0x6180, 2, 5, 0, 2, 0, 0, 0xffffffffffffffff, 8, true, 0, false, false⟩,  -- RequestsRefused
  ⟨0x6180, 3, 5, 0, 2, 0, 0, 0xffffffffffffffff, 8, true, 0, false, false⟩,  -- RequestsCompleted
  ⟨0x6180, 4, 5, 0, 2, 0, 0, 0xffffffffffffffff, 8, true, 0, false, false⟩,  -- RequestsCancelled
  ⟨0x6180, 5, 5, 0, 2, 0, 0, 0xffffffffffffffff, 8, true, 0, false, false⟩,  -- RestartEnded
  ⟨0x6180, 6, 5, 0, 2, 0, 0, 0xffffffffffffffff, 8, true, 0, false, false⟩,  -- TokensPosted
  ⟨0x6180, 7, 5, 0, 2, 0, 0, 0xffffffffffffffff, 8, true, 0, false, false⟩,  -- Pauses
  ⟨0x6180, 8, 5, 0, 2, 0, 0, 0xffffffffffffffff, 8, true, 0, false, false⟩,  -- Resumes
  ⟨0x6180, 9, 5, 0, 2, 0, 0, 0xffffffffffffffff, 8, true, 0, false, false⟩,  -- DraftsAccepted
  ⟨0x6180, 10, 5, 0, 2, 0, 0, 0xffffffffffffffff, 8, true, 0, false, false⟩,  -- DepthHalvings
  ⟨0x6180, 11, 5, 0, 2, 0, 0, 0xffffffffffffffff, 8, true, 0, false, false⟩,  -- GovernorWaits
  ⟨0x6180, 12, 5, 0, 2, 0, 0, 0xffffffffffffffff, 8, true, 0, false, false⟩,  -- EntryListsLate
  ⟨0x6180, 13, 5, 0, 2, 0, 0, 0xffffffffffffffff, 8, true, 0, false, false⟩,  -- IntakeOverruns
  ⟨0x6180, 14, 5, 0, 2, 0, 0, 0xffffffffffffffff, 8, true, 0, false, false⟩,  -- RequestsDropped
  ⟨0x6190, 0, 2, 3, 0, 5, 0, 255, 1, true, 0, false, false⟩,  -- WeightCounters
  ⟨0x6190, 1, 5, 0, 2, 0, 0, 0xffffffffffffffff, 8, true, 0, false, false⟩,  -- Replacements
  ⟨0x6190, 2, 5, 0, 2, 0, 0, 0xffffffffffffffff, 8, true, 0, false, false⟩,  -- ReplacementsFailed
  ⟨0x6190, 3, 5, 0, 2, 0, 0, 0xffffffffffffffff, 8, true, 0, false, false⟩,  -- BankFixes
  ⟨0x6190, 4, 5, 0, 2, 0, 0, 0xffffffffffffffff, 8, true, 0, false, false⟩,  -- StreamLate
  ⟨0x6190, 5, 5, 0, 2, 0, 0, 0xffffffffffffffff, 8, true, 0, false, false⟩,  -- DrainTimeouts
  ⟨0x61A0, 0, 2, 3, 0, 6, 0, 255, 1, true, 0, false, false⟩,  -- SlotCounters
  ⟨0x61A0, 1, 5, 0, 2, 0, 0, 0xffffffffffffffff, 8, true, 0, false, false⟩,  -- SlotsSent
  ⟨0x61A0, 2, 5, 0, 2, 0, 0, 0xffffffffffffffff, 8, true, 0, false, false⟩,  -- SlotsReceived
  ⟨0x61A0, 3, 5, 0, 2, 0, 0, 0xffffffffffffffff, 8, true, 0, false, false⟩,  -- SlotsLate
  ⟨0x61A0, 4, 5, 0, 2, 0, 0, 0xffffffffffffffff, 8, true, 0, false, false⟩,  -- SlotMisses
  ⟨0x61A0, 5, 5, 0, 2, 0, 0, 0xffffffffffffffff, 8, true, 0, false, false⟩,  -- LanesBelowG
  ⟨0x61A0, 6, 5, 0, 2, 0, 0, 0xffffffffffffffff, 8, true, 0, false, false⟩,  -- FaultsInjected
  ⟨0x6300, 0, 2, 3, 0, 1, 0, 255, 1, true, 0, false, false⟩,  -- FaultInjection
  ⟨0x6300, 1, 13, 2, 2, 0, 0, 0, 32, true, 1, false, true⟩,  -- FaultInject
  ⟨0x6310, 0, 2, 3, 0, 1, 0, 255, 1, true, 0, false, false⟩,  -- FaultProvocation
  ⟨0x6310, 1, 13, 2, 2, 0, 0, 0, 32, true, 1, false, true⟩]  -- FaultProvoke

/-- Objects of 0x7000–0x7100 (R519–R522, R536). -/
def objsSecurity : List ObjInfo := [
  ⟨0x7000, 0, 2, 3, 0, 7, 0, 255, 1, true, 0, false, false⟩,  -- SecurityIdentity
  ⟨0x7000, 1, 13, 3, 0, 0, 0, 0, 48, true, 0, false, false⟩,  -- DevIdKeyId
  ⟨0x7000, 2, 13, 3, 0, 0, 0, 0, 97, true, 0, false, false⟩,  -- DevIdPublicKey
  ⟨0x7000, 3, 13, 3, 0, 0, 0, 0, 2048, false, 0, false, false⟩,  -- DevIdCertificate
  ⟨0x7000, 4, 13, 3, 0, 0, 0, 0, 2048, false, 0, false, false⟩,  -- DeviceCaCertificate
  ⟨0x7000, 5, 13, 3, 0, 0, 0, 0, 192, true, 0, false, false⟩,  -- RootKeyHashes
  ⟨0x7000, 6, 2, 0, 2, 0, 0, 255, 1, true, 0, false, false⟩,  -- RootKeyRevoked
  ⟨0x7000, 7, 13, 2, 0, 0, 0, 0, 104, true, 2, false, false⟩,  -- RootRevoke
  ⟨0x7010, 0, 2, 3, 0, 4, 0, 255, 1, true, 0, false, false⟩,  -- AntiRollback
  ⟨0x7010, 1, 2, 0, 2, 0, 0, 255, 1, true, 0, false, false⟩,  -- StewardCounter
  ⟨0x7010, 2, 2, 0, 2, 0, 0, 255, 1, true, 0, false, false⟩,  -- PowerBoardCounter
  ⟨0x7010, 3, 2, 0, 2, 0, 0, 255, 1, true, 0, false, false⟩,  -- JobImageCounter
  ⟨0x7010, 4, 2, 2, 2, 0, 0, 2, 1, true, 2, false, false⟩,  -- AntiRollbackCommit
  ⟨0x7020, 0, 2, 3, 0, 6, 0, 255, 1, true, 0, false, false⟩,  -- Measurements
  ⟨0x7020, 1, 13, 0, 2, 0, 0, 0, 48, true, 0, false, false⟩,  -- MeasurementM0
  ⟨0x7020, 2, 13, 0, 2, 0, 0, 0, 48, true, 0, false, false⟩,  -- MeasurementM1
  ⟨0x7020, 3, 13, 0, 2, 0, 0, 0, 48, true, 0, false, false⟩,  -- MeasurementM2
  ⟨0x7020, 4, 13, 0, 2, 0, 0, 0, 48, true, 0, false, false⟩,  -- MeasurementM3
  ⟨0x7020, 5, 13, 0, 2, 0, 0, 0, 48, true, 0, false, false⟩,  -- MeasurementM4
  ⟨0x7020, 6, 13, 0, 2, 0, 0, 0, 48, true, 0, false, false⟩,  -- MeasurementM5
  ⟨0x7030, 0, 2, 3, 0, 3, 0, 255, 1, true, 0, false, false⟩,  -- Attestation
  ⟨0x7030, 1, 13, 2, 2, 0, 0, 0, 32, true, 0, false, false⟩,  -- AttestNonce
  ⟨0x7030, 2, 13, 0, 2, 0, 0, 0, 640, true, 0, false, false⟩,  -- AttestEvidence
  ⟨0x7030, 3, 13, 0, 2, 0, 0, 0, 48, true, 0, false, false⟩,  -- ConfigHash
  ⟨0x7040, 0, 2, 3, 0, 3, 0, 255, 1, true, 0, false, false⟩,  -- FirmwareUpdate
  ⟨0x7040, 1, 13, 2, 0, 0, 0, 0, 24, true, 2, false, false⟩,  -- FirmwareCommand
  ⟨0x7040, 2, 4, 0, 2, 0, 0, 0xffffffff, 4, true, 0, false, false⟩,  -- LastUpdateResult
  ⟨0x7040, 3, 2, 0, 2, 0, 0, 255, 1, true, 0, false, false⟩,  -- BootCopy
  ⟨0x7100, 0, 2, 3, 0, 6, 0, 255, 1, true, 0, false, false⟩,  -- Ownership
  ⟨0x7100, 1, 2, 0, 2, 0, 0, 255, 1, true, 0, false, false⟩,  -- OwnerState
  ⟨0x7100, 2, 13, 2, 2, 0, 0, 0, 112, true, 2, false, false⟩,  -- KeyCommand
  ⟨0x7100, 3, 13, 0, 2, 0, 0, 0, 2560, false, 0, true, false⟩,  -- KeyEntries
  ⟨0x7100, 4, 1, 1, 2, 0, 0, 1, 1, true, 2, true, false⟩,  -- VendorAccess
  ⟨0x7100, 5, 2, 2, 0, 0, 1, 1, 1, true, 2, false, false⟩,  -- OwnerRelease
  ⟨0x7100, 6, 4, 0, 2, 0, 0, 0xffffffff, 4, true, 0, false, false⟩]  -- TestSessions

/-- Objects of intake function f (R326). -/
def objsIntake (f : Nat) : List ObjInfo := [
  ⟨0x3110 + f, 0, 2, 3, 0, 7, 0, 255, 1, true, 0, false, false⟩,
  ⟨0x3110 + f, 1, 1, 1, 2, 1, 0, 1, 1, true, 1, false, false⟩,
  ⟨0x3110 + f, 2, 3, 1, 2, 1024, 0, 16384, 2, true, 1, false, false⟩,
  ⟨0x3110 + f, 3, 5, 1, 0, 0, 0, 0xffffffffffffffff, 8, true, 1, false, false⟩,
  ⟨0x3110 + f, 4, 5, 1, 0, 0, 0, 0xffffffffffffffff, 8, true, 1, false, false⟩,
  ⟨0x3110 + f, 5, 4, 1, 0, 0, 0, 0x100000, 4, true, 1, false, false⟩,
  ⟨0x3110 + f, 6, 5, 1, 0, 0, 0, 0xffffffffffffffff, 8, true, 1, false, false⟩,
  ⟨0x3110 + f, 7, 13, 0, 2, 0, 0, 0, 16, true, 0, false, false⟩]

/-- Objects of bundle b (R382). -/
def objsBundle (b : Nat) : List ObjInfo := [
  ⟨0x5220 + b, 0, 2, 3, 0, 7, 0, 255, 1, true, 0, false, false⟩,
  ⟨0x5220 + b, 1, 2, 0, 2, 0, 0, 255, 1, true, 0, false, false⟩,
  ⟨0x5220 + b, 2, 2, 0, 2, 0, 0, 255, 1, true, 0, false, false⟩,
  ⟨0x5220 + b, 3, 3, 0, 2, 0xffff, 0, 65535, 2, true, 0, false, false⟩,
  ⟨0x5220 + b, 4, 5, 0, 2, 0, 0, 0xffffffffffffffff, 8, true, 0, false, false⟩,
  ⟨0x5220 + b, 5, 5, 0, 2, 0, 0, 0xffffffffffffffff, 8, true, 0, false, false⟩,
  ⟨0x5220 + b, 6, 5, 0, 2, 0, 0, 0xffffffffffffffff, 8, true, 0, false, false⟩,
  ⟨0x5220 + b, 7, 5, 0, 2, 0, 0, 0xffffffffffffffff, 8, true, 0, false, false⟩]
/-- An RO object of class L. -/
def roInfo (idx sub ty len : Nat) (fixed : Bool) : ObjInfo := ⟨idx, sub, ty, 0, 2, 0, 0, 0, len, fixed, 0, false, false⟩

/-- A CONST U8 object. -/
def constInfo (idx sub v : Nat) : ObjInfo := ⟨idx, sub, 2, 3, 0, v, 0, 255, 1, true, 0, false, false⟩

/-- The array families 0x8000–0x8BFF (R434, R435, R471): index 0x8000 + 0x100·F + 0x40·e + d. -/
def arrayInfo (idx sub : Nat) : Option ObjInfo :=
  let f := idx / 256 % 16
  let d := idx % 64
  let ergWide := d = 63
  if d ≥ 48 ∧ ¬ ergWide then none
  else
    let upTo := fun (n ty len : Nat) =>
      if sub = 0 then some (constInfo idx 0 n) else if sub ≤ n then some (roInfo idx sub ty len true) else none
    match f with
    | 0 => if sub = 3 then (if ergWide then none else some (roInfo idx 3 3 2 true)) else upTo (if ergWide then 2 else 3) 2 1
    | 1 => upTo 9 5 8
    | 2 => upTo 6 5 8
    | 3 => upTo 8 5 8
    | 4 => upTo 4 5 8
    | 5 => upTo 3 5 8
    | 6 => upTo 10 5 8
    | 7 => if ergWide then none else upTo 96 13 160
    | 8 => if ergWide then none
      else if sub = 2 then some (roInfo idx 2 13 13056 false) else upTo 2 3 2
    | 9 => if ergWide then none else upTo 2 2 1
    | 10 =>
      if ergWide then
        match sub with
        | 0 => some (constInfo idx 0 3)
        | 2 => some (roInfo idx 2 10 4 true)
        | 3 => some (roInfo idx 3 2 1 true)
        | _ => none
      else
        match sub with
        | 0 => some (constInfo idx 0 4)
        | 1 => some (roInfo idx 1 10 4 true)
        | 2 => some (roInfo idx 2 10 4 true)
        | 3 => some (roInfo idx 3 2 1 true)
        | 4 => some (roInfo idx 4 13 12 true)
        | _ => none
    | 11 =>
      match sub with
      | 0 => some (constInfo idx 0 (if ergWide then 1 else 3))
      | 1 => some (roInfo idx 1 10 4 true)
      | 2 => if ergWide then none else some (roInfo idx 2 2 1 true)
      | 3 => if ergWide then none else some ⟨idx, 3, 4, 0, 2, 0, 0, 0, 4, true, 0, true, false⟩
      | _ => none
    | _ => none

/-- The rows of an index's table (R428). -/
def indexRows (idx : Nat) : List ObjInfo :=
  if 0x3110 ≤ idx ∧ idx ≤ 0x311F then objsIntake (idx - 0x3110)
  else if 0x5220 ≤ idx ∧ idx ≤ 0x5227 then objsBundle (idx - 0x5220)
  else
    let all := match idx / 4096 with
      | 1 => objsIdentity
      | 2 => objsConfig
      | 3 => objsJobs
      | 4 => objsPower
      | 5 => objsFabric
      | 6 => if idx < 0x6100 then objsFaults else objsCounters
      | 7 => objsSecurity
      | _ => []
    all.filter fun o => o.idx == idx

/-- The object of an address, or which of NO_OBJECT (`true`) and NO_SUBINDEX (`false`) holds (R405, R427). -/
def findObj (idx sub : Nat) : ObjInfo ⊕ Bool :=
  if 0x8000 ≤ idx ∧ idx < 0x8C00 then
    match arrayInfo idx sub with
    | some o => .inl o
    | none => .inr (arrayInfo idx 0).isNone
  else
    match indexRows idx with
    | [] => .inr true
    | rows => match rows.find? fun o => o.sub == sub with
      | some o => .inl o
      | none => .inr false

/-- The key of an object address. -/
def objKey (idx sub : Nat) : Nat := 256 * idx + sub

/-- The default of an object (R409), by grade for TokenEnvelope (R325) and by stepping for the latency table (R132). -/
def objDefault (m : Mach) (key : Nat) : Nat :=
  if key = objKey 0x3101 1 then (if m.gradeE then 13400 else 16400)
  else if key = objKey 0x2F00 3 then (if m.steppingB1 then 18 else 20)
  else if key = objKey 0x2F00 6 then (if m.steppingB1 then 12 else 14)
  else if key = objKey 0x2F00 13 then (if m.steppingB1 then 5 else 6)
  else match findObj (key / 256) (key % 256) with
    | .inl o => o.dflt
    | .inr _ => 0

/-- The last accepted value of an object (R411). The map holds `value + 1`; an unlisted object holds its default. -/
def odGet (m : Mach) (idx sub : Nat) : Nat :=
  match sget 0 m.od (objKey idx sub) with
  | 0 => objDefault m (objKey idx sub)
  | v + 1 => v

/-- Store a value of an object, without change-class delay. -/
def odSet (m : Mach) (idx sub v : Nat) : Mach :=
  { m with od := sset 0 m.od (objKey idx sub) (if v = objDefault m (objKey idx sub) then 0 else v + 1) }

/-- The value in force: a class B value that waits for a beat boundary is not yet in force (R410). -/
def odEff (m : Mach) (idx sub : Nat) : Nat :=
  match m.waitingB.find? fun e => e.1 == objKey idx sub with
  | some e => e.2
  | none => odGet m idx sub

/-! ## Counters (R413) -/

/-- Add to a counter of a module. -/
def count (m : Mach) (idx sub n : Nat) : Mach := odSet m idx sub (odGet m idx sub + n)

/-- The array family that copies a counter index per dune, with its highest copied sub-index (R434). -/
def copyFamily (idx : Nat) : Option (Nat × Nat) :=
  match idx with
  | 0x6120 => some (1, 9)
  | 0x6130 => some (2, 6)
  | 0x6140 => some (3, 8)
  | 0x6150 => some (4, 4)
  | 0x6160 => some (5, 3)
  | 0x5101 => some (6, 10)
  | _ => none

/-- The array index of a family for a dune; `num` 63 is the erg as a whole (R434). -/
def arrayIndex (f erg num : Nat) : Nat := 0x8000 + 256 * f + 64 * erg + num

/-- Add to a counter, to its copy for a dune and to its erg sum, so that the module value is the sum of its copies and of
the units outside the dunes (R413, R434). -/
def countDune (m : Mach) (erg num idx sub n : Nat) : Mach :=
  if n = 0 then m
  else
    let m := count m idx sub n
    match copyFamily idx with
    | some (f, hi) =>
      if sub ≤ hi then count (count m (arrayIndex f erg num) sub n) (arrayIndex f erg 63) sub n else m
    | none => m

/-- An object kept through a power cycle: non-volatile objects, and the counts since manufacture (R409, R121, R223, R469,
R471, R504, R518). -/
def survivesPower (key : Nat) : Bool :=
  let idx := key / 256
  let sub := key % 256
  (match findObj idx sub with
    | .inl o => o.nv
    | .inr _ => false)
  || (idx == 0x6140 && sub == 7) || (idx == 0x5101 && sub == 10) || (idx == 0x4200 && sub == 7)
  || (idx == 0x7010) || (idx == 0x7000 && sub == 6)
  || (0x8300 ≤ idx && idx < 0x8400 && sub == 7) || (0x8600 ≤ idx && idx < 0x8700 && sub == 10)

/-- A counter reset to 0 on entry into LOADING (R54, R90, R121, R161, R191, R223, R249, R328, R349, R384, R470, R496). -/
def resetsAtLoading (key : Nat) : Bool :=
  let idx := key / 256
  let sub := key % 256
  sub != 0 &&
  ((idx == 0x6120) || (idx == 0x6130) || (idx == 0x6140 && sub != 7) || (idx == 0x6150) || (idx == 0x6160)
   || (idx == 0x5101 && sub != 10) || (idx == 0x6170) || (idx == 0x6180) || (idx == 0x6190)
   || (idx == 0x61A0 && sub != 6) || (idx == 0x4300 && sub == 7) || (idx == 0x6010 && sub != 5)
   || (0x8100 ≤ idx && idx < 0x8700 && !(idx < 0x8400 && 0x8300 ≤ idx && sub == 7) && !(0x8600 ≤ idx && sub == 10)))

/-- Every listed object that satisfies `p` at its default. -/
def odClear (m : Mach) (p : Nat → Bool) : Mach := { m with od := m.od.filter fun e => !p e.1 }

end Sys2Proof.Machine
end

