-- ==== Sys2Proof/Machine/Ops.lean ====
section
/-! DEFINITION. The named operations that every family shares: keys and accessors of the sparse maps, time, outputs, free
values, events, module states, and raising a fault on the control mesh. -/

namespace Sys2Proof.Machine

/-! ## Keys -/

def duneKey (d : DuneId) : Nat := 48 * d.erg.val + d.num.val
def rowKey (r : RowId) : Nat := 96 * duneKey r.dune + r.num.val
def coreKey (c : CoreId) : Nat := 16 * rowKey c.row + c.num.val
def threadKey (t : Thread) : Nat := 8 * coreKey t.core + t.num.val

/-- The dune of a dune key. -/
def duneOf (k : Nat) : DuneId := ⟨Fin.ofNat 4 (k / 48), Fin.ofNat 48 (k % 48)⟩

/-- The row of a row key. -/
def rowOf (k : Nat) : RowId := ⟨duneOf (k / 96), Fin.ofNat 96 (k % 96)⟩

/-- Key of an island that is no dune. -/
def islandKey : Island → Nat
  | .dune d => duneKey d
  | .bridge k => 200 + k.val
  | .hbm k => 240 + k.val
  | .bundle k => 280 + k.val
  | .pcie => 290
  | .mgmt => 291
  | .steward e => 292 + e.val

/-- Key of a power domain (R444). -/
def domainKey : Domain → Nat
  | .dune d => duneKey d
  | .hbm k => 200 + k.val
  | .bundle k => 240 + k.val
  | .edge e => 250 + e.val

/-! ## Accessors -/

def getThread (m : Mach) (t : Thread) : ThreadState := sget {} m.threads (threadKey t)
def setThread (m : Mach) (t : Thread) (v : ThreadState) : Mach := { m with threads := sset {} m.threads (threadKey t) v }
def getRow (m : Mach) (r : RowId) : RowState := sget {} m.rows (rowKey r)
def setRow (m : Mach) (r : RowId) (v : RowState) : Mach := { m with rows := sset {} m.rows (rowKey r) v }
def getDune (m : Mach) (d : DuneId) : DuneState := sget {} m.dunes (duneKey d)
def setDune (m : Mach) (d : DuneId) (v : DuneState) : Mach := { m with dunes := sset {} m.dunes (duneKey d) v }
def getSite (w : RowState) (s : Nat) : Site := sget {} w.sites s
def setSite (w : RowState) (s : Nat) (v : Site) : RowState := { w with sites := sset {} w.sites s v }
def getQueues (m : Mach) (c : CoreId) : QueueState := sget {} m.queues (coreKey c)
def setQueues (m : Mach) (c : CoreId) (v : QueueState) : Mach := { m with queues := sset {} m.queues (coreKey c) v }
def getFn (m : Mach) (f : Nat) : Fn := sget {} m.fns f
def setFn (m : Mach) (f : Nat) (v : Fn) : Mach := { m with fns := sset {} m.fns f v }
def getCtx (m : Mach) (c : Nat) : Context := sget {} m.ctxs c
def setCtx (m : Mach) (c : Nat) (v : Context) : Mach := { m with ctxs := sset {} m.ctxs c v }
def getBundle (m : Mach) (b : Nat) : Bundle := sget {} m.bundles b
def setBundle (m : Mach) (b : Nat) (v : Bundle) : Mach := { m with bundles := sset {} m.bundles b v }

/-- Every dune of the module. -/
def allDunes : List DuneId := (List.range 192).map duneOf

/-- The dunes that the running job uses (R261, R435). -/
def jobDunes (m : Mach) : List DuneId :=
  match m.job with
  | some j => j.map.map fun e => duneOf e.2
  | none => []

def isJobDune (m : Mach) (d : DuneId) : Bool :=
  match m.job with
  | some j => j.map.any fun e => e.2 == duneKey d
  | none => false

/-! ## Outputs and free values -/

def emit (m : Mach) (o : Output) : Mach := { m with out := m.out ++ [o] }

/-- A function has no part in serving (R390). -/
def fnDown (m : Mach) (f : Nat) : Bool := !(getFn m f).up

/-- The parts of a host transfer of `n` bytes, as address and length: split at 4 KiB boundaries and at the partner's limit (R397). -/
def hostParts (cap : Nat) : Nat → Nat → Nat → List (Nat × Nat)
  | 0, _, _ => []
  | fuel + 1, addr, n =>
    if n = 0 then []
    else
      let k := min n (min cap (4096 - addr % 4096))
      (addr, k) :: hostParts cap fuel (addr + k) (n - k)

/-- A posted write of a function (R397); discarded while the function is down (R390, R399). -/
def hostWrite (m : Mach) (fn addr : Nat) (bytes : List Byte) : Mach :=
  if fnDown m fn then m
  else (hostParts (128 * 2 ^ m.port.payloadCode) bytes.length addr bytes.length).foldl (fun m p =>
    emit m (.hostWrite fn p.1 ((bytes.drop (p.1 - addr)).take p.2))) m

/-- Memory reads of a function (R397). -/
def hostRead (m : Mach) (fn addr n : Nat) : Mach :=
  (hostParts (128 * 2 ^ m.port.readCode) n addr n).foldl (fun m p => emit m (.hostRead fn p.1 p.2)) m

/-- The next draw of a free value: the model's own counter (assumption 7). -/
def draw (m : Mach) : Nat × Mach := (m.fresh, { m with fresh := m.fresh + 1 })

/-! ## Time (R4, R214)

The clock counts units of 1/217 ns, of which one cycle of a dune island is 124 on A4 and 140 on A4E (R4). Islands run at
their nominal clock (assumption 5). -/

def cycleTu (m : Mach) : Nat := if m.gradeE then 140 else 124

/-- HTC of the module root at the present instant, in ns (R214). -/
def htcNow (m : Mach) : Nat := ((m.now / 217 : Nat) + m.htcOffset).toNat

/-- The clock at an HTC instant. -/
def tuAt (m : Mach) (ns : Nat) : Nat := ((ns : Int) - m.htcOffset).toNat * 217

/-- Cycles in a span of ns at the grade's nominal clock, rounded down, and rounded up (R227, R231). -/
def cyclesFloor (m : Mach) (ns : Nat) : Nat := ns * 217 / cycleTu m
def cyclesCeil (m : Mach) (ns : Nat) : Nat := ceilDiv (ns * 217) (cycleTu m)

/-- Order of landing: by instant, then as R131 orders the writes of one cycle. -/
def landsBefore (a b : Landing) : Bool := a.due < b.due || (a.due == b.due && a.rank ≤ b.rank)

/-- A landing queued behind those that land before it. -/
def queueLanding (l : Landing) : List Landing → List Landing
  | [] => [l]
  | x :: rest => if landsBefore x l then x :: queueLanding l rest else l :: x :: rest

/-- `new` written at address `na` over the `buf` that stands for address `a`, unit by unit of 64 bytes, each unit taken or
not as the draws from `k` on decide; and how many draws that took (R148, R185). -/
def raceUnits (a : Nat) (buf : List Byte) (na : Nat) (new : List Byte) (k : Nat) : List Byte :=
  (List.range buf.length).map fun i =>
    let old := buf.getD i 0
    if na ≤ a + i ∧ a + i < na + new.length ∧ Config.raceTakesNew (k + i / 64) then new.getD (a + i - na) 0 else old

/-- Two byte ranges meet. -/
def overlaps (a n b k : Nat) : Bool := a < b + k && b < a + n

/-- Bytes written to local memory at `na` race with the sources of PUTs still being read and of outstanding QSTs (R148,
R185). -/
def raceLocal (m : Mach) (na : Nat) (new : List Byte) (due : Nat) : Mach :=
  let hitP := fun (p : Packet) => due ≤ p.readUntil && overlaps p.source p.bytes.length na new.length
  let hitT := fun (x : Transfer) => !x.load && overlaps x.localAddr.toNat x.length na new.length
  let anyT := m.queues.any fun q => q.2.entries.any fun e => match e.2 with
    | some x => hitT x
    | none => false
  if m.packets.any hitP || anyT then
    let k := m.fresh
    { m with
      fresh := k + 64
      packets := m.packets.map fun p => if hitP p then { p with bytes := raceUnits p.source p.bytes na new k } else p
      queues := m.queues.map fun q => (q.1, { q.2 with entries := q.2.entries.map fun e => (e.1, e.2.map fun x =>
        if hitT x then { x with source := raceUnits x.localAddr.toNat x.source na new k } else x) }) }
  else m

/-- One landing applied. -/
def landOne (m : Mach) (l : Landing) : Mach :=
  let m := raceLocal m l.addr l.bytes l.due
  { m with sram := writeBytes m.sram l.addr l.bytes }

/-- Everything that has landed by `t` written to fabric SRAM, in the order of R131. -/
def landUpTo (m : Mach) (t : Nat) : Mach :=
  let due := m.landings.takeWhile fun l => l.due ≤ t
  due.foldl landOne { m with landings := m.landings.dropWhile fun l => l.due ≤ t }

/-- A register written by its interlock number: g at 0–31, v at 32–47 (R127). -/
def writeReg (ts : ThreadState) (k x : Nat) : ThreadState :=
  if h : k < 32 then (if k = 0 then ts else { ts with g := ts.g.set k (BitVec.ofNat 64 x) h })
  else if h : k - 32 < 16 then { ts with v := ts.v.set (k - 32) (BitVec.ofNat 512 x) h }
  else ts

/-- The value of loaded bytes, unsigned or sign-extended to 64 bits (R136). -/
def loadValue (signed : Bool) (bytes : List Byte) : Nat :=
  let n := 8 * bytes.length
  let x := leNat bytes
  if signed ∧ x / 2 ^ (n - 1) % 2 = 1 then x + (2 ^ 64 - 2 ^ n) else x

/-- Bytes of fabric SRAM as a reader sees them: where an outstanding QLD delivers to them, the old or the new value, per
64-byte unit (R185). -/
def readSram (m : Mach) (addr n : Nat) : List Byte × Mach :=
  let base := readBytes m.sram addr n
  let racing := m.queues.flatMap fun q => q.2.entries.filterMap fun e => match e.2 with
    | some x => if x.load && overlaps x.localAddr.toNat x.length addr n then some x else none
    | none => none
  racing.foldl (fun r x =>
    let k := r.2.fresh
    let new := if x.source.isEmpty then (List.range x.length).map fun i => Config.freeByte (k + i) else x.source
    (raceUnits addr r.1 x.localAddr.toNat new k, { r.2 with fresh := k + 4096 })) (base, m)

/-- A scratchpad bank serves one load: it sees all that landed before its service cycle (R168). -/
def serveLoad (m : Mach) (l : LoadReq) : Mach :=
  let m := landUpTo m l.service
  let r := readSram m l.addr l.bytes
  let m := { r.2 with bankServed := sset 0 r.2.bankServed l.bank l.service }
  let k := (l.service - l.reach) / cycleTu m
  let m := countDune m l.thread.core.row.dune.erg.val l.thread.core.row.dune.num.val 0x6160 1 k
  match l.dest with
  | none => m
  | some d => setThread m l.thread (writeReg (getThread m l.thread) d (loadValue l.signed r.1))

/-- The clock moved forward to `t` with the fabric at rest: loads served and bytes landed by then take effect, in order. -/
def settle (m : Mach) (t : Nat) : Mach :=
  let t := max m.now t
  let due := m.loads.filter fun l => l.service ≤ t
  let m := due.foldl serveLoad { m with now := t, loads := m.loads.filter fun l => t < l.service }
  landUpTo m t

/-- Bytes that land in SRAM at the end of the cycle before `due`. -/
def land (m : Mach) (due rank addr : Nat) (bytes : List Byte) : Mach :=
  { m with landings := queueLanding ⟨due, rank, addr, bytes⟩ m.landings }

/-! ## Beats of an island (R225–R227) -/

/-- S(n) on the anchor a dune keeps, in HTC ns (R225). -/
def beatInstant (d : DuneState) (n : Nat) : Nat := d.anchor + (n - d.anchorBeat) * d.period

/-- P_b of a job: the proof variant runs with F · P_b (R266). -/
def jobBase (j : Job) : Nat := j.image.basePeriod * (if j.proof then j.image.proofFactor else 1)

/-- P_b of the loaded job. -/
def basePeriod (m : Mach) : Nat :=
  match m.job with
  | some j => jobBase j
  | none => 0

/-- L(n) of the beat a dune runs (R226). -/
def beatLength (m : Mach) (d : DuneState) (b : Beat) : Nat := d.period + (if b.stretched.isSome then basePeriod m else 0)

/-- C(n) = floor((L(n) − 20 ns) · f) (R227). -/
def commitCycle (m : Mach) (d : DuneState) (b : Beat) : Nat := cyclesFloor m (beatLength m d b - 20)

/-- x of R235: 8 · floor(P_b · f / 8). -/
def stretchCycles (m : Mach) : Nat := 8 * (basePeriod m * 217 / cycleTu m / 8)

/-- The variant in use (R257). -/
def jobVariant (j : Job) : Variant := if j.proof then j.image.proof else j.image.ordinary

/-- m_k of the job, without stretch (R231): the last mark is C_b. -/
def markCycle (m : Mach) (k : Nat) : Nat :=
  match m.job with
  | none => 0
  | some j =>
    let ms := (jobVariant j).marksNs
    if k + 1 < ms.length then cyclesCeil m (ms.getD k 0) else cyclesFloor m (jobBase j - 20)

/-- The mark of segment k in force in a beat: m_k + x once the beat has been stretched at or below it (R235, R237). -/
def markInForce (m : Mach) (b : Beat) (k : Nat) : Nat :=
  match b.stretched with
  | some j => if j ≤ k then markCycle m k + stretchCycles m else markCycle m k
  | none => markCycle m k

/-- A deadline or WAITT target in beat cycles after the stretches of the beat: a target of m_k or later waits x more
(R237). -/
def stretchTarget (m : Mach) (b : Beat) (target : Nat) : Nat :=
  match b.stretched with
  | some k => if target ≥ markCycle m k then target + stretchCycles m else target
  | none => target

/-- The beat cycle of an instant: the first cycle that starts at or after it. -/
def cycleAtOrAfter (m : Mach) (b : Beat) (t : Nat) : Nat := ceilDiv (t - b.start) (cycleTu m)

/-- The instant at which a beat cycle starts. -/
def cycleStart (m : Mach) (b : Beat) (c : Nat) : Nat := b.start + c * cycleTu m

/-- The first slot of thread number `k` at or after a cycle (R123). -/
def slotAtOrAfter (k c : Nat) : Nat := c + (k + 8 - c % 8) % 8

/-! ## Objects of the beat in use -/

/-- BeatNumber (R248), 0 outside a job. -/
def beatNumber (m : Mach) : Nat :=
  match m.job with
  | some j => j.lastStarted.getD 0
  | none => 0

/-! ## Control messages (R209, R210) -/

/-- Node number of a dune and of a steward. -/
def duneNode (d : DuneId) : Nat := 64 * d.erg.val + d.num.val
def stewardNode (e : Nat) : Nat := 64 * e + 48

/-- A header word (R210). -/
def meshHeader (type words dest source : Nat) : W32 :=
  BitVec.ofNat 32 (type * 2 ^ 28 + (if type ≤ 6 then 2 ^ 27 else 0) + words * 2 ^ 25 + dest * 256 + source)

def lo32 (n : Nat) : W32 := BitVec.ofNat 32 n
def hi32 (n : Nat) : W32 := BitVec.ofNat 32 (n / 2 ^ 32)

/-- Parts of a received message. -/
def msgType (x : MeshMsg) : Nat := x.header.toNat / 2 ^ 28
def msgSource (x : MeshMsg) : Nat := x.header.toNat % 256
def msgDest (x : MeshMsg) : Nat := x.header.toNat / 256 % 256
def msgUrgent (x : MeshMsg) : Bool := x.header.getLsbD 27

/-- The bound of R212 on an urgent message to one node, or to every node, in time units. -/
def urgentBound (x : MeshMsg) : Nat := (if msgDest x = 0xFF then 350 else 250) * 217

/-- A message may still be on its way: an urgent one has arrived by its bound. -/
def onItsWay (m : Mach) (c : CtrlMsg) : Bool := !msgUrgent c.msg || decide (m.now ≤ c.sent + urgentBound c.msg)

/-- Send a control message. -/
def postMesh (m : Mach) (x : MeshMsg) : Mach :=
  emit { m with ctrl := m.ctrl.filter (onItsWay m) ++ [⟨x, m.now, []⟩] } (.mesh x)

def sendMesh (m : Mach) (type words dest source : Nat) (w1 w2 w3 : W32) : Mach :=
  postMesh m ⟨meshHeader type words dest source, w1, w2, w3⟩

/-- Two messages of one source to one destination at one priority, which arrive in order (R212). -/
def sameWay (x y : MeshMsg) : Bool := msgSource x == msgSource y && msgDest x == msgDest y && msgUrgent x == msgUrgent y

/-- A message cannot reach a node yet: one sent before it on the same way has not. -/
def overtakes (m : Mach) (node : Nat) (x : MeshMsg) : Bool :=
  let waiting := m.ctrl.filter fun c => !c.reached.contains node
  waiting.any (fun c => c.msg == x)
    && (waiting.takeWhile fun c => c.msg != x).any fun c => onItsWay m c && sameWay c.msg x

/-- The first copy of a message that has not reached the node has done so; nothing is left of one for a single node. -/
def arrivesAt (node : Nat) (x : MeshMsg) : List CtrlMsg → List CtrlMsg
  | [] => []
  | c :: rest =>
    if c.msg = x ∧ !c.reached.contains node then
      if msgDest x = 0xFF then { c with reached := c.reached ++ [node] } :: rest else rest
    else c :: arrivesAt node x rest

/-! ## Interrupts and events (R393, R401, R491, R492) -/

/-- A generated MSI-X message: sent, or pending when its vector is masked (R401). -/
def msixGenerate (m : Mach) (f v : Nat) : Mach :=
  let fn := getFn m f
  if !fn.up then m
  else if fn.mask.getLsbD v then setFn m f { fn with pba := fn.pba ||| BitVec.ofNat 8 (2 ^ v) }
  else emit m (.msix f v)

/-- Signal vector 2 or 3: at most one message per MsixHoldoff (R401). -/
def msixHeld (m : Mach) (f v : Nat) : Mach :=
  let fn := getFn m f
  let last := sget 0 fn.lastMsix v
  if last ≠ 0 ∧ m.now + 1 < last + odGet m 0x5400 3 * 217000 then
    setFn m f { fn with heldOff := fn.heldOff ||| BitVec.ofNat 8 (2 ^ v) }
  else msixGenerate (setFn m f { fn with lastMsix := sset 0 fn.lastMsix v (m.now + 1) }) f v

/-- Set bits of every function's EventCause: a bit that goes from 0 to 1 signals vector 0 (R393, R401). -/
def setCauses (m : Mach) (bits : Nat) : Mach :=
  if bits = 0 then m
  else
    let m := (List.range 16).foldl (fun m f =>
      let fn := getFn m f
      let new := fn.cause.toNat ||| bits
      if new = fn.cause.toNat then m
      else msixGenerate (setFn m f { fn with cause := BitVec.ofNat 64 new }) f 0) m
    { m with
      out := m.out ++ m.sessions.filterMap fun x =>
        let hit := x.mask.toNat &&& bits
        if hit = 0 then none else some (.notify x.num x.txNext (BitVec.ofNat 64 hit) (htcNow m))
      sessions := m.sessions.map fun x => if x.mask.toNat &&& bits = 0 then x else { x with txNext := x.txNext + 1 } }

/-- The EventCause bit of an event code (R491, R393). -/
def causeOf (code : Nat) : Nat :=
  match code with
  | 0x8001 => 32 | 0x8002 => 16 | 0x8003 => 8 | 0x8007 => 8 | 0x800A => 2 | 0x800B => 4 | 0x800C => 1 | _ => 0

/-- Post an event: the log keeps the last 256 (R491, R492). `dune` is 63 for an edge field and 0xFF for none. -/
def postEventAt (m : Mach) (code erg dune beat value : Nat) : Mach :=
  let e : Event := ⟨BitVec.ofNat 16 code, erg, dune, lo32 beat, BitVec.ofNat 64 value⟩
  let log := m.events ++ [e]
  setCauses (count { m with events := log.drop (log.length - 256) } 0x6030 8 1) (causeOf code)

/-- Post an event of the engine, with the job's beat, 0 outside a job. -/
def postEvent (m : Mach) (code erg dune value : Nat) : Mach :=
  postEventAt m code erg dune (if m.job.isSome then beatNumber m else 0) value

/-- The code of a module state (R523). -/
def modCode : ModState → Nat
  | .off => 0 | .powering => 1 | .selftest => 2 | .standby => 3 | .loading => 4 | .running => 5 | .draining => 6
  | .faulted => 7 | .dumping => 8 | .restarting => 9 | .thermalHalt => 10 | .update => 11

/-- FAULT_N is asserted in FAULTED, DUMPING and THERMAL_HALT (R523). -/
def modFaulted : ModState → Bool
  | .faulted => true | .dumping => true | .thermalHalt => true | _ => false

/-- Accepted class B values take effect at once (R410). -/
def applyClassB (m : Mach) : Mach := { m with waitingB := [] }

/-- A state in which a job's beats do not run, so that a class B value does not wait (R410). -/
def stateEndsClassB : ModState → Bool
  | .running => false | .draining => false | .restarting => false | _ => true

/-- Bask stops in every row (R459). -/
def stopBask (m : Mach) : Mach :=
  { m with
    rows := smap {} m.rows fun _ w => { w with bask := none }
    dunes := smap {} m.dunes fun _ d => { d with basking := false }
    baskFired := 0 }

/-- Bask ends where it runs (R459). -/
def leaveBask (m : Mach) : Mach := if m.dunes.any fun d => d.2.basking then stopBask m else m

/-- The module changes its state: FAULT_N follows, the event is posted (R523, R491). -/
def setState (m : Mach) (st : ModState) : Mach :=
  if m.mode = st then m
  else
    let m := leaveBask { m with mode := st, power := { m.power with faultN := modFaulted st } }
    let m := if stateEndsClassB st then applyClassB m else m
    postEvent m 0x800C 0 0xFF (modCode st)

/-- The module runs: not in OFF, nor lost with its steward (R446). -/
def powered (m : Mach) : Bool := m.mode != .off && !m.power.dead

/-- A job's beats run (R410). -/
def beatsRun (m : Mach) : Bool := m.mode == .running || m.mode == .draining

/-! ## Raising a fault (R86, R159, R477) -/

/-- The severity of a fault code (R476). -/
def faultSeverity (code : Nat) : Nat :=
  if code = 0x0601 then 2 else if 0x0701 ≤ code ∧ code ≤ 0x070A then 3 else 1

/-- The codes of R476 that FaultProvoke may name (R494). -/
def faultListed (code : Nat) : Bool :=
  (1 ≤ code && code ≤ 0xA) || (0x101 ≤ code && code ≤ 0x103) || (0x201 ≤ code && code ≤ 0x204)
  || (0x301 ≤ code && code ≤ 0x303) || (0x401 ≤ code && code ≤ 0x405) || (0x501 ≤ code && code ≤ 0x506)
  || code == 0x601 || (0x701 ≤ code && code ≤ 0x70A)

/-- In a PAUSE, the beat n with S(n) ≤ t < S(n + 1) on the anchor that stays (R240, R245). -/
def pausedBeat (m : Mach) (d : DuneState) : Option Nat :=
  if d.pausedFrom.isSome ∧ d.period ≠ 0 ∧ d.anchor ≤ htcNow m then some (d.anchorBeat + (htcNow m - d.anchor) / d.period) else none

/-- The beat n with S(n) ≤ t < S(n + 1) on a dune's anchor (R245). -/
def beatOfNow (m : Mach) (d : DuneId) : Nat :=
  match (getDune m d).beat with
  | some b => b.n
  | none => (pausedBeat m (getDune m d)).getD (beatNumber m)

/-- A dune of the job: all of them keep one anchor. -/
def firstDune (m : Mach) : Option DuneId := (jobDunes m).head?

/-- The beat state of that dune. -/
def jobDuneState (m : Mach) : DuneState := ((firstDune m).map (getDune m)).getD {}

/-- The beat to which a fault of no one dune belongs now (R245). -/
def beatHere (m : Mach) : Nat := (pausedBeat m (jobDuneState m)).getD (beatNumber m)

/-- A job fault is open: the first one fixes the number of the first beat after the restart (R225). -/
def openFault (m : Mach) : Mach :=
  if beatsRun m then
    { m with job := m.job.map fun j =>
        { j with faultNext := some (j.faultNext.getD ((j.lastStarted.map (· + 1)).getD 0)) } }
  else m

/-- Byte 30 of the fault record (R479): valid, core and thread. -/
def threadByte (t : Thread) : Nat := 128 + 8 * t.core.num.val + t.num.val

/-- Word 1 of a FAULT message (R477). -/
def faultWord (code sev row : Nat) : W32 := BitVec.ofNat 32 (code * 2 ^ 16 + sev * 2 ^ 14 + row * 2 ^ 7)

/-- The address of an offset in a row's row buffer or scratchpad bank (R165). -/
def sramOf (r : RowId) (buf : Bool) (off : Nat) : Nat :=
  2 ^ 60 + r.dune.erg.val * 2 ^ 56 + r.dune.num.val * 2 ^ 50 + r.num.val * 2 ^ 43 + (if buf then 2 ^ 42 else 0) + off

/-- Where the next fault of a dune keeps its 64-bit detail: in the firmware scratch region of the dune, where the firmware keeps fault
records (R163, R477); the place is open (DESIGN CHOICE, assumption 142). -/
def detailPlace (m : Mach) (erg dune : Nat) : Nat :=
  sramOf ⟨duneOf (48 * erg + dune), 95⟩ false (0x3C0000 + 8 * (Config.scratchPlace (draw m).1 % 0x8000))

/-- The 64-bit detail of a dune's fault is stored at its place. -/
def keepDetail (m : Mach) (erg dune detail : Nat) : Mach :=
  if dune < 48 then
    { (draw m).2 with sram := writeBytes m.sram (detailPlace m erg dune) (leBytes 8 (detail % 2 ^ 64)) }
  else m

/-- A fault on its way to the module steward, and the FAULT message that carries it (R477). `thread` is as byte 30 of the
record (R479). -/
def raiseFault (m : Mach) (code : Nat) (erg dune row thread beat detail : Nat) : Mach :=
  let sev := faultSeverity code
  let rec_ : FaultRec := ⟨BitVec.ofNat 16 code, sev, erg, dune, row, BitVec.ofNat 8 thread, beat, BitVec.ofNat 64 detail, htcNow m⟩
  let src := if dune < 48 then 64 * erg + dune else stewardNode erg
  let m := keepDetail (openFault { m with raised := m.raised ++ [rec_] }) erg dune detail
  let m := if code ≤ 0xA ∧ dune < 48 then countDune m erg dune 0x6150 4 1 else m
  let m := if code = 0x501 then count m 0x6020 2 1 else if code = 0x502 then count m 0x6020 4 1 else m
  sendMesh m 1 3 (stewardNode 0) src (faultWord code sev row) (lo32 beat) (lo32 detail)

/-- The row stops issuing for the rest of the beat (R86). -/
def stopRow (m : Mach) (r : RowId) : Mach := setRow m r { getRow m r with stopped := true }

/-- A job fault that a row raises: the row stops and the dune sends the fault (R86, R159). -/
def rowFault (m : Mach) (r : RowId) (code thread detail : Nat) : Mach :=
  raiseFault (stopRow m r) code r.dune.erg.val r.dune.num.val r.num.val thread (beatOfNow m r.dune) detail

/-- A job fault that a dune raises: every row of it stops (R207, R246). -/
def duneFault (m : Mach) (d : DuneId) (code row detail : Nat) : Mach :=
  let m := (List.range 96).foldl (fun m r => stopRow m ⟨d, Fin.ofNat 96 r⟩) m
  raiseFault m code d.erg.val d.num.val row 0 (beatOfNow m d) detail

/-! ## Lists and words used throughout -/

/-- A number as a signed 64-bit word. -/
def w64 (n : Nat) : W64 := BitVec.ofNat 64 n

/-- The first position of a list at which `p` holds. -/
def firstIdx {α : Type} (p : α → Bool) (l : List α) : Option Nat := l.findIdx? p

end Sys2Proof.Machine
end

