-- ==== Sys2Proof/Machine/Flags.lean ====
section
/-! DEFINITION. Predicates and status bits: p0–p7 and the guard (R127, R134), the ModuleStatus word (R393), and the K4
precision counts (R33, R54). -/

namespace Sys2Proof.Machine

/-- Predicate k; p0 reads 1 (R127). -/
def readP (ts : ThreadState) (k : Nat) : Bool := k % 8 == 0 || ts.p.getLsbD (k % 8)

/-- Predicate k written; writes to p0 are discarded (R127). -/
def writeP (ts : ThreadState) (k : Nat) (v : Bool) : ThreadState :=
  if k % 8 = 0 then ts
  else { ts with p := if v then ts.p ||| BitVec.ofNat 8 (2 ^ (k % 8)) else ts.p &&& ~~~ BitVec.ofNat 8 (2 ^ (k % 8)) }

/-- An instruction executes only if p[gp] XOR gneg is 1 (R134). -/
def guardHolds (ts : ThreadState) (f : Fields) : Bool := readP ts f.gp.toNat != f.gneg

/-- The operations of PLOG (R136): 0 AND, 1 OR, 2 XOR, 3 AND-NOT. -/
def plogOp (k : Nat) (a b : Bool) : Bool :=
  match k with
  | 0 => a && b
  | 1 => a || b
  | 2 => a != b
  | _ => a && !b

/-- The conditions of CMP.EQ to CMP.LEU, by the offset of the opcode from 0x16 (R136). -/
def cmpHolds (k : Nat) (a b : W64) : Bool :=
  match k with
  | 0 => a == b
  | 1 => a != b
  | 2 => a.slt b
  | 3 => a.sle b
  | 4 => a.ult b
  | _ => a.ule b

/-- State code of an island (R215, R435). -/
def timeCode : TimeState → Nat
  | .free => 0 | .acquire => 1 | .locked => 2 | .holdover => 3

/-- RootState (R375, R383): the time unit of erg 0. -/
def rootState (m : Mach) : TimeState := (sget {} m.islands (islandKey (.steward 0))).time

/-- ModuleStatus (R393). -/
def moduleStatus (m : Mach) : W64 :=
  w64 (modCode m.mode * 2 ^ 24 + timeCode (rootState m) * 2 ^ 16 + (if odGet m 0x6030 1 = 2 then 4 else 0)
    + (if m.mode = .faulted then 2 else 0) + (if m.mode = .running then 1 else 0))

/-- The counts that one K4 block encoding makes (R33, R34, R55). -/
def countK4 (m : Mach) (d : DuneId) (k : K4Block) : Mach :=
  let c := fun m sub n => countDune m d.erg.val d.num.val 0x6120 sub n
  c (c (c m 1 (if k.sat then 1 else 0)) 6 k.nans) 8 (if k.underflow then 1 else 0)

end Sys2Proof.Machine
end

