-- ==== Sys2Proof/Machine/Address.lean ====
section
/-! DEFINITION. Fabric addresses (R164–R166, R188), ownership of row memories (R163), router positions of a dune (R17, R168),
and provoked memory errors (R472, R494). -/

namespace Sys2Proof.Machine

/-! ## Fabric addresses -/

/-- The space of an address (R164). -/
def addrSpace (a : W64) : Nat := a.toNat / 2 ^ 60

/-- The storage that a space 0x1 address names: row, row buffer or scratchpad bank, offset (R165, R166). -/
def sramAddr (a : W64) : Option (RowId × Bool × Nat) :=
  let n := a.toNat
  let dune := natBits n 55 50
  let row := natBits n 49 43
  let buf := natBits n 42 42 = 1
  let off := natBits n 21 0
  if addrSpace a = 1 ∧ natBits n 59 58 = 0 ∧ dune < 48 ∧ row < 96 ∧ natBits n 41 22 = 0 ∧ (buf → off < 0x40000) then
    some (⟨⟨Fin.ofNat 4 (natBits n 57 56), Fin.ofNat 48 dune⟩, Fin.ofNat 96 row⟩, buf, off)
  else none

/-- Bytes of a row buffer and of a scratchpad bank (R17). -/
def memSize (buf : Bool) : Nat := if buf then 0x40000 else 0x400000

/-- A range touches a reserved region (R163). -/
def touchesReserved (r : RowId) (buf : Bool) (off n : Nat) : Bool :=
  if buf then 0x3C000 < off + n else r.num.val == 95 && 0x3C0000 < off + n

/-- A range of the own row buffer or own scratchpad bank that a thread may use as a local side (R148, R150): aligned to
64 bytes, whole within the memory, and outside the reserved regions for a U thread. -/
def ownRange (r : RowId) (privF : Bool) (a : W64) (n : Nat) : Bool :=
  match sramAddr a with
  | some (q, buf, off) => q == r && off % 64 == 0 && off + n ≤ memSize buf && (privF || !touchesReserved r buf off n)
  | none => false

/-- Router position of a row (R17) and hop count between two rows of a dune (R168). -/
def meshX (r : Fin 96) : Nat := r.val % 8
def meshY (r : Fin 96) : Nat := r.val / 8
def absDiff (a b : Nat) : Nat := (a - b) + (b - a)
def hopCount (a b : Fin 96) : Nat := absDiff (meshX a) (meshX b) + absDiff (meshY a) (meshY b)

/-! ## Provoked errors of SRAM words (R472, R494) -/

/-- Field [hi:lo] of an armed FaultProvoke or FaultInject value. -/
def armedBits (a : Armed) (hi lo : Nat) : Nat := natBits a.value.toNat hi lo

/-- A provocation of the action is armed now (R494). -/
def provokes (m : Mach) (a : Armed) (action : Nat) : Bool := armedBits a 79 72 == action && armedBits a 255 192 ≤ htcNow m

/-- The action of a provocation performed: it counts, and it is spent (R384, R493). -/
def spendProvocation (m : Mach) (a : Armed) : Mach := count { m with provocations := m.provocations.erase a } 0x61A0 6 1

/-- ECC on a read of SRAM: a word with one flipped bit is corrected, one with two raises SRAM_UE in the dune (R472). The
Boolean tells an uncorrectable read. `t` is byte 30 of the record. -/
def eccRead (m : Mach) (r : RowId) (t addr n : Nat) : Mach × Bool :=
  let hits := fun (a : Armed) => overlaps (armedBits a 191 128 / 8 * 8) 8 addr n
  match m.provocations.find? fun a => (provokes m a 1 || provokes m a 2) && hits a with
  | none => (m, false)
  | some a =>
    let m := spendProvocation m a
    if armedBits a 79 72 = 1 then (count m 0x6020 1 1, false)
    else (rowFault m r 0x501 t (armedBits a 191 128), true)

/-! ## Sorted lists -/

/-- A sorted insertion by `le`. -/
def insertBy {α : Type} (le : α → α → Bool) (x : α) : List α → List α
  | [] => [x]
  | y :: rest => if le y x then y :: insertBy le x rest else x :: y :: rest

def sortBy {α : Type} (le : α → α → Bool) (l : List α) : List α := l.foldl (fun acc x => insertBy le x acc) []

end Sys2Proof.Machine
end

