-- ==== Sys2Proof/Machine/Route.lean ====
section
/-! DEFINITION. The data mesh as a map: positions (R14, R15, R17), ports and links (R196–R198), paths of the default plan (R200,
R553), alternate paths around OFF dunes (R219, R220), and the TC0 bound and minimum time (R205, R208). -/

namespace Sys2Proof.Machine

/-- Grid column and row of a dune number (R15). -/
def duneCol (d : Nat) : Nat := if d < 4 then 2 + d else if d < 44 then (d - 4) % 8 else 2 + (d - 44)
def duneRow (d : Nat) : Nat := if d < 4 then 0 else if d < 44 then 1 + (d - 4) / 8 else 6

/-- The dune number at a grid position; the eight corner positions hold none (R15). -/
def duneAt (col row : Nat) : Option Nat :=
  if row = 0 then (if 2 ≤ col ∧ col ≤ 5 then some (col - 2) else none)
  else if row = 6 then (if 2 ≤ col ∧ col ≤ 5 then some (44 + col - 2) else none)
  else if row < 6 ∧ col < 8 then some (4 + 8 * (row - 1) + col) else none

/-- A router by erg and by its column 0–63 and row 0–83 over the whole erg. -/
structure Router where
  erg : Nat
  x : Nat
  y : Nat
  deriving DecidableEq, Repr

/-- The router of a row (R17). -/
def routerOf (r : RowId) : Router :=
  ⟨r.dune.erg.val, 8 * duneCol r.dune.num.val + meshX r.num, 12 * duneRow r.dune.num.val + meshY r.num⟩

/-- The row key of a router. -/
def routerKey (p : Router) : Nat :=
  96 * (48 * p.erg + (duneAt (p.x / 8) (p.y / 12)).getD 0) + 8 * (p.y % 12) + p.x % 8

/-- The numbers from `a` (left out) to `b`, in steps of one. -/
def walk (a b : Nat) : List Nat :=
  if a ≤ b then (List.range (b - a)).map fun i => a + 1 + i else (List.range (a - b)).map fun i => a - 1 - i

/-- The path inside an erg (R200): X first, then Y; Y first from a dune of grid row 0 or 6 toward columns 0, 1, 6, 7, and
where `yFirst` asks for it (R262). -/
def pathInErg (yFirst : Bool) (p q : Router) : List Router :=
  let row := p.y / 12
  let col := q.x / 8
  if yFirst ∨ ((row = 0 ∨ row = 6) ∧ (col < 2 ∨ 5 < col)) then
    (walk p.y q.y).map (fun y => ⟨p.erg, p.x, y⟩) ++ (walk p.x q.x).map (fun x => ⟨p.erg, x, q.y⟩)
  else (walk p.x q.x).map (fun x => ⟨p.erg, x, p.y⟩) ++ (walk p.y q.y).map (fun y => ⟨p.erg, q.x, y⟩)

/-- The pair that an edge crossing uses for a final target (R553), and its bridge. -/
def facingPair (vertical : Bool) (target : Router) : Nat :=
  if vertical then
    let g := target.y / 12
    if g = 0 then 0 else if g = 6 then 59 else 12 * (g - 1) + target.y % 12
  else target.x

def bridgeOfPair (vertical : Bool) (k : Nat) : Nat := if vertical then (if k < 32 then k / 8 else 4 + (k - 32) / 7) else k / 8

/-- Facing router k of an erg on its vertical or horizontal edge (R198). -/
def facingRouter (vertical : Bool) (erg k : Nat) : Router :=
  if vertical then ⟨erg, if erg % 2 = 0 then 63 else 0, 12 * (1 + k / 12) + k % 12⟩
  else
    let inner := 2 ≤ k / 8 ∧ k / 8 ≤ 5
    ⟨erg, k, if erg < 2 then (if inner then 83 else 71) else (if inner then 0 else 12)⟩

/-- The edge between two bridged ergs, numbered as R379 numbers them, and whether it is vertical (R14). -/
def edgeOf (a b : Nat) : Nat × Bool :=
  match min a b, max a b with
  | 0, 1 => (0, true)
  | 0, 2 => (1, false)
  | 1, 3 => (2, false)
  | _, _ => (3, true)

/-- The path from a router over one bridged edge toward a target in erg `b` or beyond. -/
def crossTo (yFirst : Bool) (p : Router) (b : Nat) (target : Router) : List Router :=
  let v := (edgeOf p.erg b).2
  let k := facingPair v target
  pathInErg yFirst p (facingRouter v p.erg k) ++ [facingRouter v b k]

/-- The routers that a packet passes after its source router (R200, R262). -/
def pathWith (yFirst : Bool) (src dst : RowId) : List Router :=
  let p := routerOf src
  let q := routerOf dst
  if p.erg = q.erg then pathInErg yFirst p q
  else if p.erg + q.erg = 3 then
    let mid := if p.erg = 0 ∨ p.erg = 3 then 1 else 0
    let a := crossTo yFirst p mid q
    let b := crossTo yFirst (a.getLastD p) q.erg q
    a ++ b ++ pathInErg yFirst ((a ++ b).getLastD p) q
  else
    let a := crossTo yFirst p q.erg q
    a ++ pathInErg yFirst (a.getLastD p) q

/-- The path of the default plan. -/
def pathTo (src dst : RowId) : List Router := pathWith false src dst

/-- The dune key of a router. -/
def routerDune (p : Router) : Nat := 48 * p.erg + (duneAt (p.x / 8) (p.y / 12)).getD 0

/-- A router stands at the position: not one of the eight absent dune positions (R15). -/
def routerExists (p : Router) : Bool := (duneAt (p.x / 8) (p.y / 12)).isSome

/-- The path past dunes that are not usable: the default one, else the one that goes first in Y (R262); none where both lead
through such a dune. A path that goes first in Y into an absent position is none either (DEDUCED, assumption 18: R200 says so of
the default plan). -/
def openPath (bad : Nat → Bool) (src dst : RowId) : Option (List Router) :=
  let clear := fun (l : List Router) => l.all fun p => routerExists p && !bad (routerDune p)
  if clear (pathWith false src dst) then some (pathWith false src dst)
  else if clear (pathWith true src dst) then some (pathWith true src dst) else none

/-- An image's rule for a class: its paths go first in Y (R262; assumption 18). -/
def imageRule (img : Image) (cls : Nat) : Bool := img.routeRules.getD cls false

/-- The path of a route plan whose rule for the class is Y first or not (R262; assumption 18). -/
def planPath (yFirst : Bool) (bad : Nat → Bool) (src dst : RowId) : Option (List Router) :=
  let rule := pathWith yFirst src dst
  if rule.all fun p => routerExists p && !bad (routerDune p) then some rule else openPath bad src dst

/-- One hop of a path: mesh link, stitch or bridge crossing. -/
inductive HopKind where
  | mesh | stitch | bridge (edge bridge : Nat)
  deriving DecidableEq, Repr

def hopKind (p q : Router) : HopKind :=
  if p.erg ≠ q.erg then
    let e := edgeOf p.erg q.erg
    .bridge e.1 (bridgeOfPair e.2 (if e.2 then p.y - 12 else p.x))
  else if p.x / 8 = q.x / 8 ∧ p.y / 12 = q.y / 12 then .mesh else .stitch

/-- Output port of a hop: 0 east, 1 west, 2 north, 3 south (R196). A crossing leaves by the port that faces the bridged edge
(R14, R198). -/
def hopPort (p q : Router) : Nat :=
  if p.erg ≠ q.erg then
    if (edgeOf p.erg q.erg).2 then (if p.erg % 2 = 0 then 0 else 1) else if p.erg < 2 then 3 else 2
  else if p.x < q.x then 0 else if q.x < p.x then 1 else if q.y < p.y then 2 else 3

/-- The other ports of a router: the local port, the port that faces an edge field (one of the four, numbered apart here), and the
local port's way for queue units (R167, R196, R197). -/
def localPort : Nat := 4
def edgePort : Nat := 5
def queuePort : Nat := 6

/-- Number of a router's link by its output port. -/
def linkNum (router port : Nat) : Nat := 8 * router + port

/-- The hops of a path, each with its link number. -/
def hopsFrom (p : Router) : List Router → List (HopKind × Nat)
  | [] => []
  | q :: rest => (hopKind p q, linkNum (routerKey p) (hopPort p q)) :: hopsFrom q rest

def hopsOf (src dst : RowId) : List (HopKind × Nat) := hopsFrom (routerOf src) (pathTo src dst)

def meshHops (hs : List (HopKind × Nat)) : Nat := (hs.filter fun h => h.1 == .mesh).length
def stitchHops (hs : List (HopKind × Nat)) : Nat := (hs.filter fun h => h.1 == .stitch).length
def bridgeHops (hs : List (HopKind × Nat)) : List (Nat × Nat) := hs.filterMap fun h => match h.1 with
  | .bridge e b => some (e, b)
  | _ => none

/-- The minimum time in cycles (R208). -/
def minCycles (hs : List (HopKind × Nat)) (bytes : Nat) : Nat := 2 * meshHops hs + ceilDiv bytes 64 + 4

/-- Island boundaries of a path: one at a stitch or an edge field, two at a bridge, which is an island itself (R192, R208). -/
def boundaries (hs : List (HopKind × Nat)) : Nat := stitchHops hs + 2 * (bridgeHops hs).length

/-- Length in 1/10000 ns of n cycles at the longest period (R194). -/
def longCycles (m : Mach) (n : Nat) : Nat := n * (if m.gradeE then 6458 else 5720)

/-- The bound B of R205 at the longest period, in 1/10000 ns. -/
def boundLong (m : Mach) (hs : List (HopKind × Nat)) (bytes : Nat) : Nat :=
  longCycles m (2 * meshHops hs + ceilDiv bytes 64 + 6) + 90000 * stitchHops hs + 240000 * (bridgeHops hs).length

/-- Flits that a link carries in a cycle: two on the 1,024-bit ports that face a bridge group or an edge field (R196, R197). -/
def linkWidth : HopKind → Nat
  | .bridge .. => 2
  | _ => 1

/-- A dune that is OFF (R219). -/
def duneIsOff (m : Mach) (k : Nat) : Bool :=
  let p := (sget {} m.dunes k).power
  p == .off || p == .heat || p == .defect

/-! ## Dunes next to each other, and the way around OFF dunes (R219, R220) -/

/-- The dune that the router's straight line enters next in a direction (0 east, 1 west, 2 north, 3 south): its neighbour in the
grid, or across a bridged edge the dune that faces it, past an absent position where R198 wires it through. -/
def nextDune (k dir : Nat) : Option Nat :=
  let e := k / 48
  let c := duneCol (k % 48)
  let r := duneRow (k % 48)
  let key := fun (e : Nat) (x : Option Nat) => x.map fun n => 48 * e + n
  let inner := 2 ≤ c ∧ c ≤ 5
  match dir with
  | 0 => if c < 7 then key e (duneAt (c + 1) r) else if e % 2 = 0 ∧ 1 ≤ r ∧ r ≤ 5 then key (e + 1) (duneAt 0 r) else none
  | 1 => if 0 < c then key e (duneAt (c - 1) r) else if e % 2 = 1 ∧ 1 ≤ r ∧ r ≤ 5 then key (e - 1) (duneAt 7 r) else none
  | 2 => if r = (if inner then 0 else 1) then (if 2 ≤ e then key (e - 2) (duneAt c (if inner then 6 else 5)) else none)
    else key e (duneAt c (r - 1))
  | _ => if r = (if inner then 6 else 5) then (if e < 2 then key (e + 2) (duneAt c (if inner then 0 else 1)) else none)
    else key e (duneAt c (r + 1))

/-- The router at which a straight line from a router enters the next dune. -/
def enterNext (p : Router) (k dir : Nat) : Router :=
  match dir with
  | 0 => ⟨k / 48, 8 * duneCol (k % 48), p.y⟩
  | 1 => ⟨k / 48, 8 * duneCol (k % 48) + 7, p.y⟩
  | 2 => ⟨k / 48, p.x, 12 * duneRow (k % 48) + 11⟩
  | _ => ⟨k / 48, p.x, 12 * duneRow (k % 48)⟩

/-- The routers from a router, left out, to the edge of its dune in a direction. -/
def toEdge (p : Router) (dir : Nat) : List Router :=
  match dir with
  | 0 => (walk p.x (8 * (p.x / 8) + 7)).map fun x => ⟨p.erg, x, p.y⟩
  | 1 => (walk p.x (8 * (p.x / 8))).map fun x => ⟨p.erg, x, p.y⟩
  | 2 => (walk p.y (12 * (p.y / 12))).map fun y => ⟨p.erg, p.x, y⟩
  | _ => (walk p.y (12 * (p.y / 12) + 11)).map fun y => ⟨p.erg, p.x, y⟩

/-- The routers that straight lines in a list of directions pass, then X and Y inside the last dune to the target. -/
def walkDunes (q p : Router) : List Nat → List Router
  | [] => pathInErg false p q
  | dir :: rest =>
    match nextDune (routerDune p) dir with
    | none => []
    | some k => toEdge p dir ++ enterNext p k dir :: walkDunes q (enterNext p k dir) rest

/-- Breadth-first search over dunes: shortest lists of directions first, east before west before north before south. -/
def searchDunes (bad : Nat → Bool) (target : Nat) : Nat → List Nat → List (Nat × List Nat) → Option (List Nat)
  | 0, _, _ => none
  | _, _, [] => none
  | fuel + 1, seen, (k, dirs) :: rest =>
    if k = target then some dirs
    else
      let new := (List.range 4).filterMap fun dir => match nextDune k dir with
        | some q => if bad q || seen.contains q then none else some (q, dirs ++ [dir])
        | none => none
      searchDunes bad target fuel (seen ++ new.map (·.1)) (rest ++ new)

/-- A path that avoids dunes (R220; assumption 132: the spec gives no form of the alternate tables): fewest dunes first. -/
def detour (bad : Nat → Bool) (p q : Router) : Option (List Router) :=
  (searchDunes bad (routerDune q) 1024 [routerDune p] [(routerDune p, [])]).map (walkDunes q p)

/-! ## Traffic over a bridge -/

/-- An armed bridge injection for a packet's crossing and class (R379, R380). -/
def injectionFor (m : Mach) (kind target tc : Nat) : Option Armed :=
  m.injections.find? fun a =>
    armedBits a 87 80 == kind && armedBits a 95 88 == target && armedBits a 111 104 == tc && armedBits a 255 192 ≤ htcNow m

/-- An injection has affected `n` frames, flits or packets; spent when none is left. Each injection counts once. -/
def spendInjection (m : Mach) (a : Armed) (n : Nat) : Mach :=
  let first := a.left == armedBits a 191 160
  let m := if first then count m 0x61A0 6 1 else m
  let b := { a with left := a.left - n }
  { m with injections := if b.left = 0 then m.injections.erase a else m.injections.map fun x => if x = a then b else x }

/-- The head of a packet crosses bridge `b` of edge `e` from an erg, with an armed injection (R380): whether the packet survives. -/
def crossBridge (m : Mach) (erg e b cls flits target beat : Nat) : Mach × Bool :=
  match injectionFor m 2 (8 * e + b) cls with
  | none => (m, true)
  | some a =>
    if armedBits a 103 96 = 1 then (raiseFault (spendInjection m a 1) 0x303 erg 63 127 0 beat 0, false)
    else
      let n := min flits a.left
      let m := spendInjection m a n
      if armedBits a 159 144 = 0xFFFF then (count m 0x6020 5 n, true) else (raiseFault m 0x502 erg 63 127 0 beat target, true)

end Sys2Proof.Machine
end

