-- ==== Sys2Proof/Machine/Clock.lean ====
section
/-! DEFINITION. Islands and their clocks (R192, R209, R214–R218): the HTC copy that each island keeps, how it is steered and how it
drifts in HOLDOVER, and the moves of the root. The model follows a copy by its difference from the root (assumption 133). -/

namespace Sys2Proof.Machine

/-- The module's time root. -/
def rootIsland : Island := .steward 0

/-- Every island of R192. -/
def allIslands : List Island :=
  allDunes.map .dune ++ (List.finRange 32).map .bridge ++ (List.finRange 32).map .hbm ++ (List.finRange 8).map .bundle
  ++ [.pcie, .mgmt] ++ (List.finRange 4).map .steward

/-- State, last exchange, holdover entry and HTC copy of an island. -/
def islandState (m : Mach) : Island → IslandState
  | .dune d => let x := getDune m d; ⟨x.time, x.exchanged, x.holdSince, x.copy⟩
  | i => sget {} m.islands (islandKey i)

def setIsland (m : Mach) (i : Island) (x : IslandState) : Mach :=
  match i with
  | .dune d => setDune m d { getDune m d with time := x.time, exchanged := x.exchanged, holdSince := x.holdSince, copy := x.copy }
  | i => { m with islands := sset {} m.islands (islandKey i) x }

/-- The time state of an island. -/
def islandTime (m : Mach) (i : Island) : TimeState := (islandState m i).time

/-- An island's clock runs: its domain is up. -/
def islandRuns (m : Mach) : Island → Bool
  | .dune d => powered m && (getDune m d).power == .usable && m.power.dunesUp
  | .hbm k => powered m && sget 0 m.power.efuse (domainKey (.hbm k)) == 0
  | .bundle k => powered m && sget 0 m.power.efuse (domainKey (.bundle k)) == 0
  | .bridge k => powered m && sget 0 m.power.efuse (domainKey (.edge (Fin.ofNat 4 ([0, 0, 1, 2].getD (k.val / 8) 0)))) == 0
  | .steward e => powered m && sget 0 m.power.efuse (domainKey (.edge e)) == 0
  | _ => powered m && sget 0 m.power.efuse (domainKey (.edge 0)) == 0

/-- The control-mesh node of an island (R209). -/
def islandNode : Island → Nat
  | .dune d => duneNode d
  | .hbm k => 64 * (k.val / 8) + 50 + k.val % 8
  | .bundle k => 64 * (k.val / 2) + 58 + k.val % 2
  | .pcie => 60
  | .mgmt => 61
  | .steward e => 64 * e.val + 49
  | .bridge k => [62, 63, 64 + 62, 128 + 62].getD (k.val / 8) 62

/-! ## HTC copies (R214–R217) -/

/-- A copy's difference from the root at an instant, in 2^-16 ns: steered toward the root by 100 ppm, or running on its last steering
in HOLDOVER, at most 1 ns away per 10 ms (R216, R217). -/
def skewAt (c : HtcCopy) (t : Nat) : Int :=
  let e : Int := (t - c.since : Nat)
  match c.drift with
  | some k => c.skew + ((Config.holdoverDrift k : Fin 131073).val - 65536) * e / 2170000000
  | none =>
    let step := e * 65536 / 2170000
    if 0 ≤ c.skew then max 0 (c.skew - step) else min 0 (c.skew + step)

/-- HTC of a copy at the present instant, in ns. -/
def copyHtc (m : Mach) (c : HtcCopy) : Nat :=
  (((m.now * 65536 / 217 : Nat) + m.htcOffset * 65536 + skewAt c m.now) / 65536).toNat

/-- The clock when a copy reaches an HTC instant, by the skew that it has when the root does. -/
def copyTu (m : Mach) (c : HtcCopy) (ns : Nat) : Nat :=
  let skew := skewAt c (tuAt m ns)
  if skew = 0 then tuAt m ns else ((((ns : Int) - m.htcOffset) * 65536 - skew) * 217 / 65536).toNat

/-- The parent of an island in the tree of R214; the root has none. -/
def treeParent : Island → Option Island
  | .steward e => if e = 0 then none else if e = 3 then some (.steward 1) else some (.steward 0)
  | i => some (.steward (Fin.ofNat 4 (islandNode i / 64)))

/-- The parent that an island is attached to (R214, R217). -/
def parentOf (m : Mach) (i : Island) : Option Island :=
  match (islandState m i).copy.parent with
  | some k => some (.dune (duneOf k))
  | none => treeParent i

/-- The difference from the root of an island's parent. -/
def parentSkew (m : Mach) (i : Island) : Int :=
  match parentOf m i with
  | some p => skewAt (islandState m p).copy m.now
  | none => 0

/-- The LOCKED neighbour of its erg that a dune island whose parent link has failed reattaches to (R217). -/
def lockedNeighbour (m : Mach) : Island → Option Nat
  | .dune d => (List.range 4).findSome? fun dir => (nextDune (duneKey d) dir).filter fun k =>
      k / 48 == d.erg.val && (sget {} m.dunes k).time == .locked && (sget {} m.dunes k).power == .usable
  | _ => none

/-- The root's value moved by whole ns: no other copy steps with it, each follows by steering (R218). A copy in ACQUIRE has still to
be loaded from its parent (R215). -/
def moveRoot (m : Mach) (ns : Int) : Mach :=
  allIslands.foldl (fun m i =>
    let x := islandState m i
    if i = rootIsland ∨ x.time = .acquire then m
    else setIsland m i { x with copy := { x.copy with skew := skewAt x.copy m.now - 65536 * ns, since := m.now } })
    { m with htcOffset := m.htcOffset + ns }

/-- The microseconds that a holdover since `t` has lasted. -/
def holdoverMicros (m : Mach) (t : Nat) : Nat := min ((m.now - t) / 217000) 0xFFFFFFFF

/-- LongestHoldover after a holdover that has lasted since `t` (R224). -/
def noteHoldover (m : Mach) (t : Nat) : Mach := odSet m 0x5110 5 (max (odGet m 0x5110 5) (holdoverMicros m t))

/-- LongestHoldover with the holdovers that still run (R224). -/
def longestHoldover (m : Mach) : Nat :=
  allIslands.foldl (fun n i =>
    let x := islandState m i
    if x.time = .holdover then max n (holdoverMicros m x.holdSince) else n) (odGet m 0x5110 5)

end Sys2Proof.Machine
end

