-- ==== Sys2Proof/Machine/Slots.lean ====
section
/-! DEFINITION. The job's beat as the module steward sees it (R225, R240), and the time slots of TC0 traffic between modules
(R360, R364, R367, R368). -/

namespace Sys2Proof.Machine

/-! ## The job's beat -/

/-- S(x) on the anchor and the announced changes (R225, R240). -/
def instantAt (m : Mach) (x : Nat) : Nat :=
  let d := jobDuneState m
  let r := d.changes.foldl (fun (a : Nat × Nat × Nat) c => match c with
    | .period n _ q => if n ≤ x then (a.1 + (n - a.2.1) * a.2.2, n, q) else a
    | _ => a) (d.anchor, d.anchorBeat, d.period)
  r.1 + (x - r.2.1) * r.2.2

/-! ## Paths to other modules (R353, R360) -/

/-- The physical dune key of a virtual dune under a mapping. -/
def physOf (mp : List (Nat × Nat)) (vd : Nat) : Option Nat := (mp.find? fun e => e.1 == vd).map (·.2)

/-- A field of a bundle's path table entry (R360). -/
def pathField (m : Mach) (bundle hi lo : Nat) : Nat := natBits (odGet m 0x5200 3 / 2 ^ (128 * bundle)) hi lo
def pathKind (m : Mach) (bundle : Nat) : Nat := pathField m bundle 1 0
def pathPeer (m : Mach) (bundle : Nat) : Nat := pathField m bundle 31 16

/-! ## Slots (R364–R368) -/

/-- DATA frame time in 1/10000 ns (R353). -/
def frameTime (m : Mach) : Nat := if odGet m 0x5200 1 = 2 then 230400 else 115200

/-- Frame-time term of a slot, in 1/10000 ns (R367): on a tree path the length at the path's rate in MB/s. -/
def slotFrames (m : Mach) (s : Slot) : Nat :=
  if pathKind m s.bundle.val = 2 then ceilDiv (s.length * 10000000) (max 1 (pathField m s.bundle.val 127 96))
  else ceilDiv (ceilDiv s.length 256) s.lanes * frameTime m

/-- The path between the bundle's edge field and the row of a slot's address on this module, through the mapping. -/
def slotHops (mp : List (Nat × Nat)) (s : Slot) (a : W64) : List (HopKind × Nat) :=
  let vd := 64 * natBits a.toNat 57 56 + natBits a.toNat 55 50
  match physOf mp vd with
  | none => []
  | some k => hopsOf (rowOf (Config.edgeRow s.bundle.val)) ⟨duneOf k, Fin.ofNat 96 (natBits a.toNat 49 43)⟩

/-- E_s − S(n) of a slot in 1/10000 ns (R367). The part of the path that lies on the other module is a free value, its stitches and
bridges among it. -/
def slotEnd (m : Mach) (mp : List (Nat × Nat)) (s : Slot) : Nat :=
  let units := ceilDiv s.length 64
  let own := slotHops mp s (if s.send then s.source else s.target)
  let hr := if s.send then meshHops own else Config.remoteHops s.target
  let b := if s.send then
      longCycles m (2 * Config.remoteHops s.target + units + 6) + 10000 * Config.remoteCrossings s.target
    else boundLong m own s.length
  let lat := if pathKind m s.bundle.val = 2 then pathField m s.bundle.val 95 64 else if odGet m 0x5200 1 = 2 then 260 else 180
  10000 * s.start + (longCycles m (4 * hr + units + 12) + 180000) + slotFrames m s + frameTime m + 10000 * lat
    + (b + 90000)

/-- S(n) of a beat that has started, the anchor of a RESUME included, or of one to come (R225, R240). -/
def startOf (m : Mach) (n : Nat) : Nat :=
  (m.job.bind fun j => (j.starts.reverse.find? fun e => e.1 == n).map (·.2)).getD (instantAt m n)

def getSlot (m : Mach) (k : Nat) : SlotRun := sget {} m.slotRuns k
def setSlot (m : Mach) (k : Nat) (x : SlotRun) : Mach := { m with slotRuns := sset {} m.slotRuns k x }

/-- Bytes of a receive slot written in its target row by the instant `t`: with the last one the slot is received, late after
E_s (R368). -/
def slotWritten (m : Mach) (k n t : Nat) : Mach :=
  match m.job with
  | none => m
  | some j =>
    match j.image.slots[k]? with
    | none => m
    | some e =>
      let x := getSlot m k
      let m := setSlot m k { x with written := x.written + n }
      if (x.written + n) / e.length = x.written / e.length then m
      else
        let beat := j.slotBase + x.written / e.length
        let late := tuAt m (startOf m beat) * 10000 + slotEnd m j.map e * 217 < t * 10000
        let m := count m 0x61A0 2 1
        if late then count m 0x61A0 3 1 else m

end Sys2Proof.Machine
end

