-- ==== Sys2Proof/Machine/Bundle.lean ====
section
/-! DEFINITION. The sending side of a link bundle: KL frames (R353, R354, R361), the frames that wait for a lane's next frame slot and
the order in which they are taken (R356), and the replay buffers (R355). -/

namespace Sys2Proof.Machine

def bundleUp (m : Mach) (b : Nat) : Bool :=
  (getBundle m b).state == .up || (getBundle m b).state == .degraded

/-! ## Frames (R353, R354) -/

def frameType (f : List Byte) : Nat := field f 0 1 % 16
def frameVersion (f : List Byte) : Nat := field f 0 1 / 16

/-- A 32-byte frame: its first 28 bytes and their CRC. -/
def smallFrame (body : List Byte) : List Byte := padTo 28 body ++ leBytes 4 (crc32c (padTo 28 body))

/-- Byte 0 of a frame to a bundle's peer. -/
def typeVersion (m : Mach) (b type : Nat) : Byte := BitVec.ofNat 8 (type + 16 * (getBundle m b).peerVersion)

/-- A DATA frame names the lane it is sent on (R354). -/
def relane (f : List Byte) (lane : Nat) : List Byte :=
  if frameType f ≠ 1 then f
  else
    let body := f.take 7 ++ [BitVec.ofNat 8 lane] ++ (f.drop 8).take 276
    body ++ leBytes 4 (crc32c body)

def getClass (x : Bundle) (c : Nat) : KlClass := sget {} x.classes c
def setClass (x : Bundle) (c : Nat) (k : KlClass) : Bundle := { x with classes := sset {} x.classes c k }

/-- The class of CTRL frames among a bundle's classes. -/
def ctrlClass : Nat := 4

/-- The last sequence number received in order. -/
def lastInOrder (cl : KlClass) : Nat := (cl.rxNext + 65535) % 65536

/-- A DATA frame; it carries the acknowledgement of its own class, and byte 7 takes the lane when it is sent. -/
def dataFrame (m : Mach) (b c : Nat) (first last : Bool) (target generation window slot : Nat) (payload : List Byte) (seq : Nat) :
    List Byte :=
  let flags := c + (if first then 4 else 0) + (if last then 8 else 0)
  let body := [typeVersion m b 1] ++ leBytes 1 flags ++ leBytes 2 seq ++ leBytes 2 (lastInOrder (getClass (getBundle m b) c))
    ++ leBytes 1 c ++ [0] ++ leBytes 4 ((m.job.map (·.id.toNat)).getD 0) ++ leBytes 8 target ++ leBytes 4 generation
    ++ leBytes 1 window ++ leBytes 1 (ceilDiv payload.length 64) ++ leBytes 2 slot ++ padTo 256 payload
  body ++ leBytes 4 (crc32c body)

/-- The HELLO frame of a bundle (R361). -/
def helloFrame (m : Mach) (b : Nat) : List Byte :=
  smallFrame ([typeVersion m b 4, 0] ++ leBytes 2 (odGet m 0x5200 2) ++ leBytes 1 b ++ [1] ++ leBytes 1 (odGet m 0x5200 1) ++ [0]
    ++ leBytes 2 (pathField m b 63 48))

/-! ## Lanes and their frame slots (R353, R356) -/

/-- The next live lane at or after `from_`, in turn (R356). -/
def laneFrom (live : BitVec 24) (from_ : Nat) : Option Nat :=
  ((List.range 24).map fun k => (from_ + k) % 24).find? fun k => live.getLsbD k

/-- The lowest live lane (R374). -/
def lowestLane (live : BitVec 24) : Option Nat := laneFrom live 0

/-- Place of a frame in the order of R356: a CTRL frame, and a HELLO, 0; TIME 1; ACK 2; TC0 3; TC1 to TC3 5 to 7. -/
def classRank (c : Nat) : Nat := if c = ctrlClass then 0 else if c = 0 then 3 else 4 + c

/-- Place at present: TC3 stands before TC1 where 64 frames have gone without one of it. -/
def rankNow (x : Bundle) (w : KlWait) : Nat := if w.rank = 7 ∧ 64 ≤ x.sinceTc3 then 4 else w.rank

/-- A bundle that is DOWN carries nothing, and one that trains or mismatches carries HELLO frames only (R361). -/
def carries (x : Bundle) (w : KlWait) : Bool := match x.state with
  | .up | .degraded => true
  | .training | .mismatch => frameType w.bytes == 4
  | .down => false

/-- A frame may go on a lane: TIME only on the lowest live one, a new frame of a class only with room in its replay buffer of 256. -/
def mayGo (x : Bundle) (lane : Nat) (w : KlWait) : Bool :=
  carries x w && (w.rank != 1 || lowestLane x.live == some lane)
  && match w.cls with
    | some c => w.again || (getClass x c).unacked.length < 256
    | none => true

/-- The frame that a lane's next frame slot takes. -/
def pickFrame (x : Bundle) (lane : Nat) : Option KlWait :=
  (x.waiting.filter (mayGo x lane)).foldl (fun best w => match best with
    | some y => if rankNow x w < rankNow x y then some w else some y
    | none => some w) none

/-- The time that a frame takes on its lane, in 1/10000 of a time unit. -/
def frameSpan (m : Mach) (f : List Byte) : Nat := (if f.length = 288 then frameTime m else frameTime m / 9) * 217

/-- When a lane is free, at the instant `since` or later, in 1/10000 of a time unit. -/
def laneFreeAt (x : Bundle) (since lane : Nat) : Nat := max (sget 0 x.laneFree lane) (10000 * since)

/-- The lane whose next frame slot comes first, by the time unit `t`, among those that have a frame to take; lanes in turn. -/
def nextLaneFor (x : Bundle) (since t : Nat) : Option Nat :=
  (((List.range 24).map fun k => (x.nextLane + k) % 24).filter fun k =>
      x.live.getLsbD k && laneFreeAt x since k ≤ 10000 * t && (pickFrame x k).isSome).foldl (fun best k => match best with
    | some y => if laneFreeAt x since k < laneFreeAt x since y then some k else some y
    | none => some k) none

/-- A frame leaves on a lane: one of a class is kept for acknowledgement (R355). -/
def frameGoes (m : Mach) (b since lane : Nat) (w : KlWait) : Mach :=
  let x := getBundle m b
  let bytes := relane w.bytes lane
  let x := match w.cls with
    | none => x
    | some c =>
      let cl := getClass x c
      let moved := fun (e : Nat × Nat × Nat × List Byte) => if e.1 = w.seq then (e.1, lane, e.2.2.1, bytes) else e
      let kept := if w.again then cl.unacked.map moved
        else cl.unacked ++ [(w.seq, lane, 0, bytes)]
      setClass x c { cl with unacked := kept, sentAt := sset 0 cl.sentAt w.seq (laneFreeAt x since lane / 10000) }
  emit (setBundle m b { x with
    waiting := x.waiting.erase w, nextLane := (lane + 1) % 24, laneFree := sset 0 x.laneFree lane (laneFreeAt x since lane + frameSpan m bytes)
    sinceTc3 := if w.rank = 7 then 0 else x.sinceTc3 + 1 }) (.kl b lane bytes)

/-- The frames of a bundle that go between two instants, as many as `fuel`. -/
def bundleSends (b since t : Nat) : Nat → Mach → Mach
  | 0, m => m
  | n + 1, m =>
    match nextLaneFor (getBundle m b) since t with
    | none => m
    | some k => match pickFrame (getBundle m b) k with
      | some w => bundleSends b since t n (frameGoes m b since k w)
      | none => m

/-- HELLOs that are due by an instant: once per 100 µs until the bundle is UP (R361). -/
def hellosDue (b t : Nat) : Nat → Mach → Mach
  | 0, m => m
  | n + 1, m =>
    let x := getBundle m b
    if !(x.state == .training || x.state == .mismatch) ∨ t < x.helloAt + 21700000 then m
    else hellosDue b t n (setBundle m b { x with
      helloAt := x.helloAt + 21700000, waiting := x.waiting ++ [{ rank := 0, bytes := helloFrame m b }] })

/-- What a bundle sends between two instants. -/
def bundleRun (since t : Nat) (m : Mach) (b : Nat) : Mach :=
  let m := hellosDue b t ((t - (getBundle m b).helloAt) / 21700000) m
  bundleSends b since t (getBundle m b).waiting.length m

/-- What all bundles send between two instants. -/
def linksRun (since t : Nat) (m : Mach) : Mach := (m.bundles.map (·.1)).foldl (bundleRun since t) m

/-! ## Handing frames to a bundle -/

/-- A frame that asks for no acknowledgement waits for its lane, from the instant `t` on. -/
def sendFrame (m : Mach) (t b rank : Nat) (bytes : List Byte) : Mach :=
  let x := getBundle m b
  bundleRun t t (setBundle m b { x with waiting := x.waiting ++ [{ rank, bytes }] }) b

/-- A frame of a class takes its sequence number and waits for a lane, from the instant `t` on. -/
def sendClass (m : Mach) (t b c : Nat) (frame : Nat → List Byte) : Mach :=
  let x := getBundle m b
  let cl := getClass x c
  let w : KlWait := { rank := classRank c, cls := some c, seq := cl.txNext, bytes := frame cl.txNext }
  bundleRun t t (setBundle m b { setClass x c { cl with txNext := (cl.txNext + 1) % 65536 } with waiting := x.waiting ++ [w] }) b

/-! ## Send slots (R364, R365) -/

/-- 256 bytes of a send slot's source, from byte 256·i on, go over its bundle in a DATA frame of TC0; with the last the slot is sent. -/
def slotOut (m : Mach) (t k i : Nat) (bytes : List Byte) : Mach :=
  match m.job.bind fun j => j.image.slots[k]? with
  | none => m
  | some e =>
    let last := e.length ≤ 256 * (i + 1)
    let b := e.bundle.val
    let m := sendClass m t b 0 fun seq =>
      dataFrame m b 0 (i == 0) (decide last) (e.target.toNat + 256 * i) e.generation.toNat e.window.val k bytes seq
    if last then count m 0x61A0 1 1 else m

end Sys2Proof.Machine
end

