-- ==== Sys2Proof/Machine/Window.lean ====
section
/-! DEFINITION. Windows: descriptors (R171, R172) and the checks that a PUT meets on arrival (R149, R173, R175). -/

namespace Sys2Proof.Machine

/-! ## Window descriptors (R171) -/

def winBits (w : Window) (hi lo : Nat) : Nat := natBits w.desc.toNat hi lo
def winBase (w : Window) : Nat := winBits w 21 0
def winBuf (w : Window) : Bool := winBits w 22 22 == 1
def winLength (w : Window) : Nat := winBits w 54 32
def winGeneration (w : Window) : Nat := winBits w 95 64
def winWholeJob (w : Window) : Bool := winBits w 96 96 == 1
def winLinks (w : Window) : Bool := winBits w 97 97 == 1
def winErgSet (w : Window) : Nat := winBits w 103 100
def winLo (w : Window) : Nat := winBits w 109 104
def winHi (w : Window) : Nat := winBits w 117 112

/-- A descriptor is well formed (R172); `r` is the row that opens the window. -/
def windowOk (r : RowId) (w : Window) : Bool :=
  winBits w 127 118 == 0 && winBits w 111 110 == 0 && winBits w 99 98 == 0 && winBits w 63 55 == 0 && winBits w 31 23 == 0
  && winBase w % 64 == 0 && winLength w % 64 == 0 && 64 ≤ winLength w && winLength w ≤ 0x400000
  && winBase w + winLength w ≤ memSize (winBuf w)
  && (if winWholeJob w then winErgSet w == 0 && winLo w == 0 && winHi w == 0
      else winErgSet w != 0 && winLo w ≤ winHi w && winHi w ≤ 47)
  && (w.openedByF || !touchesReserved r (winBuf w) (winBase w) (winLength w))

/-! ## Arrival (R149, R174) -/

/-- Check 3 of R149 (R173). -/
def writerOk (w : Window) (p : Packet) : Bool :=
  (winWholeJob w && !p.viaLink)
  || (!p.viaLink && winErgSet w / 2 ^ (p.vdune / 64) % 2 == 1 && winLo w ≤ p.vdune % 64 && p.vdune % 64 ≤ winHi w)
  || (winLinks w && p.viaLink)

/-- Check 4 of R149, with R175: the reserved bytes of a window opened by F are outside it for a U sender. -/
def rangeOk (r : RowId) (w : Window) (p : Packet) (buf : Bool) (off : Nat) : Bool :=
  buf == winBuf w && winBase w ≤ off && off + p.bytes.length ≤ winBase w + winLength w
  && (p.privF || !touchesReserved r buf off p.bytes.length)

/-- The window that a PUT names passes all four checks (R149). -/
def windowAccepts (m : Mach) (r : RowId) (p : Packet) (buf : Bool) (off : Nat) : Bool :=
  match sget none (getRow m r).windows (p.tag.toNat / 2 ^ 32 % 16) with
  | none => false
  | some w => winGeneration w == p.tag.toNat % 2 ^ 32 && writerOk w p && rangeOk r w p buf off

end Sys2Proof.Machine
end

