-- ==== Sys2Proof/Machine/Mesh.lean ====
section
/-! DEFINITION. The data mesh at work, cycle by cycle: route tables (R200, R219–R221, R262), input buffers, virtual channels, credits
and crossing FIFOs (R195, R201), the choice of each output port (R203), collisions and interruptions (R201, R207), the arrival ports
(R149, R167, R174), and the clock with all that time brings about in the fabric. -/

namespace Sys2Proof.Machine

/-! ## Route tables -/

/-- The rule of the running job's image for a class. -/
def classRule (m : Mach) (cls : Nat) : Bool := (m.job.map fun j => imageRule j.image cls).getD false

/-- The path that the primary tables hold between two rows for a class (R200, R262). -/
def primaryPath (m : Mach) (cls : Nat) (src dst : RowId) : List Router :=
  (planPath (classRule m cls) m.avoided.contains src dst).getD (pathWith (classRule m cls) src dst)

/-- Neighbours of the dune use the alternate tables for it (R219, R221). -/
def goesAround (m : Mach) (k : Nat) : Bool := (sget {} m.dunes k).alternates

/-- The path of the alternate tables from a router: around the dunes that they cover (R220). -/
def alternatePath (m : Mach) (p q : Router) : Option (List Router) :=
  detour (fun k => goesAround m k && k != routerDune q) p q

/-! ## Packets enter -/

/-- The fabric has flits or units under way. -/
def fabricBusy (m : Mach) : Bool := !m.flits.isEmpty || !m.arrivals.isEmpty

/-- Number of an input buffer, or of an output's virtual channel. -/
def vcNum (router port cls : Nat) : Nat := 4 * linkNum router port + cls

/-- The flits of a packet put into the input buffer where it enters: flit i from the instant `at_` i on. -/
def injectFlits (m : Mach) (p : Packet) (at_ : Nat → Nat) : Mach :=
  let k := vcNum (p.route.headD 0) p.entry p.cls
  { m with
    fabricAt := if fabricBusy m then m.fabricAt else m.now / cycleTu m * cycleTu m
    flits := supd [] m.flits k (· ++ (List.range p.units).map fun i => ⟨p.id, i, 0, at_ i⟩) }

/-- A packet leaves its row at the instant `t`: its source is read from the next cycle on, a flit a cycle, and each flit can leave the
router's local port two cycles later (R148, R205, R208). -/
def sendAt (m : Mach) (t : Nat) (src dst : RowId) (p : Packet) : Mach :=
  let p := { p with
    units := max 1 (ceilDiv p.bytes.length 64)
    route := rowKey src :: (primaryPath m p.cls src dst).map routerKey }
  injectFlits { m with packets := m.packets ++ [p] } p fun i => t + (3 + i) * cycleTu m

def sendPacket (m : Mach) (src dst : RowId) (p : Packet) : Mach := sendAt m m.now src dst p

/-- A packet comes from a port island: two flits a cycle cross into the edge router (R196, R197). -/
def enterPacket (m : Mach) (src dst : RowId) (p : Packet) : Mach :=
  let d := draw m
  let m := d.2
  let p := { p with
    units := max 1 (ceilDiv p.bytes.length 64), entry := edgePort
    route := rowKey src :: (primaryPath m p.cls src dst).map routerKey }
  injectFlits { m with packets := m.packets ++ [p] } p fun i => m.now + (1 + Config.crossing d.1 % 8 + i / 2) * cycleTu m

/-- A packet is gone from the fabric: its flits, its units and what it holds. -/
def removePacket (m : Mach) (id : Nat) : Mach :=
  { m with
    packets := m.packets.filter fun p => p.id != id
    flits := smap [] m.flits fun _ l => l.filter fun f => f.pkt != id
    holders := smap none m.holders fun _ h => if h = some id then none else h
    arrivals := smap [] m.arrivals fun _ l => l.filter fun u => u.pkt != id }

/-- A packet discarded at a router for an OFF or unreachable dune (R219, R220). -/
def discardAt (m : Mach) (router id : Nat) : Mach :=
  countDune (removePacket m id) (router / 96 / 48) (router / 96 % 48) 0x5101 8 1

/-- Nothing is on the mesh. -/
def emptyFabric (m : Mach) : Mach := { m with packets := [], flits := [], holders := [], arrivals := [] }

/-- A packet carries an event, firmware's own traffic. -/
def isEvent (p : Packet) : Bool :=
  match p.cargo with
  | .event .. => true
  | _ => false

/-- The packets of a job are gone; firmware's stay (R478, R481). -/
def dropPackets (m : Mach) : Mach := (m.packets.filter fun p => !isEvent p).foldl (fun m p => removePacket m p.id) m

/-! ## Routing at a router (R219, R220) -/

/-- The packet of a flit. -/
def flitPacket (m : Mach) (f : Flit) : Option Packet := m.packets.find? fun p => p.id == f.pkt

/-- The erg waits for new tables after the loss of a second dune (R220). -/
def ergStale (m : Mach) (e : Nat) : Bool := m.tablesStale.getLsbD e

/-- A packet's head at a router that is about to enter another dune: one whose target lies in the OFF dune is discarded; one that
finds its way barred takes the alternate table, is held where it has not left its sender and new tables are awaited, and is discarded
elsewhere. -/
def steerPacket (m : Mach) (f : Flit) : Mach :=
  match flitPacket m f with
  | none => m
  | some p =>
    let here := p.route.getD f.hop 0
    match p.route[f.hop + 1]? with
    | none => m
    | some next =>
      let d := next / 96
      let target := p.route.getLastD 0
      if f.num ≠ 0 ∨ d = here / 96 ∨ !(duneIsOff m d || goesAround m d) then m
      else if d = target / 96 then (if duneIsOff m d then discardAt m here p.id else m)
      else
        let way := if goesAround m d then alternatePath m (routerOf (rowOf here)) (routerOf (rowOf target)) else none
        match way with
        | some l => { m with packets := m.packets.map fun x =>
            if x.id = p.id then { x with route := x.route.take (f.hop + 1) ++ l.map routerKey } else x }
        | none =>
          if f.hop = 0 ∧ p.entry = localPort ∧ ergStale m (here / 96 / 48) then
            let m := removePacket m p.id
            { m with packets := m.packets ++ [{ p with held := true }] }
          else discardAt m here p.id

/-- The first flits of the buffers that can move in the cycle that starts at T, with their buffers. -/
def heads (m : Mach) (T : Nat) : List (Nat × Flit) :=
  m.flits.filterMap fun e => match e.2 with
    | f :: _ => if f.ready ≤ T then some (e.1, f) else none
    | [] => none

/-! ## New tables (R200, R220, R221) -/

/-- A held packet under the new tables: forwarded where they reach its target, held on for another erg's, or discarded. -/
def releaseHeld (m : Mach) (p : Packet) : Mach :=
  let here := p.route.headD 0
  let target := p.route.getLastD 0
  let way := if duneIsOff m (target / 96) then none else alternatePath m (routerOf (rowOf here)) (routerOf (rowOf target))
  let m' := removePacket m p.id
  match way with
  | none => discardAt m here p.id
  | some l =>
    if l.any fun q => duneIsOff m (routerDune q) && ergStale m q.erg then m
    else
      let q := { p with held := false, route := here :: l.map routerKey }
      injectFlits { m' with packets := m'.packets ++ [q] } q fun i => m.now + (1 + i) * cycleTu m

/-- Every table written anew, the primary ones around the dunes `bad`: neighbours go around the dunes that are OFF now, and held packets
go on (R200, R220, R221). -/
def writeTables (m : Mach) (bad : List Nat) : Mach :=
  let m := { m with
    avoided := bad, tablesStale := 0
    dunes := smap {} m.dunes fun k d => { d with alternates := duneIsOff m k } }
  (m.packets.filter (·.held)).foldl releaseHeld m

/-! ## Output ports (R201, R203) -/

/-- A flit that wants an output port: its buffer, class and packet, the link, and the router at its end. -/
structure Want where
  buffer : Nat
  cls : Nat
  flit : Flit
  pkt : Packet
  link : Nat
  next : Option Nat
  deriving DecidableEq, Repr

def wantOf (m : Mach) (e : Nat × Flit) : Option Want :=
  (flitPacket m e.2).bind fun p =>
    let here := p.route.getD e.2.hop 0
    let next := p.route[e.2.hop + 1]?
    let port := match next with
      | some n => hopPort (routerOf (rowOf here)) (routerOf (rowOf n))
      | none => p.exit
    let barred := match next with
      | some n => duneIsOff m (n / 96)
      | none => false
    if barred || duneIsOff m (here / 96) then none else some ⟨e.1, e.1 % 4, e.2, p, linkNum here port, next⟩

/-- The flits that want a link in the cycle that starts at T. -/
def wantsOf (m : Mach) (T link : Nat) : List Want := ((heads m T).filterMap (wantOf m)).filter fun w => w.link == link

/-- The hop that a want makes, none at the end of a path. -/
def wantHop (w : Want) : Option HopKind :=
  w.next.map fun n => hopKind (routerOf (rowOf (w.link / 8))) (routerOf (rowOf n))

/-- The input port at the far end of a link: the one that faces the output port. -/
def farPort (port : Nat) : Nat := [1, 0, 3, 2].getD port port

/-- The buffer at the far end of a want's link. -/
def farBuffer (w : Want) : Option Nat := w.next.map fun n => vcNum n (farPort (w.link % 8)) w.cls

/-- Room of the buffer behind a hop: 4 flits, and 8 more in each FIFO of a crossing (R195, R201). -/
def hopRoom : HopKind → Nat
  | .mesh => 4
  | .stitch => 12
  | .bridge .. => 20

/-- Flits that a bridge carries in a cycle at 1.0 TB/s (R198). -/
def bridgeRate (m : Mach) : Nat := cycleTu m * 1000 / 217 / 64

/-- Number of a bridge and direction. -/
def bridgeNum (erg edge bridge : Nat) : Nat := 2 * (8 * edge + bridge) + (if erg = [0, 0, 1, 2].getD edge 0 then 0 else 1)

/-- A want may be served: its packet holds the output's virtual channel, or begins and finds it free; there is a credit; and a bridge
has room in this cycle. -/
def mayMove (m : Mach) (w : Want) : Bool :=
  let free := match sget none m.holders (4 * w.link + w.cls) with
    | some id => id == w.pkt.id
    | none => w.flit.num == 0
  let room := match farBuffer w, wantHop w with
    | some b, some h => decide ((sget [] m.flits b).length < hopRoom h)
    | _, _ => true
  let bridge := match wantHop w with
    | some (.bridge e b) => decide (sget 0 m.bridgeSent (bridgeNum (w.link / 8 / 96 / 48) e b) < bridgeRate m)
    | _ => true
  free && room && bridge

/-- The classes in the order of R203: TC3 second where it has had no flit sent in the last Tc3ShareInterval cycles. -/
def classOrder (m : Mach) (T link : Nat) : List Nat :=
  if sget 0 m.tc3Sent link + odGet m 0x5100 1 * cycleTu m ≤ T then [0, 3, 1, 2] else [0, 1, 2, 3]

/-- The flit that an output port sends: the first class that has one, and in it the next input port in turn. -/
def chooseFlit (m : Mach) (T link : Nat) : Option Want :=
  let ws := (wantsOf m T link).filter (mayMove m)
  (classOrder m T link).findSome? fun c =>
    let last := sget 0 m.turns (4 * link + c)
    let turn := fun (w : Want) => (w.buffer / 4 % 8 + 15 - last) % 8
    (sortBy (fun a b => turn a ≤ turn b) (ws.filter fun w => w.cls == c)).head?

/-- A packet of a higher class interrupts one of a lower class whose flits the port sent and could go on with (R201). -/
def interrupts (m : Mach) (T : Nat) (w : Want) : Bool :=
  let last := sget 0 m.lastSent w.link
  last != 0 && w.cls < last - 1
  && (wantsOf m T w.link).any fun x => x.cls + 1 == last && x.flit.num != 0 && mayMove m x
      && sget none m.holders (4 * w.link + x.cls) == some x.pkt.id

/-! ## The arrival port (R149, R167, R174) -/

/-- The row that an arriving packet's bytes go to. -/
def packetRow (p : Packet) : Option RowId := (sramAddr p.target).map (·.1)

/-- Units in the order in which the port writes them: as they reach it, a queue unit before a PUT unit of the same cycle. -/
def unitBefore (a b : PortUnit) : Bool := a.reach < b.reach || (a.reach == b.reach && (a.queue || !b.queue))

/-- The checks of R149 when the first unit of a PUT reaches the port. A WINDOW fault names the target row, with the thread and the word
that opened the PUT (DESIGN CHOICE, assumption 56: R149 and R477 do not say which). -/
def judgePacket (m : Mach) (p : Packet) : Mach :=
  match sramAddr p.target with
  | none => m
  | some (r, buf, off) =>
    let ok := windowAccepts m r p buf off
    let m := { m with packets := m.packets.map fun x => if x.id = p.id then { x with verdict := some ok } else x }
    if ok then m else rowFault m r 0x05 ((p.sender.map threadByte).getD 0) p.word.toNat

/-- A unit reaches the port: it counts in its class (R223), and the first of a PUT is checked. -/
def reachPort (m : Mach) (u : PortUnit) : Mach :=
  match m.packets.find? fun p => p.id == u.pkt with
  | none => m
  | some p =>
    let d := (p.route.getLastD 0) / 96
    let m := countDune m (d / 48) (d % 48) 0x5101 (p.cls + 1) 1
    if u.num = 0 ∧ p.cargo = .put then judgePacket m p else m

/-- What the serving firmware sends to stage 0's firmware scratch has arrived there: prompt ids, or an entry list (R291, R292). -/
def scratchArrives (m : Mach) (c : Cargo) : Mach :=
  match c with
  | .prompt ctx order upto =>
    let x := getCtx m ctx
    if x.order = order then setCtx m ctx { x with delivered := max x.delivered upto } else m
  | .entryList n => { m with listsHere := m.listsHere ++ [n] }
  | _ => m

/-- The read request of a send slot at its source row at the instant `t`: the bytes go back over the same route in packets of 256 (R365). -/
def answerSlot (m : Mach) (t : Nat) (p : Packet) (k : Nat) : Mach :=
  match m.job.bind fun j => j.image.slots[k]?, packetRow p with
  | some e, some r =>
    let bytes := readBytes m.sram p.target.toNat e.length
    (List.range (ceilDiv e.length 256)).foldl (fun m i =>
      let d := draw m
      sendAt d.2 (t + 4 * i * cycleTu m) r (rowOf (Config.edgeRow e.bundle.val))
        { p with id := d.1, cargo := .slotData k i, src := some r, bytes := (bytes.drop (256 * i)).take 256, entry := localPort
                 exit := edgePort, verdict := none, met := [] }) m
  | _, _ => m

/-- The port writes a unit at the end of the cycle that starts at T; with the last one the packet is done. -/
def writeUnit (m : Mach) (T : Nat) (u : PortUnit) : Mach :=
  match m.packets.find? fun p => p.id == u.pkt with
  | none => m
  | some p =>
    let done := T + cycleTu m
    let written := match p.cargo with
      | .put => p.verdict == some true
      | .slotAsk _ => false
      | _ => true
    let m := if written then land m done 1 (p.target.toNat + 64 * u.num) ((p.bytes.drop (64 * u.num)).take 64) else m
    if u.num + 1 < p.units then m
    else
      let m := scratchArrives (removePacket m p.id) p.cargo
      match p.cargo, p.slot with
      | .slotAsk k, _ => answerSlot m done p k
      | _, some k => if written then slotWritten m k p.bytes.length done else m
      | _, none => m

/-- One cycle of a row's arrival port: what reaches it, then one unit written. -/
def portCycle (T : Nat) (m : Mach) (row : Nat) : Mach :=
  let m := ((sget [] m.arrivals row).filter fun u => u.reach == T).foldl reachPort m
  match sget [] m.arrivals row with
  | [] => m
  | u :: rest => if u.reach ≤ T then writeUnit { m with arrivals := sset [] m.arrivals row rest } T u else m

/-! ## A flit moves -/

/-- The last flit of a packet leaves the mesh by an edge port at the instant `t`: an event reaches the module steward (R157), a slot's
bytes their bundle (R365). -/
def leavePacket (m : Mach) (t : Nat) (p : Packet) : Mach :=
  let m := removePacket m p.id
  match p.cargo with
  | .slotData k i => slotOut m t k i p.bytes
  | .event code erg dune beat value => postEventAt m code erg dune beat value
  | _ => m

/-- The flit at the far end of its link, `cycles` later, no earlier than the one before it. -/
def pushFlit (m : Mach) (w : Want) (T cycles : Nat) : Mach :=
  match farBuffer w with
  | none => m
  | some b =>
    let before := ((sget [] m.flits b).getLast?.map (·.ready)).getD 0
    { m with flits := supd [] m.flits b (· ++ [{ w.flit with hop := w.flit.hop + 1, ready := max before (T + cycles * cycleTu m) }]) }

/-- The beat of the dune in which a router stands. -/
def routerBeat (m : Mach) (router : Nat) : Nat := beatOfNow m (duneOf (router / 96))

/-- An output port sends a flit in the cycle that starts at T: 2 cycles for a hop (R208); a crossing within its bound, and over a
bridge counted and exposed to injection (R198, R223, R380). -/
def sendFlit (m : Mach) (T : Nat) (w : Want) : Mach :=
  let m := if interrupts m T w then countDune m (w.link / 8 / 96 / 48) (w.link / 8 / 96 % 48) 0x5101 5 1 else m
  let vc := 4 * w.link + w.cls
  let m := { m with
    flits := supd [] m.flits w.buffer (·.drop 1)
    holders := sset none m.holders vc (if w.flit.num + 1 < w.pkt.units then some w.pkt.id else none)
    turns := sset 0 m.turns vc (w.buffer / 4 % 8)
    lastSent := sset 0 m.lastSent w.link (w.cls + 1)
    tc3Sent := if w.cls = 3 then sset 0 m.tc3Sent w.link (T + cycleTu m) else m.tc3Sent }
  match wantHop w with
  | some .mesh => pushFlit m w T 2
  | some .stitch =>
    let d := draw m
    pushFlit d.2 w T (1 + Config.crossing d.1 % 8)
  | some (.bridge e b) =>
    let router := w.link / 8
    let erg := router / 96 / 48
    let d := draw { m with bridgeSent := supd 0 m.bridgeSent (bridgeNum erg e b) (· + 1) }
    let m := countDune d.2 erg (router / 96 % 48) 0x5101 7 1
    let x := if w.flit.num = 0 then crossBridge m erg e b w.cls w.pkt.units w.pkt.target.toNat (routerBeat m router) else (m, true)
    if x.2 then pushFlit x.1 w T (1 + Config.crossing d.1 % 8) else removePacket x.1 w.pkt.id
  | none =>
    if w.link % 8 = edgePort then (if w.flit.num + 1 < w.pkt.units then m else leavePacket m (T + cycleTu m) w.pkt)
    else
      let u : PortUnit := ⟨T + cycleTu m, w.link % 8 == queuePort, w.pkt.id, w.flit.num⟩
      { m with arrivals := supd [] m.arrivals (w.link / 8) (insertBy unitBefore u) }

/-- TC0 collisions at an output port after the cycle's flits have gone: a TC0 flit waits for another packet's (R207). Each packet
counts once on a link. -/
def collide (T link : Nat) (sent : List Nat) (m : Mach) : Mach :=
  let holder := sget none m.holders (4 * link)
  let waits := (wantsOf m T link).find? fun w => w.cls == 0 && !w.pkt.met.contains link
    && (sent.any (· != w.pkt.id) || (holder.any fun id => id != w.pkt.id))
  match waits with
  | none => m
  | some w =>
    let m := { m with packets := m.packets.map fun x => if x.id = w.pkt.id then { x with met := x.met ++ [link] } else x }
    let d := duneOf (link / 8 / 96)
    duneFault (countDune m d.erg.val d.num.val 0x5101 6 1) d 0x301 127 0

/-- The flits that a link sends in the cycle, as many as its width lets it; the packets of TC0 among them. -/
def sendOn (T link : Nat) : Nat → Mach × List Nat → Mach × List Nat
  | 0, r => r
  | n + 1, r =>
    match chooseFlit r.1 T link with
    | none => r
    | some w => sendOn T link n (sendFlit r.1 T w, if w.cls = 0 then w.pkt.id :: r.2 else r.2)

/-- One cycle of an output port (R196, R203, R207). -/
def portSends (T : Nat) (m : Mach) (link : Nat) : Mach :=
  let width := match (wantsOf m T link).head?.bind wantHop with
    | some h => linkWidth h
    | none => if link % 8 = edgePort then 2 else 1
  let r := sendOn T link width (m, [])
  collide T link r.2 r.1

/-- One cycle of the fabric. -/
def fabricCycle (m : Mach) : Mach :=
  let T := m.fabricAt
  let m := (m.arrivals.map (·.1)).foldl (portCycle T) { m with fabricAt := T + cycleTu m, bridgeSent := [] }
  let m := (heads m T).foldl (fun m e => steerPacket m e.2) m
  let m := (((heads m T).filterMap (wantOf m)).map (·.link)).eraseDups.foldl (portSends T) m
  linksRun T (T + cycleTu m) m

/-! ## The clock -/

/-- The fabric's cycles that end by `t`, and what lands before each. -/
def fabricRun : Nat → Mach → Nat → Mach
  | 0, m, _ => m
  | n + 1, m, t => if !fabricBusy m ∨ t < m.fabricAt + cycleTu m then m else fabricRun n (fabricCycle (settle m m.fabricAt)) t

/-- The clock moved forward to `t`: flits move, loads are served and bytes land by then, in order, and the bundles send. -/
def advance (m : Mach) (t : Nat) : Mach :=
  let since := m.now
  let m := if fabricBusy m then fabricRun ((t - m.fabricAt) / cycleTu m) m t else m
  settle (if since < t then linksRun since t m else m) t

/-- The fabric runs on until `p` holds, for so many cycles at most. -/
def runUntil (p : Mach → Bool) : Nat → Mach → Mach
  | 0, m => m
  | n + 1, m => if p m || !fabricBusy m then m else runUntil p n (advance m (m.fabricAt + cycleTu m))

/-- Cycles after which a wait for the fabric is given up: it bounds the model's own loop only. -/
def fabricFuel : Nat := 1048576

end Sys2Proof.Machine
end

