-- ==== Sys2Proof/Machine/Operands.lean ====
section
/-! DEFINITION. Thread instructions: fields and encodings (R133–R136), registers and latencies (R127–R132), and the issue
of an instruction in a slot of its thread (R123, R129, R130, R134), with the instruction faults (R159, R160). -/

namespace Sys2Proof.Machine

/-! ## Fields (R133) -/

/-- Field c, bits [31:27] when i = 0. -/
def fieldC (f : Fields) : Nat := f.low.toNat / 2 ^ 27

/-- Field mod, bits [26:0] when i = 0. -/
def fieldMod (f : Fields) : Nat := f.low.toNat % 2 ^ 27

/-- The immediate, sign-extended to 64 bits. -/
def immS (f : Fields) : W64 := f.low.signExtend 64

/-- The immediate as an unsigned number. -/
def immU (f : Fields) : Nat := f.low.toNat

/-- The instruction word of a class, an opcode and its fields. -/
def instrWord (cls op : Nat) (f : Fields) : Nat :=
  cls * 2 ^ 60 + (if f.gneg then 2 ^ 59 else 0) + f.gp.toNat * 2 ^ 56 + op * 2 ^ 48 + f.d.toNat * 2 ^ 43
    + f.a.toNat * 2 ^ 38 + f.b.toNat * 2 ^ 33 + (if f.i then 2 ^ 32 else 0) + f.low.toNat

/-- Class and opcode of an instruction word. -/
def wordOp (w : W64) : Nat × Nat := (w.toNat / 2 ^ 60, w.toNat / 2 ^ 48 % 256)

/-- The fields of an instruction word besides class and opcode. -/
def splitWord (w : W64) : Fields where
  gneg := w.getLsbD 59
  gp := BitVec.ofNat 3 (w.toNat / 2 ^ 56)
  d := BitVec.ofNat 5 (w.toNat / 2 ^ 43)
  a := BitVec.ofNat 5 (w.toNat / 2 ^ 38)
  b := BitVec.ofNat 5 (w.toNat / 2 ^ 33)
  i := w.getLsbD 32
  low := BitVec.ofNat 32 w.toNat

/-- The word at a thread's program counter (R124, R125). -/
def fetchWord (m : Mach) (t : Thread) : W64 := sget 0 m.istore (8192 * coreKey t.core + (getThread m t).pc)

/-- A v register field with bit 4 clear, a predicate field with bits [4:3] clear (R135). -/
def vOk (x : BitVec 5) : Bool := x.toNat < 16
def pOk (x : BitVec 5) : Bool := x.toNat < 8

/-! ### Legal encodings, form by form (R133, R135, R136; assumption 13 for the i bit) -/

/-- gd, ga, gb or imm. -/
def legalAlu3 (f : Fields) : Bool := if f.i then f.b == 0 else f.low == 0

/-- Two register fields, no b, no immediate. -/
def legalRR (f : Fields) : Bool := !f.i && f.b == 0 && f.low == 0

/-- vd, va, vb and mod[6:0] with a type code; `fp` floating types only, `sat` mod[3] in use, `cond` mod[6:4] in use. -/
def legalVec (f : Fields) (useB fp sat cond : Bool) : Bool :=
  let ty := fieldMod f % 8
  !f.i && vOk f.d && vOk f.a && (if useB then vOk f.b else f.b == 0) && fieldC f == 0
  && (if fp then ty ≤ 2 else tyVec ty)
  && (fieldMod f / 8 % 2 == 0 || (sat && !tyIsFp ty))
  && (fieldMod f / 16 == 0 || (cond && fieldMod f / 16 ≤ 3))

/-- An immediate form whose immediate lies within `mask`. -/
def immWithin (f : Fields) (mask : Nat) : Bool := f.i && (f.low.toNat &&& mask) == f.low.toNat

/-- gp = 0 and gneg = 0 (R134). -/
def unguarded (f : Fields) : Bool := f.gp == 0 && !f.gneg

/-! ## Registers (R127) -/

/-- g register k; g0 reads 0. -/
def readG (ts : ThreadState) (k : BitVec 5) : W64 := if k = 0 then 0 else ts.g.get k.toFin

/-- g register k written; writes to g0 are discarded. -/
def writeG (ts : ThreadState) (k : BitVec 5) (v : W64) : ThreadState :=
  if k = 0 then ts else { ts with g := ts.g.set k.toNat v k.isLt }

/-- v register k, by bits [3:0] of the field. -/
def readV (ts : ThreadState) (k : BitVec 5) : W512 := ts.v.get (Fin.ofNat 16 k.toNat)

def writeV (ts : ThreadState) (k : BitVec 5) (v : W512) : ThreadState :=
  { ts with v := ts.v.set (k.toNat % 16) v (Nat.mod_lt _ (by decide)) }

/-- Interlock numbers of the registers: g at 0–31, v at 32–47, p at 48–55 (R129). -/
def srcG (k : BitVec 5) : Nat := k.toNat
def srcV (k : BitVec 5) : Nat := 32 + k.toNat % 16
def srcP (k : Nat) : Nat := 48 + k % 8

/-- The instant from which a register can be read; g0 and p0 always. -/
def readyAt (ts : ThreadState) (k : Nat) : Nat := if k = 0 ∨ k = 48 then 0 else sget 0 ts.ready k

/-- Result latencies (R132), by sub-index of the latency table. -/
def latency (m : Mach) (sub : Nat) : Nat :=
  match sub with
  | 1 => 1 | 2 => 3 | 3 => if m.steppingB1 then 18 else 20 | 4 => 2 | 5 => 4
  | 6 => if m.steppingB1 then 12 else 14 | 7 => 10 | 8 => 6 | 9 => 6 | 10 => 5 | 11 => 9 | 12 => 2
  | 13 => if m.steppingB1 then 5 else 6 | 14 => 2 | _ => 0

/-! ## Issue -/

/-- An instruction fault (R159): the row stops and the dune raises the fault with the instruction word. -/
def instFault (m : Mach) (t : Thread) (code word : Nat) : Mach := rowFault m t.core.row code (threadByte t) word

/-- The beat in which a thread may issue now: its island runs a beat and is not frozen, its row has not stopped, and the
thread is live, not stalled and not sealed (R124, R130, R155, R86, R478). -/
def issuingBeat (m : Mach) (t : Thread) : Option Beat :=
  let d := getDune m t.core.row.dune
  let ts := getThread m t
  if d.frozen ∨ d.power ≠ .usable ∨ (getRow m t.core.row).stopped ∨ !ts.live ∨ ts.stall.isSome ∨ ts.sealed then none
  else d.beat

/-- The first own slot of a thread at or after the present cycle at which all the registers named can be read (R129). -/
def issueSlot (m : Mach) (b : Beat) (t : Thread) (srcs : List Nat) : Nat :=
  let ts := getThread m t
  let ready := srcs.foldl (fun acc k => max acc (readyAt ts k)) m.now
  slotAtOrAfter t.num.val (max ts.nextIssue (cycleAtOrAfter m b ready))

/-- The instruction has issued in cycle c: the thread goes on at its next slot with the next word. -/
def retire (m : Mach) (t : Thread) (c : Nat) : Mach :=
  let ts := getThread m t
  setThread m t { ts with nextIssue := c + 8, pc := ts.pc + 1 }

/-- Issue one instruction of a thread (R123, R129, R134, R135). `legal` says that its encoding is legal, `srcs` the
registers it reads besides its guard, `body` what it does in its issue cycle. A thread that cannot issue before the commit
cycle leaves everything as it is. -/
def issue (m : Mach) (t : Thread) (cls op : Nat) (f : Fields) (legal : Bool) (srcs : List Nat)
    (body : Mach → Beat → Nat → Mach) : Mach :=
  match issuingBeat m t with
  | none => m
  | some b =>
    let limit := commitCycle m (getDune m t.core.row.dune) b
    if !legal then
      let c := issueSlot m b t []
      if c ≥ limit then m else instFault (advance m (cycleStart m b c)) t 0x01 (instrWord cls op f)
    else
      let cg := issueSlot m b t [srcP f.gp.toNat]
      if !guardHolds (getThread m t) f then
        if cg ≥ limit then m else retire (advance m (cycleStart m b cg)) t cg
      else
        let c := issueSlot m b t (srcP f.gp.toNat :: srcs)
        if c ≥ limit then m else body (advance m (cycleStart m b c)) b c

/-- Result of register number `k`, readable from cycle c + lat on (R129). -/
def setReady (m : Mach) (b : Beat) (c lat k : Nat) (ts : ThreadState) : ThreadState :=
  { ts with ready := sset 0 ts.ready k (cycleStart m b (c + lat)) }

/-- A register written again while a load for it is on its way keeps the later instruction's value (assumption 14). -/
def dropLoad (m : Mach) (t : Thread) (k : Nat) : Mach :=
  { m with loads := m.loads.map fun l => if l.thread = t ∧ l.dest = some k then { l with dest := none } else l }

def resultG (m : Mach) (t : Thread) (b : Beat) (c lat : Nat) (k : BitVec 5) (v : W64) : Mach :=
  setThread (dropLoad m t (srcG k)) t (setReady m b c lat (srcG k) (writeG (getThread m t) k v))

def resultV (m : Mach) (t : Thread) (b : Beat) (c lat : Nat) (k : BitVec 5) (v : W512) : Mach :=
  setThread (dropLoad m t (srcV k)) t (setReady m b c lat (srcV k) (writeV (getThread m t) k v))

def resultP (m : Mach) (t : Thread) (b : Beat) (c lat : Nat) (k : Nat) (v : Bool) : Mach :=
  setThread m t (setReady m b c lat (srcP k) (writeP (getThread m t) k v))

/-- The next state of a command that changes the machine only. -/
def nextM (s : State) (f : Mach → Mach) : Host.Outcome State Fault Refusal := .next { s with m := f s.m }

end Sys2Proof.Machine
end

