-- ==== Sys2Proof/Machine/Decoder.lean ====
section
/-! DEFINITION. Instruction words (R133, R135, R136): a word split into its fields, the instruction that its class and opcode name, and
the word of an instruction, both from the table of R136. -/

namespace Sys2Proof.Machine

/-! ## From words to instructions -/

/-- The opcodes of class 0x0. -/
def aluOps (t : Thread) (f : Fields) : Nat → Option Instr
  | 0x01 => some (.add t f)
  | 0x02 => some (.sub t f)
  | 0x03 => some (.mul t f)
  | 0x04 => some (.mulhs t f)
  | 0x05 => some (.mulhu t f)
  | 0x06 => some (.divs t f)
  | 0x07 => some (.divu t f)
  | 0x08 => some (.rems t f)
  | 0x09 => some (.remu t f)
  | 0x0A => some (.and t f)
  | 0x0B => some (.or t f)
  | 0x0C => some (.xor t f)
  | 0x0D => some (.shl t f)
  | 0x0E => some (.shr t f)
  | 0x0F => some (.sar t f)
  | 0x10 => some (.mins t f)
  | 0x11 => some (.maxs t f)
  | 0x12 => some (.popc t f)
  | 0x13 => some (.clz t f)
  | 0x14 => some (.movh t f)
  | 0x15 => some (.sel t f)
  | 0x16 => some (.cmpEq t f)
  | 0x17 => some (.cmpNe t f)
  | 0x18 => some (.cmpLts t f)
  | 0x19 => some (.cmpLes t f)
  | 0x1A => some (.cmpLtu t f)
  | 0x1B => some (.cmpLeu t f)
  | 0x1C => some (.plog t f)
  | _ => none

/-- The opcodes of class 0x1. -/
def vecOps (t : Thread) (f : Fields) : Nat → Option Instr
  | 0x01 => some (.vadd t f)
  | 0x02 => some (.vsub t f)
  | 0x03 => some (.vmul t f)
  | 0x04 => some (.vfma t f)
  | 0x05 => some (.vmin t f)
  | 0x06 => some (.vmax t f)
  | 0x07 => some (.vdiv t f)
  | 0x08 => some (.vsqrt t f)
  | 0x09 => some (.vrcp t f)
  | 0x0A => some (.vrsq t f)
  | 0x0B => some (.vexp2 t f)
  | 0x0C => some (.vlog2 t f)
  | 0x0D => some (.vred t f)
  | 0x0E => some (.vrmax t f)
  | 0x0F => some (.vcmp t f)
  | 0x10 => some (.vsel t f)
  | 0x11 => some (.vbcst t f)
  | 0x12 => some (.vext t f)
  | 0x13 => some (.vmov t f)
  | _ => none

/-- The opcodes of class 0x2. -/
def convOps (t : Thread) (f : Fields) : Nat → Option Instr
  | 0x01 => some (.cvt t f)
  | 0x02 => some (.cvtk4 t f)
  | 0x03 => some (.dck4 t f)
  | 0x04 => some (.cvtmx t f)
  | 0x05 => some (.dcmx t f)
  | _ => none

/-- The opcodes of class 0x3. -/
def memOps (t : Thread) (f : Fields) : Nat → Option Instr
  | 0x01 => some (.ldU1 t f)
  | 0x02 => some (.ldU2 t f)
  | 0x03 => some (.ldU4 t f)
  | 0x04 => some (.ld8 t f)
  | 0x05 => some (.ldS1 t f)
  | 0x06 => some (.ldS2 t f)
  | 0x07 => some (.ldS4 t f)
  | 0x08 => some (.st1 t f)
  | 0x09 => some (.st2 t f)
  | 0x0A => some (.st4 t f)
  | 0x0B => some (.st8 t f)
  | 0x0C => some (.ldv t f)
  | 0x0D => some (.stv t f)
  | _ => none

/-- The opcodes of class 0x4. -/
def winOps (t : Thread) (f : Fields) : Nat → Option Instr
  | 0x01 => some (.wopen t f)
  | 0x02 => some (.wclose t f)
  | 0x03 => some (.put t f)
  | _ => none

/-- The opcodes of class 0x5. -/
def queueOps (t : Thread) (f : Fields) : Nat → Option Instr
  | 0x01 => some (.qld t f)
  | 0x02 => some (.qst t f)
  | 0x03 => some (.qwait t f)
  | _ => none

/-- The opcodes of class 0x6. -/
def plateOps (t : Thread) (f : Fields) : Nat → Option Instr
  | 0x01 => some (.fire t f)
  | 0x02 => some (.firew t f)
  | 0x03 => some (.firex t f)
  | 0x04 => some (.fwait t f)
  | _ => none

/-- The opcodes of class 0x7. -/
def syncOps (t : Thread) (f : Fields) : Nat → Option Instr
  | 0x01 => some (.barl t f)
  | 0x02 => some (.waittC t f)
  | 0x03 => some (.waittH t f)
  | 0x04 => some (.seal t f)
  | _ => none

/-- The opcodes of class 0x8. -/
def ctlOps (t : Thread) (f : Fields) : Nat → Option Instr
  | 0x01 => some (.nop t f)
  | 0x02 => some (.br t f)
  | 0x03 => some (.jr t f)
  | 0x04 => some (.call t f)
  | 0x05 => some (.skip t f)
  | 0x06 => some (.gets t f)
  | 0x07 => some (.abrt t f)
  | _ => none

/-- The opcodes of class 0x9. -/
def sysOps (t : Thread) (f : Fields) : Nat → Option Instr
  | 0x01 => some (.sld t f)
  | 0x02 => some (.sst t f)
  | 0x03 => some (.evt t f)
  | _ => none

/-- The instruction of a word in a thread; none where its class or its opcode is not listed (R135). -/
def decodeWord (t : Thread) (w : W64) : Option Instr :=
  let f := splitWord w
  match wordOp w with
  | (0, op) => aluOps t f op
  | (1, op) => vecOps t f op
  | (2, op) => convOps t f op
  | (3, op) => memOps t f op
  | (4, op) => winOps t f op
  | (5, op) => queueOps t f op
  | (6, op) => plateOps t f op
  | (7, op) => syncOps t f op
  | (8, op) => ctlOps t f op
  | (9, op) => sysOps t f op
  | _ => none

/-! ## From instructions to words -/

/-- Thread, class, opcode and fields of an instruction of a thread; none for any other command. -/
def instrParts : Instr → Option (Thread × Nat × Nat × Fields)
  | .add t f => some (t, 0, 0x01, f)
  | .sub t f => some (t, 0, 0x02, f)
  | .mul t f => some (t, 0, 0x03, f)
  | .mulhs t f => some (t, 0, 0x04, f)
  | .mulhu t f => some (t, 0, 0x05, f)
  | .divs t f => some (t, 0, 0x06, f)
  | .divu t f => some (t, 0, 0x07, f)
  | .rems t f => some (t, 0, 0x08, f)
  | .remu t f => some (t, 0, 0x09, f)
  | .and t f => some (t, 0, 0x0A, f)
  | .or t f => some (t, 0, 0x0B, f)
  | .xor t f => some (t, 0, 0x0C, f)
  | .shl t f => some (t, 0, 0x0D, f)
  | .shr t f => some (t, 0, 0x0E, f)
  | .sar t f => some (t, 0, 0x0F, f)
  | .mins t f => some (t, 0, 0x10, f)
  | .maxs t f => some (t, 0, 0x11, f)
  | .popc t f => some (t, 0, 0x12, f)
  | .clz t f => some (t, 0, 0x13, f)
  | .movh t f => some (t, 0, 0x14, f)
  | .sel t f => some (t, 0, 0x15, f)
  | .cmpEq t f => some (t, 0, 0x16, f)
  | .cmpNe t f => some (t, 0, 0x17, f)
  | .cmpLts t f => some (t, 0, 0x18, f)
  | .cmpLes t f => some (t, 0, 0x19, f)
  | .cmpLtu t f => some (t, 0, 0x1A, f)
  | .cmpLeu t f => some (t, 0, 0x1B, f)
  | .plog t f => some (t, 0, 0x1C, f)
  | .vadd t f => some (t, 1, 0x01, f)
  | .vsub t f => some (t, 1, 0x02, f)
  | .vmul t f => some (t, 1, 0x03, f)
  | .vfma t f => some (t, 1, 0x04, f)
  | .vmin t f => some (t, 1, 0x05, f)
  | .vmax t f => some (t, 1, 0x06, f)
  | .vdiv t f => some (t, 1, 0x07, f)
  | .vsqrt t f => some (t, 1, 0x08, f)
  | .vrcp t f => some (t, 1, 0x09, f)
  | .vrsq t f => some (t, 1, 0x0A, f)
  | .vexp2 t f => some (t, 1, 0x0B, f)
  | .vlog2 t f => some (t, 1, 0x0C, f)
  | .vred t f => some (t, 1, 0x0D, f)
  | .vrmax t f => some (t, 1, 0x0E, f)
  | .vcmp t f => some (t, 1, 0x0F, f)
  | .vsel t f => some (t, 1, 0x10, f)
  | .vbcst t f => some (t, 1, 0x11, f)
  | .vext t f => some (t, 1, 0x12, f)
  | .vmov t f => some (t, 1, 0x13, f)
  | .cvt t f => some (t, 2, 0x01, f)
  | .cvtk4 t f => some (t, 2, 0x02, f)
  | .dck4 t f => some (t, 2, 0x03, f)
  | .cvtmx t f => some (t, 2, 0x04, f)
  | .dcmx t f => some (t, 2, 0x05, f)
  | .ldU1 t f => some (t, 3, 0x01, f)
  | .ldU2 t f => some (t, 3, 0x02, f)
  | .ldU4 t f => some (t, 3, 0x03, f)
  | .ld8 t f => some (t, 3, 0x04, f)
  | .ldS1 t f => some (t, 3, 0x05, f)
  | .ldS2 t f => some (t, 3, 0x06, f)
  | .ldS4 t f => some (t, 3, 0x07, f)
  | .st1 t f => some (t, 3, 0x08, f)
  | .st2 t f => some (t, 3, 0x09, f)
  | .st4 t f => some (t, 3, 0x0A, f)
  | .st8 t f => some (t, 3, 0x0B, f)
  | .ldv t f => some (t, 3, 0x0C, f)
  | .stv t f => some (t, 3, 0x0D, f)
  | .wopen t f => some (t, 4, 0x01, f)
  | .wclose t f => some (t, 4, 0x02, f)
  | .put t f => some (t, 4, 0x03, f)
  | .qld t f => some (t, 5, 0x01, f)
  | .qst t f => some (t, 5, 0x02, f)
  | .qwait t f => some (t, 5, 0x03, f)
  | .fire t f => some (t, 6, 0x01, f)
  | .firew t f => some (t, 6, 0x02, f)
  | .firex t f => some (t, 6, 0x03, f)
  | .fwait t f => some (t, 6, 0x04, f)
  | .barl t f => some (t, 7, 0x01, f)
  | .waittC t f => some (t, 7, 0x02, f)
  | .waittH t f => some (t, 7, 0x03, f)
  | .seal t f => some (t, 7, 0x04, f)
  | .nop t f => some (t, 8, 0x01, f)
  | .br t f => some (t, 8, 0x02, f)
  | .jr t f => some (t, 8, 0x03, f)
  | .call t f => some (t, 8, 0x04, f)
  | .skip t f => some (t, 8, 0x05, f)
  | .gets t f => some (t, 8, 0x06, f)
  | .abrt t f => some (t, 8, 0x07, f)
  | .sld t f => some (t, 9, 0x01, f)
  | .sst t f => some (t, 9, 0x02, f)
  | .evt t f => some (t, 9, 0x03, f)
  | _ => none

/-- The word of an instruction. -/
def encodeInstr (i : Instr) : Option W64 := (instrParts i).map fun x => BitVec.ofNat 64 (instrWord x.2.1 x.2.2.1 x.2.2.2)

end Sys2Proof.Machine
end

