-- ==== Sys2Proof/Machine/Alu.lean ====
section
/-! DEFINITION. Family ALU: integer and predicate arithmetic (R136, R137). -/

namespace Sys2Proof.Machine

/-! ## Results (R136, R137) -/

/-- High 64 bits of the signed and of the unsigned 128-bit product. -/
def mulHighS (a b : W64) : W64 := BitVec.ofInt 64 (a.toInt * b.toInt / (2 ^ 64 : Nat))
def mulHighU (a b : W64) : W64 := BitVec.ofNat 64 (a.toNat * b.toNat / 2 ^ 64)

/-- Quotient truncated toward zero; 0 for divisor 0; −2⁶³ by −1 gives −2⁶³. -/
def divS (a b : W64) : W64 := if b = 0 then 0 else BitVec.ofInt 64 (a.toInt.tdiv b.toInt)
def divU (a b : W64) : W64 := if b = 0 then 0 else BitVec.ofNat 64 (a.toNat / b.toNat)

/-- Remainder with the dividend's sign; the dividend for divisor 0. -/
def remS (a b : W64) : W64 := if b = 0 then a else BitVec.ofInt 64 (a.toInt.tmod b.toInt)
def remU (a b : W64) : W64 := if b = 0 then a else BitVec.ofNat 64 (a.toNat % b.toNat)

/-- Shift amount: bits [5:0]. -/
def shAmt (b : W64) : Nat := b.toNat % 64

def minS (a b : W64) : W64 := if a.sle b then a else b
def maxS (a b : W64) : W64 := if a.sle b then b else a

/-- Bits of `n` that are 1, over the lowest `k` bits. -/
def popBits : Nat → Nat → Nat
  | 0, _ => 0
  | k + 1, n => n % 2 + popBits k (n / 2)

def popcount (a : W64) : W64 := BitVec.ofNat 64 (popBits 64 a.toNat)

/-- Leading zeros; 64 for 0 (R137). -/
def leadingZeros (a : W64) : W64 := BitVec.ofNat 64 (64 - bitLen a.toNat)

/-! ## Forms -/

/-- The second operand: imm takes the place of gb when i = 1 (R133). -/
def operandB (ts : ThreadState) (f : Fields) : W64 := if f.i then immS f else readG ts f.b

/-- The registers of the form gd, ga, gb or imm. -/
def srcsAlu (f : Fields) : List Nat := if f.i then [srcG f.a] else [srcG f.a, srcG f.b]

/-- gd, ga, gb or imm with latency `lat` (a sub-index of R132). -/
def alu3 (op lat : Nat) (fn : W64 → W64 → W64) (t : Thread) (f : Fields) (m : Mach) : Mach :=
  issue m t 0 op f (legalAlu3 f) (srcsAlu f) fun m b c =>
    let ts := getThread m t
    resultG (retire m t c) t b c (latency m lat) f.d (fn (readG ts f.a) (operandB ts f))

/-- pd, ga, gb or imm: a comparison. -/
def aluCmp (op : Nat) (t : Thread) (f : Fields) (m : Mach) : Mach :=
  issue m t 0 op f (legalAlu3 f && pOk f.d) (srcsAlu f) fun m b c =>
    let ts := getThread m t
    resultP (retire m t c) t b c (latency m 1) f.d.toNat (cmpHolds (op - 0x16) (readG ts f.a) (operandB ts f))

/-- gd, ga: one operand. -/
def alu2 (op : Nat) (fn : W64 → W64) (t : Thread) (f : Fields) (m : Mach) : Mach :=
  issue m t 0 op f (legalRR f) [srcG f.a] fun m b c =>
    resultG (retire m t c) t b c (latency m 1) f.d (fn (readG (getThread m t) f.a))

/-! ## Meanings -/

def execAdd (t : Thread) (f : Fields) (s : State) := nextM s (alu3 0x01 1 (· + ·) t f)
def execSub (t : Thread) (f : Fields) (s : State) := nextM s (alu3 0x02 1 (· - ·) t f)
def execMul (t : Thread) (f : Fields) (s : State) := nextM s (alu3 0x03 2 (· * ·) t f)
def execMulhs (t : Thread) (f : Fields) (s : State) := nextM s (alu3 0x04 2 mulHighS t f)
def execMulhu (t : Thread) (f : Fields) (s : State) := nextM s (alu3 0x05 2 mulHighU t f)
def execDivs (t : Thread) (f : Fields) (s : State) := nextM s (alu3 0x06 3 divS t f)
def execDivu (t : Thread) (f : Fields) (s : State) := nextM s (alu3 0x07 3 divU t f)
def execRems (t : Thread) (f : Fields) (s : State) := nextM s (alu3 0x08 3 remS t f)
def execRemu (t : Thread) (f : Fields) (s : State) := nextM s (alu3 0x09 3 remU t f)
def execAnd (t : Thread) (f : Fields) (s : State) := nextM s (alu3 0x0A 1 (· &&& ·) t f)
def execOr (t : Thread) (f : Fields) (s : State) := nextM s (alu3 0x0B 1 (· ||| ·) t f)
def execXor (t : Thread) (f : Fields) (s : State) := nextM s (alu3 0x0C 1 (· ^^^ ·) t f)
def execShl (t : Thread) (f : Fields) (s : State) := nextM s (alu3 0x0D 1 (fun a b => a <<< shAmt b) t f)
def execShr (t : Thread) (f : Fields) (s : State) := nextM s (alu3 0x0E 1 (fun a b => a >>> shAmt b) t f)
def execSar (t : Thread) (f : Fields) (s : State) := nextM s (alu3 0x0F 1 (fun a b => a.sshiftRight (shAmt b)) t f)
def execMins (t : Thread) (f : Fields) (s : State) := nextM s (alu3 0x10 1 minS t f)
def execMaxs (t : Thread) (f : Fields) (s : State) := nextM s (alu3 0x11 1 maxS t f)
def execPopc (t : Thread) (f : Fields) (s : State) := nextM s (alu2 0x12 popcount t f)
def execClz (t : Thread) (f : Fields) (s : State) := nextM s (alu2 0x13 leadingZeros t f)

/-- MOVH: gd = imm·2³² + gd[31:0]. -/
def execMovh (t : Thread) (f : Fields) (s : State) := nextM s fun m =>
  issue m t 0 0x14 f (f.i && f.a == 0 && f.b == 0) [srcG f.d] fun m b c =>
    resultG (retire m t c) t b c (latency m 1) f.d (w64 (immU f * 2 ^ 32 + (readG (getThread m t) f.d).toNat % 2 ^ 32))

/-- SEL: gd = p ? ga : gb with p named by c[2:0]. -/
def execSel (t : Thread) (f : Fields) (s : State) := nextM s fun m =>
  issue m t 0 0x15 f (!f.i && fieldC f < 8 && fieldMod f == 0) [srcG f.a, srcG f.b, srcP (fieldC f)] fun m b c =>
    let ts := getThread m t
    resultG (retire m t c) t b c (latency m 1) f.d (if readP ts (fieldC f) then readG ts f.a else readG ts f.b)

def execCmpEq (t : Thread) (f : Fields) (s : State) := nextM s (aluCmp 0x16 t f)
def execCmpNe (t : Thread) (f : Fields) (s : State) := nextM s (aluCmp 0x17 t f)
def execCmpLts (t : Thread) (f : Fields) (s : State) := nextM s (aluCmp 0x18 t f)
def execCmpLes (t : Thread) (f : Fields) (s : State) := nextM s (aluCmp 0x19 t f)
def execCmpLtu (t : Thread) (f : Fields) (s : State) := nextM s (aluCmp 0x1A t f)
def execCmpLeu (t : Thread) (f : Fields) (s : State) := nextM s (aluCmp 0x1B t f)

/-- PLOG: pd, pa, pb by imm[1:0]; always encoded with i = 1 (R133). -/
def execPlog (t : Thread) (f : Fields) (s : State) := nextM s fun m =>
  issue m t 0 0x1C f (immWithin f 3 && pOk f.d && pOk f.a && pOk f.b) [srcP f.a.toNat, srcP f.b.toNat] fun m b c =>
    let ts := getThread m t
    resultP (retire m t c) t b c (latency m 1) f.d.toNat
      (plogOp (immU f) (readP ts f.a.toNat) (readP ts f.b.toNat))

end Sys2Proof.Machine
end

