-- ==== Sys2Proof/Machine/Mem.lean ====
section
/-! DEFINITION. Family MEM: loads and stores (R131, R144, R168–R170). -/

namespace Sys2Proof.Machine

/-! ## Loads -/

/-- A load's order at a bank: arrival, then ascending h, row, core (R169). -/
def loadBefore (a b : LoadReq) : Bool :=
  let ka := [a.reach, a.hops, a.thread.core.row.num.val, a.thread.core.num.val]
  let kb := [b.reach, b.hops, b.thread.core.row.num.val, b.thread.core.num.val]
  decide (ka ≤ kb)

/-- Service times of the waiting loads of one bank: one per cycle, none before the last one served (R169). -/
def assignService (cyc last : Nat) : List LoadReq → List LoadReq
  | [] => []
  | l :: rest =>
    let t := if last = 0 then l.reach else max l.reach (last + cyc)
    { l with service := t } :: assignService cyc t rest

/-- A load set on its way: the bank's waiting loads are ordered again, and the destinations become readable ScratchBase +
ScratchPerHop·h + k cycles after issue (R168, R169). -/
def scheduleLoad (m : Mach) (l : LoadReq) : Mach :=
  let mine := sortBy loadBefore (l :: m.loads.filter fun x => x.bank == l.bank)
  let placed := assignService (cycleTu m) (sget 0 m.bankServed l.bank) mine
  let all := (m.loads.filter fun x => x.bank != l.bank) ++ placed
  let m := { m with loads := sortBy (fun a b => a.service ≤ b.service) all }
  placed.foldl (fun m x => match x.dest with
    | none => m
    | some k =>
      let ts := getThread m x.thread
      let r := x.service + (latency m 11 + latency m 12 * x.hops - 2 - x.hops) * cycleTu m
      setThread m x.thread { ts with ready := sset 0 ts.ready k r }) m

/-- Effective address ga + imm (R144). -/
def effAddr (ts : ThreadState) (f : Fields) : W64 := readG ts f.a + immS f

/-- Where a load may read: its storage, or none for an ADDRESS fault (R144). -/
def loadTarget (t : Thread) (privF : Bool) (a : W64) (n : Nat) : Option (RowId × Bool × Nat) :=
  match sramAddr a with
  | some (r, buf, off) =>
    if off % n = 0 ∧ r.dune = t.core.row.dune ∧ (buf → r = t.core.row) ∧ (privF ∨ ¬ touchesReserved r buf off n) then
      some (r, buf, off)
    else none
  | none => none

/-- LD and LDV (R144): `dest` is the interlock number of the destination. -/
def loadInstr (op n : Nat) (signed : Bool) (dest : Nat) (legal : Bool) (t : Thread) (f : Fields) (m : Mach) : Mach :=
  issue m t 3 op f (f.i && f.b == 0 && legal) [srcG f.a] fun m b c =>
    let ts := getThread m t
    match loadTarget t ts.privF (effAddr ts f) n with
    | none => instFault m t 0x04 (instrWord 3 op f)
    | some (r, buf, off) =>
      let a := sramOf r buf off
      let e := eccRead m t.core.row (threadByte t) a n
      if e.2 then e.1
      else
        let m := dropLoad (retire e.1 t c) t dest
        if buf then
          let v := readSram m a n
          let ts := getThread v.2 t
          setThread v.2 t (setReady v.2 b c (latency v.2 10) dest (writeReg ts dest (loadValue signed v.1)))
        else
          let h := hopCount t.core.row.num r.num
          scheduleLoad m ⟨t, some dest, a, n, signed, rowKey r, h, cycleStart m b (c + 2 + h), 0⟩

/-- ST and STV (R131, R144): the bytes land at the end of cycle c + 4. -/
def storeInstr (op n : Nat) (src : Nat) (legal : Bool) (value : ThreadState → Nat) (t : Thread) (f : Fields) (m : Mach) :
    Mach :=
  issue m t 3 op f (f.i && f.d == 0 && legal) [srcG f.a, src] fun m b c =>
    let ts := getThread m t
    match loadTarget t ts.privF (effAddr ts f) n with
    | some (r, buf, off) =>
      if r = t.core.row then
        land (retire m t c) (cycleStart m b (c + 5)) (2 + t.core.num.val) (sramOf r buf off) (leBytes n (value ts))
      else instFault m t 0x04 (instrWord 3 op f)
    | none => instFault m t 0x04 (instrWord 3 op f)

def execLdU1 (t : Thread) (f : Fields) (s : State) := nextM s (loadInstr 0x01 1 false (srcG f.d) true t f)
def execLdU2 (t : Thread) (f : Fields) (s : State) := nextM s (loadInstr 0x02 2 false (srcG f.d) true t f)
def execLdU4 (t : Thread) (f : Fields) (s : State) := nextM s (loadInstr 0x03 4 false (srcG f.d) true t f)
def execLd8 (t : Thread) (f : Fields) (s : State) := nextM s (loadInstr 0x04 8 false (srcG f.d) true t f)
def execLdS1 (t : Thread) (f : Fields) (s : State) := nextM s (loadInstr 0x05 1 true (srcG f.d) true t f)
def execLdS2 (t : Thread) (f : Fields) (s : State) := nextM s (loadInstr 0x06 2 true (srcG f.d) true t f)
def execLdS4 (t : Thread) (f : Fields) (s : State) := nextM s (loadInstr 0x07 4 true (srcG f.d) true t f)
def execSt1 (t : Thread) (f : Fields) (s : State) :=
  nextM s (storeInstr 0x08 1 (srcG f.b) true (fun ts => (readG ts f.b).toNat) t f)
def execSt2 (t : Thread) (f : Fields) (s : State) :=
  nextM s (storeInstr 0x09 2 (srcG f.b) true (fun ts => (readG ts f.b).toNat) t f)
def execSt4 (t : Thread) (f : Fields) (s : State) :=
  nextM s (storeInstr 0x0A 4 (srcG f.b) true (fun ts => (readG ts f.b).toNat) t f)
def execSt8 (t : Thread) (f : Fields) (s : State) :=
  nextM s (storeInstr 0x0B 8 (srcG f.b) true (fun ts => (readG ts f.b).toNat) t f)
def execLdv (t : Thread) (f : Fields) (s : State) := nextM s (loadInstr 0x0C 64 false (srcV f.d) (vOk f.d) t f)
def execStv (t : Thread) (f : Fields) (s : State) :=
  nextM s (storeInstr 0x0D 64 (srcV f.b) (vOk f.b) (fun ts => (readV ts f.b).toNat) t f)

end Sys2Proof.Machine
end

