-- ==== Sys2Proof/Machine/Win.lean ====
section
/-! DEFINITION. Family WIN: WOPEN, WCLOSE and PUT (R147, R148). -/

namespace Sys2Proof.Machine

/-- WOPEN (R147): reads the descriptor at offset ga of the own row buffer. A descriptor that does not lie in the row buffer is
malformed (DEDUCED: R147 and R172 name no fault for it, and R159 puts OPERAND first); one in the reserved region is out of a U thread's
reach (R158). -/
def execWopen (t : Thread) (f : Fields) (s : State) := nextM s fun m =>
  issue m t 4 0x01 f (immWithin f 15 && f.d == 0 && f.b == 0) [srcG f.a] fun m _ c =>
    let ts := getThread m t
    let off := (readG ts f.a).toNat
    let r := t.core.row
    if off % 16 ≠ 0 ∨ 0x40000 < off + 16 then instFault m t 0x03 (instrWord 4 1 f)
    else if !ts.privF ∧ touchesReserved r true off 16 then instFault m t 0x04 (instrWord 4 1 f)
    else
      let e := eccRead m r (threadByte t) (sramOf r true off) 16
      if e.2 then e.1
      else
        let v := readSram e.1 (sramOf r true off) 16
        let w : Window := ⟨BitVec.ofNat 128 (leNat v.1), ts.privF⟩
        if windowOk r w then
          let row := getRow v.2 r
          retire (setRow v.2 r { row with windows := sset none row.windows (immU f) (some w) }) t c
        else instFault v.2 t 0x03 (instrWord 4 1 f)

/-- WCLOSE (R147). -/
def execWclose (t : Thread) (f : Fields) (s : State) := nextM s fun m =>
  issue m t 4 0x02 f (immWithin f 15 && f.d == 0 && f.a == 0 && f.b == 0) [] fun m _ c =>
    let row := getRow m t.core.row
    retire (setRow m t.core.row { row with windows := sset none row.windows (immU f) none }) t c

/-! ## PUT (R148) -/

/-- The sender's checks of R148, in the order of R159: PRIVILEGE, OPERAND, ADDRESS; 0 when accepted. -/
def putFault (t : Thread) (ts : ThreadState) (f : Fields) : Nat :=
  let tag := (readG ts (BitVec.ofNat 5 (fieldC f))).toNat
  let src := readG ts f.a
  let dst := readG ts f.b
  let len := 64 * (fieldMod f % 64 + 1)
  if fieldMod f / 64 = 3 ∧ !ts.privF then 2
  else if tag / 2 ^ 36 ≠ 0 then 3
  else if !ownRange t.core.row ts.privF src len then 4
  else match sramAddr dst with
    | some (_, _, off) => if off % 64 = 0 then 0 else 4
    | none => 4

/-- PUT: the source is read over the following cycles, the packet goes to the target's row. -/
def execPut (t : Thread) (f : Fields) (s : State) := nextM s fun m =>
  let gc : BitVec 5 := BitVec.ofNat 5 (fieldC f)
  issue m t 4 0x03 f (!f.i && f.d == 0 && fieldMod f < 256) [srcG f.a, srcG f.b, srcG gc] fun m b c =>
    let ts := getThread m t
    let word := instrWord 4 3 f
    let code := putFault t ts f
    if code ≠ 0 then instFault m t code word
    else
      let src := readG ts f.a
      let dst := readG ts f.b
      let units := fieldMod f % 64 + 1
      let cls := fieldMod f / 64
      match sramAddr dst with
      | none => m
      | some (dr, _, _) =>
        let e := eccRead m t.core.row (threadByte t) src.toNat (64 * units)
        if e.2 then e.1
        else
          let v := readSram e.1 src.toNat (64 * units)
          let until_ := cycleStart v.2 b (c + 1 + units)
          let d := draw (setThread v.2 t { getThread v.2 t with putRead := max ts.putRead until_ })
          sendPacket (retire d.2 t c) t.core.row dr
            { id := d.1, src := some t.core.row, sender := some t, target := dst, bytes := v.1, cls, tag := readG ts gc
              vdune := (getDune m t.core.row.dune).hosted.getD 0, viaLink := false, privF := ts.privF, source := src.toNat
              readUntil := until_, word := w64 word }

end Sys2Proof.Machine
end

