-- ==== Sys2Proof/Machine/Layout.lean ====
section
/-! DEFINITION. Layouts: plate sites and banks (R18, R92, R103), plate records (R79, R94–R97), virtual plates and the rows that
host them (R96, R261, R552), and where the records stand in HBM (R177, R331, R332, R335). -/

namespace Sys2Proof.Machine

/-! ## Sites and banks -/

/-- Site key for the defect map and the retirement list. -/
def siteKey (r : RowId) (s : Nat) : Nat := 68 * rowKey r + s

/-- The site that an active plate number of a row is mapped to (R92). -/
def activeSite (w : RowState) (plate : Nat) : Option (Nat × Site) :=
  w.sites.find? fun e => e.2.state == .active && e.2.plate == some plate

/-- The fixed and the latent bank of a site (R18, R103). -/
def fixedBank (s : Site) : BankState := if s.fixedB then s.bankB else s.bankA
def latentBank (s : Site) : BankState := if s.fixedB then s.bankA else s.bankB
def bankOf (s : Site) (k : Bank) : BankState := if k = .a then s.bankA else s.bankB
def setBank (s : Site) (k : Bank) (v : BankState) : Site := if k = .a then { s with bankA := v } else { s with bankB := v }
def fixedName (s : Site) : Bank := if s.fixedB then .b else .a

/-! ## Cells (R36, R94) -/

/-- A cell code as a signed weight: 4-bit packing. -/
def cell4 (c : BitVec 4) : Int := laneInt 4 c.toNat

/-- The two logical columns of a cell in 2-bit packing (R36). -/
def cell2 (c : BitVec 4) (hi : Bool) : Int := laneInt 2 (if hi then c.toNat / 4 else c.toNat % 4)

/-! ## Checksum digits (R79) -/

/-- The digit word of a row sum S (R79, R95). -/
def digitWord (s : Int) : BitVec 16 :=
  let c0 := (s + 8) % 16 - 8
  let t := (s - c0) / 16
  let c1 := (t + 8) % 16 - 8
  let c2 := (t - c1) / 16
  BitVec.ofNat 16 (toCode 4 c0 + 16 * toCode 4 c1 + 256 * toCode 4 c2)

/-- The sum of the weight codes of one cell. -/
def cellSum (twoBit : Bool) (c : BitVec 4) : Int := if twoBit then cell2 c false + cell2 c true else cell4 c

/-- S_i of an input row. -/
def rowSum (codes : SMap (BitVec 4)) (twoBit : Bool) (i : Nat) : Int :=
  (codes.filter fun e => e.1 / 256 == i).foldl (fun s e => s + cellSum twoBit e.2) 0

/-- The listed entries of a table in ascending order: `f i` for i below n, 0 left out. -/
def listNonzero {w : Nat} (n : Nat) (f : Nat → BitVec w) : SMap (BitVec w) :=
  (List.range n).filterMap fun i => if f i = 0 then none else some (i, f i)

/-- The digit words that the loader writes for cells (R79, R268). -/
def digitsFor (codes : SMap (BitVec 4)) (twoBit : Bool) : SMap (BitVec 16) :=
  listNonzero 1024 fun i => digitWord (rowSum codes twoBit i)

/-! ## Virtual plates (R96, R552; assumption 10 for their numbers) -/

/-- Number of a virtual dune: 64·virtual erg + number. -/
def vduneNum (v : VDune) : Nat := 64 * v.erg.val + v.num.val

/-- Virtual plate number of active plate `plate` of virtual row `row` of virtual dune `vd`. -/
def vplateNum (vd row plate : Nat) : Nat := 64 * (96 * vd + row) + plate

/-- The virtual dune of a virtual plate. -/
def vplateDune (v : Nat) : Nat := v / 6144

/-- The plates that a virtual dune's use masks name (R259), ascending. -/
def dunePlates (v : VDune) : List Nat :=
  v.rows.flatMap fun r => (List.range 64).filterMap fun k =>
    if r.plateMask.getLsbD k then some (vplateNum (vduneNum v) r.row.val k) else none

/-- Every virtual plate of an image. -/
def imagePlates (img : Image) : List Nat := img.vdunes.flatMap dunePlates

/-! ## Plate records (R94–R97) -/

/-- Byte i of a string, 0 beyond its end. -/
def byteAt (bs : List Byte) (i : Nat) : Byte := bs.getD i 0

/-- The bank contents of a plate record (R94–R96). -/
def parseRecord (bs : List Byte) : BankData where
  codes := listNonzero 262144 fun k => BitVec.ofNat 4 ((byteAt bs (k / 2)).toNat / 16 ^ (k % 2))
  digits := listNonzero 1024 fun i => BitVec.ofNat 16 (field bs (131072 + 2 * i) 2)
  scales := listNonzero 2048 fun i => byteAt bs (133120 + i)
  twoBit := byteAt bs 135172 == 1
  generation := field bs 135184 8
  vplate := field bs 135176 8

/-- A plate record is valid (R97). -/
def recordValid (bs : List Byte) : Bool :=
  let d := parseRecord bs
  crc32c (bs.take 135168) == field bs 135168 4 && (byteAt bs 135172).toNat ≤ 1
  && (List.range 1024).all (fun i => sget 0 d.digits i == digitWord (rowSum d.codes d.twoBit i))
  && d.scales.all fun e => scaleValid e.2

/-- One byte of a record as it stands in HBM (R94–R96), but for its crc. -/
def recordPlain (d : BankData) (o : Nat) : Byte :=
  let of := fun (n first : Nat) => BitVec.ofNat 8 (n / 256 ^ (o - first))
  if o < 131072 then BitVec.ofNat 8 ((sget 0 d.codes (2 * o)).toNat + 16 * (sget 0 d.codes (2 * o + 1)).toNat)
  else if o < 133120 then BitVec.ofNat 8 ((sget 0 d.digits ((o - 131072) / 2)).toNat / 256 ^ (o % 2))
  else if o < 135168 then sget 0 d.scales (o - 133120)
  else if o = 135172 then (if d.twoBit then 1 else 0)
  else if 135176 ≤ o ∧ o < 135184 then of d.vplate 135176
  else if 135184 ≤ o ∧ o < 135192 then of d.generation 135184
  else 0

/-- The crc of a record: CRC-32C over bytes 0 to 135,167 (R96). -/
def recordCrc (d : BankData) : Nat := crc32c ((List.range 135168).map (recordPlain d))

/-- One byte of a record. -/
def recordByte (d : BankData) (o : Nat) : Byte :=
  if 135168 ≤ o ∧ o < 135172 then BitVec.ofNat 8 (recordCrc d / 256 ^ (o - 135168)) else recordPlain d o

/-! ## Hosting -/

/-- The virtual row that a row hosts under a mapping. -/
def hostedRow (img : Image) (mp : List (Nat × Nat)) (r : RowId) : Option (Nat × VRow) :=
  match mp.find? fun e => e.2 == duneKey r.dune with
  | none => none
  | some (vd, _) => match img.vdunes.find? fun v => vduneNum v == vd with
    | none => none
    | some v => (v.rows.find? fun x => x.row == r.num).map fun x => (vd, x)

/-! ## Regions of HBM (R177, R331, R332, R335) -/

def sheetBase : Nat := 0x01E000000000
def firmwareBase : Nat := 0x01F800000000
def hbmEnd : Nat := 0x020000000000

/-- Banks that a load writes, for the golden region (R177, R331, R332). -/
def goldenSize (m : Mach) (img : Image) : Nat :=
  let plates := (imagePlates img).length
  let banks := match img.mem.bankUse with
    | .single => odGet m 0x3140 6 * plates
    | .capacity => 2 * plates
    | .streamed => ((imagePlates img).filter fun v => img.mem.residentPlates.contains v).length
  ceilDiv (banks * 139264) 524288 * 524288

/-- The job allotment left after the golden region (R177). -/
def allotmentSize (m : Mach) (img : Image) : Nat := sheetBase - goldenSize m img

def bankIdx (k : Bank) : Nat := if k = .a then 0 else 1

/-- The plates of the golden region in the order of their records: ascending virtual plates, the resident ones of a streamed image
(assumption 10). -/
def goldenPlates (img : Image) : List Nat :=
  if img.mem.bankUse = .streamed then (imagePlates img).filter img.mem.residentPlates.contains else imagePlates img

/-- The streamed plates, in the order of their records within a group of the staging region (assumption 10). -/
def stagedPlates (img : Image) : List Nat := (imagePlates img).filter fun v => !img.mem.residentPlates.contains v

/-- The record under an HBM address, and the byte of it: a golden one by 2·vplate + half, the second halves behind the first, or a
staged one by 64·vplate + group, group by group. -/
inductive RecordPlace where
  | golden (key offset : Nat)
  | staged (key offset : Nat)
  deriving DecidableEq, Repr

def recordAt (m : Mach) (a : Nat) : Option RecordPlace :=
  match m.job with
  | none => none
  | some j =>
    let base := odGet m 0x2230 2
    let place := fun (base : Nat) (plates : List Nat) =>
      let k := (a - base) / 139264
      (plates[k % max 1 plates.length]?).map fun v => (v, k / max 1 plates.length, (a - base) % 139264)
    if base ≤ a ∧ a < sheetBase then (place base (goldenPlates j.image)).map fun x => .golden (2 * x.1 + x.2.1 % 2) x.2.2
    else if j.image.mem.bankUse = .streamed ∧ j.image.mem.stagingBase ≤ a then
      (place j.image.mem.stagingBase (stagedPlates j.image)).bind fun x =>
        if x.2.1 < j.image.mem.groups then some (.staged (64 * x.1 + x.2.1) x.2.2) else none
    else none

/-- First address of a golden record, and of a staged one. -/
def goldenAddr (m : Mach) (img : Image) (key : Nat) : Nat :=
  let plates := goldenPlates img
  odGet m 0x2230 2 + 139264 * (key % 2 * plates.length + plates.findIdx (· == key / 2))
def stagedAddr (img : Image) (key : Nat) : Nat :=
  let plates := stagedPlates img
  img.mem.stagingBase + 139264 * (key % 64 * plates.length + plates.findIdx (· == key / 64))

end Sys2Proof.Machine
end

