-- ==== Sys2Proof/Machine/Sheet.lean ====
section
/-! DEFINITION. The byte layout of contact sheets, thumbnails, event logs and DuneSites rows (R436, R486–R490, R492). -/

namespace Sys2Proof.Machine

/-- Bytes of a 384-bit digest or key part, most significant first as SHA-384 and ECDSA write them. -/
def bytes384 (x : BitVec 384) : List Byte := (leBytes 48 x.toNat).reverse

/-- A text as bytes. -/
def asciiBytes (s : String) : List Byte := s.toList.map fun c => BitVec.ofNat 8 c.toNat

/-! ## DuneSites (R436) -/

def siteCode : SiteState → Nat
  | .free => 0 | .active => 1 | .shadow => 2 | .busy => 3 | .retired => 4 | .fused => 5

/-- The 16 bits of one site. -/
def siteWord (s : Site) : Nat :=
  let held := s.state == .active || s.state == .shadow
  siteCode s.state * 2 ^ 13 + (if s.margin then 2 ^ 12 else 0) + (if s.fixedB then 2 ^ 11 else 0)
  + (match s.plate with
    | some p => if held then 64 + p else 0
    | none => 0)

/-- The active core number of a core site: the (k + 1)-th usable site holds core k (R260). -/
def coreOfSite (bad : List Nat) (rk site : Nat) (mask : BitVec 16) : Option Nat :=
  let usable := (List.range 18).filter fun c => !bad.contains (18 * rk + c)
  (usable.findIdx? (· == site)).filter fun k => k < 16 && mask.getLsbD k

/-- The core use mask of a row of a job. -/
def coreMaskOf (j : Option Job) (r : RowId) : BitVec 16 :=
  match j with
  | none => 0
  | some j => ((hostedRow j.image j.map r).map (·.2.coreMask)).getD 0

/-- The 160 bytes of a DuneSites row object. `w` is the row and `idle` gives the state of an unlisted site. -/
def sitesBytes (w : RowState) (bad : List Nat) (mask : BitVec 16) (r : RowId) (idle : Nat → SiteState) : List Byte :=
  let site := fun (s : Nat) =>
    let x := getSite w s
    leBytes 2 (siteWord (if x.state = .free then { x with state := idle s } else x))
  let core := fun (s : Nat) =>
    BitVec.ofNat 8 ((if bad.contains (18 * rowKey r + s) then 128 else 0) + (coreOfSite bad (rowKey r) s mask).getD 0x1F)
  (List.range 68).flatMap site ++ (List.range 18).map core ++ List.replicate 6 0

/-! ## Events (R491, R492) -/

/-- The 16 bytes of an event. -/
def eventBytes (e : Event) : List Byte :=
  leBytes 2 e.code.toNat ++ leBytes 1 e.erg ++ leBytes 1 e.dune ++ leBytes 4 e.beat.toNat ++ leBytes 8 e.value.toNat

/-- EventLog: event k stands at offset 16·(k mod 256). `evs` holds the last ones, the newest being `posted` − 1. -/
def eventLogBytes (evs : List Event) (posted : Nat) : List Byte :=
  (List.range 256).flatMap fun o =>
    let slots := evs.zipIdx.find? fun x => (posted - evs.length + x.2) % 256 == o
    match slots with
    | some x => eventBytes x.1
    | none => List.replicate 16 0

/-! ## Sheets (R485–R490) -/

/-- Length of a sheet of a kind. -/
def sheetLength (kind : Nat) : Nat :=
  match kind with
  | 1 => 0x200000000 | 2 => 0x1800000000 | _ => 0x100000

/-- Header bytes 0–3,935 (R487); `digest` is body_digest. -/
def sheetHead (x : Sheet) (digest : BitVec 384) : List Byte :=
  let omitted := x.omitted.foldl (fun n k => n ||| 2 ^ k) 0
  padTo 3936 (asciiBytes "KE8SHEET" ++ leBytes 2 1 ++ leBytes 1 x.kind ++ leBytes 1 x.flags ++ leBytes 4 x.seq
    ++ leBytes 8 x.htc ++ leBytes 32 x.fault ++ leBytes 16 x.hardMismatch ++ leBytes 4 x.jobId ++ leBytes 4 x.firmware
    ++ bytes384 x.imageHash ++ leBytes 8 x.jobKey.toNat ++ leBytes 8 x.moduleKey.toNat ++ leBytes 8 (sheetLength x.kind)
    ++ leBytes 24 omitted ++ leBytes 32 x.injection ++ bytes384 digest)

/-- The row of a sheet's row index. -/
def sheetRow (x : Nat) : RowId := rowOf x

/-- Byte 1,285 of a thread state: 4 where its row has stopped (R486; assumption 33). -/
def threadCode (w : RowState) (t : ThreadState) : Nat :=
  if !t.live then 0 else if w.stopped then 4 else if t.sealed then 3 else if t.stall.isSome then 2 else 1

/-- The stall cause in the order of R130. -/
def stallCode : Option Stall → Nat
  | none => 0
  | some (.plate ..) => 2
  | some (.queueFull ..) => 4
  | some (.qwait ..) => 5
  | some _ => 3

/-- The 1,344 bytes of a thread state. -/
def threadBytes (w : RowState) (t : ThreadState) : List Byte :=
  padTo 1344 (t.g.toList.flatMap (fun v => leBytes 8 v.toNat) ++ t.v.toList.flatMap (fun v => leBytes 64 v.toNat)
    ++ leBytes 4 t.pc ++ leBytes 1 (t.p.toNat ||| 1) ++ leBytes 1 (threadCode w t) ++ leBytes 1 (stallCode t.stall)
    ++ leBytes 1 (if t.privF then 1 else 0))

/-- The 16 window descriptors of a row; a closed window is 0x00. -/
def windowBytes (w : RowState) : List Byte :=
  (List.range 16).flatMap fun k => match sget none w.windows k with
    | some x => leBytes 16 x.desc.toNat
    | none => List.replicate 16 0

/-- Byte `o` of the debug regions, one after the other. -/
def debugByte (hbm : List Host.Cell) : List (Nat × Nat) → Nat → Byte
  | [], _ => 0
  | (a, n) :: rest, o => if o < n then readByte hbm (a + o) else debugByte hbm rest (o - n)

/-- Byte `o` of a sheet's body as R486 lays it out, for a sheet whose dunes are not omitted at that place. -/
def bodyByte (x : Sheet) (o : Nat) : Byte :=
  let row := fun (k : Nat) => sget ({} : RowState) x.rows k
  let there := fun (k : Nat) => k < 18432 && !x.omitted.contains (k / 96)
  if o < 0x1000 then 0
  else if o < 0x1000000 then byteAt x.snapshot (o - 0x1000)
  else if o < 0x1001000 then byteAt x.eventLog (o - 0x1000000)
  else if o < 0x1010000 then 0
  else if o < 0x1500000 then
    let k := (o - 0x1010000) / 256
    if there k then byteAt (windowBytes (row k)) ((o - 0x1010000) % 256) else 0
  else if o < 0x20000000 then
    let k := (o - 0x1500000) / 160
    if there k then
      byteAt (sitesBytes (row k) x.badCores (coreMaskOf x.job (sheetRow k)) (sheetRow k) (fun s => (getSite (row k) s).state))
        ((o - 0x1500000) % 160)
    else 0
  else if o < 0xE0000000 then
    let t := (o - 0x20000000) / 1344
    if there (t / 128) then byteAt (threadBytes (row (t / 128)) (sget {} x.threads t)) ((o - 0x20000000) % 1344) else 0
  else if o < 0x200000000 then
    let k := (o - 0xE0000000) / 0x40000
    if there k then readByte x.sram (sramOf (sheetRow k) true ((o - 0xE0000000) % 0x40000)) else 0
  else if x.kind ≠ 2 then 0
  else if o < 0x1400000000 then
    let k := (o - 0x200000000) / 0x400000
    if there k then readByte x.sram (sramOf (sheetRow k) false ((o - 0x200000000) % 0x400000)) else 0
  else if o < 0x1800000000 then debugByte x.hbm x.debug (o - 0x1400000000)
  else 0

/-- Byte `o` of a thumbnail's body: the object snapshot cut to 1,040,384 bytes, then the event log (R490). -/
def thumbByte (x : Sheet) (o : Nat) : Byte :=
  if o < 0x1000 then 0
  else if o < 0x1000 + 1040384 then byteAt x.snapshot (o - 0x1000)
  else byteAt x.eventLog (o - 0x1000 - 1040384)

/-- body_digest of a sheet: SHA-384 of offsets 4,096 to length − 1 (R487). -/
def bodyDigest (x : Sheet) : BitVec 384 :=
  Config.sha384 ((List.range (sheetLength x.kind - 4096)).map fun o =>
    if x.kind = 3 then thumbByte x (4096 + o) else bodyByte x (4096 + o))

/-- The 4,096 bytes of a sheet's header (R487, R488). -/
def sheetHeader (x : Sheet) : List Byte :=
  let done := x.flags % 2 = 1
  padTo 4096 (sheetHead x (bodyDigest x) ++ bytes384 (Config.sha384 Config.devIdPoint)
    ++ (if done then bytes384 x.r ++ bytes384 x.s else []))

/-- Byte `o` of a sheet, header included. -/
def sheetByte (x : Sheet) (o : Nat) : Byte :=
  if o < 4096 then byteAt (sheetHeader x) o else if x.kind = 3 then thumbByte x o else bodyByte x o

end Sys2Proof.Machine
end

