-- ==== Sys2Proof/Machine/Queue.lean ====
section
/-! DEFINITION. HBM interleave (R177, R179), the host window (R187, R395, R396), and family Q: QLD, QST, QWAIT (R150–R152)
with the completion of transfers (R184, R185). -/

namespace Sys2Proof.Machine

/-! ## HBM (R177–R181) -/

/-- The pseudo-channel of a byte address under a key (R179). -/
def hbmChannel (key : W64) (a : Nat) : Nat :=
  let u := a / 256
  let lo := u % 2048
  let h := u / 2048
  let m := h ^^^ (key.toNat % 2 ^ 22)
  let x := m * ((key.toNat / 2 ^ 32) ||| 1) % 2 ^ 32
  lo ^^^ (x % 2048) ^^^ (x / 2 ^ 11 % 2048) ^^^ (x / 2 ^ 22)

/-- The key of a byte address: the job key below the contact-sheet area, the module key from there on (R177). -/
def hbmKey (m : Mach) (a : Nat) : W64 := if a < sheetBase then w64 (odGet m 0x2230 5) else m.moduleKey

/-- A transfer of `n` bytes at `a`: the units that the controllers serve, and the bytes moved (R181). -/
def serveHbm (m : Mach) (a n : Nat) : Mach :=
  (List.range (ceilDiv (a % 256 + n) 256)).foldl (fun m i =>
    let c := hbmChannel (hbmKey m (a + 256 * i)) (a + 256 * i)
    { m with hbmServed := supd 0 m.hbmServed c (· + 1) }) { m with hbmMoved := m.hbmMoved + n }

/-- A stack that serves some of the `n` bytes at `a` issues nothing: it has reached 105 °C and not fallen below 100 °C (R461). -/
def stackStops (m : Mach) (a n : Nat) : Bool :=
  (List.range (ceilDiv (a % 256 + n) 256)).any fun i =>
    105 ≤ sget 0 m.power.hbmBand (hbmChannel (hbmKey m (a + 256 * i)) (a + 256 * i) / 64)

/-- `new` written to HBM at `na` races with every outstanding transfer on the same bytes (R185). -/
def raceRemote (m : Mach) (na : Nat) (new : List Byte) : Mach :=
  let hit := fun (x : Transfer) => addrSpace x.remote == 2 && overlaps (x.remote.toNat % 2 ^ 41) x.length na new.length
  let any := m.queues.any fun q => q.2.entries.any fun e => match e.2 with
    | some x => hit x
    | none => false
  if !any then m
  else
    let k := m.fresh
    { m with
      fresh := k + 64
      queues := m.queues.map fun q => (q.1, { q.2 with entries := q.2.entries.map fun e => (e.1, e.2.map fun x =>
        if hit x then { x with source := raceUnits (x.remote.toNat % 2 ^ 41) x.source na new k } else x) }) }

/-- The byte that a golden or staged record, or a contact sheet, has at an HBM address (R94, R177, R178). -/
def laidByte (m : Mach) (a : Nat) : Option Byte :=
  let sheet := m.sheet.bind fun x => if sheetBase ≤ a ∧ a < sheetBase + sheetLength x.kind then some (sheetByte x (a - sheetBase)) else none
  if sheetBase ≤ a then sheet
  else if m.golden.isEmpty ∧ m.staging.isEmpty then none
  else match recordAt m a with
    | some (.golden k o) => (sget none m.golden k).map fun d => recordByte d o
    | some (.staged k o) => (sget none m.staging k).map fun d => recordByte d o
    | none => none

/-- One byte of HBM: what has been stored over a record or a sheet, else what that holds, else the memory's own. -/
def hbmByte (m : Mach) (a : Nat) : Byte :=
  match sget none m.hbmPatch a with
  | some b => b
  | none => (laidByte m a).getD (readByte m.hbm a)

def hbmBytes (m : Mach) (a n : Nat) : List Byte := (List.range n).map fun i => hbmByte m (a + i)

/-- One byte stored in HBM. -/
def storeByte (m : Mach) (a : Nat) (b : Byte) : Mach :=
  if (laidByte m a).isSome then { m with hbmPatch := sset none m.hbmPatch a (some b) } else { m with hbm := writeByte m.hbm a b, hbmPatch := sset none m.hbmPatch a none }

/-- Bytes stored in HBM from an address upward. -/
def storeBytes : Mach → Nat → List Byte → Mach
  | m, _, [] => m
  | m, a, b :: bs => storeBytes (storeByte m a b) (a + 1) bs

/-- Nothing stored over `n` bytes any more: a record or a sheet has been written there. -/
def clearPatch (m : Mach) (a n : Nat) : Mach := { m with hbmPatch := m.hbmPatch.filter fun e => !(a ≤ e.1 && e.1 < a + n) }

/-- Bytes written to HBM. -/
def writeHbm (m : Mach) (a : Nat) (bytes : List Byte) : Mach := storeBytes (raceRemote m a bytes) a bytes

/-- Bytes that a DMA engine delivers to HBM, under R184 and R185 as a queue transfer's are (R187). -/
def dmaHbm (m : Mach) (a : Nat) (bytes : List Byte) : Mach := serveHbm (writeHbm m a bytes) a bytes.length

/-! ## The host window (R187, R395, R396) -/

/-- A byte of PF BAR0 storage. -/
def bar0Byte (m : Mach) (o : Nat) : Byte := sget 0 m.bar0 o

/-- Entry i of the window table (R395). -/
def windowEntry (m : Mach) (i : Nat) : Nat := leNat ((List.range 16).map fun k => bar0Byte m (0x30000 + 16 * i + k))

/-- Translation of a host-window offset at issue: host address and function, or none for an ADDRESS fault (R396). -/
def translateHost (m : Mach) (off n : Nat) (store : Bool) : Option (Nat × Nat) :=
  let e := windowEntry m (off / 2 ^ 36)
  let o := off % 2 ^ 36
  let fn := natBits e 11 8
  if natBits e 0 0 = 1 ∧ o + n ≤ (natBits e 35 12 + 1) * 4096 ∧ (store → natBits e 1 1 = 1) ∧ ¬ fnDown m fn then
    some (natBits e 127 64 + o, fn)
  else none

/-! ## Queue transfers on the mesh (R186, R199, R202) -/

/-- The control-mesh node of the HBM controller that serves a byte address: 64 pseudo-channels a stack, 8 stacks an erg (R179, R209). -/
def hbmNode (m : Mach) (a : Nat) : Nat :=
  let stack := hbmChannel (hbmKey m a) a / 64
  64 * (stack / 8) + 50 + stack % 8

/-- The parts of a transfer, as first byte and length: one for each 256-byte unit of HBM, for host memory one. -/
def transferParts (x : Transfer) : List (Nat × Nat) :=
  if addrSpace x.remote ≠ 2 then [(0, x.length)]
  else
    let a := x.remote.toNat % 2 ^ 41
    (List.range (ceilDiv (a % 256 + x.length) 256)).map fun i =>
      let lo := if i = 0 then 0 else 256 * i - a % 256
      (lo, min x.length (256 * (i + 1) - a % 256) - lo)

/-- The row key of the router through which a part goes: the one before its HBM controller's port, or before the PCIe port (R197). -/
def partRouter (m : Mach) (x : Transfer) (lo : Nat) : Nat :=
  Config.portRow (if addrSpace x.remote = 2 then hbmNode m (x.remote.toNat % 2 ^ 41 + lo) else 60)

/-- Part of a transfer as a packet on TC2 (R186). -/
def partPacket (id : Nat) (core : CoreId) (e : Nat) (x : Transfer) (bytes : List Byte) (lo : Nat) : Packet :=
  { id, cargo := .queue core e x.seq, src := some core.row, sender := none, target := x.localAddr + BitVec.ofNat 64 lo, bytes, cls := 2
    tag := 0, vdune := 0, viaLink := false, privF := false, source := 0, readUntil := 0, word := 0 }

/-- The data of a QLD set on their way from the port islands to the row. -/
def sendLoad (m : Mach) (core : CoreId) (e : Nat) (x : Transfer) (data : List Byte) : Mach :=
  (transferParts x).foldl (fun m y =>
    let d := draw m
    enterPacket d.2 (rowOf (partRouter m x y.1)) core.row
      { partPacket d.1 core e x ((data.drop y.1).take y.2) y.1 with exit := queuePort }) m

/-- The data of a QST set on their way from the row to the port islands. -/
def sendStore (m : Mach) (core : CoreId) (e : Nat) (x : Transfer) : Mach :=
  (transferParts x).foldl (fun m y =>
    let d := draw m
    sendPacket d.2 core.row (rowOf (partRouter m x y.1))
      { partPacket d.1 core e x ((x.source.drop y.1).take y.2) y.1 with exit := edgePort }) m

/-! ## Issue (R150, R151) -/

/-- The remote side of a transfer: host address and function, or HBM (0, 0); or the fault code (R150, R164, R178, R187). -/
def remoteSide (m : Mach) (privF store : Bool) (remote : W64) (n : Nat) : Nat ⊕ (Nat × Nat) :=
  let a := remote.toNat
  if addrSpace remote = 3 ∧ !privF then .inl 2
  else if a % 64 ≠ 0 then .inl 4
  else if addrSpace remote = 2 then
    let off := natBits a 40 0
    if natBits a 59 41 = 0 ∧ off + n ≤ (if privF then hbmEnd else odGet m 0x2230 1) then .inr (0, 0) else .inl 4
  else if addrSpace remote = 3 then
    if natBits a 59 48 ≠ 0 then .inl 4
    else match translateHost m (natBits a 47 0) n store with
      | some x => .inr x
      | none => .inl 4
  else .inl 4

/-- The first failing check of a QLD or QST, in the order of R159; 0 when accepted. -/
def queueFault (m : Mach) (t : Thread) (privF store : Bool) (remote localAddr : W64) (n : Nat) : Nat :=
  match remoteSide m privF store remote n with
  | .inl 2 => 2
  | .inl _ => 4
  | .inr _ => if ownRange t.core.row privF localAddr n then 0 else 4

/-- The lowest-numbered free entry of a queue (R151). -/
def freeEntry (q : QueueState) (k : Nat) : Option Nat := (List.range 16).find? fun e => (sget none q.entries (16 * k + e)).isNone

/-- An accepted transfer takes its entry, and the ticket goes to gd (R150, R151). `q` is 0–3 for loads and 4–5 for stores.
A QLD from HBM reads, and a QST takes, the bytes as they stand, races apart (R185). -/
def takeEntry (m : Mach) (t : Thread) (b : Beat) (c q e : Nat) (remote localAddr : W64) (n : Nat) (gd : BitVec 5) : Mach :=
  let privF := (getThread m t).privF
  let store := q ≥ 4
  let host := match remoteSide m privF store remote n with
    | .inr x => x
    | .inl _ => (0, 0)
  let r := if store then readSram m localAddr.toNat n
    else (if addrSpace remote = 2 then hbmBytes m (remote.toNat % 2 ^ 41) n else [], m)
  let m := r.2
  let qs := getQueues m t.core
  let seq := sget 0 qs.next q
  let x : Transfer := ⟨seq, !store, remote, host.1, localAddr, n, r.1, host.2, false, m.now⟩
  let m := setQueues m t.core { next := sset 0 qs.next q (seq + 1), entries := sset none qs.entries (16 * q + e) (some x) }
  let m := if addrSpace remote = 3 ∧ !store then hostRead m host.2 host.1 n else m
  let m := if store then sendStore m t.core (16 * q + e) x else m
  resultG m t b c (latency m 1) gd (w64 (seq * 128 + q * 16 + e))

/-- QLD and QST. -/
def queueInstr (store : Bool) (op mask : Nat) (t : Thread) (f : Fields) (m : Mach) : Mach :=
  issue m t 5 op f (immWithin f mask) [srcG f.a, srcG f.b] fun m b c =>
    let ts := getThread m t
    let n := 64 * (immU f % 64 + 1)
    let q := if store then 4 + immU f / 256 % 2 else immU f / 256 % 4
    let remote := readG ts f.a
    let localAddr := readG ts f.b
    let code := queueFault m t ts.privF store remote localAddr n
    if code ≠ 0 then instFault m t code (instrWord 5 op f)
    else
      let e := if store then eccRead m t.core.row (threadByte t) localAddr.toNat n else (m, false)
      if e.2 then e.1
      else match freeEntry (getQueues e.1 t.core) q with
        | some k => takeEntry (retire e.1 t c) t b c q k remote localAddr n f.d
        | none =>
          let d := t.core.row.dune
          let m := countDune (retire e.1 t c) d.erg.val d.num.val 0x6150 2 1
          setThread m t { getThread m t with stall := some (.queueFull (!store) q remote localAddr n f.d) }

def execQld (t : Thread) (f : Fields) (s : State) := nextM s (queueInstr false 0x01 0x33F t f)
def execQst (t : Thread) (f : Fields) (s : State) := nextM s (queueInstr true 0x02 0x13F t f)

/-! ## QWAIT (R152) -/

/-- The transfer of a queue and sequence has completed: issued, and no entry holds it. -/
def transferDone (q : QueueState) (k seq : Nat) : Bool :=
  seq < sget 0 q.next k && (List.range 16).all fun e => match sget none q.entries (16 * k + e) with
    | some x => x.seq != seq
    | none => true

/-- QWAIT ends at its deadline: 0 to pd, QWaitDeadlines counts, the transfer stays outstanding. -/
def deadlineEnds (m : Mach) (t : Thread) (b : Beat) (pd : BitVec 3) (deadline : Nat) : Mach :=
  let d := t.core.row.dune
  let m := countDune m d.erg.val d.num.val 0x6150 3 1
  let ts := getThread m t
  let ts := { writeP ts pd.toNat false with stall := none, nextIssue := max ts.nextIssue deadline }
  setThread m t (setReady m b 0 0 (srcP pd.toNat) ts)

/-- QWAIT: pd, ga ticket, imm the deadline cycle or 0. -/
def execQwait (t : Thread) (f : Fields) (s : State) := nextM s fun m =>
  issue m t 5 0x03 f (f.i && f.b == 0 && pOk f.d) [srcG f.a] fun m b c =>
    let ticket := (readG (getThread m t) f.a).toNat
    let q := ticket / 16 % 8
    let seq := ticket / 128
    let qs := getQueues m t.core
    let pd : BitVec 3 := BitVec.ofNat 3 f.d.toNat
    if q ≥ 6 ∨ sget 0 qs.next q ≤ seq then instFault m t 0x09 (instrWord 5 3 f)
    else
      let m := retire m t c
      if transferDone qs q seq then resultP m t b c (latency m 1) pd.toNat true
      else
        let deadline := stretchTarget m b (immU f)
        if immU f ≠ 0 ∧ deadline ≤ c then deadlineEnds m t b pd deadline
        else setThread m t { getThread m t with stall := some (.qwait q seq (immU f) pd) }

/-- QWAIT_DEADLINE: the beat program reaches the deadline of a waiting QWAIT. Beat cycles run on until the next beat starts, in a row
that has stopped and past the commit cycle as well (R152, R227). -/
def execQwaitDeadline (t : Thread) (s : State) := nextM s fun m =>
  match (getThread m t).stall, (getDune m t.core.row.dune).beat with
  | some (.qwait q seq deadline pd), some b =>
    let c := stretchTarget m b deadline
    if deadline = 0 ∨ transferDone (getQueues m t.core) q seq ∨ (getDune m t.core.row.dune).power ≠ .usable
      ∨ b.start + beatLength m (getDune m t.core.row.dune) b * 217 ≤ cycleStart m b c then m
    else deadlineEnds (advance m (cycleStart m b c)) t b pd c
  | _, _ => m

/-! ## Completion (R184) -/

/-- Threads of the core that wait for the completed transfer: 1 to pd, or 0 where the deadline has been reached (R152). -/
def wakeWaiters (m : Mach) (core : CoreId) (q seq : Nat) : Mach :=
  match (getDune m core.row.dune).beat with
  | none => m
  | some b => (List.range 8).foldl (fun m k =>
      let t : Thread := ⟨core, Fin.ofNat 8 k⟩
      let ts := getThread m t
      match ts.stall with
      | some (.qwait q' seq' deadline pd) =>
        if q' = q ∧ seq' = seq then
          let now := cycleAtOrAfter m b m.now
          let dl := stretchTarget m b deadline
          if deadline ≠ 0 ∧ dl < now then deadlineEnds m t b pd dl
          else
            let ts := { writeP ts pd.toNat true with stall := none, nextIssue := max ts.nextIssue now }
            setThread m t (setReady m b now 0 (srcP pd.toNat) ts)
        else m
      | _ => m) m

/-- The bytes that a QLD delivers: where a QST on the same HBM bytes is outstanding, its value may already be read (R185). -/
def qldBytes (m : Mach) (x : Transfer) : List Byte × Mach :=
  let a := x.remote.toNat % 2 ^ 41
  let racing := m.queues.flatMap fun q => q.2.entries.filterMap fun e => match e.2 with
    | some y => if !y.load && addrSpace y.remote == 2 && overlaps (y.remote.toNat % 2 ^ 41) y.length a x.length then some y else none
    | none => none
  racing.foldl (fun r y => (raceUnits a r.1 (y.remote.toNat % 2 ^ 41) y.source r.2.fresh, { r.2 with fresh := r.2.fresh + 64 }))
    (x.source, m)

/-- The bytes that arrive from the host, a missing one being open. -/
def hostBytes (m : Mach) (n : Nat) (data : List Byte) : List Byte :=
  (List.range n).map fun i => data.getD i (Config.freeByte (m.fresh + i))

/-! ## Transfers carried -/

/-- No part of a transfer is on the mesh any more. -/
def partsDone (core : CoreId) (e seq : Nat) (m : Mach) : Bool := m.packets.all fun p => p.cargo != .queue core e seq

/-- The fabric carries a transfer's data to the row, or out to the port islands; the last unit has been written by then (R184). -/
def carryTransfer (m : Mach) (core : CoreId) (e : Nat) (x : Transfer) (data : List Byte) : Mach :=
  let m := if x.load then sendLoad m core e x data else m
  let m := runUntil (partsDone core e x.seq) fabricFuel m
  if x.load then advance m (m.landings.foldl (fun t l => if overlaps l.addr l.bytes.length x.localAddr.toNat x.length ∧ l.rank = 1 then max t l.due else t) m.now)
  else m

/-- QUEUE_TRANSFER_COMPLETE: the transfer in an entry ends. -/
def execQueueTransferComplete (core : CoreId) (q : Fin 6) (e : Fin 16) (hostData : List Byte) (how : XferEnd) (s : State) :=
  nextM s fun m =>
  let qs := getQueues m core
  match sget none qs.entries (16 * q.val + e.val) with
  | none => m
  | some x =>
    let d := core.row.dune
    let host := addrSpace x.remote == 3
    let release := fun (m : Mach) => setQueues m core { getQueues m core with
      entries := sset none (getQueues m core).entries (16 * q.val + e.val) none }
    match how with
    | .uncorrectable => rowFault (release m) core.row 0x503 0 (x.remote.toNat % 2 ^ 60)
    | .hostError =>
      if host ∧ x.load then rowFault (count (release m) 0x5401 4 1) core.row 0x504 0 0 else m
    | .done =>
      if addrSpace x.remote = 2 ∧ stackStops m (x.remote.toNat % 2 ^ 41) x.length then m else
      let r := if !x.load ∨ x.discarded then ([], m)
        else if host then (hostBytes m x.length hostData, { m with fresh := m.fresh + x.length }) else qldBytes m x
      let m := if x.discarded then m else carryTransfer r.2 core (16 * q.val + e.val) x r.1
      let m := release m
      let m := if x.discarded ∨ x.load then m
        else if host then hostWrite m x.fn x.host x.source
        else writeHbm m (x.remote.toNat % 2 ^ 41) x.source
      let m := if host then m else serveHbm m (x.remote.toNat % 2 ^ 41) x.length
      let m := countDune (countDune m d.erg.val d.num.val 0x6160 2 1) d.erg.val d.num.val 0x6160 3 x.length
      wakeWaiters m core q.val x.seq

end Sys2Proof.Machine
end

