-- ==== Sys2Proof/Machine/Plate.lean ====
section
/-! DEFINITION. Family PLATE: firing of plates (R56–R72, R145), alignment and flush counts (R42–R46), the widening decision
(R66–R68, R232–R236), results (R47, R69, R75–R77) and checksum verdicts (R79–R88, R91), and the end of a firing. -/

namespace Sys2Proof.Machine


/-! ## Alignment (R42–R46) -/

/-- round(x / 2^k), to nearest, ties to even, for a signed x. -/
def rneShift (x : Int) (k : Int) : Int :=
  if k ≤ 0 then x * (2 ^ (-k).toNat : Nat) else sgn (x < 0) (shiftRne x.natAbs k.toNat false)

/-- A phase group aligned at width n (R43): the integers q and the shared exponent E, none for a group of zeros. The values
come in units of 2^-10. -/
def alignGroup (n : Nat) (xs : List Int) : List Int × Option Int :=
  let top := xs.foldl (fun a x => max a x.natAbs) 0
  if top = 0 then (xs.map fun _ => 0, none)
  else
    let e := floorLog2 top (-10) - (n - 1 : Nat)
    let q := xs.map fun x => rneShift x (e + 10)
    if q.any fun v => v.natAbs == 2 ^ n then (xs.map fun x => rneShift x (e + 11), some (e + 1)) else (q, some e)

/-- The four phase groups of an input, aligned (R42). -/
def alignInput (n : Nat) (xs : List Int) : List Int × List (Option Int) :=
  let gs := (List.range 4).map fun p => alignGroup n ((xs.drop (256 * p)).take 256)
  (gs.flatMap (·.1), gs.map (·.2))

/-- Flushed elements: x ≠ 0 and q = 0 (R45). -/
def flushCount (xs qs : List Int) : Nat := ((xs.zip qs).filter fun e => e.1 != 0 && e.2 == 0).length

/-- Flushed blocks: ordinary blocks all of whose nonzero elements are flushed (R45). -/
def flushedBlocks (classes : List BlockClass) (xs qs : List Int) : Nat :=
  ((List.range 64).filter fun b =>
    classes.getD b .zero == .ordinary &&
      (((xs.zip qs).drop (16 * b)).take 16).all fun e => e.1 == 0 || e.2 == 0).length

/-- The 64 input blocks of the 10 bursts at an address (R30, R57). -/
def readInput (bytes : List Byte) : List (BlockClass × List Int) :=
  (List.range 64).map fun b =>
    readBlock (BitVec.ofNat 512 (leNat ((bytes.drop (64 * (b / 7))).take 64))) (b % 7)

/-! ## Acceptance (R66–R68, R72, R145, R232–R236) -/

/-- The plates that a mask names, ascending. -/
def maskPlates (mask : W64) : List Nat := (List.range 64).filter fun k => mask.getLsbD k

/-- The checks of R145 that fault, in the order of R159: OPERAND, ADDRESS; 0 when a firing may be accepted. -/
def fireFault (w : RowState) (input output mask : W64) : Nat :=
  let ps := maskPlates mask
  let packs := ps.map fun p => (activeSite w p).map fun s => (fixedBank s.2).data.twoBit
  let two := packs.head? == some (some true)
  if ps.isEmpty ∨ 16 < ps.length then 3
  else if packs.any (·.isNone) then 3
  else if packs.any fun x => x != packs.headD none then 3
  else if input.toNat % 64 ≠ 0 ∨ 0x3C000 < input.toNat + 640 then 4
  else if output.toNat % 64 ≠ 0 ∨ 0x3C000 < output.toNat + ps.length * (if two then 2048 else 1024) then 4
  else 0

/-- The job runs its proof variant (R257). -/
def proofJob (m : Mach) : Bool :=
  match m.job with
  | some j => j.proof
  | none => false

/-- The wide policy in force (R234): CLAMP or else STRETCH. -/
def policyClamp (m : Mach) : Bool :=
  match odGet m 0x3020 4 with
  | 0 => match m.job with
    | some j => j.image.widePolicy == 2
    | none => false
  | k => k == 2

/-- Length of a firing in cycles (R72). -/
def firingLength (m : Mach) (exact wide : Bool) : Nat :=
  2 * (4 * (if wide then 8 else 4) * (if exact then 4 else 1)) + latency m 13

/-- How a firing wanted wide goes on (R68, R232, R234, R235). -/
inductive WidenOutcome where
  | wide (account : Nat)
  | clamp
  | stretch (account : Nat) (wide : Bool)
  deriving DecidableEq, Repr

/-- The row driver's decision for a firing wanted wide in beat cycle a (R232, R235). -/
def widen (m : Mach) (b : Beat) (w : RowState) (exact : Bool) (a : Nat) : WidenOutcome :=
  let e := if exact then 128 else 32
  if e ≤ w.account then .wide (w.account - e)
  else if policyClamp m then .clamp
  else
    let earlier := match b.stretched with
      | some j => decide (j < b.segment)
      | none => false
    if earlier then .clamp
    else if !w.raised ∧ markInForce m b b.segment < a + cyclesCeil m 400 then .clamp
    else if w.raised then .clamp
    else
      let acc := w.account + stretchCycles m / 2
      if e ≤ acc then .stretch (acc - e) true else .stretch acc false

/-- Word 2 of a STRETCH message (R236). -/
def stretchWord (segment row cycle : Nat) : W32 :=
  BitVec.ofNat 32 (segment % 16 * 2 ^ 28 + row * 2 ^ 20 + min cycle 0xFFFFF)

/-- A STRETCH request of a row (R235, R236). -/
def sendStretch (m : Mach) (r : RowId) (b : Beat) (a : Nat) : Mach :=
  sendMesh (count m 0x6170 3 1) 2 2 0xFF (duneNode r.dune) (lo32 b.n) (stretchWord b.segment r.num.val a) 0

/-- Count in a dune by its row. -/
def countRow (m : Mach) (r : RowId) (idx sub n : Nat) : Mach := countDune m r.dune.erg.val r.dune.num.val idx sub n

/-- A clamped firing in beat n, kept for the PRECISION flag of the tokens whose passes run through that beat (R313). -/
def noteClamp (m : Mach) (n : Nat) : Mach :=
  { m with job := m.job.map fun j => if j.clampedBeats.contains n then j else { j with clampedBeats := j.clampedBeats ++ [n] } }

/-- The row driver accepts a firing in beat cycle a (R57, R67, R72, R109). -/
def acceptFiring (m : Mach) (r : RowId) (b : Beat) (a : Nat) (t : Thread) (kind : FireKind) (input output : Nat)
    (mask : W64) : Mach :=
  let e := eccRead m r (threadByte t) (sramOf r true input) 640
  if e.2 then e.1
  else
    let v := readSram e.1 (sramOf r true input) 640
    let m := v.2
    let w := getRow m r
    let blocks := readInput v.1
    let classes := blocks.map (·.1)
    let xs := blocks.flatMap (·.2)
    let ps := maskPlates mask
    let proof := proofJob m
    let exact := proof || kind == .firex
    let forced := proof || kind == .firew
    let narrow := alignInput 3 xs
    let limit := odEff m 0x2210 1
    let wanted := !forced && (List.range 4).any fun p =>
      limit < flushCount ((xs.drop (256 * p)).take 256) ((narrow.1.drop (256 * p)).take 256)
    let two := match activeSite w (ps.headD 0) with
      | some s => (fixedBank s.2).data.twoBit
      | none => false
    let n := ps.length
    let dec := if wanted then some (widen m b w exact a) else none
    let wide := forced || match dec with
      | some (.wide _) => true
      | some (.stretch _ g) => g
      | _ => false
    let aligned := if wide then alignInput 7 xs else narrow
    let m := countRow m r 0x6120 7 ((classes.filter (· == .malformed)).length)
    let m := countRow m r 0x6120 2 (flushCount xs aligned.1)
    let m := countRow m r 0x6120 3 (flushedBlocks classes xs aligned.1)
    let m := if wanted ∧ wide then countRow m r 0x6120 4 n else m
    let m := if wanted ∧ !wide then countRow m r 0x6120 5 n else m
    let m := if wanted ∧ !wide ∧ !policyClamp m then count m 0x6170 4 n else m
    let m := if wanted ∧ !wide then noteClamp m b.n else m
    let m := match dec with
      | some (.stretch _ _) => sendStretch m r b a
      | _ => m
    let len := firingLength m exact wide
    let aborted := match w.strip with
      | some s => s.running && decide (cycleStart m b a < s.until_)
      | none => false
    let m := if aborted then countRow m r 0x6140 3 1 else m
    setRow m r { w with
      firing := some ⟨ps, output, exact, wide, two, aligned.1, aligned.2, a, a + len - 1, (getDune m r.dune).tj⟩
      driverFree := a + len
      strip := w.strip.map fun s => { s with running := s.running && !aborted }
      account := match dec with
        | some (.wide acc) => acc
        | some (.stretch acc _) => acc
        | _ => w.account
      raised := w.raised || match dec with
        | some (.stretch _ _) => true
        | _ => false }

/-- A thread of the row waits for the row driver with a plate instruction; the active core numbers of those that do. -/
def plateWaiters (m : Mach) (r : RowId) : List Nat :=
  (List.range 128).filterMap fun k =>
    match (getThread m ⟨⟨r, Fin.ofNat 16 (k / 8)⟩, Fin.ofNat 8 (k % 8)⟩).stall with
    | some (.plate ..) => some (k / 8)
    | _ => none

/-- A core of a lower number offers a firing of its own in cycle c: its thread of the same slot issues a plate instruction that is
accepted or waits (R61, R145). -/
def lowerCoreFires (m : Mach) (b : Beat) (c : Nat) (t : Thread) : Bool :=
  (List.range t.core.num.val).any fun k =>
    let u : Thread := ⟨⟨t.core.row, Fin.ofNat 16 k⟩, t.num⟩
    let ts := getThread m u
    let w := fetchWord m u
    let f := splitWord w
    let srcs := [srcP f.gp.toNat, srcG f.a, srcG f.b, srcG (BitVec.ofNat 5 (fieldC f))]
    (issuingBeat m u).isSome && (wordOp w).1 == 6 && 1 ≤ (wordOp w).2 && (wordOp w).2 ≤ 3 && guardHolds ts f
    && issueSlot m b u srcs == c
    && fireFault (getRow m t.core.row) (readG ts f.a) (readG ts f.b) (readG ts (BitVec.ofNat 5 (fieldC f))) == 0

/-- FIRE, FIREW, FIREX (R145). The row driver takes waiting threads first, in the cycle in which it is free, and of several
cores in one cycle the lowest (R61). -/
def fireInstr (op : Nat) (kind : FireKind) (t : Thread) (f : Fields) (m : Mach) : Mach :=
  let gc : BitVec 5 := BitVec.ofNat 5 (fieldC f)
  issue m t 6 op f (!f.i && f.d == 0 && fieldMod f == 0) [srcG f.a, srcG f.b, srcG gc] fun m b c =>
    let ts := getThread m t
    let r := t.core.row
    let w := getRow m r
    let input := readG ts f.a
    let output := readG ts f.b
    let mask := readG ts gc
    let code := fireFault w input output mask
    if code ≠ 0 then instFault m t code (instrWord 6 op f)
    else
      let waiting := plateWaiters m r
      let first := waiting.isEmpty || (c == w.driverFree && waiting.all fun k => t.core.num.val < k)
      if w.firing.isNone ∧ first ∧ !lowerCoreFires m b c t then acceptFiring (retire m t c) r b c t kind input.toNat output.toNat mask
      else
        let m := retire m t c
        setThread m t { getThread m t with stall := some (.plate kind input.toNat output.toNat mask) }

def execFire (t : Thread) (f : Fields) (s : State) := nextM s (fireInstr 0x01 .fire t f)
def execFirew (t : Thread) (f : Fields) (s : State) := nextM s (fireInstr 0x02 .firew t f)
def execFirex (t : Thread) (f : Fields) (s : State) := nextM s (fireInstr 0x03 .firex t f)

/-- FWAIT (R146): the thread resumes at its first slot after the last cycle of the firing in progress. -/
def execFwait (t : Thread) (f : Fields) (s : State) := nextM s fun m =>
  issue m t 6 0x04 f (legalRR f && f.d == 0 && f.a == 0) [] fun m _ c =>
    let m := retire m t c
    match (getRow m t.core.row).firing with
    | none => m
    | some fr => setThread m t { getThread m t with stall := some (.untilCycle (fr.last + 1) false) }

/-! ## Accumulation (R47, R50, R59, R70) -/

/-- Codes with the cells that read otherwise during this firing. -/
def upsetCodes (codes : SMap (BitVec 4)) (ups : List CellUpset) : SMap (BitVec 4) :=
  ups.foldl (fun c u => if u.column.val < 256 then sset 0 c (256 * u.inputRow.val + u.column.val) u.code else c) codes

/-- A digit word with one digit replaced. -/
def putDigit (w : BitVec 16) (k : Nat) (c : BitVec 4) : BitVec 16 := BitVec.ofNat 16 (spliceBits w.toNat (4 * k) 4 c.toNat)

def upsetDigits (digits : SMap (BitVec 16)) (ups : List CellUpset) : SMap (BitVec 16) :=
  ups.foldl (fun d u => if u.column.val < 256 then d
    else supd 0 d u.inputRow.val fun w => putDigit w (u.column.val - 256) u.code) digits

/-- Digit k of a checksum digit word (R95). -/
def digitOf (w : BitVec 16) (k : Nat) : Int := laneInt 4 (w.toNat / 2 ^ (4 * k) % 16)

/-- Accumulations A_jp and M_jp by key 4·j + p over the cells of a bank (R47, R74). -/
def accumulate (codes : SMap (BitVec 4)) (twoBit : Bool) (q : List Int) : SMap (Int × Nat) :=
  codes.foldl (fun acc e =>
    let i := e.1 / 256
    let c := e.1 % 256
    let x := q.getD i 0
    let add := fun (acc : SMap (Int × Nat)) (j : Nat) (w : Int) =>
      supd (0, 0) acc (4 * j + i / 256) fun s => (s.1 + x * w, s.2 + (x * w).natAbs)
    if twoBit then add (add acc (2 * c) (cell2 e.2 false)) (2 * c + 1) (cell2 e.2 true) else add acc c (cell4 e.2)) []

/-- Accumulations of checksum column k, by phase. -/
def accumulateDigit (digits : SMap (BitVec 16)) (k : Nat) (q : List Int) : SMap (Int × Nat) :=
  digits.foldl (fun acc e =>
    let x := q.getD e.1 0 * digitOf e.2 k
    supd (0, 0) acc (e.1 / 256) fun s => (s.1 + x, s.2 + x.natAbs)) []

/-- A weight scale in units 2^-9 (R26, R38). -/
def scaleUnits (b : Byte) : Int :=
  match decodeE4m3 (b.toNat % 128) with
  | .fin n m e => sgn n (scaleUp m e (-9))
  | _ => 0

/-! ### The fast readout (R63, R69, R112, R113) -/

/-- The weight of input plane k of `planes` (R63). -/
def planeWeight (planes k : Nat) : Int := if k + 1 = planes then -(2 ^ k : Nat) else (2 ^ k : Nat)

/-- The rows that a plane drives with a 1. -/
def drivenRows (planes k : Nat) (qs : List Int) : Nat :=
  (qs.filter fun q => (q % (2 ^ planes : Nat) : Int).toNat / 2 ^ k % 2 == 1).length

/-- What one ADC step counts in a step that drives so many rows: the full scale, the smallest power of two from 128 that covers
eight times their number, over 128. -/
def adcUnit (rows : Nat) : Nat := if rows ≤ 16 then 1 else 2 ^ bitLen (8 * rows - 1) / 128

/-- g(T) of a column whose coefficient is `k`, `dT` sixteenths of a °C from the strip (R113). -/
def gainAt (x : ColumnTrim) (k : Rat) (dT : Int) : Rat := (1 + (x.gain : Rat) / 1024) * (1 + k * dT / 16)

/-- A column's phase accumulator in 1/256 units: the conversions of its planes, trimmed and weighted (R69). The ADC codes are
free values, the draws from `d` on; the fraction below 1/256 is dropped (assumption 124). -/
def readout (planes : Nat) (qs : List Int) (gain offset : Rat) (d : Nat) : Int :=
  (256 * (List.range planes).foldl (fun s k =>
    s + (planeWeight planes k * adcUnit (drivenRows planes k qs) : Int) * (Config.adcCode (d + k) * gain + offset)) (0 : Rat)).floor

/-- What decides a fast firing (R74, R75, R77): whether the bound holds at all, whether 2^-6 stands for 2^-7, ΔT in °C, the
planes and inputs, and the trims of each column at the dune's Tj. "Present Tj" is the dune's Tj when the firing was accepted,
the instant at which the trims are scaled (assumption 125). -/
structure FastConditions where
  holds : Bool
  coarse : Bool
  dT : Nat
  planes : Nat := 4
  q : List Int := []
  trim : Nat → Rat × Rat

/-- k of a column of a bank: what two strips set, or the one that the steward holds (R113). -/
def columnCoeff (test site : Nat) (bankB : Bool) (j : Nat) (x : ColumnTrim) : Rat :=
  x.coeff.getD (Config.storedCoefficient test site (if bankB then 1024 + j else j))

def fastConditions (m : Mach) (fr : Firing) (site : Nat) (bankB : Bool) (b : BankState) : FastConditions :=
  let age := m.now - b.stripTime
  let maxAge := (odGet m 0x2220 1 + 60) * 217000000000
  let t := fr.tj
  { holds := b.stripped && age ≤ maxAge && 272 ≤ t && t ≤ 1840
    coarse := (272 ≤ t && t < 320) || (1680 < t && t ≤ 1840)
    dT := ceilDiv (t - b.stripTj).natAbs 16
    planes := if fr.wide then 8 else 4
    q := fr.q
    trim := fun j =>
      let x := sget {} b.trims j
      (gainAt x (columnCoeff m.coeffTest site bankB j x) (t - b.stripTj), x.offset / 4) }

/-- 256 times the bound of R75 or R77 on |Â − A|, rounded down. -/
def fastBound (c : FastConditions) (mm : Nat) : Nat := ((if c.coarse then 80 else 40) * mm + mm * c.dT) / 20 + 1024

/-- The fast accumulation of column j in phase p, in 1/256 units: what the readout gives, within the bound where that holds. -/
def fastAccum (c : FastConditions) (a : Int × Nat) (j p d : Nat) : Int :=
  let x := c.trim j
  let v := readout c.planes ((c.q.drop (256 * p)).take 256) x.1 x.2 (d + 8 * (4 * j + p))
  let lim : Int := fastBound c a.2
  if c.holds then max (256 * a.1 - lim) (min (256 * a.1 + lim) v) else v

/-- Accumulation j, p in 1/256 units, in the mode of the firing. -/
def accumValue (exact : Bool) (c : FastConditions) (a : Int × Nat) (j p d : Nat) : Int :=
  if exact then 256 * a.1 else fastAccum c a j p d

/-- y_j: the sum over the phases in units 2^-33, rounded once to binary32 (R47, R69). -/
def partialSum (d : BankData) (accs : List Int) (exps : List (Option Int)) (j : Nat) : Nat :=
  let total := (List.range 4).foldl (fun s p =>
    match exps.getD p none with
    | none => s
    | some e => s + accs.getD p 0 * scaleUnits (sget 0 d.scales ((if d.twoBit then 512 else 256) * p + j)) * (2 ^ (e + 16).toNat : Nat))
    (0 : Int)
  if total = 0 then 0 else tyPack 0 (.fin (total < 0) total.natAbs (-33))

/-- D_p of the four phases from the accumulations of the columns and of K0–K2 (R80). -/
def checkDiffs (cols : Nat) (val dig : Nat → Nat → Int) : List Int :=
  (List.range 4).map fun p => dig 0 p + 16 * dig 1 p + 256 * dig 2 p - (List.range cols).foldl (fun s j => s + val j p) 0

/-- The result of one plate: its partial sums and D_p of the four phases in 1/256 units (R80). `k` numbers the draws. -/
def firePlate (c : FastConditions) (fr : Firing) (d : BankData) (ups : List CellUpset) (k : Nat) : List Nat × List Int :=
  let codes := upsetCodes d.codes ups
  let digits := upsetDigits d.digits ups
  let cols := if d.twoBit then 512 else 256
  let acc := accumulate codes d.twoBit fr.q
  let val := fun j p => accumValue fr.exact c (sget (0, 0) acc (4 * j + p)) j p k
  let ys := (List.range cols).map fun j => partialSum d ((List.range 4).map (val j)) fr.exps j
  let dig := fun i p => accumValue fr.exact c (sget (0, 0) (accumulateDigit digits i fr.q) p) (512 + i) p k
  (ys, checkDiffs cols val dig)

/-- D_p of an exact firing of a bank on inputs q, in units of one (R70, R80). -/
def exactDiffs (d : BankData) (ups : List CellUpset) (q : List Int) : List Int :=
  let acc := accumulate (upsetCodes d.codes ups) d.twoBit q
  let digits := upsetDigits d.digits ups
  checkDiffs (if d.twoBit then 512 else 256) (fun j p => (sget (0, 0) acc (4 * j + p)).1)
    fun i p => (sget (0, 0) (accumulateDigit digits i q) p).1

/-! ## Verdicts (R81–R88) -/

inductive Verdict where
  | pass | soft | hard
  deriving DecidableEq, Repr

/-- 640 · T_p in units of one (R82): C · (40·Q + Q·ΔT + 2560), with 2^-6 for 2^-7 in the ranges of R77. -/
def tolerance640 (c : FastConditions) (twoBit : Bool) (q : Nat) : Nat :=
  (if twoBit then 785 else 529) * ((if c.coarse then 80 else 40) * q + q * c.dT + 2560)

/-- The verdict of one phase of a firing of a job (R83); `d` is D_p in 1/256 units. -/
def phaseVerdict (exact : Bool) (c : FastConditions) (twoBit : Bool) (factor q : Nat) (d : Int) : Verdict :=
  if exact then (if d = 0 then .pass else .hard)
  else
    let x := 640 * d.natAbs
    let lim := 256 * tolerance640 c twoBit q
    if x ≤ lim then .pass else if x ≤ factor * lim then .soft else .hard

def rankOfVerdict : Verdict → Nat
  | .pass => 0 | .soft => 1 | .hard => 2

/-- The worst phase among the nonzero ones: the worst verdict, then the largest |D_p|, then the lowest phase. -/
def worstPhase (vs : List (Nat × Verdict × Int)) : Nat × Verdict × Int :=
  vs.foldl (fun a b =>
    if rankOfVerdict a.2.1 < rankOfVerdict b.2.1 ∨ (rankOfVerdict a.2.1 = rankOfVerdict b.2.1 ∧ a.2.2.natAbs < b.2.2.natAbs) then b
    else a) (vs.headD (0, .pass, 0))

/-- Verdict of one plate of a firing of a job (R83, R60): worst phase, verdict and D_p. -/
def plateVerdict (c : FastConditions) (fr : Firing) (twoBit : Bool) (factor : Nat) (ds : List Int) : Nat × Verdict × Int :=
  let ps := (List.range 4).filter fun p => (fr.exps.getD p none).isSome
  worstPhase (ps.map fun p =>
    let q := (((fr.q.drop (256 * p)).take 256).map Int.natAbs).foldl (· + ·) 0
    (p, phaseVerdict fr.exact c twoBit factor q (ds.getD p 0), ds.getD p 0))

/-- D_p as an I32, rounded toward zero and saturated (R91). -/
def dValue (d : Int) : Nat :=
  let x := d.tdiv 256
  let y := if x > 0x7FFFFFFF then 0x7FFFFFFF else if x < -0x80000000 then -0x80000000 else x
  (y % (2 ^ 32 : Nat)).toNat

/-- LastHardMismatch (R91) as a number. -/
def hardRecord (d : Int) (beat same phase : Nat) (two wide exact : Bool) (site : Nat) (r : RowId) : Nat :=
  dValue d * 2 ^ 96 + beat % 2 ^ 32 * 2 ^ 64 + min same 255 * 2 ^ 56 + phase * 2 ^ 50 + (if two then 2 ^ 49 else 0)
    + (if wide then 2 ^ 48 else 0) + (if exact then 2 ^ 47 else 0) + site * 2 ^ 32 + r.num.val * 2 ^ 24
    + r.dune.num.val * 2 ^ 16 + r.dune.erg.val * 2 ^ 8 + 1

/-- Erg, dune and row of a recorded hard verdict as one number in the order of R88. -/
def hardPlace (rec_ : Nat) : Nat := natBits rec_ 15 8 * 2 ^ 16 + natBits rec_ 23 16 * 2 ^ 8 + natBits rec_ 31 24

/-- A hard verdict has reached the module steward (R88): the first one of a beat is recorded, of several in one cycle that of
the lowest erg, dune and row; every other one of the beat counts in same_beat. -/
def recordHard (m : Mach) (h : HardVerdict) : Mach :=
  let old := odGet m 0x6130 7
  if old % 256 = 1 ∧ natBits old 95 64 = h.beat % 2 ^ 32 then
    let all := min 255 (natBits old 63 56 + h.more + 1)
    let first := if m.now < m.hardAt + cycleTu m ∧ hardPlace h.record < hardPlace old then h.record else old
    odSet m 0x6130 7 (spliceBits first 56 8 all)
  else odSet { m with hardAt := m.now } 0x6130 7 (spliceBits h.record 56 8 (min 255 h.more))

/-- The hard verdict of a row and beat whose FAULT reaches the module steward now. -/
def hardArrives (m : Mach) (erg dune row beat : Nat) : Mach :=
  let mine := fun (h : HardVerdict) => h.erg == erg && h.dune == dune && h.row == row && h.beat == beat
  match m.hardWaiting.find? mine with
  | some h => recordHard { m with hardWaiting := m.hardWaiting.erase h } h
  | none => m

/-- Effects of a soft verdict of a job's firing on a plate (R84, R85, R117, R118). -/
def softVerdict (m : Mach) (r : RowId) (plate : Nat) : Mach :=
  let m := countRow m r 0x6130 4 1
  let w := getRow m r
  match activeSite w plate with
  | none => m
  | some (k, s) =>
    if s.deferred then rowFault m r 0x102 0 0
    else if w.upkeep.any fun u => u.plate == plate && u.goal == .retire then rowFault m r 0x103 0 0
    else if s.retireDue then m
    else if w.softPlates.any (fun e => e.1 == plate) ∨ w.upkeep.any (fun u => u.plate == plate && u.goal == .reexpose) then m
    else if s.reexposed then setRow m r (setSite w k { s with retireDue := true, retireSoft := true })
    else setRow m r { w with softPlates := w.softPlates ++ [(plate, fixedName s, false)] }

/-- The provocation of actions 3 and 4 that acts on a firing of a site (R494). -/
def plateProvocation (m : Mach) (r : RowId) (site : Nat) : Option Armed :=
  m.provocations.find? fun a => (provokes m a 3 || provokes m a 4) && armedBits a 111 104 == site
    && armedBits a 103 96 == r.num.val && armedBits a 95 88 == r.dune.num.val && armedBits a 87 80 == r.dune.erg.val

/-- The result of a firing on one named plate. -/
structure PlateResult where
  plate : Nat
  site : Nat
  sums : List Nat
  phase : Nat
  verdict : Verdict
  d : Int
  deriving DecidableEq, Repr

/-- One named plate at the end of a firing, with a provoked verdict where one is armed. -/
def plateResult (m : Mach) (r : RowId) (fr : Firing) (ups : List CellUpset) (plate : Nat) : PlateResult × Mach :=
  match activeSite (getRow m r) plate with
  | none => (⟨plate, 0, List.replicate (if fr.twoBit then 512 else 256) 0, 0, .pass, 0⟩, m)
  | some (k, s) =>
    let bank := fixedBank s
    let c := fastConditions m fr (siteKey r k) s.fixedB bank
    let mine := ups.filter fun u => u.site.val == k
    let res := firePlate c fr bank.data mine m.fresh
    let m := if fr.exact then m else { m with fresh := m.fresh + 16480 }
    let v := plateVerdict c fr bank.data.twoBit (odEff m 0x2210 2) res.2
    match plateProvocation m r k, fr.exps.any (·.isSome) with
    | some a, true =>
      let forced := if fr.exact ∨ armedBits a 79 72 = 4 ∨ v.2.1 = .hard then .hard else .soft
      (⟨plate, k, res.1, v.1, forced, v.2.2⟩, spendProvocation m a)
    | _, _ => (⟨plate, k, res.1, v.1, v.2.1, v.2.2⟩, m)

/-- The results of the named plates in ascending order, each on the state the one before left. -/
def plateResults (m : Mach) (r : RowId) (fr : Firing) (ups : List CellUpset) : List Nat → List PlateResult × Mach
  | [] => ([], m)
  | p :: rest =>
    let x := plateResult m r fr ups p
    let y := plateResults x.2 r fr ups rest
    (x.1 :: y.1, y.2)

/-- The hard verdicts of one firing (R86, R88): one job fault, the plates counted and marked for the restart. -/
def hardVerdicts (m : Mach) (r : RowId) (fr : Firing) (hs : List PlateResult) : Mach :=
  match hs with
  | [] => m
  | h :: rest =>
    let beat := beatOfNow m r.dune
    let m := countRow m r 0x6130 5 hs.length
    let m := { m with hardWaiting := m.hardWaiting ++ [{
      erg := r.dune.erg.val, dune := r.dune.num.val, row := r.num.val, beat, more := rest.length
      record := hardRecord h.d beat 0 h.phase fr.twoBit fr.wide fr.exact h.site r }] }
    let w := hs.foldl (fun w p => setSite w p.site { getSite w p.site with hardDue := true }) (getRow m r)
    rowFault (setRow m r w) r 0x101 0 (dValue h.d)

/-- The last cycle of a firing (R59, R60, R83): partial sums land, the verdict is posted, and the firing counts; one that FREEZE
has abandoned before counts nowhere (assumption 126). -/
def endFiring (m : Mach) (r : RowId) (b : Beat) (fr : Firing) (ups : List CellUpset) : Mach :=
  let m := advance m (cycleStart m b fr.last)
  let x := plateResults m r fr ups fr.plates
  let m := x.2
  let n := fr.plates.length
  let m := countRow m r 0x6130 (if fr.exact then 2 else 1) n
  let zeros := (fr.exps.filter (·.isNone)).length
  let m := if odEff m 0x2210 3 = 1 then countRow m r 0x6130 3 (zeros * n) else m
  let w := getRow m r
  let m := setRow m r { w with firing := none, driverFree := fr.last + 1 }
  let out := x.1.flatMap fun p => p.sums.flatMap fun y => leBytes 4 y
  let m := advance (land m (cycleStart m b (fr.last + 1)) 0 (sramOf r true fr.output) out) (cycleStart m b (fr.last + 1))
  let m := (x.1.filter fun p => p.verdict == .soft).foldl (fun m p => softVerdict m r p.plate) m
  hardVerdicts m r fr (x.1.filter fun p => p.verdict == .hard)

end Sys2Proof.Machine
end

