-- ==== Sys2Proof/Machine/Golden.lean ====
section
/-! DEFINITION. Weights: bank entries and plate records as bank contents (R36–R38, R79, R94–R97, R552), bank plans (R331,
R334), golden records and their places (R177, R332, R335), and the sites of a row by its defects (R92, R93, R260). -/

namespace Sys2Proof.Machine

/-- The tally of a bank by 4·column + phase: sums of the column's codes over the phase's rows (R107). -/
def tallyOf (codes : SMap (BitVec 4)) (twoBit : Bool) : SMap Int :=
  (accumulate codes twoBit (List.replicate 1024 1)).filterMap fun e => if e.2.1 = 0 then none else some (e.1, e.2.1)

/-- The pattern of the reference rows: all +7, −8, +1 and 0 (R99). -/
def referenceRows : SMap (BitVec 4) := [(0, 7), (1, 8), (2, 1)]

/-! ## Bank entries (R552) -/

/-- Logical columns that a form fills. -/
def formCols (form : Nat) : Nat := if form ≤ 1 then 256 else 512

/-- Packed length of n elements of a form. -/
def packedLength (form n : Nat) : Nat :=
  match form with
  | 0 => n / 2 | 1 => 3 * n / 8 | 2 => n / 4 | _ => ceilDiv n 5

/-- The cell codes of an element stream of forms 0–3. -/
def streamCodes (form : Nat) (stream : List Byte) : SMap (BitVec 4) :=
  if form ≤ 1 then listNonzero 262144 fun k => BitVec.ofNat 4 (toCode 4 (weightElement form stream k))
  else listNonzero 262144 fun k =>
    BitVec.ofNat 4 (toCode 2 (weightElement form stream (2 * k)) + 4 * toCode 2 (weightElement form stream (2 * k + 1)))

/-- What is wrong with one bank entry that names a plate and a group rightly, in the order 0x0404, 0x0407, 0x0403, 0x0402,
0x0401 (R270, R552): no element and no scale is taken from a default. -/
def entryFault (e : WeightEntry) : Option Nat :=
  if e.form = 4 then
    if e.elementCount ≠ 0 ∨ e.scaleCount ≠ 0 ∨ e.streamBytes ≠ 139264 ∨ e.stream.length ≠ 139264 then some 0x0407
    else if recordValid e.stream then none else some 0x0401
  else
    let c := formCols e.form
    if e.form = 1 ∧ e.streamBytes ≠ packedLength 1 e.elementCount then some 0x0404
    else if e.elementCount ≠ 1024 * c ∨ e.streamBytes ≠ packedLength e.form e.elementCount ∨ e.scaleCount ≠ 4 * c
        ∨ e.stream.length ≠ e.streamBytes ∨ e.scales.length ≠ e.scaleCount then
      some 0x0407
    else if e.form = 3 ∧ (byteAt e.stream 104857).toNat < 243 ∧
        ((byteAt e.stream 104857).toNat / 27 % 3 ≠ 1 ∨ (byteAt e.stream 104857).toNat / 81 % 3 ≠ 1) then some 0x0407
    else if e.form = 3 ∧ e.stream.any (fun b => 243 ≤ b.toNat) then some 0x0403
    else if e.scales.any (fun s => !scaleValid s) then some 0x0402
    else none

/-- The bank that an entry loads, with the generation that the loader gives it (R268, R330). -/
def entryBank (e : WeightEntry) (gen : Nat) : BankData :=
  if e.form = 4 then { parseRecord e.stream with generation := gen, vplate := e.vplate }
  else
    let codes := streamCodes e.form e.stream
    let two := 2 ≤ e.form
    { codes, digits := digitsFor codes two, scales := listNonzero 2048 fun i => byteAt e.scales i, twoBit := two,
      generation := gen, vplate := e.vplate }

/-- Two records hold the same weights (R268). -/
def sameWeights (a b : BankData) : Bool :=
  a.codes == b.codes && a.digits == b.digits && a.scales == b.scales && a.twoBit == b.twoBit

/-! ## Bank plans (R331, R334) -/

/-- The group fixed in beat n (R334); group 0 where the image declares no plan. -/
def planGroup (d : MemDecl) (n : Nat) : Nat := if d.groups = 0 ∨ d.bankPeriod = 0 then 0 else n / d.bankPeriod % d.groups

/-- A plan fix applies at the boundary of beat n (R334). -/
def planFixAt (d : MemDecl) (n : Nat) : Bool :=
  d.bankUse != .single && d.bankPeriod != 0 && n != 0 && n % d.bankPeriod == 0

/-- A plate of a streamed image that its plan writes (R331). -/
def streamedPlate (d : MemDecl) (v : Nat) : Bool := d.bankUse == .streamed && !d.residentPlates.contains v

/-- The groups of a plate that the weights section must hold (R552). -/
def groupsOf (d : MemDecl) (v : Nat) : List Nat :=
  match d.bankUse with
  | .single => [0]
  | .capacity => List.range d.groups
  | .streamed => if d.residentPlates.contains v then [0] else List.range d.groups

/-! ## Golden and staged records (R177, R330–R335) -/

/-- A record that stands at address a, as read after what has been stored over its bytes (R97). -/
def readRecord (m : Mach) (a : Nat) (d : BankData) : BankData :=
  if m.hbmPatch.any fun e => a ≤ e.1 && e.1 < a + 139264 then
    let bs := hbmBytes m a 139264
    { parseRecord bs with valid := recordValid bs }
  else d

/-- Address of a golden record and of a staged one under the job's image. -/
def goldenPlace (m : Mach) (key : Nat) : Nat := (m.job.map fun j => goldenAddr m j.image key).getD 0
def stagedPlace (m : Mach) (key : Nat) : Nat := (m.job.map fun j => stagedAddr j.image key).getD 0

def goldenGet (m : Mach) (v half : Nat) : Option BankData :=
  (sget none m.golden (2 * v + half)).map (readRecord m (goldenPlace m (2 * v + half)))
def goldenSet (m : Mach) (v half : Nat) (r : Option BankData) : Mach :=
  let m := serveHbm (clearPatch m (goldenPlace m (2 * v + half)) 139264) (goldenPlace m (2 * v + half)) 139264
  { m with golden := sset none m.golden (2 * v + half) r }
def stagedGet (m : Mach) (v g : Nat) : Option BankData :=
  (sget none m.staging (64 * v + g)).map (readRecord m (stagedPlace m (64 * v + g)))
def stagedSet (m : Mach) (v g : Nat) (r : Option BankData) : Mach :=
  let m := serveHbm (clearPatch m (stagedPlace m (64 * v + g)) 139264) (stagedPlace m (64 * v + g)) 139264
  { m with staging := sset none m.staging (64 * v + g) r }

/-- Where a record stands in HBM. -/
def placeOf (m : Mach) (d : BankData) : Option Nat :=
  ((m.golden.find? fun e => e.2.map (readRecord m (goldenPlace m e.1)) == some d).map fun e => goldenPlace m e.1)
  <|> ((m.staging.find? fun e => e.2.map (readRecord m (stagedPlace m e.1)) == some d).map fun e => stagedPlace m e.1)

/-- `n` bytes of a record, from byte `o` on, read from HBM (R181). -/
def serveRecord (m : Mach) (d : BankData) (o n : Nat) : Mach :=
  match placeOf m d with
  | some a => serveHbm m (a + o) n
  | none => m

/-- The golden and the staged records as read after what has been stored over their bytes, in the tables themselves. -/
def readRecords (m : Mach) : Mach :=
  let read := fun (place : Nat → Nat) (t : SMap (Option BankData)) => t.map fun e => (e.1, e.2.map (readRecord m (place e.1)))
  { m with
    golden := read (goldenPlace m) m.golden, staging := read (stagedPlace m) m.staging
    hbmPatch := m.hbmPatch.filter fun e => sheetBase ≤ e.1 }

/-- The beat that a job is in or about to start. -/
def jobBeat (m : Mach) : Nat := beatNumber m

/-- The record that re-exposure and restart use for a bank of a virtual plate (R331): `fixedB` says which bank is fixed and
`n` in which beat. A resident plate of a streamed image has one record for both banks. -/
def goldenFor (m : Mach) (d : MemDecl) (v : Nat) (k : Bank) (fixedB : Bool) (n : Nat) : Option BankData :=
  match d.bankUse with
  | .single => goldenGet m v (bankIdx k)
  | .capacity => goldenGet m v (planGroup d n % 2 ^^^ (if (k = .b) = fixedB then 0 else 1))
  | .streamed =>
    if d.residentPlates.contains v then goldenGet m v 0
    else stagedGet m v ((planGroup d n + if (k = .b) = fixedB then 0 else 1) % d.groups)

/-- The records that a load places for an entry (R331): golden halves, or the staging region. -/
def placeRecord (m : Mach) (d : MemDecl) (e : WeightEntry) (gen : Nat) : Mach :=
  let r := some (entryBank e gen)
  match d.bankUse with
  | .single => goldenSet m e.vplate 0 r
  | .capacity => goldenSet m e.vplate (e.group % 2) r
  | .streamed =>
    if d.residentPlates.contains e.vplate then goldenSet m e.vplate 0 r
    else stagedSet m e.vplate e.group r

/-! ## Sites of a row (R92, R93, R260) -/

/-- The usable plate sites of a row, ascending: neither FUSED nor RETIRED (R258). -/
def usableSites (m : Mach) (r : RowId) : List Nat :=
  (List.range 68).filter fun s => !m.badSites.contains (siteKey r s) && !m.retirement.contains (siteKey r s)

/-- The usable core sites of a row (R258). -/
def usableCores (m : Mach) (r : RowId) : Nat :=
  ((List.range 18).filter fun c => !m.badCores.contains (18 * rowKey r + c)).length

/-- The state of a site that holds no plate: FUSED, RETIRED or FREE (R92). -/
def idleState (m : Mach) (r : RowId) (s : Nat) : SiteState :=
  if m.badSites.contains (siteKey r s) then .fused
  else if m.retirement.contains (siteKey r s) then .retired else .free

/-- A site enters RETIRED for the life of the module (R93). -/
def retireSite (m : Mach) (r : RowId) (s : Nat) : Mach :=
  let w := getRow m r
  let m := setRow m r (setSite w s { getSite w s with state := .retired, plate := none, retireDue := false,
                                                      retireSoft := false })
  countRow { m with retirement := m.retirement ++ [siteKey r s] } r 0x6140 7 1

/-- The active plate numbers that sites are mapped to in a row under a mask: (k + 1)-th usable site for plate k (R260). -/
def mapRowSites (m : Mach) (r : RowId) (mask : W64) : List (Nat × Nat) :=
  ((usableSites m r).zipIdx).filterMap fun e => if e.2 < 64 && mask.getLsbD e.2 then some (e.1, e.2) else none

end Sys2Proof.Machine
end

