-- ==== Sys2Proof/Machine/Bask.lean ====
section
/-! DEFINITION. Banks as the write port and a strip leave them (R99, R106, R107, R112–R114), and bask (R459): the exact wide
firings that warm cold dunes outside a job, what self-test has left in the plates they fire (R526), and the end of any firing. -/

namespace Sys2Proof.Machine

/-! ## A bank written -/

/-- Row word i of a record: 128 bytes of cell codes (R94). -/
def rowWord (d : BankData) (i : Nat) : List Byte :=
  (List.range 128).map fun b =>
    BitVec.ofNat 8 ((sget 0 d.codes (256 * i + 2 * b)).toNat + 16 * (sget 0 d.codes (256 * i + 2 * b + 1)).toNat)

/-- The cells that a staged row word spells for input row i. -/
def wordCells (i : Nat) (bytes : List Byte) : SMap (BitVec 4) :=
  (List.range 256).filterMap fun c =>
    let x := BitVec.ofNat 4 ((byteAt bytes (c / 2)).toNat / 16 ^ (c % 2))
    if x = 0 then none else some (256 * i + c, x)

/-- The tally with the cells of an input row added (R107). -/
def addTally (t : SMap Int) (twoBit : Bool) (cells : SMap (BitVec 4)) : SMap Int :=
  cells.foldl (fun t e =>
    let p := e.1 / 65536
    let c := e.1 % 256
    let add := fun (t : SMap Int) (j : Nat) (w : Int) => supd 0 t (4 * j + p) fun s => s + w
    if twoBit then add (add t (2 * c) (cell2 e.2 false)) (2 * c + 1) (cell2 e.2 true) else add t c (cell4 e.2)) t

/-- A bank after the write port has written input row i of a record from its staged word: incomplete, its tally begun anew with
row 0 (R99, R100, R107). -/
def putRow (b : BankState) (rec_ : BankData) (i : Nat) (bytes : List Byte) : BankState :=
  let cells := wordCells i bytes
  let old := b.data.codes
  let codes := (old.filter fun e => e.1 / 256 < i) ++ cells ++ old.filter fun e => i < e.1 / 256
  { b with
    data := { b.data with codes, digits := sset 0 b.data.digits i (sget 0 rec_.digits i), twoBit := rec_.twoBit }
    complete := false, stripped := false
    tally := addTally (if i = 0 then [] else b.tally) rec_.twoBit cells }

/-- The bank after its reference rows and its scales: complete, not yet stripped (R99, R104). -/
def closeBank (b : BankState) (rec_ : BankData) : BankState :=
  { b with
    data := { b.data with scales := rec_.scales, generation := rec_.generation, vplate := rec_.vplate, valid := rec_.valid }
    complete := true, stripped := false, reference := referenceRows }

/-- A bank written whole from a record. -/
def writeBank (b : BankState) (rec_ : BankData) : BankState :=
  { closeBank b rec_ with data := rec_, tally := tallyOf rec_.codes rec_.twoBit }

/-! ## A strip's findings -/

/-- The columns of a bank: its logical columns, and K0–K2 at 512–514. -/
def bankColumns (d : BankData) : List Nat := List.range (if d.twoBit then 512 else 256) ++ [512, 513, 514]

/-- Proof vector v of a strip: all ones, then values drawn from ±1 to ±7 (R106). -/
def proofVector (seed v : Nat) : List Int :=
  if v = 0 then List.replicate 1024 1
  else (List.range 1024).map fun i =>
    let x := (Config.proofInput seed (1024 * v + i)).val
    if x < 7 then ((x + 1 : Nat) : Int) else -((x - 6 : Nat) : Int)

/-- A solved trim lies outside its range (R112). -/
def trimsOut (o : StripObs) : Bool :=
  o.trims.any fun t => decide (t.gain < -128 ∨ 127 < t.gain ∨ t.offset < -32 ∨ 31 < t.offset)

/-- k from two strips of a bank at least 10 °C apart (R113): gains `a` and `b` in steps, `dT` in 1/16 °C. -/
def coeffFrom (a b dT : Int) : Rat := max (4 / 10000) (min (12 / 10000) ((((1024 + b : Int) : Rat) / (1024 + a : Int) - 1) / (dT / 16)))

/-- The trims that a strip at Tj leaves in a bank (R106, R112, R113), each within its range; the columns it does not name keep
theirs. The strip before is the one that k is taken from (assumption 128). -/
def solveTrims (b : BankState) (tj : Int) (o : StripObs) : BankState :=
  let dT := tj - b.stripTj
  let solved := fun (j : Nat) (x : ColumnTrim) => match o.trims.find? fun t => t.column.val == j with
    | some t => { x with gain := max (-128) (min 127 t.gain), offset := max (-32) (min 31 t.offset) }
    | none => x
  let far := b.solved && decide (160 ≤ dT.natAbs)
  let cols := if far then bankColumns b.data else (o.trims.map (·.column.val)).filter fun j => (bankColumns b.data).contains j
  { b with
    stripTj := tj, solved := true
    trims := cols.foldl (fun ts j => supd {} ts j fun x =>
      let y := solved j x
      if far then { y with coeff := some (coeffFrom x.gain y.gain dT) } else y) b.trims }

/-- A trim uses more than a percentage of its range on either side (R114). -/
def trimUses (limit : Nat) (gain offset : Int) : Bool :=
  let uses := fun (x : Int) (up down : Nat) => decide (limit * (if x < 0 then down else up) < 100 * x.natAbs)
  uses gain 127 128 || uses offset 31 32

/-- A strip's solved trims raise a margin warning (R114). -/
def trimWarns (limit : Nat) (b : BankState) (o : StripObs) : Bool :=
  (b.trims.any fun e => trimUses limit e.2.gain e.2.offset) || o.trims.any fun t => trimUses limit t.gain t.offset

/-- The cells of a site among those that read otherwise. -/
def upsetsOf (o : StripObs) (site : Nat) : List CellUpset := o.upsets.filter fun u => u.site.val == site

/-- Proof firing v gives D_p ≠ 0 in some phase (R107). -/
def proofDiffers (b : BankState) (seed v : Nat) (ups : List CellUpset) : Bool :=
  (exactDiffs b.data ups (proofVector seed v)).any (· != 0)

/-- The all-ones proof firing differs from the bank's tally in some column and phase (R107). -/
def tallyDiffers (b : BankState) (ups : List CellUpset) : Bool := tallyOf (upsetCodes b.data.codes ups) b.data.twoBit != b.tally

/-- M of a column and phase on inputs q (R74). -/
def columnM (d : BankData) (q : List Int) (j p : Nat) : Nat :=
  if j < 512 then (sget (0, 0) (accumulate d.codes d.twoBit q) (4 * j + p)).2
  else (sget (0, 0) (accumulateDigit d.digits (j - 512) q) p).2

/-- A verify firing of proof vector v leaves a column outside R75 with ΔT = 0, 2^-8 and 2 (R107). -/
def residualTooLarge (b : BankState) (seed v : Nat) (o : StripObs) : Bool :=
  o.residuals.any fun x => (bankColumns b.data).contains x.column.val
    && decide (columnM b.data (proofVector seed v) x.column.val x.phase.val + 512 < x.error.natAbs)

/-- A whole strip fails for another cause than its trims (R107). -/
def stripFails (b : BankState) (seed site : Nat) (o : StripObs) : Bool :=
  let ups := upsetsOf o site
  tallyDiffers b ups || (List.range 8).any fun v => proofDiffers b seed v ups || residualTooLarge b seed v o

/-- A bank that has passed a strip at Tj and an instant. -/
def passBank (b : BankState) (now : Nat) : BankState := { b with stripped := true, stripTime := now, rewritten := false }

/-- A bank written whole and stripped with nothing found. -/
def builtBank (b : BankState) (rec_ : BankData) (tj : Int) (now : Nat) : BankState :=
  passBank (solveTrims (writeBank b rec_) tj {}) now

/-! ## Bask (R459)

SENSOR_SAMPLE starts and stops a dune's bask; while it basks, each end of a bask firing starts the row's next. -/

/-- Bask's input of a draw: 1,024 integers at width 7 from a source that the manual does not describe. -/
def baskVector (k : Nat) : List Int := (List.range 1024).map fun i => max (-127) (Config.baskInput k i).toInt

/-- Bask's limit over the module in W: none where neither case of R459 holds, or at T1 or above. -/
def baskLimit (m : Mach) : Option Nat :=
  if odGet m 0x4100 1 ≠ 0 ∨ m.power.dead then none
  else if m.mode = .selftest ∧ m.warming.isSome then some 10000
  else if m.mode = .standby ∧ odGet m 0x4300 3 = 1 then some (odGet m 0x4300 5) else none

/-- The target of a dune in 1/16 °C (R459). -/
def baskTarget (m : Mach) (d : DuneId) : Int :=
  match m.warming with
  | some t => sget 0 t (duneKey d) + 160
  | none => 16 * odGet m 0x4300 4

/-- One more exact wide firing of a plate, of 3,145,728 fJ (R73), keeps bask's average draw within its limit; a unit of the
clock is 1/217 ns (assumption 127). -/
def baskAffords (m : Mach) (limit : Nat) : Bool :=
  decide ((m.baskFired + 1) * 3145728 * 217 ≤ limit * 1000000 * (m.now - m.baskSince + 262 * cycleTu m))

/-- What self-test has left in a site's banks, put there as data: they hold the pattern, stripped (R526). -/
def testBank (t : PlateTest) (dune : Nat) : BankState :=
  let codes := listNonzero 262144 Config.testPattern
  { data := { codes, digits := digitsFor codes false }
    complete := true, stripped := true, solved := true, stripTj := sget 0 t.tj dune, stripTime := t.time
    reference := referenceRows, tally := tallyOf codes false }

/-- A site as it stands, with self-test's pattern where nothing has been written into it since; `make` builds a bank that holds
the pattern. -/
def siteWith (make : PlateTest → Nat → BankState) (m : Mach) (r : RowId) (s : Nat) : Site :=
  let x := getSite (getRow m r) s
  match m.selftest with
  | some t =>
    if x.pattern ∧ x.state ≠ .retired ∧ x.state ≠ .fused ∧ !m.badSites.contains (siteKey r s) ∧ !m.retirement.contains (siteKey r s)
    then { x with bankA := make t (duneKey r.dune), bankB := if t.extended then make t (duneKey r.dune) else x.bankB }
    else x
  | none => x

def siteNow (m : Mach) (r : RowId) (s : Nat) : Site := siteWith testBank m r s

/-- What upkeep sees of a site without reading its cells: states, marks and strips. -/
def siteView (m : Mach) (r : RowId) (s : Nat) : Site :=
  siteWith (fun t d => { complete := true, stripped := true, solved := true, stripTj := sget 0 t.tj d, stripTime := t.time }) m r s

/-- The next site of a row that bask fires after site `after`: an ACTIVE or FREE one whose fixed bank is complete, in turn. -/
def baskSite (m : Mach) (r : RowId) (after : Nat) : Option Nat :=
  (List.range 68).map (fun k => (after + 1 + k) % 68) |>.find? fun s =>
    let x := siteView m r s
    (x.state == .active || x.state == .free) && (fixedBank x).complete

/-- A row's next bask firing starts, where bask goes on and nothing else holds the row driver. -/
def baskNext (m : Mach) (r : RowId) (after : Nat) : Mach :=
  let w := getRow m r
  let d := getDune m r.dune
  let idle := setRow m r { w with bask := none }
  match baskLimit m, baskSite m r after with
  | some limit, some s =>
    if d.basking ∧ d.power = .usable ∧ !d.frozen ∧ w.firing.isNone ∧ w.strip.isNone ∧ baskAffords m limit then
      let m := setRow m r { w with bask := some ⟨s, m.now + firingLength m true true * cycleTu m, m.fresh⟩ }
      { m with fresh := m.fresh + 1, baskFired := m.baskFired + 1 }
    else idle
  | _, _ => idle

/-- A bask firing ends: counted, its results discarded, its verdict soft at most (R83); the row's next one starts. A soft verdict
outside a job has no golden record to re-expose from and counts only (assumption 127). -/
def endBask (m : Mach) (r : RowId) (b : BaskRun) (ups : List CellUpset) : Mach :=
  if (baskLimit m).isNone then setRow m r { getRow m r with bask := none }
  else
  let m := countRow (advance m b.until_) r 0x6130 2 1
  let x := siteNow m r b.site
  let ds := exactDiffs (fixedBank x).data (ups.filter fun u => u.site.val == b.site) (baskVector b.seed)
  let soft := ds.any (· != 0)
  let m := if !soft then m else match m.job, x.state, x.plate with
    | some _, .active, some p => softVerdict m r p
    | _, _, _ => countRow m r 0x6130 4 1
  baskNext m r b.site

/-- FIRING_END: the firing in progress in a row ends, an instruction's or one of bask. -/
def execFiringEnd (r : RowId) (ups : List CellUpset) (s : State) := nextM s fun m =>
  let d := getDune m r.dune
  if d.frozen then m
  else match (getRow m r).firing, d.beat, (getRow m r).bask with
    | some fr, some b, _ => endFiring m r b fr ups
    | none, _, some b => endBask m r b ups
    | _, _, _ => m

end Sys2Proof.Machine
end

