-- ==== Sys2Proof/Machine/Sync.lean ====
section
/-! DEFINITION. Families SYNC, CTL and SYS: barriers, waits, SEAL, control flow, GETS, ABRT, unit control and EVT
(R128, R153–R158), and STALL_RESUME (R130). -/

namespace Sys2Proof.Machine

/-- A thread of a row by 8 · core + thread. -/
def rowThread (r : RowId) (k : Nat) : Thread := ⟨⟨r, Fin.ofNat 16 (k / 8)⟩, Fin.ofNat 8 (k % 8)⟩

/-- The thread waits. -/
def stallOn (m : Mach) (t : Thread) (st : Stall) : Mach := setThread m t { getThread m t with stall := some st }

/-! ## BARL (R154) -/

/-- Every thread that arrived in a round resumes at its first slot at or after cycle c + 1. -/
def releaseRound (m : Mach) (r : RowId) (c : Nat) (arrived : List Nat) : Mach :=
  arrived.foldl (fun m k => stallOn m (rowThread r k) (.untilCycle (c + 1) false)) m

/-- One arrival at a barrier with count n; false where its count differs from the round's. -/
def arrive (m : Mach) (t : Thread) (c bar n : Nat) : Mach × Bool :=
  let r := t.core.row
  let w := getRow m r
  let me := 8 * t.core.num.val + t.num.val
  let round := (sget none w.barriers bar).getD ⟨n, []⟩
  if round.count ≠ n then (m, false)
  else
    let all := round.arrived ++ [me]
    if all.length < n then
      let m := setRow m r { w with barriers := sset none w.barriers bar (some ⟨n, all⟩) }
      (stallOn (retire m t c) t (.barl bar), true)
    else
      let m := setRow m r { w with barriers := sset none w.barriers bar none }
      (releaseRound (retire m t c) r c round.arrived, true)

def execBarl (t : Thread) (f : Fields) (s : State) := nextM s fun m =>
  issue m t 7 0x01 f (immWithin f 0xFF07 && unguarded f && f.d == 0 && f.a == 0 && f.b == 0) [] fun m _ c =>
    let n := immU f / 256
    if n = 0 ∨ 128 < n then instFault m t 0x03 (instrWord 7 1 f)
    else
      let x := arrive m t c (immU f % 8) n
      if x.2 then x.1 else instFault m t 0x06 (instrWord 7 1 f)

/-! ## WAITT (R153) -/

/-- WAITT issued with its target at instant `at_`, seen at the start of cycle c: fault, late, or wait. -/
def waitFor (m : Mach) (t : Thread) (b : Beat) (c at_ word : Nat) (st : Stall) : Mach :=
  let d := t.core.row.dune
  if cycleStart m b (commitCycle m (getDune m d) b) ≤ at_ then instFault m t 0x07 word
  else if at_ < cycleStart m b c then countDune (retire m t c) d.erg.val d.num.val 0x6150 1 1
  else stallOn (retire m t c) t st

def execWaittC (t : Thread) (f : Fields) (s : State) := nextM s fun m =>
  issue m t 7 0x02 f (f.i && unguarded f && f.d == 0 && f.a == 0 && f.b == 0) [] fun m b c =>
    waitFor m t b c (cycleStart m b (stretchTarget m b (immU f))) (instrWord 7 2 f) (.untilCycle (immU f) true)

def execWaittH (t : Thread) (f : Fields) (s : State) := nextM s fun m =>
  issue m t 7 0x03 f (legalRR f && unguarded f && f.d == 0) [srcG f.a] fun m b c =>
    let ns := (readG (getThread m t) f.a).toNat
    waitFor m t b c (copyTu m (getDune m t.core.row.dune).copy ns) (instrWord 7 3 f) (.untilHtc ns)

/-! ## SEAL (R155) -/

/-- The thread's work in the beat ends. -/
def sealThread (m : Mach) (t : Thread) : Mach := setThread m t { getThread m t with stall := none, sealed := true }

def execSeal (t : Thread) (f : Fields) (s : State) := nextM s fun m =>
  issue m t 7 0x04 f (legalRR f && unguarded f && f.d == 0 && f.a == 0) [] fun m _ c =>
    let m := retire m t c
    let last := (getThread m t).putRead
    if last ≤ m.now then sealThread m t else stallOn m t (.sealRead last)

/-! ## Control flow (R156) -/

/-- Transfer control, or raise BRANCH: the target must lie in the thread's code range. -/
def branchTo (m : Mach) (t : Thread) (c : Nat) (target : Int) (word : Nat) : Mach :=
  let ts := getThread m t
  if (ts.lo : Int) ≤ target ∧ target < ts.hi then
    let m := retire m t c
    setThread m t { getThread m t with pc := target.toNat }
  else instFault m t 0x08 word

/-- Whether branchTo takes the branch. -/
def inRange (m : Mach) (t : Thread) (target : Int) : Bool :=
  decide (((getThread m t).lo : Int) ≤ target) && decide (target < (getThread m t).hi)

def execNop (t : Thread) (f : Fields) (s : State) := nextM s fun m =>
  issue m t 8 0x01 f (legalRR f && f.d == 0 && f.a == 0) [] fun m _ c => retire m t c

def execBr (t : Thread) (f : Fields) (s : State) := nextM s fun m =>
  issue m t 8 0x02 f (f.i && f.d == 0 && f.a == 0 && f.b == 0) [] fun m _ c =>
    branchTo m t c ((getThread m t).pc + f.low.toInt) (instrWord 8 2 f)

def execJr (t : Thread) (f : Fields) (s : State) := nextM s fun m =>
  issue m t 8 0x03 f (legalRR f && f.d == 0) [srcG f.a] fun m _ c =>
    branchTo m t c (readG (getThread m t) f.a).toNat (instrWord 8 3 f)

def execCall (t : Thread) (f : Fields) (s : State) := nextM s fun m =>
  issue m t 8 0x04 f (f.i && f.d == 0 && f.a == 0 && f.b == 0) [] fun m b c =>
    let pc := (getThread m t).pc
    let target := pc + f.low.toInt
    if inRange m t target then resultG (branchTo m t c target 0) t b c (latency m 1) 31 (w64 (pc + 1))
    else instFault m t 0x08 (instrWord 8 4 f)

/-- SKIP: the thread leaves its next n slots empty (R136). -/
def execSkip (t : Thread) (f : Fields) (s : State) := nextM s fun m =>
  issue m t 8 0x05 f (f.i && f.d == 0 && f.a == 0 && f.b == 0 && 1 ≤ immU f && immU f ≤ 4096) [] fun m _ c =>
    let m := retire m t c
    setThread m t { getThread m t with nextIssue := c + 8 * (immU f + 1) }

/-! ## GETS, ABRT (R128, R156) -/

/-- The value of a selector in cycle c (R128). -/
def getsValue (m : Mach) (t : Thread) (b : Beat) (c : Nat) (sel : Nat) : Nat :=
  let r := t.core.row
  match sel with
  | 0 => t.num.val
  | 1 => t.core.num.val
  | 2 => r.num.val
  | 3 => r.dune.num.val
  | 4 => r.dune.erg.val
  | 5 => (getDune m r.dune).hosted.getD 0 % 64
  | 6 => b.n
  | 7 => c
  | 8 => copyHtc m (getDune m r.dune).copy
  | 9 => match m.job with
    | some j => j.id.toNat
    | none => 0
  | 10 => sramOf r true 0
  | 11 => sramOf r false 0
  | 12 => if (getThread m t).privF then 1 else 0
  | 13 => if m.steppingB1 then 1 else 0
  | _ => if m.gradeE then 1 else 0

def execGets (t : Thread) (f : Fields) (s : State) := nextM s fun m =>
  issue m t 8 0x06 f (f.i && f.a == 0 && f.b == 0 && immU f ≤ 14) [] fun m b c =>
    resultG (retire m t c) t b c (latency m 14) f.d (w64 (getsValue m t b c (immU f)))

def execAbrt (t : Thread) (f : Fields) (s : State) := nextM s fun m =>
  issue m t 8 0x07 f (immWithin f 0xFFFF && f.d == 0 && f.a == 0 && f.b == 0) [] fun m _ _ =>
    instFault m t 0x0A (instrWord 8 7 f)

/-! ## SYS (R157, R158, R188, R491) -/

/-- An address that names a unit register: the form of R188, and a register that exists. -/
def unitAddress (a : W64) : Bool :=
  let n := a.toNat
  let dune := natBits n 55 50
  let row := natBits n 49 43
  addrSpace a == 15 && natBits n 59 58 == 0 && ((dune < 48 && (row < 96 || row == 127)) || (dune == 63 && row == 127))
    && natBits n 42 24 == 0 && n % 8 == 0 && Config.unitRegister n

/-- An instruction of class SYS: PRIVILEGE for a U thread, then ADDRESS where `ok` is false, else its effect. -/
def sysInstr (op : Nat) (legal : Bool) (srcs : List Nat) (ok : ThreadState → Bool)
    (body : Mach → Beat → Nat → Mach) (t : Thread) (f : Fields) (m : Mach) : Mach :=
  issue m t 9 op f legal srcs fun m b c =>
    let ts := getThread m t
    if !ts.privF then instFault m t 0x02 (instrWord 9 op f)
    else if !ok ts then instFault m t 0x04 (instrWord 9 op f)
    else body m b c

def execSld (t : Thread) (f : Fields) (s : State) := nextM s fun m =>
  sysInstr 0x01 (legalRR f) [srcG f.a] (fun ts => unitAddress (readG ts f.a)) (fun m b c =>
    let a := (readG (getThread m t) f.a).toNat
    let d := draw m
    resultG (retire d.2 t c) t b c (latency m 3) f.d (Config.unitRead a (sget 0 m.unitRegs a) d.1)) t f m

def execSst (t : Thread) (f : Fields) (s : State) := nextM s fun m =>
  sysInstr 0x02 (!f.i && f.low == 0 && f.d == 0) [srcG f.a, srcG f.b] (fun ts => unitAddress (readG ts f.a)) (fun m _ c =>
    let ts := getThread m t
    let m := retire m t c
    { m with unitRegs := sset 0 m.unitRegs (readG ts f.a).toNat (readG ts f.b) }) t f m

/-- An event on its way to the module steward on TC3, by the edge port that leads to it (R157, R197, R202). -/
def sendEvent (m : Mach) (t : Thread) (code : Nat) (d : DuneId) (beat value : Nat) : Mach :=
  let n := draw m
  sendPacket n.2 t.core.row (rowOf (Config.portRow 48))
    { id := n.1, cargo := .event code d.erg.val d.num.val beat value, src := some t.core.row, sender := some t, target := 0, bytes := []
      cls := 3, tag := 0, vdune := 0, viaLink := false, privF := true, source := 0, readUntil := 0, word := 0, exit := edgePort }

def execEvt (t : Thread) (f : Fields) (s : State) := nextM s fun m =>
  sysInstr 0x03 (!f.i && f.low == 0 && f.d == 0) [srcG f.a, srcG f.b] (fun _ => true) (fun m b c =>
    let ts := getThread m t
    let d := t.core.row.dune
    sendEvent (retire m t c) t ((readG ts f.a).toNat % 2 ^ 15) d b.n (readG ts f.b).toNat) t f m

/-! ## STALL_RESUME (R130) -/

/-- The thread's wait is over; it issues again at its first slot at or after cycle c. -/
def resumeAt (m : Mach) (t : Thread) (c : Nat) : Mach :=
  let ts := getThread m t
  setThread m t { ts with stall := none, nextIssue := max ts.nextIssue c }

/-- The waiting plate instruction that the row driver takes next: the lowest core, then the lowest thread (R61, R145). -/
def nextWaiter (m : Mach) (r : RowId) : Option Thread :=
  (List.range 128).findSome? fun k => match (getThread m (rowThread r k)).stall with
    | some (.plate ..) => some (rowThread r k)
    | _ => none

/-- A stalled thread whose condition has cleared goes on. Of several that wait for one queue, the first to be resumed takes the freed
entry, and an instruction that issues meanwhile may take it before them (DESIGN CHOICE, assumption 139: R150 gives no order); the
rules are R61, R130, R146, R150 and R153 to R155. -/
def resumeThread (m : Mach) (t : Thread) (b : Beat) (limit : Nat) : Mach :=
  let r := t.core.row
  match (getThread m t).stall with
  | none => m
  | some (.untilCycle target stretches) =>
    let c := if stretches then stretchTarget m b target else target
    if limit ≤ c then m else resumeAt (advance m (cycleStart m b c)) t c
  | some (.untilHtc ns) =>
    let c := cycleAtOrAfter m b (copyTu m (getDune m r.dune).copy ns)
    if limit ≤ c then m else resumeAt (advance m (cycleStart m b c)) t c
  | some (.sealRead until_) =>
    if limit ≤ cycleAtOrAfter m b until_ then m else sealThread (advance m until_) t
  | some (.plate kind input output mask) =>
    let w := getRow m r
    let a := max w.driverFree (cycleAtOrAfter m b m.now)
    if w.firing.isSome ∨ nextWaiter m r ≠ some t ∨ limit ≤ a then m
    else resumeAt (acceptFiring (advance m (cycleStart m b a)) r b a t kind input output mask) t (a + 1)
  | some (.queueFull _ q remote localAddr n gd) =>
    match freeEntry (getQueues m t.core) q with
    | none => m
    | some e =>
      let c := slotAtOrAfter t.num.val (max (getThread m t).nextIssue (cycleAtOrAfter m b m.now))
      if limit ≤ c then m
      else takeEntry (resumeAt (advance m (cycleStart m b c)) t (c + 8)) t b c q e remote localAddr n gd
  | some (.qwait q seq _ _) =>
    if transferDone (getQueues m t.core) q seq then wakeWaiters m t.core q seq else m
  | some (.barl _) => m

def execStallResume (t : Thread) (s : State) := nextM s fun m =>
  let d := getDune m t.core.row.dune
  match d.beat with
  | none => m
  | some b => if d.frozen ∨ (getRow m t.core.row).stopped then m else resumeThread m t b (commitCycle m d b)

end Sys2Proof.Machine
end

