-- ==== Sys2Proof/Machine/Loader.lean ====
section
/-! DEFINITION. The loader: the checks of an image in the order of the code groups (R251–R270, R362, R367), the mapping of
the virtual grid (R258–R262, R272), relocations (R263, R265), and the state a job starts from (R125, R176, R186, R260,
R330). Checks within a group go in ascending code (assumption 25). -/

namespace Sys2Proof.Machine

/-- A refusal: code and LastLoadDetail (R270). -/
abbrev Refused := Option (Nat × Nat)

/-- Refuse with a code and detail when a test holds. -/
def refuseIf (b : Bool) (code detail : Nat) : Refused := if b then some (code, detail) else none

/-! ## Group 0x01: container, signatures, roll-back (R251–R257) -/

def knownType (t : Nat) : Bool := (1 ≤ t && t ≤ 0xD) || t == sigType

/-- The types that the proof variant may carry of its own (R253). -/
def proofType (t : Nat) : Bool := t == 1 || t == 2 || t == 3 || t == 6 || t == 0xB

/-- The types that must appear once for each variant (R253). -/
def requiredTypes : List Nat := [1, 2, 3, 4, 5, 6, 7, 8, 9, 0xB, 0xC]

/-- A section table entry breaks R252 or R253 by itself: `n` entries, `len` bytes of image. -/
def badEntry (n len : Nat) (e : SectionEntry) : Bool :=
  e.offset % 64 != 0 || e.offset < 256 + 32 * n || len < e.offset + e.length || !e.reservedZero || 1 < e.flags
  || !knownType e.type || 2 < e.variant || (e.variant == 1 && !proofType e.type)

/-- The first section that BAD_TABLE names. -/
def badTable (img : Image) (len : Nat) : Option Nat :=
  let ss := img.sections
  let n := img.sectionCount
  if len < 256 + 32 * n then some 0
  else
    let overlap := fun (i : Nat) (e : SectionEntry) =>
      (ss.take i).any fun f => overlaps e.offset e.length f.offset f.length
    let misplaced := fun (i : Nat) (e : SectionEntry) =>
      e.type == sigType && (ss.filter fun f => f.type == sigType).length == 1 && (i + 1 != n || ss.any fun f => e.offset < f.offset)
    (ss.zipIdx.find? fun x => badEntry n len x.1 || overlap x.2 x.1 || misplaced x.2 x.1).map (·.2)

/-- The first required type that is absent or duplicated for some variant (R253). -/
def missingSection (img : Image) : Option Nat :=
  let times := fun (t v : Nat) => (img.sections.filter fun e => e.type == t && (e.variant == v || e.variant == 2)).length
  if (img.sections.filter fun e => e.type == sigType).length ≠ 1 then some sigType
  else requiredTypes.find? fun t => times t 0 != 1 || (img.proofFactor != 0 && times t 1 != 1)

/-- A Tamfaus key is trusted (R501). -/
def trustedKey (m : Mach) (k : BitVec 384) : Bool :=
  (List.finRange 4).any fun e => Config.rootKeyHash e == k && odGet m 0x7000 6 / 2 ^ e.val % 2 == 0

/-- A key whose entry has the image signing flag (R509, R513). -/
def imageKey (m : Mach) (k : BitVec 384) : Bool := m.sec.keys.any fun e => e.keyId == k && e.flags.getLsbD 1

/-- A signature block is valid (R254, R255, R501, R513). -/
def blockOk (m : Mach) (img : Image) (b : SigBlock) : Bool :=
  b.reservedZero && ((b.kind == 1 && trustedKey m b.keyId && Config.ecdsaVerify b.keyId img.firmwareDigest b.r b.s)
  || (b.kind == 2 && imageKey m b.keyId && Config.ecdsaVerify b.keyId img.digest b.r b.s))

/-- The block that SIGNATURE names (R254). -/
def badSignature (m : Mach) (img : Image) : Option Nat :=
  if img.signatures.isEmpty then some 0
  else match firstIdx (fun b => !blockOk m img b) img.signatures with
    | some k => some (min k 1)
    | none =>
      if 2 < img.signatures.length ∨ img.sigBytes.length % 160 ≠ 0 then some 1
      else if img.sections.any (fun e => e.flags % 2 == 1) ∧ !img.signatures.any (fun b => b.kind == 1) then some 0 else none

/-- The header field out of its range, by byte offset (R251). -/
def badHeader (img : Image) : Option Nat :=
  let n := img.sectionCount
  if n < 1 ∨ 4096 < n then some 12
  else if img.basePeriod < 200 ∨ 100000 < img.basePeriod then some 32
  else if img.widePolicy < 1 ∨ 2 < img.widePolicy then some 40
  else if img.proofFactor = 1 ∨ 16 < img.proofFactor then some 41
  else if 3 < img.grades then some 42
  else if 3 < img.steppings then some 43
  else if 1 < img.latencyMode then some 44
  else if img.modules < 1 ∨ 32 < img.modules then some 45
  else if img.lanes < 1 ∨ 256 < img.lanes then some 46
  else if !img.reservedZero then some 64
  else none

def group1 (m : Mach) (img : Image) (len : Nat) (proof : Bool) : Refused :=
  refuseIf (len < 256 || !img.magicOk) 0x0101 0
  <|> refuseIf (img.imageLength != len) 0x0109 16
  <|> (badTable img len).map (0x0102, ·)
  <|> (firstIdx (fun e => e.crc.toNat != crc32c (img.body e)) img.sections).map (0x0103, ·)
  <|> (missingSection img).map (0x0104, ·)
  <|> (badSignature m img).map (0x0105, ·)
  <|> refuseIf (odGet m 0x3010 2 == 1 && !img.signatures.any fun b => b.kind == 2) 0x0106 0
  <|> refuseIf (img.securityVersion < odGet m 0x7010 3) 0x0107 0
  <|> refuseIf (proof && img.proofFactor == 0) 0x0108 0
  <|> (badHeader img).map (0x0109, ·)

/-! ## Group 0x02: mapping (R258–R262), allotment (R177, R332), modules (R362, R367) -/

/-- A physical dune is usable for a job that has lost `lost` (R258). -/
def duneUsable (m : Mach) (lost : List Nat) (k : Nat) : Bool :=
  !m.badDunes.contains k && !lost.contains k && (sget {} m.dunes k).power == .usable

/-- Dunes of UnusableDunes (R274). -/
def unusableDunes (m : Mach) (lost : List Nat) : List Nat := (List.range 192).filter fun k => !duneUsable m lost k

/-- A physical dune fits a virtual dune (R259). -/
def fits (m : Mach) (lost : List Nat) (k : Nat) (v : VDune) : Bool :=
  duneUsable m lost k && v.rows.all fun r =>
    bitLen r.plateMask.toNat ≤ (usableSites m ⟨duneOf k, r.row⟩).length
    && bitLen r.coreMask.toNat ≤ usableCores m ⟨duneOf k, r.row⟩

/-- The 8 symmetries of the erg square, the identity first; bit i of the image's mask allows map i (assumption 26). -/
def ergMapTable : List (List Nat) :=
  [[0, 1, 2, 3], [0, 2, 1, 3], [1, 0, 3, 2], [1, 3, 0, 2], [2, 0, 3, 1], [2, 3, 0, 1], [3, 1, 2, 0], [3, 2, 1, 0]]

def ergMapped (g e : Nat) : Nat := (ergMapTable.getD g []).getD e 0

/-- The numbers of the erg maps that an image allows; the identity is always set (R261). -/
def allowedMaps (img : Image) : List Nat := (List.range 8).filter fun g => g == 0 || img.ergMaps.getLsbD g

/-- The dune that a virtual dune takes under an erg map: the same number, else the first fitting, untaken alternate. -/
def pickDune (m : Mach) (lost : List Nat) (g : Nat) (taken : List Nat) (v : VDune) : Option Nat :=
  let at_ := fun (n : Nat) => 48 * ergMapped g v.erg.val + n
  ((v.num :: v.alternates).map fun n => at_ n.val).find? fun k => fits m lost k v && !taken.contains k

/-- R261 for one erg map: virtual dunes in ascending order. -/
def mapErg (m : Mach) (lost : List Nat) (g : Nat) : List VDune → List (Nat × Nat) → Option (List (Nat × Nat))
  | [], acc => some acc
  | v :: rest, acc =>
    match pickDune m lost g (acc.map (·.2)) v with
    | none => none
    | some k => mapErg m lost g rest (acc ++ [(vduneNum v, k)])

/-- The virtual dunes of an image in ascending order. -/
def vdunesUp (img : Image) : List VDune := sortBy (fun a b => vduneNum a ≤ vduneNum b) img.vdunes

/-- The physical row of a virtual row. -/
def physRow (mp : List (Nat × Nat)) (vd : Nat) (r : Fin 96) : Option RowId := (physOf mp vd).map fun k => ⟨duneOf k, r⟩

/-- The first virtual dune of a mapping from which no route of the image's plan is clear of unusable dunes (R262). -/
def blockedDune (m : Mach) (img : Image) (lost : List Nat) (mp : List (Nat × Nat)) : Option Nat :=
  let bad := fun k => !duneUsable m lost k
  (mp.find? fun a => mp.any fun b => (List.range 4).any fun c =>
    (planPath (imageRule img c) bad ⟨duneOf a.2, 0⟩ ⟨duneOf b.2, 0⟩).isNone).map (·.1)

/-- The hops of a TC0 entry under a mapping; `y` is the plan's rule for TC0. -/
def entryHops (m : Mach) (y : Bool) (lost : List Nat) (mp : List (Nat × Nat)) (e : Tc0Entry) : Option (List (HopKind × Nat)) :=
  match physRow mp e.srcDune e.srcRow, physRow mp e.dstDune e.dstRow with
  | some a, some b => (planPath y (fun k => !duneUsable m lost k) a b).map fun p => hopsFrom (routerOf a) p
  | _, _ => none

/-- A TC0 entry meets its arrival budget (R262). -/
def budgetOk (m : Mach) (y : Bool) (lost : List Nat) (mp : List (Nat × Nat)) (e : Tc0Entry) : Bool :=
  match entryHops m y lost mp e with
  | none => false
  | some hs =>
    longCycles m e.issueCycle + boundLong m hs e.bytes + 20000 * boundaries hs ≤ 10000 * e.budgetNs

/-- The links of an entry with the flits that each carries in a cycle, its arrival port among them. -/
def entryLinks (m : Mach) (y : Bool) (lost : List Nat) (mp : List (Nat × Nat)) (e : Tc0Entry) : List (Nat × Nat) :=
  match entryHops m y lost mp e, physRow mp e.dstDune e.dstRow with
  | some hs, some d => hs.map (fun h => (h.2, linkWidth h.1)) ++ [(linkNum (rowKey d) localPort, 1)]
  | _, _ => []

/-- Bound minus minimum time of an entry, in 1/10000 ns (R205, R208). -/
def spread (m : Mach) (y : Bool) (lost : List Nat) (mp : List (Nat × Nat)) (e : Tc0Entry) : Nat :=
  match entryHops m y lost mp e with
  | none => 0
  | some hs => boundLong m hs e.bytes - minCycles hs e.bytes * cycleTu m * 10000 / 217

/-- The island boundaries on either path of two entries, one that both cross once (R206). -/
def boundariesOf (m : Mach) (y : Bool) (lost : List Nat) (mp : List (Nat × Nat)) (a b : Tc0Entry) : Nat :=
  let hs := fun e => (entryHops m y lost mp e).getD []
  boundaries (hs a ++ hs b).eraseDups

/-- The declared separation of two entries covers what R206 asks, in ns. -/
def separated (m : Mach) (y : Bool) (lost : List Nat) (mp : List (Nat × Nat)) (va : Variant) (i j : Nat) (a b : Tc0Entry) : Bool :=
  let shared := (entryLinks m y lost mp a).any fun l => (entryLinks m y lost mp b).contains l
  !shared || (va.separations.any fun s => ((s.1 == i && s.2.1 == j) || (s.1 == j && s.2.1 == i))
    && max (spread m y lost mp a) (spread m y lost mp b) + 20000 * boundariesOf m y lost mp a b ≤ 10000 * s.2.2)

/-- The first TC0 entry that fails its budget or a separation (R262, 0x0307). -/
def badBudget (m : Mach) (y : Bool) (lost : List Nat) (mp : List (Nat × Nat)) (va : Variant) : Option Nat :=
  (va.tc0.zipIdx.find? fun x => !budgetOk m y lost mp x.1
    || (va.tc0.zipIdx.take x.2).any fun z => !separated m y lost mp va z.2 x.2 z.1 x.1).map (·.2)

/-- The first TC0 entry on a link that TC0 occupies for more than 87.5 % of the cycles of a beat of 3 · P_b, a 1,024-bit port carrying
two flits in each (R196, R204, R262, 0x0308). -/
def badOccupancy (m : Mach) (y : Bool) (lost : List Nat) (mp : List (Nat × Nat)) (va : Variant) (base : Nat) : Option Nat :=
  let load := fun (l : Nat × Nat) => (va.tc0.filter fun e => (entryLinks m y lost mp e).contains l).foldl
    (fun s e => s + ceilDiv e.bytes 64) 0
  (va.tc0.zipIdx.find? fun x => (entryLinks m y lost mp x.1).any fun l => 7 * l.2 * cyclesFloor m (3 * base) < 8 * load l).map (·.2)

/-- P_b of an image in a variant (R266). -/
def variantBase (img : Image) (proof : Bool) : Nat := img.basePeriod * (if proof then img.proofFactor else 1)

/-- The sections of a variant. -/
def variantOf (img : Image) (proof : Bool) : Variant := if proof then img.proof else img.ordinary

/-- What a candidate mapping fails on: routes or budgets (R261, R262). -/
def candidateFault (m : Mach) (img : Image) (proof : Bool) (lost : List Nat) (mp : List (Nat × Nat)) : Refused :=
  let va := variantOf img proof
  let y := imageRule img 0
  (blockedDune m img lost mp).map (0x0202, ·)
  <|> (badBudget m y lost mp va).map (0x0307, ·)
  <|> (badOccupancy m y lost mp va (variantBase img proof)).map (0x0308, ·)

/-- The virtual dune that GRID_NO_FIT names: the first that finds no dune under the identity. -/
def unfitDune (m : Mach) (img : Image) (lost : List Nat) : Nat :=
  let vs := vdunesUp img
  match (List.range vs.length).find? fun i => (mapErg m lost 0 (vs.take (i + 1)) []).isNone with
  | some i => (vs[i]?.map vduneNum).getD 0
  | none => 0

/-- The mappings that the allowed erg maps give, each with its map (R261). -/
def gridCandidates (m : Mach) (img : Image) (lost : List Nat) : List (List (Nat × Nat) × Nat) :=
  (allowedMaps img).filterMap fun g => (mapErg m lost g (vdunesUp img) []).map fun mp => (mp, g)

/-- R261: the first candidate that passes, with its erg map; else the refusal. -/
def findMapping (m : Mach) (img : Image) (proof : Bool) (lost : List Nat) : (List (Nat × Nat) × Nat) ⊕ (Nat × Nat) :=
  let cands := gridCandidates m img lost
  match cands.find? fun c => (candidateFault m img proof lost c.1).isNone with
  | some c => .inl c
  | none =>
    match cands with
    | [] => .inr (0x0201, unfitDune m img lost)
    | c :: _ =>
      match (cands.filterMap fun c => candidateFault m img proof lost c.1).find? fun f => f.1 != 0x0202 with
      | some f => .inr f
      | none => .inr ((candidateFault m img proof lost c.1).getD (0x0202, 0))

/-! ### Multi-module jobs (R360–R367) -/

/-- Lanes in rotation. -/
def liveLanes (m : Mach) (bundle : Nat) : Nat := (List.range 24).foldl (fun n k => n + if (getBundle m bundle).live.getLsbD k then 1 else 0) 0

/-- Slot entries pass R367: deadlines, no two sends of a bundle at once, at most 87.5 % of the frame time. -/
def slotsOk (m : Mach) (img : Image) (mp : List (Nat × Nat)) (base : Nat) : Bool :=
  let sends := fun (b : Nat) => img.slots.filter fun s => s.send && s.bundle.val == b
  let span := fun (s : Slot) => (10000 * s.start, 10000 * s.start + slotFrames m s)
  img.slotTable.length % 48 == 0
  && (img.slots.all fun s => s.sound && slotEnd m mp s + 20000000 ≤ 10000 * s.deadline && 12 ≤ s.lanes && s.lanes ≤ 24
      && s.length % 64 == 0 && 64 ≤ s.length && s.length ≤ 1048576)
  && (List.range 8).all fun b =>
    let l := sends b
    (l.zipIdx.all fun x => (l.take x.2).all fun y => (span x.1).2 ≤ (span y).1 || (span y).2 ≤ (span x.1).1)
    && 8 * (l.foldl (fun t s => t + slotFrames m s) 0) ≤ 7 * (10000 * base)

/-- Bundles that a route plan uses are up, agree with the path table and have their lanes (R362). -/
def bundlesOk (m : Mach) (img : Image) : Bool :=
  img.slots.all fun s =>
    let st := (getBundle m s.bundle.val).state
    (st == .up || st == .degraded) && pathKind m s.bundle.val != 0
    && (img.moduleList[s.peer]?.map BitVec.toNat) == some (pathPeer m s.bundle.val) && s.lanes ≤ liveLanes m s.bundle.val

/-- The checks of R362. -/
def modulesOk (m : Mach) (img : Image) (mp : List (Nat × Nat)) (base : Nat) : Bool :=
  let me := odGet m 0x5200 2
  img.modules == 1
  || (me != 0xFFFF && img.moduleList.length == img.modules && img.moduleList.any (fun x => x.toNat == me)
      && bundlesOk m img && slotsOk m img mp base
      && (match img.moduleList.head? with
        | some b => b.toNat == me || odGet m 0x5300 5 == (Config.masterRoot b).toNat
        | none => false))

def group2 (m : Mach) (img : Image) (proof : Bool) : Refused :=
  let multiMaps := img.modules != 1 && allowedMaps img != [0]
  let rest := fun (mp : List (Nat × Nat)) =>
    refuseIf multiMaps 0x0203 0 <|> refuseIf (allotmentSize m img < img.hbmAllotmentMin) 0x0204 0
    <|> refuseIf (!modulesOk m img mp (variantBase img proof)) 0x0205 0
  match findMapping m img proof [] with
  | .inr f => if f.1 < 0x0300 then some f else rest (((gridCandidates m img []).head?.map (·.1)).getD [])
  | .inl c => rest c.1

/-! ## Group 0x03: timing (R264–R267) -/

/-- The first virtual dune of an image. -/
def firstVdune (img : Image) : Nat := ((vdunesUp img).head?.map vduneNum).getD 0

/-- m_k of a variant: ceil(O_k · f), the last C_b (R231, R264). -/
def marksOf (m : Mach) (va : Variant) (base : Nat) : List Nat :=
  ((va.marksNs.dropLast).map fun o => cyclesCeil m o) ++ [cyclesFloor m (base - 20)]

/-- Declared latest cycles of a row on the running stepping (R264). -/
def latestOf (m : Mach) (r : SegRow) : List Nat := if m.steppingB1 then r.latestB1 else r.latestB0

/-- The virtual dune of a row some segment of which is too late (R264). -/
def lateRow (m : Mach) (va : Variant) (base : Nat) : Option Nat :=
  let ms := marksOf m va base
  (va.segRows.find? fun r => (latestOf m r).zipIdx.any fun x => (ms.getD x.2 (cyclesFloor m (base - 20))) < x.1).map (·.vdune)

/-- The virtual dune that MARKS names (R264): marks out of order, the last not at P_b − 20 ns, or a margin that does not fit. -/
def badMarks (m : Mach) (img : Image) (va : Variant) (base : Nat) : Option Nat :=
  let ms := marksOf m va base
  let gaps := (ms.zip (ms.drop 1)).all fun x => decide (x.1 < x.2)
  if va.marksNs.isEmpty ∨ 16 < va.marksNs.length ∨ va.marksNs.getLastD 0 ≠ base - 20 ∨ !gaps then some (firstVdune img)
  else (va.segRows.find? fun r => r.margins.zipIdx.any fun x =>
    ms.getD x.2 0 - (if x.2 = 0 then 0 else ms.getD (x.2 - 1) 0) < x.1).map (·.vdune)

/-- A virtual row has a gap of 264 cycles and no gap beyond C_b (R266). -/
def gapOk (m : Mach) (va : Variant) (base vd : Nat) (r : Fin 96) : Bool :=
  match va.gaps.find? fun g => g.vdune == vd && g.row == r with
  | some g => g.gaps.any (fun x => x.1 + 264 ≤ x.2) && g.gaps.all fun x => x.2 ≤ cyclesFloor m (base - 20)
  | none => false

/-- The virtual dune of a row without a proper gap. -/
def badGap (m : Mach) (img : Image) (va : Variant) (base : Nat) : Option Nat :=
  ((vdunesUp img).find? fun v => v.rows.any fun r => !gapOk m va base (vduneNum v) r.row).map vduneNum

/-- The entry of the latency table at a sub-index (R132). -/
def latencyEntry (m : Mach) (sub : Nat) : Nat := latency m sub

/-- A manifest entry differs from the stepping (R265). -/
def badManifest (m : Mach) (img : Image) : Option Nat :=
  if img.latencyMode = 0 then none
  else (img.manifest.find? fun e => e.1 < 1 || 14 < e.1 || latencyEntry m e.1 != e.2).map (·.1)

/-- A symbolic image without cycles for this stepping (R265). -/
def badStepping (m : Mach) (img : Image) (va : Variant) : Bool :=
  img.latencyMode == 0
  && (img.steppings / (if m.steppingB1 then 2 else 1) % 2 == 0 || va.segRows.any fun r => (latestOf m r).isEmpty)

/-- The program that a relocation names. -/
def relocProg (va : Variant) (r : Reloc) : Option CoreProg :=
  va.programs.find? fun p => p.vdune == r.vdune && p.row == r.row && p.core == r.core

/-- SKIP or WAITT.C, the two instructions with a symbolic immediate (R136). -/
def symbolicWord (w : W64) : Bool := wordOp w == (8, 5) || wordOp w == (7, 2)

/-- base + Σ c · L of a symbolic immediate (R265). -/
def symbolValue (m : Mach) (r : Reloc) : Nat := r.base + (r.terms.map fun t => t.1 * latencyEntry m t.2).foldl (· + ·) 0

/-- A resolved immediate outside its field's range (R265). -/
def symbolOut (m : Mach) (va : Variant) (r : Reloc) : Bool :=
  r.symbolic && match relocProg va r with
    | some p => match p.words[r.word]? with
      | some w => if wordOp w == (8, 5) then symbolValue m r == 0 || 4096 < symbolValue m r else 2 ^ 32 ≤ symbolValue m r
      | none => false
    | none => false

/-- Group 0x03 up to the checks that follow the mapping. -/
def group3Before (m : Mach) (img : Image) (proof : Bool) : Refused :=
  let va := variantOf img proof
  let base := variantBase img proof
  let code := fun (c : Nat) => if proof then 0x030A else c
  (lateRow m va base).map (code 0x0301, ·)
  <|> (badManifest m img).map (0x0302, ·)
  <|> refuseIf (badStepping m img va) 0x0303 (if m.steppingB1 then 1 else 0)
  <|> (firstIdx (symbolOut m va) va.relocs).map (0x0304, ·)
  <|> (badMarks m img va base).map (code 0x0305, ·)
  <|> (badGap m img va base).map (code 0x0306, ·)

/-- The wide policy that an image would run under (R234). -/
def policyOf (m : Mach) (img : Image) : Nat := if odGet m 0x3020 4 = 0 then img.widePolicy else odGet m 0x3020 4

/-- The words of a thread cut into segments at its WAITT.C words, in the order of the code (R231). -/
def segmentWords (p : CoreProg) (t : ThreadProg) : List (List W64) :=
  ((p.words.drop t.lo).take (t.hi - t.lo)).foldr (fun w (l : List (List W64)) =>
    if wordOp w = (7, 2) then [] :: l else match l with
      | [] => [[w]]
      | seg :: rest => (w :: seg) :: rest) []

/-- A TC0 PUT, and an instruction that may not stand beside one: PLATE or BARL (R136, R148, R233). -/
def tc0PutWord (w : W64) : Bool := wordOp w == (4, 3) && natBits w.toNat 7 6 == 0
def heldBack (w : W64) : Bool := (wordOp w).1 == 6 || wordOp w == (7, 1)

/-- A thread breaks obligation 2 of R233 in the order of its code. -/
def breaksSecond (p : CoreProg) : Bool := p.threads.any fun t => (segmentWords p t).any fun seg => seg.any tc0PutWord && seg.any heldBack

/-- The segment in which a TC0 entry issues. -/
def entrySegment (m : Mach) (va : Variant) (base : Nat) (e : Tc0Entry) : Nat :=
  (firstIdx (fun k => decide (e.issueCycle ≤ k)) (marksOf m va base)).getD va.marksNs.length

/-- Two TC0 entries of one segment write a byte in common (obligation 3 of R233). -/
def writesTwice (m : Mach) (va : Variant) (base : Nat) (a b : Tc0Entry) : Bool :=
  a.dstDune == b.dstDune && a.dstRow == b.dstRow && a.dstBuffer == b.dstBuffer && overlaps a.dstOffset a.bytes b.dstOffset b.bytes
  && entrySegment m va base a == entrySegment m va base b

/-- The virtual dune at which obligation 2 or 3 of R233 is broken by the code (0x030B). -/
def brokenObligation (m : Mach) (va : Variant) (base : Nat) : Option Nat :=
  (va.segRows.find? fun r => !r.obligationsKept).map (·.vdune)
  <|> (va.programs.find? breaksSecond).map (·.vdune)
  <|> (va.tc0.zipIdx.find? fun x => (va.tc0.take x.2).any fun e => writesTwice m va base e x.1).map fun x => x.1.dstDune

/-- Group 0x03 after the checks of the mapping. -/
def group3After (m : Mach) (img : Image) (proof : Bool) : Refused :=
  refuseIf (img.modules != 1 && policyOf m img != 2) 0x0309 0
  <|> (brokenObligation m (variantOf img proof) (variantBase img proof)).map (0x030B, ·)

def group3 (m : Mach) (img : Image) (proof : Bool) : Refused :=
  group3Before m img proof
  <|> (match findMapping m img proof [] with
    | .inr f => some f
    | .inl _ => none)
  <|> group3After m img proof

/-! ## Group 0x05: memory, code, relocations, privilege (R124, R126, R163, R263) -/

/-- The address constant that a MOVH word carries is one of fabric SRAM: its upper half has space 0x1 (R165, R166;
assumption 27). -/
def addressWord (w : W64) : Bool := wordOp w == (0, 0x14) && natBits w.toNat 31 28 == 1

/-- The words of a core that lie in some thread's code range (R124, R263). -/
def inCode (p : CoreProg) (word : Nat) : Bool := p.threads.any fun t => t.lo ≤ word && word < t.hi

/-- A relocation entry is invalid (R263). -/
def badReloc (va : Variant) (r : Reloc) : Bool :=
  match relocProg va r with
  | none => true
  | some p =>
    match p.words[r.word]? with
    | none => true
    | some w => !inCode p r.word || (if r.symbolic then !symbolicWord w else !addressWord w)

/-- A core's program breaks R124. -/
def badCode (p : CoreProg) : Bool :=
  8192 < p.words.length || p.threads.any fun t => !(t.lo ≤ t.entry && t.entry < t.hi && t.hi ≤ p.words.length)

/-- The virtual dune at which RESERVED_REGION refuses (R163): a region not declared as it lies, or something of the image's own in one:
a region of its memory declaration, or the source or target of a TC0 transfer. -/
def badReserved (img : Image) (va : Variant) : Option Nat :=
  let hit := fun (row : Fin 96) (buffer : Bool) (first n : Nat) => touchesReserved ⟨duneOf 0, row⟩ buffer first n
  if img.mem.upkeepArea ≠ some (0x3C000, 0x3FFFF) ∨ img.mem.scratchArea ≠ some (0x3C0000, 0x3FFFFF) then some (firstVdune img)
  else (img.mem.regions.find? fun r => hit r.row r.buffer r.first r.bytes).map (·.vdune)
    <|> (va.tc0.find? fun e => hit e.srcRow e.srcBuffer e.srcOffset e.bytes).map (·.srcDune)
    <|> (va.tc0.find? fun e => hit e.dstRow e.dstBuffer e.dstOffset e.bytes).map (·.dstDune)

def group5 (img : Image) (proof : Bool) : Refused :=
  let va := variantOf img proof
  (badReserved img va).map (0x0501, ·)
  <|> (va.programs.find? badCode).map (fun p => (0x0502, p.vdune))
  <|> (firstIdx (badReloc va) va.relocs).map (0x0503, ·)
  <|> (va.programs.find? fun p => !img.isFirmware p.sect && p.threads.any (·.privF)).map fun p => (0x0504, p.sect)

/-! ## Groups 0x04 and 0x06: weights and energy (R268, R269, R552) -/

/-- The place of an entry in the order of R552. -/
def entryOrder (e : WeightEntry) : Nat := 256 * e.vplate + e.group

/-- Weight entries one by one (R552); `prev` is the order of the entry before. -/
def badEntries (img : Image) (plates : List Nat) : Option Nat → List WeightEntry → Refused
  | _, [] => none
  | prev, e :: rest =>
    let vd := vplateDune e.vplate
    if !plates.contains e.vplate then some (0x0408, 0xFFFFFFFF)
    else if 4 < e.form || !(groupsOf img.mem e.vplate).contains e.group || (prev.any fun p => entryOrder e ≤ p) then
      some (0x0408, vd)
    else match entryFault e with
      | some c => some (c, vd)
      | none => badEntries img plates (some (entryOrder e)) rest

/-- The plate that lacks an entry. -/
def missingEntry (img : Image) (plates : List Nat) : Option Nat :=
  plates.find? fun v => (groupsOf img.mem v).any fun g => !img.weights.any fun e => e.vplate == v && e.group == g

/-- The virtual plates of a main stage in ascending order (R253). -/
def stagePlates (img : Image) (s : Nat) : List Nat :=
  let places := (img.stageMap.main[s]?.map (·.places)).getD []
  (imagePlates img).filter fun v => places.any fun p => p.1 == vplateDune v && p.2.val == v / 64 % 96

/-- The groups and weights of a plate's entries. -/
def platesWeights (img : Image) (v : Nat) : List (Nat × BankData) :=
  (img.weights.filter fun e => e.vplate == v).map fun e => (e.group, { entryBank e 1 with vplate := 0, generation := 0 })

/-- Twin stages with different records (R268): their plates are paired in ascending order, and neither has one more (assumption 138). -/
def badTwin (img : Image) : Option Nat :=
  img.twins.findSome? fun t =>
    let a := stagePlates img t.1
    let b := stagePlates img t.2
    if a.length ≠ b.length then (a.drop b.length ++ b.drop a.length).head?.map vplateDune
    else ((a.zip b).find? fun p => platesWeights img p.1 != platesWeights img p.2).map fun p => vplateDune p.1

def group4 (img : Image) : Refused :=
  let plates := imagePlates img
  badEntries img plates none img.weights
  <|> (missingEntry img plates).map (fun v => (0x0408, vplateDune v))
  <|> (badTwin img).map (0x0405, ·)

def group6 (img : Image) : Refused :=
  let n := img.stages + img.stageMap.drafts.length
  (firstIdx (fun e => e.1 == 0 || e.2.1 == 0 || e.2.2.1 == 0 || e.2.2.2 == 0) (img.energy.take n)).map (0x0601, ·)
  <|> refuseIf (img.energy.length < n) 0x0601 img.energy.length

/-- The checks that come before any plate is written, in the order of the groups (R256, R270). -/
def earlyChecks (m : Mach) (img : Image) (len : Nat) (proof : Bool) : Refused :=
  group1 m img len proof <|> group2 m img proof <|> group3 m img proof <|> group5 img proof

/-- The checks of a load before its plates are written. A stager source without bifurcation is refused before any byte is read
(R329). -/
def loadChecks (m : Mach) (img : Image) (len : Nat) (proof : Bool) : Refused :=
  refuseIf (odGet m 0x3140 4 == 1 && odGet m 0x5400 1 == 0) 0x0207 0 <|> earlyChecks m img len proof

/-- The checks that run while plates are written, and the last group (R256). -/
def lateChecks (img : Image) : Refused := group4 img <|> group6 img

/-- The reads of an image that a command names: its address in bytes 8–15 and its length in bytes 16–23; on the stager, StagerBase is
added (R388, R397). -/
def readImage (m : Mach) (data : List Byte) (stager : Bool) : Mach :=
  emit m (.imageRead stager (if stager then (odGet m 0x3140 5 + field data 8 8) % 2 ^ 64 else field data 8 8) (field data 16 8))

/-- Where an image that a command names on the stager reaches beyond the stager's BAR: the offset in the image of the first byte
beyond it (R388). `data` is the command: address in bytes 8–15, length in bytes 16–23. A header that is none is all that is read
(R251); no byte is read beyond the command's length. -/
def beyondBar (m : Mach) (data : List Byte) (img : Image) : Option Nat :=
  let start := (odGet m 0x3140 5 + field data 8 8) % 2 ^ 64
  let n := min (field data 16 8) (if img.magicOk then img.imageLength else 256)
  if start + n ≤ m.port.stagerBar then none else some (m.port.stagerBar - start)

/-! ## Binding (R263, R265) -/

/-- The physical erg, dune bits of an address whose erg and dune fields are virtual (R166, R263): `n` is the address. -/
def relocateAddr (mp : List (Nat × Nat)) (n : Nat) : Nat :=
  match physOf mp (64 * natBits n 57 56 + natBits n 55 50) with
  | some k => spliceBits (spliceBits n 56 2 (k / 48)) 50 6 (k % 48)
  | none => n

/-- One relocation applied to the words of its core. -/
def applyReloc (m : Mach) (mp : List (Nat × Nat)) (r : Reloc) (ws : List W64) : List W64 :=
  match ws[r.word]? with
  | none => ws
  | some w =>
    let imm := if r.symbolic then symbolValue m r else relocateAddr mp (w.toNat % 2 ^ 32 * 2 ^ 32) / 2 ^ 32
    ws.set r.word (BitVec.ofNat 64 (spliceBits w.toNat 0 32 imm))

/-- The words of a core as the loader writes them. -/
def boundWords (m : Mach) (mp : List (Nat × Nat)) (va : Variant) (p : CoreProg) : List W64 :=
  (va.relocs.filter fun r => r.vdune == p.vdune && r.row == p.row && r.core == p.core).foldl
    (fun ws r => applyReloc m mp r ws) p.words

/-- Registers from a list of initial values. -/
def initG (l : List (Fin 32 × W64)) : Vector W64 32 :=
  l.foldl (fun v e => if e.1 = 0 then v else v.set e.1.val e.2 e.1.isLt) (Vector.replicate 32 0)

def initV (l : List (Fin 16 × W512)) : Vector W512 16 :=
  l.foldl (fun v e => v.set e.1.val e.2 e.1.isLt) (Vector.replicate 16 0)

/-- A thread at its initial values (R124, R125): it starts beat 0 in its slot of cycle t. Code of a firmware segment runs at F (R126). -/
def initThread (firmware : Bool) (t : ThreadProg) : ThreadState :=
  { g := initG t.g, v := initV t.v, p := t.p &&& 0xFE, pc := t.entry, live := true, privF := firmware, lo := t.lo, hi := t.hi }

/-- A core's words and threads written (R124, R273). -/
def writeCore (m : Mach) (img : Image) (mp : List (Nat × Nat)) (va : Variant) (p : CoreProg) : Mach :=
  match physRow mp p.vdune p.row with
  | none => m
  | some r =>
    let c : CoreId := ⟨r, p.core⟩
    let ws := boundWords m mp va p
    let m := { m with istore := ws.zipIdx.foldl (fun s x => sset 0 s (8192 * coreKey c + x.2) x.1) m.istore }
    p.threads.foldl (fun m t => setThread m ⟨c, t.num⟩ (initThread (img.isFirmware p.sect) t)) m

/-- Every thread idle, every instruction store empty; then the cores of a variant (R124, R125). -/
def writePrograms (m : Mach) (img : Image) (mp : List (Nat × Nat)) (va : Variant) : Mach :=
  va.programs.foldl (fun m p => writeCore m img mp va p) { m with threads := [], istore := [] }

/-- The virtual plate of an active plate of a row in the running job. -/
def vplateAt (m : Mach) (r : RowId) (plate : Nat) : Option Nat :=
  match m.job with
  | none => none
  | some j => (hostedRow j.image j.map r).map fun x => vplateNum x.1 r.num.val plate

/-- A row's sites under a mask: the mapped sites in state `st`, the others FREE, RETIRED or FUSED; nothing in progress
(R92, R260). Banks keep their contents. -/
def mapSites (m : Mach) (r : RowId) (mask : W64) (st : SiteState) : Mach :=
  let w := getRow m r
  let mp := mapRowSites m r mask
  let w := (List.range 68).foldl (fun w s =>
    let site := getSite w s
    match mp.find? fun e => e.1 == s with
    | some e => setSite w s { bankA := site.bankA, bankB := site.bankB, fixedB := site.fixedB, margin := site.margin,
                              pattern := site.pattern, state := st, plate := some e.2 }
    | none => setSite w s { bankA := site.bankA, bankB := site.bankB, fixedB := site.fixedB, margin := site.margin,
                            pattern := site.pattern, state := idleState m r s }) w
  setRow m r { w with strip := none, writer := none, softPlates := [], upkeep := [] }

/-- The 96 rows of a dune. -/
def duneRows (d : DuneId) : List RowId := (List.range 96).map fun k => ⟨d, Fin.ofNat 96 k⟩

/-- The sites of every row of the dunes that a mapping uses, and of every other row, as at the start of a load. -/
def mapAllSites (m : Mach) (img : Image) (mp : List (Nat × Nat)) (st : SiteState) : Mach :=
  (List.range 192).foldl (fun m k => (duneRows (duneOf k)).foldl (fun m r =>
    if mp.any fun e => e.2 == k then
      mapSites m r (match hostedRow img mp r with
        | some x => x.2.plateMask
        | none => 0) st
    else if (getRow m r).sites.isEmpty ∧ !((List.range 68).any fun s => idleState m r s != .free) then m
    else mapSites m r 0 st) m) m

/-- `hosted` of every dune (R173, R263). -/
def stampDunes (m : Mach) (mp : List (Nat × Nat)) : Mach :=
  allDunes.foldl (fun m d =>
    let v := (mp.find? fun e => e.2 == duneKey d).map (·.1)
    if (getDune m d).hosted = v then m else setDune m d { getDune m d with hosted := v }) m

/-- How the attempts at a bank of a BUSY site end (R110): strips failed, read-backs failed, whether the site is retired, the
strips whose trims pass the warning limit, the soft verdicts of its proof firings (R83), and the bank. -/
structure TrialEnd where
  failed : Nat := 0
  unread : Nat := 0
  retired : Bool := false
  warned : Nat := 0
  soft : Nat := 0
  bank : BankState
  deriving DecidableEq, Repr

/-- The attempts at a bank in order, each strip at Tj `tj` with the proof vectors of the next draw. -/
def trialEnd (limit site : Nat) (tj : Int) (now : Nat) : BankState → Nat → List (Option StripObs) → TrialEnd
  | b, _, [] => { retired := true, bank := b }
  | b, _, none :: _ => { failed := 1, unread := 1, retired := true, bank := { b with complete := false } }
  | b, seed, some o :: rest =>
    let b := solveTrims b tj o
    let warn := if trimWarns limit b o then 1 else 0
    let soft := ((List.range 8).filter fun v => proofDiffers b seed v (upsetsOf o site)).length
    if trimsOut o then { failed := 1, retired := true, warned := warn, soft, bank := b }
    else if stripFails b seed site o then
      let e := trialEnd limit site tj now b (seed + 1) rest
      { e with failed := e.failed + 1, warned := e.warned + warn, soft := e.soft + soft }
    else { warned := warn, bank := passBank b now }

/-- The end of the trial of one bank that has been written; a bank without a trial passes at once. -/
def bankTrial (m : Mach) (ts : List SiteTrial) (r : RowId) (s : Nat) (k : Bank) (b : BankState) : TrialEnd :=
  let tj := (getDune m r.dune).tj
  match ts.find? fun t => t.row == r && t.site.val == s && t.bank == k with
  | none => { bank := passBank (solveTrims b tj {}) m.now }
  | some t => trialEnd (odGet m 0x2220 3) s tj m.now b m.fresh [t.first, t.second]

/-- The 8 exact and 16 fast firings of each of n strips (R90, R106). -/
def countStripFirings (m : Mach) (r : RowId) (n : Nat) : Mach := countRow (countRow m r 0x6130 2 (8 * n)) r 0x6130 1 (16 * n)

/-- The failures, the warnings and the soft verdicts of a trial counted, and its draws of proof vectors taken. -/
def countTrial (m : Mach) (r : RowId) (e : TrialEnd) : Mach :=
  let m := { m with fresh := m.fresh + 2 }
  if e.failed = 0 ∧ e.warned = 0 then m
  else
    let m := countRow (countRow (countRow m r 0x6140 2 e.failed) r 0x6140 8 e.unread) r 0x6140 10 e.warned
    countStripFirings (countRow m r 0x6130 4 e.soft) r (e.failed - e.unread)

/-- The trial of one bank of a mapped site, written from the record of its plate for beat n (R330); without a record the bank is
incomplete. -/
def siteTrial (m : Mach) (ts : List SiteTrial) (d : MemDecl) (n : Nat) (fixedB : Bool) (r : RowId) (s plate : Nat) (k : Bank) : TrialEnd :=
  let b := bankOf (getSite (getRow m r) s) k
  match goldenFor m d ((vplateAt m r plate).getD 0) k fixedB n with
  | some rec_ => bankTrial m ts r s k (writeBank b rec_)
  | none => { bank := { b with complete := false, stripped := false } }

/-- Both banks of a mapped site written from their golden records and stripped (R273, R330, R336): complete where a record
exists. `n` is the beat for which a bank plan's groups are taken. A single-bank job keeps the bank that is fixed; otherwise
bank A becomes fixed. A site whose bank fails beyond its rewriting is retired (R110). -/
def loadBanks (m : Mach) (ts : List SiteTrial) (r : RowId) (s plate : Nat) (d : MemDecl) (n : Nat) : Mach :=
  let fixedB := d.bankUse == .single && (m.job.map (·.fixedB)).getD false
  let w := getRow m r
  let x := getSite w s
  let serve := fun (k : Bank) (m : Mach) => match goldenFor m d ((vplateAt m r plate).getD 0) k fixedB n with
    | some g => serveRecord m g 0 139264
    | none => m
  let ea := siteTrial m ts d n fixedB r s plate .a
  let eb := if ea.retired then { bank := x.bankB } else siteTrial m ts d n fixedB r s plate .b
  let k := (if ea.bank.stripped then 1 else 0) + (if eb.bank.stripped then 1 else 0)
  let m := setRow m r (setSite w s { x with bankA := ea.bank, bankB := eb.bank, fixedB, pattern := false,
                                            margin := x.margin || ea.warned + eb.warned != 0 })
  let m := serve .b (serve .a m)
  let m := countTrial (countTrial (countStripFirings (countRow m r 0x6140 1 k) r k) r ea) r eb
  if ea.retired || eb.retired then retireSite m r s else m

/-- The mapped sites of a row. -/
def platedSites (w : RowState) : List (Nat × Nat) := w.sites.filterMap fun e => e.2.plate.map fun p => (e.1, p)

/-- Every mapped site of a row loaded and put into state `st`, but for those retired. -/
def loadRow (m : Mach) (ts : List SiteTrial) (r : RowId) (d : MemDecl) (n : Nat) (st : SiteState) : Mach :=
  (platedSites (getRow m r)).foldl (fun m e =>
    let m := loadBanks m ts r e.1 e.2 d n
    let w := getRow m r
    if (getSite w e.1).state = .retired then m
    else setRow m r (setSite w e.1 { getSite w e.1 with state := st })) m

/-- All mapped sites of the job loaded (R330). -/
def loadAllRows (m : Mach) (ts : List SiteTrial) (d : MemDecl) (n : Nat) (st : SiteState) : Mach :=
  (jobDunes m).foldl (fun m x => (duneRows x).foldl (fun m r => loadRow m ts r d n st) m) m

/-- What entry into RUNNING and a restart empty: windows, barrier rounds, queue entries and sequences, landings, loads,
packets, firings and stops (R154, R176, R186, R481). -/
def clearRows (m : Mach) : Mach :=
  let m := dropPackets { m with queues := [], landings := [], loads := [], bankServed := [] }
  { m with rows := m.rows.filterMap fun e =>
      let w := { e.2 with windows := [], barriers := [], firing := none, driverFree := 0, stopped := false, account := 0,
                          raised := false }
      if w = {} then none else some (e.1, w) }

end Sys2Proof.Machine
end

