-- ==== Sys2Proof/Machine/Upkeep.lean ====
section
/-! DEFINITION. Plate upkeep: test strips (R106–R111), row words and bank writes (R98–R102), re-exposure, substitution, shadows
and retirement (R84, R85, R115–R119), and the part of a beat boundary that belongs to them. -/

namespace Sys2Proof.Machine

/-! ## Records and sites -/

/-- The record of a bank of an active plate of a row for the beat in force (R115, R331). -/
def plateRecord (m : Mach) (r : RowId) (plate : Nat) (k : Bank) (fixedB : Bool) : Option BankData :=
  match m.job, vplateAt m r plate with
  | some j, some vp => goldenFor m j.image.mem vp k fixedB (beatOfNow m r.dune)
  | _, _ => none

/-- The banks that a re-exposure of a site writes: the fixed one, and the latent one if it is complete (R115 step 2). -/
def recordsFor (m : Mach) (r : RowId) (plate : Nat) (s : Site) : List (Bank × BankData) :=
  let fixed := fixedName s
  let latent : Bank := if fixed = .a then .b else .a
  let one := fun (k : Bank) => ((plateRecord m r plate k s.fixedB).map fun d => (k, d)).toList
  one fixed ++ (if (latentBank s).complete then one latent else [])

/-- The lowest FREE site of a row, or its oldest SHADOW (R115 step 1). -/
def spareSite (w : RowState) : Option Nat :=
  match (List.range 68).find? fun s => (getSite w s).state == .free with
  | some s => some s
  | none =>
    let shadows := (List.range 68).filter fun s => (getSite w s).state == .shadow
    (shadows.foldl (fun best s => match best with
      | some x => if (getSite w s).since < (getSite w x).since then some s else some x
      | none => some s) none)

/-- The SHADOW of a plate (R92). -/
def shadowOf (w : RowState) (plate : Nat) : Option Nat :=
  (List.range 68).find? fun s => (getSite w s).state == .shadow && (getSite w s).plate == some plate

/-- A bank marked incomplete (R100). -/
def markIncomplete (s : Site) (k : Bank) : Site :=
  setBank { s with pattern := false } k { bankOf s k with complete := false, stripped := false }

/-- A site taken for an upkeep: BUSY, both banks incomplete until written, the fixed bank as the plate's (R92, R115). -/
def takeSite (w : RowState) (s : Nat) (fixedB : Bool) : RowState :=
  let fresh := fun (b : BankState) => { b with rewritten := false }
  let x := markIncomplete (markIncomplete (getSite w s) .a) .b
  setSite w s { x with state := .busy, plate := none, fixedB := fixedB, reexposed := false, reexposedTrim := false, hardDue := false,
                       retireDue := false, retireSoft := false, deferred := false, bankA := fresh x.bankA, bankB := fresh x.bankB }

/-- The head of a row's upkeep queue replaced, or dropped. -/
def setHead (w : RowState) (u : Option Upkeep) : RowState := { w with upkeep := u.toList ++ w.upkeep.drop 1 }

/-! ## Beat boundary (R84, R85, R115–R118) -/

/-- RepeatSoftRetirements counts a retirement of R85 (R121). -/
def countRepeat (m : Mach) (r : RowId) (s : Site) : Mach := if s.retireSoft then countRow m r 0x6130 6 1 else m

/-- A retirement that is due takes effect at a boundary: to the SHADOW, by substitution, or NO_READY_SITE (R85, R118). -/
def retirePlate (m : Mach) (r : RowId) (site plate : Nat) : Mach :=
  let w := getRow m r
  match shadowOf w plate with
  | some sh =>
    let w := setSite w sh { getSite w sh with state := .active }
    let m := countRepeat m r (getSite w site)
    let m := retireSite (setRow m r w) r site
    countRow m r 0x6140 6 1
  | none =>
    if (spareSite w).isNone then rowFault m r 0x103 0 0
    else
      let w := setSite w site { getSite w site with retireDue := false }
      setRow m r { w with upkeep := w.upkeep ++ [⟨plate, .retire, none, [], [], false⟩] }

/-- A queued plate's upkeep begins: a spare site becomes BUSY; without one a re-exposure is deferred (R117) and a retirement
faults (R118). -/
def beginUpkeep (m : Mach) (r : RowId) (u : Upkeep) : Mach :=
  let w := getRow m r
  match activeSite w u.plate with
  | none => setRow m r (setHead w none)
  | some (k, s) =>
    match spareSite w with
    | some f =>
      let w := takeSite w f s.fixedB
      setRow m r (setHead w (some { u with site := some f, toWrite := recordsFor m r u.plate s, toStrip := [] }))
    | none =>
      let w := setHead w none
      if u.goal = .retire then rowFault (setRow m r w) r 0x103 0 0
      else countRow (setRow m r (setSite w k { s with deferred := true })) r 0x6140 5 1

/-- Step 4 of R115 and item 2 of R118: the plate moves to the BUSY site. -/
def substitute (m : Mach) (r : RowId) (u : Upkeep) (f : Nat) : Mach :=
  let w := getRow m r
  match activeSite w u.plate with
  | none => setRow m r (setHead w none)
  | some (k, s) =>
    let re := u.goal == .reexpose
    let w := setSite w f { getSite w f with state := .active, plate := some u.plate, reexposed := re, reexposedTrim := re && u.trim }
    if re then
      let recs := recordsFor m r u.plate s
      let w := takeSite w k s.fixedB
      let w := setHead w (some ⟨u.plate, .shadow, some k, recs, [], false⟩)
      countRow (countRow (setRow m r w) r 0x6140 4 1) r 0x6140 6 1
    else
      let m := countRepeat m r s
      let m := retireSite (setRow m r (setHead w none)) r k
      countRow m r 0x6140 6 1

/-- What an upkeep has still to do on its site by the roles that the banks hold now (R115 step 2, R116): the records of the
plate's banks that the site does not hold yet, and the banks that hold theirs unstripped. -/
def replan (m : Mach) (r : RowId) (u : Upkeep) (f : Nat) : Upkeep :=
  let w := getRow m r
  let x := getSite w f
  match activeSite w u.plate with
  | none => u
  | some (_, s) =>
    let recs := recordsFor m r u.plate s
    let held := fun (e : Bank × BankData) => (bankOf x e.1).complete && (bankOf x e.1).data == e.2
    { u with toWrite := recs.filter fun e => !held e
             toStrip := (recs.filter fun e => held e && !(bankOf x e.1).stripped).map (·.1) }

/-- The heads of a dune's upkeep queues planned anew, after a fix has changed the roles of their banks (R116). -/
def replanDune (m : Mach) (d : DuneId) : Mach :=
  (duneRows d).foldl (fun m r =>
    let w := getRow m r
    match w.upkeep with
    | u :: _ => match u.site with
      | some f => setRow m r (setHead w (some (replan m r u f)))
      | none => m
    | [] => m) m

/-- The head of a row's queue moves on at a boundary. A BUSY site takes the plate over only when it holds every bank that is
complete on the site it replaces. -/
def advanceUpkeep (m : Mach) (r : RowId) : Mach :=
  match (getRow m r).upkeep with
  | [] => m
  | u :: _ =>
    match u.site with
    | none => beginUpkeep m r u
    | some f =>
      if u.toWrite.isEmpty ∧ u.toStrip.isEmpty ∧ u.goal ≠ .shadow then
        let v := replan m r u f
        if !v.toWrite.isEmpty ∨ !v.toStrip.isEmpty then setRow m r (setHead (getRow m r) (some v))
        else
          let m := substitute m r u f
          match (getRow m r).upkeep with
          | v :: _ => if v.site.isNone then beginUpkeep m r v else m
          | [] => m
      else m

/-- One row at a beat boundary: retirements due, soft verdicts queued, the head of the queue moved on. -/
def upkeepRow (m : Mach) (r : RowId) : Mach :=
  let w := getRow m r
  let due := w.sites.filterMap fun e => if e.2.retireDue then e.2.plate.map fun p => (e.1, p) else none
  let m := due.foldl (fun m e => retirePlate m r e.1 e.2) m
  let w := getRow m r
  let m := setRow m r { w with
    softPlates := []
    upkeep := w.upkeep ++ w.softPlates.map fun e => ⟨e.1, .reexpose, none, [], [], e.2.2⟩ }
  advanceUpkeep m r

/-- The rows of a dune that have upkeep to do. -/
def upkeepBoundary (m : Mach) (d : DuneId) : Mach :=
  (duneRows d).foldl (fun m r =>
    let w := getRow m r
    if w.softPlates.isEmpty ∧ w.upkeep.isEmpty ∧ !w.sites.any (fun e => e.2.retireDue) then m else upkeepRow m r) m

/-! ## Test strips (R106–R114) -/

/-- Cycles of segment k of a strip (R106). -/
def segmentLength (m : Mach) (k : Nat) : Nat :=
  if k < 70 then 256 else if k < 78 then firingLength m true true else firingLength m false (k % 2 == 1)

/-- The gaps of a row in the running variant (R108). -/
def rowGaps (m : Mach) (r : RowId) : List (Nat × Nat) :=
  match m.job with
  | none => []
  | some j => match hostedRow j.image j.map r with
    | none => []
    | some x => (((jobVariant j).gaps.find? fun g => g.vdune == x.1 && g.row == r.num).map (·.gaps)).getD []

/-- The first instant at which a segment of `len` cycles can run: at once where no beat runs (LOADING, a pause, STANDBY),
else in a gap of the beat before its commit point (R108, R330, R335). -/
def segmentSlot (m : Mach) (r : RowId) (len : Nat) : Option Nat :=
  let d := getDune m r.dune
  match d.beat with
  | none => some m.now
  | some b =>
    let c := cycleAtOrAfter m b m.now
    let limit := commitCycle m d b
    ((rowGaps m r).filterMap fun g =>
      let st := max c g.1
      if st + len ≤ g.2 ∧ st + len ≤ limit then some (cycleStart m b st) else none).foldl (fun best t => match best with
        | some x => some (min x t)
        | none => some t) none

/-! ### Which strip comes next (R111) -/

/-- Strips of a regular turn begin this long before the bank's last strip is a StripInterval old, so that the turn of a whole row
ends in time (R111's 1.81 s; assumption 129). -/
def turnLead : Nat := 2

/-- A site whose banks are stripped: not RETIRED or FUSED, and not FREE within a job. -/
def stripsSite (m : Mach) (x : Site) : Bool := x.state != .retired && x.state != .fused && (x.state != .free || m.job.isNone)

/-- A complete bank that has not passed a strip since it was written. -/
def unproven (x : Site) (k : Bank) : Bool := (bankOf x k).complete && !(bankOf x k).stripped

/-- The plate's dune has moved by more than StripDeltaT since the last strip of its fixed bank: it is stripped ahead of its turn. -/
def movedSite (m : Mach) (r : RowId) (x : Site) : Bool :=
  x.state == .active && (fixedBank x).complete && (fixedBank x).stripped
    && decide (16 * odGet m 0x2220 2 < ((getDune m r.dune).tj - (fixedBank x).stripTj).natAbs)

/-- A bank whose regular turn has come: a fixed bank of an ACTIVE site, either bank of a SHADOW, and outside a job of any site. -/
def regularDue (m : Mach) (x : Site) (k : Bank) : Bool :=
  let b := bankOf x k
  stripsSite m x && b.complete && b.stripped && (m.job.isNone || x.state == .shadow || (x.state == .active && k == fixedName x))
    && decide (b.stripTime + (odGet m 0x2220 1 - turnLead) * 217000000000 ≤ m.now)

/-- The strip that a row takes next: banks written and not yet stripped first, then plates ahead of their turn, then the
regular turn, the longest waiting first. -/
def stripTurn (m : Mach) (r : RowId) : Option (Nat × Bank) :=
  let sites := (List.range 68).map fun s => (s, siteView m r s)
  let both := sites.flatMap fun e => [(e.1, e.2, Bank.a), (e.1, e.2, Bank.b)]
  let first := (both.find? fun e => stripsSite m e.2.1 && unproven e.2.1 e.2.2).map fun e => (e.1, e.2.2)
  let ahead := (sites.find? fun e => movedSite m r e.2).map fun e => (e.1, fixedName e.2)
  let due := both.filter fun e => regularDue m e.2.1 e.2.2
  let oldest := due.foldl (fun best e => match best with
    | some x => if (bankOf e.2.1 e.2.2).stripTime < (bankOf x.2.1 x.2.2).stripTime then some e else some x
    | none => some e) none
  first <|> ahead <|> oldest.map fun e => (e.1, e.2.2)

/-- A strip of a bank may begin: nothing that has moved waits in the row while this one is regular. -/
def mayStrip (m : Mach) (r : RowId) (s : Nat) (k : Bank) : Bool :=
  let x := siteView m r s
  unproven x k || (movedSite m r x && k == fixedName x) || !(List.range 68).any fun e => movedSite m r (siteView m r e)

/-- The next segment of a strip placed in its gap: the strip under way, or a new one. Bask yields to it (R459). -/
def placeSegment (m : Mach) (r : RowId) (st : StripRun) (t : Nat) : Mach :=
  let m := advance m t
  setRow m r { getRow m r with
    bask := none, strip := some { st with running := true, until_ := t + segmentLength m st.segment * cycleTu m } }

/-- The strip of a bank that a row may go on with or begin, with the draw that seeds a new one (R106). -/
def stripFor (m : Mach) (r : RowId) (s : Nat) (k : Bank) : Option StripRun :=
  let w := getRow m r
  let x := siteView m r s
  if w.firing.isSome ∨ (getDune m r.dune).frozen ∨ !stripsSite m x ∨ !(bankOf x k).complete ∨ !powered m then none
  else match w.strip with
    | some st => if st.site = s ∧ st.bank = k ∧ !st.running then some st else none
    | none => if mayStrip m r s k then some { site := s, bank := k, segment := 0, running := false, until_ := 0, seed := m.fresh } else none

/-- A new strip has taken its draw. -/
def takeSeed (m : Mach) (r : RowId) : Mach := if (getRow m r).strip.isNone then { m with fresh := m.fresh + 1 } else m

/-- STRIP_SEGMENT_START. -/
def execStripSegmentStart (r : RowId) (site : Fin 68) (bank : Bank) (s : State) := nextM s fun m =>
  match stripFor m r site.val bank with
  | some st => match segmentSlot m r (segmentLength m st.segment) with
    | some t => placeSegment (takeSeed m r) r st t
    | none => m
  | none => m

/-- The steward's own placing at an instant with no command (R108, R111): a row whose driver is idle goes on with its strip, or
begins the one whose turn has come, where the segment fits at once. -/
def stripTick (m : Mach) (r : RowId) : Mach :=
  let w := getRow m r
  let next := match w.strip with
    | some st => if st.running then none else some (st.site, st.bank)
    | none => stripTurn m r
  match next.bind fun e => stripFor m r e.1 e.2 with
  | some st =>
    if segmentSlot m r (segmentLength m st.segment) = some m.now then placeSegment (takeSeed m r) r st m.now else m
  | none => m

/-- Every row that holds anything, in STANDBY and while a job's beats run. -/
def stripTicks (m : Mach) : Mach :=
  if powered m && (beatsRun m || m.mode == .standby) then
    (m.rows.map fun e => rowOf e.1).foldl stripTick m
  else m

/-- A segment that is a firing counts as one: 8 exact proof firings and 16 fast verify firings in a strip (R90, R106). -/
def countSegment (m : Mach) (r : RowId) (k : Nat) : Mach :=
  if k < 70 then m else countRow m r 0x6130 (if k < 78 then 2 else 1) 1

/-- A margin warning counts and sets the site's margin flag, which stays set until self-test (R114; assumption 130). -/
def trimWarning (m : Mach) (r : RowId) (st : StripRun) (b : BankState) (obs : StripObs) : Mach :=
  if trimWarns (odGet m 0x2220 3) b obs then
    let w := getRow m r
    countRow (setRow m r (setSite w st.site { getSite w st.site with margin := true })) r 0x6140 10 1
  else m

/-- A strip that passes (R107, R115, R118). -/
def stripPassed (m : Mach) (r : RowId) (st : StripRun) : Mach :=
  let w := getRow m r
  let x := getSite w st.site
  let regular := x.state == .active && st.bank == fixedName x
  let x := setBank { x with reexposed := x.reexposed && !regular, reexposedTrim := x.reexposedTrim && !regular } st.bank
    (passBank (bankOf x st.bank) m.now)
  let w := setSite { w with strip := none } st.site x
  -- R118: a regular strip of the fixed bank releases the plate's SHADOW
  let w := if regular then match x.plate.bind (shadowOf w) with
      | some sh => setSite w sh { getSite w sh with state := .free, plate := none }
      | none => w
    else w
  let w := match w.upkeep with
    | u :: _ =>
      if u.site = some st.site then
        let u := { u with toStrip := u.toStrip.erase st.bank }
        if u.goal = .shadow ∧ u.toStrip.isEmpty ∧ u.toWrite.isEmpty then
          setHead (setSite w st.site { getSite w st.site with state := .shadow, plate := some u.plate, since := beatNumber m }) none
        else setHead w (some u)
      else w
    | [] => w
  countRow (setRow m r w) r 0x6140 1 1

/-- A BUSY or SHADOW site is retired (R110): a re-exposure or substitution takes another site, a shadow is given up. -/
def giveUpSite (m : Mach) (r : RowId) (site : Nat) : Mach :=
  let m := retireSite m r site
  let w := getRow m r
  match w.upkeep with
  | u :: rest =>
    if u.site = some site then
      setRow m r (setHead w (if u.goal = .shadow then none else some { u with site := none, toWrite := [], toStrip := [] }))
    else setRow m r { w with upkeep := u :: rest.filter fun v => v.site != some site }
  | [] => m

/-- A bank of a BUSY or SHADOW site marked for its one rewriting (R110). -/
def markRewrite (x : Site) (k : Bank) : Site :=
  let x := markIncomplete x k
  setBank x k { bankOf x k with rewritten := true }

/-- A failed strip on a BUSY or SHADOW site whose bank is rewritten once (R110): by the upkeep that has the site, else by one that
is queued for it. -/
def rewriteSite (m : Mach) (r : RowId) (site : Nat) (bank : Bank) : Mach :=
  let w := getRow m r
  let x := getSite w site
  let recs := fun (p : Nat) => ((plateRecord m r p bank x.fixedB).map fun d => (bank, d)).toList
  if w.upkeep.any (fun u => u.site == some site) then
    let again := fun (u : Upkeep) =>
      if u.site = some site then { u with toWrite := u.toWrite ++ recs u.plate, toStrip := u.toStrip.erase bank } else u
    setRow m r { setSite w site (markRewrite x bank) with upkeep := w.upkeep.map again }
  else match x.plate with
    | none => m
    | some p =>
      let w := setSite w site { markRewrite x bank with state := .busy }
      setRow m r { w with upkeep := w.upkeep ++ [⟨p, .shadow, some site, recs p, [], false⟩] }

/-- A re-exposure queued for trims out of range, or the retirement by substitution of a plate re-exposed for them before
(R110). -/
def queueReexposure (m : Mach) (r : RowId) (site plate : Nat) : Mach :=
  let w := getRow m r
  let x := getSite w site
  if x.reexposedTrim then setRow m r (setSite w site { x with retireDue := true })
  else if w.upkeep.any (fun u => u.plate == plate) then m
  else if w.softPlates.any (fun e => e.1 == plate) then
    setRow m r { w with softPlates := w.softPlates.map fun e => if e.1 = plate then (e.1, e.2.1, true) else e }
  else setRow m r { w with softPlates := w.softPlates ++ [(plate, fixedName x, true)] }

/-- A soft verdict on a site's bank outside its job's firings (R83, R110): on the plate of an ACTIVE site of a job with R84's
effects, on any other site counted. -/
def stripVerdict (m : Mach) (r : RowId) (site : Nat) : Mach :=
  let x := getSite (getRow m r) site
  match m.job, x.state, x.plate with
  | some _, .active, some p => softVerdict m r p
  | _, _, _ => countRow m r 0x6130 4 1

/-- A strip that fails, by its cause and by the site it fails on (R110). A proof firing has given its soft verdict already. -/
def stripFailed (m : Mach) (r : RowId) (st : StripRun) : Mach :=
  let m := countRow (setRow m r { getRow m r with strip := none }) r 0x6140 2 1
  let x := getSite (getRow m r) st.site
  let spent := st.trimOut || (bankOf x st.bank).rewritten
  match x.state, x.plate with
  | .active, some p => if st.trimOut then queueReexposure m r st.site p else if st.verdict then m else stripVerdict m r st.site
  | .busy, _ => if spent then giveUpSite m r st.site else rewriteSite m r st.site st.bank
  | .shadow, _ => if spent then giveUpSite m r st.site else rewriteSite m r st.site st.bank
  | _, _ => m

/-- The last solve segment: trims solved, checked and stored, the temperature recorded (R106, R112–R114). -/
def solveSegment (m : Mach) (r : RowId) (st : StripRun) (obs : StripObs) : Mach :=
  let x := siteNow m r st.site
  let b := solveTrims (bankOf x st.bank) (getDune m r.dune).tj obs
  let w := getRow m r
  let m := setRow m r { setSite w st.site (setBank { x with pattern := false } st.bank b) with
    strip := some { st with trimOut := trimsOut obs } }
  trimWarning m r st b obs

/-- Proof firing v: D_p of every phase, and for the all-ones vector the tally (R83, R107). -/
def proofSegment (m : Mach) (r : RowId) (st : StripRun) (v : Nat) (obs : StripObs) : Mach :=
  let b := bankOf (siteNow m r st.site) st.bank
  let ups := upsetsOf obs st.site
  let differs := proofDiffers b st.seed v ups
  let failed := differs || (v == 0 && tallyDiffers b ups)
  let m := setRow m r { getRow m r with strip := some { st with failed := st.failed || failed, verdict := st.verdict || differs } }
  if differs then stripVerdict m r st.site else m

/-- What segment k of a strip finds as it ends. -/
def segmentFinds (m : Mach) (r : RowId) (st : StripRun) (obs : StripObs) : Mach :=
  if st.segment = 69 then solveSegment m r st obs
  else if 70 ≤ st.segment ∧ st.segment < 78 then proofSegment m r st (st.segment - 70) obs
  else if 78 ≤ st.segment then
    let b := bankOf (siteNow m r st.site) st.bank
    setRow m r { getRow m r with
      strip := some { st with failed := st.failed || residualTooLarge b st.seed ((st.segment - 78) / 2) obs } }
  else m

/-- STRIP_SEGMENT_END: the running segment completes; the last one decides. A strip whose bank a write has made incomplete
meanwhile is dropped. -/
def execStripSegmentEnd (r : RowId) (obs : StripObs) (s : State) := nextM s fun m =>
  match (getRow m r).strip with
  | none => m
  | some st =>
    if !st.running ∨ (getDune m r.dune).frozen then m
    else
      let m := advance m st.until_
      if !(bankOf (siteView m r st.site) st.bank).complete then setRow m r { getRow m r with strip := none }
      else
        let m := segmentFinds (countSegment m r st.segment) r st obs
        match (getRow m r).strip with
        | none => m
        | some st =>
          if st.segment < 93 then
            setRow m r { getRow m r with strip := some { st with segment := st.segment + 1, running := false } }
          else if st.trimOut ∨ st.failed then stripFailed m r st
          else stripPassed m r st

/-! ## Writing banks (R98–R102) -/

/-- Latent banks are being built: by a replacement that is BUILDING (R340), or for the next group of a streamed plan (R335). -/
def latentBuilds (m : Mach) : Bool :=
  match m.job with
  | none => false
  | some j => j.image.mem.bankUse == .streamed || (odGet m 0x3140 2 == 2 && m.repl.any fun x => x.method ≤ 2 && x.buffered)

/-- The record that such a build puts into the latent bank of an ACTIVE site. -/
def latentRecord (m : Mach) (r : RowId) (x : Site) : Option (Bank × BankData) :=
  match m.job, x.state, x.plate with
  | some j, .active, some p =>
    let latent : Bank := if x.fixedB then .a else .b
    let vp := (vplateAt m r p).getD 0
    let want := if j.image.mem.bankUse == .streamed then
        (if streamedPlate j.image.mem vp then plateRecord m r p latent x.fixedB else none)
      else goldenGet m vp (bankIdx latent)
    want.map fun d => (latent, d)
  | _, _, _ => none

/-- A fix has been announced to a dune and has not come (R101). -/
def fixAnnounced (m : Mach) (d : DuneId) : Bool := !(getDune m d).fixes.isEmpty

/-- The latent bank that a build writes next in a row, lowest site first. -/
def latentWanted (m : Mach) (r : RowId) : Option (Nat × Bank × BankData) :=
  if !latentBuilds m || fixAnnounced m r.dune then none
  else ((getRow m r).sites.filterMap fun e => match latentRecord m r e.2 with
    | some (k, d) => if (bankOf e.2 k).complete ∧ (bankOf e.2 k).data = d then none else some (e.1, k, d)
    | none => none).head?

/-- The write that the upkeep DMA fetches next for a row: the head of its upkeep queue, else a latent build. -/
def nextWrite (m : Mach) (r : RowId) : Option WriteJob :=
  let build := (latentWanted m r).map fun x => ({ site := x.1, bank := x.2.1, record := x.2.2 } : WriteJob)
  match (getRow m r).upkeep with
  | u :: _ => match u.site, u.toWrite with
    | some f, (k, d) :: _ => some { site := f, bank := k, record := d }
    | _, _ => build
  | [] => build

/-- The write port may write a bank of a site (R101): a latent bank of an ACTIVE site, either bank of a BUSY one. -/
def mayWrite (x : Site) (k : Bank) : Bool :=
  match x.state with
  | .active => k != fixedName x
  | .busy => true
  | _ => false

/-- A row's write job, none once its site or bank may no longer be written. -/
def writeJob (w : RowState) : Option WriteJob := w.writer.filter fun x => mayWrite (getSite w x.site) x.bank

/-- Row buffer address of ring place i (R98). -/
def ringAddr (r : RowId) (i : Nat) : Nat := sramOf r true (0x3C000 + 128 * (i % 128))

/-- ROW_WORD_STAGED: the upkeep DMA delivers the next row word into the ring of 128; `invalid` says that the record met is
invalid under R97, an uncorrectable HBM error (R474). -/
def execRowWordStaged (r : RowId) (invalid : Bool) (s : State) := nextM s fun m =>
  let w := getRow m r
  let d := getDune m r.dune
  match writeJob w <|> nextWrite m r with
  | none => m
  | some x =>
    if d.frozen ∨ d.power ≠ .usable then m
    else if invalid ∨ !x.record.valid then
      let m := setRow m r { w with writer := none }
      let m := { m with golden := m.golden.map fun e => (e.1, e.2.map fun g => if g = x.record then { g with valid := false } else g) }
      rowFault m r 0x503 0 (odGet m 0x2230 2)
    else if x.staged ≥ 1024 ∨ x.written + 128 ≤ x.staged then m
    else
      let m := if x.staged % 2 = 0 then serveRecord m x.record (128 * x.staged) 256 else m
      let m := landOne m ⟨m.now, 1, ringAddr r x.staged, rowWord x.record x.staged⟩
      setRow m r { w with writer := some { x with staged := x.staged + 1, arrived := x.arrived ++ [m.now] } }

/-- The sites that a write to a bank goes to: its own, and the SHADOW of an ACTIVE one (R102). -/
def writeSites (w : RowState) (x : WriteJob) : List Nat :=
  let site := getSite w x.site
  x.site :: (if site.state == .active then (site.plate.bind (shadowOf w)).toList else [])

/-- The bank of a write job changed in every site that it goes to. -/
def writeEach (w : RowState) (x : WriteJob) (f : BankState → BankState) : RowState :=
  (writeSites w x).foldl (fun w s =>
    let y := getSite w s
    setSite w s (setBank { y with pattern := false } x.bank (f (bankOf y x.bank)))) w

/-- A whole bank has been written (R99): the upkeep that wanted it goes on to strip it. -/
def bankWritten (m : Mach) (r : RowId) (x : WriteJob) : Mach :=
  let w := writeEach { getRow m r with writer := none } x fun b => closeBank b x.record
  setRow m r (match w.upkeep with
    | u :: _ =>
      if u.site = some x.site then
        setHead w (some { u with toWrite := u.toWrite.filter fun e => e.1 != x.bank, toStrip := u.toStrip ++ [x.bank] })
      else w
    | [] => w)

/-- A row that failed its read-back twice (R100, R110): a BUSY or SHADOW site is retired; an ACTIVE site is replaced by
substitution. -/
def writeFailed (m : Mach) (r : RowId) (x : WriteJob) : Mach :=
  let m := countRow (countRow m r 0x6140 8 1) r 0x6140 2 1
  let w := writeEach { getRow m r with writer := none } x fun b => { b with complete := false, stripped := false }
  let site := getSite w x.site
  match site.state with
  | .active => setRow m r (setSite w x.site { site with retireDue := true })
  | _ => giveUpSite (setRow m r w) r x.site

/-- PLATE_ROW_WRITE: the write port writes and reads back the next staged row, from its word in the ring; after row 1,023 the
reference rows and the scales complete the bank (R99). Between the announcement of a fix and the fix no bank of an ACTIVE site is
written (R101). -/
def execPlateRowWrite (r : RowId) (firstDiffers secondDiffers : Bool) (s : State) := nextM s fun m =>
  match writeJob (getRow m r) with
  | none => m
  | some x =>
    let held := fixAnnounced m r.dune && (getSite (getRow m r) x.site).state == .active
    let start := max x.freeAt (x.arrived.headD 0)
    if x.staged ≤ x.written ∨ (getDune m r.dune).frozen ∨ held then m
    else if firstDiffers ∧ secondDiffers then writeFailed (advance m (start + 6 * cycleTu m)) r x
    else
      let cycles := (if firstDiffers then 6 else 3) + (if x.written = 1023 then 28 else 0)
      let m := advance m (start + cycles * cycleTu m)
      let word := readBytes m.sram (ringAddr r x.written) 128
      let w := writeEach (getRow m r) x fun b => putRow b x.record x.written word
      if x.written = 1023 then bankWritten (setRow m r w) r x
      else setRow m r { w with writer := some { x with written := x.written + 1, freeAt := m.now, arrived := x.arrived.drop 1 } }

end Sys2Proof.Machine
end

