-- ==== Sys2Proof/Machine/Heat.lean ====
section
/-! DEFINITION. Sensor spots, their effective temperatures and levels (R449–R452, R468, R471), and numbers as binary32. -/

namespace Sys2Proof.Machine

/-! ## Numbers as F32 (R406) -/

/-- A number given as n · 2^-k, as binary32 bits. -/
def f32Of (n : Int) (k : Nat) : Nat := packFin fp32 32 (n < 0) n.natAbs (-(k : Int)) false

/-- A quotient of naturals as binary32 bits. -/
def f32Rat (n d : Nat) : Nat := packFin fp32 32 false (n * 2 ^ 60 / d) (-60) (n * 2 ^ 60 % d != 0)

/-- A number of thousandths as binary32 bits. -/
def f32Milli (n : Nat) : Nat := f32Rat n 1000

/-! ## Spots: 12 for each dune, 4 for each edge field, 1 for each bridge, 1 for each converter (R449) -/

/-- Kind of a spot (R468): 0 dune, 1 edge field, 2 bridge group, 3 converter. -/
def spotKind (n : Nat) : Nat := if n < 2304 then 0 else if n < 2320 then 1 else if n < 2352 then 2 else 3

/-- The erg of a spot. Bridges 0–15 lie on erg 0, 16–23 on erg 1, 24–31 on erg 2 (R209). -/
def spotErg (n : Nat) : Nat :=
  match spotKind n with
  | 0 => n / 576
  | 1 => (n - 2304) / 4
  | 2 => [0, 0, 1, 2].getD ((n - 2320) / 8) 2
  | _ => (n - 2352) / 3

/-- HottestSpot (R468). The unit of a bridge group counts within its erg. -/
def spotWord (n : Nat) : Nat :=
  let u := match spotKind n with
    | 0 => (n / 12 % 48, n % 12)
    | 1 => (0, (n - 2304) % 4)
    | 2 => (if n < 2336 then n - 2320 else (n - 2320) % 8, 0)
    | _ => ((n - 2352) % 3, 0)
  spotKind n * 2 ^ 24 + spotErg n * 2 ^ 16 + u.1 * 256 + u.2

/-- The neighbours of a spot (R450). -/
def spotNeighbours (n : Nat) : List Nat :=
  if n < 2304 then ([12 * (n / 12) + n % 12 - 1, n + 1].filter fun k => k != n && k / 12 == n / 12)
  else ((List.range 4).map fun k => 2304 + 4 * spotErg n + k).filter (· != n)

def getSpot (m : Mach) (n : Nat) : Spot := sget {} m.power.spots n

/-- The spots of a dune, or of an erg's edge field, bridge groups and converters (dune 63). -/
def spotsAt (erg dune : Nat) : List Nat :=
  if dune < 48 then (List.range 12).map fun k => 12 * (48 * erg + dune) + k
  else (List.range 60).filterMap fun k => if spotErg (2304 + k) == erg then some (2304 + k) else none

/-- The highest effective temperature among spots that have been sampled, in 1/32 °C. -/
def hottestOf (m : Mach) (l : List Nat) : Option (Nat × Int) :=
  l.foldl (fun best n =>
    let x := getSpot m n
    if !x.sampled then best
    else match best with
      | some b => if b.2 < x.eff then some (n, x.eff) else best
      | none => some (n, x.eff)) none

/-- Level of the hottest spot of a dune or edge field (R471). -/
def levelAt (m : Mach) (erg dune : Nat) : Nat := ((hottestOf m (spotsAt erg dune)).map fun e => (getSpot m e.1).level).getD 0

/-- SpotFlags of a dune (R471). -/
def spotFlags (m : Mach) (erg dune : Nat) : List Byte :=
  (spotsAt erg dune).map fun n =>
    let x := getSpot m n
    BitVec.ofNat 8 ((if x.flagged then 1 else 0) + (if x.failed1 then 2 else 0) + (if x.failed2 then 4 else 0))

/-! ## One sample of a pair (R450) -/

/-- A reading outside the sensor's range, or one that jumps while its partner stands still. -/
def implausible (x : Spot) (now other last otherLast : Int) : Bool :=
  now < -320 || 2240 < now || (x.sampled && decide (160 < (now - last).natAbs) && decide ((other - otherLast).natAbs < 32))

/-- Sensors that fail by themselves in a sample. -/
def failsNow (x : Spot) (r : SpotReading) : Bool × Bool :=
  (x.failed1 || implausible x r.first r.second x.last1 x.last2, x.failed2 || implausible x r.second r.first x.last2 x.last1)

/-- The pair after a sample, N being the neighbour value in 1/32 °C. Of two plausible readings more than 15 °C apart the one
farther from N fails, the second where they are equally far. -/
def samplePair (x : Spot) (r : SpotReading) (n : Int) (at_ : Nat) : Spot :=
  let f := failsNow x r
  let a := 2 * r.first
  let b := 2 * r.second
  let x := { x with last1 := r.first, last2 := r.second, sampled := true, flagged := false }
  let climb := (x.climb.filter fun e => at_ ≤ e.1 + 10000 && e.2 < n) ++ [(at_, n)]
  match f with
  | (false, false) =>
    let d := (a - b).natAbs
    if d ≤ 128 then { x with eff := (a + b) / 2 }
    else if d ≤ 480 then { x with flagged := true, eff := max a b }
    else if (b - n).natAbs < (a - n).natAbs then { x with failed1 := true, eff := max b n }
    else { x with failed2 := true, eff := max a n }
  | (true, false) => { x with failed1 := true, eff := max b n }
  | (false, true) => { x with failed2 := true, eff := max a n }
  | (true, true) => { x with failed1 := true, failed2 := true, eff := n, climb }

/-- Both sensors failed and N 5 °C above a value of the last second. -/
def rising (x : Spot) : Bool :=
  x.failed1 && x.failed2 && match x.climb.head?, x.climb.getLast? with
    | some a, some b => 160 ≤ b.2 - a.2
    | _, _ => false

/-- The level of a spot (R452): entered at 95, 105 and 115 °C, left below 92 and 102 °C. -/
def spotLevel (x : Spot) : Nat :=
  if 3680 ≤ x.eff ∨ rising x then 3
  else if 3360 ≤ x.eff ∨ (x.failed1 && x.failed2) ∨ (2 ≤ x.level ∧ 3264 ≤ x.eff) then 2
  else if 3040 ≤ x.eff ∨ (1 ≤ x.level ∧ 2944 ≤ x.eff) then 1 else 0

end Sys2Proof.Machine
end

