-- ==== Sys2Proof/Machine/Governor.lean ====
section
/-! DEFINITION. The joule governor's arithmetic: periods of coming beats, energy profiles, the ledger, lanes and drift groups,
and P0 chains (R290, R292, R295, R297, R298, R458). -/

namespace Sys2Proof.Machine

/-! ## The job's beat as the module steward sees it (R225, R239) -/

/-- P(x) of a beat, with the PERIOD changes announced (R239, R240). -/
def periodAt (m : Mach) (x : Nat) : Nat :=
  let d := jobDuneState m
  d.changes.foldl (fun p c => match c with
    | .period n _ q => if n ≤ x then q else p
    | _ => p) d.period

/-- The beat that starts next. -/
def upcomingBeat (m : Mach) : Nat :=
  max (jobDuneState m).nextBeat ((m.job.bind fun j => j.lastStarted.map (· + 1)).getD 0)

/-- G(x) in nJ (R297): a TokenEnvelope that waits for a boundary is not yet in force (R299). -/
def budgetAt (m : Mach) (x : Nat) : Nat := odEff m 0x3101 1 * periodAt m x

/-! ## Energy (R269, R297) -/

/-- e_s of a stage of the energy table: the main stages, then the draft stages (R269). -/
def stageEnergy (img : Image) (s : Nat) : Nat :=
  let e := img.energy.getD s (0, 0, 0, 0)
  e.1 + e.2.1 + e.2.2.1 + e.2.2.2

/-- What a pass spends: (offset from its entry beat, nJ). The drafts for its successor are made from the beat in which it samples, in
the beats that the stage map assigns to each draft stage (R297, R304). -/
def passProfile (img : Image) (positions drafts : Nat) : List (Nat × Nat) :=
  let main := (List.range img.stages).map fun s => (s, positions * stageEnergy img s)
  let last := img.stages - 1
  main ++ (if drafts = 0 then [] else img.stageMap.drafts.zipIdx.flatMap fun e =>
    e.1.draftBeats.map fun b => (last + b, drafts * stageEnergy img (img.stages + e.2)))

/-- K of R290. -/
def passInterval (img : Image) (spec : Nat) : Nat := img.stages + (if spec = 0 then 0 else img.stageMap.draftBeats)

/-! ## Chains (R295) -/

/-- What a chain reserves in a beat. -/
def chainEnergy (img : Image) (c : Chain) (x : Nat) : Nat :=
  ((passProfile img c.positions (c.positions - 1)).filter fun e => (c.phase + e.1) % c.k == x % c.k).foldl (fun n e => n + e.2) 0

/-- What all chains reserve in a beat. -/
def chainsEnergy (m : Mach) (img : Image) (x : Nat) : Nat := m.chains.foldl (fun n c => n + chainEnergy img c x) 0

/-- Lanes of all chains that enter in a beat. -/
def chainsLanes (m : Mach) (x : Nat) : Nat := m.chains.foldl (fun n c => n + if x % c.k = c.phase then c.positions else 0) 0

/-- Beats after which every reservation repeats. -/
def chainCycle (m : Mach) (k : Nat) : Nat := m.chains.foldl (fun n c => Nat.lcm n c.k) k

/-- P0Reserved (R325). -/
def chainsPeak (m : Mach) : Nat :=
  match m.job with
  | none => 0
  | some j => if m.chains.isEmpty then 0
    else (List.range (chainCycle m 1)).foldl (fun n x => max n (chainsEnergy m j.image x)) 0

/-! ## The ledger and the lanes (R229, R292, R298, R458) -/

/-- D of R458: beats between changes of the drift group. -/
def driftSpan (m : Mach) : Nat := if 2 ≤ odGet m 0x4100 1 then odEff m 0x4300 2 else odEff m 0x4300 1

/-- The drift group that is active at an entry beat. -/
def driftGroupAt (m : Mach) (x : Nat) : Bool :=
  let span := max 1 (driftSpan m)
  m.driftGroup != ((x - m.driftSince) / span % 2 == 1)

/-- Lanes of a drift group; an image without groups has its lanes in both. -/
def groupLanes (img : Image) (g : Bool) : Nat :=
  if img.laneGroup.isEmpty then img.lanes else (img.laneGroup.filter (· == g)).length

/-- Lanes that passes fixed for a beat take. -/
def usedLanes (m : Mach) (x : Nat) : Nat := (sget [] m.entries x).foldl (fun n p => n + p.count) 0

/-- Lanes still free in a beat. -/
def freeLanes (m : Mach) (img : Image) (x : Nat) : Nat := groupLanes img (driftGroupAt m x) - usedLanes m x - chainsLanes m x

/-- What a profile spends in the beat `k` after its entry: the last main stage and draft stages may share one. -/
def profileAt (prof : List (Nat × Nat)) (k : Nat) : Nat := (prof.filter fun e => e.1 == k).foldl (fun n e => n + e.2) 0

/-- A profile entering in beat x stays within G in every beat (R298). -/
def profileFits (m : Mach) (img : Image) (x : Nat) (prof : List (Nat × Nat)) : Bool :=
  prof.all fun e => sget 0 m.ledger (x + e.1) + chainsEnergy m img (x + e.1) + profileAt prof e.1 ≤ budgetAt m (x + e.1)

/-- A profile committed, or its energy released (R292, R298). -/
def commitProfile (m : Mach) (x : Nat) (prof : List (Nat × Nat)) : Mach :=
  { m with ledger := prof.foldl (fun l e => supd 0 l (x + e.1) (· + e.2)) m.ledger }

def releaseProfile (m : Mach) (x : Nat) (prof : List (Nat × Nat)) : Mach :=
  { m with ledger := prof.foldl (fun l e => supd 0 l (x + e.1) (· - e.2)) m.ledger }

/-- The chain of a context ends: its reservation is gone, and the energy of its passes in flight stands in the ledger (R295, R297). -/
def endChain (m : Mach) (c : Nat) : Mach :=
  match m.job, m.chains.any fun k => k.ctx == c with
  | some j, true =>
    let flying := m.passes.filter fun p => p.ctx == c && p.order == (getCtx m c).order && !p.prefill
    flying.foldl (fun m p => commitProfile m p.beat (passProfile j.image p.count (p.count - 1)))
      { m with chains := m.chains.filter fun k => k.ctx != c }
  | _, _ => m

/-- The three conditions of R295 at one phase, from beat `from_` over `span` beats. -/
def chainFits (m : Mach) (img : Image) (c : Chain) (from_ span : Nat) : Bool :=
  (List.range span).all fun i =>
    let x := from_ + i
    let r := chainsEnergy m img x + chainEnergy img c x
    let g := budgetAt m x
    100 * r ≤ odEff m 0x3100 4 * g && r + sget 0 m.ledger x ≤ g
    && (x % c.k != c.phase || (c.positions ≤ freeLanes m img x
        && c.positions + chainsLanes m x ≤ min (groupLanes img false) (groupLanes img true)))

/-- The chain that a P0 context would be given: the first phase that fits. -/
def findChain (m : Mach) (img : Image) (ctx spec : Nat) : Option Chain :=
  let k := passInterval img spec
  let from_ := upcomingBeat m
  let last := (m.ledger.getLast?.map (·.1)).getD 0
  let span := max (chainCycle m k) (last + 1 - from_)
  ((List.range k).map fun ph => (⟨ctx, ph, k, 1 + spec⟩ : Chain)).find? fun c => chainFits m img c from_ span

end Sys2Proof.Machine
end

