-- ==== Sys2Proof/Machine/Od.lean ====
section
/-! DEFINITION. The object dictionary at work: the values of objects as a reader sees them (R411, R428–R437), the checks of a
write in the order of R427, acceptance by change class (R410), and the answers, RESPONSE messages and mailbox buffers
that carry results (R394, R415–R425). -/

namespace Sys2Proof.Machine

/-! ## Abort codes (R427) -/

def notApplied : Nat := 0x4B000001
def badRequest : Nat := 0x4B000002
def tooManyCommands : Nat := 0x4B000003
def inProgress : Nat := 0x4B000004
def noObject : Nat := 0x4B010001
def noSubindex : Nat := 0x4B010002
def readOnly : Nat := 0x4B020001
def writeOnly : Nat := 0x4B020002
def constantObj : Nat := 0x4B020003
def privilegeErr : Nat := 0x4B030001
def testOnly : Nat := 0x4B030002
def rangeErr : Nat := 0x4B040001
def lengthErr : Nat := 0x4B040002
def alignmentErr : Nat := 0x4B040003
def layoutErr : Nat := 0x4B040004
def unsupportedErr : Nat := 0x4B040005
def notStandby : Nat := 0x4B050001
def wrongState : Nat := 0x4B050002
def conflictErr : Nat := 0x4B050003
def nvFailure : Nat := 0x4B050004
def authErr : Nat := 0x4B060001
def sessionErr : Nat := 0x4B060002
def sessionLimit : Nat := 0x4B060003
def loadRefused (code : Nat) : Nat := 0x4B4C0000 + code

/-- The code with which a test fails. -/
def failIf (b : Bool) (code : Nat) : Option Nat := if b then some code else none

/-! ## Values that are computed (R411) -/

def bundleCode : BundleState → Nat
  | .down => 0 | .training => 1 | .mismatch => 2 | .up => 3 | .degraded => 4

/-- OwnerState (R511). -/
def owned (m : Mach) : Bool := m.sec.keys.any fun k => k.level == 2

/-- The module serves nothing but its recovery (R533). -/
def inRecovery (m : Mach) : Bool := m.mode == .update && m.sec.booted.getLsbD 0 == false

/-- Islands in a state; the root in FREE counts as locked. The island of an OFF dune, whose copy is lost (R219), counts in ACQUIRE
(DESIGN CHOICE, assumption 134: R224 names no state for it). -/
def islandsIn (m : Mach) (t : TimeState) : Nat :=
  (allIslands.filter fun i =>
    islandTime m i == t || (t == .locked && i == .steward 0 && islandTime m i == .free)).length

/-- CloseDelay (R245, R370). -/
def closeDelay (m : Mach) : Nat :=
  match m.job with
  | some j => if 1 < j.image.modules then 540 + Config.hallH j.image.moduleList else 270
  | none => 270

/-- DuneState of R435. -/
def duneStateCode (m : Mach) (k : Nat) : Nat :=
  if m.badDunes.contains k then 3
  else match (sget {} m.dunes k).power with
    | .off => 1 | .heat => 2 | .defect => 3 | .lost => 4
    | .usable => if (match m.job with
        | some j => j.lost.contains k
        | none => false) then 4 else 0

/-- The time of the oldest last strip among the fixed banks of ACTIVE sites, as an age in seconds (R121). -/
def oldestStripAge (m : Mach) : Nat :=
  let ages := m.rows.flatMap fun e => e.2.sites.filterMap fun s =>
    if s.2.state == .active then some ((m.now - (fixedBank s.2).stripTime) / 217000000000) else none
  ages.foldl max 0

/-- The 160 bytes of a key entry (R509). -/
def keyBytes (k : KeyEntry) : List Byte :=
  padTo 97 k.point ++ leBytes 1 k.level ++ [k.flags] ++ List.replicate 13 0 ++ bytes384 k.keyId

def keyTableBytes (ks : List KeyEntry) : List Byte := ks.flatMap keyBytes

/-- The evidence kept for a client (R516). -/
def evidenceOf (m : Mach) : Via → List Byte
  | .mailbox => padTo 640 m.sec.evidence0
  | .session n => padTo 640 (((m.sessions.find? fun s => s.num == n).map (·.evidence)).getD [])

/-- The package that a steward, or the power board (4), runs. -/
def runningPackage (m : Mach) (k : Nat) : Option FlashCopy := sget none m.sec.running k

/-- Version of a copy. -/
def copyVersion : FlashCopy → W32
  | .factory => Config.factoryVersion
  | .written p => p.version

/-- FirmwareVersion (R430). -/
def firmwareVersion (m : Mach) : Nat := ((runningPackage m 0).map fun c => (copyVersion c).toNat).getD 0

/-- ImageHash (R274): the digest of the loaded image. -/
def imageHash (m : Mach) : BitVec 384 :=
  match m.job with
  | some j => if j.loaded then j.image.digest else 0
  | none => 0

/-- Integer objects whose value is not a stored one. -/
def objNat (m : Mach) (idx sub : Nat) : Nat :=
  let job := fun (f : Job → Nat) => (m.job.map f).getD 0
  match idx, sub with
  | 0x1000, 4 => if m.gradeE then 1 else 0
  | 0x1000, 5 => if m.steppingB1 then 1 else 0
  | 0x1000, 7 => Config.pcieVendor.toNat
  | 0x1000, 8 => Config.pcieDevice.toNat
  | 0x1000, 9 => firmwareVersion m
  | 0x1000, 10 => modCode m.mode
  | 0x1100, 8 => (m.sessions.filter fun s => !s.overMailbox).length
  | 0x2220, 4 => odGet m 0x2220 1 + 60
  | 0x3000, 2 => job (·.id.toNat)
  | 0x3010, 7 => (m.job.map fun j => (unusableDunes m j.lost).length).getD 0
  | 0x3020, 1 => basePeriod m
  | 0x3020, 2 => if m.job.isSome then (jobDuneState m).period else 0
  | 0x3020, 3 => if m.job.isSome then (jobDuneState m).level else 0
  | 0x3020, 5 => beatNumber m
  | 0x3020, 6 => if m.job.isSome then (jobDuneState m).anchor else 0
  | 0x3020, 7 => match m.job with
    | some j => if 1 < j.image.modules then (j.image.moduleList.headD 0xFFFF).toNat else 0xFFFF
    | none => 0xFFFF
  | 0x3020, 9 => closeDelay m
  | 0x3101, 2 => if m.job.isSome then budgetAt m (beatNumber m) else 0
  | 0x3101, 3 => chainsPeak m
  | 0x3130, 3 => (m.adapters.filter fun a => a.2.installed).length
  | 0x3130, 4 => (m.adapters.filter fun a => a.2.hot).length
  | 0x4000, 6 => m.power.feeds
  | 0x5110, 1 => islandsIn m .locked
  | 0x5110, 2 => islandsIn m .acquire
  | 0x5110, 3 => islandsIn m .holdover
  | 0x5110, 5 => longestHoldover m
  | 0x5110, 4 => (m.offsets.filter fun e => m.now ≤ e.1 + 217000000000).foldl (fun n e => max n e.2) 0
  | 0x5300, 4 => timeCode (rootState m)
  | 0x6020, 3 => if powered m then (Config.freeWord m.fresh).toNat else 0  -- natural upsets (assumption 120)
  | 0x6140, 9 => oldestStripAge m
  | 0x7100, 1 => if owned m then 1 else 0
  | _, _ =>
    -- feed voltages and currents: what the part measures
    if idx = 0x4000 ∧ 1 ≤ sub ∧ sub ≤ 4 then (if powered m then (Config.freeWord (m.fresh + sub)).toNat % 2 ^ 32 else 0)
    else if 0x5220 ≤ idx ∧ idx ≤ 0x5227 ∧ sub = 1 then bundleCode (getBundle m (idx - 0x5220)).state
    else if 0x5220 ≤ idx ∧ idx ≤ 0x5227 ∧ sub = 2 then liveLanes m (idx - 0x5220)
    else if 0x5220 ≤ idx ∧ idx ≤ 0x5227 ∧ sub = 7 then (if powered m then (Config.freeWord (m.fresh + idx)).toNat else 0)
    else if 0x8000 ≤ idx ∧ idx < 0x8C00 ∧ sub ≠ 0 then
      let e := idx / 64 % 4
      let d := idx % 64
      let k := 48 * e + d
      match idx / 256 % 16, sub with
      | 0, 1 => if d = 63 then (if sget 0 m.power.efuse (domainKey (.edge (Fin.ofNat 4 e))) = 0 then 0 else 1) else duneStateCode m k
      | 0, 2 => timeCode (if d = 63 then (sget {} m.islands (292 + e)).time else (sget {} m.dunes k).time)
      | 0, 3 => ((sget {} m.dunes k).hosted).getD 0xFFFF
      | 8, 1 => (m.retirement.filter fun s => s / 6528 == k).length
      | 9, 1 => ((m.job.bind fun j => physOf j.map (64 * e + d)).map fun p => p / 48).getD 0xFF
      | 9, 2 => ((m.job.bind fun j => physOf j.map (64 * e + d)).map fun p => p % 48).getD 0xFF
      | 10, 1 => f32Of (sget {} m.dunes k).tj 4
      | 10, 2 => f32Of (((hottestOf m (spotsAt e d)).map (·.2)).getD 0) 5
      | 10, 3 => levelAt m e d
      | 11, 1 => if powered m then (Config.freeWord (m.fresh + d)).toNat % 2 ^ 32 else 0
      | 11, 2 => if d = 63 then 0 else sget 0 m.power.efuse k
      | _, _ => odGet m idx sub
    else odGet m idx sub

/-! ## The value of an object as bytes -/

/-- The states of sites that no row lists. -/
def rowIdle (m : Mach) (r : RowId) (s : Nat) : SiteState := idleState m r s

/-- A DuneSites row object (R436). -/
def duneSites (m : Mach) (r : RowId) : List Byte :=
  sitesBytes (getRow m r) m.badCores (coreMaskOf m.job r) r (rowIdle m r)

/-- A DuneRetirement list (R437). -/
def retirementBytes (m : Mach) (k : Nat) : List Byte :=
  (m.retirement.filter fun s => s / 6528 == k).flatMap fun s => leBytes 2 (s / 68 % 96 * 256 + s % 68)

/-- Bytes of the sheet that SheetData returns. -/
def sheetData (m : Mach) : List Byte :=
  match m.sheet with
  | some x => (List.range (sheetLength x.kind)).map (sheetByte x)
  | none => []

/-- Octets and strings; none for an object of another type. `hash` stands for ConfigHash. -/
def objOctets (m : Mach) (v : Via) (hash : List Byte) (o : ObjInfo) : Option (List Byte) :=
  match o.idx, o.sub with
  | 0x1000, 1 => some (asciiBytes "Tamfaus Microsystems")
  | 0x1000, 2 => some (asciiBytes "Kolrukin KE8")
  | 0x1000, 3 => some (asciiBytes (if m.gradeE then "TFM-KE8-A4E" else "TFM-KE8-A4"))
  | 0x1000, 6 => some (Config.serialNumber.take 32)
  | 0x3010, 5 => some (bytes384 (imageHash m))
  | 0x6030, 3 => some ((m.sheet.map sheetHeader).getD (List.replicate 4096 0))
  | 0x6030, 4 => some (sheetData m)
  | 0x6030, 5 => some ((m.thumbnail.map fun x => (List.range 0x100000).map (sheetByte x)).getD (List.replicate 0x100000 0))
  | 0x6030, 7 => some (eventLogBytes m.events (odGet m 0x6030 8))
  | 0x7000, 1 => some (bytes384 (Config.sha384 Config.devIdPoint))
  | 0x7000, 2 => some (padTo 97 Config.devIdPoint)
  | 0x7000, 3 => some (Config.devIdCertificate.take 2048)
  | 0x7000, 4 => some (Config.deviceCaCertificate.take 2048)
  | 0x7000, 5 => some ((List.finRange 4).flatMap fun k => bytes384 (Config.rootKeyHash k))
  | 0x7030, 2 => some (evidenceOf m v)
  | 0x7030, 3 => some hash
  | 0x7100, 3 => some (keyTableBytes m.sec.keys)
  | _, _ =>
    if o.idx = 0x7020 ∧ 1 ≤ o.sub then some (bytes384 (m.sec.meas.toList.getD (o.sub - 1) 0))
    else if 0x8700 ≤ o.idx ∧ o.idx < 0x8800 ∧ 1 ≤ o.sub then
      some (duneSites m ⟨duneOf (48 * (o.idx / 64 % 4) + o.idx % 64), Fin.ofNat 96 (o.sub - 1)⟩)
    else if 0x8A00 ≤ o.idx ∧ o.idx < 0x8B00 ∧ o.sub = 4 then some (spotFlags m (o.idx / 64 % 4) (o.idx % 64))
    else if 0x8800 ≤ o.idx ∧ o.idx < 0x8900 ∧ o.sub = 2 then some (retirementBytes m (48 * (o.idx / 64 % 4) + o.idx % 64))
    else none

/-- The bytes of an object's value. -/
def objBytesWith (m : Mach) (v : Via) (hash : List Byte) (o : ObjInfo) : List Byte :=
  match objOctets m v hash o with
  | some bs => bs
  | none => leBytes o.len (objNat m o.idx o.sub)

/-! ## The object snapshot and ConfigHash (R486, R515) -/

/-- The indices that name objects, ascending (R428). -/
def dictIndices : List Nat :=
  [0x1000, 0x1100, 0x2210, 0x2220, 0x2230, 0x2231, 0x2F00, 0x3000, 0x3010, 0x3020, 0x3021, 0x3100, 0x3101]
  ++ (List.range 16).map (0x3110 + ·) ++ [0x3130, 0x3140, 0x4000, 0x4100, 0x4200, 0x4300, 0x5100, 0x5101, 0x5110, 0x5200]
  ++ (List.range 8).map (0x5220 + ·) ++ [0x5300, 0x5400, 0x5401, 0x6000, 0x6010, 0x6020, 0x6030, 0x6040, 0x6120, 0x6130,
    0x6140, 0x6150, 0x6160, 0x6170, 0x6180, 0x6190, 0x61A0, 0x6300, 0x6310, 0x7000, 0x7010, 0x7020, 0x7030, 0x7040, 0x7100]
  ++ (List.range 0xC00).map (0x8000 + ·)

/-- Every object of an index, ascending. -/
def indexObjs (idx : Nat) : List ObjInfo :=
  (List.range 256).filterMap fun sub => match findObj idx sub with
    | .inl o => some o
    | .inr _ => none

/-- An object as the snapshot encodes it: index, sub, type, length and value padded to 4 bytes. -/
def snapshotEntry (m : Mach) (v : Via) (hash : List Byte) (o : ObjInfo) : List Byte :=
  let bs := objBytesWith m v hash o
  leBytes 2 o.idx ++ leBytes 1 o.sub ++ leBytes 1 o.ty ++ leBytes 4 bs.length ++ padTo (ceilDiv bs.length 4 * 4) bs

/-- SHA-384 of every RW object of classes S and B in 0x1000–0x6FFF (R515). -/
def configHash (m : Mach) : BitVec 384 :=
  Config.sha384 ((dictIndices.filter (· < 0x7000)).flatMap fun i =>
    (indexObjs i).flatMap fun o => if o.acc = 1 ∧ o.cls ≤ 1 then snapshotEntry m .mailbox [] o else [])

/-- The bytes of an object's value for a client. -/
def objBytes (m : Mach) (v : Via) (o : ObjInfo) : List Byte := objBytesWith m v (bytes384 (configHash m)) o

/-- The object snapshot of a sheet: every readable object but the sheet and the thumbnail themselves (R486). -/
def objSnapshot (m : Mach) : List Byte :=
  let hash := bytes384 (configHash m)
  dictIndices.flatMap fun i => (indexObjs i).flatMap fun o =>
    if o.acc = 2 ∨ (o.idx = 0x6030 ∧ 3 ≤ o.sub ∧ o.sub ≤ 5) then [] else snapshotEntry m .mailbox hash o

/-! ## Clients and their rights (R408, R421, R511–R513) -/

/-- Privilege and test attribute of a client; none for a session that has not completed AUTH. -/
def rightsOf (m : Mach) : Via → Option (Nat × Bool)
  | .mailbox => some (odGet m 0x1100 7, false)
  | .session n => (m.sessions.find? fun s => s.num == n).bind fun s => s.priv.map fun p => (p, s.test)

/-- Objects that only an Owner key may write (R512). -/
def ownerOnly (key : Nat) : Bool :=
  key == objKey 0x7100 2 || key == objKey 0x7100 4 || key == objKey 0x7100 5 || key == objKey 0x3010 2 || key == objKey 0x7010 4

/-- A KeyCommand that enrolls an Owner key (R510, R511). -/
def claims (data : List Byte) : Bool := byteAt data 0 == 1 && byteAt data 1 == 2

/-- The privilege check of a write: PRIVILEGE, then TEST_ONLY. -/
def writeRights (m : Mach) (v : Via) (o : ObjInfo) (data : List Byte) : Option Nat :=
  let key := objKey o.idx o.sub
  if inRecovery m ∧ key = objKey 0x7040 1 ∧ v = .mailbox then none
  else if key = objKey 0x7100 2 ∧ claims data ∧ !owned m then failIf (v != .mailbox) privilegeErr
  else match rightsOf m v with
    | none => some privilegeErr
    | some (p, t) =>
      failIf (p < o.priv || (ownerOnly key && p != 2)) privilegeErr <|> failIf (o.test && !t) testOnly

/-! ## Checks of a write (R424, R427) -/

/-- The object of an address in the present state: in recovery only ModuleState and FirmwareCommand answer (R533). -/
def lookObj (m : Mach) (idx sub : Nat) : ObjInfo ⊕ Bool :=
  if inRecovery m ∧ objKey idx sub ≠ objKey 0x1000 10 ∧ objKey idx sub ≠ objKey 0x7040 1 then .inr true else findObj idx sub

/-- Value checks that hold for the object's type (R406, R427). -/
def typeCheck (o : ObjInfo) (data : List Byte) : Option Nat :=
  let n := leNat data
  failIf (if o.fixed then data.length != o.len else o.len < data.length) lengthErr
  <|> (if o.ty = 10 then
      failIf (natBits n 30 23 == 255 && natBits n 22 0 != 0) rangeErr
      <|> failIf (o.idx == 0x4200 && (n < 0x41E00000 || 0x42100000 < n)) rangeErr
    else if o.ty = 12 ∨ o.ty = 13 then none
    else failIf (n < o.lo || o.hi < n) rangeErr)

/-- One entry of the path table (R360). -/
def pathEntryOk (n : Nat) : Bool := natBits n 47 40 == 0 && natBits n 39 32 ≤ 7 && natBits n 15 2 == 0 && natBits n 1 0 ≤ 2

/-- Value checks of single objects (R120, R324–R326, R360, R373, R431, R470). -/
def valueCheck (m : Mach) (o : ObjInfo) (data : List Byte) : Option Nat :=
  let n := leNat data
  let intake := 0x3110 ≤ o.idx ∧ o.idx ≤ 0x311F
  if o.idx = 0x1100 ∧ o.sub = 5 then failIf (n != 0 && ((byteAt data 16).toNat < 1 || 128 < (byteAt data 16).toNat)) layoutErr
  else if o.idx = 0x4300 ∧ o.sub = 2 then failIf (odGet m 0x4300 1 < n) rangeErr
  else if o.idx = 0x5200 ∧ o.sub = 3 then
    failIf (!(List.range 8).all fun b => pathEntryOk (n / 2 ^ (128 * b) % 2 ^ 128)) layoutErr
  else if o.idx = 0x5300 ∧ o.sub = 1 then failIf (data.any fun b => 7 < b.toNat && b != 0xFF) layoutErr
  else if intake ∧ (o.sub = 3 ∨ o.sub = 6) then failIf (n % 8 != 0) alignmentErr
  else if intake ∧ o.sub = 4 then failIf (n % 64 != 0) alignmentErr
  else if intake ∧ o.sub = 5 then failIf (n != 0 && (n < 64 || !n.isPowerOfTwo)) rangeErr
  else none

/-- State checks of single objects: a share or an envelope below the chains' reservations (R299, R324). -/
def stateCheck (m : Mach) (o : ObjInfo) (data : List Byte) : Option Nat :=
  let n := leNat data
  if m.job.isNone then none
  else if o.idx = 0x3100 ∧ o.sub = 4 then failIf (n * budgetAt m (beatNumber m) < 100 * chainsPeak m) conflictErr
  else if o.idx = 0x3101 ∧ o.sub = 1 then failIf (n * periodAt m (beatNumber m) < chainsPeak m) conflictErr
  else none

/-- Every check of a write, in the order of R427. `value` and `state` are the checks that a command object adds. -/
def checkWrite (m : Mach) (v : Via) (idx sub : Nat) (data : List Byte) (value state : Option Nat) : Option Nat :=
  match lookObj m idx sub with
  | .inr gone => some (if gone then noObject else noSubindex)
  | .inl o =>
    failIf (o.acc == 3) constantObj <|> failIf (o.acc == 0) readOnly <|> writeRights m v o data <|> typeCheck o data
    <|> valueCheck m o data <|> value
    <|> failIf (o.cls == 0 && m.mode != .standby && !inRecovery m) notStandby <|> state <|> stateCheck m o data

/-! ## Acceptance (R409–R411) -/

/-- M5 extended with a digest (R514). -/
def extendMeas (m : Mach) (k : Fin 6) (d : BitVec 384) : Mach :=
  { m with sec := { m.sec with meas := m.sec.meas.set k.val (Config.sha384 (bytes384 (m.sec.meas.get k) ++ bytes384 d)) k.isLt } }

/-- Close the sessions that satisfy `p` (R420, R510, R512). -/
def closeSessions (m : Mach) (p : Session → Bool) : Mach := { m with sessions := m.sessions.filter fun s => !p s }

/-- What a bundle's state is for want of any frame: kind 0 or LinkMode 0 make it DOWN, and compatibility mode leaves
bundles 4 and 6 idle (R358, R361). -/
def bundleIdle (m : Mach) (b : Nat) : Bool :=
  odGet m 0x5200 1 == 0 || pathKind m b == 0 || (odGet m 0x5200 1 == 2 && (b == 4 || b == 6))

/-- The state of a bundle by its lanes after a change of configuration: it must be matched again (R361). -/
def rematchBundles (m : Mach) : Mach :=
  (List.range 8).foldl (fun m b =>
    let x := getBundle m b
    let st := if bundleIdle m b ∨ liveLanes m b < 12 then .down else .training
    if x.state = st then m else setBundle m b { x with state := st }) m

/-- What follows at once from the value of an object that has changed. -/
def objEffect (m : Mach) (key : Nat) (old : Nat) : Mach :=
  if key = objKey 0x5200 1 ∨ key = objKey 0x5200 3 then rematchBundles m
  else if key = objKey 0x3010 2 then
    if odGet m 0x3010 2 = old then m else extendMeas m 5 (Config.sha384 [BitVec.ofNat 8 (odGet m 0x3010 2)])
  else if key = objKey 0x7100 4 then
    let m := if odGet m 0x7100 4 = old then m else extendMeas m 5 (Config.sha384 [BitVec.ofNat 8 (odGet m 0x7100 4)])
    if odGet m 0x7100 4 = 0 then closeSessions m fun s => s.priv == some 3 else m
  else m

/-- An object's accepted value stored, with its class: a class B value waits while a job's beats run or the job restarts, the
value in force kept beside it (R410). -/
def accept (m : Mach) (o : ObjInfo) (n : Nat) : Mach :=
  let key := objKey o.idx o.sub
  let old := odGet m o.idx o.sub
  let waits := o.cls == 1 && (beatsRun m || m.mode == .restarting)
  let m := if waits ∧ !(m.waitingB.any fun e => e.1 == key) then { m with waitingB := m.waitingB ++ [(key, old)] } else m
  objEffect (odSet m o.idx o.sub n) key old

/-- A change of these objects closes every UDP session once it has been answered (R431). -/
def addressObject (key : Nat) : Bool := key / 256 == 0x1100 && 1 ≤ key % 256 && key % 256 ≤ 5

/-! ## Messages (R415, R418) -/

/-- A message header (R415). -/
def koaHeader (kind session seq bodyLen : Nat) : List Byte :=
  [0x4B, 0x4F, 1, BitVec.ofNat 8 kind] ++ leBytes 4 session ++ leBytes 8 seq ++ leBytes 4 bodyLen ++ List.replicate 12 0

/-- The GCM nonce: the IV with its last 8 bytes XORed with seq in little-endian order (R418). -/
def gcmNonce (iv : List Byte) (seq : Nat) : List Byte :=
  iv.take 4 ++ ((iv.drop 4).zip (leBytes 8 seq)).map fun e => e.1 ^^^ e.2

/-- A message of session 0. -/
def plainMsg (kind seq : Nat) (body : List Byte) : List Byte := koaHeader kind 0 seq body.length ++ body

/-- A message of a session, sealed with the engine's key. -/
def sealedMsg (s : Session) (kind : Nat) (body : List Byte) : List Byte :=
  let h := koaHeader kind s.num s.txNext body.length
  h ++ Config.gcmSeal (s.s2c.take 32) (gcmNonce (s.s2c.drop 32) s.txNext) h body

/-- Bytes written to PF BAR0 storage. -/
def writeBar0 (m : Mach) (o : Nat) (bytes : List Byte) : Mach :=
  { m with bar0 := bytes.zipIdx.foldl (fun s e => sset 0 s (o + e.2) e.1) m.bar0 }

/-- A message answered in the mailbox (R394). -/
def mailboxPut (m : Mach) (msg : List Byte) : Mach :=
  let m := writeBar0 m 0x20000 msg
  msixGenerate { m with port := { m.port with mailboxBusy := false, mailboxReady := true, mailboxLength := msg.length } } 0 1

/-- A message sent back the way a message came. -/
def sendBack (m : Mach) (src : KoaSrc) (msg : List Byte) : Mach :=
  match src with
  | .mailbox => mailboxPut m msg
  | .port k => emit m (.koa k.val msg)

/-- A sealed message of a session sent back, its seq used. -/
def sendSealed (m : Mach) (src : KoaSrc) (s : Session) (kind : Nat) (body : List Byte) : Mach :=
  let m := { m with sessions := m.sessions.map fun x => if x.num = s.num then { x with txNext := x.txNext + 1 } else x }
  sendBack m src (sealedMsg s kind body)

/-- A REQUEST of a session executes still: a command or a stored write of it has not been answered. -/
def sessionBusy (m : Mach) (n : Nat) : Bool :=
  (m.answers.any fun a => a.via == .session n && a.reply.isSome) || m.nvQueue.any fun w => w.via == .session n && w.reply.isSome

/-- A session that waits for its last answer closes (R513). -/
def closeWaiting (m : Mach) (n : Nat) : Mach := if sessionBusy m n then m else closeSessions m fun s => s.num == n && s.closing

/-! ## Operations of a REQUEST (R422, R423) -/

/-- One operation. `bad` says that a padding or reserved byte of it is nonzero. -/
structure Op where
  op : Nat
  sub : Nat
  idx : Nat
  offset : Nat
  length : Nat
  data : List Byte
  bad : Bool
  deriving DecidableEq, Repr

/-- The operations of a body after its first four bytes; none where they cannot be parsed. -/
def parseOps : Nat → List Byte → Option (List Op)
  | 0, bs => if bs.isEmpty then some [] else none
  | n + 1, bs =>
    let op := field bs 0 1
    let len := field bs 8 4
    let carries := op == 2 || op == 4
    let size := if carries then ceilDiv len 4 * 4 else 0
    if bs.length < 12 + size ∨ op < 1 ∨ 4 < op ∨ (op = 3 ∧ len ≠ 0) ∨ (op = 4 ∧ len ≠ 8) then none
    else
      let data := if carries then (bs.drop 12).take len else []
      let pad := if carries then ((bs.drop (12 + len)).take (size - len)).any (· != 0) else false
      let off := field bs 4 4
      let badSub := op == 4 && (field bs 1 3 != 0)
      (parseOps n (bs.drop (12 + size))).map fun rest =>
        { op, sub := field bs 1 1, idx := field bs 2 2, offset := off, length := len, data,
          bad := pad || (op != 1 && off != 0) || badSub } :: rest

/-- A REQUEST body (R422). -/
def parseRequest (body : List Byte) : Option (List Op) :=
  let n := field body 0 2
  if body.length < 4 ∨ n < 1 ∨ 64 < n ∨ field body 2 2 ≠ 0 then none else parseOps n (body.drop 4)

/-- READ of an object: code, full length, bytes from the offset, no more than wanted (R423). -/
def readObject (m : Mach) (v : Via) (idx sub offset length : Nat) : Nat × Nat × List Byte :=
  match lookObj m idx sub with
  | .inr gone => (if gone then noObject else noSubindex, 0, [])
  | .inl o =>
    let octets := o.ty == 12 || o.ty == 13
    let p := ((rightsOf m v).map (·.1)).getD 0
    let need := if o.acc = 0 then o.priv else 0
    if o.acc = 2 then (writeOnly, 0, [])
    else if (rightsOf m v).isNone ∨ p < need then (privilegeErr, 0, [])
    else if !octets ∧ offset ≠ 0 then (badRequest, 0, [])
    else
      let bs := objBytes m v o
      (0, bs.length, (bs.drop offset).take length)

/-- DESCRIBE of an object (R423). -/
def describeObject (m : Mach) (idx sub : Nat) : Nat × List Byte :=
  match lookObj m idx sub with
  | .inr gone => (if gone then noObject else noSubindex, [])
  | .inl o =>
    let rd := if o.acc = 2 then 0xFF else if o.acc = 0 then o.priv else 0
    let wr := if o.acc = 0 ∨ o.acc = 3 then 0xFF else o.priv
    let len := if o.len < 2 ^ 32 then o.len else (Config.longLength o.len).toNat
    (0, leBytes 1 o.ty ++ leBytes 1 o.acc ++ leBytes 1 o.cls ++ leBytes 1 rd ++ leBytes 1 wr
      ++ leBytes 1 (if o.nv then 1 else 0) ++ [0, 0] ++ leBytes 4 len ++ [0, 0, 0, 0])

/-- One result of a RESPONSE (R423). -/
def resultBytes (code total : Nat) (data : List Byte) : List Byte :=
  leBytes 4 code ++ leBytes 4 total ++ leBytes 4 data.length ++ padTo (ceilDiv data.length 4 * 4) data

/-- The results of operations in order. `wr` gives a WRITE's code by its position; `room` is what still fits. -/
def results (m : Mach) (v : Via) (wr : Nat → Nat) : List (Op × Nat) → Nat → List Byte
  | [], _ => []
  | (o, i) :: rest, room =>
    let r := if o.bad then resultBytes badRequest 0 []
      else match o.op with
        | 1 =>
          let x := readObject m v o.idx o.sub o.offset (min o.length (room / 4 * 4))
          resultBytes x.1 x.2.1 x.2.2
        | 3 =>
          let x := describeObject m o.idx o.sub
          resultBytes x.1 (if x.1 = 0 then 16 else 0) x.2
        | 2 => resultBytes (wr i) 0 []
        | _ => resultBytes 0 0 []
    r ++ results m v wr rest (room - (r.length - 12))

/-- Bytes of a RESPONSE body that the transport can carry (R414, R415). -/
def bodyRoom : KoaSrc → Via → Nat
  | .port _, _ => 1184
  | .mailbox, .mailbox => 65536 - 32
  | .mailbox, .session _ => 65536 - 48

/-- The RESPONSE body for a parsed request. -/
def responseBody (m : Mach) (src : KoaSrc) (v : Via) (ops : List Op) (wr : Nat → Nat) : List Byte :=
  leBytes 2 ops.length ++ [0, 0] ++ results m v wr ops.zipIdx (bodyRoom src v - 4 - 12 * ops.length)

/-- The RESPONSE to a body that cannot be parsed (R422). -/
def unparsed : List Byte := leBytes 2 1 ++ [0, 0] ++ resultBytes badRequest 0 []

/-- A RESPONSE sent: session 0 plainly with the request's seq; a session sealed, and kept among its last 8 (R419). -/
def sendResponse (m : Mach) (v : Via) (src : KoaSrc) (seq : Nat) (body : List Byte) : Mach :=
  match v with
  | .mailbox => sendBack m src (plainMsg 6 seq body)
  | .session n =>
    match m.sessions.find? fun s => s.num == n with
    | none => m
    | some s =>
      let keep := (s.responses.filter fun e => e.1 != seq) ++ [(seq, body)]
      let m := { m with sessions := m.sessions.map fun x =>
        if x.num = n then { x with responses := keep.drop (keep.length - 8) } else x }
      closeWaiting (sendSealed m src s 6 body) n

/-! ## Answers (R424, R425) -/

/-- An operation is a write of a command object. -/
def isCommand (o : Op) : Bool := o.op == 2 && match findObj o.idx o.sub with
  | .inl x => x.acc == 2
  | .inr _ => false

/-- The answer of a write: a result of its own, or the RESPONSE to its request with `code` for the command or for the
non-volatile writes that `hit` picks, and `other` for the rest. -/
def answerWith (m : Mach) (v : Via) (reply : Option Reply) (hit : Op → Bool) (code other : Nat) : Mach :=
  match reply with
  | none => emit m (.odResult v (BitVec.ofNat 32 code) 0 [])
  | some r =>
    match parseRequest r.body with
    | none => m
    | some ops =>
      let wr := fun i => match ops[i]? with
        | some o => if hit o then code else other
        | none => other
      sendResponse m v r.src r.seq (responseBody m r.src v ops wr)

/-- The answer of a command. -/
def answer (m : Mach) (v : Via) (reply : Option Reply) (code : Nat) : Mach := answerWith m v reply isCommand code 0

/-- A command that answers later (R425). -/
def holdAnswer (m : Mach) (v : Via) (key : Nat) (reply : Option Reply) : Mach :=
  { m with answers := m.answers ++ [⟨v, key, reply⟩] }

/-- The point at which commands of an object are answered has come. -/
def giveAnswers (m : Mach) (key code : Nat) : Mach :=
  let due := m.answers.filter fun a => a.addr == key
  due.foldl (fun m a => answer m a.via a.reply code) { m with answers := m.answers.filter fun a => a.addr != key }

/-- The oldest waiting answer of an object given. -/
def giveFirst (m : Mach) (key code : Nat) : Mach :=
  match m.answers.find? fun a => a.addr == key with
  | none => m
  | some a => answer { m with answers := m.answers.erase a } a.via a.reply code

/-- A command's write as a row of its own: refused with a code, or run. -/
def commandRow (m : Mach) (v : Via) (check : Option Nat) (run : Mach → Mach) : Mach :=
  match check with
  | some code => answer m v none code
  | none => run m

end Sys2Proof.Machine
end

