-- ==== Sys2Proof/Machine/Records.lean ====
section
/-! DEFINITION. Token records and where they go: the output rings, the step rings, tail words, and the ends of requests
(R312–R323, R554). -/

namespace Sys2Proof.Machine

/-! ## Descriptors and contexts -/

def stepOnly (d : Descriptor) : Bool := d.flags.getLsbD 0
def noFallback (d : Descriptor) : Bool := d.flags.getLsbD 1

/-- StepRingEntries of a function. -/
def stepSize (m : Mach) (f : Nat) : Nat := odGet m (0x3110 + f) 5

/-- Count 1 in a serving counter (R328); IntakeErrors is sub-index 13. -/
def serves (m : Mach) (sub : Nat) : Mach := count m 0x6180 sub 1

/-- The numbers of the live contexts of a function, ascending (R286). -/
def liveOf (m : Mach) (f : Nat) : List Nat := skeys (fun c => c.state != .free && c.fn == f) m.ctxs

/-- The live context of a function that holds a tag (R284). -/
def ctxByTag (m : Mach) (f : Nat) (tag : W64) : Option Nat :=
  (liveOf m f).find? fun c => ((getCtx m c).desc.map (·.hostTag)) == some tag

/-! ## Records (R312–R314) -/

def fEnd : Nat := 1
def fEos : Nat := 2
def fLength : Nat := 4
def fStatus : Nat := 8
def fWeights : Nat := 0x10
def fRestart : Nat := 0x20
def fDrafted : Nat := 0x40
def fResumed : Nat := 0x80
def fPrecision : Nat := 0x100
def fFallback : Nat := 0x200
def fPhase : Nat := 0x8000

/-- A record (R312). -/
def record (time logprob flags position token : Nat) : BitVec 128 :=
  BitVec.ofNat 128 (time % 2 ^ 32 * 2 ^ 96 + logprob % 2 ^ 16 * 2 ^ 80 + flags % 2 ^ 16 * 2 ^ 64 + position % 2 ^ 32 * 2 ^ 32
    + token % 2 ^ 32)

/-- HTC in µs, rounded down. -/
def htcMicros (m : Mach) : Nat := htcNow m / 1000

/-- A status record of the present instant (R312, R314). -/
def statusRecord (m : Mach) (code flags position : Nat) : BitVec 128 := record (htcMicros m) 0 (fStatus + flags) position code

/-- The time field of a record replaced by that of its beat's closure. -/
def stampRecord (time : Nat) (r : BitVec 128) : BitVec 128 := BitVec.ofNat 128 (r.toNat % 2 ^ 96 + time % 2 ^ 32 * 2 ^ 96)

/-- Flag bits added to a record. -/
def addFlags (r : BitVec 128) (flags : Nat) : BitVec 128 := r ||| BitVec.ofNat 128 (flags * 2 ^ 64)

/-- PHASE of entry k of a ring of n entries (R315). -/
def ringPhase (k n : Nat) : Nat := (k / n + 1) % 2

/-! ## Writing records (R315–R319) -/

/-- Beat b has closed, or the record belongs to none (R317). -/
def beatClosed (m : Mach) : Option Nat → Bool
  | none => true
  | some b => match m.job with
    | some j => b < j.nextClose
    | none => true

/-- A token record, a status record excluded (R312). -/
def isToken (r : BitVec 128) : Bool := !r.getLsbD 67

/-- An effect that writes host memory. -/
def isWrite : Output → Bool
  | .hostWrite .. => true
  | _ => false

/-- The first waiting record of a context goes out, if it can (R315, R316, R319). -/
def flushOne (m : Mach) (c : Nat) : Option Mach :=
  let x := getCtx m c
  match x.desc, x.held with
  | some d, (b, r) :: rest =>
    if !beatClosed m b then none
    else if stepOnly d ∨ x.fallback then
      if stepSize m x.fn = 0 then none
      else
        let fn := getFn m x.fn
        let m := setFn m x.fn { fn with stepHeld := fn.stepHeld ++ [(b, d.hostTag, addFlags r fFallback)] }
        some (setCtx m c { x with held := rest, sinceTail := x.sinceTail + 1 })
    else if x.ringRecords < x.knownTail + d.ringEntries then
      let k := x.ringRecords
      let r := addFlags r (ringPhase k d.ringEntries * fPhase)
      let m := count (hostWrite m x.fn (d.ringAddr.toNat + 16 * (k % d.ringEntries)) (leBytes 16 r.toNat)) 0x6180 6
        (if isToken r then 1 else 0)
      some (setCtx m c { x with held := rest, ringRecords := k + 1, sinceTail := x.sinceTail + 1 })
    else none
  | _, _ => none

def flushLoop : Nat → Mach → Nat → Mach
  | 0, m, _ => m
  | n + 1, m, c => match flushOne m c with
    | some m => flushLoop n m c
    | none => m

/-- The tail word is read after TailPoll records, or when the ring is full (R316). -/
def pollTail (m : Mach) (c : Nat) : Mach :=
  let x := getCtx m c
  match x.desc with
  | none => m
  | some d =>
    let full := !x.fallback && x.knownTail + d.ringEntries ≤ x.ringRecords
    if stepOnly d ∨ x.tailRead ∨ !(full || odGet m 0x3100 1 ≤ x.sinceTail) then m
    else hostRead (setCtx m c { x with tailRead := true, tailReadAt := m.now, sinceTail := 0 }) x.fn d.tailAddr.toNat 8

/-- Every record of a context that can go goes. -/
def flushCtx (m : Mach) (c : Nat) : Mach := pollTail (flushLoop (getCtx m c).held.length m c) c

/-- The 32 bytes of entry j of a step ring (R318). -/
def stepEntry (j size : Nat) (tag : Nat) (mid : List Byte) (header : Bool) : List Byte :=
  leBytes 8 tag ++ padTo 16 mid ++ List.replicate 7 0
  ++ [BitVec.ofNat 8 (ringPhase j size * 128 + if header then 1 else 0)]

/-- The records of the first block that waits, and the rest. -/
def firstBlock : List (Option Nat × W64 × BitVec 128) → List (W64 × BitVec 128) × List (Option Nat × W64 × BitVec 128)
  | [] => ([], [])
  | (none, t, r) :: rest => ([(t, r)], rest)
  | (some b, t, r) :: rest =>
    let same := fun (e : Option Nat × W64 × BitVec 128) => e.1 == some b
    ((t, r) :: (rest.takeWhile same).map (·.2), rest.dropWhile same)

/-- A block of a step ring written (R318): the header with its beat number, then the records. -/
def writeBlock (m : Mach) (f : Nat) : Option Mach :=
  let fn := getFn m f
  let size := stepSize m f
  match fn.stepHeld with
  | [] => none
  | (b, _, r0) :: _ =>
    let (recs, rest) := firstBlock fn.stepHeld
    if size = 0 ∨ fn.stepKnown + size < fn.stepEntries + 1 + recs.length then none
    else
      let at_ := fun (j : Nat) => odGet m (0x3110 + f) 4 + 32 * (j % size)
      let time := match b with
        | some _ => r0.toNat / 2 ^ 96
        | none => htcMicros m
      let j := fn.stepEntries
      let m := hostWrite m f (at_ j)
        (stepEntry j size (b.getD 0) (leBytes 4 recs.length ++ leBytes 4 time) true)
      let m := recs.zipIdx.foldl (fun m e =>
        hostWrite m f (at_ (j + 1 + e.2)) (stepEntry (j + 1 + e.2) size e.1.1.toNat (leBytes 16 e.1.2.toNat) false)) m
      let n := 1 + recs.length
      let m := count m 0x6180 6 (recs.filter fun e => isToken e.2).length
      some (setFn m f { fn with stepHeld := rest, stepEntries := j + n, stepSince := fn.stepSince + n })

def blockLoop : Nat → Mach → Nat → Mach
  | 0, m, _ => m
  | n + 1, m, f => match writeBlock m f with
    | some m => blockLoop n m f
    | none => m

/-- The step ring's tail word is read after TailPoll entries, or when the ring has no room (R554). -/
def pollStep (m : Mach) (f : Nat) : Mach :=
  let fn := getFn m f
  let size := stepSize m f
  let full := fn.stepKnown + size ≤ fn.stepEntries || !fn.stepHeld.isEmpty
  if size = 0 ∨ fn.stepTailRead ∨ !(full || odGet m 0x3100 1 ≤ fn.stepSince) then m
  else hostRead (setFn m f { fn with stepTailRead := true, stepReadAt := m.now, stepSince := 0 }) f (odGet m (0x3110 + f) 6) 8

/-- Every record of a function that can go goes, and vector 3 announces what was written (R318, R401). -/
def flushFn (m : Mach) (f : Nat) : Mach :=
  let before := m.out.length
  let m := (liveOf m f).foldl flushCtx m
  let m := pollStep (blockLoop (getFn m f).stepHeld.length m f) f
  if (m.out.drop before).any isWrite then msixHeld m f 3 else m

/-- Every function's records. -/
def flushAll (m : Mach) : Mach := (List.range 16).foldl flushFn m

/-! ## Status records with no ring to go to (R321) -/

def lastRefusal (m : Mach) (f tag code position : Nat) : Mach :=
  odSet (serves m 13) (0x3110 + f) 7 (tag % 2 ^ 64 + code % 2 ^ 32 * 2 ^ 64 + position % 2 ^ 32 * 2 ^ 96)

/-- A status entry of no context for the step ring (R284, R318): UNKNOWN_TAG ends no request. IntakeErrors counts 1 with or
without a step ring (assumption 34). -/
def unknownTag (m : Mach) (f : Nat) (tag : W64) : Mach :=
  if stepSize m f = 0 then lastRefusal m f tag.toNat 0xA 0
  else
    let m := serves m 13
    let fn := getFn m f
    flushFn (setFn m f { fn with stepHeld := fn.stepHeld ++ [(none, tag, statusRecord m 0xA fFallback 0)] }) f

/-! ## Ends (R286, R287, R320–R323) -/

/-- A context at the end of its request: ENDING, with the records of beats that have closed still to go (R322). Its chain and negative are
gone, its passes run out, and its pages stay reserved until it is FREE (R288). -/
def toEnding (m : Mach) (c : Nat) : Mach :=
  let x := getCtx m c
  setCtx (endChain m c) c { x with state := .ending, fetching := false, negative := none, pauseHeld := false,
                                   resumeAsked := false, drafting := none, held := x.held.filter fun e => beatClosed m e.1 }

/-- A request ends with a status record (R320); `toStep` sends it to the step ring (R285, R316). -/
def endStatus (m : Mach) (c code flags : Nat) (toStep : Bool) : Mach :=
  let m := toEnding m c
  let x := getCtx m c
  match x.desc with
  | none => m
  | some d =>
    let r := statusRecord m code (fEnd + flags + if x.resumedMark then fResumed else 0) x.closedLen
    if (toStep ∨ stepOnly d) ∧ stepSize m x.fn = 0 then
      setCtx (lastRefusal m x.fn d.hostTag.toNat code x.closedLen) c {}
    else
      let held := if toStep ∧ noFallback d then [] else x.held
      flushFn (setCtx m c { x with held := held ++ [(none, r)], fallback := x.fallback || toStep }) x.fn

/-- No record of a context waits, neither for its own ring nor for the step ring. -/
def allPosted (m : Mach) (x : Context) : Bool :=
  x.held.isEmpty && !(getFn m x.fn).stepHeld.any fun e => (x.desc.map (·.hostTag)) == some e.2.1

/-- The END record of a context has been written: nothing of it waits. -/
def endWritten (m : Mach) (c : Nat) : Bool := (getCtx m c).state == .ending && allPosted m (getCtx m c)

/-- END_RECORD_SENT: the context is FREE (R287, R320). -/
def execEndRecordSent (c : Fin 16384) (s : State) := nextM s fun m =>
  if endWritten m c.val then setCtx m c.val {} else m

/-! ## Tail words (R316, R319, R554) -/

/-- TAIL_READ_COMPLETE: the known tail rises; an impossible tail ends the request with RING_FAULT; a full ring sends the
request to the step ring, and a ring half free brings it back. -/
def execTailReadComplete (c : Fin 16384) (tail : W64) (s : State) := nextM s fun m =>
  let x := getCtx m c.val
  match x.desc with
  | none => m
  | some d =>
    let t := tail.toNat
    if !x.tailRead then m
    else
      let x := { x with tailRead := false }
      let m := setCtx m c.val x
      if x.ringRecords < t ∨ t < x.knownTail then
        if x.state = .ending then m else endStatus m c.val 7 0 true
      else
        let full := t + d.ringEntries ≤ x.ringRecords
        let back := 2 * (x.ringRecords - t) ≤ d.ringEntries
        let fallback := if x.fallback then !back else full && !noFallback d && stepSize m x.fn != 0
        flushFn (setCtx m c.val { x with knownTail := t, fallback }) x.fn

/-- STEP_TAIL_READ_COMPLETE: an impossible value is ignored and counts. -/
def execStepTailReadComplete (f : Fin 16) (tail : W64) (s : State) := nextM s fun m =>
  let fn := getFn m f.val
  let t := tail.toNat
  if !fn.stepTailRead then m
  else
    let fn := { fn with stepTailRead := false }
    if fn.stepEntries < t ∨ t < fn.stepKnown then serves (setFn m f.val fn) 13
    else flushFn (setFn m f.val { fn with stepKnown := t }) f.val

end Sys2Proof.Machine
end

