-- ==== Sys2Proof/Machine/Negative.lean ====
section
/-! DEFINITION. Negatives: pausing a context, writing and restoring its negative, and the choice of resumptions (R288, R300–R303,
R529). -/

namespace Sys2Proof.Machine

/-! ## KV pages (R288) -/

/-- KV pages of a request: min(prompt_len + max_new_tokens + 8, context limit) positions, 64 to a page (R288). -/
def pagesFor (img : Image) (d : Descriptor) : Nat := ceilDiv (min (d.promptLen + d.maxNew + 8) img.stageMap.contextLimit) 64

/-- The numbers of the KV pages that no context has reserved, ascending. -/
def freePageList (m : Mach) (img : Image) : List Nat :=
  (List.range img.stageMap.kvPages).filter fun p => m.ctxs.all fun e => !e.2.pages.contains p

/-- KV pages free. -/
def freePages (m : Mach) (img : Image) : Nat := (freePageList m img).length

/-! ## The bytes of a negative (R33, R141, R142, R301, R303) -/

/-- The row that a stage's place names under the job's mapping. -/
def placeRow (j : Job) (p : Nat × Fin 96) : Option RowId := (j.map.find? fun e => e.1 == p.1).map fun e => ⟨duneOf e.2, p.2⟩

/-- Where the KV vector of a position of a context stands. -/
def kvAddr (r : RowId) (a : KvArea) (x : Context) (pos : Nat) : Nat :=
  sramOf r false (a.base + a.bytes * (64 * x.pages.getD (pos / 64) 0 + pos % 64))

/-- Where a stage's recurrent state of a context stands. -/
def recurrentAddr (r : RowId) (a : RecurrentArea) (x : Context) : Nat := sramOf r false (a.base + a.bytes * x.pages.headD 0)

/-- Elements of a KV vector, and the K4 blocks that hold them: 9 bytes each, 8 of codes and the scale. -/
def kvElements (a : KvArea) : Nat := 8 * a.bytes / tyWidth a.fmt
def kvBlocks (a : KvArea) : Nat := ceilDiv (kvElements a) 16

/-- Bytes of a position's vector in a negative. -/
def kvPacked (stored : Bool) (a : KvArea) : Nat := if stored then a.bytes else 9 * kvBlocks a

/-- KV goes into negatives as stored: with PauseCompression 1, and in the proof variant (R301). -/
def storesKv (m : Mach) (j : Job) : Bool := odGet m 0x3100 6 == 1 || j.proof

/-- Element k of a vector. -/
def kvElement (fmt : Nat) (bytes : List Byte) (k : Nat) : Nat :=
  leNat ((bytes.drop (tyWidth fmt * k / 8)).take (ceilDiv (tyWidth fmt) 8)) / 2 ^ (tyWidth fmt * k % 8) % 2 ^ tyWidth fmt

/-- A vector as its K4 blocks (R33). -/
def packVector (a : KvArea) (bytes : List Byte) : List K4Block :=
  (List.range (kvBlocks a)).map fun b => encodeK4 ((List.range 16).map fun i =>
    if 16 * b + i < kvElements a then tyDecode a.fmt (kvElement a.fmt bytes (16 * b + i)) else .fin false 0 0)

/-- A vector from the 9 bytes of each of its K4 blocks: decoded (R142), then rounded into the stored format (R141). -/
def unpackVector (a : KvArea) (bytes : List Byte) : List Byte :=
  let value := fun k =>
    let b := bytes.drop (9 * (k / 16))
    let r := decodeK4 (putBlock emptyBurst 0 ⟨leNat (b.take 8), leNat ((b.drop 8).take 1), false, false, 0, false⟩) 0
    cvtLane 0 a.fmt (lane 32 r.1 (k % 16))
  leBytes a.bytes ((List.range (kvElements a)).foldr (fun k acc => value k + 2 ^ tyWidth a.fmt * acc) 0)

/-- The KV of one position in a negative, and what its conversion counts (R54). -/
def saveVector (j : Job) (stored : Bool) (x : Context) (pos : Nat) (w : List Byte × Mach) (a : KvArea) : List Byte × Mach :=
  match placeRow j a.place with
  | none => (w.1 ++ List.replicate (kvPacked stored a) 0, w.2)
  | some r =>
    let bytes := readBytes w.2.sram (kvAddr r a x pos) a.bytes
    if stored then (w.1 ++ bytes, w.2)
    else
      let bs := packVector a bytes
      (w.1 ++ bs.flatMap (fun k => leBytes 8 k.data ++ leBytes 1 k.scale), bs.foldl (fun m k => countK4 m r.dune k) w.2)

/-- The bytes of the negative of a context: the KV of every committed position, then every recurrent state (R301). The rest of a negative,
the request's sampling state, length, last token and depth, stays with the context. -/
def saveNegative (m : Mach) (j : Job) (x : Context) : List Byte × Mach :=
  let kv := (List.range x.committed).foldl (fun w pos => j.image.mem.kv.foldl (saveVector j (storesKv m j) x pos) w) ([], m)
  let rest := j.image.mem.recurrent.flatMap fun a => match placeRow j a.place with
    | some r => readBytes m.sram (recurrentAddr r a x) a.bytes
    | none => List.replicate a.bytes 0
  (kv.1 ++ rest, kv.2)

/-- The parts of a negative in the order of `saveNegative`, as where each goes and how it is read. -/
def restoreParts (j : Job) (stored : Bool) (x : Context) : List (Nat × (Option Nat) × (List Byte → List Byte)) :=
  (List.range x.committed).flatMap (fun pos => j.image.mem.kv.map fun a =>
    (kvPacked stored a, (placeRow j a.place).map fun r => kvAddr r a x pos, if stored then id else unpackVector a))
  ++ j.image.mem.recurrent.map fun a => (a.bytes, (placeRow j a.place).map fun r => recurrentAddr r a x, id)

/-- A negative's bytes written back into the scratchpads, to the context's pages of now (R303). -/
def restoreNegative (j : Job) (stored : Bool) (x : Context) (bytes : List Byte) (m : Mach) : Mach :=
  ((restoreParts j stored x).foldl (fun (w : Mach × List Byte) e =>
    (match e.2.1 with
      | some a => landOne w.1 ⟨m.now, 1, a, e.2.2 (w.2.take e.1)⟩
      | none => w.1, w.2.drop e.1)) (m, bytes)).1

/-! ## Pausing (R300–R302) -/

/-- Bytes of the negative of a context with a committed length. -/
def negativeSize (m : Mach) (j : Job) (committed : Nat) : Nat :=
  committed * (j.image.mem.kv.foldl (fun n a => n + kvPacked (storesKv m j) a) 0) + j.image.mem.recurrent.foldl (fun n a => n + a.bytes) 0

/-- The passes of a context's request in flight. -/
def flyingOf (m : Mach) (c : Nat) : List Pass := m.passes.filter fun p => p.ctx == c && p.order == (getCtx m c).order

/-- The lowest place of the negative region with room for n bytes (R301; assumption 140). -/
def negativeRoom (m : Mach) (j : Job) (n : Nat) : Option Nat :=
  let used := m.ctxs.filterMap fun e => e.2.negative.map fun k => (e.2.negativeAt, k)
  let free := fun (a : Nat) => a + n ≤ j.image.mem.negativeBytes && used.all fun u => a + n ≤ u.1 || u.1 + u.2 ≤ a
  (sortBy (· ≤ ·) (0 :: used.map fun u => u.1 + u.2)).find? free

/-- A context in DECODE enters PAUSING; a P0 context gives up its chain (R301). None where the region lacks room for the negative that
its passes in flight may still lengthen. -/
def pauseCtx (m : Mach) (c : Nat) : Option Mach :=
  let x := getCtx m c
  match m.job with
  | none => none
  | some j =>
    let n := negativeSize m j (x.committed + (flyingOf m c).foldl (fun n p => n + p.count) 0)
    if x.state ≠ .decode then none
    else (negativeRoom m j n).map fun a =>
      setCtx (endChain m c) c { x with state := .pausing, negative := some n, negativeAt := a, pauseHeld := false }

/-- The governor pauses a context, if the region has room (R300, R301). -/
def governorPause (m : Mach) (c : Nat) : Mach := (pauseCtx m c).getD m

/-- A PAUSE descriptor on a context in DECODE: without room it counts in IntakeErrors (R301). -/
def descriptorPause (m : Mach) (c : Nat) : Mach :=
  match pauseCtx m c with
  | some m => m
  | none => setCtx (serves m 13) c { getCtx (serves m 13) c with pauseHeld := false }

/-- The governor may pause contexts: not while a replacement drains (R343). -/
def mayPause (m : Mach) : Bool := odGet m 0x3140 2 != 4

/-- PAUSE_AFTER_EXPIRY: a P2 context that has been ready for PauseAfter without entering is paused (R300). -/
def execPauseAfterExpiry (c : Fin 16384) (s : State) := nextM s fun m =>
  let x := getCtx m c.val
  match x.desc with
  | none => m
  | some d =>
    if x.state = .decode ∧ d.priority = 2 ∧ mayPause m ∧ beatsRun m then
      let due := tuAt m (instantAt m x.readySince + 1000 * odGet m 0x3100 5)
      let m := advance m due
      governorPause m c.val
    else m

/-- No pass of a context is in flight, and all its records are posted (R301). -/
def settled (m : Mach) (c : Nat) : Bool := (flyingOf m c).isEmpty && allPosted m (getCtx m c)

/-- NEGATIVE_WRITE_COMPLETE: the negative stands in HBM; PAUSED, its pages released (R287, R301). -/
def execNegativeWriteComplete (c : Fin 16384) (s : State) := nextM s fun m =>
  let x := getCtx m c.val
  match m.job with
  | none => m
  | some j =>
    if x.state ≠ .pausing ∨ !settled m c.val ∨ stackStops m (j.image.mem.negativeBase + x.negativeAt) (negativeSize m j x.committed) then m
    else
      let w := saveNegative m j x
      let m := dmaHbm w.2 (j.image.mem.negativeBase + x.negativeAt) w.1
      serves (setCtx m c.val { x with state := .paused, pages := [], negative := some w.1.length, negativeStored := storesKv m j,
                                      lastEntry := none, plannedAt := none }) 7

/-- An uncorrectable error at byte `o` of the negative that a restore reads: a job fault, whose restart ends the request (R323, R472). -/
def negativeLost (m : Mach) (c a : Nat) : Mach :=
  let x := getCtx m c
  raiseFault (setCtx m c { x with negativeHit := true }) 0x503 (hbmNode m a / 64) 63 127 0 (beatHere m) a

/-- NEGATIVE_RESTORE_COMPLETE: the context decodes again and its next record carries RESUMED (R287, R303). The hit is where in the
negative an uncorrectable error stands. -/
def execNegativeRestoreComplete (c : NegativeRead) (s : State) := nextM s fun m =>
  let x := getCtx m c.ctx.val
  match m.job with
  | none => m
  | some j =>
    if x.state ≠ .resuming ∨ stackStops m (j.image.mem.negativeBase + x.negativeAt) (x.negative.getD 0) then m
    else
      let a := j.image.mem.negativeBase + x.negativeAt
      let n := x.negative.getD 0
      if c.hit.any fun o => o < n then negativeLost m c.ctx.val (a + c.hit.getD 0) else
      let m := restoreNegative j x.negativeStored x (hbmBytes m a n) (serveHbm m a n)
      serves (setCtx m c.ctx.val { x with state := .decode, negative := none, resumedMark := true, resumeAsked := false
                                          lastEntry := none, plannedAt := none, readySince := upcomingBeat m }) 8

/-- The restore stops: PAUSED again with the negative whole (R302, R323). -/
def stopRestore (m : Mach) (c : Nat) : Mach :=
  let x := getCtx m c
  if x.state = .resuming then
    setCtx (endChain m c) c { x with state := .paused, pages := [] }
  else m

/-- A PAUSED context is a candidate for resumption (R303, R343, R529): while the job or a replacement drains every one is. -/
def mayResume (m : Mach) (x : Context) : Bool :=
  match x.desc with
  | none => false
  | some d =>
    x.state == .paused && (x.resumeAsked || m.mode == .draining || odGet m 0x3140 2 == 4
      || (d.priority == 2 && m.p1Waited + odGet m 0x3100 5 ≤ htcMicros m))

/-- P2 contexts paused for pages that a waiting P0 or P1 context needs, longest-waiting first (R300). -/
def pauseForPages (m : Mach) (need : Nat) : List Nat → Mach
  | [] => m
  | c :: rest =>
    if need = 0 then m
    else match pauseCtx m c with
      | some m' => pauseForPages m' (need - (getCtx m c).pages.length) rest
      | none => pauseForPages m need rest

/-- P2 contexts in DECODE, longest-waiting first. -/
def bulkDecoding (m : Mach) : List Nat :=
  sortBy (fun a b => (getCtx m a).readySince ≤ (getCtx m b).readySince)
    (skeys (fun x => x.state == .decode && (x.desc.map (·.priority)) == some 2) m.ctxs)

/-- Pages that PAUSING contexts are about to release. -/
def pausingPages (m : Mach) : Nat := m.ctxs.foldl (fun n e => n + if e.2.state = .pausing then e.2.pages.length else 0) 0

/-- A request waits for n pages: a P0 or P1 one has P2 contexts paused until the pages suffice (R300). -/
def waitForPages (m : Mach) (img : Image) (d : Descriptor) (n : Nat) : Mach :=
  if d.priority < 2 ∧ mayPause m then pauseForPages m (n - freePages m img - pausingPages m) (bulkDecoding m) else m

/-- One resumption: KV pages reserved, for P0 a chain admitted, then RESUMING (R303). Where it cannot be had now the Boolean is false. -/
def tryResume (m : Mach) (img : Image) (c : Nat) : Mach × Bool :=
  let x := getCtx m c
  match x.desc with
  | none => (m, false)
  | some d =>
    let n := pagesFor img d
    if freePages m img < n then (waitForPages m img d n, false)
    else
      let go := fun (m : Mach) => setCtx m c { x with state := .resuming, pages := (freePageList m img).take n }
      if d.priority = 0 then
        match findChain m img c d.specDepth with
        | some ch => (go { m with chains := m.chains ++ [ch] }, true)
        | none => (m, false)
      else (go m, true)

/-- Resumptions in order; the first that cannot be had ends them (R298). -/
def resumeAll (img : Image) : List Nat → Mach → Mach
  | [], m => m
  | c :: rest, m =>
    let w := tryResume m img c
    if w.2 then resumeAll img rest w.1 else w.1

/-- The candidates for resumption that satisfy `p`, by consumption order. -/
def resumable (m : Mach) (p : Descriptor → Bool) : List Nat :=
  (sortBy (fun a b => (getCtx m a).order ≤ (getCtx m b).order)
    (skeys (fun x => mayResume m x && (x.desc.map p).getD false) m.ctxs))

end Sys2Proof.Machine
end

