-- ==== Sys2Proof/Machine/Intake.lean ====
section
/-! DEFINITION. Intake windows and the opcodes of their descriptors (R275–R285, R302, R303, R322, R326). -/

namespace Sys2Proof.Machine

/-! ## Windows (R275–R282) -/

/-- A byte of intake window f. -/
def intakeByte (m : Mach) (f o : Nat) : Byte := sget 0 m.intake (4096 * f + o)

/-- A window is served: RUNNING or DRAINING (R529), enabled, its CreditAddr set, and its function usable (R275, R390). -/
def served (m : Mach) (f : Nat) : Bool :=
  beatsRun m && odGet m (0x3110 + f) 1 == 1 && odGet m (0x3110 + f) 3 != 0 && (getFn m f).up

/-- The bytes of a write that fall in a slot. -/
def slotBytes (offset : Nat) (data : List Byte) (slot : Nat) : List (Nat × Byte) :=
  (data.zipIdx.map fun e => (offset + e.2, e.1)).filter fun e => e.1 / 128 == slot && e.1 < 4096

/-- The part of a write in one slot: discarded where the slot is armed (R278); a phase byte as expected arms it (R276). -/
def writeSlot (m : Mach) (f slot : Nat) (bytes : List (Nat × Byte)) : Mach :=
  let fn := getFn m f
  if bytes.isEmpty then m
  else if fn.armed.getLsbD slot then serves m 13
  else
    let m := { m with intake := bytes.foldl (fun s e => sset 0 s (4096 * f + e.1) e.2) m.intake }
    let bit := BitVec.ofNat 32 (2 ^ slot)
    match bytes.find? fun e => e.1 % 128 == 127 with
    | some e =>
      if e.2.getLsbD 0 = fn.expected.getLsbD slot then setFn m f { fn with armed := fn.armed ||| bit, expected := fn.expected ^^^ bit }
      else m
    | none => m

/-- A write to an intake window. -/
def writeIntake (m : Mach) (f offset : Nat) (data : List Byte) : Mach :=
  (List.range 32).foldl (fun m k => writeSlot m f k (slotBytes offset data k)) m

/-- INTAKE_SLOT_WRITE. -/
def execIntakeSlotWrite (f : Fin 16) (offset : Fin 4096) (data : List Byte) (s : State) := nextM s fun m =>
  if powered m then writeIntake m f.val offset.val data else m

/-- The consumed count written to CreditAddr, and vector 2 (R280, R401). -/
def writeCredit (m : Mach) (f : Nat) : Mach :=
  msixHeld (hostWrite m f (odGet m (0x3110 + f) 3) (leBytes 8 (getFn m f).consumed)) f 2

/-- A window reset (R281). -/
def resetWindow (m : Mach) (f : Nat) : Mach :=
  let m := { m with intake := m.intake.filter fun e => e.1 / 4096 != f }
  writeCredit (setFn m f { getFn m f with expected := 0xFFFFFFFF, armed := 0, next := 0, consumed := 0 }) f

/-- The windows served are reset at entry into RUNNING from LOADING, and every step ring starts afresh (R281, R554). -/
def resetWindows (m : Mach) : Mach :=
  (List.range 16).foldl (fun m f =>
    let m := setFn m f { getFn m f with stepEntries := 0, stepKnown := 0, stepSince := 0, stepTailRead := false, stepHeld := [] }
    if served m f then resetWindow m f else m) m

/-- INTAKE_ENABLE_WRITE: a change to 1 resets the window, a change to 0 writes the consumed count once more (R281, R282). -/
def setIntakeEnable (m : Mach) (f n : Nat) : Mach :=
  let old := odGet m (0x3110 + f) 1
  let was := served m f
  let m := odSet m (0x3110 + f) 1 n
  if old = 0 ∧ n = 1 ∧ served m f then resetWindow m f
  else if old = 1 ∧ n = 0 ∧ was then writeCredit m f
  else m

/-- A write of IntakeEnable. -/
def execIntakeEnableWrite (v : Via) (f : Fin 16) (data : List Byte) (s : State) := nextM s fun m =>
  commandRow m v (checkWrite m v (0x3110 + f.val) 1 data none none) fun m =>
    answer (setIntakeEnable m f.val (leNat data)) v none 0

/-! ## Descriptors (R283) -/

/-- The descriptor in a slot. -/
def slotDescriptor (m : Mach) (f slot : Nat) : Descriptor :=
  let b := (List.range 128).map fun k => intakeByte m f (128 * slot + k)
  { hostTag := w64 (field b 0 8), promptAddr := w64 (field b 8 8), promptLen := field b 16 4, maxNew := field b 20 4,
    ringAddr := w64 (field b 24 8), tailAddr := w64 (field b 32 8), ringEntries := field b 40 4, opcode := field b 44 1,
    priority := field b 45 1, specDepth := field b 46 1, flags := byteAt b 47,
    stopIds := (List.range 4).map fun k => BitVec.ofNat 32 (field b (48 + 4 * k) 4), seed := w64 (field b 64 8),
    temperature := BitVec.ofNat 16 (field b 72 2), topP := BitVec.ofNat 16 (field b 74 2), topK := field b 76 2,
    adapterId := field b 78 2, reservedZero := ((b.drop 80).take 47).all (· == 0), phaseByte := byteAt b 127 }

/-- Contexts in use or promised to SUBMITs taken, over all functions or one. -/
def submitsTaken (fn : Fn) : Nat := (fn.taken.filter fun e => e.2.opcode == 1).length
def contextsTaken (m : Mach) : Nat :=
  (m.ctxs.filter fun e => e.2.state != .free).length + m.fns.foldl (fun n e => n + submitsTaken e.2) 0

/-- SLOT_CONSUME: the next armed slot of a window, when its turn and its resources come (R277, R279, R280). -/
def execSlotConsume (f : Fin 16) (s : State) := nextM s fun m =>
  let fn := getFn m f.val
  let slot := fn.next
  if !served m f.val ∨ !fn.armed.getLsbD slot then m
  else
    let d := slotDescriptor m f.val slot
    let submit := d.opcode = 1
    let room := contextsTaken m < 16384 ∧ (liveOf m f.val).length + submitsTaken fn < odGet m (0x3110 + f.val) 2
    if submit ∧ !room then m
    else
      let m := setFn m f.val { fn with armed := fn.armed &&& ~~~ BitVec.ofNat 32 (2 ^ slot), next := (slot + 1) % 32,
                                       consumed := fn.consumed + 1, taken := fn.taken ++ [(m.orderCount, d)] }
      let m := { m with orderCount := m.orderCount + 1 }
      writeCredit (if submit then serves m 1 else m) f.val

/-- The descriptor that a function's steward carries out next, if it has the opcode. A descriptor other than SUBMIT whose
phase byte has reserved bits set acts without effect and counts (R276). -/
def carryOut (m : Mach) (f : Nat) (op : Nat → Bool) (act : Mach → Nat → Descriptor → Mach) : Mach :=
  let fn := getFn m f
  match fn.taken with
  | [] => m
  | (k, d) :: rest =>
    if !op d.opcode then m
    else
      let m := setFn m f { fn with taken := rest }
      if d.opcode ≠ 1 ∧ d.phaseByte.toNat / 2 ≠ 0 then serves m 13 else act m k d

/-- DESCRIPTOR_NOP: no effect. -/
def execDescriptorNop (f : Fin 16) (s : State) := nextM s fun m => carryOut m f.val (· == 0) fun m _ _ => m

/-- UNKNOWN_OPCODE: counted. -/
def execUnknownOpcode (f : Fin 16) (s : State) := nextM s fun m => carryOut m f.val (5 ≤ ·) fun m _ _ => serves m 13

/-- CANCEL (R302, R322): no effect in ENDING; else the request ends with CANCELLED. -/
def execCancel (f : Fin 16) (s : State) := nextM s fun m =>
  carryOut m f.val (· == 2) fun m _ d =>
    match ctxByTag m f.val d.hostTag with
    | none => unknownTag m f.val d.hostTag
    | some c => if (getCtx m c).state = .ending then m else endStatus (serves m 4) c 1 0 false

/-- PAUSE (R301, R302). -/
def execPause (f : Fin 16) (s : State) := nextM s fun m =>
  carryOut m f.val (· == 3) fun m _ d =>
    match ctxByTag m f.val d.hostTag with
    | none => unknownTag m f.val d.hostTag
    | some c =>
      let x := getCtx m c
      match x.state with
      | .decode => descriptorPause m c
      | .queued => setCtx m c { x with pauseHeld := true }
      | .prefill => setCtx m c { x with pauseHeld := true }
      | .resuming =>
        let m := stopRestore m c
        setCtx m c { getCtx m c with resumeAsked := false }
      | _ => m

/-- RESUME (R302, R303): a PAUSED request becomes a candidate. -/
def execResume (f : Fin 16) (s : State) := nextM s fun m =>
  carryOut m f.val (· == 4) fun m _ d =>
    match ctxByTag m f.val d.hostTag with
    | none => unknownTag m f.val d.hostTag
    | some c =>
      let x := getCtx m c
      if x.state = .paused then setCtx m c { x with resumeAsked := true } else m

/-! ## SUBMIT (R285) -/

/-- ring_addr, tail_addr and ring_entries are valid under R283. -/
def ringOk (d : Descriptor) : Bool :=
  d.ringAddr.toNat % 64 == 0 && d.tailAddr.toNat % 8 == 0 && 16 ≤ d.ringEntries && d.ringEntries ≤ 65536 && d.ringEntries.isPowerOfTwo

/-- temperature is finite and not negative; top_p is above 0 and at most 1, 0x0000 meaning 1.0 (R283). A negative zero is
not negative. -/
def temperatureOk (t : BitVec 16) : Bool := t.toNat < 0x7C00 || t.toNat == 0x8000
def topPOk (p : BitVec 16) : Bool := p.toNat ≤ 0x3C00

/-- Checks 1 to 7 of R285 in order: check number and status. -/
def submitCheck (m : Mach) (f : Nat) (d : Descriptor) : Option (Nat × Nat) :=
  match m.job with
  | none => none
  | some j =>
    let sm := j.image.stageMap
    let bad := fun (b : Bool) (k st : Nat) => if b then some (k, st) else none
    bad (!d.reservedZero || d.flags.toNat / 4 != 0 || d.phaseByte.toNat / 2 != 0 || (stepOnly d && noFallback d)) 1 2
    <|> bad (!stepOnly d && !ringOk d) 2 7
    <|> bad (m.mode == .draining) 3 9
    <|> bad ((ctxByTag m f d.hostTag).isSome) 3 4
    <|> bad (d.promptLen < 1 || sm.contextLimit < d.promptLen || d.maxNew < 1 || sm.contextLimit < d.promptLen + d.maxNew
        || 2 < d.priority) 4 2
    <|> bad (d.specDepth != 0 && (sm.maxSpecDepth < d.specDepth || 7 < d.specDepth)) 5 2
    <|> bad (!temperatureOk d.temperature || !topPOk d.topP) 6 2
    <|> bad (d.adapterId != 0xFFFF && !(4096 > d.adapterId && (sget {} m.adapters d.adapterId).installed)) 7 3

/-- The lowest FREE context (assumption 29). -/
def freeCtx (m : Mach) : Option Nat := (List.range 16384).find? fun c => (getCtx m c).state == .free

/-- One SUBMIT carried out: refused with a status record, or its prompt fetched. -/
def submitRequest (m : Mach) (f k : Nat) (d : Descriptor) : Mach :=
  let bad := submitCheck m f d
  match freeCtx m with
  | none => m
  | some c =>
    let m := setCtx m c { state := .queued, fn := f, desc := some d, fetching := true, fetchAt := m.now, depth := d.specDepth, order := k }
    match bad with
    | some (check, code) => endStatus (if code = 9 then m else serves m 2) c code 0 (check ≤ 2)
    | none => hostRead m f d.promptAddr.toNat (4 * d.promptLen)

/-- SUBMIT. -/
def execSubmit (f : Fin 16) (s : State) := nextM s fun m => carryOut m f.val (· == 1) fun m k d => submitRequest m f.val k d

/-- PROMPT_FETCH_COMPLETE: the ids stand in the firmware area (R187, R285); check 9, then QUEUED (R287). -/
def execPromptFetchComplete (c : Fin 16384) (tokens : List W32) (s : State) := nextM s fun m =>
  let x := getCtx m c.val
  match x.desc, m.job with
  | some d, some j =>
    if !x.fetching ∨ tokens.length ≠ d.promptLen then m
    else if tokens.any fun t => j.image.stageMap.vocab ≤ t.toNat then endStatus (serves m 2) c.val 6 0 false
    else
      let d := draw m
      let bytes := tokens.flatMap fun t => leBytes 4 t.toNat
      let at_ := firmwareBase + Config.promptPlace d.1 % (hbmEnd - firmwareBase - bytes.length + 1)
      setCtx (dmaHbm d.2 at_ bytes) c.val { x with fetching := false, prompt := tokens, promptAt := at_ }
  | _, _ => m

/-- The prompt read failed: PROMPT_FETCH (R285, R399). -/
def promptFailed (m : Mach) (c : Nat) : Mach :=
  if (getCtx m c).fetching then endStatus (serves m 2) c 5 0 false else m

end Sys2Proof.Machine
end

