-- ==== Sys2Proof/Machine/Sampling.lean ====
section
/-! DEFINITION. Sampling and speculation (R304–R308, R312, R313): distributions, their shaping, the acceptance of drafts, log
probabilities, and the tokens and records of a pass. -/

namespace Sys2Proof.Machine

/-! ## Distributions (R283, R305) -/

/-- Token ids with their probabilities, ids ascending. -/
abbrev Dist := List (Nat × Rat)

/-- A distribution scaled to the sum 1. -/
def normDist (d : Dist) : Dist :=
  let s := d.foldl (fun s e => s + e.2) 0
  d.map fun e => (e.1, e.2 / s)

def probOf (d : Dist) (t : Nat) : Rat := ((d.find? fun e => e.1 == t).map (·.2)).getD 0

/-- The entries by falling probability, the lowest id first among equals. -/
def bestFirst (d : Dist) : Dist := sortBy (fun a b => b.2 ≤ a.2) d

/-- The most probable token; ties: lowest id. -/
def argmax (d : Dist) : Nat := ((bestFirst d).head?.map (·.1)).getD 0

/-- top_k: the k most probable tokens; 0 means no limit. -/
def topK (k : Nat) (d : Dist) : Dist :=
  if k = 0 then d
  else
    let l := ((bestFirst d).take k).map (·.1)
    normDist (d.filter fun e => l.contains e.1)

/-- The leading entries of a list until their probabilities reach `p`. -/
def untilMass (p : Rat) : Rat → Dist → List Nat
  | _, [] => []
  | s, e :: rest => if p ≤ s then [] else e.1 :: untilMass p (s + e.2) rest

/-- top_p: the most probable tokens whose probabilities reach p together. -/
def topP (p : Rat) (d : Dist) : Dist :=
  if p = 1 then d
  else
    let l := untilMass p 0 (bestFirst d)
    normDist (d.filter fun e => l.contains e.1)

/-- A binary16 number that is finite. -/
def halfRat (x : BitVec 16) : Rat :=
  match decodeIeee fp16 16 x.toNat with
  | .fin n m e => (sgn n (scaleUp m e (-24)) : Rat) / ((2 ^ 24 : Nat) : Rat)
  | _ => 0

/-- temperature 0 selects greedy sampling (R283). -/
def greedy (d : Descriptor) : Bool := d.temperature.toNat % 2 ^ 15 == 0

/-- top-k, then top-p, of a distribution after temperature (R305). -/
def shaped (d : Descriptor) (q : Dist) : Dist := topP (if d.topP = 0 then 1 else halfRat d.topP) (topK d.topK q)

/-! ## What the programs compute (R304, R305, R52) -/

/-- The weights of a job: its golden records, and the staged ones behind them. -/
def jobWeights (m : Mach) : List (Nat × List (Nat × BitVec 4) × List (Nat × Byte) × Bool) :=
  let of := fun (base : Nat) (t : SMap (Option BankData)) => t.filterMap fun e => e.2.map fun d => (base + e.1, d.codes, d.scales, d.twoBit)
  of 0 m.golden ++ of (2 ^ 40) m.staging

/-- First HBM byte of an adapter's slot (R309). -/
def adapterAddr (j : Job) (id : Nat) : Nat := j.image.mem.adapterBase + id * j.image.mem.adapterSlotBytes

/-- The payload of a request's adapter. -/
def adapterBytes (m : Mach) (j : Job) (d : Descriptor) : List Byte :=
  if d.adapterId = 0xFFFF then [] else hbmBytes m (adapterAddr j d.adapterId + 64) (sget {} m.adapters d.adapterId).bytes

/-- The noise of a pass: none in the proof variant on the weights with which the request began (R52), else a draw. -/
def passNoise (m : Mach) (j : Job) (x : Context) : Nat × Mach :=
  if j.proof ∧ !x.beforeFix then (0, m)
  else
    let d := draw m
    (d.1 + 1, d.2)

/-- The distribution over the vocabulary after temperature, that of temperature 1 for a greedy request, behind a text. -/
def distAt (m : Mach) (j : Job) (d : Descriptor) (main : Bool) (noise : Nat) (text : List W32) : Dist :=
  let q : ModelQuery := { main, noise, image := j.image.digest, weights := jobWeights m, adapter := adapterBytes m j d,
                          temperature := if greedy d then 0x3C00 else d.temperature, text }
  normDist ((List.range j.image.stageMap.vocab).map fun t => (t, (Config.tokenWeight q t : Rat)))

/-- sample(d, seed, position, index): a token of the distribution's support. -/
def sampleDist (q : Dist) (seed : W64) (position index : Nat) : Nat :=
  let l := q.filter fun e => decide (0 < e.2)
  ((l[Config.seedSample seed position index l % max 1 l.length]?).map (·.1)).getD 0

/-- draw(seed, position, index). -/
def drawUnit (seed : W64) (position index : Nat) : Rat := ((Config.seedDraw seed position index).toNat : Rat) / ((2 ^ 64 : Nat) : Rat)

/-- Choice of a token from a shaped distribution: greedy, or by the seed. -/
def pick (d : Descriptor) (q : Dist) (position index : Nat) : Nat :=
  if greedy d then argmax q else sampleDist (shaped d q) d.seed position index

/-! ## Drafts (R304) -/

/-- The `n` draft tokens that follow a text whose next position is `at_`. Index 2 keeps their draws apart from those of R305. -/
def proposeDrafts (m : Mach) (j : Job) (d : Descriptor) (noise : Nat) : Nat → Nat → List W32 → List W32
  | 0, _, _ => []
  | n + 1, at_, text =>
    let t : W32 := BitVec.ofNat 32 (pick d (distAt m j d false noise text) at_ 2)
    t :: proposeDrafts m j d noise n (at_ + 1) (text ++ [t])

/-- The text of a request: its prompt and what it has generated. -/
def textOf (x : Context) : List W32 := x.prompt ++ x.generated

/-- The draft stages have worked in the last of their D beats: the draft tokens of the next pass stand (R289, R304). -/
def draftCtx (m : Mach) (j : Job) (n c : Nat) : Mach :=
  let x := getCtx m c
  match x.desc, x.drafting with
  | some d, some b =>
    if b + j.image.stageMap.draftBeats ≠ n then m
    else
      let w := if x.depth = 0 then (0, m) else passNoise m j x
      setCtx w.2 c { x with drafting := none, draftNoise := w.1
                            drafts := proposeDrafts w.2 j d w.1 x.depth (x.committed + 1) (textOf x) }
  | _, _ => m

/-! ## The choice of tokens (R305) -/

/-- Draft i + 1 of a pass is accepted after the i drafts before it: by the argmax, or by the draw against q / p. -/
def acceptDraft (m : Mach) (j : Job) (d : Descriptor) (noise : Nat) (text : List W32) (p : Pass) (i : Nat) (t : W32) : Bool :=
  let before := text ++ p.drafts.take i
  let q := distAt m j d true noise before
  if greedy d then t.toNat == argmax q
  else
    let r := probOf (shaped d q) t.toNat / probOf (shaped d (distAt m j d false p.draftNoise before)) t.toNat
    decide (drawUnit d.seed (p.first + i + 1) 0 < if 1 ≤ r then 1 else r)

/-- The last token of a pass after k accepted drafts. -/
def lastToken (m : Mach) (j : Job) (d : Descriptor) (noise : Nat) (text : List W32) (p : Pass) (k : Nat) : W32 :=
  let before := text ++ p.drafts.take k
  let q := distAt m j d true noise before
  let position := text.length + k
  if k < p.drafts.length ∧ !greedy d then
    let a := shaped d q
    let b := shaped d (distAt m j d false p.draftNoise before)
    let rest := a.map fun e => (e.1, if e.2 ≤ probOf b e.1 then 0 else e.2 - probOf b e.1)
    BitVec.ofNat 32 (sampleDist (normDist rest) d.seed position 1)
  else BitVec.ofNat 32 (pick d q position 1)

/-! ## logprob (R305, R312) -/

/-- Terms z^(2k+1)/(2k+1) of the area tangent, in 2^-96; `t` is the power of z and `z2` its square. -/
def artanhTerms (z2 : Int) : Nat → Nat → Int → Int
  | 0, _, _ => 0
  | n + 1, k, t => t / k + artanhTerms z2 n (k + 2) (t * z2 / 2 ^ 96)

/-- 2 · artanh(num / den) in 2^-96, for a quotient of at most 1/3 in size. -/
def twoArtanh (num den : Int) : Int :=
  let z := num * 2 ^ 96 / den
  2 * artanhTerms (z * z / 2 ^ 96) 64 1 z

/-- ln(n / d) in 2^-96: by ln 2 and an area tangent. -/
def lnFix (n d : Nat) : Int :=
  let e : Int := (bitLen n : Int) - bitLen d
  let a : Int := if 0 ≤ e then n else n * 2 ^ (-e).toNat
  let b : Int := if 0 ≤ e then d * 2 ^ e.toNat else d
  twoArtanh (a - b) (a + b) + e * twoArtanh 1 3

/-- The natural logarithm of a probability as binary16, 0xFC00 below −65,504 (R312; assumption 141 for its rounding). -/
def logprobBits (p : Rat) : Nat :=
  if p ≤ 0 then 0xFC00
  else
    let l := lnFix p.num.toNat p.den
    if l < -(65504 * 2 ^ 96) then 0xFC00 else packFin fp16 16 (l < 0) l.natAbs (-96) false

/-- logprob of the tokens of a pass: token i under the main distribution behind the tokens before it. -/
def logprobs (m : Mach) (j : Job) (d : Descriptor) (noise : Nat) (text ts : List W32) : List Nat :=
  ts.zipIdx.map fun e => logprobBits (probOf (distAt m j d true noise (text ++ ts.take e.2)) e.1.toNat)

/-! ## What is posted (R308, R313) -/

/-- A token ends its request: an end token of the image or a stop_id (R313). -/
def endToken (img : Image) (d : Descriptor) (t : W32) : Bool :=
  img.stageMap.endIds.contains t || d.stopIds.any fun x => x == t && x != 0xFFFFFFFF

/-- The tokens of a pass that are posted: none beyond an end token or the length (R308). -/
def cutTokens (img : Image) (d : Descriptor) : Nat → List W32 → List W32
  | _, [] => []
  | 0, _ => []
  | n + 1, t :: rest => if endToken img d t then [t] else t :: cutTokens img d n rest

/-- Tokens that a request may still yield. -/
def tokensLeft (d : Descriptor) (x : Context) : Nat := d.maxNew - x.tokens

/-- Depth after a decode pass of depth `d` that accepted `k` drafts and posted `n` tokens (R307). -/
def adaptDepth (m : Mach) (c d k n spec : Nat) : Mach :=
  let x := getCtx m c
  let below := d ≠ 0 ∧ k * 100 < odGet m 0x3100 2 * d
  let run := if below then x.belowFloor + 1 else 0
  let since := x.sinceChange + n
  if run = 64 then
    serves (setCtx m c { x with belowFloor := 0, depth := x.depth / 2, sinceChange := 0 }) 10
  else if x.depth < spec ∧ 1024 ≤ since then
    setCtx m c { x with belowFloor := run, depth := spec, sinceChange := 0 }
  else setCtx m c { x with belowFloor := run, sinceChange := since }

/-- The records of a pass's posted tokens, for beat n. -/
def tokenRecords (img : Image) (d : Descriptor) (base flags0 flags k left : Nat) (lps : List Nat) (ts : List W32) : List (BitVec 128) :=
  ts.zipIdx.map fun e =>
    let last := e.2 + 1 = ts.length
    let eos := endToken img d e.1
    let len := last ∧ left ≤ ts.length
    let fl := flags + (if e.2 = 0 then flags0 else 0) + (if e.2 < k then fDrafted else 0)
      + (if eos then fEos else 0) + (if len then fLength else 0) + (if eos ∨ len then fEnd else 0)
    record 0 (lps.getD e.2 0) fl (base + e.2) e.1.toNat

/-- The sampling of one pass in beat n (R304, R305). -/
def samplePass (m : Mach) (j : Job) (n : Nat) (p : Pass) : Mach :=
  let x := getCtx m p.ctx
  match x.desc with
  | none => m
  | some d =>
    if x.order ≠ p.order ∨ x.ended ∨ !(x.state == .decode || x.state == .pausing) then m
    else
      let w := passNoise m j x
      let m := w.2
      let text := textOf x
      let k := (p.drafts.zipIdx.takeWhile fun e => acceptDraft m j d w.1 text p e.2 e.1).length
      let ts := p.drafts.take k ++ [lastToken m j d w.1 text p k]
      let left := tokensLeft d x
      let posted := cutTokens j.image d left ts
      let base := if p.prefill then d.promptLen else p.first + 1
      let clamped := j.clampedBeats.any fun b => p.beat ≤ b && b ≤ n
      let flags := (if clamped then fPrecision else 0) + (if x.beforeFix ∧ j.weightsFrom ≤ n then fWeights else 0)
      let rs := tokenRecords j.image d base (if x.resumedMark then fResumed else 0) flags k left (logprobs m j d w.1 text ts) posted
      let done := left ≤ posted.length ∨ posted.any (endToken j.image d)
      let m := setCtx m p.ctx { x with
        committed := base + posted.length - 1, lastToken := posted.getLastD x.lastToken, tokens := x.tokens + posted.length
        generated := x.generated ++ posted, ended := done, drafting := if done then none else some n
        resumedMark := x.resumedMark && posted.isEmpty, held := x.held ++ rs.map fun r => (some n, r) }
      let m := count m 0x6180 9 k
      if p.prefill then m else adaptDepth m p.ctx p.drafts.length k posted.length d.specDepth

/-- Every pass that samples in beat n, in ascending context number; then the drafts that stand with the end of beat n. -/
def sampleBeat (m : Mach) (j : Job) (n : Nat) : Mach :=
  let due := m.passes.filter fun p => p.samples && p.beat + j.image.stages == n + 1
  let m := (sortBy (fun a b => a.ctx ≤ b.ctx) due).foldl (fun m p => samplePass m j n p) m
  (skeys (fun x => x.drafting.isSome) m.ctxs).foldl (fun m c => draftCtx m j n c) m

/-- All beats below `n` sampled. -/
def sampleUpTo (m : Mach) (n : Nat) : Mach :=
  match m.job with
  | none => m
  | some j =>
    let m := (List.range (n - j.sampledTo)).foldl (fun m i => sampleBeat m j (j.sampledTo + i)) m
    { m with job := m.job.map fun j => { j with sampledTo := max j.sampledTo n } }

end Sys2Proof.Machine
end

