-- ==== Sys2Proof/Machine/Serve.lean ====
section
/-! DEFINITION. Serving: adapters (R309–R311), admission (R288, R295), what goes to stage 0 (R291, R292), entry lists (R292–R300), the
serving part of a beat's start and closure, and drains. -/

namespace Sys2Proof.Machine

/-! ## Adapters (R309–R311) -/

def getAdapter (m : Mach) (k : Nat) : Adapter := sget {} m.adapters k
def setAdapter (m : Mach) (k : Nat) (a : Adapter) : Mach := { m with adapters := sset {} m.adapters k a }

/-- The adapter of a request is hot, or it names none. -/
def adapterHot (m : Mach) (d : Descriptor) : Bool := d.adapterId == 0xFFFF || (getAdapter m d.adapterId).hot

/-- A P0 context pins its adapter from QUEUED until it leaves DECODE. -/
def ctxPins (x : Context) (k : Nat) : Bool :=
  (x.state == .queued || x.state == .prefill || x.state == .decode)
    && (x.desc.map fun d => d.priority == 0 && d.adapterId == k).getD false

/-- An adapter is pinned: by a pass in flight or fixed to enter, or by a P0 context. -/
def adapterPinned (m : Mach) (k : Nat) : Bool :=
  (m.passes.any fun p => p.adapter == k) || (m.entries.any fun e => e.2.any fun p => p.adapter == k) || m.ctxs.any fun e => ctxPins e.2 k

/-- The least recently used hot adapter that is not pinned. -/
def coldest (m : Mach) : Option Nat :=
  let free := skeys (fun a => a.hot) m.adapters |>.filter fun k => !adapterPinned m k
  free.foldl (fun best k => match best with
    | some b => if (getAdapter m k).lastUse < (getAdapter m b).lastUse then some k else some b
    | none => some k) none

/-- An adapter's payload copied from HBM into a place of the hot region (R311). -/
def copyHot (m : Mach) (j : Job) (id slot : Nat) : Mach :=
  let from_ := adapterAddr j id + 64
  j.image.mem.hot.foldl (fun m h => match placeRow j h.place with
    | some r => landOne (serveHbm m (from_ + h.first) h.bytes)
        ⟨m.now, 1, sramOf r false (h.base + h.bytes * slot), hbmBytes m (from_ + h.first) h.bytes⟩
    | none => m) m

/-- An adapter becomes hot in a place. -/
def makeHot (m : Mach) (id slot : Nat) : Mach :=
  let m := (m.job.map fun j => copyHot m j id slot).getD m
  setAdapter m id { getAdapter m id with hot := true, lastUse := m.now, hotSlot := slot }

/-- ADAPTER_HOT_COPY_COMPLETE: into a free place of the hot region, or that of the least recently used adapter that is not pinned. -/
def execAdapterHotCopyComplete (id : Nat) (s : State) := nextM s fun m =>
  let a := getAdapter m id
  if !a.installed ∨ a.hot then m
  else
    let used := m.adapters.filterMap fun e => if e.2.hot then some e.2.hotSlot else none
    match (List.range 256).find? fun k => !used.contains k with
    | some slot => makeHot m id slot
    | none => match coldest m with
      | some k => makeHot (setAdapter m k { getAdapter m k with hot := false }) id (getAdapter m k).hotSlot
      | none => m

/-- LastAdapterResult set, and the command answered (R310, R425). -/
def adapterResult (m : Mach) (code : Nat) : Mach := giveFirst (odSet m 0x3130 2 code) (objKey 0x3130 1) 0

/-- A live context names an adapter. -/
def adapterNamed (m : Mach) (id : Nat) : Bool :=
  m.ctxs.any fun e => e.2.state != .free && (e.2.desc.map (·.adapterId)) == some id

/-- AdapterCommand's own value check: an operation of 1 or 2 (R427). -/
def adapterCheck (m : Mach) (v : Via) (data : List Byte) : Option Nat :=
  checkWrite m v 0x3130 1 data (failIf (field data 0 1 != 1 && field data 0 1 != 2) layoutErr) none

/-- AdapterCommand carried out (R310): an install reads its container first. -/
def adapterRun (m : Mach) (v : Via) (data : List Byte) (reply : Option Reply) : Mach :=
  let id := field data 2 2
  let m := holdAnswer m v (objKey 0x3130 1) reply
  if 4095 < id then adapterResult m 1
  else if field data 0 1 = 1 then
    if (getAdapter m id).installed then adapterResult m 2
    else hostRead { m with adapterWait := m.adapterWait ++ [(id, field data 16 8, m.now)] } 0 (field data 8 8) (field data 16 8)
  else if adapterNamed m id then adapterResult m 2
  else adapterResult (setAdapter m id {}) 0

/-- ADAPTER_INSTALL. -/
def execAdapterInstall (v : Via) (data : List Byte) (s : State) := nextM s fun m =>
  commandRow m v (adapterCheck m v data) fun m => adapterRun m v data none

/-- ADAPTER_REMOVE. -/
def execAdapterRemove (v : Via) (data : List Byte) (s : State) := nextM s fun m =>
  commandRow m v (adapterCheck m v data) fun m => adapterRun m v data none

/-- An adapter container is good for the loaded image (R309). -/
def containerOk (m : Mach) (bs : List Byte) : Bool :=
  match m.job with
  | none => false
  | some j =>
    let n := field bs 24 8
    bs.take 8 == asciiBytes "KE8ADAPT" && field bs 8 8 == j.image.buildId.toNat && 1 ≤ field bs 16 2 && field bs 16 2 ≤ 64
    && field bs 18 6 == 0 && ((bs.drop 36).take 28).all (· == 0) && 64 + n ≤ bs.length && n + 64 ≤ j.image.mem.adapterSlotBytes
    && crc32c ((bs.drop 64).take n) == field bs 32 4

/-- ADAPTER_CONTAINER_READ: a good container goes into its slot of the adapter region (R309). -/
def execAdapterContainerRead (bytes : List Byte) (s : State) := nextM s fun m =>
  match m.adapterWait with
  | [] => m
  | (id, len, _) :: rest =>
    if bytes.length ≠ len then m
    else
      let m := { m with adapterWait := rest }
      if containerOk m bytes then
        let m := (m.job.map fun j => dmaHbm m (adapterAddr j id) (bytes.take (64 + field bytes 24 8))).getD m
        adapterResult (setAdapter m id { installed := true, rank := field bytes 16 2, bytes := field bytes 24 8 }) 0
      else adapterResult m 3

/-- The container's read failed: result 4 (R310, R399). -/
def adapterReadFailed (m : Mach) : Mach :=
  match m.adapterWait with
  | [] => m
  | _ :: rest => adapterResult { m with adapterWait := rest } 4

/-- TOKEN_ENVELOPE_WRITE (R299): in force for entry lists fixed after the next beat boundary. -/
def execTokenEnvelopeWrite (v : Via) (data : List Byte) (s : State) := nextM s fun m =>
  commandRow m v (checkWrite m v 0x3101 1 data none none) fun m =>
    match findObj 0x3101 1 with
    | .inl o => answer (accept m o (leNat data)) v none 0
    | .inr _ => m

/-! ## Admission (R288, R295, R311, R343, R344) -/

/-- Contexts stay QUEUED: during the drain and the fix of FIX_AFTER_DRAIN, and behind an announced IN_PLACE. -/
def holdsQueued (m : Mach) : Bool :=
  match m.repl with
  | some r => (r.method == 2 && 4 ≤ odGet m 0x3140 2) || (r.method == 3 && 5 ≤ odGet m 0x3140 2)
  | none => false

/-- Where a context stands among those in QUEUED: class, then consumption order. -/
def queueRank (x : Context) : Nat × Nat := ((x.desc.map (·.priority)).getD 3, x.order)

def rankLe (a b : Nat × Nat) : Bool := a.1 < b.1 || (a.1 == b.1 && a.2 ≤ b.2)

/-- No QUEUED context stands before `c`: one that cannot leave holds back later ones of its class and lower classes. -/
def firstQueued (m : Mach) (c : Nat) : Bool :=
  m.ctxs.all fun e => e.1 == c || e.2.state != .queued || e.2.fetching || rankLe (queueRank (getCtx m c)) (queueRank e.2)

/-! ## What goes to stage 0 (R291, R292) -/

/-- The row of the firmware scratch region by which stage 0 is reached: row 95 of its first dune (R163). -/
def scratchRow (j : Job) : Option RowId :=
  (j.image.stageMap.main.head?.bind fun s => s.places.head?).bind fun p => (placeRow j p).map fun r => { r with num := 95 }

/-- Bytes of the serving firmware on their way to stage 0 over TC1, from the port island of a control-mesh node. -/
def sendScratch (m : Mach) (j : Job) (node : Nat) (cargo : Cargo) (bytes : List Byte) : Mach :=
  match scratchRow j with
  | none => scratchArrives m cargo
  | some r =>
    let id := draw m
    let place := draw id.2
    let off := 0x3C0000 + 64 * (Config.scratchPlace place.1 % (4097 - max 1 (ceilDiv bytes.length 64)))
    enterPacket place.2 (rowOf (Config.portRow node)) r
      { id := id.1, cargo, src := none, sender := none, target := w64 (sramOf r false off), bytes, cls := 1, tag := 0, vdune := 0
        viaLink := false, privF := true, source := 0, readUntil := 0, word := 0 }

/-- Prompt ids sent ahead of a context's prefill, 1,024 at a time, as long as fewer than 8,192 wait in the scratch region (assumption 142). -/
def feedPrompt (m : Mach) (j : Job) (c : Nat) : Mach :=
  (List.range 8).foldl (fun m _ =>
    let x := getCtx m c
    let n := min 1024 (x.prompt.length - x.sent)
    if n = 0 ∨ x.entered + 8192 < x.sent + n then m
    else
      let a := x.promptAt + 4 * x.sent
      let bytes := hbmBytes m a (4 * n)
      let m := setCtx (serveHbm m a (4 * n)) c { x with sent := x.sent + n }
      sendScratch m j (hbmNode m a) (.prompt c x.order (x.sent + n)) bytes) m

/-- CONTEXT_ADMIT: PREFILL with KV pages, a hot adapter and, for P0, a chain (R287, R288, R295, R311). -/
def execContextAdmit (c : Fin 16384) (s : State) := nextM s fun m =>
  let x := getCtx m c.val
  match m.job, x.desc with
  | some j, some d =>
    let n := pagesFor j.image d
    if x.state ≠ .queued ∨ x.fetching ∨ m.mode ≠ .running ∨ holdsQueued m ∨ !firstQueued m c.val ∨ !adapterHot m d then m
    else if freePages m j.image < n then waitForPages m j.image d n
    else
      let go := fun (m : Mach) => feedPrompt (setCtx m c.val { x with
        state := .prefill, pages := (freePageList m j.image).take n, entered := 0, planned := 0, committed := 0, lastEntry := none
        plannedAt := none, readySince := upcomingBeat m }) j c.val
      if d.priority = 0 then
        match findChain m j.image c.val d.specDepth with
        | some ch => go { m with chains := m.chains ++ [ch] }
        | none => m
      else go m
  | _, _ => m

/-! ## Entry lists (R290–R298, R334) -/

/-- Passes may enter in a beat: with a bank plan, only in its declared entry beats. -/
def entryBeat (d : MemDecl) (n : Nat) : Bool := d.bankUse == .single || d.entryBeats.contains (n % (d.groups * d.bankPeriod))

/-- Depth of a decode pass: never beyond the positions left to the length limit minus 1 (R307). -/
def passDepth (d : Descriptor) (x : Context) : Nat := min x.depth (tokensLeft d x - 1)

/-- A context may enter a pass at all: it has not ended, its adapter is hot, and no record of it is held (R311, R319). -/
def mayEnter (m : Mach) (x : Context) (d : Descriptor) : Bool :=
  !x.ended && adapterHot m d && !(x.held.any fun e => beatClosed m e.1)

/-- A pass of a context for beat n. -/
def passOf (c : Nat) (x : Context) (d : Descriptor) (n first count : Nat) (prefill samples : Bool) : Pass :=
  { ctx := c, order := x.order, beat := n, first, count, prefill, samples, adapter := d.adapterId, ready := x.readySince }

/-- The pass that a context would enter in beat n through an entry list (R290). Prompt positions enter only once their ids have arrived
at stage 0 (R291). -/
def nextPass (m : Mach) (img : Image) (n c : Nat) : Option Pass :=
  let x := getCtx m c
  match x.desc with
  | none => none
  | some d =>
    if !mayEnter m x d ∨ n < x.readySince then none
    else match x.state with
      | .prefill =>
        let k := min img.stageMap.prefillWidth (min d.promptLen x.delivered - x.planned)
        if (x.plannedAt.any fun e => n ≤ e) ∨ k = 0 then none
        else some (passOf c x d n x.planned k true (x.planned + k == d.promptLen))
      | .decode =>
        if x.pauseHeld ∨ d.priority = 0 ∨ tokensLeft d x = 0
            ∨ ((x.lastEntry.toList ++ x.plannedAt.toList).any fun e => n < e + passInterval img d.specDepth) then none
        else some (passOf c x d n x.committed (1 + passDepth d x) false true)
      | _ => none

/-- Drafts that a pass's sampling sets off, for its energy (R297). -/
def passDrafts (x : Context) (p : Pass) : Nat := if p.samples then (if p.prefill then x.depth else p.count - 1) else 0

/-- Place of a candidate in R294: class 2 P0 prefill, 3 P1, 4 P2; then ready beat and consumption order. -/
def candidateRank (x : Context) : Nat × Nat × Nat := (2 + (x.desc.map (·.priority)).getD 2, x.readySince, x.order)

def rank3Le (a b : Nat × Nat × Nat) : Bool :=
  a.1 < b.1 || (a.1 == b.1 && (a.2.1 < b.2.1 || (a.2.1 == b.2.1 && a.2.2 ≤ b.2.2)))

/-- The candidates for beat n through its entry list, in order. -/
def candidates (m : Mach) (img : Image) (n : Nat) : List Nat :=
  sortBy (fun a b => rank3Le (candidateRank (getCtx m a)) (candidateRank (getCtx m b)))
    ((m.ctxs.map (·.1)).filter fun c => (nextPass m img n c).isSome)

/-- A pass committed: its energy in the ledger, its place in the list of its beat, its context ready for the next (R298). -/
def commitPass (m : Mach) (img : Image) (p : Pass) : Mach :=
  let x := getCtx m p.ctx
  let m := commitProfile m p.beat (passProfile img p.count (passDrafts x p))
  let m := { m with entries := supd [] m.entries p.beat (· ++ [p]) }
  let spec := (x.desc.map (·.specDepth)).getD 0
  let next := p.beat + if p.samples then passInterval img spec else 1
  setCtx m p.ctx { x with plannedAt := some p.beat, readySince := next, planned := x.planned + if p.prefill then p.count else 0 }

/-- The loop of R298; the Boolean says that a candidate waits. A P1 candidate among those left over has waited (R303). -/
def fixEntries (img : Image) (n : Nat) : List Nat → Mach → Mach × Bool
  | [], m => (m, false)
  | c :: rest, m =>
    match nextPass m img n c with
    | none => fixEntries img n rest m
    | some p =>
      let prof := passProfile img p.count (passDrafts (getCtx m c) p)
      if freeLanes m img n < p.count ∨ !profileFits m img n prof then
        let p1 := (c :: rest).any fun k => ((getCtx m k).desc.map (·.priority)) == some 1 && (nextPass m img n k).isSome
        (if p1 then { m with p1Waited := htcMicros m } else m, true)
      else fixEntries img n rest (commitPass m img p)

/-- The entry list of beat n on its way to stage 0 (R292): its layout is the firmware's, 16 bytes an entry are taken for it. -/
def sendList (m : Mach) (j : Job) (n : Nat) : Mach :=
  let k := 16 * (sget [] m.entries n).length
  sendScratch { m with fresh := m.fresh + k } j 48 (.entryList n) ((List.range k).map fun i => Config.freeByte (m.fresh + i))

/-- P2 is resumed with the P2 resumptions of R294; P0 and P1, and while a drain runs every PAUSED context, before the passes. -/
def resumesFirst (m : Mach) (d : Descriptor) : Bool := d.priority < 2 || m.mode == .draining || odGet m 0x3140 2 == 4

/-- ENTRY_LIST_FIX: the governor fixes the entry list of beat n (R292–R300). -/
def execEntryListFix (n : Nat) (s : State) := nextM s fun m =>
  match m.job with
  | none => m
  | some j =>
    if !beatsRun m ∨ n < upcomingBeat m ∨ (m.lastEntryFix.any fun k => n ≤ k) then m
    else
      let m := { m with lastEntryFix := some n }
      let m := resumeAll j.image (resumable m fun d => resumesFirst m d) m
      if !entryBeat j.image.mem n then sendList m j n
      else
        let (m, waits) := fixEntries j.image n (candidates m j.image n) m
        let m := if waits then serves m 11 else resumeAll j.image (resumable m fun d => !resumesFirst m d) m
        sendList m j n

/-! ## Entering stage 0 (R290, R292, R295) -/

/-- A pass enters: its context moves on (R287, R290). -/
def enterPass (m : Mach) (j : Job) (p : Pass) : Mach :=
  let x := getCtx m p.ctx
  let m := setCtx { m with passes := m.passes ++ [p] } p.ctx { x with
    lastEntry := some p.beat, plannedAt := if p.prefill then x.plannedAt else none, entered := x.entered + if p.prefill then p.count else 0 }
  let m := if p.adapter = 0xFFFF then m else setAdapter m p.adapter { getAdapter m p.adapter with lastUse := m.now }
  let m := if p.prefill then feedPrompt m j p.ctx else m
  if p.prefill ∧ p.samples then
    let m := setCtx m p.ctx { getCtx m p.ctx with state := .decode, plannedAt := none }
    if x.pauseHeld then descriptorPause m p.ctx else m
  else m

/-- A decode pass with the drafts that its context has for it (R304, R307). -/
def withDrafts (x : Context) (d : Descriptor) (n : Nat) (p : Pass) : Pass :=
  let l := x.drafts.take (min n (passDepth d x))
  { p with first := x.committed, count := 1 + l.length, drafts := l, draftNoise := x.draftNoise }

/-- A pass of a list that has not come, or one behind such a pass, does not enter: its energy is released, and its context is a candidate as
before (R292). -/
def missPass (m : Mach) (img : Image) (p : Pass) : Mach :=
  let x := getCtx m p.ctx
  let m := releaseProfile m p.beat (passProfile img p.count (passDrafts x p))
  if x.order ≠ p.order then m
  else setCtx m p.ctx { x with plannedAt := x.lastEntry, planned := x.entered, readySince := p.ready }

/-- A pass of an entry list enters if its request still runs. -/
def enterListed (m : Mach) (j : Job) (p : Pass) : Mach :=
  let x := getCtx m p.ctx
  if x.order ≠ p.order ∨ x.ended then m
  else if p.prefill then
    (if x.state ≠ .prefill then m else if x.entered = p.first then enterPass m j p else missPass m j.image p)
  else if x.state = .decode ∧ !x.pauseHeld then
    match x.desc with
    | some d => enterPass m j (withDrafts x d (p.count - 1) p)
    | none => m
  else m

/-- A chain's standing order in beat n. -/
def enterChain (m : Mach) (j : Job) (n : Nat) (ch : Chain) : Mach :=
  let x := getCtx m ch.ctx
  match x.desc with
  | none => m
  | some d =>
    if n % ch.k ≠ ch.phase ∨ x.state ≠ .decode ∨ x.pauseHeld ∨ !mayEnter m x d ∨ tokensLeft d x = 0
        ∨ (x.lastEntry.any fun e => n < e + passInterval j.image d.specDepth) then m
    else
      let m := setCtx m ch.ctx { x with readySince := n + ch.k }
      enterPass m j (withDrafts x d x.drafts.length (passOf ch.ctx x d n x.committed 1 false true))

/-- The active drift group changes at the first entry beat that is due (R458). -/
def driftStep (m : Mach) (n : Nat) : Mach :=
  if driftSpan m ≤ n - m.driftSince then { m with driftGroup := !m.driftGroup, driftSince := n } else m

/-- Stage 0 in beat n: the standing orders, then the entry list if it has arrived by now; else the list is late (R292). -/
def enterBeat (m : Mach) (j : Job) (n : Nat) : Mach :=
  let m := driftStep m n
  let here := m.listsHere.contains n
  let m := if here then m else serves m 12
  let chains := sortBy (fun a b => a.ctx ≤ b.ctx) m.chains
  let m := if entryBeat j.image.mem n then chains.foldl (fun m ch => enterChain m j n ch) m else m
  let list := sget [] m.entries n
  let m := list.foldl (fun m p => if here then enterListed m j p else missPass m j.image p) m
  { m with
    entries := m.entries.filter fun e => n < e.1, ledger := m.ledger.filter fun e => n ≤ e.1
    listsHere := m.listsHere.filter fun k => n < k }

/-! ## The start of a beat -/

/-- The serving part of the start of beat n. -/
def serveStart (m : Mach) (n : Nat) : Mach :=
  let m := sampleUpTo m n
  match m.job with
  | none => m
  | some j => enterBeat m j n

/-! ## The serving part of a closure (R87, R312, R317) -/

/-- Records of beat n stamped with its closure in a context; an END record makes it ENDING. -/
def closeCtx (m : Mach) (n time c : Nat) : Mach :=
  let x := getCtx m c
  let mine := x.held.filter fun e => e.1 == some n
  if mine.isEmpty then m
  else
    let held := x.held.map fun e => if e.1 = some n then (e.1, stampRecord time e.2) else e
    let pos := (mine.getLast?.map fun e => natBits e.2.toNat 63 32).getD x.closedLen
    let m := setCtx m c { x with held, closedLen := pos }
    if mine.any fun e => natBits e.2.toNat 64 64 = 1 then serves (toEnding m c) 3 else m

/-- Passes whose last main stage ran in beat n leave; a prefill pass adds to the committed length. -/
def retirePasses (m : Mach) (stages n : Nat) : Mach :=
  let done := m.passes.filter fun p => p.beat + stages ≤ n + 1
  let m := { m with passes := m.passes.filter fun p => n + 1 < p.beat + stages }
  done.foldl (fun m p =>
    let x := getCtx m p.ctx
    if p.prefill ∧ !p.samples ∧ x.order = p.order ∧ x.state ≠ .free then
      setCtx m p.ctx { x with committed := p.first + p.count, closedLen := p.first + p.count }
    else m) m

/-- The serving part of the closure of beat n at HTC µs `time`: beats of the job up to n are closed now. -/
def serveClose (m : Mach) (n time : Nat) : Mach :=
  let m := sampleUpTo m (n + 1)
  match m.job with
  | none => m
  | some j =>
    let m := (m.ctxs.map (·.1)).foldl (fun m c => closeCtx m n time c) m
    flushAll (retirePasses m j.image.stages n)

/-! ## Drains (R343, R529) -/

/-- Contexts that a drain lets run: all live ones but QUEUED and ENDING. -/
def drainLive (m : Mach) : List Nat :=
  skeys (fun x => x.state != .free && x.state != .queued && x.state != .ending) m.ctxs

/-- Every context that satisfies `p` ends with UNLOADED. -/
def endUnloaded (m : Mach) (cs : List Nat) : Mach := cs.foldl (fun m c => endStatus m c 9 0 false) m

/-- DRAIN_TIMEOUT: DrainTimeout expires in the drain of the job or of a replacement. -/
def execDrainTimeout (s : State) := nextM s fun m =>
  let t := odGet m 0x3140 7
  let job := m.mode == .draining
  let repl := odGet m 0x3140 2 == 4
  if t = 0 ∨ !(job || repl) then m
  else
    let m := advance m (m.drainSince + t * 217000000)
    let m := endUnloaded m (drainLive m)
    if repl then count m 0x6190 5 1 else m

end Sys2Proof.Machine
end

