-- ==== Sys2Proof/Machine/Hall.lean ====
section
/-! DEFINITION. What a job announces to every island and to every module: KL frames on the links (R353–R356), CTRL frames
that relay urgent messages (R369), and the announcements of beat changes and fixes (R240–R242, R341, R342). -/

namespace Sys2Proof.Machine

/-! ## The job and its modules (R362) -/

def multiModule (m : Mach) : Bool := (m.job.map fun j => decide (1 < j.image.modules)).getD false

/-- This module is the beat master of its job: module index 0. -/
def beatMaster (m : Mach) : Bool :=
  match m.job with
  | some j => (j.image.moduleList.headD 0xFFFF).toNat == odGet m 0x5200 2
  | none => false

/-- The module that chooses instants and announces: the only one, or the beat master. -/
def announces (m : Mach) : Bool := !multiModule m || beatMaster m

/-- The bundles of the job: UP or DEGRADED, towards a module of its list. -/
def jobBundles (m : Mach) : List Nat :=
  match m.job with
  | some j => (List.range 8).filter fun b =>
      bundleUp m b && pathKind m b != 0 && j.image.moduleList.any fun x => x.toNat == pathPeer m b
  | none => []

/-! ## Control messages received (R209–R211) -/

/-- A node number names a node. -/
def nodeExists (k : Nat) : Bool :=
  let e := k / 64 % 4
  let n := k % 64
  n < 60 || (e == 0 && n < 64) || ((e == 1 || e == 2) && n == 62)

/-- The reserved bits of a message's words, by its type. -/
def reservedWords (x : MeshMsg) : Bool :=
  match msgType x with
  | 1 => x.w1.toNat % 128 != 0
  | 2 => x.w2.getLsbD 27
  | 3 => 2 < natBits x.w3.toNat 31 28
  | 6 => natBits x.w3.toNat 31 24 != 0
  | _ => false

/-- A node discards a message (R211, R240). -/
def msgBad (x : MeshMsg) : Bool :=
  let t := msgType x
  t == 0 || t == 7 || 11 < t || x.header.getLsbD 27 != decide (t ≤ 6) || natBits x.header.toNat 24 16 != 0
  || reservedWords x || !(msgDest x == 0xFF || nodeExists (msgDest x))

/-- A discarded message counts, in the dune it met if it met one. -/
def countDiscard (m : Mach) (node : Nat) : Mach :=
  if node % 64 < 48 then countDune m (node / 64) (node % 64) 0x5101 9 1 else count m 0x5101 9 1

/-- What a node does with a message of a type: nothing unless it is sound and meant for the node, nor before a message that was sent
ahead of it on the same way (R212). -/
def onMessage (m : Mach) (node type : Nat) (x : MeshMsg) (act : Mach → Mach) : Mach :=
  if msgBad x then countDiscard m node
  else if msgType x = type ∧ (msgDest x = 0xFF ∨ msgDest x = node) ∧ !overtakes m node x then
    act { m with ctrl := arrivesAt node x m.ctrl }
  else m

/-! ## CTRL frames (R369) -/

/-- The CTRL frame of a message. -/
def ctrlFrame (m : Mach) (b hops origin seq tag : Nat) (x : MeshMsg) : List Byte :=
  smallFrame ([typeVersion m b 5, BitVec.ofNat 8 hops] ++ leBytes 2 origin ++ leBytes 4 seq ++ leBytes 4 tag
    ++ leBytes 4 x.header.toNat ++ leBytes 4 x.w1.toNat ++ leBytes 4 x.w2.toNat ++ leBytes 4 x.w3.toNat)

/-- A message sent on every bundle of the job but one. -/
def relayCtrl (m : Mach) (except : Option Nat) (hops origin seq : Nat) (x : MeshMsg) : Mach :=
  let tag := (m.job.map (·.id.toNat)).getD 0
  ((jobBundles m).filter fun b => some b != except).foldl
    (fun m b => sendClass m m.now b ctrlClass fun _ => ctrlFrame m b hops origin seq tag x) m

/-- A message that this module originates to the other modules of the job. -/
def originate (m : Mach) (x : MeshMsg) : Mach :=
  if !multiModule m then m
  else
    let me := odGet m 0x5200 2
    let seq := m.ctrlSeq
    relayCtrl { m with ctrlSeq := (seq + 1) % 2 ^ 32, ctrlSeen := m.ctrlSeen ++ [(me, seq)] } none 0 me seq x

/-- An urgent message of the steward, broadcast in the module and sent to the job's other modules. -/
def broadcastJob (m : Mach) (type words : Nat) (w1 w2 w3 : W32) : Mach :=
  let x : MeshMsg := ⟨meshHeader type words 0xFF (stewardNode 0), w1, w2, w3⟩
  originate (postMesh m x) x

/-! ## Announcements (R240–R242, R341) -/

/-- How far ahead an announcement is sent, in ns (R241, R242); a fix is announced as far ahead (assumption 35). -/
def announceLead (m : Mach) : Nat := if multiModule m then 50000 else max (4 * (jobDuneState m).period) 10000

/-- The first beat that an announcement may name: later than every pending one, its start far enough ahead. -/
def firstAnnounceable (m : Mach) : Nat :=
  let t := htcNow m + announceLead m
  let base := max (upcomingBeat m) (((m.job.map (·.announcedTo)).getD 0) + 1)
  let s := instantAt m base
  if t ≤ s then base else base + ceilDiv (t - s) (max 1 (periodAt m base))

/-- The announcement of a beat remembered, so that the next names a later one. -/
def noteBeat (m : Mach) (n : Nat) : Mach :=
  { m with job := m.job.map fun j => { j with announcedTo := max j.announcedTo n } }

def changeWord (kind level period : Nat) : W32 := BitVec.ofNat 32 (kind * 2 ^ 28 + level * 2 ^ 24 + period)

/-- P at a lengthening level (R239). -/
def periodOf (m : Mach) (level : Nat) : Nat := ceilDiv (basePeriod m * (8 + level)) 8

def announcePeriod (m : Mach) (n level period : Nat) : Mach :=
  let m := noteBeat m n
  let m := { m with job := m.job.map fun j => { j with levelAnnounced := level } }
  broadcastJob m 3 3 (lo32 n) (hi32 n) (changeWord 0 level period)

def announcePause (m : Mach) (n : Nat) : Mach := broadcastJob (noteBeat m n) 3 3 (lo32 n) (hi32 n) (changeWord 1 0 0)

/-- The anchor of a RESUME: as soon as the lead allows (assumption 35). -/
def resumeAnchor (m : Mach) : Nat := htcNow m + announceLead m

def announceResume (m : Mach) (anchor : Nat) : Mach := broadcastJob m 3 3 (lo32 anchor) (hi32 anchor) (changeWord 2 0 0)

/-- The level that the module which announces gives the beat (R242, R454): the highest wanted, those of a job's other modules
standing free (assumption 31). A change is announced for the first beat that can be named. Another module sends its wanted level to
the beat master when it changes. -/
def announceLevel (m : Mach) : Mach :=
  if !beatsRun m || m.job.isNone then m
  else if !announces m then
    let own := odGet m 0x4100 2
    if m.job.any fun j => j.levelSent == some own then m
    else emit { m with job := m.job.map fun j => { j with levelSent := some own } } (.wantedLevel own)
  else
    let d := draw m
    let own := odGet m 0x4100 2
    let level := if multiModule m then max own ((Config.freeWord d.1).toNat % 9) else own
    let m := if multiModule m then d.2 else m
    if (m.job.map (·.levelAnnounced)) == some level then m else announcePeriod m (firstAnnounceable m) level (periodOf m level)

/-- A FIX message (R342). -/
def announceFix (m : Mach) (instant generation : Nat) : Mach :=
  broadcastJob m 6 3 (lo32 instant) (hi32 instant) (BitVec.ofNat 32 (generation % 2 ^ 24))

end Sys2Proof.Machine
end

