-- ==== Sys2Proof/Machine/Weights.lean ====
section
/-! DEFINITION. Weights under load: replacements from command to the first beat on new weights (R337–R346), and the readiness of a
streamed bank plan (R335). -/

namespace Sys2Proof.Machine

/-! ## State of a replacement (R347) -/

def setReplState (m : Mach) (n : Nat) : Mach := odSet m 0x3140 2 n

/-- A replacement refused or abandoned: its result and count; it is gone. -/
def endRepl (m : Mach) (code : Nat) : Mach :=
  count (odSet (setReplState { m with repl := none } 0) 0x3140 3 code) 0x6190 2 1

/-- A command refused before it became a replacement (R348). -/
def refuseCommand (m : Mach) (v : Via) (reply : Option Reply) (code : Nat) (isRepl : Bool) : Mach :=
  let m := odSet m 0x3140 3 code
  answer (if isRepl then count m 0x6190 2 1 else m) v reply (loadRefused code)

/-- Latent banks that hold the generation being built are marked incomplete, their golden halves dropped (R337, R346). -/
def dropLatent (m : Mach) : Mach :=
  match m.job with
  | none => m
  | some j =>
    let gen := odGet m 0x3140 8 + 1
    let half := if j.fixedB then 0 else 1
    let built := fun (b : BankState) => b.data.generation == gen
    let clear := fun (x : Site) =>
      if x.state != .active && x.state != .shadow then x
      else
        let k : Bank := if x.fixedB then .a else .b
        if built (bankOf x k) then markIncomplete x k else x
    { m with
      golden := m.golden.filter fun e => !(e.1 % 2 == half && (e.2.map fun d => d.generation == gen).getD false)
      rows := smap {} m.rows fun _ w => { w with
        sites := smap {} w.sites fun _ x => clear x
        writer := if (w.writer.map fun j => j.record.generation == gen).getD false then none else w.writer } }

/-- The replacement in progress abandoned (R337, R346, R530). -/
def abandonRepl (m : Mach) : Mach :=
  match m.repl with
  | none => m
  | some r => endRepl (if r.method ≤ 2 ∧ r.buffered then dropLatent m else m) 0x0707

/-- A fix or PAUSE of the replacement has been announced. -/
def replAnnounced (m : Mach) : Bool := 5 ≤ odGet m 0x3140 2

/-! ## The command (R329, R337–R339) -/

/-- ReplaceCommand's own value checks (R347, R427). -/
def replaceCheck (m : Mach) (v : Via) (data : List Byte) : Option Nat :=
  checkWrite m v 0x3140 1 data
    (failIf (3 < field data 0 1 || 1 < field data 1 1 || field data 2 6 != 0) layoutErr) none

/-- A method that the job's bank use does not allow (R339). -/
def methodRefused (m : Mach) (method : Nat) : Option Nat :=
  match m.job with
  | none => none
  | some j => match j.image.mem.bankUse with
    | .streamed => some 0x0708
    | .capacity => failIf (method != 3) 0x0705
    | .single => failIf (method != 3 && odGet m 0x3140 6 != 2) 0x0705

/-- The new image lies on the stager and reaches beyond its BAR (R388). -/
def replBeyond (m : Mach) (data : List Byte) (img : Option Image) : Bool :=
  field data 1 1 == 1 && (img.bind (beyondBar m data)).isSome

/-- Both reads beyond the BAR count (R399). -/
def countBeyond (m : Mach) (data : List Byte) (img : Option Image) : Mach :=
  if replBeyond m data img then count m 0x5401 4 2 else m

/-- ReplaceCommand carried out. `img` is none where the image cannot be read (R399). -/
def replaceRun (m : Mach) (v : Via) (data : List Byte) (img : Option Image) (reply : Option Reply) : Mach :=
  let method := field data 0 1
  let state := odGet m 0x3140 2
  if m.mode ≠ .running then refuseCommand m v reply 0x0701 (method != 0)
  else if method = 0 then
    if state = 0 ∨ 5 ≤ state then refuseCommand m v reply 0x0702 false
    else
      -- a command still in CHECKING has ended with a refusal (R425)
      let m := giveFirst (abandonRepl m) (objKey 0x3140 1) (loadRefused 0x0707)
      answer m v reply 0
  else if state ≠ 0 then refuseCommand m v reply 0x0702 true
  else if field data 1 1 = 1 ∧ odGet m 0x5400 1 = 0 then refuseCommand m v reply 0x0709 true
  else match methodRefused m method, m.job with
    | some code, _ => refuseCommand m v reply code true
    | none, none => m
    | none, some j =>
      let unread := img.isNone || replBeyond m data img
      let m := readImage (countBeyond m data img) data (field data 1 1 == 1)
      let r : Replacement := { method, image := img.getD j.image, length := field data 16 8, unread }
      holdAnswer (setReplState { m with repl := some r, imageRetries := [] } 1) v (objKey 0x3140 1) reply

/-- REPLACE_ABANDON. -/
def execReplaceAbandon (v : Via) (data : List Byte) (s : State) := nextM s fun m =>
  commandRow m v (replaceCheck m v data) fun m => replaceRun m v data none none

/-- REPLACE_FIX_NOW. -/
def execReplaceFixNow (v : Via) (data : List Byte) (img : Image) (s : State) := nextM s fun m =>
  commandRow m v (replaceCheck m v data) fun m => replaceRun m v data (some img) none

/-- REPLACE_FIX_AFTER_DRAIN. -/
def execReplaceFixAfterDrain (v : Via) (data : List Byte) (img : Image) (s : State) := nextM s fun m =>
  commandRow m v (replaceCheck m v data) fun m => replaceRun m v data (some img) none

/-- REPLACE_IN_PLACE. -/
def execReplaceInPlace (v : Via) (data : List Byte) (img : Image) (s : State) := nextM s fun m =>
  commandRow m v (replaceCheck m v data) fun m => replaceRun m v data (some img) none

/-! ## The checks (R338, R339, R344) -/

/-- The sections that compatibility compares: all but weights, energy table and signatures. -/
def comparedSections (img : Image) : List (Nat × Nat × List Byte) :=
  (img.sections.filter fun e => e.type != 0xD && e.type != 7 && e.type != sigType).map fun e => (e.type, e.variant, img.body e)

/-- The new image is compatible with the running one (R339). -/
def compatible (a b : Image) : Bool :=
  comparedSections a == comparedSections b && a.ordinary == b.ordinary && a.proof == b.proof && a.stageMap == b.stageMap
  && a.reductions == b.reductions && a.manifest == b.manifest && a.vdunes == b.vdunes && a.ergMaps == b.ergMaps && a.twins == b.twins
  && a.laneGroup == b.laneGroup && a.mem == b.mem && a.moduleList == b.moduleList && a.slotTable == b.slotTable
  && a.routeRules == b.routeRules

/-- Bytes of the records of an image's bank entries. -/
def recordBytes (img : Image) : Nat := 139264 * img.weights.length

/-- The free part of the allotment holds the replacement buffer (R344). -/
def bufferFits (m : Mach) (j : Job) (img : Image) : Bool :=
  j.image.mem.declaredBytes + recordBytes img ≤ odGet m 0x2230 1

/-- Every check of a replacement: those of a load but for the mapping, then its own (R338, R348). -/
def replaceFault (m : Mach) (j : Job) (r : Replacement) : Refused :=
  let img := r.image
  refuseIf r.unread 0x0406 0
  <|> group1 m img r.length j.proof
  <|> refuseIf (img.modules != 1 && allowedMaps img != [0]) 0x0203 0
  <|> refuseIf (allotmentSize m img < img.hbmAllotmentMin) 0x0204 0
  <|> refuseIf (!modulesOk m img j.map (variantBase img j.proof)) 0x0205 0
  <|> group3Before m img j.proof
  <|> (badBudget m (imageRule img 0) j.lost j.map (variantOf img j.proof)).map (0x0307, ·)
  <|> (badOccupancy m (imageRule img 0) j.lost j.map (variantOf img j.proof) (variantBase img j.proof)).map (0x0308, ·)
  <|> group3After m img j.proof <|> group5 img j.proof <|> group4 img <|> group6 img
  <|> refuseIf (img.vdunes != j.image.vdunes || img.ergMaps != j.image.ergMaps || img.modules != j.image.modules
      || img.mem.bankUse != j.image.mem.bankUse) 0x0703 0
  <|> refuseIf (r.method != 2 && !compatible img j.image) 0x0704 0
  <|> refuseIf (r.method == 3 && !bufferFits m j img) 0x0706 0

/-- The weights section read into the load buffer, 4 GiB at the top of the job allotment (R330, R340). -/
def fillLoadBuffer (m : Mach) (img : Image) : Mach :=
  let bs := ((img.sectionOf 0xD).map img.body).getD []
  (List.range (ceilDiv bs.length (2 ^ 32))).foldl (fun m i =>
    dmaHbm m (odGet m 0x2230 1 - 2 ^ 32) ((bs.drop (2 ^ 32 * i)).take (2 ^ 32))) m

/-- First byte of the replacement buffer: above the image's declared regions (R344). -/
def bufferBase (j : Job) : Nat := ceilDiv j.image.mem.declaredBytes 256 * 256

/-- The new records written into the replacement buffer (R344 step 1). -/
def fillBuffer (m : Mach) (j : Job) (img : Image) : Mach :=
  img.weights.zipIdx.foldl (fun m e =>
    let d := entryBank e.1 (odGet m 0x3140 8 + 1)
    dmaHbm m (bufferBase j + 139264 * e.2) ((List.range 139264).map (recordByte d))) m

/-- The records of the new image written into the latent half of the golden region (R340). -/
def goldenLatent (m : Mach) (j : Job) (img : Image) : Mach :=
  let m := fillLoadBuffer m img
  img.weights.foldl (fun m e => goldenSet m e.vplate (if j.fixedB then 0 else 1) (some (entryBank e (odGet m 0x3140 8 + 1)))) m

/-- REPLACE_CHECK_COMPLETE: CHECKING ends in BUILDING or with a refusal; the command is answered. -/
def execReplaceCheckComplete (s : State) := nextM s fun m =>
  match m.repl, m.job with
  | some r, some j =>
    if odGet m 0x3140 2 ≠ 1 then m
    else match replaceFault m j r with
      | some (code, _) => giveFirst (endRepl m code) (objKey 0x3140 1) (loadRefused code)
      | none =>
        let m := extendMeas m 4 r.image.digest
        let m := if r.method ≤ 2 then goldenLatent m j r.image else m
        let m := { m with repl := some { r with buffered := r.method ≤ 2, compatible := compatible r.image j.image } }
        giveFirst (setReplState m 2) (objKey 0x3140 1) 0
  | _, _ => m

/-! ## Latent builds (R102, R340) -/

/-- A latent bank of a site written from its record and stripped, into its SHADOW as well (R102). -/
def buildLatentSite (m : Mach) (r : RowId) (s : Nat) : Mach :=
  let w := getRow m r
  let x := getSite w s
  match latentRecord m r x with
  | none => m
  | some (k, d) =>
    let old := bankOf x k
    if old.complete ∧ old.stripped ∧ old.data = d then m
    else
      let tj := (getDune m r.dune).tj
      let w := writeEach w { site := s, bank := k, record := d } fun b => builtBank b d tj m.now
      let n := (writeSites w { site := s, bank := k, record := d }).length
      let m := serveRecord m d 0 139264
      countStripFirings (countRow (setRow m r { w with writer := none }) r 0x6140 1 n) r n

/-- What remains of every latent build of the job. -/
def buildLatent (m : Mach) : Mach :=
  (jobDunes m).foldl (fun m d => (duneRows d).foldl (fun m r =>
    ((getRow m r).sites.map (·.1)).foldl (fun m s => buildLatentSite m r s) m) m) m

/-- Every latent bank that a build writes is complete and stripped (R104). -/
def latentReady (m : Mach) : Bool :=
  (jobDunes m).all fun d => (duneRows d).all fun r => (getRow m r).sites.all fun e =>
    match latentRecord m r e.2 with
    | some (k, rec_) => (bankOf e.2 k).complete && (bankOf e.2 k).stripped && (bankOf e.2 k).data == rec_
    | none => true

/-! ## Announcing (R341–R344) -/

/-- The fix of a replacement announced as soon as its lead allows (R105, R341), and only while every latent bank is complete and
stripped (R104). -/
def announceReplFix (m : Mach) : Mach :=
  if !latentReady m then m
  else
    let t := htcNow m + announceLead m
    let m := announceFix m t (odGet m 0x3140 8 + 1)
    setReplState { m with repl := m.repl.map fun r => { r with fixAt := some t } } 5

/-- The PAUSE of a replacement announced for the first beat that can be named (R343, R344). -/
def announceReplPause (m : Mach) : Mach :=
  let n := firstAnnounceable m
  let m := announcePause m n
  setReplState { m with repl := m.repl.map fun r => { r with pauseAt := some n } } 5

/-- A replacement that is READY goes on: FIX_NOW announces, FIX_AFTER_DRAIN drains. -/
def replReady (m : Mach) (r : Replacement) : Mach :=
  if r.method = 2 then setReplState { m with drainSince := m.now } 4
  else if !announces m then m
  else if r.method = 3 then announceReplPause m else announceReplFix m

/-- LATENT_BUILD_COMPLETE: READY, and what follows from it. In a multi-module job the beat master waits for the other modules'
reports; the row again, in READY, stands for the last of them (assumption 36). -/
def execLatentBuildComplete (s : State) := nextM s fun m =>
  match m.repl with
  | none => m
  | some r =>
    let state := odGet m 0x3140 2
    if state = 2 ∧ r.method ≤ 2 ∧ r.buffered then
      let m := setReplState (buildLatent m) 3
      if multiModule m ∧ r.method = 1 then m else replReady m r
    else if state = 3 ∧ r.method = 1 then replReady (buildLatent m) r
    else m

/-- REPLACE_DRAIN_COMPLETE: no context of the drain is left; the fix is announced, or for an incompatible image a PAUSE. -/
def execReplaceDrainComplete (s : State) := nextM s fun m =>
  match m.repl with
  | none => m
  | some r =>
    let left := m.ctxs.any fun e => e.2.state != .free && e.2.state != .queued
    if odGet m 0x3140 2 ≠ 4 ∨ left ∨ !announces m then m
    else if r.compatible then announceReplFix m else announceReplPause m

/-- REPLACE_BUFFER_COMPLETE: the records of an IN_PLACE replacement stand in its buffer, and the PAUSE is announced. In a
multi-module job as LATENT_BUILD_COMPLETE. -/
def execReplaceBufferComplete (s : State) := nextM s fun m =>
  match m.repl with
  | none => m
  | some r =>
    let state := odGet m 0x3140 2
    if r.method ≠ 3 then m
    else if state = 2 then
      let m := { (m.job.map fun j => fillBuffer m j r.image).getD m with repl := some { r with buffered := true } }
      if multiModule m then setReplState m 3 else announceReplPause m
    else if state = 3 ∧ announces m then announceReplPause m
    else m

/-! ## Behind the pause (R343, R344) -/

/-- The registers, stores and routes of an incompatible image under the unchanged mapping; windows and queues emptied (R343). -/
def rewriteCode (m : Mach) (j : Job) (img : Image) : Mach :=
  writePrograms (clearRows m) img j.map (variantOf img j.proof)

/-- One site of a plate rewritten in place, ACTIVE again: the fixed bank of a single-bank job, its latent bank marked incomplete; both banks in
capacity mode. A SHADOW of the plate, which no longer holds its records, is FREE (assumption 37). -/
def rewriteInPlace (m : Mach) (j : Job) (r : RowId) (s : Nat) : Mach :=
  let w := getRow m r
  let x := getSite w s
  let due := x.state == .active || (x.state == .busy && w.upkeep.all fun u => u.site != some s)
  match due, x.plate with
  | true, some p =>
    let single := j.image.mem.bankUse == .single
    let vp := (vplateAt m r p).getD 0
    let record := fun (k : Bank) => goldenFor m j.image.mem vp k x.fixedB (beatNumber m + 1)
    let new := fun (k : Bank) => match record k with
      | some d => builtBank (bankOf x k) d (getDune m r.dune).tj m.now
      | none => { bankOf x k with complete := false, stripped := false }
    let f := fixedName x
    let l : Bank := if f = .a then .b else .a
    let m := (if single then [f] else [f, l]).foldl (fun m k => ((record k).map fun d => serveRecord m d 0 139264).getD m) m
    let x := setBank { x with state := .active } f (new f)
    let x := if single then markIncomplete x l else setBank x l (new l)
    let w := setSite w s x
    let w := match shadowOf w p with
      | some sh => setSite w sh { getSite w sh with state := .free, plate := none }
      | none => w
    countStripFirings (countRow (setRow m r w) r 0x6140 1 (if single then 1 else 2)) r (if single then 1 else 2)
  | _, _ => m

/-- Record k of the replacement buffer: as it was written, or as its bytes now give it. -/
def buffered (m : Mach) (j : Job) (e : WeightEntry) (k : Nat) : BankData :=
  let d := entryBank e (odGet m 0x3140 8 + 1)
  let bs := hbmBytes m (bufferBase j + 139264 * k) 139264
  if bs = (List.range 139264).map (recordByte d) then d else { parseRecord bs with valid := recordValid bs }

/-- The golden records of some plates overwritten from the buffer (R344 step 3). -/
def overwriteGolden (m : Mach) (j : Job) (img : Image) (mine : Nat → Bool) : Mach :=
  let half := fun (g : Nat) => if j.image.mem.bankUse = .single then (if j.fixedB then 1 else 0) else g % 2
  (img.weights.zipIdx.filter fun e => mine e.1.vplate).foldl (fun m e =>
    goldenSet (serveHbm m (bufferBase j + 139264 * e.2) 139264) e.1.vplate (half e.1.group) (some (buffered m j e.1 e.2))) m

/-- The places of the stage map's stages in pipeline order: virtual dune and row. -/
def stagePlaces (img : Image) : List (List (Nat × Fin 96)) := (img.stageMap.main ++ img.stageMap.drafts).map (·.places)

/-- A virtual plate belongs to one of some places. -/
def plateAmong (ps : List (Nat × Fin 96)) (v : Nat) : Bool := ps.any fun p => v / 64 == 96 * p.1 + p.2.val

/-- The first stage's turn: its golden records are overwritten and its sites become BUSY (R344 step 3). -/
def beginRewrite (m : Mach) (j : Job) (img : Image) : Mach :=
  let ps := (stagePlaces img).headD []
  (ps.filterMap (placeRow j)).foldl (fun m r =>
    let w := getRow m r
    setRow m r { w with sites := smap {} w.sites fun _ x => if x.state == .active then { x with state := .busy } else x })
    (overwriteGolden m j img (plateAmong ps))

/-- The stages that are left, in pipeline order: golden records overwritten from the replacement buffer, and every site of the job
rewritten. -/
def rewriteAll (m : Mach) (j : Job) (img : Image) : Mach :=
  let m := (stagePlaces img).foldl (fun m ps => overwriteGolden m j img (plateAmong ps)) m
  let m := overwriteGolden m j img fun v => !(stagePlaces img).any fun ps => plateAmong ps v
  (jobDunes m).foldl (fun m d => (duneRows d).foldl (fun m r =>
    ((getRow m r).sites.map (·.1)).foldl (fun m s => rewriteInPlace m j r s) m) m) m

/-- A PAUSE of a replacement has run out: beat n_p − 1 has closed. IN_PLACE begins to rewrite its first stage; an incompatible image is
written at once, and the RESUME announced with the fix at its anchor. -/
def replPaused (m : Mach) : Mach :=
  match m.repl, m.job with
  | some r, some j =>
    if r.method = 3 then beginRewrite (setReplState { m with repl := some { r with overwritten := true } } 6) j r.image
    else
      let m := buildLatent (rewriteCode m j r.image)
      if announces m then
        let a := resumeAnchor m
        let m := announceResume (announceFix m a (odGet m 0x3140 8 + 1)) a
        { m with repl := some { r with fixAt := some a, firstBeat := r.pauseAt } }
      else { m with repl := some { r with firstBeat := r.pauseAt } }
  | _, _ => m

/-- INPLACE_REWRITE_COMPLETE: the last stage is done and RESUME is announced. -/
def execInplaceRewriteComplete (s : State) := nextM s fun m =>
  match m.repl, m.job with
  | some r, some j =>
    if odGet m 0x3140 2 ≠ 6 ∨ r.firstBeat.isSome then m
    else
      let m := rewriteAll m j r.image
      let m := { m with repl := some { r with firstBeat := r.pauseAt } }
      if announces m then announceResume m (resumeAnchor m) else m
  | _, _ => m

/-! ## The first beat on new weights (R338, R341, R345) -/

/-- A request has had a pass enter stage 0, or holds a negative. -/
def touchedOld (m : Mach) (n c : Nat) (x : Context) : Bool :=
  x.state != .free && (x.negative.isSome || x.committed != 0 || x.tokens != 0 || (m.passes.any fun p => p.ctx == c && p.order == x.order)
    || x.lastEntry.any fun e => e < n)

/-- Beat n is n_f: the replacement is complete. -/
def replDone (m : Mach) (n : Nat) : Mach :=
  match m.repl with
  | none => m
  | some r =>
    let m := { m with
      ctxs := smap {} m.ctxs fun c x => { x with beforeFix := x.beforeFix || touchedOld m n c x }
      job := m.job.map fun j => { j with image := r.image, weightsFrom := n } }
    let m := odSet (odSet (count m 0x6190 1 1) 0x3140 8 (odGet m 0x3140 8 + 1)) 0x3140 3 0
    setReplState { m with repl := none } 0

/-- The replacement takes effect in beat n, which starts at `start` (R104, R343, R344). -/
def replStarts (m : Mach) (n start : Nat) : Bool :=
  match m.repl with
  | none => false
  | some r => (r.firstBeat.any fun k => k ≤ n) || (r.firstBeat.isNone && r.fixAt.any fun t => t ≤ start)

/-! ## Streamed bank plans (R335) -/

/-- The next plan boundary. -/
def nextBoundary (m : Mach) (d : MemDecl) : Nat := ceilDiv (max 1 (upcomingBeat m)) (max 1 d.bankPeriod) * d.bankPeriod

/-- Some streamed plate's next group is not complete and stripped, while its boundary is checked: a PAUSE is announced. -/
def execStreamReadinessCheck (s : State) := nextM s fun m =>
  match m.job with
  | none => m
  | some j =>
    let d := j.image.mem
    let b := nextBoundary m d
    if d.bankUse ≠ .streamed ∨ d.bankPeriod = 0 ∨ !beatsRun m ∨ j.planHeld.isSome then m
    else
      let lead := if multiModule m then 50000 else max (4 * periodAt m b) 10000
      let t := instantAt m b - lead
      if t < htcNow m then m
      else
        let m := advance m (tuAt m t)
        if latentReady m ∨ !announces m then m
        else announcePause { m with job := m.job.map fun j => { j with planHeld := some b } } b

/-- STREAM_READY: while the beats are paused at the boundary every plate has become ready; RESUME is announced. -/
def execStreamReady (s : State) := nextM s fun m =>
  match m.job with
  | none => m
  | some j =>
    let d := jobDuneState m
    match j.planHeld with
    | none => m
    | some b =>
      if d.pausedFrom ≠ some b ∨ d.beat.isSome then m
      else
        let m := buildLatent m
        let m := count { m with job := m.job.map fun j => { j with planHeld := none } } 0x6190 4 1
        if announces m then announceResume m (resumeAnchor m) else m

end Sys2Proof.Machine
end

