-- ==== Sys2Proof/Machine/Restart.lean ====
section
/-! DEFINITION. Faults as the module steward takes them (R475–R480), job restarts (R272, R273, R474, R481–R483), module faults
(R484) and contact sheets begun and completed (R485–R490). -/

namespace Sys2Proof.Machine

/-! ## Freezing (R478) -/

/-- An island that FREEZE has reached: no row issues, firings and strip segments are abandoned, the upkeep DMA stops. -/
def freezeDune (m : Mach) (d : DuneId) : Mach :=
  let m := setDune m d { getDune m d with frozen := true }
  { m with rows := smap {} m.rows fun k w =>
      if k / 96 = duneKey d then
        { w with stopped := true, firing := none, bask := none, strip := w.strip.map fun s => { s with running := false } }
      else w }

def freezeAll (m : Mach) : Mach := allDunes.foldl freezeDune m

/-- FREEZE broadcast by the steward (R478). -/
def sendFreeze (m : Mach) (beat : Nat) : Mach := broadcastJob m 5 1 (lo32 beat) 0 0

/-! ## Contact sheets (R475, R485–R490) -/

/-- FaultInject or FaultProvoke in force. -/
def armedNow (m : Mach) : List Armed := m.injections ++ m.provocations

/-- The sheet of the present state. `flags` are the header's flag bits beside those that the state decides. -/
def makeSheet (m : Mach) (kind flags : Nat) : Sheet where
  kind
  flags := flags + (if (armedNow m).isEmpty then 0 else 4)
    + (if allDunes.any fun d => duneStateCode m (duneKey d) = 1 ∨ duneStateCode m (duneKey d) = 2 then 8 else 0)
  seq := odGet m 0x6030 2
  htc := htcNow m
  fault := odGet m 0x6010 1
  hardMismatch := odGet m 0x6130 7
  jobId := (m.job.map (·.id.toNat)).getD 0
  firmware := firmwareVersion m
  imageHash := imageHash m
  jobKey := BitVec.ofNat 64 (odGet m 0x2230 5)
  moduleKey := m.moduleKey
  omitted := (allDunes.filter fun d => duneStateCode m (duneKey d) = 1 ∨ duneStateCode m (duneKey d) = 2).map duneKey
  injection := ((armedNow m).head?.map (·.value.toNat)).getD 0
  snapshot := objSnapshot m
  eventLog := eventLogBytes m.events (odGet m 0x6030 8)
  rows := m.rows
  threads := m.threads
  sram := m.sram
  hbm := m.hbm
  debug := (m.job.map fun j => j.image.mem.debugRegions).getD []
  badCores := m.badCores
  job := m.job

/-- Writing a sheet of a kind begins. -/
def beginSheet (m : Mach) (kind : Nat) : Mach :=
  odSet (count { m with sheetWriting := some kind } 0x6030 2 1) 0x6030 1 1

/-- The sheet signed with DevID over header bytes 0–3,935 (R488); an element of erg 0 that no longer serves signs nothing
(R508). -/
def signSheet (m : Mach) (x : Sheet) : Sheet × Mach :=
  if !m.sec.serving.getLsbD 0 then (x, m)
  else
    let d := draw m
    let sig := Config.devIdSign (Config.sha384 (sheetHead x (bodyDigest x))) d.1
    ({ x with r := sig.1, s := sig.2 }, d.2)

/-- The sheet being written is complete: signed, kept, announced. `cut` says that a full sheet was cut to a summary. -/
def completeSheet (m : Mach) (kind : Nat) (cut : Bool) : Mach :=
  let before := odGet m 0x6030 1
  let (x, m) := signSheet m (makeSheet m kind (if cut then 3 else 1))
  let m := { m with sheetWriting := none }
  let m := if kind = 3 then odSet { m with thumbnail := some x } 0x6030 6 1 
    else serveHbm (clearPatch { m with sheet := some x } sheetBase (sheetLength kind)) sheetBase (sheetLength kind)
  let m := if before = 1 then odSet m 0x6030 1 2 else m
  postEvent m 0x800B 0 0xFF kind

/-- A sheet whose writing ends incomplete: marked so, and unsigned (R466, R488). -/
def incompleteSheet (m : Mach) (kind : Nat) : Mach :=
  odSet { m with sheetWriting := none, sheet := some (makeSheet m kind 16) } 0x6030 1 3

/-! ## LastFault (R479, R480) -/

def faultRecord (f : FaultRec) : Nat :=
  leNat (leBytes 8 f.htc ++ leBytes 8 f.beat ++ leBytes 8 f.detail.toNat ++ leBytes 2 f.code.toNat ++ leBytes 1 f.severity
    ++ leBytes 1 f.erg ++ leBytes 1 f.dune ++ leBytes 1 f.row ++ leBytes 1 f.thread.toNat ++ [0])

def recordFault (m : Mach) (f : FaultRec) : Mach := odSet m 0x6010 1 (faultRecord f)

/-- same_beat of LastFault rises, saturating. -/
def sameBeat (m : Mach) : Mach :=
  let old := odGet m 0x6010 1
  odSet m 0x6010 1 (spliceBits old 248 8 (min 255 (old / 2 ^ 248 + 1)))

/-! ## Module faults (R484) -/

/-- HBM_UE has hit the contact-sheet area, as LastFault records it (R479, R490). -/
def sheetAreaHit (m : Mach) : Bool :=
  let f := odGet m 0x6010 1
  natBits f 207 192 == 0x503 && sheetBase ≤ natBits f 191 128 && natBits f 191 128 < odGet m 0x2230 6

/-- A module fault of these codes leaves a thumbnail in place of a sheet (R490). -/
def thumbCode (f : FaultRec) : Bool := f.code == 0x703 || f.code == 0x704

/-- Commands that can no longer reach the point of their answer (assumption 38). -/
def dropAnswers (m : Mach) : Mach :=
  m.answers.foldl (fun m a => answer m a.via a.reply wrongState) { m with answers := [] }

/-- A module fault: FREEZE, DUMPING and a summary sheet or a thumbnail (R484, R490). -/
def moduleFault (m : Mach) (f : FaultRec) : Mach :=
  let m := count m 0x6010 5 1
  if m.mode = .thermalHalt ∨ m.mode = .off ∨ m.mode = .dumping then m
  else
    let m := sendFreeze (recordFault m f) f.beat
    let m := dropAnswers { m with restart := none, repl := none }
    beginSheet (setState (setReplState m 0) .dumping) (if thumbCode f then 3 else 1)

/-- Every dune domain switched off (R219, R484). -/
def dunesOff (m : Mach) : Mach :=
  let m := emptyFabric (freezeAll m)
  { m with
    dunes := smap {} m.dunes fun _ d =>
      { d with power := if d.power = .usable then .off else d.power, time := .acquire, copy := {}, beat := none }
    power := { m.power with dunesUp := false } }

/-- The job is gone: beats, rows' work, serving and its identifiers (R530). A site keeps its state, an ACTIVE or BUSY one too, until
the next job's load maps the rows (DESIGN CHOICE, assumption 143: R92 and R530 say nothing of it). -/
def dropJob (m : Mach) : Mach :=
  let m := clearRows (freezeAll { m with avoided := [] })
  let m := { m with
    job := none, repl := none, restart := none, unloading := false, draining := false, threads := [], istore := []
    ctxs := m.ctxs.filter fun e => e.2.state == .ending
    passes := [], chains := [], ledger := [], entries := [], lastEntryFix := none, listsHere := [], driftGroup := false, driftSince := 0
    adapters := [], slotRuns := []
    rows := smap {} m.rows fun _ w => { w with strip := none, bask := none, writer := none, softPlates := [], upkeep := [] }
    dunes := smap {} m.dunes fun _ d =>
      { d with beat := none, changes := [], fixes := [], pausedFrom := none, frozen := false, hosted := none, period := 0
               level := 0, anchor := 0, anchorBeat := 0, nextBeat := 0 } }
  setReplState m 0

/-- Every live context ends with a status, while the port works. -/
def endAll (m : Mach) (code flags : Nat) : Mach :=
  (skeys (fun x => x.state != .free && x.state != .ending) m.ctxs).foldl (fun m c => endStatus m c code flags false) m

/-- After the sheet of a module fault: requests end, dune domains go off, FAULTED. -/
def enterFaulted (m : Mach) : Mach :=
  let m := if m.port.linkUp then endAll m 8 fRestart else m
  setState (dropJob (dunesOff m)) .faulted

/-! ## A restart begins (R480–R483) -/

/-- The job uses a dune: a virtual dune is mapped to it, or a route of the job passes through it (R446). -/
def usesDune (m : Mach) (k : Nat) : Bool :=
  match m.job with
  | none => false
  | some j => j.map.any (fun e => e.2 == k) || (jobVariant j).tc0.any fun e =>
      match physRow j.map e.srcDune e.srcRow, physRow j.map e.dstDune e.dstRow with
      | some a, some b => (primaryPath m 0 a b).any fun p => routerDune p == k
      | _, _ => false

/-- The requests at a restart (R323): records of closed beats first, then the ends; PAUSED and QUEUED survive. -/
def restartRequests (m : Mach) : Mach :=
  let m := flushAll m
  let ends := skeys (fun x => x.state == .prefill || x.state == .decode || x.state == .pausing) m.ctxs
  let m := ends.foldl (fun m c => serves (endStatus m c 8 fRestart false) 5) m
  let back := skeys (fun x => x.state == .resuming) m.ctxs
  let m := back.foldl stopRestore m
  let hit := skeys (fun x => x.state == .paused && x.negativeHit) m.ctxs
  let m := hit.foldl (fun m c => serves (endStatus m c 8 fRestart false) 5) m
  { m with passes := [], chains := [], ledger := [], entries := [], lastEntryFix := none, listsHere := [] }

/-- A replacement at a restart (R346). -/
def replAtFault (m : Mach) : Mach :=
  match m.repl with
  | none => m
  | some r => if r.overwritten then m else giveFirst (abandonRepl m) (objKey 0x3140 1) (loadRefused 0x0707)

/-- The first beat that does not close: that of the earliest fault. -/
def openBeat (m : Mach) : Nat :=
  match m.job with
  | some j => match j.faultBeat, j.lastStarted with
    | some b, some n => min b (n + 1)
    | _, _ => 0
  | none => 0

/-- The sheet that a restart of a severity writes, 0 for none (R475, R490). -/
def restartSheet (m : Mach) (severity : Nat) : Nat :=
  let k := if 2 ≤ severity then 1 else odGet m 0x6000 1
  if k ≠ 0 ∧ sheetAreaHit m then 3 else k

/-- Step 2 done once every beat before the fault's has closed: requests end, and the sheet, if any, begins (R481). -/
def stepTwo (m : Mach) : Mach :=
  match m.restart, m.job with
  | some r, some j =>
    if r.ended ∨ j.nextClose < openBeat m ∨ m.mode ≠ .restarting then m
    else
      let m := restartRequests m
      let m := replAtFault { m with restart := some { r with ended := true } }
      let k := restartSheet m r.severity
      if k = 0 then m else beginSheet m k
  | _, _ => m

/-- The instant at which beat n closes (R245), by S(n + 1) as it stood before a RESUME. -/
def closesAt (m : Mach) (n : Nat) : Nat :=
  let s := (m.job.bind fun j => (j.starts.find? fun e => e.1 == n + 1).map (·.2)).getD (instantAt m (n + 1))
  s + closeDelay m

/-- Beat n closes at its instant. -/
def closeBeat (m : Mach) (n : Nat) : Mach :=
  let t := closesAt m n
  let m := { m with job := m.job.map fun j => { j with nextClose := n + 1, starts := j.starts.filter fun e => n < e.1 + 64 } }
  serveClose m n (t / 1000)

/-- Beats close in order while they are due by the HTC instant `t` and no fault holds them. -/
def closeDue : Nat → Mach → Nat → Mach
  | 0, m, _ => m
  | k + 1, m, t =>
    match m.job with
    | none => m
    | some j =>
      let held := j.faultBeat.any fun b => b ≤ j.nextClose
      let started := j.lastStarted.any fun n => j.nextClose ≤ n
      if held ∨ !started ∨ t < closesAt m j.nextClose then m else closeDue k (closeBeat m j.nextClose) t

/-- A fault of the job belongs to a beat, which does not close (R87, R245). -/
def holdBeat (m : Mach) (b : Nat) : Mach :=
  let m := openFault m
  { m with job := m.job.map fun j => { j with faultBeat := some (match j.faultBeat with
      | some x => min x b
      | none => b) } }

/-- A row has lost its last ready site: its dune is given up for the job (R272). -/
def giveUpDune (m : Mach) (f : FaultRec) : Mach :=
  if f.code = 0x103 ∧ f.dune < 48 then
    let k := 48 * f.erg + f.dune
    { m with job := m.job.map fun j => { j with lost := if j.lost.contains k then j.lost else j.lost ++ [k] } }
  else m

/-- A module that waits in LOADING for T0 of its multi-module job (R528). -/
def waitsForT0 (m : Mach) : Bool :=
  m.mode == .loading && (m.job.map fun j => j.loaded && decide (1 < j.image.modules)).getD false

/-- The restart's first fault: its record, event 0x800A, FREEZE, RESTARTING (R479–R481, R483). -/
def beginRestart (m : Mach) (f : FaultRec) : Mach :=
  let m := recordFault m f
  let window := odGet m 0x6000 3 * 217000000000
  let recent := m.restartTimes.filter fun t => m.now < t + window
  if odGet m 0x6000 2 ≤ recent.length then
    moduleFault m { f with code := 0x707, severity := 3, erg := 0, dune := 0xFF, row := 127, thread := 0, detail := 0, htc := htcNow m }
  else
    let m := { m with restartTimes := recent ++ [m.now], restart := some ⟨m.mode, f.severity, m.now, false⟩ }
    let m := sendFreeze (postEvent m 0x800A f.erg f.dune f.code.toNat) f.beat
    if m.mode = .loading then m
    else stepTwo (closeDue ((openBeat m) + 1 - ((m.job.map (·.nextClose)).getD 0)) (setState m .restarting) (htcNow m))

/-- A further fault joins the restart (R480). -/
def joinRestart (m : Mach) (r : Restart) (f : FaultRec) : Mach :=
  let m := if (jobDunes m).all fun d => (getDune m d).frozen then m else sameBeat m
  let up := r.severity < f.severity
  let m := { m with restart := some { r with severity := max r.severity f.severity } }
  if up ∧ r.ended ∧ m.sheetWriting.isNone ∧ odGet m 0x6000 1 = 0 ∧ m.mode = .restarting then beginSheet m (restartSheet m f.severity) else m

/-- A FAULT that has reached the module steward (R475, R480, R481). -/
def handleFault (m : Mach) (f : FaultRec) : Mach :=
  if f.severity = 3 then moduleFault (if m.job.isSome then holdBeat m f.beat else m) f
  else
    let m := giveUpDune (count m 0x6010 2 1) f
    if m.mode = .faulted ∨ m.mode = .dumping ∨ m.mode = .thermalHalt ∨ m.mode = .off then m
    else if m.mode = .running ∨ m.mode = .draining ∨ waitsForT0 m ∨ m.restart.isSome then
      let m := holdBeat m f.beat
      match m.restart with
      | some r => joinRestart m r f
      | none => beginRestart m f
    else recordFault m f

/-! ## The restart's work (R272, R273, R474, R481 steps 4–6) -/

/-- R272 item 2: each virtual dune keeps its dune if it still fits, or takes its first fitting, untaken alternate. -/
def remapFrom (m : Mach) (j : Job) (lost : List Nat) : Option (List (Nat × Nat)) :=
  let vs := vdunesUp j.image
  let kept := vs.filterMap fun v => match physOf j.map (vduneNum v) with
    | some k => if fits m lost k v then some (vduneNum v, k) else none
    | none => none
  vs.foldl (fun acc v => match acc with
    | none => none
    | some mp =>
      if mp.any fun e => e.1 == vduneNum v then some mp
      else (pickDune m lost j.ergMap (mp.map (·.2)) v).map fun k => mp ++ [(vduneNum v, k)]) (some kept)

/-- The mapping of a restart with its erg map, or the code that refuses it (R272). -/
def remap (m : Mach) (j : Job) (lost : List Nat) : (List (Nat × Nat) × Nat) ⊕ (Nat × Nat) :=
  match remapFrom m j lost with
  | some mp =>
    let mp := sortBy (fun a b => a.1 ≤ b.1) mp
    if (candidateFault m j.image j.proof lost mp).isNone then .inl (mp, j.ergMap) else findMapping m j.image j.proof lost
  | none => findMapping m j.image j.proof lost

/-- A bank of the same plate and generation that is intact (R474). -/
def intactBank (m : Mach) (d : BankData) : Option BankData :=
  m.rows.findSome? fun e => e.2.sites.findSome? fun s =>
    if s.2.state != .active && s.2.state != .shadow then none
    else [s.2.bankA, s.2.bankB].findSome? fun b =>
      if b.complete && b.data.vplate == d.vplate && b.data.generation == d.generation && b.data.valid then some b.data else none

/-- Invalid golden records rebuilt; none where one cannot be (GOLDEN_LOST). -/
def rebuildGolden (m : Mach) (g : SMap (Option BankData)) : Option (SMap (Option BankData)) :=
  g.mapM fun e => match e.2 with
    | some d => if d.valid then some e else (intactBank m d).map fun b => (e.1, some b)
    | none => some e

/-- Step 4 for one row: BUSY sites are FREE, due retirements take effect; the active plates to be re-exposed in place. -/
def settleRow (m : Mach) (r : RowId) : Mach × List Nat :=
  let w := getRow m r
  let cut := w.upkeep.filterMap fun u => if u.goal == .reexpose then some u.plate else none
  let again := w.sites.filterMap fun e => if e.2.state == .active && (e.2.hardDue || e.2.deferred) then e.2.plate else none
  let plates := again ++ cut ++ w.softPlates.map fun e => e.1
  let gone := w.sites.filterMap fun e =>
    if e.2.state == .active && (e.2.retireDue || w.upkeep.any fun u => u.goal == .retire && some u.plate == e.2.plate)
    then some e.1 else none
  let w := { w with upkeep := [], softPlates := [], strip := none, writer := none
                    sites := smap {} w.sites fun _ x => if x.state == .busy then { x with state := .free, plate := none } else x }
  (gone.foldl (fun m s => retireSite (countRepeat m r (getSite w s)) r s) (setRow m r w), plates)

/-- Step 4 for the rows of the job: each row's plates that are to be re-exposed. -/
def settleRows : List RowId → Mach → Mach × List (RowId × List Nat)
  | [], m => (m, [])
  | r :: rest, m =>
    let a := settleRow m r
    let b := settleRows rest a.1
    (b.1, if a.2.isEmpty then b.2 else (r, a.2) :: b.2)

/-- The ACTIVE sites of a row with their plates. -/
def activePlates (w : RowState) : List (Nat × Nat) :=
  w.sites.filterMap fun e => if e.2.state == .active then e.2.plate.map fun p => (e.1, p) else none

/-- A plate re-exposed in place (R481 step 5). -/
def reexposeInPlace (m : Mach) (ts : List SiteTrial) (r : RowId) (n : Nat) (d : MemDecl) (plate : Nat) : Mach :=
  match activeSite (getRow m r) plate with
  | none => m
  | some (s, _) =>
    let m := loadBanks m ts r s plate d n
    let w := getRow m r
    countRow (setRow m r (setSite w s { getSite w s with hardDue := false, deferred := false, reexposed := true })) r 0x6140 4 1

/-- Step 5 for one row under the new mapping: rewritten where its dune's or its sites' mapping changed, or the image has
a bank plan; else only the plates that are to be re-exposed. -/
def restartRow (m : Mach) (ts : List SiteTrial) (j : Job) (mp : List (Nat × Nat)) (n : Nat) (r : RowId) (plates : List Nat) : Mach :=
  let old := activePlates (getRow m r)
  let mask := match hostedRow j.image mp r with
    | some x => x.2.plateMask
    | none => 0
  let new := mapRowSites m r mask
  let moved := (j.map.find? fun e => e.2 == duneKey r.dune) != (mp.find? fun e => e.2 == duneKey r.dune)
  if moved ∨ j.image.mem.bankUse ≠ .single ∨ new.any (fun e => !old.contains e) then
    let m := loadRow (mapSites m r mask .active) ts r j.image.mem n .active
    let w := getRow m r
    let again := plates.filter fun p => new.any fun e => e.2 == p
    let m := setRow m r { w with sites := smap {} w.sites fun _ x =>
      if x.state == .active && x.plate.any again.contains then { x with reexposed := true } else x }
    countRow m r 0x6140 4 again.length
  else
    let w := getRow m r
    let m := setRow m r { w with sites := smap {} w.sites fun _ x =>
      if x.state == .shadow then { x with state := .free, plate := none } else { x with deferred := false, hardDue := false } }
    plates.eraseDups.foldl (fun m p => reexposeInPlace m ts r n j.image.mem p) m

/-- A byte of fabric SRAM lies in a reserved region (R163). -/
def reservedCell (a : Nat) : Bool :=
  match sramAddr (BitVec.ofNat 64 a) with
  | some (r, buf, off) => touchesReserved r buf off 1
  | none => false

/-- Steps 4 to 6 of a restart whose next beat is n, done once; the Boolean says that it failed as a module fault. -/
def restartOnce (m : Mach) (ts : List SiteTrial) (j : Job) (n : Nat) : Mach × Bool :=
  let lost := (j.lost ++ ((j.map.map (·.2)).filter fun k => (sget {} m.dunes k).power != .usable)).eraseDups
  let settled := settleRows (j.map.flatMap fun e => duneRows (duneOf e.2)) m
  let m := settled.1
  let fail := fun (m : Mach) (code : Nat) =>
    (moduleFault m ⟨BitVec.ofNat 16 code, 3, 0, 0xFF, 127, 0, n, 0, htcNow m⟩, true)
  match remap m j lost with
  | .inr (code, detail) => fail (odSet (odSet m 0x3010 3 code) 0x3010 4 detail) 0x708
  | .inl (mp, g) =>
    let m := readRecords m
    match rebuildGolden m m.golden, rebuildGolden m m.staging with
    | some go, some st =>
      let m := { m with golden := go, staging := st }
      let j' := { j with map := mp, ergMap := g, lost }
      let m := { m with job := some j' }
      let rows := ((j.map ++ mp).map (·.2)).eraseDups.flatMap fun k => duneRows (duneOf k)
      let m := rows.foldl (fun m r => restartRow m ts j mp n r (((settled.2.find? fun e => e.1 == r).map (·.2)).getD [])) m
      let m := stampDunes (writePrograms (clearRows m) j'.image mp (jobVariant j')) mp
      ({ m with sram := m.sram.filter fun c => reservedCell c.1 }, false)
    | _, _ => fail m 0x709

/-- The trials of a round that have retired their sites. -/
def roundLost (m m' : Mach) (ts : List SiteTrial) : List SiteTrial :=
  let new := m'.retirement.drop m.retirement.length
  ts.filter fun t => new.contains (siteKey t.row t.site.val)

/-- A row that a round leaves with fewer usable sites than its virtual dune needs: it is empty (R259, R483). -/
def emptiedRow (m : Mach) (j : Job) (lost : List SiteTrial) : Option RowId :=
  (lost.find? fun t => match j.image.vdunes.find? fun v => physOf j.map (vduneNum v) == some (duneKey t.row.dune) with
    | some v => !fits m j.lost (duneKey t.row.dune) v
    | none => false).map (·.row)

/-- The restart begins again at step 3, for a fault of its own work; it counts as a restart (R483). -/
def restartAgain (m : Mach) (r : RowId) (n : Nat) : Mach :=
  let m := raiseFault (count m 0x6010 3 1) 0x103 r.dune.erg.val r.dune.num.val r.num.val 0 n 0
  let window := odGet m 0x6000 3 * 217000000000
  let recent := m.restartTimes.filter fun t => m.now < t + window
  if odGet m 0x6000 2 ≤ recent.length then
    moduleFault m ⟨0x707, 3, 0, 0xFF, 127, 0, n, 0, htcNow m⟩
  else
    let m := { m with restartTimes := recent ++ [m.now] }
    let k := restartSheet m ((m.restart.map (·.severity)).getD 1)
    if k = 0 then m else beginSheet m k

/-- Steps 4 to 6: a round of strips that retires a site returns to step 4 with the next round (R481, R483). -/
def restartRounds (m : Mach) (j : Job) (n : Nat) : List (List SiteTrial) → Mach × Bool
  | [] => restartOnce m [] j n
  | ts :: rest =>
    let w := restartOnce m ts j n
    if w.2 || (roundLost m w.1 ts).isEmpty then w
    else match w.1.job with
      | none => w
      | some j' => match emptiedRow w.1 j' (roundLost m w.1 ts) with
        | some r => (restartAgain w.1 r n, true)
        | none => restartRounds w.1 j' n rest

/-- Steps 4 to 6 of a restart whose next beat is n, with the strips of its rounds; the Boolean says that it does not go on to
step 7. A restart that has moved a virtual dune counts (R273). -/
def restartWork (m : Mach) (j : Job) (n : Nat) (rounds : List (List SiteTrial)) : Mach × Bool :=
  let w := restartRounds m j n rounds
  if w.1.job.any fun k => k.map != j.map then (count w.1 0x3010 6 1, w.2) else w

/-! ## The anchor (R225, R481 steps 7, 8) -/

/-- Every island of the job given an anchor. -/
def setAnchor (m : Mach) (anchor n level : Nat) : Mach :=
  let p := periodOf m level
  { (jobDunes m).foldl (fun m d => setDune m d { getDune m d with
      anchor, anchorBeat := n, period := p, level, nextBeat := n, beat := none, pausedFrom := none, changes := [], fixes := []
      frozen := false }) (writeTables m ((m.job.map fun j => unusableDunes m j.lost).getD [])) with
    job := m.job.map fun j => { j with announcedTo := 0, levelAnnounced := level, planHeld := none, startAt := none } }

/-! ## The second that the fallback check looks back over (R247) -/

/-- The counts that the check of the next second looks back to. A widened firing is no precision event (R53, R55). -/
def fallbackNow (m : Mach) : FallbackBase :=
  let prec := [1, 2, 3, 5, 6, 7, 8, 9].foldl (fun n k => n + odGet m 0x6120 k) 0
  { stretched := odGet m 0x6170 2, beats := odGet m 0x6170 1, clamped := odGet m 0x6120 5, fast := odGet m 0x6130 1
    firings := odGet m 0x6130 1 + odGet m 0x6130 2, precision := prec, lastPost := m.fallback.lastPost, second := m.fallback.second }

/-- Where a restart has spanned a whole second of HTC, at which no check is made, the next one counts from that second on. -/
def rollFallback (m : Mach) : Mach :=
  let sec := htcNow m / 1000000000
  if m.fallback.second.all fun k => k < sec then { m with fallback := { fallbackNow m with second := some sec } } else m

/-- The module enters RUNNING, or DRAINING again, at anchor A (R481 step 8). A PAUSE announced before is discarded (R241). -/
def resumeJob (m : Mach) (r : Restart) (anchor n : Nat) : Mach :=
  let m := advance m (tuAt m anchor)
  let m := setAnchor (applyClassB (rollFallback m)) anchor n (odGet m 0x4100 2)
  let m := { m with restart := none, slotRuns := [], job := m.job.map fun j =>
    { j with faultBeat := none, faultNext := none, lastStarted := if n = 0 then none else some (n - 1), nextClose := n, sampledTo := n, clampedBeats := [], starts := [], unloadAt := none, slotBase := n } }
  let m := count m 0x6010 3 1
  let m := if 2 ≤ r.severity then count m 0x6010 4 1 else m
  let m := odSet m 0x6010 6 (min ((m.now - r.began) / 217000) 0xFFFFFFFF)
  setState m (if r.from_ = .loading then .running else r.from_)

/-- The number of the first beat after a restart: one above the highest beat started before the fault, later ones that FREEZE was too
late for left out (R225). -/
def restartBeat (m : Mach) : Nat := (m.job.bind fun j => j.faultNext).getD (((m.job.bind (·.lastStarted)).map (· + 1)).getD 0)

/-- A whole microsecond of HTC at least `lead` ns after the work of a restart, which takes a time that the manual bounds
only: it ends soon enough for R482. -/
def chooseAnchor (m : Mach) (began lead : Nat) : Nat × Mach :=
  let d := draw m
  let ready := max (m.now / 217) (began / 217) + Config.restartWork d.1 % 240000000
  let t := ((ready : Int) + m.htcOffset).toNat + lead
  (ceilDiv t 1000 * 1000, d.2)

end Sys2Proof.Machine
end

