-- ==== Sys2Proof/Machine/JobCtl.lean ====
section
/-! DEFINITION. JobCommand and what it sets off: loads (R256, R257, R271, R330, R432, R433), drains and unloads (R528–R530),
and entry into STANDBY (R378, R455, R525). -/

namespace Sys2Proof.Machine

/-! ## Entry into STANDBY -/

/-- Dunes shut down for heat are powered again (R455). -/
def reviveDunes (m : Mach) : Mach :=
  { m with dunes := smap {} m.dunes fun _ d => if d.power = .heat then { d with power := .usable, time := .acquire } else d }

/-- A pending HTC step is applied, a root in FREE with a source tries again, and dunes shut down for heat are powered again
(R375, R378, R455, R525). -/
def enterStandby (m : Mach) : Mach :=
  let m := if odGet m 0x5300 8 = 1 then odSet { moveRoot m m.pendingStep with pendingStep := 0 } 0x5300 8 0 else m
  let m := if rootState m = .free ∧ (m.ptpHeard ∨ m.timeParent.isSome) then
      let k := islandKey (.steward 0)
      { m with islands := sset {} m.islands k { sget {} m.islands k with time := .acquire } }
    else m
  setState (reviveDunes m) .standby

/-! ## The checks of JobCommand (R432, R433) -/

def jobCheck (m : Mach) (v : Via) (data : List Byte) : Option Nat :=
  let op := field data 0 1
  let value :=
    failIf (op < 1 || 3 < op) rangeErr
    <|> failIf (field data 1 3 != 0) layoutErr
    <|> (if op = 1 then failIf (field data 4 4 == 0) rangeErr <|> failIf (field data 8 8 % 4096 != 0) alignmentErr
      else failIf (field data 4 12 != 0) layoutErr)
  checkWrite m v 0x3000 1 data value (failIf (m.mode != (if op = 1 then .standby else .running)) wrongState)

/-! ## Loads (R256, R330) -/

def setLoadResult (m : Mach) (code detail : Nat) : Mach := odSet (odSet m 0x3010 3 code) 0x3010 4 detail

/-- A load is refused: every bank written so far incomplete, no route table, STANDBY (R256). -/
def refuseLoad (m : Mach) (code detail : Nat) : Mach :=
  let m := { m with
    job := none
    rows := smap {} m.rows fun _ w => { w with sites := smap {} w.sites fun _ x =>
      if x.state = .busy then { markIncomplete (markIncomplete x .a) .b with state := .free, plate := none } else x }
    dunes := smap {} m.dunes fun _ d => { d with hosted := none } }
  giveAnswers (enterStandby (setLoadResult m code detail)) (objKey 0x3000 1) (loadRefused code)

/-- Entry into LOADING: counters at 0, a job key drawn, route tables of their own again, dunes shut down for heat powered again (R180,
R221, R249, R455). -/
def enterLoading (m : Mach) : Mach :=
  let m := odClear (setState (reviveDunes m) .loading) resetsAtLoading
  let k := draw m
  let m := odSet k.2 0x2230 5 (Config.freeWord k.1).toNat
  let m := { m with
    hardWaiting := []
    fallback := { lastPost := m.fallback.lastPost, second := m.fallback.second }
    hbmServed := [], hbmMoved := 0, hbmWindow := m.now
    dunes := smap {} m.dunes fun _ d => { d with frozen := false } }
  writeTables (clearRows m) []

/-- The mapping found and every site of it BUSY (R256, R261). -/
def placeJob (m : Mach) (j : Job) (mp : List (Nat × Nat)) (g : Nat) : Mach :=
  let m := { m with job := some { j with map := mp, ergMap := g }, golden := [], staging := [],
                    hbmPatch := m.hbmPatch.filter fun e => sheetBase ≤ e.1 }
  let size := goldenSize m j.image
  let m := odSet (odSet (odSet m 0x2230 1 (allotmentSize m j.image)) 0x2230 2 (sheetBase - size)) 0x2230 3 size
  stampDunes (mapAllSites m j.image mp .busy) mp

/-- What refuses a load before its plates are placed: an image on the stager that reaches beyond its BAR, both reads of which fail
(R388, R399), or a check of R256 (assumption 117). -/
def loadFault (m : Mach) (data : List Byte) (img : Image) (proof : Bool) : Refused :=
  (if odGet m 0x3140 4 = 1 ∧ odGet m 0x5400 1 = 1 then (beyondBar m data img).map (0x406, ·) else none)
  <|> loadChecks m img (field data 16 8) proof

/-- LOAD accepted: the checks of R256 up to the placement, and the answer held until the load ends (R425). `img` is none where
the image cannot be read (R399). -/
def loadRun (m : Mach) (v : Via) (data : List Byte) (img : Option Image) (reply : Option Reply) : Mach :=
  let m := holdAnswer { m with imageRetries := [] } v (objKey 0x3000 1) reply
  let proof := odGet m 0x3010 1 == 1
  let m := enterLoading m
  let stager := odGet m 0x3140 4 == 1
  -- without bifurcation no byte is read (R329)
  let m := if stager ∧ odGet m 0x5400 1 = 0 then m else readImage m data stager
  match img with
  | none => if stager ∧ odGet m 0x5400 1 = 0 then refuseLoad m 0x0207 0 else refuseLoad m 0x0406 0
  | some img =>
    let j : Job := { id := lo32 (field data 4 4), image := img, proof, map := [], ergMap := 0 }
    let m := { m with job := some j }
    match loadFault m data img proof with
    | some (code, detail) => refuseLoad (if code = 0x406 then count m 0x5401 4 2 else m) code detail
    | none =>
      match findMapping m img proof [] with
      | .inr (code, detail) => refuseLoad m code detail
      | .inl (mp, g) => placeJob (extendMeas m 4 img.digest) j mp g

/-- A dune goes OFF during a load: mapped again from the start, or refused the second time; also one that no virtual dune is mapped to,
for routes may pass it (R262, R271). -/
def loadLosesDune (m : Mach) (k : Nat) : Mach :=
  match m.job with
  | none => m
  | some j =>
    if m.mode ≠ .loading ∨ j.loaded then m
    else
      let vd := ((j.map.find? fun e => e.2 == k).map (·.1)).getD (firstVdune j.image)
      if 1 ≤ j.dunesLost then refuseLoad m 0x0206 vd
      else
        let j := { j with dunesLost := j.dunesLost + 1 }
        match findMapping m j.image j.proof [] with
        | .inr (code, detail) => refuseLoad m code detail
        | .inl (mp, g) => placeJob m j mp g

/-- The anchor at entry into RUNNING, and what starts with it (R225, R281, R330, R454, R554). -/
def startJob (m : Mach) (t0 : Nat) : Mach :=
  let m := advance m (tuAt m t0)
  let m := setAnchor m t0 0 0
  let m := { m with job := m.job.map fun (j : Job) => { j with nextClose := 0, sampledTo := 0, lastStarted := none, faultBeat := none, faultNext := none, slotBase := 0 } }
  let m := { m with slotRuns := [], driftGroup := false, driftSince := 0, fallback := { m.fallback with second := none } }
  announceLevel (resetWindows (setState m .running))

/-- The records of every bank of every plate placed in the golden and staging regions (R330 step 2). -/
def placeRecords (m : Mach) (j : Job) : Mach :=
  j.image.weights.foldl (fun m e => placeRecord m j.image.mem e 1) (fillLoadBuffer m j.image)

/-- The load's last effects: programs, plates, measurements and results (R330). -/
def finishLoad (m : Mach) (ts : List SiteTrial) (j : Job) : Mach :=
  let d := j.image.mem
  let m := odSet m 0x3140 8 1
  let m := loadAllRows (clearRows (writePrograms m j.image j.map (jobVariant j))) ts d 0 .active
  let m := { m with job := m.job.map fun j => { j with loaded := true } }
  count (setLoadResult m 0 0) 0x3000 3 1

/-- The beat master chooses T0 and sends it once every module has reported its load: the first whole microsecond at least 1 ms
ahead (R363). -/
def chooseT0 (m : Mach) : Mach :=
  match m.job with
  | none => m
  | some j =>
    let all := (List.range j.image.modules).all fun i => j.reports.contains i
    if !beatMaster m ∨ !j.loaded ∨ !all ∨ j.startAt.isSome then m
    else
      let t0 := ceilDiv (htcNow m + 1000000) 1000 * 1000
      broadcastJob { m with job := some { j with startAt := some t0 } } 4 2 (lo32 t0) (hi32 t0) 0

/-- A module's report that its load is complete. -/
def noteReport (m : Mach) (index : Nat) : Mach :=
  { m with job := m.job.map fun j => { j with reports := if j.reports.contains index then j.reports else j.reports ++ [index] } }

/-- The end of a load's trial of a mapped site's bank. -/
def loadTrial (m : Mach) (d : MemDecl) (t : SiteTrial) : Option TrialEnd :=
  (getSite (getRow m t.row) t.site.val).plate.map fun p => siteTrial m [t] d 0 false t.row t.site.val p t.bank

/-- The trials of mapped sites that end with the site retired. -/
def lostTrials (m : Mach) (d : MemDecl) (ts : List SiteTrial) : List SiteTrial :=
  ts.filter fun t => (loadTrial m d t).any (·.retired)

/-- A site that a load gives up: its failures count and it is retired; a second trial of the same site adds nothing. -/
def loseSite (d : MemDecl) (m : Mach) (t : SiteTrial) : Mach :=
  match loadTrial m d t with
  | some e => retireSite (countTrial m t.row e) t.row t.site.val
  | none => m

/-- A load that has lost sites maps again without them and goes on (assumption 42). -/
def loadLosesSites (m : Mach) (j : Job) (lost : List SiteTrial) : Mach :=
  let m := lost.foldl (loseSite j.image.mem) m
  match findMapping m j.image j.proof [] with
  | .inr (code, detail) => refuseLoad m code detail
  | .inl (mp, g) => placeJob m j mp g

/-- LOAD_COMPLETE: every plate of the job is written and stripped, or a check made on the way has refused the load (R256). A single-module job runs from the next whole microsecond of
HTC (assumption 35); a multi-module one waits for T0 (R363). -/
def execLoadComplete (trials : List SiteTrial) (s : State) := nextM s fun m =>
  match m.job with
  | none => m
  | some j =>
    if m.mode ≠ .loading ∨ j.loaded then m
    else match lateChecks j.image with
    | some (code, detail) => refuseLoad m code detail
    | none =>
      let m := placeRecords m j
      if !(lostTrials m j.image.mem trials).isEmpty then loadLosesSites m j (lostTrials m j.image.mem trials)
      else
      let m := finishLoad m trials j
      if 1 < j.image.modules then
        let me := (j.image.moduleList.findIdx? fun x => x.toNat == odGet m 0x5200 2).getD 0
        chooseT0 (noteReport m me)
      else giveAnswers (startJob m ((htcNow m / 1000 + 1) * 1000)) (objKey 0x3000 1) 0

/-! ## Unloading (R529, R530) -/

/-- The beat of a PAUSE that has been announced or has taken effect. -/
def knownPause (m : Mach) : Option Nat :=
  let d := jobDuneState m
  match d.pausedFrom with
  | some n => some n
  | none => d.changes.findSome? fun c => match c with
    | .pause n => some n
    | _ => none

/-- SUBMITs that the steward still holds end with UNLOADED (R530). -/
def endTaken (m : Mach) : Mach :=
  (List.range 16).foldl (fun m f =>
    let fn := getFn m f
    let subs := fn.taken.filter fun e => e.2.opcode == 1
    let m := setFn m f { fn with taken := [] }
    subs.foldl (fun m e => match freeCtx m with
      | none => m
      | some c => endStatus (setCtx m c { state := .queued, fn := f, desc := some e.2, order := e.1 }) c 9 0 false) m) m

/-- Steps 2 and 3 of R530, once no beat runs: STANDBY. -/
def finishUnload (m : Mach) : Mach :=
  let m := endAll (endTaken (flushAll m)) 9 0
  let m := { m with golden := [], staging := [] }
  giveAnswers (enterStandby (dropJob m)) (objKey 0x3000 1) 0

/-- No beat of the job runs or will run before beat n. -/
def stoppedBefore (m : Mach) (n : Nat) : Bool :=
  match m.job with
  | some j => n ≤ j.nextClose
  | none => false

/-- Step 1 of R530: the PAUSE announced by the module that announces; elsewhere one that is known stands for it. -/
def beginUnload (m : Mach) : Mach :=
  let m := { m with unloading := true }
  if (m.job.map fun j => j.unloadAt.isSome).getD true then m
  else if announces m then
    let n := firstAnnounceable m
    let m := announcePause m n
    { m with job := m.job.map fun j => { j with unloadAt := some n } }
  else match knownPause m with
    | none => m
    | some n =>
      let m := { m with job := m.job.map fun j => { j with unloadAt := some n } }
      if stoppedBefore m n then finishUnload m else m

/-- The PAUSE by which the job unloads has run out. -/
def unloadDue (m : Mach) : Bool :=
  m.unloading && beatsRun m && (m.job.map fun j => j.unloadAt.any fun n => decide (n ≤ j.nextClose)).getD false

/-- DRAINING begins (R529). -/
def beginDrain (m : Mach) : Mach :=
  let m := setState { m with drainSince := m.now, draining := false } .draining
  let queued := skeys (fun x => x.state == .queued) m.ctxs
  endUnloaded m queued

/-- A replacement that DRAIN or UNLOAD meets: abandoned unless it has been announced (R530). The Boolean says that the command
waits for n_f. -/
def meetReplacement (m : Mach) : Mach × Bool :=
  if m.repl.isNone then (m, false)
  else if replAnnounced m then (m, true)
  else (giveFirst (abandonRepl m) (objKey 0x3140 1) (loadRefused 0x0707), false)

/-- DRAIN accepted. -/
def drainRun (m : Mach) (v : Via) (reply : Option Reply) : Mach :=
  let (m, wait) := meetReplacement (holdAnswer m v (objKey 0x3000 1) reply)
  if wait then { m with draining := true } else beginDrain m

/-- UNLOAD accepted. -/
def unloadRun (m : Mach) (v : Via) (reply : Option Reply) : Mach :=
  let (m, wait) := meetReplacement (holdAnswer m v (objKey 0x3000 1) reply)
  if wait then { m with unloading := true } else beginUnload m

/-- A DRAIN or UNLOAD that waited for n_f takes effect (R530). -/
def resumePendingEnd (m : Mach) : Mach :=
  let m := if m.draining then beginDrain m else m
  if m.unloading then beginUnload m else m

/-- DRAIN_COMPLETE: no context is live, and the module unloads (R529). -/
def execDrainComplete (s : State) := nextM s fun m =>
  if m.mode ≠ .draining ∨ m.unloading ∨ m.ctxs.any (fun e => e.2.state != .free) then m else beginUnload m

/-! ## JobCommand's rows -/

/-- JobCommand carried out by its operation. -/
def jobRun (m : Mach) (v : Via) (data : List Byte) (img : Option Image) (reply : Option Reply) : Mach :=
  match field data 0 1 with
  | 1 => loadRun m v data img reply
  | 2 => drainRun m v reply
  | _ => unloadRun m v reply

/-- JOB_LOAD. -/
def execJobLoad (v : Via) (data : List Byte) (img : Image) (s : State) := nextM s fun m =>
  commandRow m v (jobCheck m v data) fun m => jobRun m v data (some img) none

/-- JOB_DRAIN. -/
def execJobDrain (v : Via) (data : List Byte) (s : State) := nextM s fun m =>
  commandRow m v (jobCheck m v data) fun m => jobRun m v data none none

/-- JOB_UNLOAD. -/
def execJobUnload (v : Via) (data : List Byte) (s : State) := nextM s fun m =>
  commandRow m v (jobCheck m v data) fun m => jobRun m v data none none

end Sys2Proof.Machine
end

