-- ==== Sys2Proof/Machine/Beat.lean ====
section
/-! DEFINITION. Beats (R225–R250): the start of a beat program, segment marks, the commit check, closure, stretches, announced
changes and fixes as an island takes them, and the steward's checks of fallback and HBM balance (R181, R247). -/

namespace Sys2Proof.Machine

/-! ## Anchors and starts -/

/-- S(n) of the beat that an island runs: a stretch has moved its anchor on to the next (R237). -/
def currentStart (m : Mach) (x : DuneState) (b : Beat) : Nat :=
  if b.stretched.isSome then x.anchor - (x.period + basePeriod m) else beatInstant x b.n

/-- S(n) remembered for the closure of beat n − 1; the Boolean says that no island had reached it before. -/
def noteStart (m : Mach) (n s : Nat) : Mach × Bool :=
  match m.job with
  | none => (m, false)
  | some j =>
    if j.starts.any fun e => e.1 == n then (m, false)
    else ({ m with job := some { j with starts := j.starts ++ [(n, s)] } }, true)

/-- The beat that a change names; a RESUME names the beat that a PAUSE holds. -/
def changeBeat : BeatChange → Option Nat
  | .period n _ _ => some n
  | .pause n => some n
  | .resume _ => none

/-- A PERIOD change of beat n applied to an island (R240). -/
def applyPeriod (x : DuneState) (n : Nat) : DuneState :=
  x.changes.foldl (fun x c => match c with
    | .period k level p => if k = n then { x with anchor := beatInstant x n, anchorBeat := n, period := p, level } else x
    | _ => x) x

/-- An island of the job that may run a beat program: powered, in time and not frozen (R215, R478). -/
def mayRun (m : Mach) (d : DuneId) : Bool :=
  let x := getDune m d
  isJobDune m d && (beatsRun m || m.mode == .restarting) && !x.frozen && x.power == .usable
  && (x.time == .locked || x.time == .holdover)

/-! ## The commit check (R244) -/

/-- W_k of a row of the running job (R232). -/
def rowMargin (m : Mach) (r : RowId) (k : Nat) : Nat :=
  match m.job, (getDune m r.dune).hosted with
  | some j, some v => (((jobVariant j).segRows.find? fun e => e.vdune == v && e.row == r.num).map fun e => e.margins.getD k 0).getD 0
  | _, _ => 0

/-- Every live thread of a row has issued SEAL and its row driver holds no firing in progress. A row that a fault has stopped does not
seal (R86, R159). -/
def rowSealed (m : Mach) (r : RowId) : Bool :=
  (getRow m r).firing.isNone && !(getRow m r).stopped && m.threads.all fun e => e.1 / 128 != rowKey r || !e.2.live || e.2.sealed

/-- The rows of a dune checked: a row that has not sealed stops, and the island raises SEAL_MISS for it. -/
def commitRows (m : Mach) (d : DuneId) : Mach :=
  (duneRows d).foldl (fun m r => if rowSealed m r then m else rowFault (count m 0x6170 7 1) r 0x201 0 0) m

/-- The check in the first cycle C(n), once a beat. -/
def commitBeat (m : Mach) (d : DuneId) : Mach :=
  let x := getDune m d
  match x.beat with
  | none => m
  | some b =>
    if b.checked then m
    else
      let m := advance m (cycleStart m b (commitCycle m x b))
      commitRows (setDune m d { getDune m d with beat := some { b with checked := true } }) d

/-- COMMIT_CHECK. -/
def execCommitCheck (d : DuneId) (s : State) := nextM s fun m => if mayRun m d then commitBeat m d else m

/-! ## The start of a beat (R227, R104, R410) -/

/-- The rows of a dune at cycle 0: nothing issued, no barrier open, the margin of segment 0. -/
def resetRows (m : Mach) (d : DuneId) : Mach :=
  let m := (duneRows d).foldl (fun m r =>
    let w := getRow m r
    setRow m r { w with stopped := false, barriers := [], driverFree := 0, firing := none, account := rowMargin m r 0, raised := false }) m
  { m with threads := smap {} m.threads fun k t =>
      if k / 12288 = duneKey d ∧ t.live then { t with sealed := false, stall := none, nextIssue := k % 8 } else t }

/-- A fix on a site: its latent bank becomes fixed, and with the bank its scales, trims and tally (R103). An incomplete bank of
an ACTIVE site is never fixed (R100), and a SHADOW with one no longer stands for its plate. -/
def fixSite (x : Site) : Site :=
  match x.state with
  | .active => if (latentBank x).complete then { x with fixedB := !x.fixedB } else x
  | .shadow => if (latentBank x).complete then { x with fixedB := !x.fixedB } else { x with state := .free, plate := none }
  | .busy => { x with fixedB := !x.fixedB }
  | _ => x

/-- A fix on a dune: every ACTIVE, SHADOW and BUSY site in one step, and the upkeep of BUSY sites by their new roles (R103,
R116). -/
def fixDune (m : Mach) (d : DuneId) : Mach :=
  replanDune { m with rows := smap {} m.rows fun k w =>
      if k / 96 = duneKey d then
        let w := { w with sites := smap {} w.sites fun _ x => fixSite x }
        { w with writer := writeJob w }
      else w } d

/-- What the first island to start beat n sets off in the module. `fixes` is the number of fixes that apply at the boundary. -/
def startsBeat (m : Mach) (n s fixes : Nat) : Mach :=
  let m := count (applyClassB m) 0x6170 1 1
  let m := if 0 < (jobDuneState m).level then count m 0x6170 5 1 else m
  let m := count { m with job := m.job.map fun j => { j with
    lastStarted := some n, fixedB := if fixes % 2 = 1 then !j.fixedB else j.fixedB } } 0x6190 3 fixes
  let m := if replStarts m n s then resumePendingEnd (replDone m n) else m
  serveStart m n

/-- A plan boundary that meets a streamed plate that is not ready: beats stop there as under R335, whether or not the check has
announced it (R104). -/
def planLate (m : Mach) (j : Job) (n : Nat) : Bool :=
  j.image.mem.bankUse == .streamed && planFixAt j.image.mem n && !latentReady m

/-- A RESUME takes effect in an island whose beats are paused: they go on with the first beat not started, at anchor A (R240). -/
def applyResume (m : Mach) (d : DuneId) (a : Nat) : Mach :=
  let x := getDune m d
  let n := x.nextBeat
  let first := !(jobDunes m).any fun e => (getDune m e).anchor == a && (getDune m e).anchorBeat == n && (getDune m e).pausedFrom.isNone
  let changes := x.changes.filter fun c => c != .resume a
  let m := setDune m d { x with pausedFrom := none, anchor := a, anchorBeat := n, changes }
  if first then count { m with job := m.job.map fun j => { j with starts := j.starts ++ [(n, a)] } } 0x6170 6 1 else m

/-- The RESUME that an island has received before the PAUSE it answers took effect. -/
def waitingResume (x : DuneState) : Option Nat := x.changes.findSome? fun c => match c with
  | .resume a => some a
  | _ => none

/-- An island reaches S(n) of its next beat: a PAUSE that names it stops the beats, until a RESUME received by then restarts them; else
the program starts. -/
def reachBeat (m : Mach) (j : Job) (d : DuneId) : Mach :=
  let m := commitBeat m d
  let n := (getDune m d).nextBeat
  let changed := (getDune m d).changes.any fun c => match c with
    | .period k _ _ => k == n
    | _ => false
  let x := applyPeriod (getDune m d) n
  let s := beatInstant x n
  let x := { x with beat := none, changes := x.changes.filter fun c => (changeBeat c).all fun k => n < k }
  if (getDune m d).changes.contains (.pause n) ∨ planLate m j n then
    let m := advance (setDune m d { x with pausedFrom := some n }) (copyTu m x.copy s)
    let m := if planLate m j n then { m with job := m.job.map fun j => { j with planHeld := some n } } else m
    let (m, first) := noteStart m n s
    let m := if first then count m 0x6170 6 1 else m
    match waitingResume x with
    | some a => applyResume m d a
    | none => m
  else
    let start := ceilDiv (copyTu m x.copy s) (cycleTu m) * cycleTu m
    let due : Nat := (x.fixes.filter fun f => decide (f.1 ≤ s)).length + (if planFixAt j.image.mem n then 1 else 0)
    let x := { x with beat := some { n, start }, nextBeat := n + 1, fixes := x.fixes.filter fun f => decide (s < f.1) }
    let m := resetRows (setDune (advance m start) d x) d
    let m := if due % 2 = 1 then fixDune m d else m
    let m := upkeepBoundary m d
    let first := j.lastStarted.all fun k => decide (k < n)
    let m := (noteStart m n s).1
    if first then startsBeat (if changed then count m 0x6170 6 1 else m) n s due else m

/-- BEAT_START. -/
def execBeatStart (d : DuneId) (s : State) := nextM s fun m =>
  match m.job with
  | none => m
  | some j => if mayRun m d ∧ (getDune m d).pausedFrom.isNone then reachBeat m j d else m

/-- SEGMENT_MARK: the unused margin lapses, and the next segment's begins (R231, R232, R235). -/
def execSegmentMark (d : DuneId) (s : State) := nextM s fun m =>
  match (getDune m d).beat, m.job with
  | some b, some j =>
    let k := b.segment + 1
    if !mayRun m d ∨ (jobVariant j).marksNs.length ≤ k then m
    else
      let m := advance m (cycleStart m b (markInForce m b b.segment))
      let m := setDune m d { getDune m d with beat := some { b with segment := k } }
      (duneRows d).foldl (fun m r => setRow m r { getRow m r with account := rowMargin m r k, raised := false }) m
  | _, _ => m

/-! ## Closure (R245) -/

/-- What waits for the closure of beat n. -/
def afterClose (m : Mach) (n : Nat) : Mach :=
  let paused := (m.repl.map fun r => r.pauseAt == some (n + 1) && r.firstBeat.isNone).getD false
  let m := if paused ∧ odGet m 0x3140 2 = 5 then replPaused m else m
  let m := if unloadDue m then finishUnload m else m
  if m.mode = .restarting then stepTwo m else m

/-- BEAT_CLOSE: beat n, the next to close, closes unless a fault of it or of an earlier beat has arrived. -/
def execBeatClose (n : Nat) (s : State) := nextM s fun m =>
  match m.job with
  | none => m
  | some j =>
    let held := j.faultBeat.any fun b => decide (b ≤ n)
    let started := j.lastStarted.any fun k => decide (n ≤ k)
    if !(beatsRun m || m.mode == .restarting) ∨ held ∨ !started ∨ j.nextClose ≠ n then m
    else
      let m := advance m (tuAt m (closesAt m n))
      afterClose (closeBeat m n) n

/-! ## Stretches (R237) -/

/-- The stretch of the beat that an island runs, at segment k. -/
def stretchBeat (m : Mach) (d : DuneId) (x : DuneState) (b : Beat) (k : Nat) : Mach :=
  let first := !(jobDunes m).any fun e => (getDune m e).beat.any fun c => c.n == b.n && c.stretched.isSome
  let m := setDune m d { x with beat := some { b with stretched := some k }
                                anchor := beatInstant x b.n + x.period + basePeriod m, anchorBeat := b.n + 1 }
  if first then count m 0x6170 2 1 else m

/-- STRETCH received by an island. -/
def execStretch (d : DuneId) (msg : MeshMsg) (s : State) := nextM s fun m => onMessage m (duneNode d) 2 msg fun m =>
  let x := getDune m d
  let k := msg.w2.toNat / 2 ^ 28
  if !isJobDune m d ∨ x.frozen ∨ x.power ≠ .usable ∨ !(beatsRun m || m.mode == .restarting) then m
  else
    let diverge := duneFault m d 0x202 127 0
    match x.beat with
    | none => diverge
    | some b =>
      if b.n % 2 ^ 32 ≠ msg.w1.toNat then diverge
      else match b.stretched with
        | some j => if j = k then m else diverge
        | none => if k < b.segment ∨ cycleStart m b (markCycle m k) < m.now then diverge else stretchBeat m d x b k

/-! ## Announced changes (R240–R242, R342) -/

/-- An island that takes announcements: one of the job, not frozen. -/
def takesChanges (m : Mach) (d : DuneId) : Bool := isJobDune m d && !(getDune m d).frozen && (getDune m d).power == .usable

/-- An announcement kept by an island, once. A PERIOD whose level is above 8 is none (DESIGN CHOICE, assumption 136: R240 gives the
field 0–8 and no treatment of other values), nor a RESUME with no PAUSE before it. -/
def keepChange (m : Mach) (d : DuneId) (c : BeatChange) : Mach :=
  let x := getDune m d
  if x.changes.contains c then m else setDune m d { x with changes := x.changes ++ [c] }

/-- A PERIOD or PAUSE for a beat that has started in the island is late. -/
def namedChange (m : Mach) (d : DuneId) (n : Nat) (c : BeatChange) : Mach :=
  if n < (getDune m d).nextBeat then duneFault m d 0x203 127 0 else keepChange m d c

/-- The 64-bit number in words 1 and 2. -/
def msgLong (x : MeshMsg) : Nat := x.w1.toNat + 2 ^ 32 * x.w2.toNat

def msgKind (x : MeshMsg) : Nat := natBits x.w3.toNat 31 28

/-- BEAT_CHANGE of kind PERIOD. One whose level is above 8 changes nothing (DESIGN CHOICE, assumption 136). -/
def execBeatChangePeriod (d : DuneId) (msg : MeshMsg) (s : State) := nextM s fun m => onMessage m (duneNode d) 3 msg fun m =>
  let level := natBits msg.w3.toNat 27 24
  if takesChanges m d ∧ msgKind msg = 0 ∧ level ≤ 8 then
    namedChange m d (msgLong msg) (.period (msgLong msg) level (natBits msg.w3.toNat 23 0))
  else m

/-- BEAT_CHANGE of kind PAUSE. -/
def execBeatChangePause (d : DuneId) (msg : MeshMsg) (s : State) := nextM s fun m => onMessage m (duneNode d) 3 msg fun m =>
  if takesChanges m d ∧ msgKind msg = 1 then namedChange m d (msgLong msg) (.pause (msgLong msg)) else m

/-- The island's beats are paused, or will be: a PAUSE is announced. -/
def pauseKnown (x : DuneState) : Bool := x.pausedFrom.isSome || x.changes.any fun c => match c with
  | .pause _ => true
  | _ => false

/-- BEAT_CHANGE of kind RESUME: late once its anchor has passed; kept until the PAUSE that it answers takes effect. -/
def execBeatChangeResume (d : DuneId) (msg : MeshMsg) (s : State) := nextM s fun m => onMessage m (duneNode d) 3 msg fun m =>
  match m.job with
  | none => m
  | some j =>
    let x := getDune m d
    if !takesChanges m d ∨ msgKind msg ≠ 2 then m
    else if msgLong msg < copyHtc m x.copy then duneFault m d 0x203 127 0
    else if x.pausedFrom.isSome then applyResume m d (msgLong msg)
    else if x.changes.contains (.pause x.nextBeat) ∧ beatInstant x x.nextBeat ≤ copyHtc m x.copy then
      reachBeat (keepChange m d (.resume (msgLong msg))) j d
    else if pauseKnown x then keepChange m d (.resume (msgLong msg))
    else m

/-- FIX received by an island (R342). -/
def execFix (d : DuneId) (msg : MeshMsg) (s : State) := nextM s fun m => onMessage m (duneNode d) 6 msg fun m =>
  let x := getDune m d
  let t := msgLong msg
  if !takesChanges m d then m
  else if x.beat.any fun b => decide (t ≤ currentStart m x b) then duneFault m d 0x203 127 0
  else if x.fixes.contains (t, natBits msg.w3.toNat 23 0) then m
  else setDune m d { x with fixes := x.fixes ++ [(t, natBits msg.w3.toNat 23 0)] }

/-! ## Sustained fallback (R247) -/

/-- A numerator times 10^6 exceeds the limit times its denominator, which is not 0. -/
def exceeds (num den limit : Nat) : Bool := den != 0 && limit * den < num * 1000000

/-- FALLBACK_CHECK: the check at the next whole second of HTC. None is made while a restart is under way. -/
def execFallbackCheck (s : State) := nextM s fun m =>
  if m.mode = .restarting then rollFallback (advance m (tuAt m (ceilDiv (htcNow m) 1000000000 * 1000000000)))
  else if !beatsRun m then m
  else
    let here := ceilDiv (htcNow m) 1000000000
    let sec := match m.fallback.second with
      | some k => max here (k + 1)
      | none => here
    let m := advance m (tuAt m (sec * 1000000000))
    let a := m.fallback
    let b := fallbackNow m
    let stretch := exceeds (b.stretched - a.stretched) (b.beats - a.beats) (odGet m 0x3021 1)
    let clamp := exceeds (b.clamped - a.clamped) (b.fast - a.fast) (odGet m 0x3021 2)
    let prec := exceeds (b.precision - a.precision) (b.firings - a.firings) (odGet m 0x3021 3)
    let value := (if stretch then 1 else 0) + (if clamp then 2 else 0) + (if prec then 4 else 0)
    let t := sec * 1000000000
    let post := value ≠ 0 ∧ a.lastPost.all fun p => decide (p + 10000000000 ≤ t)
    let m := { m with fallback := { b with second := some sec, lastPost := if post then some t else a.lastPost } }
    if post then postEvent (count m 0x6170 8 1) 0x8002 0 0xFF value else m

/-! ## HBM balance (R181) -/

/-- HBM_IMBALANCE_WINDOW_END. -/
def execHbmImbalanceWindowEnd (s : State) := nextM s fun m =>
  if !powered m then m
  else
    let m := advance m (m.hbmWindow + odGet m 0x2231 2 * 217000000)
    let total := m.hbmServed.foldl (fun n e => n + e.2) 0
    let busiest := m.hbmServed.foldl (fun (b : Nat × Nat) e => if b.2 < e.2 then e else b) (0, 0)
    let ratio := if total = 0 then 0 else busiest.2 * 2048 / total
    let bad := total ≠ 0 ∧ odGet m 0x2231 3 * 2 ^ 20 ≤ m.hbmMoved ∧ odGet m 0x2231 1 * total ≤ busiest.2 * 2048
    let m := odSet { m with hbmServed := [], hbmMoved := 0, hbmWindow := m.now } 0x6160 5 (max (odGet m 0x6160 5) ratio)
    if !bad then m
    else
      let m := odSet (count m 0x6160 4 1) 0x6160 6 busiest.1
      if m.imbalancePost.all fun p => decide (p + 10 * 217000000000 ≤ m.now) then
        postEvent { m with imbalancePost := some m.now } 0x8001 (busiest.1 / 64 / 8) 63 busiest.1
      else m

end Sys2Proof.Machine
end

