-- ==== Sys2Proof/Machine/Fabric.lean ====
section
/-! DEFINITION. Dunes that go OFF and the routes around them (R219–R221), lanes of the control mesh (R213), and time inside the
module (R214–R217). -/

namespace Sys2Proof.Machine

/-! ## Dunes that are switched off (R219) -/

/-- Another dune of the erg is OFF. -/
def otherOff (m : Mach) (d : DuneId) : Bool :=
  (List.range 48).any fun k => k != d.num.val && duneIsOff m (48 * d.erg.val + k)

/-- Flits or units of a packet are inside a dune. -/
def insideDune (m : Mach) (k : Nat) (p : Packet) : Bool :=
  (m.flits.any fun e => e.1 / 32 / 96 == k && e.2.any fun f => f.pkt == p.id)
  || m.arrivals.any fun e => e.1 / 96 == k && e.2.any fun u => u.pkt == p.id

/-- A packet lost with a dune. Firmware traffic is acknowledged end to end, so its sender sends it again, along the tables that its
routers hold by now (R219). -/
def losePacket (k : Nat) (m : Mach) (p : Packet) : Mach :=
  let m := removePacket m p.id
  match p.cargo, p.src with
  | .event .., some src =>
    if duneKey src.dune = k then m else sendPacket m src (rowOf (p.route.getLastD 0)) { p with exit := edgePort }
  | _, _ => m

/-- A dune loses its supply: its clock stops, its work in progress and the packets inside it are lost, and its neighbours take
their alternate tables for it. A second OFF dune of an erg leaves the erg without tables for it (R220). -/
def duneGoesOff (m : Mach) (d : DuneId) (p : DunePower) : Mach :=
  let x := getDune m d
  let k := duneKey d
  if x.power ≠ .usable then m
  else
    let second := otherOff m d
    let m := if x.time = .holdover then noteHoldover m x.holdSince else m
    let m := setDune m d { x with power := p, time := .acquire, copy := {}, beat := none, alternates := !second, basking := false }
    let m := (m.packets.filter (insideDune m k)).foldl (losePacket k) m
    let m := { m with
      rows := smap {} m.rows fun r w =>
        if r / 96 = k then { w with stopped := true, firing := none, strip := none, writer := none, bask := none } else w
      loads := m.loads.filter fun l => duneKey l.thread.core.row.dune != k
      queues := m.queues.filter fun q => q.1 / 1536 != k
      tablesStale := if second then m.tablesStale ||| BitVec.ofNat 4 (2 ^ d.erg.val) else m.tablesStale }
    loadLosesDune m k

/-- DUNE_OFF: a dune loses its supply. One that the running job uses faults the job as an e-fuse trip does, the supply's loss
having no other cause here (R219, R446). -/
def execDuneOff (d : DuneId) (s : State) := nextM s fun m =>
  let used := m.job.isSome && usesDune m (duneKey d) && (getDune m d).power == .usable && m.mode != .loading
  let m := duneGoesOff m d .off
  if used then raiseFault m 0x601 d.erg.val d.num.val 127 0 (beatHere m) 0 else m

/-! ## New route tables (R220) -/

/-- ROUTE_TABLE_REWRITE: the erg's new tables lead around every OFF dune of it, and held packets go on or are discarded, in the order
held. -/
def execRouteTableRewrite (e : Fin 4) (s : State) := nextM s fun m =>
  if !ergStale m e.val then m
  else
    let m := { m with
      tablesStale := m.tablesStale &&& ~~~(BitVec.ofNat 4 (2 ^ e.val))
      dunes := smap {} m.dunes fun k d => if k / 48 = e.val && duneIsOff m k then { d with alternates := true } else d }
    (m.packets.filter (·.held)).foldl releaseHeld m

/-! ## The control mesh (R211, R213) -/

/-- The node at which a control-mesh link ends: links are numbered 4 · node + direction (assumption 39). -/
def linkNode (link : Nat) : Nat := link / 4 % 256

/-- CONTROL_PARITY_ERROR: the word is sent again, which counts in ControlRetries (R472); a lane on which it fails twice is retired, and the second lane of a link that
fails so is a fatal fault. -/
def execControlParityError (link : Nat) (lane : Fin 2) (twice : Bool) (s : State) := nextM s fun m =>
  let bad := sget 0 m.ctlLanes link
  let m := if powered m then count m 0x6020 8 1 else m
  if !twice ∨ bad / 2 ^ lane.val % 2 = 1 ∨ !powered m then m
  else
    let node := linkNode link
    let erg := node / 64 % 4
    let m := { m with ctlLanes := sset 0 m.ctlLanes link (bad + 2 ^ lane.val) }
    let m := if node % 64 < 48 then countDune m erg (node % 64) 0x5101 10 1 else count m 0x5101 10 1
    if bad = 0 then m
    else raiseFault m 0x701 erg (if node % 64 < 48 then node % 64 else 63) 127 0 (beatHere m) 0

/-- CONTROL_MESSAGE_DISCARD. -/
def execControlMessageDiscard (node : BitVec 8) (msg : MeshMsg) (s : State) := nextM s fun m =>
  if msgBad msg then countDiscard m node.toNat else m

/-! ## Time inside the module (R214–R217) -/

/-- An offset measured at an island, in ps: kept for a second, as far as no later one hides it. -/
def noteOffset (m : Mach) (ps : Nat) : Mach :=
  { m with offsets := (m.offsets.filter fun e => m.now ≤ e.1 + 217000000000 && ps < e.2) ++ [(m.now, ps)] }

/-- TIMING_PULSE_EXCHANGE: a child measures its offset from its parent and steers; what the parent lacks on the root adds to it. A
copy in HOLDOVER is steered again, and never stepped. -/
def execTimingPulseExchange (i : Island) (offsetPs : Int) (s : State) := nextM s fun m =>
  if i = rootIsland ∨ !islandRuns m i then m
  else
    let x := islandState m i
    let skew := parentSkew m i + offsetPs * 65536 / 1000
    noteOffset (setIsland m i { x with exchanged := m.now, copy := { x.copy with skew, since := m.now, drift := none } })
      (skew * 1000 / 65536).natAbs

/-- ISLAND_LOCK: an island in ACQUIRE or HOLDOVER is steered by its parent. The root needs a source (R375). A dune in HOLDOVER whose
exchanges have not resumed reattaches to a LOCKED neighbour of its erg (R217). -/
def execIslandLock (i : Island) (s : State) := nextM s fun m =>
  let x := islandState m i
  let source := i != rootIsland || m.ptpHeard || m.timeParent.isSome
  if !islandRuns m i ∨ !source then m
  else match x.time with
    | .acquire => setIsland m i { x with time := .locked }
    | .holdover =>
      let again := m.now < x.exchanged + 3 * 217000 || i == rootIsland
      let next := if again then x.copy.parent else lockedNeighbour m i
      let copy := { x.copy with skew := skewAt x.copy m.now, since := m.now, drift := none, parent := next, limited := false }
      noteHoldover (setIsland m i { x with time := .locked, copy }) x.holdSince
    | _ => m

/-- HOLDOVER_ENTRY: 3 µs without an exchange with the parent (R215), for the root without a TIME frame (R375). -/
def execHoldoverEntry (i : Island) (s : State) := nextM s fun m =>
  let x := islandState m i
  if !islandRuns m i || !(x.time == .locked || (i == rootIsland && x.time == .acquire)) then m
  else
    let m := advance m (x.exchanged + 3 * 217000)
    let d := draw m
    let c := (islandState m i).copy
    let copy : HtcCopy := { c with skew := skewAt c m.now, since := m.now, drift := some d.1, limited := false }
    setIsland d.2 i { islandState m i with
      time := .holdover, holdSince := m.now, copy := if i = rootIsland then { c with limited := false } else copy }

/-- HOLDOVER_LIMIT: 10 ms of holdover, once each. A dune on which a job runs faults the job; another island posts the time event (R217). -/
def execHoldoverLimit (i : Island) (s : State) := nextM s fun m =>
  let x := islandState m i
  if !islandRuns m i ∨ x.time ≠ .holdover ∨ i = rootIsland ∨ x.copy.limited then m
  else
    let m := noteHoldover (advance m (x.holdSince + 10 * 217000000 + 1)) x.holdSince
    let m := setIsland m i { islandState m i with copy := { (islandState m i).copy with limited := true } }
    match i with
    | .dune d =>
      if isJobDune m d ∧ (beatsRun m ∨ m.mode = .restarting) then
        duneFault (count m 0x5110 6 1) d 0x302 127 0
      else m
    | i => postEvent m 0x8008 (islandNode i / 64) 63 (islandNode i)

end Sys2Proof.Machine
end

