-- ==== Sys2Proof/Machine/Arrive.lean ====
section
/-! DEFINITION. Packets that reach their rows (R149, R174, R208). -/

namespace Sys2Proof.Machine

/-- A packet's first unit has reached its arrival port, or it never will. -/
def hasArrived (id : Nat) (m : Mach) : Bool :=
  match m.packets.find? fun p => p.id == id with
  | none => true
  | some p => p.verdict.isSome || p.held

/-- PUT_ARRIVAL: the fabric runs until the first unit of packet `id` reaches the arrival port, where it is checked (R149, R174). -/
def execPutArrival (id : Nat) (s : State) := nextM s (runUntil (hasArrived id) fabricFuel)

end Sys2Proof.Machine
end

