-- ==== Sys2Proof/Machine/Conv.lean ====
section
/-! DEFINITION. Family CONV: conversions between lane types, K4 blocks and MX blocks (R136, R141–R143). -/

namespace Sys2Proof.Machine

/-- A CONV instruction: vd, va and an immediate; b is unused. -/
def conv (op : Nat) (legalImm : Bool) (srcs : List Nat) (t : Thread) (f : Fields) (m : Mach)
    (body : Mach → ThreadState → W512 × Mach) : Mach :=
  issue m t 2 op f (f.i && vOk f.d && vOk f.a && f.b == 0 && legalImm) srcs fun m b c =>
    let r := body m (getThread m t)
    resultV (retire r.2 t c) t b c (latency m 9) f.d r.1

/-- CVT (R141): n lanes, the narrower register divided into parts. A narrowing CVT keeps the other parts of vd, which it reads. -/
def cvtReg (d s part : Nat) (old va : W512) : W512 :=
  let wd := tyWidth d
  let ws := tyWidth s
  let n := 512 / max wd ws
  let from_ := if ws < wd then n * part else 0
  let at_ := if wd < ws then n * part else 0
  ofLanes wd ((List.range (512 / wd)).map fun k =>
    if at_ ≤ k ∧ k < at_ + n then cvtLane s d (lane ws va (from_ + (k - at_))) else lane wd old k)

def execCvt (t : Thread) (f : Fields) (s : State) := nextM s fun m =>
  let d := immU f % 16
  let src := immU f / 16 % 16
  let part := immU f / 256
  let legal := d < 8 && src < 8 && part < max (tyWidth d) (tyWidth src) / min (tyWidth d) (tyWidth src)
  conv 0x01 legal (if tyWidth d < tyWidth src then [srcV f.a, srcV f.d] else [srcV f.a]) t f m fun m ts => (cvtReg d src part (readV ts f.d) (readV ts f.a), m)

/-- CVTK4 (R142): 16 values of va into block imm[2:0] of the burst in vd. -/
def execCvtk4 (t : Thread) (f : Fields) (s : State) := nextM s fun m =>
  let blk := immU f % 8
  let first := immU f / 8 % 2 == 1
  let half := immU f / 16 % 2
  let ty := immU f / 32
  let legal := blk ≤ 6 && ty ≤ 2 && (ty != 0 || half == 0)
  conv 0x02 legal (if first then [srcV f.a] else [srcV f.a, srcV f.d]) t f m fun m ts =>
    let vs := ((List.range 16).map fun k => tyDecode ty (lane (tyWidth ty) (readV ts f.a) (16 * half + k)))
    let k := encodeK4 vs
    (putBlock (if first then emptyBurst else readV ts f.d) blk k, countK4 m t.core.row.dune k)

/-- DCK4 (R142): block imm[2:0] of va as 16 FP32 lanes. -/
def execDck4 (t : Thread) (f : Fields) (s : State) := nextM s fun m =>
  conv 0x03 (immU f ≤ 6) [srcV f.a] t f m fun m ts =>
    let r := decodeK4 (readV ts f.a) (immU f)
    (r.1, countDune m t.core.row.dune.erg.val t.core.row.dune.num.val 0x6120 7 (if r.2 then 1 else 0))

/-- CVTMX (R143): 32 FP32 lanes of va and va + 1 into one MX block. -/
def execCvtmx (t : Thread) (f : Fields) (s : State) := nextM s fun m =>
  conv 0x04 (immU f ≤ 5 && f.a.toNat ≤ 14) [srcV f.a, srcV (f.a + 1)] t f m fun m ts =>
    let vs := (lanes 32 (readV ts f.a) ++ lanes 32 (readV ts (f.a + 1))).map (tyDecode 0)
    let r := k4ToMx (immU f) vs
    let d := t.core.row.dune
    (r.1, countDune (countDune m d.erg.val d.num.val 0x6120 6 r.2.1) d.erg.val d.num.val 0x6120 9 r.2.2)

/-- DCMX (R143): an MX block of va as the K4 blocks imm[2:0] and imm[2:0] + 1 of the burst in vd. -/
def execDcmx (t : Thread) (f : Fields) (s : State) := nextM s fun m =>
  let blk := immU f % 8
  let fmt := immU f / 8 % 8
  let first := immU f / 64 == 1
  conv 0x05 (immU f < 128 && blk ≤ 5 && fmt ≤ 5) (if first then [srcV f.a] else [srcV f.a, srcV f.d]) t f m fun m ts =>
    let r := mxToK4 fmt (readV ts f.a)
    let v := putBlock (putBlock (if first then emptyBurst else readV ts f.d) blk r.1) (blk + 1) r.2
    (v, countK4 (countK4 m t.core.row.dune r.1) t.core.row.dune r.2)

end Sys2Proof.Machine
end

