-- ==== Sys2Proof/Machine/Links.lean ====
section
/-! DEFINITION. The hall links: lanes and bundles (R350–R361, R371, R372, R542), the KL frame layer with its sequences,
acknowledgements and replays (R353–R356), scheduled slots (R364–R368) and relayed control messages (R369). -/

namespace Sys2Proof.Machine

/-! ## Frames as a bundle receives them (R353, R354) -/

/-- The CRC of a frame over all but its last four bytes. -/
def frameCrcOk (f : List Byte) : Bool := crc32c (f.take (f.length - 4)) == field f (f.length - 4) 4

def bundleObj (b : Nat) : Nat := 0x5220 + b

/-- A version 0 frame from a peer that announced version 1 at HELLO (R358). -/
def versionBad (m : Mach) (b : Nat) (f : List Byte) : Bool :=
  frameVersion f == 0 && (getBundle m b).peerVersion == 1 && odGet m (bundleObj b) 3 != 0xFFFF

/-- A frame that is discarded and counts in KlProtocolErrors (R353, R358). -/
def protocolError (m : Mach) (b : Nat) (f : List Byte) : Bool := frameType f == 0 || 5 < frameType f || versionBad m b f

/-- The bundle's domain is up and it is in use (R358, R361, R444). -/
def bundleRuns (m : Mach) (b : Nat) : Bool :=
  powered m && sget 0 m.power.efuse (240 + b) == 0 && !bundleIdle m b

/-! ## Lanes (R361, R371, R372) -/

/-- G of the running job on a bundle; none where no slot of it uses the bundle. -/
def jobLanes (m : Mach) (b : Nat) : Option Nat :=
  match m.job with
  | none => none
  | some j =>
    let ls := (j.image.slots.filter fun s => s.bundle.val == b).map (·.lanes)
    if ls.isEmpty then none else some (ls.foldl max 0)

/-- Job faults of a bundle reach the job while it runs or restarts. -/
def jobExposed (m : Mach) : Bool := beatsRun m || m.mode == .restarting || waitsForT0 m

/-- A job fault that a bundle raises. -/
def bundleFault (m : Mach) (b code detail : Nat) : Mach := raiseFault m code (b / 2) 63 127 0 (beatNumber m) detail

/-- The state that a bundle's live lanes call for (R361). -/
def laneState (m : Mach) (b : Nat) (old : BundleState) : BundleState :=
  let n := liveLanes m b
  if bundleIdle m b ∨ n < 12 then .down
  else match old with
    | .up => if n = 24 then .up else .degraded
    | .degraded => if n = 24 then .up else .degraded
    | .down => .training
    | st => st

/-- A bundle after its live lanes have changed from `before`: its state, a HELLO where it begins to train, and the faults of
R372. -/
def lanesChanged (m : Mach) (b before : Nat) : Mach :=
  let x := getBundle m b
  let st := laneState m b x.state
  let m := setBundle m b { x with state := st, timeHeard := x.timeHeard && st != .down }
  let m := if st = .training ∧ x.state = .down then
      sendFrame (setBundle m b { getBundle m b with helloAt := m.now }) m.now b 0 (helloFrame m b) else m
  let n := liveLanes m b
  match jobLanes m b with
  | none => m
  | some g =>
    if !jobExposed m then m
    else if n < 12 ∧ 12 ≤ before then bundleFault m b 0x404 0
    else if 12 ≤ n ∧ n < g ∧ g ≤ before then bundleFault (count m 0x61A0 5 1) b 0x403 0
    else m

/-- The frames of a class that satisfy `p` wait to be sent again on the bundle's live lanes, each counting in KlRetries (R355). -/
def replayWhere (m : Mach) (b c : Nat) (p : Nat × Nat × Nat × List Byte → Bool) (fresh : Bool) : Mach :=
  let x := getBundle m b
  let cl := getClass x c
  let again := cl.unacked.filter p
  if again.isEmpty ∨ x.live = 0 then m
  else
    let cl := { cl with unacked := cl.unacked.map fun e => if p e then (e.1, e.2.1, if fresh then 0 else e.2.2.1 + 1, e.2.2.2) else e }
    let ws := again.map fun e => ({ rank := classRank c, cls := some c, seq := e.1, again := true, bytes := e.2.2.2 } : KlWait)
    let old := x.waiting.filter fun w => !(w.again && w.cls == some c && again.any fun e => e.1 == w.seq)
    bundleRun m.now m.now (count (setBundle m b { setClass x c cl with waiting := ws ++ old }) (bundleObj b) 4 again.length) b

/-- A lane leaves rotation: its unacknowledged frames go on the other lanes (R371). -/
def laneLost (m : Mach) (b lane : Nat) : Mach :=
  let x := getBundle m b
  if !x.live.getLsbD lane then m
  else
    let before := liveLanes m b
    let bit := BitVec.ofNat 24 (2 ^ lane)
    let m := setBundle m b { x with live := x.live &&& ~~~bit, trained := x.trained &&& ~~~bit, dropped := sset 0 x.dropped lane (m.now + 1) }
    let m := count m (bundleObj b) 6 1
    let m := (List.range 5).foldl (fun m c => replayWhere m b c (fun e => e.2.1 == lane) true) m
    lanesChanged m b before

/-- Every lane of a bundle is lost. -/
def bundleLost (m : Mach) (b : Nat) : Mach := (List.range 24).foldl (fun m k => laneLost m b k) m

/-- LANE_DROP. -/
def execLaneDrop (b : Fin 8) (lane : Fin 24) (s : State) := nextM s fun m => laneLost m b.val lane.val

/-- LANE_REJOIN: a lane that left rotation has been without an uncorrectable codeword for 1 s. -/
def execLaneRejoin (b : Fin 8) (lane : Fin 24) (s : State) := nextM s fun m =>
  let x := getBundle m b.val
  let since := sget 0 x.dropped lane.val
  if !bundleRuns m b.val ∨ since = 0 then m
  else
    let m := advance m (since - 1 + 217000000000)
    let x := getBundle m b.val
    let before := liveLanes m b.val
    let bit := BitVec.ofNat 24 (2 ^ lane.val)
    lanesChanged (setBundle m b.val { x with
      live := x.live ||| bit, trained := x.trained ||| bit, dropped := sset 0 x.dropped lane.val 0 }) b.val before

/-- LANE_TRAINING_COMPLETE: a lane becomes live; one that has left rotation only trains again and rejoins later. -/
def execLaneTrainingComplete (b : Fin 8) (lane : Fin 24) (s : State) := nextM s fun m =>
  let x := getBundle m b.val
  if !bundleRuns m b.val then m
  else
    let before := liveLanes m b.val
    let bit := BitVec.ofNat 24 (2 ^ lane.val)
    let live := if sget 0 x.dropped lane.val = 0 then x.live ||| bit else x.live
    lanesChanged (setBundle m b.val { x with live, trained := x.trained ||| bit }) b.val before

/-- CABLE_PRESENT: the contact switches the active-cable supply while the domain is up; unmating loses every lane (R542). -/
def execCablePresent (b : Fin 8) (grounded : Bool) (s : State) := nextM s fun m =>
  let x := getBundle m b.val
  let up := powered m && sget 0 m.power.efuse (240 + b.val) == 0
  let m := setBundle m b.val { x with cable := grounded, supply := grounded && up }
  if x.cable ∧ !grounded then bundleLost m b.val else m

/-! ## Injection on a bundle (R380) -/

/-- Lane kills that are due on a bundle. -/
def killLanes (m : Mach) (b : Nat) : Mach :=
  (m.injections.filter fun a =>
    armedBits a 87 80 == 1 && armedBits a 103 96 == 4 && armedBits a 95 88 == b && armedBits a 255 192 ≤ htcNow m).foldl
    (fun m a => laneLost (spendInjection m a a.left) b (armedBits a 119 112)) m

/-! ## Acknowledgements and replays (R355) -/

/-- An ACK frame; its class and sequence stand where a DATA frame has them (assumption 40). -/
def sendAck (m : Mach) (b c : Nat) (nak : Bool) : Mach :=
  let seq := lastInOrder (getClass (getBundle m b) c)
  sendFrame m m.now b 2 <| smallFrame ([typeVersion m b 2, if nak then 1 else 0, 0, 0] ++ leBytes 2 seq ++ leBytes 1 c)

/-- Frames up to an acknowledged sequence leave the replay buffer. -/
def ackUpTo (m : Mach) (b c seq : Nat) : Mach :=
  let x := getBundle m b
  let cl := getClass x c
  let later := fun (k : Nat) => decide ((k + 65536 - (seq + 1) % 65536) % 65536 < 32768)
  setBundle m b (setClass x c { cl with
    unacked := cl.unacked.filter fun e => later e.1, sentAt := cl.sentAt.filter fun e => later e.1 })

/-- A frame replayed 8 times without acknowledgement takes its lane out of rotation (R355); the others are replayed. -/
def replayOrDrop (m : Mach) (b c : Nat) (p : Nat × Nat × Nat × List Byte → Bool) : Mach :=
  let worn := ((getClass (getBundle m b) c).unacked.filter fun e => p e && 8 ≤ e.2.2.1).map fun e => e.2.1
  let m := replayWhere m b c (fun e => p e && decide (e.2.2.1 < 8)) false
  worn.eraseDups.foldl (fun m k => laneLost m b k) m

/-- ACK: frames are acknowledged, and with nak every frame after the named one is replayed. -/
def ackFrame (m : Mach) (b : Nat) (f : List Byte) : Mach :=
  let c := field f 6 1 % 8
  if !frameCrcOk f ∨ !bundleUp m b ∨ 4 < c then m
  else
    let m := ackUpTo m b c (field f 4 2)
    if field f 1 1 % 2 = 1 then replayOrDrop m b c fun _ => true else m

/-- REPLAY_TIMEOUT: a frame has not been acknowledged within 1 µs of its going out. -/
def execReplayTimeout (b : Fin 8) (cls : Fin 5) (seq : Nat) (s : State) := nextM s fun m =>
  let cl := getClass (getBundle m b.val) cls.val
  if !bundleUp m b.val ∨ !(cl.unacked.any fun e => e.1 == seq) then m
  else replayOrDrop (killLanes (advance m (sget 0 cl.sentAt seq + 217000)) b.val) b.val cls.val fun e => e.1 == seq

/-- A frame of a class that cannot be taken: those held ahead are let go, and a replay is asked for. -/
def askReplay (m : Mach) (b c : Nat) : Mach :=
  let x := getBundle m b
  sendAck (setBundle m b (setClass x c { getClass x c with rxHeld := [], heldAt := [] })) b c true

/-- When the frame held ahead longest arrived. -/
def gapSince (m : Mach) (cl : KlClass) : Nat := (cl.rxHeld.map fun e => sget 0 cl.heldAt e.1).foldl min m.now

/-- REORDER_GAP_TIMEOUT: a gap has not been filled within 200 ns. -/
def execReorderGapTimeout (b : Fin 8) (cls : Fin 5) (s : State) := nextM s fun m =>
  let cl := getClass (getBundle m b.val) cls.val
  if bundleUp m b.val ∧ !cl.rxHeld.isEmpty then askReplay (advance m (gapSince m cl + 43400)) b.val cls.val else m

/-! ## DATA frames (R354–R356, R364–R368) -/

/-- The payload of a frame put on the data mesh under the module's own mapping (R366). -/
def injectPacket (m : Mach) (j : Job) (b c : Nat) (f : List Byte) (slot : Option Nat) : Mach :=
  let phys := relocateAddr j.map (field f 12 8)
  match sramAddr (w64 phys) with
  | none => m
  | some (r, _, _) =>
    let d := draw m
    let tag := field f 24 1 % 16 * 2 ^ 32 + field f 20 4
    enterPacket d.2 (rowOf (Config.edgeRow b)) r
      { id := d.1, src := none, sender := none, target := w64 phys, bytes := (f.drop 28).take (64 * field f 25 1), cls := c, tag := w64 tag
        vdune := 0, viaLink := true, privF := false, source := 0, readUntil := 0, word := 0, slot }

/-- A frame fits a receive entry (R366). -/
def slotFits (b : Nat) (f : List Byte) (e : Slot) : Bool :=
  let t := field f 12 8
  !e.send && e.bundle.val == b && e.target.toNat ≤ t && (t - e.target.toNat) % 64 == 0
  && 1 ≤ field f 25 1 && field f 25 1 ≤ 4 && t + 64 * field f 25 1 ≤ e.target.toNat + e.length

/-- A TC0 frame in order: checked against the receive entries, then sent on to its row; one of a missed slot is discarded. -/
def slotFrame (m : Mach) (b : Nat) (f : List Byte) : Mach :=
  match m.job with
  | none => bundleFault m b 0x402 0
  | some j =>
    let k := field f 26 2
    match j.image.slots[k]? with
    | none => bundleFault m b 0x402 0
    | some e =>
      if field f 8 4 ≠ j.id.toNat ∨ !slotFits b f e then bundleFault m b 0x402 0
      else
        let n := 64 * field f 25 1
        let x := getSlot m k
        let m := setSlot m k { x with taken := x.taken + n }
        if x.taken / e.length < x.deadlines then setSlot m k { getSlot m k with written := x.written + n }
        else injectPacket m j b 0 f (some k)

/-- A frame of a class delivered in order. TC1 to TC3 carry steward traffic, written at its target as it comes. -/
def deliverFrame (m : Mach) (b c : Nat) (f : List Byte) : Mach :=
  if c = 0 then slotFrame m b f
  else match m.job with
    | some j => if field f 8 4 = j.id.toNat then injectPacket m j b c f none else m
    | none => m

/-- Frames held ahead that have come into order are delivered. -/
def deliverHeld (b c : Nat) : Nat → Mach → Mach
  | 0, m => m
  | n + 1, m =>
    let x := getBundle m b
    let cl := getClass x c
    match cl.rxHeld.find? fun e => e.1 == cl.rxNext with
    | none => m
    | some e =>
      let cl := { cl with rxNext := (cl.rxNext + 1) % 65536, rxHeld := cl.rxHeld.erase e, heldAt := sset 0 cl.heldAt e.1 0 }
      deliverHeld b c n (deliverFrame (setBundle m b (setClass x c cl)) b c e.2)

/-- The bundle injection that meets a DATA frame: action, or 0, and reorder window (R380). -/
def injectedAction (m : Mach) (b c : Nat) : Mach × Nat × Nat :=
  match injectionFor m 1 b c with
  | some a => if armedBits a 103 96 = 4 then (m, 0, 0) else (spendInjection m a 1, armedBits a 103 96, armedBits a 127 120)
  | none => (m, 0, 0)

/-- A DATA frame past the injections: sequenced and delivered. -/
def sequenceData (m : Mach) (b : Nat) (f : List Byte) : Mach :=
  let c := field f 1 1 % 4
  let m := ackUpTo m b (field f 6 1 % 4) (field f 4 2)
  let x := getBundle m b
  let cl := getClass x c
  let ahead := (field f 2 2 + 65536 - cl.rxNext) % 65536
  if ahead = 0 then
    let m := setBundle m b (setClass x c { cl with rxNext := (cl.rxNext + 1) % 65536 })
    sendAck (deliverHeld b c 16 (deliverFrame m b c f)) b c false
  else if ahead ≤ 16 then
    if cl.rxHeld.any fun e => e.1 == field f 2 2 then m
    else setBundle m b (setClass x c { cl with
      rxHeld := cl.rxHeld ++ [(field f 2 2, f)], heldAt := sset 0 cl.heldAt (field f 2 2) m.now })
  else if ahead < 32768 then askReplay m b c
  else sendAck m b c false

/-- A frame of a class has passed: those that an injection holds back come a place nearer, and the ones whose turn it is are taken
(R380). -/
def releaseReordered (m : Mach) (b c : Nat) : Mach :=
  let x := getBundle m b
  let cl := getClass x c
  let due := cl.reordered.filter fun e => e.1 ≤ 1
  let left := (cl.reordered.filter fun e => 1 < e.1).map fun e => (e.1 - 1, e.2)
  due.foldl (fun m e => sequenceData m b e.2) (setBundle m b (setClass x c { cl with reordered := left }))

/-- DATA received: dropped, corrupted or held back by an injection, else sequenced. A reordered frame waits for as many later frames as
its window has places behind it. -/
def takeData (m : Mach) (b : Nat) (f : List Byte) : Mach :=
  let c := field f 1 1 % 4
  let (m, action, window) := injectedAction m b c
  if action = 1 then m
  else if action = 2 ∨ !frameCrcOk f then askReplay m b c
  else if action = 3 then
    let x := getBundle m b
    let cl := getClass x c
    setBundle m b (setClass x c { cl with reordered := cl.reordered ++ [(window - 1, f)] })
  else releaseReordered (sequenceData m b f) b c

/-- SLOT_SEND_START: at S(n) + t_s the slot engine asks the source row for the slot's bytes, which go out in TC0 frames as they come back
(R365). -/
def execSlotSendStart (k : Nat) (s : State) := nextM s fun m =>
  match m.job with
  | none => m
  | some j =>
    match j.image.slots[k]? with
    | none => m
    | some e =>
      let x := getSlot m k
      let n := j.slotBase + x.sent
      let b := e.bundle.val
      if !e.send ∨ !beatsRun m ∨ !(j.lastStarted.any fun l => decide (n ≤ l)) ∨ !bundleUp m b then m
      else
        let m := killLanes (advance m (tuAt m (startOf m n + e.start))) b
        let m := setSlot m k { getSlot m k with sent := x.sent + 1 }
        let source := w64 (relocateAddr j.map e.source.toNat)
        match sramAddr source with
        | none => m
        | some (r, _, _) =>
          let d := draw m
          enterPacket d.2 (rowOf (Config.edgeRow b)) r
            { id := d.1, cargo := .slotAsk k, src := none, sender := none, target := source, bytes := [], cls := 0, tag := 0, vdune := 0
              viaLink := false, privF := true, source := 0, readUntil := 0, word := 0 }

/-- SLOT_DEADLINE: at S(n) + D_s a receive slot is complete or missed (R368). -/
def execSlotDeadline (k : Nat) (s : State) := nextM s fun m =>
  match m.job with
  | none => m
  | some j =>
    match j.image.slots[k]? with
    | none => m
    | some e =>
      let n := j.slotBase + (getSlot m k).deadlines
      if e.send ∨ !beatsRun m ∨ !(j.lastStarted.any fun l => decide (n ≤ l)) then m
      else
        let m := advance m (tuAt m (startOf m n + e.deadline))
        let x := getSlot m k
        let m := setSlot m k { x with deadlines := x.deadlines + 1 }
        if x.deadlines < x.written / e.length then m
        else bundleFault (count m 0x61A0 4 1) e.bundle.val 0x401 k

/-! ## HELLO (R361) -/

/-- The peer's HELLO agrees with the path table and the mode. -/
def helloAgrees (m : Mach) (b : Nat) (f : List Byte) : Bool :=
  field f 2 2 == pathPeer m b && field f 4 1 == pathField m b 39 32 && field f 6 1 == odGet m 0x5200 1
  && field f 8 2 == pathField m b 63 48

/-- HELLO taken by a bundle whose lanes train or carry. -/
def takeHello (m : Mach) (b : Nat) (f : List Byte) : Mach :=
  let x := getBundle m b
  if !frameCrcOk f ∨ x.state = .down then m
  else
    let m := odSet (setBundle m b { x with peerVersion := min (field f 5 1) 1 }) (bundleObj b) 3 (field f 2 2)
    if helloAgrees m b f then
      let st : BundleState := if liveLanes m b = 24 then .up else .degraded
      let m := if bundleUp m b then m else sendFrame m m.now b 0 (helloFrame m b)
      setBundle m b { getBundle m b with state := st }
    else setBundle m b { getBundle m b with state := .mismatch, timeHeard := false }

/-! ## CTRL (R369) -/

/-- The control message that a CTRL frame carries. -/
def ctrlMessage (f : List Byte) : MeshMsg :=
  ⟨BitVec.ofNat 32 (field f 12 4), BitVec.ofNat 32 (field f 16 4), BitVec.ofNat 32 (field f 20 4), BitVec.ofNat 32 (field f 24 4)⟩

/-- The beat that a FAULT or FREEZE names by its low 32 bits, near the beats that run. -/
def nearBeat (m : Mach) (low : Nat) : Nat :=
  let base := beatNumber m / 2 ^ 32 * 2 ^ 32 + low
  if beatNumber m + 2 ^ 31 < base then base - 2 ^ 32 else if base + 2 ^ 31 < beatNumber m then base + 2 ^ 32 else base

/-- The fault that a FAULT message of another module carries (R477). -/
def relayedFault (m : Mach) (x : MeshMsg) : FaultRec :=
  let n := msgSource x
  ⟨BitVec.ofNat 16 (natBits x.w1.toNat 31 16), natBits x.w1.toNat 15 14, n / 64, if n % 64 < 48 then n % 64 else 0xFF,
   natBits x.w1.toNat 13 7, 0, nearBeat m x.w2.toNat, x.w3.setWidth 64, htcNow m⟩

/-- T0, or the anchor of a restart, received from the beat master (R363). -/
def receiveT0 (m : Mach) (t0 : Nat) : Mach :=
  match m.job with
  | none => m
  | some j =>
    if m.restart.isSome then { m with job := some { j with startAt := some t0 } }
    else if m.mode ≠ .loading ∨ !j.loaded ∨ !(1 < j.image.modules) then m
    else if t0 < htcNow m + 100000 then raiseFault m 0x204 0 0xFF 127 0 0 0
    else giveAnswers (startJob m t0) (objKey 0x3000 1) 0

/-- A replacement of this module follows the beat master's announcement (R341, R344). -/
def followsAnnouncement (m : Mach) : Bool := m.repl.isSome && (odGet m 0x3140 2 == 3 || odGet m 0x3140 2 == 4)

/-- BEAT_LATE raised by a module: the rows of the job on it stop, as at every beat fault (R86, R242, R246). -/
def moduleLate (m : Mach) : Mach :=
  let m := (jobDunes m).foldl (fun m d => (duneRows d).foldl stopRow m) m
  raiseFault m 0x203 0 0xFF 127 0 (beatHere m) 0

/-- What a module's steward takes from a relayed BEAT_CHANGE (R242). -/
def relayedChange (m : Mach) (x : MeshMsg) : Mach :=
  let n := msgLong x
  let start := if msgKind x = 2 then n else startOf m n
  let m := if start < htcNow m + 10000 then moduleLate m else m
  match msgKind x with
  | 0 =>
    let m := noteBeat m n
    { m with job := m.job.map fun j => { j with levelAnnounced := natBits x.w3.toNat 27 24 } }
  | 1 =>
    let m := noteBeat m n
    let m := if followsAnnouncement m then
        setReplState { m with repl := m.repl.map fun r => { r with pauseAt := some n } } 5
      else m
    if m.unloading then { m with job := m.job.map fun j => { j with unloadAt := j.unloadAt <|> some n } } else m
  | _ => m

/-- What a module's steward takes from a relayed FIX. -/
def relayedFix (m : Mach) (x : MeshMsg) : Mach :=
  if followsAnnouncement m then setReplState { m with repl := m.repl.map fun r => { r with fixAt := some (msgLong x) } } 5 else m

/-- What a relayed message does at the module steward itself. -/
def relayedMessage (m : Mach) (x : MeshMsg) : Mach :=
  match msgType x with
  | 1 => handleFault m (relayedFault m x)
  | 3 => relayedChange m x
  | 4 => receiveT0 m (msgLong x)
  | 6 => relayedFix m x
  | _ => m

/-- CTRL taken: broadcast in the module, sent on, and acted on, unless it has been seen. -/
def takeCtrl (m : Mach) (b : Nat) (f : List Byte) : Mach :=
  if !frameCrcOk f then askReplay m b ctrlClass
  else
    let x := getBundle m b
    let cl := getClass x ctrlClass
    let m := sendAck (setBundle m b (setClass x ctrlClass { cl with rxNext := (cl.rxNext + 1) % 65536 })) b ctrlClass false
    let id := (field f 2 2, field f 4 4)
    let mine := (m.job.map fun j => j.id.toNat == field f 8 4).getD false
    if !mine ∨ m.ctrlSeen.contains id then m
    else
      let msg := ctrlMessage f
      let m := postMesh { m with ctrlSeen := m.ctrlSeen ++ [id] } msg
      relayedMessage (relayCtrl m (some b) (field f 1 1 + 1) id.1 id.2 msg) msg

/-! ## The rows -/

/-- A frame of a kind as its bundle takes it: one in error is discarded and counts. -/
def onFrame (m : Mach) (b type len : Nat) (f : List Byte) (act : Mach → Mach) : Mach :=
  if !bundleRuns m b then m
  else
    let m := killLanes m b
    if protocolError m b f then count m (bundleObj b) 5 1
    else if frameType f ≠ type ∨ f.length ≠ len then m
    else act m

/-- HELLO. -/
def execHello (b : Fin 8) (frame : List Byte) (s : State) := nextM s fun m =>
  onFrame m b.val 4 32 frame fun m => takeHello m b.val frame

/-- DATA. -/
def execData (b : Fin 8) (frame : List Byte) (s : State) := nextM s fun m =>
  onFrame m b.val 1 288 frame fun m => if bundleUp m b.val then takeData m b.val frame else m

/-- ACK. -/
def execAck (b : Fin 8) (frame : List Byte) (s : State) := nextM s fun m =>
  onFrame m b.val 2 32 frame fun m => ackFrame m b.val frame

/-- CTRL. -/
def execCtrl (b : Fin 8) (frame : List Byte) (s : State) := nextM s fun m =>
  onFrame m b.val 5 32 frame fun m => if bundleUp m b.val then takeCtrl m b.val frame else m

/-- KL_PROTOCOL_ERROR. -/
def execKlProtocolError (b : Fin 8) (frame : List Byte) (s : State) := nextM s fun m =>
  if bundleRuns m b.val ∧ protocolError m b.val frame then count m (bundleObj b.val) 5 1 else m

end Sys2Proof.Machine
end

