-- ==== Sys2Proof/Machine/HallTime.lean ====
section
/-! DEFINITION. Hall time: the module root and its parent (R373–R378), T0 (R363), and fault injection (R379, R380). -/

namespace Sys2Proof.Machine

/-! ## The root (R373–R375) -/

def getRoot (m : Mach) : IslandState := islandState m rootIsland
def setRoot (m : Mach) (x : IslandState) : Mach := setIsland m rootIsland x

/-- The entries of TimeParents in order. -/
def timeParents (m : Mach) : List Nat := (leBytes 4 (odGet m 0x5300 1)).map BitVec.toNat

/-- TimeParents names no bundle: the module is a time root of the hall. -/
def hallRoot (m : Mach) : Bool := (timeParents m).all (· == 0xFF)

/-- A bundle can be the root's parent: carrying, heard within 3 µs, its sender LOCKED and not at depth 63 (R373, R374). -/
def usableParent (m : Mach) (b : Nat) : Bool :=
  let x := getBundle m b
  b < 8 && bundleUp m b && x.timeHeard && m.now ≤ x.timeAt + 3 * 217000 && x.peerRoot == .locked && x.peerDepth < 63

/-- The first usable entry of TimeParents. -/
def chooseParent (m : Mach) : Option Nat := (timeParents m).find? fun b => usableParent m b

/-- What a source that differs by `ns` does to the root (R375, R377, R378): outside a job the root is set from it when it seeks
or is FREE, and in a hall time root; while a job runs a difference beyond 1 µs waits for STANDBY. Otherwise the root steers. -/
def followSource (m : Mach) (ns : Int) : Mach :=
  let x := getRoot m
  let far := 1000 < ns.natAbs
  let wait := fun (m : Mach) => if far then odSet { m with pendingStep := ns } 0x5300 8 1 else m
  match x.time with
  | .acquire => setRoot (if m.job.isNone then moveRoot m ns else wait m) { x with exchanged := m.now }
  | .free => if beatsRun m ∨ m.mode = .restarting then wait m else setRoot (moveRoot m ns) { x with time := .acquire, exchanged := m.now }
  | .locked =>
    let m := setRoot m { x with exchanged := m.now }
    if !hallRoot m then m else if m.job.isSome then wait m else if far then moveRoot m ns else m
  | .holdover =>
    let m := noteHoldover (setRoot m { x with time := .locked, exchanged := m.now }) x.holdSince
    if !hallRoot m then m else if m.job.isSome then wait m else if far then moveRoot m ns else m

/-! ## TIME frames (R374) -/

/-- A signed difference of two 64-bit instants in 2^-16 ns. -/
def timeDiff (a b : BitVec 64) : Int := (a - b).toInt

/-- The root's HTC as TIME frames carry it: ns with 16 fractional bits. -/
def timeField (m : Mach) : BitVec 64 := BitVec.ofNat 64 (htcNow m * 65536 + m.now % 217 * 65536 / 217)

def timeState : Nat → TimeState
  | 0 => .free | 1 => .acquire | 2 => .locked | _ => .holdover

/-- The offset to the parent in 2^-16 ns: half of (t2 − t1) − (t4 − t3). -/
def parentOffset (f : List Byte) (t4 : BitVec 64) : Int :=
  let t1 := BitVec.ofNat 64 (field f 12 8)
  let t2 := BitVec.ofNat 64 (field f 20 8)
  let t3 := BitVec.ofNat 64 (field f 4 8)
  (timeDiff t2 t1 - timeDiff t4 t3) / 2

/-- A TIME frame taken: the peer's state kept, and the root steered where the bundle is its parent. -/
def takeTime (m : Mach) (b : Nat) (f : List Byte) : Mach :=
  if !frameCrcOk f ∨ !bundleUp m b then m
  else
    let t4 := timeField m
    let flags := field f 1 1
    let m := setBundle m b { getBundle m b with
      peerTx := BitVec.ofNat 64 (field f 4 8), peerTxAt := t4, peerRoot := timeState (flags % 4), peerDepth := flags / 4
      peerRootModule := BitVec.ofNat 16 (field f 2 2), timeHeard := true, timeAt := m.now }
    let p := chooseParent m
    let m := { m with timeParent := p }
    if p ≠ some b then m
    else
      let m := odSet (odSet m 0x5300 5 (field f 2 2)) 0x5300 6 (flags / 4 + 1)
      if field f 20 8 = 0 then setRoot m { getRoot m with exchanged := m.now }
      else
        let off := parentOffset f t4
        followSource (odSet m 0x5300 7 ((off * 1000 / 65536) % 2 ^ 32).toNat) (off / 65536)

/-- TIME. -/
def execTime (b : Fin 8) (frame : List Byte) (s : State) := nextM s fun m =>
  onFrame m b.val 3 32 frame fun m => takeTime m b.val frame

/-- TIME_FRAME_DUE: the bundle's own TIME frame, on its lowest live lane. -/
def execTimeFrameDue (b : Fin 8) (s : State) := nextM s fun m =>
  let x := getBundle m b.val
  if !bundleRuns m b.val ∨ !bundleUp m b.val then m
  else
    let own := if hallRoot m then odGet m 0x5200 2 else odGet m 0x5300 5
    sendFrame m m.now b.val 1 (smallFrame ([typeVersion m b.val 3] ++ leBytes 1 (timeCode (rootState m) + 4 * odGet m 0x5300 6)
      ++ leBytes 2 own ++ leBytes 8 (timeField m).toNat ++ leBytes 8 x.peerTx.toNat ++ leBytes 8 x.peerTxAt.toNat))

/-! ## The root without a source (R375) -/

/-- ROOT_SOURCE_TIMEOUT: no parent and no PTP master for 2 s. -/
def execRootSourceTimeout (s : State) := nextM s fun m =>
  let x := getRoot m
  if !islandRuns m rootIsland ∨ !(x.time = .acquire ∨ x.time = .holdover) then m
  else
    let m := advance m (x.exchanged + 2 * 217000000000)
    let m := if x.time = .holdover then noteHoldover m x.holdSince else m
    odSet (odSet (setRoot { m with timeParent := none, ptpHeard := false } { getRoot m with time := .free }) 0x5300 5 0xFFFF) 0x5300 6 0

/-- ROOT_HOLDOVER_LIMIT: a root in HOLDOVER for more than 10 ms faults a running multi-module job; else it posts the time event,
as any island that is no dune does (R217). -/
def execRootHoldoverLimit (s : State) := nextM s fun m =>
  let x := getRoot m
  if !islandRuns m rootIsland ∨ x.time ≠ .holdover then m
  else
    let m := noteHoldover (advance m (x.holdSince + 10 * 217000000 + 1)) x.holdSince
    if multiModule m ∧ jobExposed m then raiseFault m 0x405 0 63 127 0 (beatHere m) 0
    else postEvent m 0x8008 0 63 (islandNode rootIsland)

/-! ## PTP (R377, R378) -/

/-- PTP_MESSAGE: a master of the set domain is heard; it seeds the root, or disciplines a time root of the hall. -/
def execPtpMessage (obs : PtpObs) (s : State) := nextM s fun m =>
  if !islandRuns m .mgmt ∨ obs.domain ≠ odGet m 0x5300 2 then m
  else
    let m := { m with ptpHeard := true }
    let diff : Int := ((obs.ptpTime : Int) - (odGet m 0x5300 3 : Int)) - (htcNow m : Int)
    if hallRoot m then
      followSource (odSet (odSet m 0x5300 5 (odGet m 0x5200 2)) 0x5300 6 0) diff
    else if (getRoot m).time = .free ∨ ((getRoot m).time = .acquire ∧ m.timeParent.isNone) then followSource m diff
    else m

/-! ## T0 (R363) -/

/-- LOAD_COMPLETE_REPORT: a module of the job has reported; with the last report the beat master chooses T0. -/
def execLoadCompleteReport (index : Nat) (s : State) := nextM s fun m =>
  match m.job with
  | none => m
  | some j => if m.mode = .loading ∧ index < j.image.modules then chooseT0 (noteReport m index) else m

/-- JOB_START_T0. -/
def execJobStartT0 (t0 : Nat) (s : State) := nextM s fun m => receiveT0 m t0

/-! ## Fault injection (R379, R380) -/

/-- A field of FaultInject outside its range, or a nonzero reserved field. -/
def injectLayout (n : Nat) : Bool :=
  let kind := natBits n 87 80
  let target := natBits n 95 88
  let action := natBits n 103 96
  let bits := if kind = 1 then 2304 else 523
  natBits n 79 0 != 0 || kind < 1 || 2 < kind || action < 1 || 4 < action
  || natBits n 191 160 < 1 || 65535 < natBits n 191 160 || 3 < natBits n 111 104
  || (if kind = 1 then 7 else 31) < target
  || (action == 4 && 23 < natBits n 119 112) || (action == 3 && (natBits n 127 120 < 2 || 16 < natBits n 127 120))
  || (action == 2 && (bits ≤ natBits n 143 128 || (natBits n 159 144 != 0xFFFF && bits ≤ natBits n 159 144)))

/-- FaultInject's own checks. -/
def injectCheck (m : Mach) (v : Via) (data : List Byte) : Option Nat :=
  let n := leNat data
  checkWrite m v 0x6300 1 data
    (failIf (injectLayout n) layoutErr <|> failIf (natBits n 87 80 == 2 && 3 ≤ natBits n 103 96) unsupportedErr)
    (failIf (m.mode != .standby && m.mode != .running) wrongState)

/-- An injection armed; a lane kill that is due acts at once. -/
def injectRun (m : Mach) (v : Via) (data : List Byte) (reply : Option Reply) : Mach :=
  let n := leNat data
  let m := { m with injections := m.injections ++ [⟨BitVec.ofNat 256 n, natBits n 191 160⟩], sec := { m.sec with injectSeen := true } }
  answer (if natBits n 87 80 = 1 then killLanes m (natBits n 95 88) else m) v reply 0

/-- FAULT_INJECT. -/
def execFaultInject (v : Via) (data : List Byte) (s : State) := nextM s fun m =>
  commandRow m v (injectCheck m v data) fun m => injectRun m v data none

end Sys2Proof.Machine
end

