-- ==== Sys2Proof/Machine/HostPort.lean ====
section
/-! DEFINITION. The host port (R386–R402): functions that stop and start, the registers of BAR0, the window table, the fabric
aperture, reads that fail, and interrupts. -/

namespace Sys2Proof.Machine

/-- The host link answers. -/
def portUp (m : Mach) : Bool := powered m && m.port.linkUp

/-! ## Non-volatile writes (R409) -/

/-- A write of non-volatile objects is stored first, and answered and put in force then. -/
def queueNv (m : Mach) (w : NvWrite) : Mach := { m with nvQueue := m.nvQueue ++ [w] }

/-- A non-volatile object's write as a row of its own. -/
def nvRow (m : Mach) (v : Via) (idx sub : Nat) (data : List Byte) : Mach :=
  match checkWrite m v idx sub data none none with
  | some code => answer m v none code
  | none => queueNv m { via := v, items := [(objKey idx sub, leNat data)] }

/-! ## Functions under R390 -/

/-- A live context of an ended function: FREE without a record, its negative discarded. -/
def dropContext (m : Mach) (c : Nat) : Mach := serves (setCtx (endChain m c) c {}) 14

/-- Host reads of a function in flight are discarded as they complete. -/
def discardReads (m : Mach) (f : Nat) : Mach :=
  { m with queues := m.queues.map fun q => (q.1, { q.2 with entries := q.2.entries.map fun e => (e.1, e.2.map fun (x : Transfer) =>
      if x.load && addrSpace x.remote == 3 && x.fn == f then { x with discarded := true } else x) }) }

/-- A function's part in serving ends (R390): its window, what its steward holds, its contexts, its reads and step ring. -/
def endFunction (m : Mach) (f : Nat) : Mach :=
  let fn := getFn m f
  if !fn.up then m
  else
    let n := submitsTaken fn
    let m := setFn m f { fn with up := false, armed := 0, taken := [], stepHeld := [], stepTailRead := false, heldOff := 0 }
    count (count ((liveOf m f).foldl dropContext (discardReads m f)) 0x6180 14 n) 0x5401 7 1

/-- What a Function Level Reset returns to its initial state beside: MSI-X, as PCIe has it (assumption 45). -/
def resetMsix (m : Mach) (f : Nat) : Mach :=
  { setFn m f { getFn m f with mask := 0xFF, pba := 0, lastMsix := [] } with bar0 := m.bar0.filter fun e => e.1 / 4096 != 256 + f }

/-- The window table with every entry 0. -/
def clearWindowTable (m : Mach) : Mach := { m with bar0 := m.bar0.filter fun e => e.1 / 65536 != 3 }

/-- An FLR of the PF, a hot reset or a link down: every function, and the window table. -/
def endAllFunctions (m : Mach) : Mach :=
  clearWindowTable ((List.range 16).foldl (fun m f => resetMsix (endFunction m f) f) m)

/-- The host link is down. -/
def linkGone (m : Mach) : Mach :=
  let m := endAllFunctions m
  odSet (odSet { m with port := { m.port with linkUp := false } } 0x5401 1 0) 0x5401 2 0

/-- FUNCTION_LEVEL_RESET. -/
def execFunctionLevelReset (fn : Fin 16) (s : State) := nextM s fun m =>
  if !portUp m then m else if fn = 0 then endAllFunctions m else resetMsix (endFunction m fn.val) fn.val

/-- VF_ENABLE_CLEAR: a PF has no VF Enable of its own to lose. -/
def execVfEnableClear (fn : Fin 16) (s : State) := nextM s fun m =>
  if fn = 0 then m else resetMsix (endFunction m fn.val) fn.val

/-- BUS_MASTER_DISABLE. -/
def execBusMasterDisable (fn : Fin 16) (s : State) := nextM s fun m => endFunction m fn.val

/-- D3HOT_ENTRY (R402). -/
def execD3hotEntry (fn : Fin 16) (s : State) := nextM s fun m => endFunction m fn.val

/-- LINK_DOWN: a hot reset or a link down. -/
def execLinkDown (s : State) := nextM s fun m => if powered m then linkGone m else m

/-- The host link trains: its speed, width and limits are what the partner offers, within the arrangement (R386, R387, R397). -/
def trainLink (m : Mach) : Mach :=
  if m.port.linkUp then m
  else
    let a := draw m
    let b := draw a.2
    let widths := if odGet m 0x5400 1 = 1 then [1, 2, 4, 8] else [1, 2, 4, 8, 16]
    let c := draw b.2
    let d := draw c.2
    let p := { d.2.port with linkUp := true, retraining := false }
    let m := { d.2 with port := { p with payloadCode := (Config.freeWord c.1).toNat % 3, readCode := (Config.freeWord d.1).toNat % 6 } }
    odSet (odSet m 0x5401 1 ((Config.freeWord a.1).toNat % 7 + 1)) 0x5401 2
      (widths.getD ((Config.freeWord b.1).toNat % widths.length) 1)

/-- FUNCTION_REENABLE: Bus Master Enable 1 and no reset in progress; the window starts again (R281, R390). -/
def execFunctionReenable (fn : Fin 16) (s : State) := nextM s fun m =>
  if !powered m ∨ (getFn m fn.val).up then m
  else
    let m := trainLink m
    let m := setFn m fn.val { getFn m fn.val with up := true }
    if served m fn.val then resetWindow m fn.val else m

/-! ## Bifurcation and the stager (R387, R388) -/

/-- The port goes down and both halves retrain. -/
def bifurcate (m : Mach) : Mach :=
  let m := linkGone m
  let m := { m with port := { m.port with retraining := true, stagerBar := 0 } }
  odSet m 0x5401 3 (if odGet m 0x5400 1 = 1 then 1 else 0)

/-- PCIE_BIFURCATION_WRITE: non-volatile, so it acts once it is stored. -/
def execPcieBifurcationWrite (v : Via) (data : List Byte) (s : State) := nextM s fun m => nvRow m v 0x5400 1 data

/-- STAGER_ENUMERATION: one device with a 64-bit prefetchable BAR of at least 64 GiB, or none, or one that is refused. -/
def execStagerEnumeration (dev : StagerDevice) (s : State) := nextM s fun m =>
  if !powered m ∨ odGet m 0x5400 1 = 0 then m
  else
    let good := dev.present && dev.headerOk && decide (2 ^ 36 ≤ dev.barBytes)
    let m := { m with port := { m.port with stagerBar := if good then dev.barBytes else 0 } }
    odSet m 0x5401 3 (if good then 2 else if dev.present then 3 else 0)

/-! ## Registers of BAR0 (R393, R395, R400) -/

/-- The bytes of a write that fall in [0, size) of a register or table, each with its offset there. -/
def partBytes (offset : Nat) (data : List Byte) (size : Nat) : List (Nat × Byte) :=
  (data.zipIdx.map fun e => (offset + e.2, e.1)).filter fun e => e.1 < size

/-- EventCause clears the bits that are set in the bytes a write covers. -/
def clearCause (m : Mach) (f offset : Nat) (data : List Byte) : Mach :=
  let fn := getFn m f
  let bits := (partBytes offset data 8).foldl (fun n e => n ||| e.2.toNat * 2 ^ (8 * e.1)) 0
  setFn m f { fn with cause := fn.cause &&& ~~~ BitVec.ofNat 64 bits }

/-- EVENT_CAUSE_WRITE. -/
def execEventCauseWrite (fn : Fin 16) (offset : Fin 8) (data : List Byte) (s : State) := nextM s fun m =>
  if portUp m then clearCause m fn.val offset.val data else m

/-- ApertureBase: all eight bytes, and one of the 24 places within the contact-sheet area. -/
def setAperture (m : Mach) (offset : Nat) (data : List Byte) : Mach :=
  let n := field data 0 8
  let k := (n - 0x01E000000000) / 2 ^ 32
  if offset = 0 ∧ 8 ≤ data.length ∧ n = 0x01E000000000 + k * 2 ^ 32 ∧ k < 24 then { m with port := { m.port with apertureBase := n } } else m

/-- APERTURE_BASE_WRITE. -/
def execApertureBaseWrite (offset : Fin 8) (data : List Byte) (s : State) := nextM s fun m =>
  if portUp m then setAperture m offset.val data else m

/-- A malformed entry is stored with valid 0. -/
def judgeEntry (m : Mach) (i : Nat) : Mach :=
  let n := windowEntry m i
  if natBits n 63 36 ≠ 0 ∨ natBits n 7 2 ≠ 0 ∨ natBits n 75 64 ≠ 0 then writeBar0 m (0x30000 + 16 * i) [BitVec.ofNat 8 (n / 2 * 2)] else m

/-- Bytes written to the window table, each entry judged as it then stands. -/
def writeWindowTable (m : Mach) (offset : Nat) (data : List Byte) : Mach :=
  let parts := partBytes offset data 65536
  let m := { m with bar0 := parts.foldl (fun s e => sset 0 s (0x30000 + e.1) e.2) m.bar0 }
  ((parts.map fun e => e.1 / 16).eraseDups).foldl judgeEntry m

/-- WINDOW_TABLE_WRITE. -/
def execWindowTableWrite (offset : Fin 65536) (data : List Byte) (s : State) := nextM s fun m =>
  if portUp m then writeWindowTable m offset.val data else m

/-- HTC_NOW_READ: the PCIe port island's HTC copy (R393); a 4-byte read of the low half latches the high half for the next 4-byte read of it. -/
def execHtcNowRead (_fn : Fin 16) (high : Bool) (bytes : Nat) (s : State) := nextM s fun m =>
  if !portUp m then m
  else if high then emit m (.completion (some ((leBytes 4 m.port.htcLatch.toNat).take bytes)))
  else
    let t := copyHtc m (islandState m .pcie).copy
    let m := if bytes = 4 then { m with port := { m.port with htcLatch := hi32 t } } else m
    emit m (.completion (some ((leBytes 8 t).take bytes)))

/-- MailboxStatus (R394). -/
def mailboxStatus (m : Mach) : Nat :=
  (if m.port.mailboxBusy then 1 else 0) + (if m.port.mailboxReady then 2 else 0) + 16 * m.port.mailboxLength

/-- A byte of BAR0 of function f as a read returns it: windows, registers, buffers and MSI-X, and 0 elsewhere (R391–R395, R401). The
table has no row for such a read but HTC_NOW_READ, which latches. -/
def bar0ReadByte (m : Mach) (f o : Nat) : Byte :=
  let fn := getFn m f
  let table := if f = 0 then 0x40000 else 0x4000
  let size := if f = 0 then 128 else 64
  let pba := if f = 0 then 0x41000 else 0x5000
  let reg := fun (base n : Nat) => byteAt (leBytes 8 n) (o - base)
  if o < 4096 then sget 0 m.intake (4096 * f + o)
  else if o < 0x1008 then reg 0x1000 (copyHtc m (islandState m .pcie).copy)
  else if o < 0x1010 then reg 0x1008 (moduleStatus m).toNat
  else if o < 0x1018 then reg 0x1010 fn.cause.toNat
  else if table ≤ o ∧ o < table + size then
    let b := sget 0 m.bar0 (2 ^ 20 + 4096 * f + (o - table))
    if o % 16 = 12 then BitVec.ofNat 8 (b.toNat / 2 * 2 + if fn.mask.getLsbD ((o - table) / 16) then 1 else 0) else b
  else if pba ≤ o ∧ o < pba + 8 then reg pba fn.pba.toNat
  else if f ≠ 0 then 0
  else if 0x2008 ≤ o ∧ o < 0x200C then reg 0x2008 (mailboxStatus m)
  else if 0x5000 ≤ o ∧ o < 0x5008 then reg 0x5000 m.port.apertureBase
  else if 0x10000 ≤ o ∧ o < 0x40000 then bar0Byte m o
  else 0

/-! ## The fabric aperture (R400) -/

/-- BAR2_READ: the bytes, old or new per 64-byte unit while a sheet is being written. The new bytes are not settled before the
sheet is complete, and so stand free. -/
def execBar2Read (offset : BitVec 32) (bytes : Nat) (s : State) := nextM s fun m =>
  if !portUp m then m
  else if odGet m 0x5400 4 = 0 then emit m (.completion none)
  else
    let a := m.port.apertureBase + offset.toNat
    let racing := (m.sheetWriting.map fun k => sheetLength k).getD 0
    let byte := fun i =>
      let b := a + i
      if b < sheetBase + racing ∧ sheetBase ≤ b ∧ Config.raceTakesNew (m.fresh + (b / 64 - a / 64)) then Config.freeByte (m.fresh + i)
      else hbmByte m b
    emit (serveHbm { m with fresh := m.fresh + bytes + 1 } a bytes) (.completion (some ((List.range bytes).map byte)))

/-- BAR2_WRITE: discarded and counted. -/
def execBar2Write (_offset : BitVec 32) (_data : List Byte) (s : State) := nextM s fun m =>
  if portUp m then count m 0x5401 6 1 else m

/-! ## Reads that fail (R399) -/

/-- A tail word that cannot be read ends its request as an impossible tail does. -/
def tailFailed (m : Mach) (c : Nat) : Mach :=
  let x := getCtx m c
  let m := setCtx m c { x with tailRead := false }
  if x.state = .ending then m else endStatus m c 7 0 true

/-- The step ring's tail word cannot be read: the requests whose records go to the step ring end (assumption 46). -/
def stepTailFailed (m : Mach) (f : Nat) : Mach :=
  let m := setFn m f { getFn m f with stepTailRead := false }
  let hit := (liveOf m f).filter fun c =>
    let x := getCtx m c
    x.state != .ending && (x.fallback || (x.desc.map stepOnly).getD false)
  hit.foldl (fun m c => endStatus m c 7 0 true) m

/-- A QLD whose host read failed: its entry is released and its row faults (R150). -/
def qldFailed (m : Mach) (c : CoreId) (q e : Nat) : Mach :=
  rowFault (setQueues m c { getQueues m c with entries := sset none (getQueues m c).entries (16 * q + e) none }) c.row 0x504 0 0

/-- A read of the image under way, the first time again, the second time the end of the load or replacement. -/
def imageFailed (m : Mach) (offset : Nat) : Mach :=
  if !m.imageRetries.contains offset then { m with imageRetries := m.imageRetries ++ [offset] }
  else if m.mode = .loading then refuseLoad m 0x0406 offset
  else
    let built := (m.repl.map fun r => decide (r.method ≤ 2) && r.buffered).getD false
    giveFirst (endRepl (if built then dropLatent m else m) 0x0406) (objKey 0x3140 1) (loadRefused 0x0406)

/-- A load or a replacement still reads its image. -/
def imageReading (m : Mach) : Bool :=
  match m.repl with
  | some r => odGet m 0x3140 2 == 1 || (odGet m 0x3140 2 == 2 && !(r.method == 3 && r.buffered))
  | none => m.mode == .loading && (m.job.map fun j => !j.loaded).getD false

/-- A read is outstanding for its purpose. -/
def readOutstanding (m : Mach) : ReadPurpose → Bool
  | .prompt c => (getCtx m c.val).fetching
  | .tail c => (getCtx m c.val).tailRead
  | .stepTail f => (getFn m f.val).stepTailRead
  | .qld c q e => match sget none (getQueues m c).entries (16 * q.val + e.val) with
    | some x => x.load && addrSpace x.remote == 3
    | none => false
  | .image _ => imageReading m
  | .adapter => !m.adapterWait.isEmpty

/-- A read that fails counts, and its purpose decides the rest. -/
def readFailed (m : Mach) (r : ReadPurpose) : Mach :=
  if !readOutstanding m r then m
  else
    let m := count m 0x5401 4 1
    match r with
    | .prompt c => promptFailed m c.val
    | .tail c => tailFailed m c.val
    | .stepTail f => stepTailFailed m f.val
    | .qld c q e => qldFailed m c q.val e.val
    | .image o => imageFailed m o
    | .adapter => adapterReadFailed m

/-- READ_COMPLETION_ERROR. -/
def execReadCompletionError (r : ReadPurpose) (s : State) := nextM s fun m => readFailed m r

/-- When the read outstanding for a purpose issued; the reads of an image have no place in State for their own. -/
def readIssued (m : Mach) : ReadPurpose → Nat
  | .prompt c => (getCtx m c.val).fetchAt
  | .tail c => (getCtx m c.val).tailReadAt
  | .stepTail f => (getFn m f.val).stepReadAt
  | .qld c q e => ((sget none (getQueues m c).entries (16 * q.val + e.val)).map (·.issued)).getD 0
  | .image _ => m.now
  | .adapter => (m.adapterWait.head?.map (·.2.2)).getD 0

/-- COMPLETION_TIMEOUT: no completion within CompletionTimeout of the read's issue. -/
def execCompletionTimeout (r : ReadPurpose) (s : State) := nextM s fun m =>
  if readOutstanding m r then readFailed (advance m (readIssued m r + odGet m 0x5400 2 * 217000)) r else m

/-! ## Interrupts (R401) -/

/-- MSIX_HOLDOFF_EXPIRY: the conditions held share one message. -/
def execMsixHoldoffExpiry (fn : Fin 16) (vec : Fin 8) (s : State) := nextM s fun m =>
  if !(getFn m fn.val).heldOff.getLsbD vec.val then m
  else
    let m := advance m (sget 0 (getFn m fn.val).lastMsix vec.val - 1 + odGet m 0x5400 3 * 217000)
    let x := getFn m fn.val
    msixGenerate (setFn m fn.val { x with heldOff := x.heldOff &&& ~~~ BitVec.ofNat 8 (2 ^ vec.val)
                                          lastMsix := sset 0 x.lastMsix vec.val (m.now + 1) }) fn.val vec.val

/-- A vector is unmasked: its pending message goes out. -/
def unmaskVector (m : Mach) (f v : Nat) : Mach :=
  let bit := BitVec.ofNat 8 (2 ^ v)
  let x := getFn m f
  if f ≠ 0 ∧ 4 ≤ v then m
  else
    let m := setFn m f { x with mask := x.mask &&& ~~~ bit }
    if x.up ∧ x.pba.getLsbD v then emit (setFn m f { x with mask := x.mask &&& ~~~ bit, pba := x.pba &&& ~~~ bit }) (.msix f v) else m

/-- MSIX_UNMASK. -/
def execMsixUnmask (fn : Fin 16) (vec : Fin 8) (s : State) := nextM s fun m =>
  if portUp m then unmaskVector m fn.val vec.val else m

end Sys2Proof.Machine
end

