-- ==== Sys2Proof/Machine/Power.lean ====
section
/-! DEFINITION. Power, heat and coolant (R439–R473, R534, R547): feeds and PWR_EN, converters, e-fuses, sensors and the wanted
level, thermal trips, flow stops, HBM temperature and scrub, and the second pulse. -/

namespace Sys2Proof.Machine

/-! ## Losing power (R442, R534) -/

/-- LastPowerLoss (R535). -/
def powerLossRecord (m : Mach) (cause : Nat) : Nat :=
  leNat (leBytes 8 (htcNow m) ++ leBytes 4 ((m.job.map (·.id.toNat)).getD 0) ++ leBytes 1 (modCode m.mode) ++ leBytes 1 cause
    ++ leBytes 2 (natBits (odGet m 0x6010 1) 207 192))

/-- A non-volatile write cut off: the object holds the old value or the new one (R409). -/
def cutNv (m : Mach) (w : NvWrite) : Mach :=
  let m := w.items.foldl (fun m e =>
    let d := draw m
    if Config.raceTakesNew d.1 then odSet d.2 (e.1 / 256) (e.1 % 256) e.2 else d.2) m
  match w.keys with
  | some ks =>
    let d := draw m
    if Config.raceTakesNew d.1 then { d.2 with sec := { d.2.sec with keys := ks } } else d.2
  | none => m

/-- Copy A of a type's flash set: of every erg, or of the power board. -/
def setCopyA (m : Mach) (type : Nat) (c : Option FlashCopy) : Mach :=
  let ks := if type = 0 then [0, 1, 2, 3] else [4]
  { m with sec := { m.sec with copyA := ks.foldl (fun f k => sset (some .factory) f k c) m.sec.copyA } }

/-- A firmware write cut off leaves copy A invalid (R534). -/
def cutFirmware (m : Mach) : Mach :=
  match m.sec.install with
  | some p => setCopyA m p.imageType none
  | none => m

/-- What is left in OFF: the part's own facts, what is non-volatile, the power board, and the cables. The clock of the model
goes on; no HTC copy survives, and the next power-up counts HTC from 0 (assumption 47). A retired lane of the control mesh stays
retired (DESIGN CHOICE, assumption 135). -/
def offState (m : Mach) : Mach :=
  { gradeE := m.gradeE, steppingB1 := m.steppingB1, now := m.now, htcOffset := -((m.now / 217 : Nat) : Int), fresh := m.fresh
    od := m.od.filter fun e => survivesPower e.1
    bundles := smap {} m.bundles fun _ b => { cable := b.cable }
    sec := { keys := m.sec.keys, copyA := m.sec.copyA, copyB := m.sec.copyB }
    badSites := m.badSites, badCores := m.badCores, badDunes := m.badDunes, retirement := m.retirement
    coeffFrom := m.coeffFrom, coeffTest := m.coeffTest, ctlLanes := m.ctlLanes
    flashThumb := m.flashThumb
    power := { pwrEn := m.power.pwrEn, feeds := m.power.feeds, thermTrip := m.power.thermTrip, lowSince := m.power.lowSince
               slotPins := m.power.slotPins, slotId := m.power.slotId
               efuse := m.power.efuse.filter fun e => e.2 == 2 }
    out := m.out }

/-- The module loses its power: FREEZE, LastPowerLoss, OFF. A module that is lost with its steward leaves no record. -/
def powerDown (m : Mach) (cause : Nat) : Mach :=
  if m.mode = .off then m
  else
    let m := if powered m then
        let record := powerLossRecord m cause
        odSet (sendFreeze m (beatNumber m)) 0x6040 4 record
      else m
    offState (cutFirmware (m.nvQueue.foldl cutNv m))

/-! ## Bring-up (R447, R525) -/

/-- POWERING: every converter works, every domain is tried once and is up but for the dunes held off, and the root's islands run;
HTC counts from here, and SLOT_ID is sampled (R214, R445, R447, R547). A thumbnail kept in flash is readable again (R465). -/
def enterPowering (m : Mach) : Mach :=
  let held := (List.range 192).filter fun k => sget 0 m.power.efuse k == 2
  let m := held.foldl (fun m k => setDune m (duneOf k) { getDune m (duneOf k) with power := .off }) m
  let m := { m with htcOffset := -((m.now / 217 : Nat) : Int), power := { m.power with dunesUp := true, slotId := m.power.slotPins } }
  let m := odSet m 0x4000 7 0xFFF
  let m := match m.flashThumb with
    | some x => odSet { m with thumbnail := some x } 0x6030 6 2
    | none => m
  setState m .powering

/-- Power comes up where PWR_EN is asserted and a feed is usable (R524). -/
def tryPower (m : Mach) : Mach := if m.mode = .off ∧ m.power.pwrEn ∧ m.power.feeds ≠ 0 then enterPowering m else m

/-- What a PWR_EN cycle, a low of at least 1 s, ends: THERM_TRIP_N and the holding off of dune domains (R445, R456, R547). -/
def endCycle (m : Mach) : Mach :=
  if m.now < m.power.lowSince + 217000000000 then m
  else { m with power := { m.power with thermTrip := false, efuse := m.power.efuse.filter fun e => e.2 != 2 } }

/-- The clock runs on in OFF, where nothing is on its way (R442). -/
def passOff (m : Mach) (t : Nat) : Mach := { m with now := max m.now t }

/-- PWR_EN_ASSERT after a low of at least so many µs, with the levels of SLOT_ID that the cabinet drives. -/
def execPwrEnAssert (lowUs : Nat) (slot : BitVec 6) (s : State) := nextM s fun m =>
  if m.power.pwrEn then m
  else
    let m := endCycle (passOff m (m.power.lowSince + 217000 * lowUs))
    tryPower { m with power := { m.power with pwrEn := true, slotPins := slot } }

/-- PWR_EN_DEASSERT. -/
def execPwrEnDeassert (s : State) := nextM s fun m =>
  if m.power.pwrEn then powerDown { m with power := { m.power with pwrEn := false, lowSince := m.now } } 2 else m

/-- FEEDS_LOST. -/
def execFeedsLost (s : State) := nextM s fun m => powerDown { m with power := { m.power with feeds := 0 } } 1

def feedBit (feedB : Bool) : Nat := if feedB then 2 else 1

/-- FEED_ISOLATE: the other feed carries the load; without one the power is lost. -/
def execFeedIsolate (feedB : Bool) (s : State) := nextM s fun m =>
  let bit := feedBit feedB
  if m.power.feeds / bit % 2 = 0 then m
  else
    let m := { m with power := { m.power with feeds := m.power.feeds - bit } }
    let m := if powered m then postEvent (count m 0x4000 8 1) 0x8004 0 0xFF (bit - 1) else m
    if m.power.feeds = 0 then powerDown m 1 else m

/-- FEED_REJOIN. -/
def execFeedRejoin (feedB : Bool) (s : State) := nextM s fun m =>
  let bit := feedBit feedB
  if m.power.feeds / bit % 2 = 1 then m else tryPower { m with power := { m.power with feeds := m.power.feeds + bit } }

/-! ## Converters and e-fuses (R443–R446) -/

/-- A converter fails: its bit clears, and the second of an erg is a module fault. -/
def converterFails (m : Mach) (k : Nat) : Mach :=
  let ok := odGet m 0x4000 7
  if ok / 2 ^ k % 2 = 0 then m
  else
    let ok := ok - 2 ^ k
    let m := postEvent (odSet m 0x4000 7 ok) 0x8005 (k / 3) 63 k
    let down := (List.range 3).filter fun i => ok / 2 ^ (3 * (k / 3) + i) % 2 = 0
    if down.length = 2 then raiseFault m 0x702 (k / 3) 63 127 0 (beatHere m) 0 else m

/-- CONVERTER_FAILURE. -/
def execConverterFailure (k : Fin 12) (s : State) := nextM s fun m => if powered m then converterFails m k.val else m

/-- A job that can be faulted uses a dune. -/
def jobHas (m : Mach) (d : DuneId) : Bool := (beatsRun m || m.mode == .restarting || waitsForT0 m) && usesDune m (duneKey d)

/-- The module steward is lost: nothing answers before a power cycle, and the power board asserts FAULT_N. -/
def stewardLost (m : Mach) : Mach :=
  let m := linkGone m
  { m with power := { m.power with dead := true, faultN := true } }

/-- EFUSE_TRIP: a dune domain that trips again at its try is held off (R445); the outcome is R446's. -/
def execEfuseTrip (dom : Domain) (s : State) := nextM s fun m =>
  let key := domainKey dom
  if !powered m ∨ sget 0 m.power.efuse key ≠ 0 then m
  else
    let set := fun (m : Mach) (v : Nat) => { m with power := { m.power with efuse := sset 0 m.power.efuse key v } }
    match dom with
    | .dune d =>
      let trips := arrayIndex 11 d.erg.val d.num.val
      let m := count (set m (if m.mode = .powering ∧ odGet m trips 3 ≠ 0 then 2 else 1)) trips 3 1
      let used := jobHas m d
      let m := duneGoesOff m d .off
      if used then raiseFault m 0x601 d.erg.val d.num.val 127 0 (beatHere m) 0
      else postEvent m 0x8006 d.erg.val d.num.val key
    | .hbm k => raiseFault (set m 1) 0x703 (k.val / 8) 63 127 0 (beatHere m) 0
    | .bundle k =>
      let m := bundleLost (set m 1) k.val
      setBundle m k.val { getBundle m k.val with supply := false }
    | .edge e => if e = 0 then stewardLost (set m 1) else raiseFault (set m 1) 0x704 e.val 63 127 0 (beatHere m) 0

/-! ## The wanted level (R453, R454) -/

/-- λ asked for by rules: the highest of them, at most 8, and its announcement. -/
def askLevel (m : Mach) (asks : List Nat) : Mach :=
  let old := odGet m 0x4100 2
  let new := min 8 (asks.foldl max old)
  if new = old then m else announceLevel (odSet m 0x4100 2 new)

/-- The hottest spot in 1/32 °C. -/
def hottestNow (m : Mach) : Int := ((hottestOf m (m.power.spots.map (·.1))).map (·.2)).getD 0

/-- A LengthenStep interval begins (R453). -/
def beginStep (m : Mach) : Mach := { m with power := { m.power with stepBase := hottestNow m, stepAt := m.now } }

/-- A LengthenRelax interval begins. -/
def beginRelax (m : Mach) : Mach := { m with power := { m.power with relaxAt := m.now } }

/-- LENGTHEN_STEP_EXPIRY: at T1 or above, or under power lengthening, one more step unless the hottest spot has cooled by
0.5 °C. -/
def execLengthenStepExpiry (s : State) := nextM s fun m =>
  if !powered m ∨ (odGet m 0x4100 1 = 0 ∧ !m.power.powerLengthening) then m
  else
    let due := m.power.stepAt + odGet m 0x4100 3 * 217000000
    let m := advance m due
    let hot := hottestNow m
    let base := m.power.stepBase
    let m := { m with power := { m.power with stepBase := hot, stepAt := due } }
    if hot + 16 ≤ base then m else askLevel m [odGet m 0x4100 2 + 1]

/-- LENGTHEN_RELAX_EXPIRY: an interval throughout at T0, with no power lengthening (assumption 49). -/
def execLengthenRelaxExpiry (s : State) := nextM s fun m =>
  if !powered m ∨ odGet m 0x4100 1 ≠ 0 ∨ m.power.powerLengthening then m
  else
    let due := m.power.relaxAt + odGet m 0x4100 4 * 217000000
    let m := advance m due
    let m := { m with power := { m.power with relaxAt := due } }
    let lam := odGet m 0x4100 2
    if lam = 0 then m else announceLevel (odSet m 0x4100 2 (lam - 1))

/-! ## Samples (R449–R455, R459–R463) -/

/-- The neighbour value N of a spot in 1/32 °C; without a sampled neighbour the spot's own last value stands. -/
def neighbourValue (m : Mach) (n : Nat) : Int := ((hottestOf m (spotNeighbours n)).map (·.2)).getD (getSpot m n).eff

def sampleSpot (m : Mach) (r : SpotReading) : Mach :=
  let x := samplePair (getSpot m r.spot) r (neighbourValue m r.spot) m.power.samples
  { m with power := { m.power with spots := sset {} m.power.spots r.spot { x with level := spotLevel x } } }

/-- Tj of a dune whose spots have been sampled (R451), rounded down to the sensors' resolution. -/
def sampleDune (m : Mach) (k : Nat) : Mach :=
  let d := duneOf k
  let xs := (spotsAt d.erg.val d.num.val).map (getSpot m)
  if xs.all (·.sampled) then setDune m d { getDune m d with tj := (xs.foldl (fun n x => n + x.eff) 0) / 24 } else m

/-- A dune at T3 is shut down (R455). -/
def shutDune (m : Mach) (d : DuneId) : Mach :=
  if (getDune m d).power ≠ .usable then m
  else
    let used := jobHas m d
    let m := duneGoesOff (count m 0x4100 9 1) d .heat
    if used then raiseFault m 0x506 d.erg.val d.num.val 127 0 (beatHere m) 0 else m

/-- A spot has entered T3. -/
def hotSpot (m : Mach) (n : Nat) : Mach :=
  if n < 2304 then shutDune m (duneOf (n / 12))
  else if m.mode = .thermalHalt then m else raiseFault m 0x705 (spotErg n) 63 127 0 (beatHere m) 0

/-- FlowNominal in units of 2^-19 L/min: R431 keeps it from 28 to 36. -/
def flowNominal (m : Mach) : Nat :=
  let x := odGet m 0x4200 6
  (2 ^ 23 + natBits x 22 0) * 2 ^ (natBits x 30 23 - 131)

/-- The effective flow is below a percentage of FlowNominal (R463). The estimate P / (3.98 kJ/(L·K) · ΔT) is used at 3 kW and
above, where the outlet is the warmer one. -/
def flowBelow (m : Mach) (o : SensorObs) (percent : Nat) : Bool :=
  let n := flowNominal m * percent
  let dt := (o.outlet - o.inlet).toNat
  decide (o.flow * 2 ^ 19 < 10 * n)
  || (decide (3000 ≤ o.inputPower) && dt != 0 && decide (o.inputPower * 960 * 100 * 2 ^ 19 < n * 3980 * dt))

/-- The coolant's state after a sample (R463); 3 is left only by REINIT. -/
def coolantState (m : Mach) (o : SensorObs) : Nat :=
  let old := odGet m 0x4200 5
  if old = 3 then 3
  else if flowBelow m o 40 || (old == 2 && flowBelow m o 45) then 2
  else if flowBelow m o 60 || (1 ≤ old && flowBelow m o 65) then 1 else 0

/-- Coolant and input-power readings as objects. An estimate with no rise over the cassette has no stated value. -/
def senseCoolant (m : Mach) (o : SensorObs) : Mach :=
  let dt := (o.outlet - o.inlet).toNat
  let r := if o.inputPower < 3000 then (0, m)
    else if dt = 0 then
      let d := draw m
      ((Config.freeWord d.1).toNat % 2 ^ 32, d.2)
    else (f32Rat (o.inputPower * 960) (3980 * dt), m)
  let m := odSet (odSet (odSet r.2 0x4000 5 o.inputPower) 0x4200 1 (f32Of o.inlet 4)) 0x4200 2 (f32Of o.outlet 4)
  let m := odSet (odSet m 0x4200 3 (f32Milli o.flow)) 0x4200 4 r.1
  let new := coolantState m o
  let old := odGet m 0x4200 5
  let m := odSet m 0x4200 5 new
  let m := { m with power := { m.power with flowOk := if 1000 * flowNominal m ≤ o.flow * 2 ^ 19 then m.power.flowOk + 1 else 0 } }
  if new ≠ old ∧ (new = 1 ∨ new = 2) then postEvent m 0x8007 0 0xFF new else m

/-- Sustained draw above TDP, and overloads of 10 ms (R448, R453): what they ask of λ. -/
def sensePower (m : Mach) (o : SensorObs) : Mach × List Nat :=
  let tdp := if m.gradeE then 15000 else 18000
  let old := odGet m 0x4100 2
  let was := m.power.powerLengthening
  let now := decide (tdp < o.power1s) || (was && decide (97 * tdp ≤ 100 * o.power1s))
  let above := decide (21000 < o.power10ms)
  let m := if above ∧ !m.power.overload then count m 0x4000 9 1 else m
  let m := if now ∧ !was ∧ odGet m 0x4100 1 = 0 then beginStep m else m
  let m := if was ∧ !now then beginRelax m else m
  ({ m with power := { m.power with powerLengthening := now, overload := above } },
    (if now ∧ !was then [old + 1] else []) ++ (if above then [8] else []))

/-- The module's level after a sample, and what entering it asks of λ (R452, R453): low coolant counts as T2. -/
def senseLevel (m : Mach) : Mach × List Nat :=
  let old := odGet m 0x4100 1
  let top := m.power.spots.foldl (fun n e => max n e.2.level) 0
  let new := if odGet m 0x4200 5 = 2 then max top 2 else top
  let lam := odGet m 0x4100 2
  let hot := hottestOf m (m.power.spots.map (·.1))
  let m := odSet m 0x4100 1 new
  let m := odSet (odSet m 0x4100 5 (f32Of ((hot.map (·.2)).getD 0) 5)) 0x4100 6 ((hot.map fun e => spotWord e.1).getD 0)
  let m := odSet m 0x4100 7 (m.power.spots.filter fun e => e.2.flagged).length
  let m := odSet m 0x4100 8 (m.power.spots.foldl (fun n e => n + (if e.2.failed1 then 1 else 0) + (if e.2.failed2 then 1 else 0)) 0)
  let at_ := (hot.map (·.1)).getD 0
  let m := if old < new then
      postEvent m 0x8003 (spotErg at_) (if at_ < 2304 then at_ / 12 % 48 else 63) new
    else m
  let m := if old = 0 ∧ new ≠ 0 ∧ !m.power.powerLengthening then beginStep m else m
  let m := if old ≠ 0 ∧ new = 0 then beginRelax m else m
  (m, (if old = 0 ∧ new ≠ 0 then [lam + 1] else []) ++ (if old < 2 ∧ 2 ≤ new then [4] else []))

/-- Cold seconds and the end of a shortfall of bask (R460). -/
def senseCold (m : Mach) : Mach :=
  let sec := htcNow m / 1000000000 + 1
  let cold := (jobDunes m).any fun d => (getDune m d).tj < 272
  let m := if cold ∧ m.power.lastColdSecond ≠ sec then
      count { m with power := { m.power with lastColdSecond := sec } } 0x4300 7 1
    else m
  let target : Int := 16 * odGet m 0x4300 4
  let warm := allDunes.all fun d => duneIsOff m (duneKey d) || decide (target ≤ (getDune m d).tj)
  if odGet m 0x4300 6 = 1 ∧ warm then odSet m 0x4300 6 0 else m

/-- A dune begins to bask below its target and stops at the target + 3 °C (R459); one whose Tj has not been measured does not. -/
def baskDune (m : Mach) (d : DuneId) : Mach :=
  let x := getDune m d
  let limit := baskTarget m d + (if x.basking then 48 else 0)
  let on := x.power == .usable && decide (x.tj < limit) && (spotsAt d.erg.val d.num.val).all fun n => (getSpot m n).sampled
  if on = x.basking then m else setDune m d { x with basking := on }

/-- Bask after a sample: it stops where neither case holds, and rows of the dunes that bask begin firings. -/
def baskSample (m : Mach) : Mach :=
  let before := m.dunes.any fun e => e.2.basking
  if (baskLimit m).isNone then (if before then stopBask m else m)
  else
    let m := allDunes.foldl baskDune m
    let m := if before then m else { m with baskFired := 0, baskSince := m.now }
    (allDunes.filter fun d => (getDune m d).basking).foldl (fun m d => (duneRows d).foldl (fun m r =>
      if (getRow m r).bask.isNone then baskNext m r 67 else m) m) m

/-- SENSOR_SAMPLE: pairs that agree first, so that the others see their neighbours' values of this sample. -/
def execSensorSample (obs : SensorObs) (s : State) := nextM s fun m =>
  if !powered m then m
  else
    let m := { m with power := { m.power with samples := m.power.samples + 1 } }
    let rs := obs.spots.filter fun r => r.spot < 2364
    let plain := fun (r : SpotReading) =>
      let x := getSpot m r.spot
      failsNow x r == (false, false) && decide ((r.first - r.second).natAbs ≤ 240)
    let before := m
    let m := (rs.filter plain ++ rs.filter fun r => !plain r).foldl sampleSpot m
    let m := ((rs.filterMap fun r => if r.spot < 2304 then some (r.spot / 12) else none).eraseDups).foldl sampleDune m
    let m := senseCoolant m obs
    let (m, a) := senseLevel m
    let (m, b) := sensePower m obs
    let m := askLevel m (a ++ b)
    let hot := (rs.map (·.spot)).eraseDups.filter fun n =>
      (getSpot m n).level == 3 && (n < 2304 || (getSpot before n).level != 3)
    baskSample (senseCold (hot.foldl hotSpot m))

/-- BASK_SHORTFALL_TIMEOUT. -/
def execBaskShortfallTimeout (s : State) := nextM s fun m =>
  let target : Int := 16 * odGet m 0x4300 4
  let cold := allDunes.any fun d => !duneIsOff m (duneKey d) && decide ((getDune m d).tj < target)
  let basks := m.dunes.any fun e => e.2.basking
  if m.mode = .standby ∧ odGet m 0x4300 3 = 1 ∧ odGet m 0x4100 1 = 0 ∧ basks ∧ cold then
    odSet (advance m (m.baskSince + 600 * 217000000000)) 0x4300 6 1
  else m

/-! ## Thermal halts (R456, R464–R466) -/

/-- A load abandoned by a halt: what it wrote is incomplete (R100, R466). -/
def abandonLoad (m : Mach) : Mach :=
  { m with rows := smap {} m.rows fun _ w => { w with sites := smap {} w.sites fun _ x =>
      if x.state = .busy then { markIncomplete (markIncomplete x .a) .b with state := .free, plate := none } else x } }

/-- Stored heat: the module enters THERMAL_HALT, its waiting commands answered. -/
def haltModule (m : Mach) : Mach :=
  let m := if m.mode = .loading then abandonLoad m else m
  setState (setReplState (dropAnswers { m with restart := none, repl := none }) 0) .thermalHalt

/-- COMPARATOR_TRIP: dune, HBM and bundle domains are removed; a sheet being written stays incomplete. -/
def execComparatorTrip (s : State) := nextM s fun m =>
  if !powered m then m
  else
    let m := haltModule m
    let m := match m.sheetWriting with
      | some k => incompleteSheet m k
      | none => if m.sheet.isSome then odSet { m with sheet := none } 0x6030 1 0 else m
    let m := dropJob (dunesOff m)
    let m := (List.range 8).foldl bundleLost m
    { m with hbm := [], hbmPatch := [], golden := [], staging := [], power := { m.power with thermTrip := true } }

/-- A flow stop declared (R465, R466). -/
def flowStops (m : Mach) : Mach :=
  if !powered m ∨ m.mode = .thermalHalt then m
  else
    let was := m.mode
    let m := count (odSet (count m 0x4200 7 1) 0x4200 5 3) 0x6010 5 1
    let f : FaultRec := ⟨0x706, 3, 0, 0xFF, 127, 0, beatNumber m, 0, htcNow m⟩
    let m := sendFreeze (recordFault m f) f.beat
    let m := freezeAll (haltModule m)
    if was = .standby ∨ was = .loading then dropJob (dunesOff m)
    else match m.sheetWriting with
      | some k => { m with sheetWriting := some 1, sheetCut := k == 2 }
      | none => beginSheet m 1

/-- FLOW_STOP. -/
def execFlowStop (s : State) := nextM s flowStops

/-- EDGE_FIELD_HOT: after a flow stop the thumbnail goes to the power board's flash, and every remaining domain off. -/
def execEdgeFieldHot (s : State) := nextM s fun m =>
  if !powered m ∨ m.mode ≠ .thermalHalt ∨ odGet m 0x4200 5 ≠ 3 then m
  else
    let (x, m) := match m.thumbnail with
      | some x => (x, m)
      | none => signSheet m (makeSheet m 3 1)
    let m := linkGone { m with flashThumb := some x, sheet := none, sheetWriting := none }
    let m := (List.range 8).foldl bundleLost (dropJob (dunesOff m))
    { m with hbm := [], hbmPatch := [], power := { m.power with dead := true } }

/-! ## HBM stacks (R461, R473) -/

/-- The band of a stack: issue that has stopped at 105 °C starts again below 100 °C. -/
def hbmBandOf (old c : Nat) : Nat :=
  if 115 ≤ c then 115 else if 105 ≤ c ∨ (105 ≤ old ∧ 100 ≤ c) then 105 else if 95 ≤ c then 95 else if 85 ≤ c then 85 else 0

/-- HBM_STACK_TEMPERATURE. -/
def execHbmStackTemperature (k : Fin 32) (celsius : Nat) (s : State) := nextM s fun m =>
  if !powered m then m
  else
    let old := sget 0 m.power.hbmBand k.val
    let new := hbmBandOf old celsius
    let hot := if 115 ≤ new then (m.power.hbmHot.filter (· != k.val)) ++ [k.val]
      else if celsius < 95 then m.power.hbmHot.filter (· != k.val) else m.power.hbmHot
    let m := { m with power := { m.power with hbmBand := sset 0 m.power.hbmBand k.val new, hbmHot := hot } }
    let m := if old < 95 ∧ 95 ≤ new then count m 0x4300 8 1 else m
    if old < 115 ∧ new = 115 ∧ m.job.isSome then raiseFault m 0x505 (k.val / 8) 63 127 0 (beatHere m) 0 else m

/-- One word found by the scrub. -/
def scrubHit (k : Nat) (m : Mach) (h : ScrubHit) : Mach :=
  if h.corrected then count m 0x6020 6 1 else postEvent (count m 0x6020 7 1) 0x8009 (k / 8) 63 h.address

/-- HBM_SCRUB: the hits of one pass over a stack. -/
def execHbmScrub (k : Fin 32) (hits : List ScrubHit) (s : State) := nextM s fun m =>
  if powered m then hits.foldl (scrubHit k.val) m else m

/-! ## The second pulse (R547) -/

/-- PPS_SECOND: the root's HTC reaches the next whole second. -/
def execPpsSecond (s : State) := nextM s fun m =>
  if !powered m || m.mode == .powering || rootState m == .acquire then m
  else
    let m := advance m (tuAt m ((htcNow m / 1000000000 + 1) * 1000000000))
    { m with power := { m.power with pps := m.power.pps + 1 } }

end Sys2Proof.Machine
end

