-- ==== Sys2Proof/Machine/Faults.lean ====
section
/-! DEFINITION. Faults as commands: a FAULT that reaches the module steward, FREEZE, the anchor of a restart, contact sheets that
are done, a silent steward, and provoked faults (R475–R499). -/

namespace Sys2Proof.Machine

/-! ## FAULT and FREEZE (R477, R478) -/

/-- The FAULT message of a record (R477). -/
def faultMessage (f : FaultRec) : MeshMsg :=
  let src := if f.dune < 48 then 64 * f.erg + f.dune else stewardNode f.erg
  ⟨meshHeader 1 3 (stewardNode 0) src, faultWord f.code.toNat f.severity f.row, lo32 f.beat, lo32 f.detail.toNat⟩

/-- FAULT: it reaches the module steward, in the order in which its source sent it (R212), and the steward relays it to the other
modules of the job (R477). -/
def execFault (rec : FaultRec) (s : State) := nextM s fun m =>
  if !powered m ∨ rec.severity < 1 ∨ 3 < rec.severity ∨ overtakes m (stewardNode 0) (faultMessage rec) then m
  else
    let ctrl := arrivesAt (stewardNode 0) (faultMessage rec) m.ctrl
    let m := originate { m with raised := m.raised.erase rec, ctrl } (faultMessage rec)
    handleFault (if rec.code = 0x101 then hardArrives m rec.erg rec.dune rec.row rec.beat else m) rec

/-- FREEZE reaches an island; a second one has no further effect. -/
def execFreeze (d : DuneId) (msg : MeshMsg) (s : State) := nextM s fun m =>
  onMessage m (duneNode d) 5 msg fun m => if (getDune m d).frozen then m else freezeDune m d

/-! ## The end of a restart (R481, R482) -/

/-- The beats before the fault's have closed, and step 2 is done. -/
def finishStepTwo (m : Mach) : Mach :=
  if m.mode ≠ .restarting then m
  else
    let n := openBeat m
    let k := (m.job.map (·.nextClose)).getD 0
    let m := if k < n then advance m (tuAt m (closesAt m (n - 1))) else m
    stepTwo (closeDue (n + 1 - k) m (htcNow m))

/-- What a restart waits for: a sheet, a hot stack (R461), the bundles of a multi-module job. -/
def restartWaits (m : Mach) (j : Job) : Bool := m.sheetWriting.isSome || !m.power.hbmHot.isEmpty || (multiModule m && !bundlesOk m j.image)

/-- An IN_PLACE replacement whose records have been overwritten is finished by the restart (R346); its first beat is n. -/
def finishRewrite (m : Mach) (j : Job) (n : Nat) : Mach :=
  match m.repl with
  | some r =>
    if !r.overwritten then m
    else
      let m := if r.firstBeat.isNone then rewriteAll m j r.image else m
      { m with repl := some { r with firstBeat := some n } }
  | none => m

/-- The anchor A: chosen by this module, or sent by the beat master. -/
def restartAnchorOf (m : Mach) (r : Restart) (j : Job) : Option Nat × Mach :=
  if !multiModule m then
    let x := chooseAnchor m r.began 100000
    (some x.1, x.2)
  else if beatMaster m then
    let x := chooseAnchor m r.began 1000000
    (some x.1, broadcastJob x.2 4 2 (lo32 x.1) (hi32 x.1) 0)
  else (j.startAt, m)

/-- Step 8, and what a module that waited in LOADING starts with (R363, R528). -/
def restartDone (m : Mach) (r : Restart) (a n : Nat) : Mach :=
  let m := resumeJob m r a n
  let m := if r.from_ = .loading then giveAnswers (resetWindows m) (objKey 0x3000 1) 0 else m
  if m.repl.isNone then resumePendingEnd m else m

/-- RESTART_ANCHOR: steps 2 to 8, once nothing holds the restart. -/
def execRestartAnchor (rounds : List (List SiteTrial)) (s : State) := nextM s fun m =>
  if !powered m then m
  else
    let m := finishStepTwo m
    match m.restart, m.job with
    | some r, some j =>
      if restartWaits m j ∨ (r.from_ ≠ .loading ∧ !r.ended) ∨ (multiModule m ∧ !beatMaster m ∧ j.startAt.isNone) then m
      else
        let n := restartBeat m
        let (m, failed) := restartWork (finishRewrite m j n) j n rounds
        if failed then m
        else match restartAnchorOf m r j with
          | (some a, m) => restartDone m r a n
          | (none, m) => m
    | _, _ => m

/-! ## Stewards and sheets (R476, R484–R490) -/

/-- STEWARD_TIMEOUT: a steward of erg 1–3 has not answered for 10 ms. -/
def execStewardTimeout (e : Fin 4) (s : State) := nextM s fun m =>
  if !powered m ∨ e = 0 then m else raiseFault m 0x70A e.val 63 127 0 (beatHere m) 0

/-- What follows a sheet: a module fault ends in FAULTED, a flow stop with the dunes off (R465, R484). -/
def afterSheet (m : Mach) : Mach :=
  if m.mode = .dumping then enterFaulted m else if m.mode = .thermalHalt then dropJob (dunesOff m) else m

/-- CONTACT_SHEET_COMPLETE. A sheet whose writing has failed stays incomplete, and a thumbnail takes its place (R490). -/
def execContactSheetComplete (failed : Bool) (s : State) := nextM s fun m =>
  match m.sheetWriting with
  | none => m
  | some k =>
    if !powered m then m
    else if !failed then afterSheet { completeSheet m k m.sheetCut with sheetCut := false }
    else
      let m := { m with sheetCut := false }
      if k = 3 then afterSheet (odSet { m with sheetWriting := none } 0x6030 1 3)
      else odSet (beginSheet (incompleteSheet m k) 3) 0x6030 1 3

/-! ## Provoked faults (R493, R494) -/

/-- A field of FaultProvoke outside what R494 allows; row, dune and erg are used by actions 3, 4 and 5. -/
def provokeLayout (n : Nat) : Bool :=
  let action := natBits n 79 72
  let placed := action == 3 || action == 4 || action == 5
  natBits n 71 0 != 0 || action < 1 || 6 < action
  || ((action == 3 || action == 4) && 67 < natBits n 111 104)
  || (placed && (95 < natBits n 103 96 || 47 < natBits n 95 88 || 3 < natBits n 87 80))
  || (action == 5 && !faultListed (natBits n 127 112))

/-- FaultProvoke's own checks. -/
def provokeCheck (m : Mach) (v : Via) (data : List Byte) : Option Nat :=
  let n := leNat data
  checkWrite m v 0x6310 1 data (failIf (provokeLayout n) layoutErr)
    (failIf (natBits n 79 72 == 6 && m.mode != .standby) wrongState)

/-- Action 5: a fault with code 0x0F01, of the severity of the code asked for, which stands in the detail field. -/
def provokedFault (m : Mach) (a : Armed) : Mach :=
  let code := armedBits a 127 112
  let f : FaultRec := ⟨0xF01, faultSeverity code, armedBits a 87 80, armedBits a 95 88, armedBits a 103 96, 0, beatNumber m, w64 code, htcNow m⟩
  postMesh { m with raised := m.raised ++ [f] } (faultMessage f)

/-- Action 5 or 6 performed. -/
def perform (m : Mach) (a : Armed) : Mach :=
  let m := spendProvocation m a
  if armedBits a 79 72 = 5 then provokedFault m a else flowStops m

/-- Actions that an instant of HTC performs. -/
def timedProvocation (a : Armed) : Bool := armedBits a 79 72 == 5 || armedBits a 79 72 == 6

/-- A provocation armed; one that is due at once acts at once. -/
def provokeRun (m : Mach) (v : Via) (data : List Byte) (reply : Option Reply) : Mach :=
  let a : Armed := ⟨BitVec.ofNat 256 (leNat data), 1⟩
  let m := { m with provocations := m.provocations ++ [a], sec := { m.sec with injectSeen := true } }
  let m := answer m v reply 0
  if timedProvocation a ∧ armedBits a 255 192 ≤ htcNow m then perform m a else m

/-- FAULT_PROVOKE. -/
def execFaultProvoke (v : Via) (data : List Byte) (s : State) := nextM s fun m =>
  commandRow m v (provokeCheck m v data) fun m => provokeRun m v data none

/-- PROVOCATION_ARMED: the earliest instant of a waiting action 5 or 6. -/
def execProvocationArmed (s : State) := nextM s fun m =>
  let first := (m.provocations.filter timedProvocation).foldl (fun best a => match best with
    | some (b : Armed) => if armedBits a 255 192 < armedBits b 255 192 then some a else some b
    | none => some a) none
  match first with
  | some a => if powered m then perform (advance m (tuAt m (armedBits a 255 192))) a else m
  | none => m

end Sys2Proof.Machine
end

