-- ==== Sys2Proof/Machine/Security.lean ====
section
/-! DEFINITION. Keys, ownership, anti-rollback, revocation and attestation (R500–R518). -/

namespace Sys2Proof.Machine

/-! ## The key table (R509–R511) -/

/-- The key table as it will stand once the writes that wait are stored. -/
def comingKeys (m : Mach) : List KeyEntry := m.nvQueue.foldl (fun k w => w.keys.getD k) m.sec.keys

/-- The entry that a KeyCommand enrolls. -/
def commandKey (data : List Byte) : KeyEntry :=
  let point := (data.drop 15).take 97
  { point, level := field data 1 1, flags := byteAt data 2, keyId := Config.sha384 point }

/-- The key_id that a KeyCommand removes: digests stand most significant byte first. -/
def commandKeyId (data : List Byte) : BitVec 384 := BitVec.ofNat 384 (leNat ((data.drop 15).take 48).reverse)

/-- LAYOUT of a KeyCommand (R510). -/
def keyLayout (data : List Byte) : Bool :=
  let op := field data 0 1
  op < 1 || 2 < op || ((data.drop 3).take 12).any (· != 0)
  || 2 < field data 1 1 || 4 ≤ field data 2 1 || (2 ≤ field data 2 1 && field data 1 1 != 2)
  || (op == 1 && !Config.onCurve ((data.drop 15).take 97))
  || (op == 2 && (data.drop 63).any (· != 0))

/-- CONFLICT of a KeyCommand (R510). -/
def keyConflict (m : Mach) (data : List Byte) : Bool :=
  let ks := comingKeys m
  if field data 0 1 = 1 then 16 ≤ ks.length || ks.any fun k => k.keyId == (commandKey data).keyId
  else
    let id := commandKeyId data
    let rest := ks.filter fun k => k.keyId != id
    ks.all (fun k => k.keyId != id) || (ks.any (fun k => k.level == 2) && rest.all fun k => k.level != 2)

def keyCheck (m : Mach) (v : Via) (data : List Byte) : Option Nat :=
  checkWrite m v 0x7100 2 data (failIf (keyLayout data) layoutErr) (failIf (keyConflict m data) conflictErr)

/-- KeyCommand carried out: the new table is stored before the answer. -/
def keyRun (m : Mach) (v : Via) (data : List Byte) (reply : Option Reply) : Mach :=
  let ks := comingKeys m
  let new := if field data 0 1 = 1 then ks ++ [commandKey data] else ks.filter fun k => k.keyId != commandKeyId data
  queueNv m { via := v, items := [], keys := some new, reply, command := true }

/-- KEY_ENROLL. -/
def execKeyEnroll (v : Via) (data : List Byte) (s : State) := nextM s fun m =>
  commandRow m v (keyCheck m v data) fun m => keyRun m v data none

/-- KEY_REMOVE. -/
def execKeyRemove (v : Via) (data : List Byte) (s : State) := nextM s fun m =>
  commandRow m v (keyCheck m v data) fun m => keyRun m v data none

/-- OwnerRelease carried out: an empty table, RequireOwnerSignature and VendorAccess 0 (R511). -/
def releaseRun (m : Mach) (v : Via) (reply : Option Reply) : Mach :=
  queueNv m { via := v, items := [(objKey 0x3010 2, 0), (objKey 0x7100 4, 0)], keys := some [], reply, command := true }

/-- OWNER_RELEASE. -/
def execOwnerRelease (v : Via) (data : List Byte) (s : State) := nextM s fun m =>
  commandRow m v (checkWrite m v 0x7100 5 data none none) fun m => releaseRun m v none

/-- VENDOR_ACCESS_WRITE: non-volatile; Vendor sessions close when it becomes 0 (R512, R513). -/
def execVendorAccessWrite (v : Via) (data : List Byte) (s : State) := nextM s fun m => nvRow m v 0x7100 4 data

/-- A new key table in force: measured, and the sessions of removed keys close; a release closes every session. -/
def keysStored (m : Mach) (new : List KeyEntry) : Mach :=
  let old := m.sec.keys
  if new = old then m
  else extendMeas { m with sec := { m.sec with keys := new } } 5 (Config.sha384 (keyTableBytes new))

/-- The sessions that a stored key table closes, once the write has been answered: a release every one of them, a removal those of the
key, each after a REQUEST of it that executes (R510, R511, R513). -/
def closeRemoved (m : Mach) (old new : List KeyEntry) : Mach :=
  let lost := fun (s : Session) => s.priv.isSome && old.any fun k => k.keyId == s.keyId && !new.contains k
  let m := { m with sessions := m.sessions.map fun s => if lost s then { s with closing := true } else s }
  closeSessions m fun s => new.isEmpty || (lost s && !sessionBusy m s.num)

/-! ## Anti-rollback (R504, R505) -/

/-- security_version of a copy; the factory's is 0 (assumption 50). -/
def copySecurity : FlashCopy → Nat
  | .factory => 0
  | .written p => p.securityVersion

/-- security_version of the running image of a type. -/
def runningSecurity (m : Mach) (type : Nat) : Nat :=
  match type with
  | 0 => ((runningPackage m 0).map copySecurity).getD 0
  | 1 => ((runningPackage m 4).map copySecurity).getD 0
  | _ => (m.job.map fun j => j.image.securityVersion).getD 0

/-- A boot-flash copy of a type 0 steward that a counter would refuse. -/
def copyBelow (m : Mach) (n : Nat) : Bool :=
  (List.range 4).any fun e => [sget (some .factory) m.sec.copyA e, sget (some .factory) m.sec.copyB e].any fun c =>
    !(c.any fun c => decide (n ≤ copySecurity c))

def rollbackCheck (m : Mach) (v : Via) (data : List Byte) : Option Nat :=
  let t := leNat data
  let new := min (runningSecurity m t) 64
  checkWrite m v 0x7010 4 data none
    (failIf (t == 2 && m.mode != .running) wrongState
      <|> failIf (t == 0 && decide (odGet m 0x7010 1 < new) && copyBelow m new) conflictErr)

/-- AntiRollbackCommit carried out: the counter never falls. -/
def rollbackRun (m : Mach) (v : Via) (data : List Byte) (reply : Option Reply) : Mach :=
  let t := leNat data
  answer (odSet m 0x7010 (t + 1) (max (odGet m 0x7010 (t + 1)) (min (runningSecurity m t) 64))) v reply 0

/-- ANTI_ROLLBACK_COMMIT. -/
def execAntiRollbackCommit (v : Via) (data : List Byte) (s : State) := nextM s fun m =>
  commandRow m v (rollbackCheck m v data) fun m => rollbackRun m v data none

/-! ## Root keys (R518) -/

/-- A root key slot that is not revoked. -/
def slotTrusted (m : Mach) (k : Fin 4) : Bool := odGet m 0x7000 6 / 2 ^ k.val % 2 == 0

/-- A copy signed by the key of a slot. The factory's firmware is signed by slot 0 (assumption 50). -/
def signedBy (k : Fin 4) : FlashCopy → Bool
  | .factory => k == 0
  | .written p => p.keyHash == Config.rootKeyHash k

/-- A boot-flash copy of either type signed by a slot. -/
def copySigned (m : Mach) (k : Fin 4) : Bool :=
  (List.range 5).any fun e =>
    [sget (some .factory) m.sec.copyA e, sget (some .factory) m.sec.copyB e].any fun c => c.any (signedBy k)

/-- What a RootRevoke's signature covers. -/
def revokeDigest (slot : Nat) : BitVec 384 := Config.sha384 (asciiBytes "KE8REVOKE" ++ Config.serialNumber ++ leBytes 1 slot)

/-- 48 bytes of a digest or a signature half, most significant first. -/
def be384 (bs : List Byte) : BitVec 384 := BitVec.ofNat 384 (leNat (bs.take 48).reverse)

def revokeCheck (m : Mach) (v : Via) (data : List Byte) : Option Nat :=
  let slot := field data 0 1
  let k : Fin 4 := Fin.ofNat 4 slot
  let others := (List.finRange 4).filter fun j => j != k && slotTrusted m j
  let good := others.any fun j => Config.ecdsaVerify (Config.rootKeyHash j) (revokeDigest slot) (be384 (data.drop 8)) (be384 (data.drop 56))
  checkWrite m v 0x7000 7 data (failIf (3 < slot || field data 1 7 != 0) layoutErr)
    (failIf (others.isEmpty || copySigned m k) conflictErr <|> failIf (!good) authErr)

/-- RootRevoke carried out. -/
def revokeRun (m : Mach) (v : Via) (data : List Byte) (reply : Option Reply) : Mach :=
  answer (odSet m 0x7000 6 (odGet m 0x7000 6 ||| 2 ^ field data 0 1)) v reply 0

/-- ROOT_REVOKE. -/
def execRootRevoke (v : Via) (data : List Byte) (s : State) := nextM s fun m =>
  commandRow m v (revokeCheck m v data) fun m => revokeRun m v data none

/-! ## Attestation (R516, R517) -/

/-- The bytes that evidence signs. -/
def evidenceBody (m : Mach) (nonce : List Byte) : List Byte :=
  let bit := fun (b : Bool) (n : Nat) => if b then n else 0
  let flags := bit (owned m) 1 + bit (odGet m 0x3010 2 == 1) 2 + bit (odGet m 0x7100 4 == 1) 4 + bit m.sec.testSeen 8
    + bit m.sec.injectSeen 16 + bit (m.mode == .running) 32 + bit ((m.job.map (·.proof)).getD false) 64
  asciiBytes "KE8EVIDN" ++ leBytes 2 1 ++ leBytes 2 flags ++ leBytes 4 ((m.job.map (·.id.toNat)).getD 0) ++ padTo 32 nonce
  ++ leBytes 8 (htcNow m) ++ leBytes 4 (firmwareVersion m) ++ leBytes 1 (modCode m.mode) ++ leBytes 1 (if m.gradeE then 1 else 0)
  ++ leBytes 1 (if m.steppingB1 then 1 else 0) ++ [0] ++ m.sec.meas.toList.flatMap bytes384 ++ bytes384 (imageHash m)
  ++ bytes384 (configHash m) ++ (List.range 3).flatMap (fun t => leBytes 1 (odGet m 0x7010 (t + 1))) ++ List.replicate 13 0
  ++ padTo 32 Config.serialNumber

/-- Evidence for a nonce: 640 bytes with DevID's key_id and signature. -/
def makeEvidence (m : Mach) (nonce : List Byte) : List Byte × Mach :=
  let d := draw m
  let body := evidenceBody m nonce
  let sig := Config.devIdSign (Config.sha384 body) d.1
  (body ++ bytes384 (Config.sha384 Config.devIdPoint) ++ bytes384 sig.1 ++ bytes384 sig.2, d.2)

/-- The evidence kept for the client that wrote the nonce. -/
def keepEvidence (m : Mach) (v : Via) (bs : List Byte) : Mach :=
  match v with
  | .mailbox => { m with sec := { m.sec with evidence0 := bs } }
  | .session n => { m with sessions := m.sessions.map fun s => if s.num = n then { s with evidence := bs } else s }

/-- AttestNonce carried out. -/
def nonceRun (m : Mach) (v : Via) (data : List Byte) (reply : Option Reply) : Mach :=
  let (bs, m) := makeEvidence m data
  answer (keepEvidence m v bs) v reply 0

/-- ATTEST_NONCE. -/
def execAttestNonce (v : Via) (data : List Byte) (s : State) := nextM s fun m =>
  commandRow m v (checkWrite m v 0x7030 1 data none none) fun m => nonceRun m v data none

/-! ## Entropy (R508) -/

/-- HEALTH_TEST_FAILURE: the element stops serving, and the module faults. -/
def execHealthTestFailure (e : Fin 4) (s : State) := nextM s fun m =>
  if !powered m then m
  else
    let m := { m with sec := { m.sec with serving := m.sec.serving &&& ~~~BitVec.ofNat 4 (2 ^ e.val) } }
    raiseFault m 0x70A e.val 63 127 0 (beatHere m) 0

end Sys2Proof.Machine
end

