-- ==== Sys2Proof/Machine/Lifecycle.lean ====
section
/-! DEFINITION. Boot, self-test, REINIT and firmware (R503, R525–R533). -/

namespace Sys2Proof.Machine

/-! ## The boot ROMs (R503, R533) -/

/-- The key of a copy is trusted (R501): the factory's is that of slot 0. -/
def copyTrusted (m : Mach) : FlashCopy → Bool
  | .factory => slotTrusted m 0
  | .written p => trustedKey m p.keyHash

/-- A copy passes the checks of R503 for an image type. The factory's signature is good (assumption 50). -/
def copyOk (m : Mach) (type : Nat) (c : FlashCopy) : Bool :=
  copyTrusted m c && decide (odGet m 0x7010 (type + 1) ≤ copySecurity c)
  && match c with
    | .factory => true
    | .written p => p.magicOk && p.imageType == type && Config.ecdsaVerify p.keyHash p.digest p.r p.s

/-- The copy that a boot ROM starts, and whether it is copy B; `k` 4 is the power board. -/
def bootCopy (m : Mach) (k : Nat) : Option (FlashCopy × Bool) :=
  let type := if k = 4 then 1 else 0
  let try_ := fun (f : SMap (Option FlashCopy)) => (sget (some .factory) f k).filter (copyOk m type)
  match try_ m.sec.copyA with
  | some c => some (c, false)
  | none => (try_ m.sec.copyB).map fun c => (c, true)

/-- Package digest of a copy. -/
def copyDigest (type : Nat) : FlashCopy → BitVec 384
  | .factory => Config.factoryDigest (type == 1)
  | .written p => p.digest

/-- BootCopy's bit (R536). -/
def setBootCopy (m : Mach) (k : Nat) (b : Bool) : Mach :=
  odSet m 0x7040 3 (spliceBits (odGet m 0x7040 3) k 1 (if b then 1 else 0))

/-- A steward, or the power board, starts its firmware. -/
def startFirmware (m : Mach) (k : Nat) (c : FlashCopy) (fromB : Bool) : Mach :=
  let m := { m with sec := { m.sec with running := sset none m.sec.running k (some c) } }
  setBootCopy (if k < 4 then { m with sec := { m.sec with booted := m.sec.booted ||| BitVec.ofNat 4 (2 ^ k) } } else m) k fromB

/-- A measurement register extended by the packages that run at the given places (R514). -/
def measureRunning (m : Mach) (reg : Fin 6) (type : Nat) (ks : List Nat) : Mach :=
  (ks.filterMap fun k => runningPackage m k).foldl (fun m c => extendMeas m reg (copyDigest type c)) m

/-- The power board's own package, checked by its own ROM and measured into M3. -/
def bootBoard (m : Mach) : Mach :=
  match bootCopy m 4 with
  | some (c, b) => measureRunning (startFirmware m 4 c b) 3 1 [4]
  | none => m

/-- M2 takes the packages of ergs 1, 2 and 3 in that order, once every steward has booted. -/
def measureOthers (m : Mach) : Mach := if m.sec.booted = 15 then measureRunning m 2 0 [1, 2, 3] else m

/-- A steward whose two copies both fail (R533): erg 0 recovers through the mailbox; another one is rewritten from the module
steward's own package and released again, once. -/
def bootFails (m : Mach) (e : Nat) : Mach :=
  if e = 0 then setState m .update
  else match runningPackage m 0 with
    | none => m
    | some c =>
      if m.sec.rewritten.getLsbD e then raiseFault m 0x70A e 63 127 0 0 0
      else
        let m := setState m .update
        let m := { m with sec := { m.sec with
          rewritten := m.sec.rewritten ||| BitVec.ofNat 4 (2 ^ e)
          copyA := sset (some .factory) m.sec.copyA e (some c), copyB := sset (some .factory) m.sec.copyB e (some c) } }
        setState m .powering

/-- BOOT_ROM_CHECK: a steward released from reset checks copy A, then copy B. Erg 0's measures its boot ROM first. -/
def execBootRomCheck (e : Fin 4) (s : State) := nextM s fun m =>
  if m.mode ≠ .powering ∨ !powered m ∨ m.sec.booted.getLsbD e.val then m
  else
    let m := if e = 0 then extendMeas m 0 Config.bootRomDigest else m
    match bootCopy m e.val with
    | none => bootFails m e.val
    | some (c, b) =>
      let m := startFirmware m e.val c b
      measureOthers (if e = 0 then bootBoard (measureRunning m 1 0 [0]) else m)

/-! ## POWERING and SELFTEST (R525–R527) -/

/-- The module key drawn (R180, R525). -/
def drawModuleKey (m : Mach) : Mach :=
  let d := draw m
  { d.2 with moduleKey := Config.freeWord d.1 }

/-- The stored coefficients come from a firmware of another major version than the one that runs (R526). -/
def coefficientsStale (m : Mach) : Bool :=
  match runningPackage m 0 with
  | some c => c != m.coeffFrom && (copyVersion c).toNat / 2 ^ 24 != (copyVersion m.coeffFrom).toNat / 2 ^ 24
  | none => false

/-- Every dune's Tj that is not 0. -/
def duneTemperatures (m : Mach) : SMap Int := m.dunes.filterMap fun e => if e.2.tj = 0 then none else some (e.1, e.2.tj)

/-- POWERING_COMPLETE: every domain up and every steward booted. An extended self-test notes the Tj that it starts at. -/
def execPoweringComplete (s : State) := nextM s fun m =>
  if m.mode = .powering ∧ powered m ∧ m.sec.booted = 15 then
    let m := { m with warming := if coefficientsStale m then some (duneTemperatures m) else none }
    setState (drawModuleKey m) .selftest
  else m

/-- Fault code, erg and dune field of a self-test failure in SelftestResult; a plate site and a part of a dune have no code of
R476, and theirs is open. -/
def selftestResult (m : Mach) (f : SelftestFailure) : Nat × Mach :=
  let open_ := fun (erg dune : Nat) =>
    let d := draw m
    (((Config.freeWord d.1).toNat % 2 ^ 16) * 2 ^ 16 + erg * 256 + dune, d.2)
  let code := fun (c erg : Nat) => (c * 2 ^ 16 + erg * 256 + 63, m)
  match f with
  | .plateSite r _ => open_ r.dune.erg.val r.dune.num.val
  | .dunePart d => open_ d.erg.val d.num.val
  | .hbmStack k => code 0x703 (k.val / 8)
  | .edgeUnit e => code 0x704 e.val
  | .controlLanes e => code 0x701 e.val
  | .stewardUnit e => code 0x70A e.val
  | .converter k => code 0x702 (k.val / 3)

/-- A failure of module scope: its fault code and erg. -/
def moduleScope : SelftestFailure → Option (Nat × Nat)
  | .hbmStack k => some (0x703, k.val / 8)
  | .edgeUnit e => some (0x704, e.val)
  | .controlLanes e => some (0x701, e.val)
  | .stewardUnit e => some (0x70A, e.val)
  | _ => none

/-- A failure that the module works around. -/
def workAround (m : Mach) (f : SelftestFailure) : Mach :=
  match f with
  | .plateSite r s => retireSite m r s.val
  | .dunePart d =>
    if (getDune m d).power ≠ .usable then m
    else count { duneGoesOff m d .off with selftestDunes := m.selftestDunes ++ [duneKey d] } 0x6040 3 1
  | .converter k => converterFails m k.val
  | _ => m

/-- FAULTED straight from SELFTEST (R524). -/
def selftestFaulted (m : Mach) (code erg : Nat) : Mach :=
  let m := count m 0x6010 5 1
  let m := recordFault m ⟨BitVec.ofNat 16 code, 3, erg, 63, 127, 0, 0, 0, htcNow m⟩
  setState (dunesOff m) .faulted

/-- What self-test leaves: SRAM and instruction stores written over, HBM trained, a test pattern in every usable site. The
contact-sheet area keeps a sheet that stands in it. -/
def wiped (m : Mach) : Mach :=
  { m with sram := [], hbm := [], hbmPatch := m.hbmPatch.filter fun e => m.sheet.isSome && sheetBase ≤ e.1
           istore := [], threads := [], rows := [], golden := [], staging := [] }

/-- Sites of a dune that self-test writes and strips: neither fused nor retired. -/
def testedSites (m : Mach) (k : Nat) : Nat := 6528 - ((m.badSites ++ m.retirement).eraseDups.filter fun s => s / 6528 == k).length

/-- The plate part of self-test (R526): the pattern in bank A of every usable site, stripped once; an extended self-test writes
both banks, strips each twice, and its second strips set the coefficients. -/
def plateTest (m : Mach) : Mach :=
  let extended := m.warming.isSome
  let m := (List.range 192).foldl (fun m k =>
    if (getDune m (duneOf k)).power ≠ .usable then m
    else
      let n := testedSites m k * (if extended then 4 else 1)
      let count := fun (m : Mach) (idx sub n : Nat) => countDune m (k / 48) (k % 48) idx sub n
      count (count (count m 0x6140 1 n) 0x6130 2 (8 * n)) 0x6130 1 (16 * n)) m
  { m with
    selftest := some ⟨extended, m.now, duneTemperatures m⟩
    warming := none
    coeffFrom := if extended then (runningPackage m 0).getD .factory else m.coeffFrom
    coeffTest := if extended then m.fresh + 1 else m.coeffTest
    fresh := m.fresh + 1 }

/-- The warming of an extended self-test is done: every usable dune is 10 °C above its start (R526). -/
def warmed (m : Mach) : Bool :=
  match m.warming with
  | some t => allDunes.all fun d => (getDune m d).power != .usable || decide (sget 0 t (duneKey d) + 160 ≤ (getDune m d).tj)
  | none => true

/-- SELFTEST_COMPLETE. -/
def execSelftestComplete (failures : List SelftestFailure) (s : State) := nextM s fun m =>
  if m.mode ≠ .selftest ∨ !powered m ∨ !warmed m then m
  else
    let r := match failures.head? with
      | some f => selftestResult m f
      | none => (0, m)
    let m := plateTest (failures.foldl workAround (odSet (wiped r.2) 0x6040 2 r.1))
    match failures.findSome? moduleScope with
    | some (code, erg) => selftestFaulted m code erg
    | none => enterStandby m

/-! ## REINIT (R531) -/

/-- REINIT is accepted. -/
def reinitOk (m : Mach) : Bool :=
  let code := natBits (odGet m 0x6010 1) 207 192
  match m.mode with
  | .faulted => !(code == 0x702 || code == 0x703 || code == 0x704)
  | .thermalHalt => odGet m 0x4200 5 == 3 && !m.power.thermTrip && decide (100000 ≤ m.power.flowOk)
    && m.power.spots.all fun e => decide (e.2.eff < 1920)
  | _ => false

def reinitCheck (m : Mach) (v : Via) (data : List Byte) : Option Nat :=
  checkWrite m v 0x6040 1 data none (failIf (!reinitOk m) wrongState)

/-- Dune domains on again, but those whose e-fuse is open or that self-test has switched off; then step 3 of R525. -/
def reinitRun (m : Mach) (v : Via) (reply : Option Reply) : Mach :=
  let back := fun (k : Nat) (d : DuneState) =>
    if d.power == .off && sget 0 m.power.efuse k == 0 && !m.selftestDunes.contains k then { d with power := .usable, time := .acquire } else d
  let m := odSet { m with dunes := smap {} m.dunes back, power := { m.power with dunesUp := true } } 0x4200 5 0
  let m := measureOthers (measureRunning (extendMeas m 0 Config.bootRomDigest) 1 0 [0])
  answer (setState (measureRunning m 3 1 [4]) .powering) v reply 0

/-- REINIT. -/
def execReinit (v : Via) (data : List Byte) (s : State) := nextM s fun m =>
  commandRow m v (reinitCheck m v data) fun m => reinitRun m v none

/-! ## Firmware update (R532, R533) -/

/-- A type's stewards or board run the copy A that stands in flash. -/
def copyABooted (m : Mach) (type : Nat) : Bool :=
  (if type = 0 then [0, 1, 2, 3] else [4]).all fun k =>
    odGet m 0x7040 3 / 2 ^ k % 2 == 0 && runningPackage m k == sget (some .factory) m.sec.copyA k && (runningPackage m k).isSome

/-- FirmwareCommand's own checks (R536): recovery installs type 0 only, and SYNC needs copy A to have booted. -/
def firmwareCheck (m : Mach) (v : Via) (data : List Byte) : Option Nat :=
  let op := field data 0 1
  let type := field data 1 1
  checkWrite m v 0x7040 1 data
    (failIf (op < 1 || 2 < op || 1 < type || field data 2 6 != 0 || (op == 2 && field data 16 8 != 0)) layoutErr)
    (failIf ((inRecovery m && (op != 1 || type != 0)) || (op == 2 && !copyABooted m type) || m.sec.install.isSome) wrongState)

/-- LastUpdateResult of a package under R503, 0 where it passes: type, key and signature, counter. -/
def packageResult (m : Mach) (type : Nat) (p : Package) : Nat :=
  if !p.magicOk then 1
  else if p.imageType ≠ type then 5
  else if !trustedKey m p.keyHash || !Config.ecdsaVerify p.keyHash p.digest p.r p.s then 1
  else if p.securityVersion < odGet m 0x7010 (type + 1) then 2 else 0

/-- An update ends without a restart of the stewards; recovery stays in UPDATE. -/
def updateEnds (m : Mach) : Mach := if inRecovery m then m else enterStandby m

/-- An update refused or failed: its result, and the answer. -/
def updateRefused (m : Mach) (result : Nat) (v : Via) (reply : Option Reply) : Mach :=
  answer (updateEnds (odSet m 0x7040 2 result)) v reply 0

/-- SYNC: copy A over copy B. -/
def syncCopies (m : Mach) (type : Nat) : Mach :=
  let ks := if type = 0 then [0, 1, 2, 3] else [4]
  { m with sec := { m.sec with copyB := ks.foldl (fun f k => sset (some .factory) f k (sget (some .factory) m.sec.copyA k)) m.sec.copyB } }

/-- A package read into the firmware area, at a place that is open (R532; DESIGN CHOICE, assumption 142). -/
def readPackage (m : Mach) (p : Package) : Mach :=
  let d := draw m
  dmaHbm d.2 (firmwareBase + Config.promptPlace d.1 % (hbmEnd - firmwareBase - p.file.length + 1)) p.file

/-- FirmwareCommand carried out. `pkg` is none where the package cannot be read (R399). -/
def firmwareRun (m : Mach) (v : Via) (data : List Byte) (pkg : Option Package) (reply : Option Reply) : Mach :=
  let type := field data 1 1
  let m := setState m .update
  if field data 0 1 = 2 then updateRefused (syncCopies m type) 0 v reply
  else
  let m := hostRead m 0 (field data 8 8) (field data 16 8)
  match pkg with
    | none => updateRefused (count m 0x5401 4 1) 3 v reply
    | some p =>
      let m := readPackage m p
      let r := packageResult m type p
      if r ≠ 0 then updateRefused m r v reply
      else holdAnswer { m with sec := { m.sec with install := some p } } v (objKey 0x7040 1) reply

/-- FIRMWARE_INSTALL. -/
def execFirmwareInstall (v : Via) (data : List Byte) (pkg : Package) (s : State) := nextM s fun m =>
  commandRow m v (firmwareCheck m v data) fun m => firmwareRun m v data (some pkg) none

/-- FIRMWARE_SYNC. -/
def execFirmwareSync (v : Via) (data : List Byte) (s : State) := nextM s fun m =>
  commandRow m v (firmwareCheck m v data) fun m => firmwareRun m v data none none

/-- The stewards restart into POWERING, their sessions closed (R420, R532). -/
def restartStewards (m : Mach) : Mach :=
  let m := closeSessions m fun _ => true
  setState { m with sec := { m.sec with booted := 0, rewritten := 0, running := m.sec.running.filter (4 ≤ ·.1) } } .powering

/-- FIRMWARE_WRITE_COMPLETE: the answer is sent, then the stewards or the power board restart; a write that does not read back
leaves copy A invalid. -/
def execFirmwareWriteComplete (verified : Bool) (s : State) := nextM s fun m =>
  match m.sec.install with
  | none => m
  | some p =>
    if m.mode ≠ .update ∨ !powered m then m
    else
      let m := { m with sec := { m.sec with install := none } }
      if !verified then giveAnswers (updateEnds (odSet (setCopyA m p.imageType none) 0x7040 2 4)) (objKey 0x7040 1) 0
      else
        let m := odSet (setCopyA m p.imageType (some (.written p))) 0x7040 2 0
        let m := giveAnswers m (objKey 0x7040 1) 0
        if p.imageType = 0 then restartStewards m else updateEnds (bootBoard m)

end Sys2Proof.Machine
end

