-- ==== Sys2Proof/Machine/Koa.lean ====
section
/-! DEFINITION. KOA (R414–R425) and the object dictionary's commands: messages, sessions, requests, single operations, stored
writes, the mailbox, BAR0 writes as the host makes them (R391, R394), and the dictionary's traffic inside the module (R438). -/

namespace Sys2Proof.Machine

/-! ## Commands by object (R425) -/

/-- Every check of a write to an object, its own included. -/
def writeCheck (m : Mach) (v : Via) (idx sub : Nat) (data : List Byte) : Option Nat :=
  match objKey idx sub with
  | 0x300001 => jobCheck m v data
  | 0x313001 => adapterCheck m v data
  | 0x314001 => replaceCheck m v data
  | 0x604001 => reinitCheck m v data
  | 0x630001 => injectCheck m v data
  | 0x631001 => provokeCheck m v data
  | 0x700007 => revokeCheck m v data
  | 0x701004 => rollbackCheck m v data
  | 0x704001 => firmwareCheck m v data
  | 0x710002 => keyCheck m v data
  | _ => checkWrite m v idx sub data none none

def imageOf : Attach → Option Image
  | .image i => some i
  | _ => none

def packageOf : Attach → Option Package
  | .package p => some p
  | _ => none

/-- The non-volatile objects that RestoreDefaults sets and that do not hold their defaults (R431): those outside the security
range. -/
def restoreItems (m : Mach) : List (Nat × Nat) :=
  m.od.filterMap fun e =>
    let idx := e.1 / 256
    match findObj idx (e.1 % 256) with
    | .inl o => if o.nv && idx < 0x7000 && e.2 != objDefault m e.1 then some (e.1, objDefault m e.1) else none
    | .inr _ => none

/-- RestoreDefaults carried out. -/
def restoreRun (m : Mach) (v : Via) (reply : Option Reply) : Mach :=
  queueNv m { via := v, items := restoreItems m, reply, command := true }

/-- A command object's write carried out. -/
def commandRun (m : Mach) (v : Via) (idx sub : Nat) (data : List Byte) (att : Attach) (reply : Option Reply) : Mach :=
  match objKey idx sub with
  | 0x11000A => restoreRun m v reply
  | 0x300001 => jobRun m v data (imageOf att) reply
  | 0x313001 => adapterRun m v data reply
  | 0x314001 => replaceRun m v data (imageOf att) reply
  | 0x604001 => reinitRun m v reply
  | 0x630001 => injectRun m v data reply
  | 0x631001 => provokeRun m v data reply
  | 0x700007 => revokeRun m v data reply
  | 0x701004 => rollbackRun m v data reply
  | 0x703001 => nonceRun m v data reply
  | 0x704001 => firmwareRun m v data (packageOf att) reply
  | 0x710002 => keyRun m v data reply
  | 0x710005 => releaseRun m v reply
  | _ => answer m v reply 0

/-- RESTORE_DEFAULTS. -/
def execRestoreDefaults (v : Via) (data : List Byte) (s : State) := nextM s fun m =>
  commandRow m v (writeCheck m v 0x1100 10 data) fun m => restoreRun m v none

/-! ## Writes applied (R409, R424) -/

/-- A checked write of a volatile object. -/
def applyWrite (m : Mach) (idx sub : Nat) (data : List Byte) : Mach :=
  match findObj idx sub with
  | .inl o =>
    if 0x3110 ≤ idx ∧ idx ≤ 0x311F ∧ sub = 1 then setIntakeEnable m (idx - 0x3110) (leNat data) else accept m o (leNat data)
  | .inr _ => m

def isNv (idx sub : Nat) : Bool := match findObj idx sub with
  | .inl o => o.nv
  | .inr _ => false

/-- The values of a stored write in force. -/
def storedValues (m : Mach) (w : NvWrite) : Mach :=
  let m := match w.keys with
    | some ks => keysStored m ks
    | none => m
  w.items.foldl (fun m e => match findObj (e.1 / 256) (e.1 % 256) with
    | .inl o => accept m o e.2
    | .inr _ => m) m

/-- What follows a stored write once it has been answered: the port retrains (R387), sessions close (R431, R510, R511). -/
def afterStore (m : Mach) (old : List KeyEntry) (w : NvWrite) : Mach :=
  let m := match w.keys with
    | some ks => closeRemoved m old ks
    | none => m
  let m := if w.items.any fun e => addressObject e.1 then closeSessions m fun s => !s.overMailbox else m
  if w.items.any fun e => e.1 == objKey 0x5400 1 then bifurcate m else m

/-- The writes of a request whose non-volatile part is stored: its command now runs, or it is answered. -/
def finishRequest (m : Mach) (v : Via) (reply : Reply) : Mach :=
  match parseRequest reply.body with
  | none => m
  | some ops => match ops.find? isCommand with
    | some o => commandRun m v o.idx o.sub o.data reply.att (some reply)
    | none => answerWith m v (some reply) (fun _ => true) 0 0

/-- The answer of a write that could not be stored. -/
def failStore (m : Mach) (w : NvWrite) : Mach :=
  if w.command then answer m w.via w.reply nvFailure
  else match w.reply with
    | none => answer m w.via none nvFailure
    | some r => match parseRequest r.body with
      | none => m
      | some ops =>
        let wr := fun i => match ops[i]? with
          | some o => if isCommand o then notApplied else if isNv o.idx o.sub then nvFailure else 0
          | none => 0
        sendResponse m w.via r.src r.seq (responseBody m r.src w.via ops wr)

/-- NV_STORE_COMPLETE. -/
def execNvStoreComplete (stored : Bool) (s : State) := nextM s fun m =>
  match m.nvQueue with
  | [] => m
  | w :: rest =>
    let m := { m with nvQueue := rest }
    if !stored then failStore m w
    else
      let old := m.sec.keys
      let m := storedValues m w
      let m := if w.command then answer m w.via w.reply 0 else match w.reply with
        | none => answer m w.via none 0
        | some r => finishRequest m w.via r
      afterStore m old w

/-! ## Requests (R422–R425) -/

/-- The code with which each operation's write fails, 0 where it passes or is none. Command writes that are not alone, or not
the last WRITE, answer TOO_MANY_COMMANDS. -/
def writeCodes (m : Mach) (v : Via) (ops : List Op) : List Nat :=
  let commands := (ops.filter isCommand).length
  let last := (ops.zipIdx.filter fun e => e.1.op == 2).getLast?.map (·.2)
  ops.zipIdx.map fun (e : Op × Nat) =>
    if e.1.op ≠ 2 then 0
    else if isCommand e.1 && (decide (1 < commands) || last != some e.2) then tooManyCommands
    else if e.1.bad then badRequest
    else (writeCheck m v e.1.idx e.1.sub e.1.data).getD 0

/-- SUBSCRIBE: the session's mask. -/
def subscribe (m : Mach) (v : Via) (mask : W64) : Mach :=
  match v with
  | .mailbox => m
  | .session n => { m with sessions := m.sessions.map fun s => if s.num = n then { s with mask } else s }

/-- A REQUEST executed. -/
def runRequest (m : Mach) (src : KoaSrc) (v : Via) (seq : Nat) (body : List Byte) (att : Attach) : Mach :=
  match parseRequest body with
  | none => sendResponse m v src seq unparsed
  | some ops =>
    let codes := writeCodes m v ops
    let m := ops.foldl (fun m o => if o.op = 4 ∧ !o.bad then subscribe m v (w64 (leNat o.data)) else m) m
    if codes.any (· != 0) then
      let wr := fun i => if codes.getD i 0 = 0 then notApplied else codes.getD i 0
      sendResponse m v src seq (responseBody m src v ops wr)
    else
      let writes := ops.filter fun o => o.op == 2 && !isCommand o
      let m := writes.foldl (fun m o => if isNv o.idx o.sub then m else applyWrite m o.idx o.sub o.data) m
      let items := writes.filterMap fun o => if isNv o.idx o.sub then some (objKey o.idx o.sub, leNat o.data) else none
      let reply : Reply := ⟨src, seq, body, att⟩
      if items.isEmpty then finishRequest m v reply else queueNv m { via := v, items, reply := some reply }

/-! ## Answers other than a RESPONSE (R394, R416) -/

/-- An ERROR. -/
def errorTo (m : Mach) (src : KoaSrc) (seq code : Nat) : Mach := sendBack m src (plainMsg 9 seq (leBytes 4 code))

/-- A message that a UDP port discards without an answer, and the mailbox answers with an ERROR. -/
def reject (m : Mach) (src : KoaSrc) (seq code : Nat) : Mach :=
  let m := count m 0x1100 9 1
  match src with
  | .mailbox => errorTo m src seq code
  | .port _ => m

/-! ## Sessions (R417–R420) -/

/-- A HELLO beyond 16 in one second. -/
def helloFlood (m : Mach) : Bool × Mach :=
  let sec := m.now / 217000000000
  let n := if m.sec.helloSecond = sec then m.sec.hellos else 0
  (16 ≤ n, { m with sec := { m.sec with helloSecond := sec, hellos := n + 1 } })

/-- HELLO: a new session, its keys, and the signed HELLO_REPLY. -/
def takeHelloMsg (m : Mach) (src : KoaSrc) (seq : Nat) (flags : Byte) (body : List Byte) : Mach :=
  let point := body.take 97
  let clientNonce := body.drop 97
  let overMailbox := src == .mailbox
  let (flood, m) := helloFlood m
  if flood then reject m src seq sessionLimit
  else if body.length ≠ 129 || byteAt body 0 != 4 || !Config.onCurve point then errorTo m src seq sessionErr
  else if !m.sec.serving.getLsbD 0 then reject m src seq authErr
  else if !overMailbox && decide (odGet m 0x1100 6 ≤ (m.sessions.filter fun s => !s.overMailbox).length) then errorTo m src seq sessionLimit
  else
    let d := draw m
    let num := m.sec.nextSession
    let nonce := padTo 32 (Config.drbg d.1 32)
    let head := leBytes 4 num ++ padTo 97 (Config.ephemeralPoint d.1) ++ nonce ++ bytes384 (Config.sha384 Config.devIdPoint)
    let h := Config.sha384 (body ++ head)
    let sig := Config.devIdSign h d.1
    let key := fun (info : String) => Config.hkdf (clientNonce ++ nonce) (Config.ecdhX point d.1) (asciiBytes info) 44
    let s : Session := { num, overMailbox, testAsked := flags.getLsbD 0, hash := h, c2s := key "KOA1 c2s", s2c := key "KOA1 s2c",
                         heard := m.now }
    let m := { d.2 with sessions := d.2.sessions ++ [s], sec := { d.2.sec with nextSession := num % (2 ^ 32 - 1) + 1 } }
    sendBack m src (plainMsg 2 seq (head ++ bytes384 sig.1 ++ bytes384 sig.2))

/-- The level and the test attribute of a key: an enrolled one's, or Vendor for a key of the running firmware's list (R512). -/
def keyLevel (m : Mach) (id : BitVec 384) : Option (Nat × Bool) :=
  match m.sec.keys.find? fun k => k.keyId == id with
  | some k => some (k.level, k.flags.getLsbD 0)
  | none =>
    if odGet m 0x7100 4 = 1 ∧ (Config.vendorKeys (BitVec.ofNat 32 (firmwareVersion m))).contains id then some (3, true) else none

/-- AUTH: the privilege granted, or the session forgotten. -/
def takeAuth (m : Mach) (src : KoaSrc) (s : Session) (seq : Nat) (body : List Byte) : Mach :=
  let id := be384 body
  let p := field body 48 1
  let good := body.length == 148 && field body 49 3 == 0 && match keyLevel m id with
    | some (level, _) =>
      decide (p ≤ level) && Config.ecdsaVerify id (Config.sha384 (bytes384 s.hash ++ leBytes 1 p)) (be384 (body.drop 52)) (be384 (body.drop 100))
    | none => false
  if !good then errorTo (closeSessions m fun x => x.num == s.num) src seq authErr
  else
    let test := s.testAsked && ((keyLevel m id).map (·.2)).getD false
    let s := { s with priv := some p, test, keyId := id, heard := m.now }
    let m := { m with sessions := m.sessions.map fun x => if x.num = s.num then s else x }
    let m := if test then count { m with sec := { m.sec with testSeen := true } } 0x7100 6 1 else m
    sendSealed m src s 4 (leBytes 1 p ++ leBytes 1 (if test then 1 else 0) ++ [0, 0])

/-- The request of a session and seq has not been answered yet. -/
def executing (m : Mach) (n seq : Nat) : Bool :=
  (m.answers.any fun a => a.via == .session n && (a.reply.map (·.seq)) == some seq)
  || m.nvQueue.any fun w => w.via == .session n && (w.reply.map (·.seq)) == some seq

/-- A REQUEST of a session has come now (R420). -/
def heardNow (m : Mach) (n : Nat) : Mach :=
  { m with sessions := m.sessions.map fun x => if x.num = n then { x with heard := m.now } else x }

/-- A repeated seq: answered from the store, or IN_PROGRESS for what still executes. -/
def repeated (m : Mach) (src : KoaSrc) (s : Session) (seq : Nat) (body : List Byte) : Mach :=
  match s.responses.find? fun e => e.1 == seq with
  | some e => sendSealed (heardNow m s.num) src s 6 e.2
  | none =>
    if !executing m s.num seq then reject m src seq sessionErr
    else match parseRequest body with
      | none => m
      | some ops =>
        let wr := fun i => match ops[i]? with
          | some o => if isCommand o || isNv o.idx o.sub then inProgress else 0
          | none => 0
        sendSealed (heardNow m s.num) src s 6 (responseBody m src (.session s.num) ops wr)

/-- REQUESTs of a session that are in turn run in seq order. -/
def runWaiting : Nat → Mach → Nat → Mach
  | 0, m, _ => m
  | k + 1, m, n =>
    match m.sessions.find? fun s => s.num == n with
    | none => m
    | some s => match s.waiting.find? fun e => e.1 == s.rxNext with
      | none => m
      | some (seq, src, body, att) =>
        let s := { s with rxNext := seq + 1, waiting := s.waiting.filter fun e => e.1 != seq }
        let m := { m with sessions := m.sessions.map fun x => if x.num = n then s else x }
        runWaiting k (runRequest m src (.session n) seq body att) n

/-- A REQUEST of a session (R419). -/
def takeRequest (m : Mach) (src : KoaSrc) (s : Session) (seq : Nat) (body : List Byte) (att : Attach) : Mach :=
  if s.priv.isNone then reject m src seq sessionErr
  else if seq < s.rxNext then repeated m src s seq body
  else if s.rxHigh + 8 < seq ∨ s.closing then reject m src seq sessionErr
  else
    let s := { s with rxHigh := max s.rxHigh seq, heard := m.now, waiting := (s.waiting.filter fun e => e.1 != seq) ++ [(seq, src, body, att)] }
    runWaiting 16 { m with sessions := m.sessions.map fun x => if x.num = s.num then s else x } s.num

/-- CLOSE: on the mailbox, where every message is answered, a CLOSE answers it. -/
def takeClose (m : Mach) (src : KoaSrc) (s : Session) (seq : Nat) : Mach :=
  if seq < s.rxNext then reject m src seq sessionErr
  else
    let m := if src = .mailbox then sendSealed m src s 8 [] else m
    closeSessions m fun x => x.num == s.num

/-! ## Messages (R394, R415, R416, R421) -/

/-- A steward serves KOA, or the boot ROM of erg 0 the mailbox. -/
def koaServes (m : Mach) : Bool := powered m && (m.sec.booted.getLsbD 0 || inRecovery m)

/-- Magic, version, and a length that the header accounts for. -/
def headerOk (msg : List Byte) : Bool :=
  32 ≤ msg.length && field msg 0 2 == 0x4F4B && field msg 2 1 == 1
  && msg.length == 32 + field msg 16 4 + (if field msg 4 4 = 0 then 0 else 16)

/-- Reserved bytes and flags of a header: only HELLO has a flag. -/
def headerReserved (msg : List Byte) : Bool :=
  let flags := field msg 20 1
  ((msg.drop 21).take 11).any (· != 0) || 2 ≤ flags || (flags == 1 && field msg 3 1 != 1)

/-- A message of session 0. -/
def plainMessage (m : Mach) (src : KoaSrc) (msg : List Byte) (att : Attach) : Mach :=
  let seq := field msg 8 8
  let body := msg.drop 32
  let mailbox := src == .mailbox
  match field msg 3 1 with
  | 1 => if inRecovery m then reject m src seq badRequest
    else if headerReserved msg then errorTo m src seq badRequest else takeHelloMsg m src seq (byteAt msg 20) body
  | 5 =>
    if !mailbox then errorTo m src seq sessionErr
    else if headerReserved msg then errorTo m src seq badRequest else runRequest m src .mailbox seq body att
  | _ => reject m src seq badRequest

/-- A message of a session. -/
def sessionMessage (m : Mach) (src : KoaSrc) (msg : List Byte) (att : Attach) : Mach :=
  let seq := field msg 8 8
  match m.sessions.find? fun s => s.num == field msg 4 4 with
  | none => reject m src seq sessionErr
  | some s =>
    match Config.gcmOpen (s.c2s.take 32) (gcmNonce (s.c2s.drop 32) seq) (msg.take 32) (msg.drop 32) with
    | none => reject m src seq authErr
    | some body =>
      if headerReserved msg then errorTo m src seq badRequest
      else match field msg 3 1 with
        | 3 => if s.priv.isSome ∨ seq ≠ 1 then reject m src seq sessionErr else takeAuth m src s seq body
        | 5 => takeRequest m src s seq body att
        | 8 => takeClose m src s seq
        | _ => reject m src seq badRequest

/-- A KOA message that has arrived. -/
def koaMessage (m : Mach) (src : KoaSrc) (msg : List Byte) (att : Attach) : Mach :=
  let port := src != .mailbox
  if !koaServes m || (port && inRecovery m) || (port && 1232 < msg.length) then m
  else if !headerOk msg then reject m src (field msg 8 8) badRequest
  else if field msg 4 4 = 0 then plainMessage m src msg att
  else if inRecovery m then reject m src (field msg 8 8) badRequest
  else sessionMessage m src msg att

/-- A message of a row's own kind. -/
def koaRow (m : Mach) (kind : Nat) (src : KoaSrc) (msg : List Byte) (att : Attach) : Mach :=
  if field msg 3 1 = kind then koaMessage m src msg att else m

/-- KOA_HELLO. -/
def execKoaHello (src : KoaSrc) (msg : List Byte) (s : State) := nextM s fun m => koaRow m 1 src msg .none

/-- KOA_AUTH. -/
def execKoaAuth (src : KoaSrc) (msg : List Byte) (s : State) := nextM s fun m => koaRow m 3 src msg .none

/-- KOA_REQUEST. -/
def execKoaRequest (src : KoaSrc) (msg : List Byte) (att : Attach) (s : State) := nextM s fun m => koaRow m 5 src msg att

/-- KOA_CLOSE. -/
def execKoaClose (src : KoaSrc) (msg : List Byte) (s : State) := nextM s fun m => koaRow m 8 src msg .none

/-- An open session, or one in its set-up, closes when nothing has come for so many seconds (R420). -/
def sessionExpires (m : Mach) (session : Nat) (authenticated : Bool) (seconds : Nat) : Mach :=
  match m.sessions.find? fun x => x.num == session && x.priv.isSome == authenticated with
  | none => m
  | some s => closeSessions (advance m (s.heard + seconds * 217000000000)) fun x => x.num == session

/-- SESSION_IDLE_TIMEOUT: 60 s without a REQUEST. -/
def execSessionIdleTimeout (session : Nat) (s : State) := nextM s fun m =>
  sessionExpires m session true 60

/-- AUTH_TIMEOUT: 1 s without a completed AUTH. -/
def execAuthTimeout (session : Nat) (s : State) := nextM s fun m =>
  sessionExpires m session false 1

/-! ## The mailbox and BAR0 (R391, R394) -/

/-- MailboxDoorbell written with a value. -/
def ringDoorbell (m : Mach) (value : Nat) (att : Attach) : Mach :=
  let n := value % 2 ^ 17
  if !koaServes m then m
  else if m.port.mailboxBusy ∨ n = 0 ∨ 65536 < n then count m 0x5401 5 1
  else
    let msg := (List.range n).map fun k => bar0Byte m (0x10000 + k)
    koaMessage { m with port := { m.port with mailboxBusy := true, mailboxReady := false } } .mailbox msg att

/-- MAILBOX_DOORBELL. -/
def execMailboxDoorbell (value : W32) (att : Attach) (s : State) := nextM s fun m =>
  if portUp m then ringDoorbell m value.toNat att else m

/-- The part of a write that falls in [base, base + size): its offset there, and its bytes. -/
def cutWrite (offset : Nat) (data : List Byte) (base size : Nat) : Nat × List Byte :=
  let a := max offset base
  let b := min (offset + data.length) (base + size)
  (a - base, (data.drop (a - offset)).take (b - a))

/-- Bytes of a function's MSI-X table; the mask bit of each vector is bit 0 of byte 12 of its entry (assumption 22). -/
def writeMsix (m : Mach) (f : Nat) (part : Nat × List Byte) : Mach :=
  part.2.zipIdx.foldl (fun m e =>
    let o := part.1 + e.2
    let m := { m with bar0 := sset 0 m.bar0 (2 ^ 20 + 4096 * f + o) e.1 }
    if o % 16 ≠ 12 then m
    else if e.1.getLsbD 0 then setFn m f { getFn m f with mask := (getFn m f).mask ||| BitVec.ofNat 8 (2 ^ (o / 16)) }
    else unmaskVector m f (o / 16)) m

/-- The registers that every function has. -/
def writeCommon (m : Mach) (f offset : Nat) (data : List Byte) : Mach :=
  let w := cutWrite offset data 0 4096
  let c := cutWrite offset data 0x1010 8
  let m := if w.2.isEmpty then m else writeIntake m f w.1 w.2
  if c.2.isEmpty then m else clearCause m f c.1 c.2

/-- BAR0_WRITE: each byte to the storage at its own offset. -/
def execBar0Write (fn : Fin 16) (offset : BitVec 20) (data : List Byte) (s : State) := nextM s fun m =>
  let o := offset.toNat
  if !portUp m then m
  else
    let m := writeCommon m fn.val o data
    if fn ≠ 0 then writeMsix m fn.val (cutWrite o data 0x4000 64)
    else
      let bell := cutWrite o data 0x2000 4
      let base := cutWrite o data 0x5000 8
      let boxes := cutWrite o data 0x10000 0x20000
      let table := cutWrite o data 0x30000 0x10000
      let m := if bell.2.length = 4 then ringDoorbell m (leNat bell.2) .none else m
      let m := if base.2.length = 8 then setAperture m 0 base.2 else m
      let m := writeBar0 m (0x10000 + boxes.1) boxes.2
      let m := if table.2.isEmpty then m else writeWindowTable m table.1 table.2
      writeMsix m 0 (cutWrite o data 0x40000 128)

/-! ## Single operations (R422–R424) -/

/-- An object that the steward of erg 1, 2 or 3 holds (R438). -/
def remoteObj (idx : Nat) : Option Nat :=
  if 0x8000 ≤ idx ∧ idx < 0x8C00 ∧ idx / 256 % 16 ≠ 9 ∧ idx / 64 % 4 ≠ 0 then some (idx / 64 % 4) else none

/-- Word 1 of OD_REQUEST and OD_RESPONSE. -/
def odWord (op tag idx sub : Nat) : W32 := BitVec.ofNat 32 (op * 2 ^ 30 + tag % 64 * 2 ^ 24 + idx % 2 ^ 16 * 2 ^ 8 + sub % 2 ^ 8)

/-- A tag that no waiting read has. -/
def freeTag (m : Mach) : Option Nat := (List.range 64).find? fun t => !m.odAsked.any fun e => e.1 == t

/-- READ given to the client. -/
def giveRead (m : Mach) (v : Via) (idx sub offset length : Nat) : Mach :=
  let r := readObject m v idx sub offset length
  emit m (.odResult v (BitVec.ofNat 32 r.1) r.2.1 r.2.2)

/-- OD_READ: an object of erg 1–3 is asked of its steward first; the steward's OD_RESPONSE answers it (R438). -/
def execOdRead (v : Via) (index : BitVec 16) (sub : BitVec 8) (offset length : Nat) (s : State) := nextM s fun m =>
  let i := index.toNat
  let k := sub.toNat
  if !koaServes m then m
  else match remoteObj i, freeTag m with
    | some e, some t =>
      if (readObject m v i k offset length).1 ≠ 0 then giveRead m v i k offset length
      else sendMesh { m with odAsked := m.odAsked ++ [(t, v, i, k, offset, length)] } 8 3 (stewardNode e) (stewardNode 0) (odWord 0 t i k) 0 0
    | _, _ => giveRead m v i k offset length

/-- Objects that have a write row of their own. -/
def ownRow (key : Nat) : Bool :=
  key == objKey 0x3101 1 || key == objKey 0x5400 1 || key == objKey 0x7100 4 || (0x3110 ≤ key / 256 && key / 256 ≤ 0x311F && key % 256 == 1)

/-- OD_WRITE: an object without a row of its own. -/
def execOdWrite (v : Via) (index : BitVec 16) (sub : BitVec 8) (data : List Byte) (s : State) := nextM s fun m =>
  let i := index.toNat
  let k := sub.toNat
  let command : Bool := match findObj i k with
    | .inl o => o.acc == 2
    | .inr _ => false
  if !koaServes m || ownRow (objKey i k) || command then m
  else match writeCheck m v i k data with
    | some code => answer m v none code
    | none => if isNv i k then queueNv m { via := v, items := [(objKey i k, leNat data)] } else answer (applyWrite m i k data) v none 0

/-- OD_DESCRIBE. -/
def execOdDescribe (v : Via) (index : BitVec 16) (sub : BitVec 8) (s : State) := nextM s fun m =>
  if !koaServes m then m
  else
    let r := describeObject m index.toNat sub.toNat
    emit m (.odResult v (BitVec.ofNat 32 r.1) (if r.1 = 0 then 16 else 0) r.2)

/-- OD_SUBSCRIBE. -/
def execOdSubscribe (v : Via) (mask : W64) (s : State) := nextM s fun m =>
  if koaServes m then emit (subscribe m v mask) (.odResult v 0 0 []) else m

/-! ## Dictionary traffic inside the module (R438) -/

/-- A longer value on its way from the steward of erg `e` into the firmware scratch region, and its offset there. The dune, one of the
module steward's erg, and the offset are open (DESIGN CHOICE, assumption 142). -/
def sendValue (m : Mach) (e : Nat) (bytes : List Byte) : Nat × Mach :=
  let id := draw m
  let place := draw id.2
  let dune := draw place.2
  let off := 0x3C0000 + 64 * (Config.scratchPlace place.1 % (4097 - ceilDiv bytes.length 64))
  let dst : RowId := ⟨duneOf (Config.scratchPlace dune.1 % 48), 95⟩
  (off, enterPacket dune.2 (rowOf (Config.portRow (stewardNode e))) dst
    { id := id.1, cargo := .value, src := none, sender := none, target := w64 (sramOf dst false off), bytes, cls := 3, tag := 0, vdune := 0
      viaLink := false, privF := true, source := 0, readUntil := 0, word := 0 })

/-- The answer of a steward to an OD_REQUEST: abort or not, and the value or code in words 2 and 3. A longer value goes to the firmware
scratch region, and word 2 holds its offset. -/
def stewardAnswers (m : Mach) (e op idx sub : Nat) : Nat × Nat × Mach :=
  let abort := fun (c : Nat) => (1, c, m)
  match findObj idx sub with
  | .inr gone => abort (if gone then noObject else noSubindex)
  | .inl o =>
    if !(0x8000 ≤ idx ∧ idx < 0x8C00 ∧ idx / 64 % 4 = e) then abort noObject
    else if 1 < op then abort badRequest
    else if op = 1 then abort (if o.acc = 3 then constantObj else readOnly)
    else
      let bs := objBytesWith m .mailbox [] o
      if bs.length ≤ 8 then (0, leNat bs, m)
      else
        let r := sendValue m e bs
        (0, r.1, r.2)

/-- OD_REQUEST: the steward of an erg serves it. -/
def execOdRequest (e : Fin 4) (msg : MeshMsg) (s : State) := nextM s fun m => onMessage m (stewardNode e.val) 8 msg fun m =>
  let w := msg.w1.toNat
  let r := stewardAnswers m e.val (natBits w 31 30) (natBits w 23 8) (natBits w 7 0)
  sendMesh r.2.2 9 3 (msgSource msg) (stewardNode e.val) (odWord r.1 (natBits w 29 24) (natBits w 23 8) (natBits w 7 0))
    (lo32 r.2.1) (hi32 r.2.1)

/-- OD_RESPONSE: the module steward answers the operation that waits with its tag. -/
def execOdResponse (msg : MeshMsg) (s : State) := nextM s fun m => onMessage m (stewardNode 0) 9 msg fun m =>
  let w := msg.w1.toNat
  match m.odAsked.find? fun e => e.1 == natBits w 29 24 && e.2.2.1 == natBits w 23 8 && e.2.2.2.1 == natBits w 7 0 with
  | none => m
  | some (t, v, idx, sub, offset, length) =>
    let m := { m with odAsked := m.odAsked.filter fun e => e.1 != t }
    match natBits w 31 30, findObj idx sub with
    | 0, .inl o =>
      if 8 < (objBytesWith m v [] o).length then giveRead m v idx sub offset length
      else emit m (.odResult v 0 o.len (((leBytes o.len (msg.w2.toNat + 2 ^ 32 * msg.w3.toNat)).drop offset).take length))
    | _, _ => emit m (.odResult v msg.w2 0 [])

/-- TELEMETRY: a dune's steward learns the snapshot's sequence number. -/
def execTelemetry (msg : MeshMsg) (s : State) :=
  let src := msgSource msg
  let e := src / 64
  nextM s fun m => onMessage m (stewardNode e) 10 msg fun m =>
    if 48 ≤ src % 64 then m
    else
      let d := duneOf (48 * e + src % 64)
      setDune m d { getDune m d with telemetry := msg.w1 }

end Sys2Proof.Machine
end

