-- ==== Sys2Proof/Machine/Vec.lean ====
section
/-! DEFINITION. Family VEC: lane arithmetic on the v registers (R136, R138–R140, R551). -/

namespace Sys2Proof.Machine

/-- VecFp for a floating-point type and VecInt for an integer type (R132, R136). -/
def vecLatency (m : Mach) (ty : Nat) : Nat := if tyIsFp ty then latency m 5 else latency m 4

/-- The type code in mod[2:0] and the saturate bit mod[3] (R136). -/
def vecTy (f : Fields) : Nat := fieldMod f % 8
def vecSat (f : Fields) : Bool := fieldMod f / 8 % 2 == 1

/-- Lane by lane over two registers. -/
def zipLanes (ty : Nat) (fn : Nat → Nat → Nat) (a b : W512) : W512 :=
  let w := tyWidth ty
  ofLanes w (List.zipWith fn (lanes w a) (lanes w b))

def mapLanes (ty : Nat) (fn : Nat → Nat) (a : W512) : W512 := ofLanes (tyWidth ty) ((lanes (tyWidth ty) a).map fn)

/-- vd, va, vb with a type: lane operation `fn ty saturate`. -/
def vec3 (op : Nat) (cmp : Bool) (fn : Fields → Nat → Nat → Nat) (t : Thread) (f : Fields) (m : Mach) : Mach :=
  issue m t 1 op f (legalVec f true false (!cmp) cmp) [srcV f.a, srcV f.b] fun m b c =>
    let ts := getThread m t
    resultV (retire m t c) t b c (vecLatency m (vecTy f)) f.d (zipLanes (vecTy f) (fn f) (readV ts f.a) (readV ts f.b))

/-- vd, va with a floating-point type. -/
def vecFp1 (op lat : Nat) (fn : FV → Rounded) (t : Thread) (f : Fields) (m : Mach) : Mach :=
  issue m t 1 op f (legalVec f false true false false) [srcV f.a] fun m b c =>
    let g := fun x => let r := fn (tyDecode (vecTy f) x); tyPack (vecTy f) r.1 r.2
    resultV (retire m t c) t b c (latency m lat) f.d (mapLanes (vecTy f) g (readV (getThread m t) f.a))

def execVadd (t : Thread) (f : Fields) (s : State) := nextM s
  (vec3 0x01 false (fun f => laneOp2 (vecTy f) (vecSat f) (fun x y => (fvAdd x y, false)) (· + ·)) t f)
def execVsub (t : Thread) (f : Fields) (s : State) := nextM s
  (vec3 0x02 false (fun f => laneOp2 (vecTy f) (vecSat f) (fun x y => (fvAdd x (fvNeg y), false)) (· - ·)) t f)
def execVmul (t : Thread) (f : Fields) (s : State) := nextM s
  (vec3 0x03 false (fun f => laneOp2 (vecTy f) (vecSat f) (fun x y => (fvMul x y, false)) (· * ·)) t f)

/-- VFMA: vd = va·vb + vd. -/
def execVfma (t : Thread) (f : Fields) (s : State) := nextM s fun m =>
  issue m t 1 0x04 f (legalVec f true false true false) [srcV f.a, srcV f.b, srcV f.d] fun m b c =>
    let ts := getThread m t
    let w := tyWidth (vecTy f)
    let prod := List.zip (lanes w (readV ts f.a)) (lanes w (readV ts f.b))
    resultV (retire m t c) t b c (vecLatency m (vecTy f)) f.d
      (ofLanes w (List.zipWith (fun xy z => laneFma (vecTy f) (vecSat f) xy.1 xy.2 z) prod (lanes w (readV ts f.d))))

def execVmin (t : Thread) (f : Fields) (s : State) := nextM s (vec3 0x05 false (fun f => laneMin false (vecTy f)) t f)
def execVmax (t : Thread) (f : Fields) (s : State) := nextM s (vec3 0x06 false (fun f => laneMin true (vecTy f)) t f)

/-- VDIV: FP types only. -/
def execVdiv (t : Thread) (f : Fields) (s : State) := nextM s fun m =>
  issue m t 1 0x07 f (legalVec f true true false false) [srcV f.a, srcV f.b] fun m b c =>
    let ts := getThread m t
    resultV (retire m t c) t b c (latency m 6) f.d
      (zipLanes (vecTy f) (laneOp2 (vecTy f) false fvDiv (fun x _ => x)) (readV ts f.a) (readV ts f.b))

def execVsqrt (t : Thread) (f : Fields) (s : State) := nextM s (vecFp1 0x08 6 fvSqrt t f)
def execVrcp (t : Thread) (f : Fields) (s : State) := nextM s (vecFp1 0x09 7 fvRcp t f)
def execVrsq (t : Thread) (f : Fields) (s : State) := nextM s (vecFp1 0x0A 7 fvRsq t f)
def execVexp2 (t : Thread) (f : Fields) (s : State) := nextM s (vecFp1 0x0B 7 fvExp2 t f)
def execVlog2 (t : Thread) (f : Fields) (s : State) := nextM s (vecFp1 0x0C 7 fvLog2 t f)

/-- vd, va: a reduction (R140). -/
def vecRed (op : Nat) (max : Bool) (t : Thread) (f : Fields) (m : Mach) : Mach :=
  issue m t 1 op f (legalVec f false false false false) [srcV f.a] fun m b c =>
    resultV (retire m t c) t b c (latency m 8) f.d (vecReduce max (vecTy f) (readV (getThread m t) f.a))

def execVred (t : Thread) (f : Fields) (s : State) := nextM s (vecRed 0x0D false t f)
def execVrmax (t : Thread) (f : Fields) (s : State) := nextM s (vecRed 0x0E true t f)

/-- VCMP (R551): the condition in mod[6:4]. -/
def execVcmp (t : Thread) (f : Fields) (s : State) := nextM s
  (vec3 0x0F true (fun f => laneCmp (vecTy f) (fieldMod f / 16)) t f)

/-- VSEL: per bit, vc ? va : vb. -/
def execVsel (t : Thread) (f : Fields) (s : State) := nextM s fun m =>
  let vc : BitVec 5 := BitVec.ofNat 5 (fieldC f)
  issue m t 1 0x10 f (!f.i && vOk f.d && vOk f.a && vOk f.b && vOk vc && fieldMod f == 0)
    [srcV f.a, srcV f.b, srcV vc] fun m b c =>
    let ts := getThread m t
    resultV (retire m t c) t b c (latency m 5) f.d
      ((readV ts vc &&& readV ts f.a) ||| (~~~ readV ts vc &&& readV ts f.b))

/-- VBCST: the low lane-width bits of ga into every lane. -/
def execVbcst (t : Thread) (f : Fields) (s : State) := nextM s fun m =>
  let ty := vecTy f
  issue m t 1 0x11 f (!f.i && vOk f.d && f.b == 0 && fieldC f == 0 && tyVec ty && fieldMod f / 8 == 0) [srcG f.a]
    fun m b c =>
    resultV (retire m t c) t b c (latency m 4) f.d
      (ofLanes (tyWidth ty) (List.replicate (512 / tyWidth ty) (readG (getThread m t) f.a).toNat))

/-- VEXT: gd = bits [64b + 63 : 64b] of va. -/
def execVext (t : Thread) (f : Fields) (s : State) := nextM s fun m =>
  issue m t 1 0x12 f (!f.i && vOk f.a && f.b.toNat < 8 && f.low == 0) [srcV f.a] fun m b c =>
    resultG (retire m t c) t b c (latency m 4) f.d (w64 (lane 64 (readV (getThread m t) f.a) f.b.toNat))

def execVmov (t : Thread) (f : Fields) (s : State) := nextM s fun m =>
  issue m t 1 0x13 f (legalRR f && vOk f.d && vOk f.a) [srcV f.a] fun m b c =>
    resultV (retire m t c) t b c (latency m 5) f.d (readV (getThread m t) f.a)

end Sys2Proof.Machine
end

