-- ==== Sys2Proof/Machine/Dispatch.lean ====
section
/-! DEFINITION. The dispatch of a command to its meaning: one arm per constructor of `Instr`. -/

namespace Sys2Proof.Machine

def exec (i : Instr) (s : State) : Host.Outcome State Fault Refusal :=
  match i with
  | .add t f => Sys2Proof.Machine.execAdd t f s
  | .sub t f => Sys2Proof.Machine.execSub t f s
  | .mul t f => Sys2Proof.Machine.execMul t f s
  | .mulhs t f => Sys2Proof.Machine.execMulhs t f s
  | .mulhu t f => Sys2Proof.Machine.execMulhu t f s
  | .divs t f => Sys2Proof.Machine.execDivs t f s
  | .divu t f => Sys2Proof.Machine.execDivu t f s
  | .rems t f => Sys2Proof.Machine.execRems t f s
  | .remu t f => Sys2Proof.Machine.execRemu t f s
  | .and t f => Sys2Proof.Machine.execAnd t f s
  | .or t f => Sys2Proof.Machine.execOr t f s
  | .xor t f => Sys2Proof.Machine.execXor t f s
  | .shl t f => Sys2Proof.Machine.execShl t f s
  | .shr t f => Sys2Proof.Machine.execShr t f s
  | .sar t f => Sys2Proof.Machine.execSar t f s
  | .mins t f => Sys2Proof.Machine.execMins t f s
  | .maxs t f => Sys2Proof.Machine.execMaxs t f s
  | .popc t f => Sys2Proof.Machine.execPopc t f s
  | .clz t f => Sys2Proof.Machine.execClz t f s
  | .movh t f => Sys2Proof.Machine.execMovh t f s
  | .sel t f => Sys2Proof.Machine.execSel t f s
  | .cmpEq t f => Sys2Proof.Machine.execCmpEq t f s
  | .cmpNe t f => Sys2Proof.Machine.execCmpNe t f s
  | .cmpLts t f => Sys2Proof.Machine.execCmpLts t f s
  | .cmpLes t f => Sys2Proof.Machine.execCmpLes t f s
  | .cmpLtu t f => Sys2Proof.Machine.execCmpLtu t f s
  | .cmpLeu t f => Sys2Proof.Machine.execCmpLeu t f s
  | .plog t f => Sys2Proof.Machine.execPlog t f s
  | .vadd t f => Sys2Proof.Machine.execVadd t f s
  | .vsub t f => Sys2Proof.Machine.execVsub t f s
  | .vmul t f => Sys2Proof.Machine.execVmul t f s
  | .vfma t f => Sys2Proof.Machine.execVfma t f s
  | .vmin t f => Sys2Proof.Machine.execVmin t f s
  | .vmax t f => Sys2Proof.Machine.execVmax t f s
  | .vdiv t f => Sys2Proof.Machine.execVdiv t f s
  | .vsqrt t f => Sys2Proof.Machine.execVsqrt t f s
  | .vrcp t f => Sys2Proof.Machine.execVrcp t f s
  | .vrsq t f => Sys2Proof.Machine.execVrsq t f s
  | .vexp2 t f => Sys2Proof.Machine.execVexp2 t f s
  | .vlog2 t f => Sys2Proof.Machine.execVlog2 t f s
  | .vred t f => Sys2Proof.Machine.execVred t f s
  | .vrmax t f => Sys2Proof.Machine.execVrmax t f s
  | .vcmp t f => Sys2Proof.Machine.execVcmp t f s
  | .vsel t f => Sys2Proof.Machine.execVsel t f s
  | .vbcst t f => Sys2Proof.Machine.execVbcst t f s
  | .vext t f => Sys2Proof.Machine.execVext t f s
  | .vmov t f => Sys2Proof.Machine.execVmov t f s
  | .cvt t f => Sys2Proof.Machine.execCvt t f s
  | .cvtk4 t f => Sys2Proof.Machine.execCvtk4 t f s
  | .dck4 t f => Sys2Proof.Machine.execDck4 t f s
  | .cvtmx t f => Sys2Proof.Machine.execCvtmx t f s
  | .dcmx t f => Sys2Proof.Machine.execDcmx t f s
  | .ldU1 t f => Sys2Proof.Machine.execLdU1 t f s
  | .ldU2 t f => Sys2Proof.Machine.execLdU2 t f s
  | .ldU4 t f => Sys2Proof.Machine.execLdU4 t f s
  | .ld8 t f => Sys2Proof.Machine.execLd8 t f s
  | .ldS1 t f => Sys2Proof.Machine.execLdS1 t f s
  | .ldS2 t f => Sys2Proof.Machine.execLdS2 t f s
  | .ldS4 t f => Sys2Proof.Machine.execLdS4 t f s
  | .st1 t f => Sys2Proof.Machine.execSt1 t f s
  | .st2 t f => Sys2Proof.Machine.execSt2 t f s
  | .st4 t f => Sys2Proof.Machine.execSt4 t f s
  | .st8 t f => Sys2Proof.Machine.execSt8 t f s
  | .ldv t f => Sys2Proof.Machine.execLdv t f s
  | .stv t f => Sys2Proof.Machine.execStv t f s
  | .wopen t f => Sys2Proof.Machine.execWopen t f s
  | .wclose t f => Sys2Proof.Machine.execWclose t f s
  | .put t f => Sys2Proof.Machine.execPut t f s
  | .qld t f => Sys2Proof.Machine.execQld t f s
  | .qst t f => Sys2Proof.Machine.execQst t f s
  | .qwait t f => Sys2Proof.Machine.execQwait t f s
  | .fire t f => Sys2Proof.Machine.execFire t f s
  | .firew t f => Sys2Proof.Machine.execFirew t f s
  | .firex t f => Sys2Proof.Machine.execFirex t f s
  | .fwait t f => Sys2Proof.Machine.execFwait t f s
  | .barl t f => Sys2Proof.Machine.execBarl t f s
  | .waittC t f => Sys2Proof.Machine.execWaittC t f s
  | .waittH t f => Sys2Proof.Machine.execWaittH t f s
  | .seal t f => Sys2Proof.Machine.execSeal t f s
  | .nop t f => Sys2Proof.Machine.execNop t f s
  | .br t f => Sys2Proof.Machine.execBr t f s
  | .jr t f => Sys2Proof.Machine.execJr t f s
  | .call t f => Sys2Proof.Machine.execCall t f s
  | .skip t f => Sys2Proof.Machine.execSkip t f s
  | .gets t f => Sys2Proof.Machine.execGets t f s
  | .abrt t f => Sys2Proof.Machine.execAbrt t f s
  | .sld t f => Sys2Proof.Machine.execSld t f s
  | .sst t f => Sys2Proof.Machine.execSst t f s
  | .evt t f => Sys2Proof.Machine.execEvt t f s
  | .stallResume t => Sys2Proof.Machine.execStallResume t s
  | .qwaitDeadline t => Sys2Proof.Machine.execQwaitDeadline t s
  | .firingEnd r upsets => Sys2Proof.Machine.execFiringEnd r upsets s
  | .putArrival id => Sys2Proof.Machine.execPutArrival id s
  | .queueTransferComplete c q e hostData how => Sys2Proof.Machine.execQueueTransferComplete c q e hostData how s
  | .stripSegmentStart r site bank => Sys2Proof.Machine.execStripSegmentStart r site bank s
  | .stripSegmentEnd r obs => Sys2Proof.Machine.execStripSegmentEnd r obs s
  | .rowWordStaged r invalid => Sys2Proof.Machine.execRowWordStaged r invalid s
  | .plateRowWrite r firstDiffers secondDiffers => Sys2Proof.Machine.execPlateRowWrite r firstDiffers secondDiffers s
  | .beatStart d => Sys2Proof.Machine.execBeatStart d s
  | .segmentMark d => Sys2Proof.Machine.execSegmentMark d s
  | .commitCheck d => Sys2Proof.Machine.execCommitCheck d s
  | .beatClose n => Sys2Proof.Machine.execBeatClose n s
  | .stretch d msg => Sys2Proof.Machine.execStretch d msg s
  | .beatChangePeriod d msg => Sys2Proof.Machine.execBeatChangePeriod d msg s
  | .beatChangePause d msg => Sys2Proof.Machine.execBeatChangePause d msg s
  | .beatChangeResume d msg => Sys2Proof.Machine.execBeatChangeResume d msg s
  | .fix d msg => Sys2Proof.Machine.execFix d msg s
  | .fallbackCheck => Sys2Proof.Machine.execFallbackCheck s
  | .hbmImbalanceWindowEnd => Sys2Proof.Machine.execHbmImbalanceWindowEnd s
  | .duneOff d => Sys2Proof.Machine.execDuneOff d s
  | .routeTableRewrite e => Sys2Proof.Machine.execRouteTableRewrite e s
  | .controlParityError link lane twice => Sys2Proof.Machine.execControlParityError link lane twice s
  | .timingPulseExchange isl offsetPs => Sys2Proof.Machine.execTimingPulseExchange isl offsetPs s
  | .islandLock isl => Sys2Proof.Machine.execIslandLock isl s
  | .holdoverEntry isl => Sys2Proof.Machine.execHoldoverEntry isl s
  | .holdoverLimit isl => Sys2Proof.Machine.execHoldoverLimit isl s
  | .jobLoad v data img => Sys2Proof.Machine.execJobLoad v data img s
  | .loadComplete trials => Sys2Proof.Machine.execLoadComplete trials s
  | .jobDrain v data => Sys2Proof.Machine.execJobDrain v data s
  | .drainComplete => Sys2Proof.Machine.execDrainComplete s
  | .jobUnload v data => Sys2Proof.Machine.execJobUnload v data s
  | .intakeSlotWrite fn offset data => Sys2Proof.Machine.execIntakeSlotWrite fn offset data s
  | .slotConsume fn => Sys2Proof.Machine.execSlotConsume fn s
  | .descriptorNop fn => Sys2Proof.Machine.execDescriptorNop fn s
  | .submit fn => Sys2Proof.Machine.execSubmit fn s
  | .cancel fn => Sys2Proof.Machine.execCancel fn s
  | .pause fn => Sys2Proof.Machine.execPause fn s
  | .resume fn => Sys2Proof.Machine.execResume fn s
  | .unknownOpcode fn => Sys2Proof.Machine.execUnknownOpcode fn s
  | .promptFetchComplete c tokens => Sys2Proof.Machine.execPromptFetchComplete c tokens s
  | .contextAdmit c => Sys2Proof.Machine.execContextAdmit c s
  | .entryListFix m => Sys2Proof.Machine.execEntryListFix m s
  | .pauseAfterExpiry c => Sys2Proof.Machine.execPauseAfterExpiry c s
  | .negativeWriteComplete c => Sys2Proof.Machine.execNegativeWriteComplete c s
  | .negativeRestoreComplete c => Sys2Proof.Machine.execNegativeRestoreComplete c s
  | .tailReadComplete c tail => Sys2Proof.Machine.execTailReadComplete c tail s
  | .stepTailReadComplete fn tail => Sys2Proof.Machine.execStepTailReadComplete fn tail s
  | .endRecordSent c => Sys2Proof.Machine.execEndRecordSent c s
  | .drainTimeout => Sys2Proof.Machine.execDrainTimeout s
  | .adapterInstall v data => Sys2Proof.Machine.execAdapterInstall v data s
  | .adapterRemove v data => Sys2Proof.Machine.execAdapterRemove v data s
  | .adapterHotCopyComplete id => Sys2Proof.Machine.execAdapterHotCopyComplete id s
  | .tokenEnvelopeWrite v data => Sys2Proof.Machine.execTokenEnvelopeWrite v data s
  | .intakeEnableWrite v fn data => Sys2Proof.Machine.execIntakeEnableWrite v fn data s
  | .replaceAbandon v data => Sys2Proof.Machine.execReplaceAbandon v data s
  | .replaceFixNow v data img => Sys2Proof.Machine.execReplaceFixNow v data img s
  | .replaceFixAfterDrain v data img => Sys2Proof.Machine.execReplaceFixAfterDrain v data img s
  | .replaceInPlace v data img => Sys2Proof.Machine.execReplaceInPlace v data img s
  | .replaceCheckComplete => Sys2Proof.Machine.execReplaceCheckComplete s
  | .latentBuildComplete => Sys2Proof.Machine.execLatentBuildComplete s
  | .replaceDrainComplete => Sys2Proof.Machine.execReplaceDrainComplete s
  | .replaceBufferComplete => Sys2Proof.Machine.execReplaceBufferComplete s
  | .inplaceRewriteComplete => Sys2Proof.Machine.execInplaceRewriteComplete s
  | .streamReadinessCheck => Sys2Proof.Machine.execStreamReadinessCheck s
  | .streamReady => Sys2Proof.Machine.execStreamReady s
  | .hello b frame => Sys2Proof.Machine.execHello b frame s
  | .data b frame => Sys2Proof.Machine.execData b frame s
  | .ack b frame => Sys2Proof.Machine.execAck b frame s
  | .time b frame => Sys2Proof.Machine.execTime b frame s
  | .ctrl b frame => Sys2Proof.Machine.execCtrl b frame s
  | .replayTimeout b cls seq => Sys2Proof.Machine.execReplayTimeout b cls seq s
  | .reorderGapTimeout b cls => Sys2Proof.Machine.execReorderGapTimeout b cls s
  | .laneDrop b lane => Sys2Proof.Machine.execLaneDrop b lane s
  | .laneRejoin b lane => Sys2Proof.Machine.execLaneRejoin b lane s
  | .slotSendStart k => Sys2Proof.Machine.execSlotSendStart k s
  | .slotDeadline k => Sys2Proof.Machine.execSlotDeadline k s
  | .loadCompleteReport index => Sys2Proof.Machine.execLoadCompleteReport index s
  | .jobStartT0 t0 => Sys2Proof.Machine.execJobStartT0 t0 s
  | .rootSourceTimeout => Sys2Proof.Machine.execRootSourceTimeout s
  | .rootHoldoverLimit => Sys2Proof.Machine.execRootHoldoverLimit s
  | .ptpMessage obs => Sys2Proof.Machine.execPtpMessage obs s
  | .faultInject v data => Sys2Proof.Machine.execFaultInject v data s
  | .pcieBifurcationWrite v data => Sys2Proof.Machine.execPcieBifurcationWrite v data s
  | .stagerEnumeration dev => Sys2Proof.Machine.execStagerEnumeration dev s
  | .mailboxDoorbell value att => Sys2Proof.Machine.execMailboxDoorbell value att s
  | .eventCauseWrite fn offset data => Sys2Proof.Machine.execEventCauseWrite fn offset data s
  | .apertureBaseWrite offset data => Sys2Proof.Machine.execApertureBaseWrite offset data s
  | .windowTableWrite offset data => Sys2Proof.Machine.execWindowTableWrite offset data s
  | .htcNowRead fn high bytes => Sys2Proof.Machine.execHtcNowRead fn high bytes s
  | .bar2Read offset bytes => Sys2Proof.Machine.execBar2Read offset bytes s
  | .bar2Write offset data => Sys2Proof.Machine.execBar2Write offset data s
  | .bar0Write fn offset data => Sys2Proof.Machine.execBar0Write fn offset data s
  | .functionLevelReset fn => Sys2Proof.Machine.execFunctionLevelReset fn s
  | .vfEnableClear fn => Sys2Proof.Machine.execVfEnableClear fn s
  | .busMasterDisable fn => Sys2Proof.Machine.execBusMasterDisable fn s
  | .linkDown => Sys2Proof.Machine.execLinkDown s
  | .functionReenable fn => Sys2Proof.Machine.execFunctionReenable fn s
  | .readCompletionError r => Sys2Proof.Machine.execReadCompletionError r s
  | .completionTimeout r => Sys2Proof.Machine.execCompletionTimeout r s
  | .msixHoldoffExpiry fn vec => Sys2Proof.Machine.execMsixHoldoffExpiry fn vec s
  | .msixUnmask fn vec => Sys2Proof.Machine.execMsixUnmask fn vec s
  | .koaHello src msg => Sys2Proof.Machine.execKoaHello src msg s
  | .koaAuth src msg => Sys2Proof.Machine.execKoaAuth src msg s
  | .koaRequest src msg att => Sys2Proof.Machine.execKoaRequest src msg att s
  | .koaClose src msg => Sys2Proof.Machine.execKoaClose src msg s
  | .sessionIdleTimeout session => Sys2Proof.Machine.execSessionIdleTimeout session s
  | .authTimeout session => Sys2Proof.Machine.execAuthTimeout session s
  | .odRead v index sub offset length => Sys2Proof.Machine.execOdRead v index sub offset length s
  | .odWrite v index sub data => Sys2Proof.Machine.execOdWrite v index sub data s
  | .odDescribe v index sub => Sys2Proof.Machine.execOdDescribe v index sub s
  | .odSubscribe v mask => Sys2Proof.Machine.execOdSubscribe v mask s
  | .nvStoreComplete stored => Sys2Proof.Machine.execNvStoreComplete stored s
  | .restoreDefaults v data => Sys2Proof.Machine.execRestoreDefaults v data s
  | .odRequest e msg => Sys2Proof.Machine.execOdRequest e msg s
  | .odResponse msg => Sys2Proof.Machine.execOdResponse msg s
  | .telemetry msg => Sys2Proof.Machine.execTelemetry msg s
  | .pwrEnAssert lowUs slot => Sys2Proof.Machine.execPwrEnAssert lowUs slot s
  | .pwrEnDeassert => Sys2Proof.Machine.execPwrEnDeassert s
  | .feedsLost => Sys2Proof.Machine.execFeedsLost s
  | .feedIsolate feedB => Sys2Proof.Machine.execFeedIsolate feedB s
  | .feedRejoin feedB => Sys2Proof.Machine.execFeedRejoin feedB s
  | .converterFailure k => Sys2Proof.Machine.execConverterFailure k s
  | .efuseTrip dom => Sys2Proof.Machine.execEfuseTrip dom s
  | .sensorSample obs => Sys2Proof.Machine.execSensorSample obs s
  | .lengthenStepExpiry => Sys2Proof.Machine.execLengthenStepExpiry s
  | .lengthenRelaxExpiry => Sys2Proof.Machine.execLengthenRelaxExpiry s
  | .comparatorTrip => Sys2Proof.Machine.execComparatorTrip s
  | .flowStop => Sys2Proof.Machine.execFlowStop s
  | .edgeFieldHot => Sys2Proof.Machine.execEdgeFieldHot s
  | .hbmStackTemperature k celsius => Sys2Proof.Machine.execHbmStackTemperature k celsius s
  | .baskShortfallTimeout => Sys2Proof.Machine.execBaskShortfallTimeout s
  | .hbmScrub k hits => Sys2Proof.Machine.execHbmScrub k hits s
  | .ppsSecond => Sys2Proof.Machine.execPpsSecond s
  | .fault rec => Sys2Proof.Machine.execFault rec s
  | .freeze d msg => Sys2Proof.Machine.execFreeze d msg s
  | .restartAnchor rounds => Sys2Proof.Machine.execRestartAnchor rounds s
  | .stewardTimeout e => Sys2Proof.Machine.execStewardTimeout e s
  | .contactSheetComplete failed => Sys2Proof.Machine.execContactSheetComplete failed s
  | .reinit v data => Sys2Proof.Machine.execReinit v data s
  | .faultProvoke v data => Sys2Proof.Machine.execFaultProvoke v data s
  | .keyEnroll v data => Sys2Proof.Machine.execKeyEnroll v data s
  | .keyRemove v data => Sys2Proof.Machine.execKeyRemove v data s
  | .ownerRelease v data => Sys2Proof.Machine.execOwnerRelease v data s
  | .antiRollbackCommit v data => Sys2Proof.Machine.execAntiRollbackCommit v data s
  | .rootRevoke v data => Sys2Proof.Machine.execRootRevoke v data s
  | .attestNonce v data => Sys2Proof.Machine.execAttestNonce v data s
  | .vendorAccessWrite v data => Sys2Proof.Machine.execVendorAccessWrite v data s
  | .bootRomCheck e => Sys2Proof.Machine.execBootRomCheck e s
  | .firmwareInstall v data pkg => Sys2Proof.Machine.execFirmwareInstall v data pkg s
  | .firmwareSync v data => Sys2Proof.Machine.execFirmwareSync v data s
  | .poweringComplete => Sys2Proof.Machine.execPoweringComplete s
  | .selftestComplete failures => Sys2Proof.Machine.execSelftestComplete failures s
  | .adapterContainerRead bytes => Sys2Proof.Machine.execAdapterContainerRead bytes s
  | .firmwareWriteComplete verified => Sys2Proof.Machine.execFirmwareWriteComplete verified s
  | .provocationArmed => Sys2Proof.Machine.execProvocationArmed s
  | .controlMessageDiscard node msg => Sys2Proof.Machine.execControlMessageDiscard node msg s
  | .klProtocolError b frame => Sys2Proof.Machine.execKlProtocolError b frame s
  | .timeFrameDue b => Sys2Proof.Machine.execTimeFrameDue b s
  | .laneTrainingComplete b lane => Sys2Proof.Machine.execLaneTrainingComplete b lane s
  | .cablePresent b grounded => Sys2Proof.Machine.execCablePresent b grounded s
  | .d3hotEntry fn => Sys2Proof.Machine.execD3hotEntry fn s
  | .healthTestFailure e => Sys2Proof.Machine.execHealthTestFailure e s

end Sys2Proof.Machine
end

