-- ==== Sys2Proof/Machine/Idle.lean ====
section
/-! DEFINITION. What happens in one cycle of a dune island without a command: the threads whose slot it is go on with their programs,
and what is due comes to pass (assumption 4). -/

namespace Sys2Proof.Machine

/-- The thread of a thread key. -/
def threadAt (k : Nat) : Thread := ⟨⟨rowOf (k / 128), Fin.ofNat 16 (k / 8 % 16)⟩, Fin.ofNat 8 (k % 8)⟩

/-- A command carried out if all of it falls before the instant `stop`. -/
def tryBefore (stop : Nat) (i : Instr) (s : State) : State :=
  match exec i s with
  | .next t => if t.m.now < stop then t else s
  | _ => s

/-- A thread issues the instruction at its program counter, if its slot lies before `stop`; a word of no instruction is an illegal
encoding (R123, R135). A stalled thread goes on where its wait is over. -/
def fetchThread (stop : Nat) (s : State) (t : Thread) : State :=
  match (getThread s.m t).stall with
  | some (.qwait ..) => tryBefore stop (.qwaitDeadline t) (tryBefore stop (.stallResume t) s)
  | some _ => tryBefore stop (.stallResume t) s
  | none =>
    let w := fetchWord s.m t
    match decodeWord t w with
    | some i => tryBefore stop i s
    | none =>
      let m := issue s.m t (wordOp w).1 (wordOp w).2 (splitWord w) false [] fun m _ _ => m
      if m.now < stop then { s with m } else s

/-- One dune cycle passes with no command: threads in their slots go on, lower cores first, what is due lands (R131, R168), and the
steward places the strip segments whose turn has come (R111). -/
def idle (s : State) : State :=
  let stop := s.m.now + cycleTu s.m
  let s := s.m.threads.foldl (fun s e => fetchThread stop s (threadAt e.1)) s
  { s with m := stripTicks (advance s.m stop) }

end Sys2Proof.Machine
end

