-- ==== Sys2Proof/Safety.lean ====
section
/-! DEFINITION. What counts as a safe state and a safe run: both byte memories in canonical form, and what no command may
ever undo: the clock, the retirement list, and what manufacture fixed. -/

namespace Sys2Proof.Machine

/-- Fabric SRAM and HBM are in the one canonical form: equal memories are equal data. -/
def Mach.memoryOk (m : Mach) : Prop := Memory.wf m.sram = true ∧ Memory.wf m.hbm = true

/-- `b` may follow `a`: its memories are in canonical form, its clock has not run backward, no site has left the retirement
list (R93), and grade, stepping and defect map are as manufacture left them (R4, R5, R258). -/
structure Follows (a b : Mach) : Prop where
  sram : Memory.wf b.sram = true
  hbm : Memory.wf b.hbm = true
  now : a.now ≤ b.now
  retirement : a.retirement <+: b.retirement
  gradeE : b.gradeE = a.gradeE
  steppingB1 : b.steppingB1 = a.steppingB1
  badSites : b.badSites = a.badSites
  badCores : b.badCores = a.badCores
  badDunes : b.badDunes = a.badDunes

/-- The plates, the threads and the fabric are as they were, at the same instant: both memories, registers, rows, instruction
store, queues, packets, and loads and stores on their way. -/
structure EngineKept (a n : Mach) : Prop where
  sram : n.sram = a.sram
  hbm : n.hbm = a.hbm
  threads : n.threads = a.threads
  rows : n.rows = a.rows
  istore : n.istore = a.istore
  queues : n.queues = a.queues
  packets : n.packets = a.packets
  landings : n.landings = a.landings
  loads : n.loads = a.loads
  now : n.now = a.now

/-- The management side is as it was: module state, job, contexts, functions, adapters, links, sessions, keys, power, golden
banks, weight replacement and restart. -/
structure ControlKept (a n : Mach) : Prop where
  mode : n.mode = a.mode
  job : n.job = a.job
  repl : n.repl = a.repl
  restart : n.restart = a.restart
  ctxs : n.ctxs = a.ctxs
  fns : n.fns = a.fns
  adapters : n.adapters = a.adapters
  bundles : n.bundles = a.bundles
  sessions : n.sessions = a.sessions
  sec : n.sec = a.sec
  power : n.power = a.power
  golden : n.golden = a.golden
  islands : n.islands = a.islands

/-- `n` steps, one after another. -/
def runSteps : Nat → State → Host.Outcome State Fault Refusal
  | 0, s => .next s
  | n + 1, s => match step s with
    | .next t => runSteps n t
    | o => o

/-- The command `i` in state `s` answers a next state: the queue as it is, and a machine of which `P` holds. -/
def Yields (s : State) (i : Instr) (P : Mach → Prop) : Prop := ∃ n, exec i s = .next { s with m := n } ∧ P n

/-! ## An instruction of a thread in its issue slot (R123, R129, R130, R134) -/

/-- Thread `t` issues, in cycle `c` of beat `b`, an instruction that reads the registers `srcs`: its island runs the beat,
it is free to issue, `c` is the first of its own slots at which all the registers can be read and lies before the commit
cycle, and the guard holds. -/
structure IssuesAt (m : Mach) (t : Thread) (f : Fields) (srcs : List Nat) (b : Beat) (c : Nat) : Prop where
  beat : issuingBeat m t = some b
  cycle : c = issueSlot m b t (srcP f.gp.toNat :: srcs)
  inTime : c < commitCycle m (getDune m t.core.row.dune) b
  guard : guardHolds (getThread m t) f = true

/-- The machine at the start of cycle `c` of beat `b`: what was on its way until then has landed. -/
def atCycle (m : Mach) (b : Beat) (c : Nat) : Mach := advance m (cycleStart m b c)

/-- Of the machine `a`, only thread `t` has changed, and the destinations of its loads on their way: it goes on with the
next word in its next slot, and its code, privilege, stall and SEAL are as they were. -/
structure OneThread (a n : Mach) (t : Thread) (c : Nat) : Prop where
  pc : (getThread n t).pc = (getThread a t).pc + 1
  nextIssue : (getThread n t).nextIssue = c + 8
  kept : getThread n t = { getThread a t with
    g := (getThread n t).g, v := (getThread n t).v, p := (getThread n t).p, ready := (getThread n t).ready,
    pc := (getThread n t).pc, nextIssue := (getThread n t).nextIssue }
  others : ∀ u, u ≠ t → getThread n u = getThread a u
  frame : n = { a with threads := n.threads, loads := n.loads }

/-- `t` has written `v` to general register `k`, readable `lat` cycles after cycle `c`, and nothing else has changed. -/
structure WritesG (a n : Mach) (t : Thread) (b : Beat) (c lat : Nat) (k : BitVec 5) (v : W64) : Prop
    extends OneThread a n t c where
  g : ∀ j, readG (getThread n t) j = if j = k ∧ j ≠ 0 then v else readG (getThread a t) j
  vregs : (getThread n t).v = (getThread a t).v
  preds : (getThread n t).p = (getThread a t).p
  ready : k ≠ 0 → readyAt (getThread n t) (srcG k) = cycleStart a b (c + lat)
  loads : n.loads = (dropLoad a t (srcG k)).loads

/-- `t` has written `v` to vector register `k`, readable `lat` cycles after cycle `c`, and nothing else has changed. -/
structure WritesV (a n : Mach) (t : Thread) (b : Beat) (c lat : Nat) (k : BitVec 5) (v : W512) : Prop
    extends OneThread a n t c where
  v : ∀ j, readV (getThread n t) j = if j.toNat % 16 = k.toNat % 16 then v else readV (getThread a t) j
  gregs : (getThread n t).g = (getThread a t).g
  preds : (getThread n t).p = (getThread a t).p
  ready : readyAt (getThread n t) (srcV k) = cycleStart a b (c + lat)
  loads : n.loads = (dropLoad a t (srcV k)).loads

/-- `t` has written `v` to predicate `k`, readable one cycle after cycle `c`, and nothing else has changed. -/
structure WritesP (a n : Mach) (t : Thread) (b : Beat) (c : Nat) (k : Nat) (v : Bool) : Prop
    extends OneThread a n t c where
  p : ∀ j, readP (getThread n t) j = if j % 8 = k % 8 ∧ k % 8 ≠ 0 then v else readP (getThread a t) j
  gregs : (getThread n t).g = (getThread a t).g
  vregs : (getThread n t).v = (getThread a t).v
  loads : n.loads = a.loads

/-- The thread has gone to its next word in its next slot, and nothing else has changed. -/
structure OnlyRetires (a n : Mach) (t : Thread) (c : Nat) : Prop extends OneThread a n t c where
  gregs : (getThread n t).g = (getThread a t).g
  vregs : (getThread n t).v = (getThread a t).v
  preds : (getThread n t).p = (getThread a t).p
  loads : n.loads = a.loads

/-- No outstanding QLD delivers to the `n` bytes at `addr` (R185). -/
def NoQldRace (m : Mach) (addr n : Nat) : Prop :=
  ∀ q ∈ m.queues, ∀ e ∈ q.2.entries, ∀ x, e.2 = some x → x.load = true → overlaps x.localAddr.toNat x.length addr n = false

/-- Of fabric SRAM, the bytes from `addr` on read `bytes`, and every other byte reads as before. -/
structure Stored (a n : Mach) (addr : Nat) (bytes : List Byte) : Prop where
  written : readBytes n.sram addr bytes.length = bytes
  others : ∀ x, x < addr ∨ addr + bytes.length ≤ x → readByte n.sram x = readByte a.sram x

/-- The instruction has raised a job fault instead of its effect: the row issues nothing more in this beat, one fault with the
instruction word has gone to the module steward, the firmware scratch of the dune holds its detail, an open job restarts above the
beats now started, and no register, queue or other byte of memory has changed (R86, R159, R225, R477, R479). -/
structure Faulted (a n : Mach) (t : Thread) (code word : Nat) : Prop where
  stopped : (getRow n t.core.row).stopped = true
  rows : ∀ r, r ≠ t.core.row → getRow n r = getRow a r
  raised : ∃ x, n.raised = a.raised ++ [x] ∧ x.code = BitVec.ofNat 16 code ∧ x.severity = 1 ∧
    x.erg = t.core.row.dune.erg.val ∧ x.dune = t.core.row.dune.num.val ∧ x.row = t.core.row.num.val ∧
    x.thread = BitVec.ofNat 8 (threadByte t) ∧ x.detail = BitVec.ofNat 64 word ∧ x.htc = htcNow a
  detail : Stored a n (detailPlace a t.core.row.dune.erg.val t.core.row.dune.num.val) (leBytes 8 (word % 2 ^ 64))
  job : n.job = (openFault a).job
  frame : n = { a with rows := n.rows, raised := n.raised, od := n.od, out := n.out, sram := n.sram, fresh := n.fresh,
                       ctrl := n.ctrl, job := n.job }

/-- Of the machine `a`, only thread `t` has changed: its state is `ts`. -/
structure ThreadBecomes (a n : Mach) (t : Thread) (ts : ThreadState) : Prop where
  thread : getThread n t = ts
  others : ∀ u, u ≠ t → getThread n u = getThread a u
  frame : n = { a with threads := n.threads }

/-- The instruction has issued in cycle `c`, and its thread waits for the condition `st` to clear (R130). -/
def Waits (a n : Mach) (t : Thread) (c : Nat) (st : Stall) : Prop :=
  ThreadBecomes a n t { getThread a t with pc := (getThread a t).pc + 1, nextIssue := c + 8, stall := some st }

/-- A control message of the type, not to be discarded, that names the node and that no earlier message on its way holds up
(R209, R210, R212, R213). -/
def Addressed (m : Mach) (node type : Nat) (x : MeshMsg) : Prop :=
  msgBad x = false ∧ msgType x = type ∧ (msgDest x = 0xFF ∨ msgDest x = node) ∧ overtakes m node x = false

/-- The machine once a control message has reached the node. -/
def hears (m : Mach) (node : Nat) (x : MeshMsg) : Mach := { m with ctrl := arrivesAt node x m.ctrl }

/-- The thread that a thread instruction runs on, with its fields. -/
def threadOf : Instr → Option (Thread × Fields)
  | .add t f => some (t, f)
  | .sub t f => some (t, f)
  | .mul t f => some (t, f)
  | .mulhs t f => some (t, f)
  | .mulhu t f => some (t, f)
  | .divs t f => some (t, f)
  | .divu t f => some (t, f)
  | .rems t f => some (t, f)
  | .remu t f => some (t, f)
  | .and t f => some (t, f)
  | .or t f => some (t, f)
  | .xor t f => some (t, f)
  | .shl t f => some (t, f)
  | .shr t f => some (t, f)
  | .sar t f => some (t, f)
  | .mins t f => some (t, f)
  | .maxs t f => some (t, f)
  | .popc t f => some (t, f)
  | .clz t f => some (t, f)
  | .movh t f => some (t, f)
  | .sel t f => some (t, f)
  | .cmpEq t f => some (t, f)
  | .cmpNe t f => some (t, f)
  | .cmpLts t f => some (t, f)
  | .cmpLes t f => some (t, f)
  | .cmpLtu t f => some (t, f)
  | .cmpLeu t f => some (t, f)
  | .plog t f => some (t, f)
  | .vadd t f => some (t, f)
  | .vsub t f => some (t, f)
  | .vmul t f => some (t, f)
  | .vfma t f => some (t, f)
  | .vmin t f => some (t, f)
  | .vmax t f => some (t, f)
  | .vdiv t f => some (t, f)
  | .vsqrt t f => some (t, f)
  | .vrcp t f => some (t, f)
  | .vrsq t f => some (t, f)
  | .vexp2 t f => some (t, f)
  | .vlog2 t f => some (t, f)
  | .vred t f => some (t, f)
  | .vrmax t f => some (t, f)
  | .vcmp t f => some (t, f)
  | .vsel t f => some (t, f)
  | .vbcst t f => some (t, f)
  | .vext t f => some (t, f)
  | .vmov t f => some (t, f)
  | .cvt t f => some (t, f)
  | .cvtk4 t f => some (t, f)
  | .dck4 t f => some (t, f)
  | .cvtmx t f => some (t, f)
  | .dcmx t f => some (t, f)
  | .ldU1 t f => some (t, f)
  | .ldU2 t f => some (t, f)
  | .ldU4 t f => some (t, f)
  | .ld8 t f => some (t, f)
  | .ldS1 t f => some (t, f)
  | .ldS2 t f => some (t, f)
  | .ldS4 t f => some (t, f)
  | .st1 t f => some (t, f)
  | .st2 t f => some (t, f)
  | .st4 t f => some (t, f)
  | .st8 t f => some (t, f)
  | .ldv t f => some (t, f)
  | .stv t f => some (t, f)
  | .wopen t f => some (t, f)
  | .wclose t f => some (t, f)
  | .put t f => some (t, f)
  | .qld t f => some (t, f)
  | .qst t f => some (t, f)
  | .qwait t f => some (t, f)
  | .fire t f => some (t, f)
  | .firew t f => some (t, f)
  | .firex t f => some (t, f)
  | .fwait t f => some (t, f)
  | .barl t f => some (t, f)
  | .waittC t f => some (t, f)
  | .waittH t f => some (t, f)
  | .seal t f => some (t, f)
  | .nop t f => some (t, f)
  | .br t f => some (t, f)
  | .jr t f => some (t, f)
  | .call t f => some (t, f)
  | .skip t f => some (t, f)
  | .gets t f => some (t, f)
  | .abrt t f => some (t, f)
  | .sld t f => some (t, f)
  | .sst t f => some (t, f)
  | .evt t f => some (t, f)
  | .stallResume _ => none
  | .qwaitDeadline _ => none
  | .firingEnd _ _ => none
  | .putArrival _ => none
  | .queueTransferComplete _ _ _ _ _ => none
  | .stripSegmentStart _ _ _ => none
  | .stripSegmentEnd _ _ => none
  | .rowWordStaged _ _ => none
  | .plateRowWrite _ _ _ => none
  | .beatStart _ => none
  | .segmentMark _ => none
  | .commitCheck _ => none
  | .beatClose _ => none
  | .stretch _ _ => none
  | .beatChangePeriod _ _ => none
  | .beatChangePause _ _ => none
  | .beatChangeResume _ _ => none
  | .fix _ _ => none
  | .fallbackCheck => none
  | .hbmImbalanceWindowEnd => none
  | .duneOff _ => none
  | .routeTableRewrite _ => none
  | .controlParityError _ _ _ => none
  | .timingPulseExchange _ _ => none
  | .islandLock _ => none
  | .holdoverEntry _ => none
  | .holdoverLimit _ => none
  | .jobLoad _ _ _ => none
  | .loadComplete _ => none
  | .jobDrain _ _ => none
  | .drainComplete => none
  | .jobUnload _ _ => none
  | .intakeSlotWrite _ _ _ => none
  | .slotConsume _ => none
  | .descriptorNop _ => none
  | .submit _ => none
  | .cancel _ => none
  | .pause _ => none
  | .resume _ => none
  | .unknownOpcode _ => none
  | .promptFetchComplete _ _ => none
  | .contextAdmit _ => none
  | .entryListFix _ => none
  | .pauseAfterExpiry _ => none
  | .negativeWriteComplete _ => none
  | .negativeRestoreComplete _ => none
  | .tailReadComplete _ _ => none
  | .stepTailReadComplete _ _ => none
  | .endRecordSent _ => none
  | .drainTimeout => none
  | .adapterInstall _ _ => none
  | .adapterRemove _ _ => none
  | .adapterHotCopyComplete _ => none
  | .tokenEnvelopeWrite _ _ => none
  | .intakeEnableWrite _ _ _ => none
  | .replaceAbandon _ _ => none
  | .replaceFixNow _ _ _ => none
  | .replaceFixAfterDrain _ _ _ => none
  | .replaceInPlace _ _ _ => none
  | .replaceCheckComplete => none
  | .latentBuildComplete => none
  | .replaceDrainComplete => none
  | .replaceBufferComplete => none
  | .inplaceRewriteComplete => none
  | .streamReadinessCheck => none
  | .streamReady => none
  | .hello _ _ => none
  | .data _ _ => none
  | .ack _ _ => none
  | .time _ _ => none
  | .ctrl _ _ => none
  | .replayTimeout _ _ _ => none
  | .reorderGapTimeout _ _ => none
  | .laneDrop _ _ => none
  | .laneRejoin _ _ => none
  | .slotSendStart _ => none
  | .slotDeadline _ => none
  | .loadCompleteReport _ => none
  | .jobStartT0 _ => none
  | .rootSourceTimeout => none
  | .rootHoldoverLimit => none
  | .ptpMessage _ => none
  | .faultInject _ _ => none
  | .pcieBifurcationWrite _ _ => none
  | .stagerEnumeration _ => none
  | .mailboxDoorbell _ _ => none
  | .eventCauseWrite _ _ _ => none
  | .apertureBaseWrite _ _ => none
  | .windowTableWrite _ _ => none
  | .htcNowRead _ _ _ => none
  | .bar2Read _ _ => none
  | .bar2Write _ _ => none
  | .bar0Write _ _ _ => none
  | .functionLevelReset _ => none
  | .vfEnableClear _ => none
  | .busMasterDisable _ => none
  | .linkDown => none
  | .functionReenable _ => none
  | .readCompletionError _ => none
  | .completionTimeout _ => none
  | .msixHoldoffExpiry _ _ => none
  | .msixUnmask _ _ => none
  | .koaHello _ _ => none
  | .koaAuth _ _ => none
  | .koaRequest _ _ _ => none
  | .koaClose _ _ => none
  | .sessionIdleTimeout _ => none
  | .authTimeout _ => none
  | .odRead _ _ _ _ _ => none
  | .odWrite _ _ _ _ => none
  | .odDescribe _ _ _ => none
  | .odSubscribe _ _ => none
  | .nvStoreComplete _ => none
  | .restoreDefaults _ _ => none
  | .odRequest _ _ => none
  | .odResponse _ => none
  | .telemetry _ => none
  | .pwrEnAssert _ _ => none
  | .pwrEnDeassert => none
  | .feedsLost => none
  | .feedIsolate _ => none
  | .feedRejoin _ => none
  | .converterFailure _ => none
  | .efuseTrip _ => none
  | .sensorSample _ => none
  | .lengthenStepExpiry => none
  | .lengthenRelaxExpiry => none
  | .comparatorTrip => none
  | .flowStop => none
  | .edgeFieldHot => none
  | .hbmStackTemperature _ _ => none
  | .baskShortfallTimeout => none
  | .hbmScrub _ _ => none
  | .ppsSecond => none
  | .fault _ => none
  | .freeze _ _ => none
  | .restartAnchor _ => none
  | .stewardTimeout _ => none
  | .contactSheetComplete _ => none
  | .reinit _ _ => none
  | .faultProvoke _ _ => none
  | .keyEnroll _ _ => none
  | .keyRemove _ _ => none
  | .ownerRelease _ _ => none
  | .antiRollbackCommit _ _ => none
  | .rootRevoke _ _ => none
  | .attestNonce _ _ => none
  | .vendorAccessWrite _ _ => none
  | .bootRomCheck _ => none
  | .firmwareInstall _ _ _ => none
  | .firmwareSync _ _ => none
  | .poweringComplete => none
  | .selftestComplete _ => none
  | .adapterContainerRead _ => none
  | .firmwareWriteComplete _ => none
  | .provocationArmed => none
  | .controlMessageDiscard _ _ => none
  | .klProtocolError _ _ => none
  | .timeFrameDue _ => none
  | .laneTrainingComplete _ _ => none
  | .cablePresent _ _ => none
  | .d3hotEntry _ => none
  | .healthTestFailure _ => none

end Sys2Proof.Machine
end

