-- ==== Sys2Proof/WellFormed.lean ====
section
/-! DEFINITION. Which commands are well formed: the bounds that the spec puts on their operands and that the operands' types
do not carry already. `exec` answers on every command, well formed or not; a sender sends well-formed ones. -/

namespace Sys2Proof

/-- A write or read of `n` bytes at `offset` that is not empty and ends within a window of `size` bytes (R390, R395, R400). -/
def within (offset n size : Nat) : Bool := decide (0 < n ∧ offset + n ≤ size)

/-- The bytes of an object value fit in one message (R394, R422). -/
def valueLength (v : List Byte) : Bool := decide (v.length ≤ 65535)

/-- A file has the length that its command names in bytes 16–23 (R347, R432, R536). -/
def fileNamed (v file : List Byte) : Bool :=
  file.length == ((v.drop 16).take 8).foldr (fun b n => b.toNat + 256 * n) 0

/-- A KOA datagram has at most 1,232 bytes and a mailbox message at most 65,536 (R414). -/
def messageLength : KoaSrc → List Byte → Bool
  | .port _, msg => decide (msg.length ≤ 1232)
  | .mailbox, msg => decide (msg.length ≤ 65536)

/-- The place and severity of a fault record have the codes that R479 gives. -/
def faultPlace (r : FaultRec) : Bool :=
  decide (1 ≤ r.severity ∧ r.severity ≤ 3 ∧ r.erg < 4 ∧ (r.dune < 48 ∨ r.dune = 63 ∨ r.dune = 255) ∧
    (r.row < 96 ∨ r.row = 127))

/-- Every sensor pair of a sample is one of the 2,364 and reports once (R468). -/
def spotNumbers (l : List SpotReading) : Bool :=
  l.all (fun r => decide (r.spot < 2364)) && decide (l.map (·.spot)).Nodup

/-- A cell reads as one code during a firing. -/
def distinctCells (l : List CellUpset) : Bool :=
  decide (l.map fun u => (u.site, u.inputRow, u.column)).Nodup

/-- The command is well formed. -/
def Instr.wellFormed : Instr → Bool
  | .add _ _ => true
  | .sub _ _ => true
  | .mul _ _ => true
  | .mulhs _ _ => true
  | .mulhu _ _ => true
  | .divs _ _ => true
  | .divu _ _ => true
  | .rems _ _ => true
  | .remu _ _ => true
  | .and _ _ => true
  | .or _ _ => true
  | .xor _ _ => true
  | .shl _ _ => true
  | .shr _ _ => true
  | .sar _ _ => true
  | .mins _ _ => true
  | .maxs _ _ => true
  | .popc _ _ => true
  | .clz _ _ => true
  | .movh _ _ => true
  | .sel _ _ => true
  | .cmpEq _ _ => true
  | .cmpNe _ _ => true
  | .cmpLts _ _ => true
  | .cmpLes _ _ => true
  | .cmpLtu _ _ => true
  | .cmpLeu _ _ => true
  | .plog _ _ => true
  | .vadd _ _ => true
  | .vsub _ _ => true
  | .vmul _ _ => true
  | .vfma _ _ => true
  | .vmin _ _ => true
  | .vmax _ _ => true
  | .vdiv _ _ => true
  | .vsqrt _ _ => true
  | .vrcp _ _ => true
  | .vrsq _ _ => true
  | .vexp2 _ _ => true
  | .vlog2 _ _ => true
  | .vred _ _ => true
  | .vrmax _ _ => true
  | .vcmp _ _ => true
  | .vsel _ _ => true
  | .vbcst _ _ => true
  | .vext _ _ => true
  | .vmov _ _ => true
  | .cvt _ _ => true
  | .cvtk4 _ _ => true
  | .dck4 _ _ => true
  | .cvtmx _ _ => true
  | .dcmx _ _ => true
  | .ldU1 _ _ => true
  | .ldU2 _ _ => true
  | .ldU4 _ _ => true
  | .ld8 _ _ => true
  | .ldS1 _ _ => true
  | .ldS2 _ _ => true
  | .ldS4 _ _ => true
  | .st1 _ _ => true
  | .st2 _ _ => true
  | .st4 _ _ => true
  | .st8 _ _ => true
  | .ldv _ _ => true
  | .stv _ _ => true
  | .wopen _ _ => true
  | .wclose _ _ => true
  | .put _ _ => true
  | .qld _ _ => true
  | .qst _ _ => true
  | .qwait _ _ => true
  | .fire _ _ => true
  | .firew _ _ => true
  | .firex _ _ => true
  | .fwait _ _ => true
  | .barl _ _ => true
  | .waittC _ _ => true
  | .waittH _ _ => true
  | .seal _ _ => true
  | .nop _ _ => true
  | .br _ _ => true
  | .jr _ _ => true
  | .call _ _ => true
  | .skip _ _ => true
  | .gets _ _ => true
  | .abrt _ _ => true
  | .sld _ _ => true
  | .sst _ _ => true
  | .evt _ _ => true
  | .stallResume _ => true
  | .qwaitDeadline _ => true
  | .firingEnd _ upsets => distinctCells upsets
  | .putArrival _ => true
  | .queueTransferComplete _ _ _ _ _ => true
  | .stripSegmentStart _ _ _ => true
  | .stripSegmentEnd _ _ => true
  | .rowWordStaged _ _ => true
  | .plateRowWrite _ _ _ => true
  | .beatStart _ => true
  | .segmentMark _ => true
  | .commitCheck _ => true
  | .beatClose _ => true
  | .stretch _ _ => true
  | .beatChangePeriod _ _ => true
  | .beatChangePause _ _ => true
  | .beatChangeResume _ _ => true
  | .fix _ _ => true
  | .fallbackCheck => true
  | .hbmImbalanceWindowEnd => true
  | .duneOff _ => true
  | .routeTableRewrite _ => true
  | .controlParityError link _ _ => decide (link < 1024)
  | .timingPulseExchange _ _ => true
  | .islandLock _ => true
  | .holdoverEntry _ => true
  | .holdoverLimit _ => true
  | .jobLoad _ v img => valueLength v && fileNamed v img.file
  | .loadComplete _ => true
  | .jobDrain _ v => valueLength v
  | .drainComplete => true
  | .jobUnload _ v => valueLength v
  | .intakeSlotWrite _ offset v => within offset.val v.length 4096
  | .slotConsume _ => true
  | .descriptorNop _ => true
  | .submit _ => true
  | .cancel _ => true
  | .pause _ => true
  | .resume _ => true
  | .unknownOpcode _ => true
  | .promptFetchComplete _ _ => true
  | .contextAdmit _ => true
  | .entryListFix _ => true
  | .pauseAfterExpiry _ => true
  | .negativeWriteComplete _ => true
  | .negativeRestoreComplete _ => true
  | .tailReadComplete _ _ => true
  | .stepTailReadComplete _ _ => true
  | .endRecordSent _ => true
  | .drainTimeout => true
  | .adapterInstall _ v => valueLength v
  | .adapterRemove _ v => valueLength v
  | .adapterHotCopyComplete _ => true
  | .tokenEnvelopeWrite _ v => valueLength v
  | .intakeEnableWrite _ _ v => valueLength v
  | .replaceAbandon _ v => valueLength v
  | .replaceFixNow _ v img => valueLength v && fileNamed v img.file
  | .replaceFixAfterDrain _ v img => valueLength v && fileNamed v img.file
  | .replaceInPlace _ v img => valueLength v && fileNamed v img.file
  | .replaceCheckComplete => true
  | .latentBuildComplete => true
  | .replaceDrainComplete => true
  | .replaceBufferComplete => true
  | .inplaceRewriteComplete => true
  | .streamReadinessCheck => true
  | .streamReady => true
  | .hello _ frame => frame.length == 32
  | .data _ frame => frame.length == 288
  | .ack _ frame => frame.length == 32
  | .time _ frame => frame.length == 32
  | .ctrl _ frame => frame.length == 32
  | .replayTimeout _ _ seq => decide (seq < 65536)
  | .reorderGapTimeout _ _ => true
  | .laneDrop _ _ => true
  | .laneRejoin _ _ => true
  | .slotSendStart _ => true
  | .slotDeadline _ => true
  | .loadCompleteReport index => decide (index < 32)
  | .jobStartT0 _ => true
  | .rootSourceTimeout => true
  | .rootHoldoverLimit => true
  | .ptpMessage obs => decide (obs.domain < 256)
  | .faultInject _ v => valueLength v
  | .pcieBifurcationWrite _ v => valueLength v
  | .stagerEnumeration _ => true
  | .mailboxDoorbell _ _ => true
  | .eventCauseWrite _ offset v => within offset.val v.length 8
  | .apertureBaseWrite offset v => within offset.val v.length 8
  | .windowTableWrite offset v => within offset.val v.length 65536
  | .htcNowRead _ high bytes => bytes == 4 || (!high && bytes == 8)
  | .bar2Read offset bytes => within offset.toNat bytes (2 ^ 32)
  | .bar2Write offset v => within offset.toNat v.length (2 ^ 32)
  | .bar0Write _ offset v => within offset.toNat v.length (2 ^ 20)
  | .functionLevelReset _ => true
  | .vfEnableClear _ => true
  | .busMasterDisable _ => true
  | .linkDown => true
  | .functionReenable _ => true
  | .readCompletionError _ => true
  | .completionTimeout _ => true
  | .msixHoldoffExpiry _ _ => true
  | .msixUnmask _ _ => true
  | .koaHello src msg => messageLength src msg
  | .koaAuth src msg => messageLength src msg
  | .koaRequest src msg _ => messageLength src msg
  | .koaClose src msg => messageLength src msg
  | .sessionIdleTimeout _ => true
  | .authTimeout _ => true
  | .odRead _ _ _ offset length => decide (offset < 2 ^ 32 ∧ length < 2 ^ 32)
  | .odWrite _ _ _ v => valueLength v
  | .odDescribe _ _ _ => true
  | .odSubscribe _ _ => true
  | .nvStoreComplete _ => true
  | .restoreDefaults _ v => valueLength v
  | .odRequest _ _ => true
  | .odResponse _ => true
  | .telemetry _ => true
  | .pwrEnAssert _ _ => true
  | .pwrEnDeassert => true
  | .feedsLost => true
  | .feedIsolate _ => true
  | .feedRejoin _ => true
  | .converterFailure _ => true
  | .efuseTrip _ => true
  | .sensorSample obs => spotNumbers obs.spots
  | .lengthenStepExpiry => true
  | .lengthenRelaxExpiry => true
  | .comparatorTrip => true
  | .flowStop => true
  | .edgeFieldHot => true
  | .hbmStackTemperature _ _ => true
  | .baskShortfallTimeout => true
  | .hbmScrub _ _ => true
  | .ppsSecond => true
  | .fault rec => faultPlace rec
  | .freeze _ _ => true
  | .restartAnchor _ => true
  | .stewardTimeout _ => true
  | .contactSheetComplete _ => true
  | .reinit _ v => valueLength v
  | .faultProvoke _ v => valueLength v
  | .keyEnroll _ v => valueLength v
  | .keyRemove _ v => valueLength v
  | .ownerRelease _ v => valueLength v
  | .antiRollbackCommit _ v => valueLength v
  | .rootRevoke _ v => valueLength v
  | .attestNonce _ v => valueLength v
  | .vendorAccessWrite _ v => valueLength v
  | .bootRomCheck _ => true
  | .firmwareInstall _ v pkg => valueLength v && fileNamed v pkg.file
  | .firmwareSync _ v => valueLength v
  | .poweringComplete => true
  | .selftestComplete _ => true
  | .adapterContainerRead _ => true
  | .firmwareWriteComplete _ => true
  | .provocationArmed => true
  | .controlMessageDiscard _ _ => true
  | .klProtocolError _ frame => frame.length == 32 || frame.length == 288
  | .timeFrameDue _ => true
  | .laneTrainingComplete _ _ => true
  | .cablePresent _ _ => true
  | .d3hotEntry _ => true
  | .healthTestFailure _ => true

end Sys2Proof
end

