-- ==== Sys2Proof/Certificates/Slice0/Obligations.lean ====
section
/-! DEFINITION. The statements for the provers. Each says in its docstring what it states and which rules of the
specification it follows; the predicates they share are in Safety.lean. -/

open Sys2Proof Sys2Proof.Machine

/-! ## The queue and the step -/

/-- A step of a state with command `c` in front is `exec` of `c` on the state with the rest of the queue. On an empty queue one
cycle of a dune island passes (the model's choice, assumption 4): with no thread that has code, what is due comes to pass, and a
thread that may issue before the cycle is over runs the instruction that its program counter names. -/
def Obligations.StepRunsTheFrontCommand : Prop :=
  (∀ (s : State) (c : Instr) (rest : List Instr), step { s with pending := c :: rest } = exec c { s with pending := rest }) ∧
  (∀ s : State, s.pending = [] → s.m.threads = [] →
    step s = .next { s with m := stripTicks (advance s.m (s.m.now + cycleTu s.m)) }) ∧
  (∀ (s u : State) (t : Thread) (i : Instr), s.pending = [] → s.m.threads.map (·.1) = [threadKey t] →
    (getThread s.m t).stall = none → decodeWord t (fetchWord s.m t) = some i → exec i s = .next u →
    u.m.now < s.m.now + cycleTu s.m →
    step s = .next { u with m := stripTicks (advance u.m (s.m.now + cycleTu s.m)) })

/-- Commands run in the order of the queue: as many steps as there are commands in front run exactly these, each on the
machine the one before left, and leave the others waiting. -/
def Obligations.CommandsRunInOrder : Prop :=
  ∀ (front back : List Instr) (s : State), ∃ t, runSteps front.length { s with pending := front ++ back } = .next t ∧
    t.pending = back ∧
    .next { t with pending := [] } = front.foldl (fun (r : Host.Outcome State Fault Refusal) c => match r with
      | .next u => exec c u
      | o => o) (.next { s with pending := [] })

/-! ## Reset and the invariant -/

/-- After reset the module is OFF, without a job, with no session open, HTC 0 and no command waiting; both memories are in
canonical form. -/
def Obligations.ResetState : Prop :=
  State.reset.pending = [] ∧ State.reset.m.mode = .off ∧ State.reset.m.job = none ∧ State.reset.m.sessions = [] ∧
  State.reset.m.memoryOk ∧ State.reset.m.retirement = [] ∧ powered State.reset.m = false

/-- Every step keeps the machine's facts: from a state whose memories are in canonical form, a step that answers a next state
leaves them in canonical form, never turns the clock back, never takes a site off the retirement list (R93), and never
changes grade, stepping or defect map (R4, R5, R258). -/
def Obligations.StepKeepsTheMachineFacts : Prop :=
  ∀ s t : State, s.m.memoryOk → step s = .next t → Follows s.m t.m

/-! ## Thread instructions: issue (R123, R129, R130, R134, R135) -/

/-- No thread instruction has an effect while its thread cannot issue: its island runs no beat or is frozen, its dune is
without power, its row has stopped, or the thread has no code, is stalled or has sealed (R86, R124, R130, R155, R478). -/
def Obligations.SilentThreadsDoNothing : Prop :=
  ∀ (i : Instr) (t : Thread) (f : Fields) (s : State), threadOf i = some (t, f) → issuingBeat s.m t = none →
    exec i s = .next s

/-- An instruction whose guard does not hold changes nothing but the thread's place in its program (R134); said of every
instruction of class ALU, whose forms are `legalAlu3`, the one-operand form, MOVH, SEL, the comparisons and PLOG. -/
def Obligations.FailedGuardOnlyRetires : Prop :=
  ∀ (s : State) (t : Thread) (f : Fields) (b : Beat) (c : Nat),
    issuingBeat s.m t = some b → guardHolds (getThread s.m t) f = false → c = issueSlot s.m b t [srcP f.gp.toNat] →
    c < commitCycle s.m (getDune s.m t.core.row.dune) b →
    let P := fun n => OnlyRetires (atCycle s.m b c) n t c
    (legalAlu3 f = true → ∀ mk ∈ [Instr.add, .sub, .mul, .mulhs, .mulhu, .divs, .divu, .rems, .remu, .and, .or, .xor, .shl,
      .shr, .sar, .mins, .maxs], Yields s (mk t f) P) ∧
    (legalRR f = true → ∀ mk ∈ [Instr.popc, .clz], Yields s (mk t f) P) ∧
    (f.i = true → f.a = 0 → f.b = 0 → Yields s (.movh t f) P) ∧
    (f.i = false → fieldC f < 8 → fieldMod f = 0 → Yields s (.sel t f) P) ∧
    (legalAlu3 f = true → pOk f.d = true → ∀ mk ∈ [Instr.cmpEq, .cmpNe, .cmpLts, .cmpLes, .cmpLtu, .cmpLeu],
      Yields s (mk t f) P) ∧
    (immWithin f 3 = true → pOk f.d = true → pOk f.a = true → pOk f.b = true → Yields s (.plog t f) P)

/-! ## ALU (R136, R137) -/

/-- Every instruction of class ALU writes its result and changes nothing else but the thread's place (R136, R137): sums and
products wrap modulo 2^64; a quotient truncates toward zero, the remainder carries the dividend's sign, divisor 0 gives 0 and
the dividend, and −2^63 by −1 gives −2^63 and 0; shifts take bits [5:0]; MINS and MAXS compare signed; POPC counts ones, CLZ
leading zeros (64 for 0); MOVH puts imm above gd[31:0]; SEL chooses by the predicate that c names; a comparison writes the
truth of its relation to pd, and PLOG the operation that imm[1:0] names on two predicates. What is written to g0 or p0 is
discarded (`WritesG`, `WritesP`), and the result can be read after the latency of R132. -/
def Obligations.AluResults : Prop :=
  (∀ (s : State) (t : Thread) (f : Fields) (b : Beat) (c : Nat), legalAlu3 f = true → IssuesAt s.m t f (srcsAlu f) b c →
     let a := atCycle s.m b c
     let x := readG (getThread a t) f.a
     let y := if f.i then f.low.signExtend 64 else readG (getThread a t) f.b
     let W := fun sub v n => WritesG a n t b c (latency a sub) f.d v
     Yields s (.add t f) (W 1 (x + y)) ∧ Yields s (.sub t f) (W 1 (x - y)) ∧ Yields s (.mul t f) (W 2 (x * y)) ∧
     Yields s (.mulhs t f) (W 2 (BitVec.ofInt 64 (x.toInt * y.toInt / 2 ^ 64))) ∧
     Yields s (.mulhu t f) (W 2 (BitVec.ofNat 64 (x.toNat * y.toNat / 2 ^ 64))) ∧
     Yields s (.and t f) (W 1 (x &&& y)) ∧ Yields s (.or t f) (W 1 (x ||| y)) ∧ Yields s (.xor t f) (W 1 (x ^^^ y))) ∧
  (∀ (s : State) (t : Thread) (f : Fields) (b : Beat) (c : Nat), legalAlu3 f = true → IssuesAt s.m t f (srcsAlu f) b c →
     let a := atCycle s.m b c
     let x := readG (getThread a t) f.a
     let y := if f.i then f.low.signExtend 64 else readG (getThread a t) f.b
     let W := fun v n => WritesG a n t b c (latency a 3) f.d v
     (y = 0 → Yields s (.divs t f) (W 0) ∧ Yields s (.divu t f) (W 0) ∧ Yields s (.rems t f) (W x) ∧ Yields s (.remu t f) (W x)) ∧
     (y ≠ 0 → Yields s (.divu t f) (W (BitVec.ofNat 64 (x.toNat / y.toNat))) ∧
       Yields s (.remu t f) (W (BitVec.ofNat 64 (x.toNat % y.toNat)))) ∧
     (y ≠ 0 → ¬ (x.toInt = -(2 ^ 63) ∧ y.toInt = -1) →
       (∃ q, Yields s (.divs t f) (W q) ∧ q.toInt = x.toInt.tdiv y.toInt) ∧
       (∃ r, Yields s (.rems t f) (W r) ∧ r.toInt = x.toInt.tmod y.toInt)) ∧
     (x.toInt = -(2 ^ 63) → y.toInt = -1 → Yields s (.divs t f) (W x) ∧ Yields s (.rems t f) (W 0))) ∧
  (∀ (s : State) (t : Thread) (f : Fields) (b : Beat) (c : Nat), legalAlu3 f = true → IssuesAt s.m t f (srcsAlu f) b c →
     let a := atCycle s.m b c
     let x := readG (getThread a t) f.a
     let y := if f.i then f.low.signExtend 64 else readG (getThread a t) f.b
     let W := fun v n => WritesG a n t b c (latency a 1) f.d v
     Yields s (.shl t f) (W (x <<< (y.toNat % 64))) ∧ Yields s (.shr t f) (W (x >>> (y.toNat % 64))) ∧
     Yields s (.sar t f) (W (x.sshiftRight (y.toNat % 64))) ∧
     Yields s (.mins t f) (W (if x.toInt ≤ y.toInt then x else y)) ∧
     Yields s (.maxs t f) (W (if x.toInt ≤ y.toInt then y else x))) ∧
  (∀ (s : State) (t : Thread) (f : Fields) (b : Beat) (c : Nat),
     let a := atCycle s.m b c
     let x := readG (getThread a t) f.a
     let W := fun v n => WritesG a n t b c (latency a 1) f.d v
     (legalRR f = true → IssuesAt s.m t f [srcG f.a] b c →
       Yields s (.popc t f) (W (BitVec.ofNat 64 ((List.range 64).countP fun k => x.getLsbD k))) ∧
       ∃ k : Nat, Yields s (.clz t f) (W (BitVec.ofNat 64 k)) ∧ k ≤ 64 ∧ x.toNat < 2 ^ (64 - k) ∧
         (k < 64 → 2 ^ (63 - k) ≤ x.toNat)) ∧
     (f.i = true → f.a = 0 → f.b = 0 → IssuesAt s.m t f [srcG f.d] b c →
       Yields s (.movh t f) (W (BitVec.ofNat 64 (f.low.toNat * 2 ^ 32 + (readG (getThread a t) f.d).toNat % 2 ^ 32)))) ∧
     (f.i = false → fieldC f < 8 → fieldMod f = 0 → IssuesAt s.m t f [srcG f.a, srcG f.b, srcP (fieldC f)] b c →
       Yields s (.sel t f) (W (if readP (getThread a t) (fieldC f) then x else readG (getThread a t) f.b)))) ∧
  (∀ (s : State) (t : Thread) (f : Fields) (b : Beat) (c : Nat),
     let a := atCycle s.m b c
     let ts := getThread a t
     let x := readG ts f.a
     let y := if f.i then f.low.signExtend 64 else readG ts f.b
     let W := fun v n => WritesP a n t b c f.d.toNat v
     (legalAlu3 f = true → pOk f.d = true → IssuesAt s.m t f (srcsAlu f) b c →
       Yields s (.cmpEq t f) (W (decide (x = y))) ∧ Yields s (.cmpNe t f) (W (decide (x ≠ y))) ∧
       Yields s (.cmpLts t f) (W (decide (x.toInt < y.toInt))) ∧ Yields s (.cmpLes t f) (W (decide (x.toInt ≤ y.toInt))) ∧
       Yields s (.cmpLtu t f) (W (decide (x.toNat < y.toNat))) ∧ Yields s (.cmpLeu t f) (W (decide (x.toNat ≤ y.toNat)))) ∧
     (immWithin f 3 = true → pOk f.d = true → pOk f.a = true → pOk f.b = true →
       IssuesAt s.m t f [srcP f.a.toNat, srcP f.b.toNat] b c →
       Yields s (.plog t f) (W (match f.low.toNat with
         | 0 => readP ts f.a.toNat && readP ts f.b.toNat
         | 1 => readP ts f.a.toNat || readP ts f.b.toNat
         | 2 => readP ts f.a.toNat ^^ readP ts f.b.toNat
         | _ => readP ts f.a.toNat && !readP ts f.b.toNat))))

/-! ## VEC (R138–R140, R551) -/

/-- VADD, VSUB, VMUL, VMIN, VMAX, VDIV and VCMP work lane by lane, each lane from the lanes of the same number alone. -/
def Obligations.VectorLaneOperations : Prop :=
  ∀ (s : State) (t : Thread) (f : Fields) (b : Beat) (c : Nat), IssuesAt s.m t f [srcV f.a, srcV f.b] b c →
    let a := atCycle s.m b c
    let ty := fieldMod f % 8
    let w := tyWidth ty
    let sat := fieldMod f / 8 % 2 == 1
    let L := fun (lat : Nat) (fn : Nat → Nat → Nat) (n : Mach) => ∃ v, WritesV a n t b c lat f.d v ∧ ∀ k, k < 512 / w →
      lane w v k = fn (lane w (readV (getThread a t) f.a) k) (lane w (readV (getThread a t) f.b) k) % 2 ^ w
    let lat := latency a (if ty ≤ 4 then 5 else 4)
    let op := fun (fp : FV → FV → FV) (int : Int → Int → Int) (x y : Nat) =>
      if ty ≤ 4 then tyPack ty (fp (tyDecode ty x) (tyDecode ty y)) else packInt w sat (int (laneInt w x) (laneInt w y))
    (legalVec f true false true false = true →
      Yields s (.vadd t f) (L lat (op fvAdd (· + ·))) ∧
      Yields s (.vsub t f) (L lat (op (fun x y => fvAdd x (fvNeg y)) (· - ·))) ∧
      Yields s (.vmul t f) (L lat (op fvMul (· * ·))) ∧
      Yields s (.vmin t f) (L lat (laneMin false ty)) ∧ Yields s (.vmax t f) (L lat (laneMin true ty))) ∧
    (legalVec f true true false false = true → Yields s (.vdiv t f) (L (latency a 6) fun x y =>
      tyPack ty (fvDiv (tyDecode ty x) (tyDecode ty y)).1 (fvDiv (tyDecode ty x) (tyDecode ty y)).2)) ∧
    (legalVec f true false false true = true → Yields s (.vcmp t f) (L lat (laneCmp ty (fieldMod f / 16))))

/-- VFMA adds the exact product of two lanes to the lane of vd with one rounding; VSQRT, VRCP, VRSQ, VEXP2 and VLOG2 work on
the lanes of va. -/
def Obligations.VectorFmaAndFunctions : Prop :=
  ∀ (s : State) (t : Thread) (f : Fields) (b : Beat) (c : Nat),
    let a := atCycle s.m b c
    let ts := getThread a t
    let ty := fieldMod f % 8
    let w := tyWidth ty
    let L := fun (lat : Nat) (fn : Nat → Nat) (n : Mach) => ∃ v, WritesV a n t b c lat f.d v ∧ ∀ k, k < 512 / w →
      lane w v k = fn k % 2 ^ w
    let g := fun (fn : FV → Rounded) (k : Nat) =>
      tyPack ty (fn (tyDecode ty (lane w (readV ts f.a) k))).1 (fn (tyDecode ty (lane w (readV ts f.a) k))).2
    (legalVec f true false true false = true → IssuesAt s.m t f [srcV f.a, srcV f.b, srcV f.d] b c →
      Yields s (.vfma t f) (L (latency a (if ty ≤ 4 then 5 else 4)) fun k =>
        laneFma ty (fieldMod f / 8 % 2 == 1) (lane w (readV ts f.a) k) (lane w (readV ts f.b) k) (lane w (readV ts f.d) k))) ∧
    (legalVec f false true false false = true → IssuesAt s.m t f [srcV f.a] b c →
      Yields s (.vsqrt t f) (L (latency a 6) (g fvSqrt)) ∧ Yields s (.vrcp t f) (L (latency a 7) (g fvRcp)) ∧
      Yields s (.vrsq t f) (L (latency a 7) (g fvRsq)) ∧ Yields s (.vexp2 t f) (L (latency a 7) (g fvExp2)) ∧
      Yields s (.vlog2 t f) (L (latency a 7) (g fvLog2)))

/-- VRED and VRMAX reduce the lanes of va to lane 0 and clear the rest: of integer lanes the sum modulo 2^w and the signed
maximum. VSEL chooses bit by bit, VMOV copies, VBCST puts the low lane-width bits of ga into every lane, VEXT takes doubleword b
of va. -/
def Obligations.VectorReductionsAndMoves : Prop :=
  (∀ (s : State) (t : Thread) (f : Fields) (b : Beat) (c : Nat), IssuesAt s.m t f [srcV f.a] b c →
     legalVec f false false false false = true →
     let a := atCycle s.m b c
     let ty := fieldMod f % 8
     let w := tyWidth ty
     let x := readV (getThread a t) f.a
     let W := fun v n => WritesV a n t b c (latency a 8) f.d v
     (Yields s (.vred t f) (W (vecReduce false ty x)) ∧ Yields s (.vrmax t f) (W (vecReduce true ty x))) ∧
     (5 ≤ ty → (vecReduce false ty x).toNat = ((List.range (512 / w)).map (lane w x)).sum % 2 ^ w ∧
       (∃ k, k < 512 / w ∧ (vecReduce true ty x).toNat = lane w x k) ∧
       ∀ k, k < 512 / w → laneInt w (lane w x k) ≤ laneInt w (vecReduce true ty x).toNat)) ∧
  (∀ (s : State) (t : Thread) (f : Fields) (b : Beat) (c : Nat),
     let a := atCycle s.m b c
     let ts := getThread a t
     let vc : BitVec 5 := BitVec.ofNat 5 (fieldC f)
     (f.i = false → vOk f.d = true → vOk f.a = true → vOk f.b = true → vOk vc = true → fieldMod f = 0 →
       IssuesAt s.m t f [srcV f.a, srcV f.b, srcV vc] b c →
       Yields s (.vsel t f) fun n => ∃ v, WritesV a n t b c (latency a 5) f.d v ∧ ∀ k, k < 512 →
         v.getLsbD k = if (readV ts vc).getLsbD k then (readV ts f.a).getLsbD k else (readV ts f.b).getLsbD k) ∧
     (legalRR f = true → vOk f.d = true → vOk f.a = true → IssuesAt s.m t f [srcV f.a] b c →
       Yields s (.vmov t f) fun n => WritesV a n t b c (latency a 5) f.d (readV ts f.a)) ∧
     (f.i = false → vOk f.d = true → f.b = 0 → fieldC f = 0 → fieldMod f / 8 = 0 → tyVec (fieldMod f) = true →
       IssuesAt s.m t f [srcG f.a] b c →
       Yields s (.vbcst t f) fun n => ∃ v, WritesV a n t b c (latency a 4) f.d v ∧
         ∀ k, k < 512 / tyWidth (fieldMod f) →
           lane (tyWidth (fieldMod f)) v k = (readG ts f.a).toNat % 2 ^ tyWidth (fieldMod f)) ∧
     (f.i = false → vOk f.a = true → f.b.toNat < 8 → f.low = 0 → IssuesAt s.m t f [srcV f.a] b c →
       Yields s (.vext t f) fun n => WritesG a n t b c (latency a 4) f.d ((readV ts f.a).extractLsb' (64 * f.b.toNat) 64)))

/-! ## CONV (R141–R143) -/

/-- CVT converts n lanes and, where the destination is wider in lanes, leaves the lanes outside its part as they were. CVTK4
encodes 16 values into a block of the burst, DCK4 decodes a block, CVTMX and DCMX convert to and from MX blocks; each counts what
it meets in the dune's counters (R142, R143). -/
def Obligations.Conversions : Prop :=
  (∀ (s : State) (t : Thread) (f : Fields) (b : Beat) (c : Nat),
     let a := atCycle s.m b c
     let ts := getThread a t
     let d := f.low.toNat % 16
     let e := f.low.toNat / 16 % 16
     let part := f.low.toNat / 256
     let wd := tyWidth d
     let we := tyWidth e
     let n := 512 / max wd we
     f.i = true → vOk f.d = true → vOk f.a = true → f.b = 0 → d < 8 → e < 8 → part < max wd we / min wd we →
     IssuesAt s.m t f (if wd < we then [srcV f.a, srcV f.d] else [srcV f.a]) b c →
     Yields s (.cvt t f) fun m => ∃ v, WritesV a m t b c (latency a 9) f.d v ∧ ∀ k, k < 512 / wd →
       lane wd v k = if wd < we ∧ ¬ (n * part ≤ k ∧ k < n * (part + 1)) then lane wd (readV ts f.d) k
         else cvtLane e d (lane we (readV ts f.a) (if we < wd then n * part + k else if wd < we then k - n * part else k))
           % 2 ^ wd) ∧
  (∀ (s : State) (t : Thread) (f : Fields) (b : Beat) (c : Nat),
     let a := atCycle s.m b c
     let ts := getThread a t
     let x := f.low.toNat
     let e := t.core.row.dune.erg.val
     let d := t.core.row.dune.num.val
     let W := fun a' v n => WritesV a' n t b c (latency a 9) f.d v
     f.i = true → vOk f.d = true → vOk f.a = true → f.b = 0 →
     (x % 8 ≤ 6 → x / 32 ≤ 2 → (x / 32 = 0 → x / 16 % 2 = 0) →
       IssuesAt s.m t f (if x / 8 % 2 = 1 then [srcV f.a] else [srcV f.a, srcV f.d]) b c →
       let k := encodeK4 ((List.range 16).map fun j =>
         tyDecode (x / 32) (lane (tyWidth (x / 32)) (readV ts f.a) (16 * (x / 16 % 2) + j)))
       Yields s (.cvtk4 t f)
         (W (countK4 a t.core.row.dune k) (putBlock (if x / 8 % 2 = 1 then emptyBurst else readV ts f.d) (x % 8) k))) ∧
     (x ≤ 6 → IssuesAt s.m t f [srcV f.a] b c →
       Yields s (.dck4 t f) (W (countDune a e d 0x6120 7 (if (decodeK4 (readV ts f.a) x).2 then 1 else 0))
         (decodeK4 (readV ts f.a) x).1)) ∧
     (x ≤ 5 → f.a.toNat ≤ 14 → IssuesAt s.m t f [srcV f.a, srcV (f.a + 1)] b c →
       let r := k4ToMx x ((lanes 32 (readV ts f.a) ++ lanes 32 (readV ts (f.a + 1))).map (tyDecode 0))
       Yields s (.cvtmx t f) (W (countDune (countDune a e d 0x6120 6 r.2.1) e d 0x6120 9 r.2.2) r.1)) ∧
     (x < 128 → x % 8 ≤ 5 → x / 8 % 8 ≤ 5 → IssuesAt s.m t f (if x / 64 = 1 then [srcV f.a] else [srcV f.a, srcV f.d]) b c →
       let r := mxToK4 (x / 8 % 8) (readV ts f.a)
       Yields s (.dcmx t f) (W (countK4 (countK4 a t.core.row.dune r.1) t.core.row.dune r.2)
         (putBlock (putBlock (if x / 64 = 1 then emptyBurst else readV ts f.d) (x % 8) r.1) (x % 8 + 1) r.2))))

/-! ## MEM (R131, R144, R163, R168) -/

/-- Loads from the own row buffer: the destination gets the bytes in memory, zero- or sign-extended, with the latency of a
row-buffer load. -/
def Obligations.RowBufferLoads : Prop :=
  ∀ (s : State) (t : Thread) (f : Fields) (b : Beat) (c k off : Nat),
    let a := atCycle s.m b c
    let addr := sramOf t.core.row true off
    let bytes := readBytes a.sram addr k
    let W := fun v n => WritesG a n t b c (latency a 10) f.d v
    f.i = true → f.b = 0 → IssuesAt s.m t f [srcG f.a] b c → a.provocations = [] → NoQldRace a addr k →
    loadTarget t (getThread a t).privF (effAddr (getThread a t) f) k = some (t.core.row, true, off) →
    (k = 1 → Yields s (.ldU1 t f) (W (BitVec.ofNat 64 (leNat bytes))) ∧
      Yields s (.ldS1 t f) (W ((BitVec.ofNat 8 (leNat bytes)).signExtend 64))) ∧
    (k = 2 → Yields s (.ldU2 t f) (W (BitVec.ofNat 64 (leNat bytes))) ∧
      Yields s (.ldS2 t f) (W ((BitVec.ofNat 16 (leNat bytes)).signExtend 64))) ∧
    (k = 4 → Yields s (.ldU4 t f) (W (BitVec.ofNat 64 (leNat bytes))) ∧
      Yields s (.ldS4 t f) (W ((BitVec.ofNat 32 (leNat bytes)).signExtend 64))) ∧
    (k = 8 → Yields s (.ld8 t f) (W (BitVec.ofNat 64 (leNat bytes)))) ∧
    (k = 64 → vOk f.d = true → Yields s (.ldv t f) fun n =>
      WritesV a n t b c (latency a 10) f.d (BitVec.ofNat 512 (leNat bytes)))

/-- Loads from a scratchpad bank of the dune go on their way: the request reaches the bank 2 + h cycles after issue, h being
the hop count, and is served no earlier; the registers do not change yet. -/
def Obligations.ScratchpadLoads : Prop :=
  ∀ (s : State) (t : Thread) (f : Fields) (b : Beat) (c k off : Nat) (r : RowId),
    let a := atCycle s.m b c
    let addr := sramOf r false off
    let h := hopCount t.core.row.num r.num
    let P := fun signed dest n => (∃ l ∈ n.loads, l.thread = t ∧ l.dest = some dest ∧ l.addr = addr ∧ l.bytes = k ∧
      l.signed = signed ∧ l.bank = rowKey r ∧ l.reach = cycleStart a b (c + 2 + h) ∧ l.reach ≤ l.service) ∧
      (getThread n t).g = (getThread a t).g ∧ (getThread n t).v = (getThread a t).v ∧
      (getThread n t).pc = (getThread a t).pc + 1 ∧ (getThread n t).nextIssue = c + 8 ∧
      n = { a with threads := n.threads, loads := n.loads }
    f.i = true → f.b = 0 → IssuesAt s.m t f [srcG f.a] b c → a.provocations = [] →
    loadTarget t (getThread a t).privF (effAddr (getThread a t) f) k = some (r, false, off) →
    (k = 1 → Yields s (.ldU1 t f) (P false f.d.toNat) ∧ Yields s (.ldS1 t f) (P true f.d.toNat)) ∧
    (k = 2 → Yields s (.ldU2 t f) (P false f.d.toNat) ∧ Yields s (.ldS2 t f) (P true f.d.toNat)) ∧
    (k = 4 → Yields s (.ldU4 t f) (P false f.d.toNat) ∧ Yields s (.ldS4 t f) (P true f.d.toNat)) ∧
    (k = 8 → Yields s (.ld8 t f) (P false f.d.toNat)) ∧
    (k = 64 → vOk f.d = true → Yields s (.ldv t f) (P false (32 + f.d.toNat)))

/-- Stores to the own row: the thread goes on, and the bytes are on their way to land at the end of cycle c + 4 (R131); no
register, and no byte of memory yet, has changed. What a store has sent lands: once the clock has passed the instant, the stored
bytes read back, every other byte of fabric SRAM reads as before, and HBM is untouched, where nothing else is on its way. -/
def Obligations.StoresGoAndLand : Prop :=
  (∀ (s : State) (t : Thread) (f : Fields) (b : Beat) (c k off : Nat) (buf : Bool),
     let a := atCycle s.m b c
     let ts := getThread a t
     let addr := sramOf t.core.row buf off
     let P := fun v n => OnlyRetires { a with
       landings := queueLanding ⟨cycleStart a b (c + 5), 2 + t.core.num.val, addr, leBytes k v⟩ a.landings } n t c
     f.i = true → f.d = 0 → loadTarget t ts.privF (effAddr ts f) k = some (t.core.row, buf, off) →
     (IssuesAt s.m t f [srcG f.a, srcG f.b] b c →
       (k = 1 → Yields s (.st1 t f) (P (readG ts f.b).toNat)) ∧ (k = 2 → Yields s (.st2 t f) (P (readG ts f.b).toNat)) ∧
       (k = 4 → Yields s (.st4 t f) (P (readG ts f.b).toNat)) ∧ (k = 8 → Yields s (.st8 t f) (P (readG ts f.b).toNat))) ∧
     (IssuesAt s.m t f [srcG f.a, srcV f.b] b c → vOk f.b = true → k = 64 →
       Yields s (.stv t f) (P (readV ts f.b).toNat))) ∧
  (∀ (m : Mach) (due rank addr k v time : Nat), m.landings = [] → m.loads = [] → fabricBusy m = false → due ≤ time →
     let n := advance (land m due rank addr (leBytes k v)) time
     readBytes n.sram addr k = leBytes k v ∧ n.landings = [] ∧ n.hbm = m.hbm ∧
     ∀ x, x < addr ∨ addr + k ≤ x → readByte n.sram x = readByte m.sram x)

/-- A load or store whose address names no storage it may use raises ADDRESS instead (R144, R159). -/
def Obligations.MemoryAddressFaults : Prop :=
  ∀ (s : State) (t : Thread) (f : Fields) (b : Beat) (c k : Nat),
    let a := atCycle s.m b c
    let F := fun op n => Faulted a n t 4 (instrWord 3 op f)
    f.i = true → loadTarget t (getThread a t).privF (effAddr (getThread a t) f) k = none →
    (f.b = 0 → IssuesAt s.m t f [srcG f.a] b c →
      (k = 1 → Yields s (.ldU1 t f) (F 1) ∧ Yields s (.ldS1 t f) (F 5)) ∧
      (k = 2 → Yields s (.ldU2 t f) (F 2) ∧ Yields s (.ldS2 t f) (F 6)) ∧
      (k = 4 → Yields s (.ldU4 t f) (F 3) ∧ Yields s (.ldS4 t f) (F 7)) ∧
      (k = 8 → Yields s (.ld8 t f) (F 4)) ∧ (k = 64 → vOk f.d = true → Yields s (.ldv t f) (F 12))) ∧
    (f.d = 0 → IssuesAt s.m t f [srcG f.a, srcG f.b] b c →
      (k = 1 → Yields s (.st1 t f) (F 8)) ∧ (k = 2 → Yields s (.st2 t f) (F 9)) ∧ (k = 4 → Yields s (.st4 t f) (F 10)) ∧
      (k = 8 → Yields s (.st8 t f) (F 11))) ∧
    (f.d = 0 → IssuesAt s.m t f [srcG f.a, srcV f.b] b c → vOk f.b = true → k = 64 → Yields s (.stv t f) (F 13))

/-! ## WIN (R147–R149, R171–R175) -/

/-- WOPEN opens the window that the descriptor at offset ga of the own row buffer describes, WCLOSE closes one; the row's
other windows, and everything but the thread's place, are as they were. -/
def Obligations.WindowsOpenAndClose : Prop :=
  ∀ (s : State) (t : Thread) (f : Fields) (b : Beat) (c : Nat),
    let a := atCycle s.m b c
    let r := t.core.row
    let row := getRow a r
    let off := (readG (getThread a t) f.a).toNat
    let w : Window := ⟨BitVec.ofNat 128 (leNat (readBytes a.sram (sramOf r true off) 16)), (getThread a t).privF⟩
    (immWithin f 15 = true → f.d = 0 → f.b = 0 → IssuesAt s.m t f [srcG f.a] b c → off % 16 = 0 → off + 16 ≤ 0x40000 →
      a.provocations = [] → NoQldRace a (sramOf r true off) 16 → windowOk r w = true →
      Yields s (.wopen t f) fun n => sget none (getRow n r).windows f.low.toNat = some w ∧
        (∀ k, k ≠ f.low.toNat → sget none (getRow n r).windows k = sget none row.windows k) ∧
        OnlyRetires (setRow a r { row with windows := (getRow n r).windows }) n t c) ∧
    (immWithin f 15 = true → f.d = 0 → f.a = 0 → f.b = 0 → IssuesAt s.m t f [] b c →
      Yields s (.wclose t f) fun n => sget none (getRow n r).windows f.low.toNat = none ∧
        (∀ k, k ≠ f.low.toNat → sget none (getRow n r).windows k = sget none row.windows k) ∧
        OnlyRetires (setRow a r { row with windows := (getRow n r).windows }) n t c)

/-- PUT sends its bytes as one packet to the target row. PUT_ARRIVAL of a packet of one unit that waits at its arrival port: where
its window accepts it, its bytes stand at the target address one cycle later and every other byte reads as before; where no
window accepts it, WINDOW is raised in the target row; either way it has left the mesh. Nothing of the row's windows changes. -/
def Obligations.PacketsAreSentAndArrive : Prop :=
  (∀ (s : State) (t : Thread) (f : Fields) (b : Beat) (c off : Nat) (buf : Bool) (dr : RowId),
     let a := atCycle s.m b c
     let ts := getThread a t
     let gc : BitVec 5 := BitVec.ofNat 5 (fieldC f)
     let len := 64 * (fieldMod f % 64 + 1)
     f.i = false → f.d = 0 → fieldMod f < 256 → IssuesAt s.m t f [srcG f.a, srcG f.b, srcG gc] b c →
     putFault t ts f = 0 → sramAddr (readG ts f.b) = some (dr, buf, off) →
     a.provocations = [] → NoQldRace a (readG ts f.a).toNat len →
     Yields s (.put t f) fun n => (∃ p, n.packets = a.packets ++ [p] ∧ p.src = some t.core.row ∧ p.target = readG ts f.b ∧
         p.bytes = readBytes a.sram (readG ts f.a).toNat len ∧ p.cls = fieldMod f / 64 ∧ p.tag = readG ts gc ∧
         p.privF = ts.privF ∧ p.viaLink = false) ∧
       (getThread n t).pc = ts.pc + 1 ∧ (getThread n t).nextIssue = c + 8 ∧ (getThread n t).g = ts.g ∧
       (getThread n t).v = ts.v ∧ (getThread n t).p = ts.p ∧ n.sram = a.sram ∧ n.hbm = a.hbm ∧ n.queues = a.queues) ∧
  (∀ (s : State) (p : Packet) (r : RowId) (buf : Bool) (off key : Nat), s.m.packets = [p] → p.cargo = .put →
     p.held = false → p.verdict = none → p.units = 1 → p.slot = none → s.m.landings = [] → s.m.loads = [] → s.m.flits = [] →
     s.m.arrivals = [(key, [⟨s.m.fabricAt, false, p.id, 0⟩])] → s.m.now ≤ s.m.fabricAt →
     sramAddr p.target = some (r, buf, off) → p.bytes.length = 64 →
     Yields s (.putArrival p.id) fun n => n.packets = [] ∧ n.now = s.m.fabricAt + cycleTu s.m ∧ n.hbm = s.m.hbm ∧
       n.threads = s.m.threads ∧
       (windowAccepts s.m r p buf off = true → Stored s.m n p.target.toNat p.bytes ∧ n.rows = s.m.rows ∧
         n.raised = s.m.raised) ∧
       (windowAccepts s.m r p buf off = false → (getRow n r).stopped = true ∧
         (getRow n r).windows = (getRow s.m r).windows ∧ ∃ x, n.raised = s.m.raised ++ [x] ∧ x.code = 0x0005))

/-! ## Q (R150–R152, R184) -/

/-- An accepted QLD from HBM or QST to HBM takes the lowest free entry of its queue, puts the ticket into gd, and leaves
memory as it is; the data of a QST go on their way over the mesh. -/
def Obligations.QueueTransfersIssue : Prop :=
  ∀ (s : State) (t : Thread) (f : Fields) (b : Beat) (c k : Nat),
    let a := atCycle s.m b c
    let ts := getThread a t
    let x := f.low.toNat
    let len := 64 * (x % 64 + 1)
    let P := fun (store : Bool) (q : Nat) (n : Mach) =>
      let qs := getQueues a t.core
      (∃ y, sget none (getQueues n t.core).entries (16 * q + k) = some y ∧ y.load = !store ∧ y.remote = readG ts f.a ∧
        y.localAddr = readG ts f.b ∧ y.length = len ∧ y.seq = sget 0 qs.next q ∧
        y.source = if store then readBytes a.sram (readG ts f.b).toNat len
          else hbmBytes a ((readG ts f.a).toNat % 2 ^ 41) len) ∧
      sget 0 (getQueues n t.core).next q = sget 0 qs.next q + 1 ∧ (store = false → n.packets = a.packets) ∧
      WritesG { a with queues := n.queues, packets := n.packets, flits := n.flits, fabricAt := n.fabricAt, fresh := n.fresh }
        n t b c (latency a 1) f.d
        (BitVec.ofNat 64 (sget 0 qs.next q * 128 + q * 16 + k))
    IssuesAt s.m t f [srcG f.a, srcG f.b] b c → addrSpace (readG ts f.a) = 2 → a.provocations = [] →
    NoQldRace a (readG ts f.b).toNat len →
    (immWithin f 0x33F = true → queueFault a t ts.privF false (readG ts f.a) (readG ts f.b) len = 0 →
      freeEntry (getQueues a t.core) (x / 256 % 4) = some k → Yields s (.qld t f) (P false (x / 256 % 4))) ∧
    (immWithin f 0x13F = true → queueFault a t ts.privF true (readG ts f.a) (readG ts f.b) len = 0 →
      freeEntry (getQueues a t.core) (4 + x / 256 % 2) = some k → Yields s (.qst t f) (P true (4 + x / 256 % 2)))

/-- QWAIT on a completed transfer writes 1 to pd; on an outstanding one it waits; QWAIT_DEADLINE ends the wait at the deadline, where
the beat still runs then, with 0 in pd. QUEUE_TRANSFER_COMPLETE of a QST to HBM of which nothing is on the mesh any more, on stacks
that issue, frees the entry; its bytes then stand in HBM, and no other byte of HBM and no byte of fabric SRAM has changed. -/
def Obligations.QueueTransfersEnd : Prop :=
  (∀ (s : State) (t : Thread) (f : Fields) (b : Beat) (c : Nat),
     let a := atCycle s.m b c
     let ticket := (readG (getThread a t) f.a).toNat
     let q := ticket / 16 % 8
     let seq := ticket / 128
     (f.i = true → f.b = 0 → pOk f.d = true → IssuesAt s.m t f [srcG f.a] b c → q < 6 →
       seq < sget 0 (getQueues a t.core).next q →
       (transferDone (getQueues a t.core) q seq = true → Yields s (.qwait t f) fun n => WritesP a n t b c f.d.toNat true) ∧
       (transferDone (getQueues a t.core) q seq = false → f.low = 0 ∨ c < stretchTarget a b f.low.toNat →
         Yields s (.qwait t f) fun n => Waits a n t c (.qwait q seq f.low.toNat (BitVec.ofNat 3 f.d.toNat)))) ∧
     (∀ (q' seq' dl : Nat) (pd : BitVec 3), (getThread s.m t).stall = some (.qwait q' seq' dl pd) → dl ≠ 0 →
       (getDune s.m t.core.row.dune).beat = some b → transferDone (getQueues s.m t.core) q' seq' = false →
       (getDune s.m t.core.row.dune).power = .usable →
       cycleStart s.m b (stretchTarget s.m b dl) < b.start + beatLength s.m (getDune s.m t.core.row.dune) b * 217 →
       Yields s (.qwaitDeadline t) fun n => (getThread n t).stall = none ∧ (pd ≠ 0 → readP (getThread n t) pd.toNat = false) ∧
         n.queues = (atCycle s.m b (stretchTarget s.m b dl)).queues)) ∧
  (∀ (s : State) (core : CoreId) (q : Fin 6) (e : Fin 16) (data : List Byte) (x : Transfer),
     sget none (getQueues s.m core).entries (16 * q.val + e.val) = some x → addrSpace x.remote = 2 → x.load = false →
     x.discarded = false → partsDone core (16 * q.val + e.val) x.seq s.m = true →
     let at_ := x.remote.toNat % 2 ^ 41
     stackStops s.m at_ x.length = false →
     Yields s (.queueTransferComplete core q e data .done) fun n =>
       sget none (getQueues n core).entries (16 * q.val + e.val) = none ∧ hbmBytes n at_ x.source.length = x.source ∧
       (∀ y, y < at_ ∨ at_ + x.source.length ≤ y → hbmByte n y = hbmByte s.m y) ∧ n.sram = s.m.sram ∧
       n.now = s.m.now)

/-! ## PLATE (R42–R46, R60, R61, R66–R72, R145, R146) -/

/-- FIRE, FIREW and FIREX on a free row driver start a firing of the plates in gc on the burst at ga: the aligned input is
that of the width executed, FIREW is wide, FIREX and the proof variant are exact, and the driver is free again after the
last cycle. -/
def Obligations.PlateInstructionsFire : Prop :=
  ∀ (s : State) (t : Thread) (f : Fields) (b : Beat) (c : Nat),
    let a := atCycle s.m b c
    let ts := getThread a t
    let r := t.core.row
    let gc : BitVec 5 := BitVec.ofNat 5 (fieldC f)
    let input := readG ts f.a
    let xs := (readInput (readBytes a.sram (sramOf r true input.toNat) 640)).flatMap (·.2)
    let P := fun (exact wide : Bool) (n : Mach) => ∃ fr, (getRow n r).firing = some fr ∧
      fr.plates = maskPlates (readG ts gc) ∧ fr.output = (readG ts f.b).toNat ∧ fr.start = c ∧
      fr.exact = (exact || proofJob a) ∧ (wide = true → fr.wide = true) ∧ (proofJob a = true → fr.wide = true) ∧
      (fr.q, fr.exps) = alignInput (if fr.wide then 7 else 3) xs ∧
      fr.last + 1 = c + firingLength a fr.exact fr.wide ∧ (getRow n r).driverFree = fr.last + 1 ∧
      (getThread n t).pc = ts.pc + 1 ∧ (getThread n t).nextIssue = c + 8 ∧ (getThread n t).stall = none ∧
      (getThread n t).g = ts.g ∧ n.sram = a.sram ∧ n.hbm = a.hbm ∧ n.queues = a.queues
    f.i = false → f.d = 0 → fieldMod f = 0 → IssuesAt s.m t f [srcG f.a, srcG f.b, srcG gc] b c → ts.stall = none →
    fireFault (getRow a r) input (readG ts f.b) (readG ts gc) = 0 → (getRow a r).firing = none → plateWaiters a r = [] →
    lowerCoreFires a b c t = false → a.provocations = [] → NoQldRace a (sramOf r true input.toNat) 640 →
    Yields s (.fire t f) (P false false) ∧ Yields s (.firew t f) (P false true) ∧ Yields s (.firex t f) (P true false)

/-- FIRING_END clears the firing and frees the driver, and FWAIT waits for the end of the firing in progress, if any. -/
def Obligations.FiringsEnd : Prop :=
  (∀ (s : State) (r : RowId) (ups : List CellUpset) (fr : Firing) (b : Beat), (getRow s.m r).firing = some fr →
    (getDune s.m r.dune).beat = some b → (getDune s.m r.dune).frozen = false →
    Yields s (.firingEnd r ups) fun n => (getRow n r).firing = none ∧ (getRow n r).driverFree = fr.last + 1 ∧
      n.hbm = s.m.hbm ∧ cycleStart s.m b (fr.last + 1) ≤ n.now) ∧
  (∀ (s : State) (t : Thread) (f : Fields) (b : Beat) (c : Nat), legalRR f = true → f.d = 0 → f.a = 0 →
    IssuesAt s.m t f [] b c →
    let a := atCycle s.m b c
    (∀ fr, (getRow a t.core.row).firing = some fr →
      Yields s (.fwait t f) fun n => Waits a n t c (.untilCycle (fr.last + 1) false)) ∧
    ((getRow a t.core.row).firing = none → Yields s (.fwait t f) fun n => OnlyRetires a n t c))

/-! ## SYNC (R153–R155) -/

/-- WAITT.C and WAITT.H wait until a target that lies ahead in the beat, before the commit cycle; SEAL ends the thread's beat
once its PUT sources have been read. STALL_RESUME of a thread whose cycle has come, or whose instant has come, sends it on from
there in the beat. -/
def Obligations.WaitsSealAndResume : Prop :=
  (∀ (s : State) (t : Thread) (f : Fields) (b : Beat) (c : Nat),
     let a := atCycle s.m b c
     let ts := getThread a t
     let limit := cycleStart a b (commitCycle a (getDune a t.core.row.dune) b)
     (f.i = true → unguarded f = true → f.d = 0 → f.a = 0 → f.b = 0 → IssuesAt s.m t f [] b c →
       let target := cycleStart a b (stretchTarget a b f.low.toNat)
       target < limit → cycleStart a b c ≤ target →
       Yields s (.waittC t f) fun n => Waits a n t c (.untilCycle f.low.toNat true)) ∧
     (legalRR f = true → unguarded f = true → f.d = 0 → IssuesAt s.m t f [srcG f.a] b c →
       let at_ := copyTu a (getDune a t.core.row.dune).copy (readG ts f.a).toNat
       at_ < limit → cycleStart a b c ≤ at_ →
       Yields s (.waittH t f) fun n => Waits a n t c (.untilHtc (readG ts f.a).toNat)) ∧
     (legalRR f = true → unguarded f = true → f.d = 0 → f.a = 0 → IssuesAt s.m t f [] b c →
       (ts.putRead ≤ a.now → Yields s (.seal t f) fun n => ThreadBecomes a n t
         { ts with pc := ts.pc + 1, nextIssue := c + 8, stall := none, sealed := true }) ∧
       (a.now < ts.putRead → Yields s (.seal t f) fun n => Waits a n t c (.sealRead ts.putRead)))) ∧
  (∀ (s : State) (t : Thread) (b : Beat) (k : Nat), (getDune s.m t.core.row.dune).beat = some b →
     (getDune s.m t.core.row.dune).frozen = false → (getRow s.m t.core.row).stopped = false →
     let limit := commitCycle s.m (getDune s.m t.core.row.dune) b
     let P := fun c n => ThreadBecomes (atCycle s.m b c) n t { getThread (atCycle s.m b c) t with
       stall := none, nextIssue := max (getThread (atCycle s.m b c) t).nextIssue c }
     ((getThread s.m t).stall = some (.untilCycle k false) → k < limit → Yields s (.stallResume t) (P k)) ∧
     ((getThread s.m t).stall = some (.untilCycle k true) → stretchTarget s.m b k < limit →
       Yields s (.stallResume t) (P (stretchTarget s.m b k))) ∧
     (let at_ := cycleAtOrAfter s.m b (copyTu s.m (getDune s.m t.core.row.dune).copy k)
      (getThread s.m t).stall = some (.untilHtc k) → at_ < limit → Yields s (.stallResume t) (P at_)))

/-- BARL: an arrival that does not complete its round waits in it, and the one that completes it empties the barrier and
sends the others on from the next cycle; a different count raises BARRIER instead. -/
def Obligations.Barriers : Prop :=
  ∀ (s : State) (t : Thread) (f : Fields) (b : Beat) (c : Nat),
    let a := atCycle s.m b c
    let r := t.core.row
    let n := f.low.toNat / 256
    let bar := f.low.toNat % 8
    let round := (sget none (getRow a r).barriers bar).getD ⟨n, []⟩
    let me := 8 * t.core.num.val + t.num.val
    immWithin f 0xFF07 = true → unguarded f = true → f.d = 0 → f.a = 0 → f.b = 0 → IssuesAt s.m t f [] b c →
    1 ≤ n → n ≤ 128 →
    (round.count = n → round.arrived.length + 1 < n → Yields s (.barl t f) fun m =>
      sget none (getRow m r).barriers bar = some ⟨n, round.arrived ++ [me]⟩ ∧
      Waits (setRow a r { getRow a r with barriers := (getRow m r).barriers }) m t c (.barl bar)) ∧
    (round.count = n → n ≤ round.arrived.length + 1 → me ∉ round.arrived → (∀ k ∈ round.arrived, k < 128) →
      Yields s (.barl t f) fun m =>
      sget none (getRow m r).barriers bar = none ∧ (getThread m t).stall = (getThread a t).stall ∧
      (getThread m t).pc = (getThread a t).pc + 1 ∧
      ∀ k ∈ round.arrived, (getThread m (rowThread r k)).stall = some (.untilCycle (c + 1) false)) ∧
    (round.count ≠ n → Yields s (.barl t f) fun m => Faulted a m t 6 (instrWord 7 1 f))

/-! ## CTL and SYS (R128, R156–R158, R188, R491) -/

/-- BR, CALL and JR go on at their target within the thread's code range, for the cost of their own slot, and outside it raise
BRANCH; CALL leaves the return word in g31; ABRT raises USER_ABORT with the instruction word, its user code in it, in the fault
record. NOP and SKIP only go on, SKIP after the empty slots. -/
def Obligations.ControlTransfers : Prop :=
  ∀ (s : State) (t : Thread) (f : Fields) (b : Beat) (c : Nat),
    let a := atCycle s.m b c
    let ts := getThread a t
    let target : Int := ts.pc + f.low.toInt
    let jump := (readG ts f.a).toNat
    (f.i = true → f.d = 0 → f.a = 0 → f.b = 0 → IssuesAt s.m t f [] b c →
      ((ts.lo : Int) ≤ target → target < ts.hi →
        (Yields s (.br t f) fun n => ThreadBecomes a n t { ts with pc := target.toNat, nextIssue := c + 8 }) ∧
        Yields s (.call t f) fun n => (getThread n t).pc = target.toNat ∧ (getThread n t).nextIssue = c + 8 ∧
          (∀ j, readG (getThread n t) j = if j = 31 then BitVec.ofNat 64 (ts.pc + 1) else readG ts j) ∧
          (∀ u, u ≠ t → getThread n u = getThread a u) ∧ n = { a with threads := n.threads, loads := n.loads }) ∧
      (target < ts.lo ∨ ts.hi ≤ target →
        (Yields s (.br t f) fun n => Faulted a n t 8 (instrWord 8 2 f)) ∧
        Yields s (.call t f) fun n => Faulted a n t 8 (instrWord 8 4 f)) ∧
      (f.low.toNat ≤ 0xFFFF → Yields s (.abrt t f) fun n => Faulted a n t 0xA (instrWord 8 7 f)) ∧
      (1 ≤ f.low.toNat → f.low.toNat ≤ 4096 → Yields s (.skip t f) fun n =>
        ThreadBecomes a n t { ts with pc := ts.pc + 1, nextIssue := c + 8 * (f.low.toNat + 1) })) ∧
    (legalRR f = true → f.d = 0 → IssuesAt s.m t f [srcG f.a] b c →
      (ts.lo ≤ jump → jump < ts.hi →
        Yields s (.jr t f) fun n => ThreadBecomes a n t { ts with pc := jump, nextIssue := c + 8 }) ∧
      (jump < ts.lo ∨ ts.hi ≤ jump → Yields s (.jr t f) fun n => Faulted a n t 8 (instrWord 8 3 f))) ∧
    (legalRR f = true → f.d = 0 → f.a = 0 → IssuesAt s.m t f [] b c →
      Yields s (.nop t f) fun n => OnlyRetires a n t c)

/-- GETS reads the value that the selector names into gd, taken in the cycle in which it issues; a selector from 15 on is an
illegal encoding (R128). -/
def Obligations.GetsReadsTheSelector : Prop :=
  ∀ (s : State) (t : Thread) (f : Fields) (b : Beat) (c : Nat), f.i = true → f.a = 0 → f.b = 0 →
    let a := atCycle s.m b c
    let r := t.core.row
    let row := 2 ^ 60 + r.dune.erg.val * 2 ^ 56 + r.dune.num.val * 2 ^ 50 + r.num.val * 2 ^ 43
    let W := fun (v : Nat) n => WritesG a n t b c (latency a 14) f.d (BitVec.ofNat 64 v)
    let G := Yields s (.gets t f)
    (IssuesAt s.m t f [] b c →
      (f.low.toNat = 0 → G (W t.num.val)) ∧ (f.low.toNat = 1 → G (W t.core.num.val)) ∧ (f.low.toNat = 2 → G (W r.num.val)) ∧
      (f.low.toNat = 3 → G (W r.dune.num.val)) ∧ (f.low.toNat = 4 → G (W r.dune.erg.val)) ∧
      (f.low.toNat = 5 → ∀ v, (getDune a r.dune).hosted = some v → G (W (v % 64))) ∧ (f.low.toNat = 6 → G (W b.n)) ∧
      (f.low.toNat = 7 → G (W c)) ∧ (f.low.toNat = 8 → G (W (copyHtc a (getDune a r.dune).copy))) ∧
      (f.low.toNat = 9 → ∀ j, a.job = some j → G (W j.id.toNat)) ∧ (f.low.toNat = 10 → G (W (row + 2 ^ 42))) ∧
      (f.low.toNat = 11 → G (W row)) ∧ (f.low.toNat = 12 → G (W (if (getThread a t).privF then 1 else 0))) ∧
      (f.low.toNat = 13 → G (W (if a.steppingB1 then 1 else 0))) ∧
      (f.low.toNat = 14 → G (W (if a.gradeE then 1 else 0)))) ∧
    (issuingBeat s.m t = some b → c = issueSlot s.m b t [] → c < commitCycle s.m (getDune s.m t.core.row.dune) b →
      15 ≤ f.low.toNat → G fun n => Faulted a n t 1 (instrWord 8 6 f))

/-- SLD, SST and EVT run in an F thread: SST stores to the unit register, SLD reads one (its value is the unit's, free), each
raising ADDRESS where the address names none, and EVT sends its event on TC3; in a U thread each raises PRIVILEGE and has no other
effect. -/
def Obligations.UnitControl : Prop :=
  ∀ (s : State) (t : Thread) (f : Fields) (b : Beat) (c : Nat),
    let a := atCycle s.m b c
    let ts := getThread a t
    let x := readG ts f.a
    (legalRR f = true → IssuesAt s.m t f [srcG f.a] b c →
      (ts.privF = false → Yields s (.sld t f) fun n => Faulted a n t 2 (instrWord 9 1 f)) ∧
      (ts.privF = true → Yields s (.sld t f) fun n =>
        (unitAddress x = true → WritesG { a with fresh := n.fresh } n t b c (latency a 3) f.d
          (Config.unitRead x.toNat (sget 0 a.unitRegs x.toNat) a.fresh)) ∧
        (unitAddress x = false → Faulted a n t 4 (instrWord 9 1 f)))) ∧
    (f.i = false → f.low = 0 → f.d = 0 → IssuesAt s.m t f [srcG f.a, srcG f.b] b c →
      (ts.privF = false → (Yields s (.sst t f) fun n => Faulted a n t 2 (instrWord 9 2 f)) ∧
        Yields s (.evt t f) fun n => Faulted a n t 2 (instrWord 9 3 f)) ∧
      (ts.privF = true → Yields s (.sst t f) fun n =>
        (unitAddress x = true → sget 0 n.unitRegs x.toNat = readG ts f.b ∧
          (∀ k, k ≠ x.toNat → sget 0 n.unitRegs k = sget 0 a.unitRegs k) ∧
          OnlyRetires { a with unitRegs := n.unitRegs } n t c) ∧
        (unitAddress x = false → Faulted a n t 4 (instrWord 9 2 f))) ∧
      (ts.privF = true → Yields s (.evt t f) fun n => (∃ p, n.packets = a.packets ++ [p] ∧ p.cls = 3 ∧ p.src = some t.core.row ∧
          p.cargo = .event (x.toNat % 2 ^ 15) t.core.row.dune.erg.val t.core.row.dune.num.val b.n (readG ts f.b).toNat) ∧
        (getThread n t).pc = ts.pc + 1 ∧ (getThread n t).g = ts.g ∧ n.sram = a.sram ∧ n.rows = a.rows))

/-- Where a thread instruction completes (R134, R135, R136): one that issues (`IssuesAt`) with its guard true, a legal encoding and
operands that name what it may use, answers a next state; its thread has gone on by one word, and it has raised no fault.
One clause for each shape of each class; what each instruction does there, the statements above and `PlateInstructionsFire`,
`PacketsAreSentAndArrive`, `QueueTransfersIssue`, `Barriers`, `ControlTransfers` say. -/
def Obligations.ThreadInstructionsComplete : Prop :=
  ∀ (s : State) (t : Thread) (f : Fields) (b : Beat) (c : Nat),
    let a := atCycle s.m b c
    let ts := getThread a t
    let x := f.low.toNat
    let Done := fun n => (getThread n t).pc = ts.pc + 1 ∧ n.raised = a.raised
    -- ALU
    (∀ i ∈ [Instr.add t f, .sub t f, .mul t f, .mulhs t f, .mulhu t f, .divs t f, .divu t f, .rems t f, .remu t f, .and t f,
        .or t f, .xor t f, .shl t f, .shr t f, .sar t f, .mins t f, .maxs t f],
      legalAlu3 f = true → IssuesAt s.m t f (srcsAlu f) b c → ∃ n, exec i s = .next { s with m := n } ∧ Done n) ∧
    (∀ i ∈ [Instr.popc t f, .clz t f], legalRR f = true → IssuesAt s.m t f [srcG f.a] b c →
      ∃ n, exec i s = .next { s with m := n } ∧ Done n) ∧
    (f.i = true → f.a = 0 → f.b = 0 → IssuesAt s.m t f [srcG f.d] b c →
      ∃ n, exec (.movh t f) s = .next { s with m := n } ∧ Done n) ∧
    (f.i = false → fieldC f < 8 → fieldMod f = 0 → IssuesAt s.m t f [srcG f.a, srcG f.b, srcP (fieldC f)] b c →
      ∃ n, exec (.sel t f) s = .next { s with m := n } ∧ Done n) ∧
    (∀ i ∈ [Instr.cmpEq t f, .cmpNe t f, .cmpLts t f, .cmpLes t f, .cmpLtu t f, .cmpLeu t f],
      legalAlu3 f = true → pOk f.d = true → IssuesAt s.m t f (srcsAlu f) b c →
      ∃ n, exec i s = .next { s with m := n } ∧ Done n) ∧
    (immWithin f 3 = true → pOk f.d = true → pOk f.a = true → pOk f.b = true →
      IssuesAt s.m t f [srcP f.a.toNat, srcP f.b.toNat] b c →
      ∃ n, exec (.plog t f) s = .next { s with m := n } ∧ Done n) ∧
    -- VEC
    (∀ i ∈ [Instr.vadd t f, .vsub t f, .vmul t f, .vmin t f, .vmax t f], legalVec f true false true false = true →
      IssuesAt s.m t f [srcV f.a, srcV f.b] b c → ∃ n, exec i s = .next { s with m := n } ∧ Done n) ∧
    (legalVec f true false true false = true → IssuesAt s.m t f [srcV f.a, srcV f.b, srcV f.d] b c →
      ∃ n, exec (.vfma t f) s = .next { s with m := n } ∧ Done n) ∧
    (legalVec f true true false false = true → IssuesAt s.m t f [srcV f.a, srcV f.b] b c →
      ∃ n, exec (.vdiv t f) s = .next { s with m := n } ∧ Done n) ∧
    (legalVec f true false false true = true → IssuesAt s.m t f [srcV f.a, srcV f.b] b c →
      ∃ n, exec (.vcmp t f) s = .next { s with m := n } ∧ Done n) ∧
    (∀ i ∈ [Instr.vsqrt t f, .vrcp t f, .vrsq t f, .vexp2 t f, .vlog2 t f], legalVec f false true false false = true →
      IssuesAt s.m t f [srcV f.a] b c → ∃ n, exec i s = .next { s with m := n } ∧ Done n) ∧
    (∀ i ∈ [Instr.vred t f, .vrmax t f], legalVec f false false false false = true →
      IssuesAt s.m t f [srcV f.a] b c → ∃ n, exec i s = .next { s with m := n } ∧ Done n) ∧
    (let vc : BitVec 5 := BitVec.ofNat 5 (fieldC f)
     f.i = false → vOk f.d = true → vOk f.a = true → vOk f.b = true → vOk vc = true → fieldMod f = 0 →
      IssuesAt s.m t f [srcV f.a, srcV f.b, srcV vc] b c → ∃ n, exec (.vsel t f) s = .next { s with m := n } ∧ Done n) ∧
    (legalRR f = true → vOk f.d = true → vOk f.a = true → IssuesAt s.m t f [srcV f.a] b c →
      ∃ n, exec (.vmov t f) s = .next { s with m := n } ∧ Done n) ∧
    (f.i = false → vOk f.d = true → f.b = 0 → fieldC f = 0 → fieldMod f / 8 = 0 → tyVec (fieldMod f) = true →
      IssuesAt s.m t f [srcG f.a] b c → ∃ n, exec (.vbcst t f) s = .next { s with m := n } ∧ Done n) ∧
    (f.i = false → vOk f.a = true → f.b.toNat < 8 → f.low = 0 → IssuesAt s.m t f [srcV f.a] b c →
      ∃ n, exec (.vext t f) s = .next { s with m := n } ∧ Done n) ∧
    -- CONV
    (f.i = true → vOk f.d = true → vOk f.a = true → f.b = 0 →
      (x % 16 < 8 → x / 16 % 16 < 8 →
        x / 256 < max (tyWidth (x % 16)) (tyWidth (x / 16 % 16)) / min (tyWidth (x % 16)) (tyWidth (x / 16 % 16)) →
        IssuesAt s.m t f (if tyWidth (x % 16) < tyWidth (x / 16 % 16) then [srcV f.a, srcV f.d] else [srcV f.a]) b c →
        ∃ n, exec (.cvt t f) s = .next { s with m := n } ∧ Done n) ∧
      (x % 8 ≤ 6 → x / 32 ≤ 2 → (x / 32 = 0 → x / 16 % 2 = 0) →
        IssuesAt s.m t f (if x / 8 % 2 = 1 then [srcV f.a] else [srcV f.a, srcV f.d]) b c →
        ∃ n, exec (.cvtk4 t f) s = .next { s with m := n } ∧ Done n) ∧
      (x ≤ 6 → IssuesAt s.m t f [srcV f.a] b c → ∃ n, exec (.dck4 t f) s = .next { s with m := n } ∧ Done n) ∧
      (x ≤ 5 → f.a.toNat ≤ 14 → IssuesAt s.m t f [srcV f.a, srcV (f.a + 1)] b c →
        ∃ n, exec (.cvtmx t f) s = .next { s with m := n } ∧ Done n) ∧
      (x < 128 → x % 8 ≤ 5 → x / 8 % 8 ≤ 5 →
        IssuesAt s.m t f (if x / 64 = 1 then [srcV f.a] else [srcV f.a, srcV f.d]) b c →
        ∃ n, exec (.dcmx t f) s = .next { s with m := n } ∧ Done n)) ∧
    -- MEM: the address is one the thread may use
    (∀ k : Nat, loadTarget t ts.privF (effAddr ts f) k ≠ none → a.provocations = [] → f.i = true → f.b = 0 →
      IssuesAt s.m t f [srcG f.a] b c →
      (k = 1 → ∀ i ∈ [Instr.ldU1 t f, .ldS1 t f], ∃ n, exec i s = .next { s with m := n } ∧ Done n) ∧
      (k = 2 → ∀ i ∈ [Instr.ldU2 t f, .ldS2 t f], ∃ n, exec i s = .next { s with m := n } ∧ Done n) ∧
      (k = 4 → ∀ i ∈ [Instr.ldU4 t f, .ldS4 t f], ∃ n, exec i s = .next { s with m := n } ∧ Done n) ∧
      (k = 8 → ∃ n, exec (.ld8 t f) s = .next { s with m := n } ∧ Done n) ∧
      (k = 64 → vOk f.d = true → ∃ n, exec (.ldv t f) s = .next { s with m := n } ∧ Done n)) ∧
    (∀ (k off : Nat) (buf : Bool), loadTarget t ts.privF (effAddr ts f) k = some (t.core.row, buf, off) → f.i = true →
      f.d = 0 →
      (IssuesAt s.m t f [srcG f.a, srcG f.b] b c →
        (k = 1 → ∃ n, exec (.st1 t f) s = .next { s with m := n } ∧ Done n) ∧
        (k = 2 → ∃ n, exec (.st2 t f) s = .next { s with m := n } ∧ Done n) ∧
        (k = 4 → ∃ n, exec (.st4 t f) s = .next { s with m := n } ∧ Done n) ∧
        (k = 8 → ∃ n, exec (.st8 t f) s = .next { s with m := n } ∧ Done n)) ∧
      (k = 64 → vOk f.b = true → IssuesAt s.m t f [srcG f.a, srcV f.b] b c →
        ∃ n, exec (.stv t f) s = .next { s with m := n } ∧ Done n)) ∧
    -- WIN, Q, PLATE, SYNC, CTL, SYS
    (immWithin f 15 = true → f.d = 0 → f.a = 0 → f.b = 0 → IssuesAt s.m t f [] b c →
      ∃ n, exec (.wclose t f) s = .next { s with m := n } ∧ Done n) ∧
    (f.i = true → f.b = 0 → pOk f.d = true → IssuesAt s.m t f [srcG f.a] b c →
      transferDone (getQueues a t.core) ((readG ts f.a).toNat / 16 % 8) ((readG ts f.a).toNat / 128) = true →
      (readG ts f.a).toNat / 16 % 8 < 6 →
      (readG ts f.a).toNat / 128 < sget 0 (getQueues a t.core).next ((readG ts f.a).toNat / 16 % 8) →
      ∃ n, exec (.qwait t f) s = .next { s with m := n } ∧ Done n) ∧
    (∀ i ∈ [Instr.fwait t f, .nop t f], legalRR f = true → f.d = 0 → f.a = 0 → IssuesAt s.m t f [] b c →
      ∃ n, exec i s = .next { s with m := n } ∧ Done n) ∧
    (legalRR f = true → unguarded f = true → f.d = 0 → f.a = 0 → IssuesAt s.m t f [] b c →
      ∃ n, exec (.seal t f) s = .next { s with m := n } ∧ Done n) ∧
    (f.i = true → f.a = 0 → f.b = 0 → x ≤ 14 → IssuesAt s.m t f [] b c →
      ∃ n, exec (.gets t f) s = .next { s with m := n } ∧ Done n) ∧
    (ts.privF = true → unitAddress (readG ts f.a) = true →
      (legalRR f = true → IssuesAt s.m t f [srcG f.a] b c → ∃ n, exec (.sld t f) s = .next { s with m := n } ∧ Done n) ∧
      (f.i = false → f.low = 0 → f.d = 0 → IssuesAt s.m t f [srcG f.a, srcG f.b] b c →
        ∃ n, exec (.sst t f) s = .next { s with m := n } ∧ Done n)) ∧
    (ts.privF = true → f.i = false → f.low = 0 → f.d = 0 → IssuesAt s.m t f [srcG f.a, srcG f.b] b c →
      ∃ n, exec (.evt t f) s = .next { s with m := n } ∧ Done n)

/-- The decoder and the encoder agree (R133, R135, R136): every thread instruction has a word, the decoder reads exactly it from
that word, and no other word gives it; a command that is no thread instruction has none. -/
def Obligations.WordsAndInstructionsAgree : Prop :=
  (∀ (i : Instr) (t : Thread) (f : Fields), threadOf i = some (t, f) →
    ∃ w, encodeInstr i = some w ∧ decodeWord t w = some i ∧ splitWord w = f) ∧
  (∀ i : Instr, threadOf i = none → encodeInstr i = none) ∧
  (∀ (t : Thread) (w : W64) (i : Instr), decodeWord t w = some i →
    encodeInstr i = some w ∧ threadOf i = some (t, splitWord w))

/-! ## Strips and bank writes (R97–R99, R107–R113, R336–R338) -/

/-- A strip of a complete bank whose turn it is starts with segment 0 in the first gap of its length and runs through it; at the
end of a weighing segment the next one is due, and after a proof or verify segment what the strip has found so far stays found. A
row word is staged: its bytes stand in the ring, and it waits for the writer of the row. A staged word is written to its row of
the bank in 3 cycles, or in 6 where the first reading differed, no earlier than it came; the bank stays incomplete until all 1,024
are written. What the machine is at the instant they end is `advance`. -/
def Obligations.StripsAndRowWords : Prop :=
  (∀ (s : State) (r : RowId) (site : Fin 68) (bank : Bank) (at_ : Nat),
     let m := s.m
     let x := siteView m r site.val
     (getRow m r).strip = none → (getRow m r).firing = none → (getDune m r.dune).frozen = false → stripsSite m x = true →
     (bankOf x bank).complete = true → powered m = true → mayStrip m r site.val bank = true →
     segmentSlot m r (segmentLength m 0) = some at_ →
     Yields s (.stripSegmentStart r site bank) fun n =>
       let a := advance { m with fresh := m.fresh + 1 } at_
       let run : StripRun := { site := site.val, bank, segment := 0, running := true, until_ := at_ + segmentLength m 0 * cycleTu m, seed := m.fresh }
       n = setRow a r { getRow a r with bask := none, strip := some run }) ∧
  (∀ (s : State) (r : RowId) (st : StripRun) (obs : StripObs), (getRow s.m r).strip = some st → st.running = true →
     (getDune s.m r.dune).frozen = false → st.segment < 93 →
     let a := advance s.m st.until_
     (bankOf (siteView a r st.site) st.bank).complete = true →
     Yields s (.stripSegmentEnd r obs) fun n => n.now = max s.m.now st.until_ ∧ n.hbm = s.m.hbm ∧
       (st.segment < 69 → n = setRow a r { getRow a r with strip := some { st with segment := st.segment + 1, running := false } }) ∧
       (78 ≤ st.segment → (∀ q, q ≠ r → getRow n q = getRow a q) ∧ (getRow n r).sites = (getRow a r).sites ∧
         ∃ y, (getRow n r).strip = some y ∧ y.segment = st.segment + 1 ∧ y.running = false ∧ y.site = st.site ∧
           y.bank = st.bank ∧ (st.failed = true → y.failed = true))) ∧
  (∀ (s : State) (r : RowId) (x : WriteJob), writeJob (getRow s.m r) = some x → (getDune s.m r.dune).frozen = false →
     let m := s.m
     ((getDune m r.dune).power = .usable → x.record.valid = true → x.staged < 1024 → x.staged < x.written + 128 →
       Yields s (.rowWordStaged r false) fun n => (∃ y, (getRow n r).writer = some y ∧ y.staged = x.staged + 1 ∧
           y.written = x.written ∧ y.record = x.record ∧ y.arrived = x.arrived ++ [m.now]) ∧
         Stored m n (ringAddr r x.staged) (rowWord x.record x.staged) ∧ (getRow n r).sites = (getRow m r).sites ∧
         (∀ q, q ≠ r → getRow n q = getRow m q) ∧ n.hbm = m.hbm ∧ n.threads = m.threads ∧ n.now = m.now) ∧
     (∀ first second : Bool, ¬ (first = true ∧ second = true) → x.written < x.staged → x.written < 1023 →
       fixAnnounced m r.dune = false →
       let a := advance m (max x.freeAt (x.arrived.headD 0) + (if first then 6 else 3) * cycleTu m)
       Yields s (.plateRowWrite r first second) fun n => (∃ y, (getRow n r).writer = some y ∧ y.written = x.written + 1 ∧
           y.staged = x.staged ∧ y.freeAt = a.now ∧ y.arrived = x.arrived.drop 1) ∧
         (bankOf (getSite (getRow n r) x.site) x.bank).complete = false ∧
         (∀ q, q ≠ r → getRow n q = getRow a q) ∧ n = { a with rows := n.rows }))

/-! ## Beats (R225–R249) -/

/-- BEAT_START opens the next beat of the dune, with no period change, pause or fix announced for it or planned at it, and after
another dune has opened it: the beat begins at the first cycle at or after S(n) on the island's HTC copy, in segment 0. SEGMENT_MARK moves every row of the dune to the
next segment at its mark; COMMIT_CHECK marks the beat as checked at its commit cycle; BEAT_CLOSE closes the oldest open beat of
the job once it has started and no fault holds it. -/
def Obligations.BeatsStartAdvanceAndClose : Prop :=
  (∀ (s : State) (d : DuneId) (b : Beat), mayRun s.m d = true → (getDune s.m d).beat = some b →
     (b.checked = false → Yields s (.commitCheck d) fun n => (getDune n d).beat = some { b with checked := true } ∧
       cycleStart s.m b (commitCycle s.m (getDune s.m d) b) ≤ n.now ∧ n.hbm = s.m.hbm ∧
       ∀ e, e ≠ d → getDune n e = getDune s.m e) ∧
     (∀ j, s.m.job = some j → b.segment + 1 < (jobVariant j).marksNs.length → Yields s (.segmentMark d) fun n =>
       (getDune n d).beat = some { b with segment := b.segment + 1 } ∧
       n.now = max s.m.now (cycleStart s.m b (markInForce s.m b b.segment)) ∧
       (∀ k : Fin 96, (getRow n ⟨d, k⟩).raised = false) ∧ n.hbm = s.m.hbm ∧ ∀ e, e ≠ d → getDune n e = getDune s.m e)) ∧
  (∀ (s : State) (d : DuneId) (j : Job) (k : Nat), s.m.job = some j → mayRun s.m d = true →
     (getDune s.m d).pausedFrom = none → (getDune s.m d).beat = none → (getDune s.m d).changes = [] →
     (getDune s.m d).fixes = [] → j.lastStarted = some k → (getDune s.m d).nextBeat ≤ k →
     planFixAt j.image.mem (getDune s.m d).nextBeat = false →
     let x := getDune s.m d
     let start := ceilDiv (copyTu s.m x.copy (beatInstant x x.nextBeat)) (cycleTu s.m) * cycleTu s.m
     Yields s (.beatStart d) fun n => (getDune n d).beat = some { n := x.nextBeat, start := start } ∧
       (getDune n d).nextBeat = x.nextBeat + 1 ∧ n.now = max s.m.now start ∧ (∀ e, e ≠ d → getDune n e = getDune s.m e) ∧
       (∀ t : Thread, t.core.row.dune = d → (getThread (advance s.m start) t).live = true →
         getThread n t = { getThread (advance s.m start) t with sealed := false, stall := none, nextIssue := t.num.val }) ∧
       n.hbm = s.m.hbm) ∧
  (∀ (s : State) (j : Job) (k : Nat), s.m.job = some j → beatsRun s.m = true → j.faultBeat = none → j.lastStarted = some k →
     j.nextClose ≤ k →
     Yields s (.beatClose j.nextClose) fun n =>
       n = afterClose (closeBeat (advance s.m (tuAt s.m (closesAt s.m j.nextClose))) j.nextClose) j.nextClose)

/-- STRETCH of the beat a dune runs, at a segment not yet over, records the segment and moves the anchor by the beat's period
and P_b; one that names another beat raises BEAT_DIVERGENCE. -/
def Obligations.StretchMovesTheAnchor : Prop :=
  ∀ (s : State) (d : DuneId) (msg : MeshMsg) (b : Beat), Addressed s.m (duneNode d) 2 msg → isJobDune s.m d = true →
    (getDune s.m d).frozen = false → (getDune s.m d).power = .usable → beatsRun s.m = true →
    (getDune s.m d).beat = some b →
    let k := msg.w2.toNat / 2 ^ 28
    let x := getDune s.m d
    (b.n % 2 ^ 32 = msg.w1.toNat → b.stretched = none → b.segment ≤ k → s.m.now ≤ cycleStart s.m b (markCycle s.m k) →
      Yields s (.stretch d msg) fun n => getDune n d = { x with
          beat := some { b with stretched := some k }, anchor := beatInstant x b.n + x.period + basePeriod s.m,
          anchorBeat := b.n + 1 } ∧
        (∀ e, e ≠ d → getDune n e = getDune s.m e) ∧ EngineKept s.m n) ∧
    (b.n % 2 ^ 32 ≠ msg.w1.toNat → Yields s (.stretch d msg) fun n => (∀ k : Fin 96, (getRow n ⟨d, k⟩).stopped = true) ∧
      (∃ f, n.raised = s.m.raised ++ [f] ∧ f.code = 0x0202) ∧ n.threads = s.m.threads ∧
      Stored s.m n (detailPlace s.m d.erg.val d.num.val) (leBytes 8 0))

/-- BEAT_CHANGE and FIX: a period change, a pause and a fix for a time to come are kept by the dune until it; a resume restarts
paused beats on the new anchor. -/
def Obligations.BeatChangesAreKept : Prop :=
  ∀ (s : State) (d : DuneId) (msg : MeshMsg), takesChanges s.m d = true →
    let x := getDune s.m d
    (Addressed s.m (duneNode d) 3 msg → msgKind msg = 0 → natBits msg.w3.toNat 27 24 ≤ 8 → x.nextBeat ≤ msgLong msg →
      Yields s (.beatChangePeriod d msg) fun n =>
        (.period (msgLong msg) (natBits msg.w3.toNat 27 24) (natBits msg.w3.toNat 23 0)) ∈ (getDune n d).changes ∧
        (getDune n d).beat = x.beat ∧ EngineKept s.m n) ∧
    (Addressed s.m (duneNode d) 3 msg → msgKind msg = 1 → x.nextBeat ≤ msgLong msg →
      Yields s (.beatChangePause d msg) fun n => (.pause (msgLong msg)) ∈ (getDune n d).changes ∧
        (getDune n d).beat = x.beat ∧ EngineKept s.m n) ∧
    (Addressed s.m (duneNode d) 3 msg → msgKind msg = 2 → ∀ j, s.m.job = some j → x.pausedFrom.isSome = true →
      copyHtc s.m x.copy ≤ msgLong msg → Yields s (.beatChangeResume d msg) fun n => getDune n d =
          { x with pausedFrom := none, anchor := msgLong msg, anchorBeat := x.nextBeat,
                   changes := x.changes.filter fun c => c != .resume (msgLong msg) } ∧ EngineKept s.m n) ∧
    (Addressed s.m (duneNode d) 6 msg → x.beat = none → Yields s (.fix d msg) fun n =>
      (msgLong msg, natBits msg.w3.toNat 23 0) ∈ (getDune n d).fixes ∧ (getDune n d).changes = x.changes ∧ EngineKept s.m n)

/-- FALLBACK_CHECK takes the rates of the second that ends, at its end; the HBM imbalance window ends with the counts of the
channels cleared. -/
def Obligations.WindowsOfRatesEnd : Prop :=
  ∀ s : State,
    (beatsRun s.m = true → Yields s .fallbackCheck fun n => (∃ k, n.fallback.second = some k ∧
        (∀ p, s.m.fallback.second = some p → p < k) ∧ tuAt s.m (k * 1000000000) ≤ n.now) ∧ n.hbm = s.m.hbm) ∧
    (powered s.m = true → Yields s .hbmImbalanceWindowEnd fun n => n.hbmServed = [] ∧ n.hbmWindow = n.now ∧
      n.now = max s.m.now (s.m.hbmWindow + odGet s.m 0x2231 2 * 217000000) ∧ n.hbm = s.m.hbm)

/-! ## Fabric and clocks (R209–R222, R438) -/

/-- DUNE_OFF: a usable dune outside a job loses its beat, its firings, strips and loads on their way, and its neighbours use their
alternate tables unless another dune of the erg is OFF already; the other dunes keep their state, and no packet is added, an event
from another dune being sent once more. ROUTE_TABLE_REWRITE brings the tables of an erg up to date; CONTROL_PARITY_ERROR counts,
and a lane that fails twice is lost, the second of a link with a fault; CONTROL_MESSAGE_DISCARD counts. -/
def Obligations.DunesGoOffAndMeshUpkeep : Prop :=
  (∀ (s : State) (d : DuneId), (getDune s.m d).power = .usable → s.m.job = none →
     Yields s (.duneOff d) fun n => (getDune n d).power = .off ∧ (getDune n d).beat = none ∧
       (getDune n d).alternates = !otherOff s.m d ∧ (∀ e, e ≠ d → getDune n e = getDune s.m e) ∧
       (∀ q ∈ n.packets, ∃ p ∈ s.m.packets, q.id = p.id ∧ q.cargo = p.cargo ∧ q.bytes = p.bytes) ∧
       (∀ l ∈ n.loads, l.thread.core.row.dune ≠ d) ∧ n.sram = s.m.sram ∧ n.hbm = s.m.hbm ∧ n.threads = s.m.threads) ∧
  (∀ s : State,
     (∀ e : Fin 4, ergStale s.m e.val = true → (∀ p ∈ s.m.packets, p.held = false) →
       Yields s (.routeTableRewrite e) fun n => ergStale n e.val = false ∧
         (∀ k : Fin 4, k ≠ e → ergStale n k.val = ergStale s.m k.val) ∧ EngineKept s.m n) ∧
     (∀ (link : Nat) (lane : Fin 2), powered s.m = true →
       (Yields s (.controlParityError link lane false) fun n => n.ctlLanes = s.m.ctlLanes ∧ EngineKept s.m n ∧
         n.raised = s.m.raised) ∧
       (sget 0 s.m.ctlLanes link / 2 ^ lane.val % 2 = 0 → Yields s (.controlParityError link lane true) fun n =>
         sget 0 n.ctlLanes link = sget 0 s.m.ctlLanes link + 2 ^ lane.val ∧
         (∀ k, k ≠ link → sget 0 n.ctlLanes k = sget 0 s.m.ctlLanes k) ∧
         (sget 0 s.m.ctlLanes link = 0 → EngineKept s.m n ∧ n.raised = s.m.raised) ∧
         (sget 0 s.m.ctlLanes link ≠ 0 → n.threads = s.m.threads ∧ n.hbm = s.m.hbm ∧
           ∃ x, n.raised = s.m.raised ++ [x] ∧ x.code = 0x0701))) ∧
     (∀ (node : BitVec 8) (msg : MeshMsg), msgBad msg = true → Yields s (.controlMessageDiscard node msg) fun n =>
       n = if node.toNat % 64 < 48 then countDune s.m (node.toNat / 64) (node.toNat % 64) 0x5101 9 1
         else count s.m 0x5101 9 1))

/-- The clock of an island: a pulse exchange is noted and sets the copy's difference from the root anew, ACQUIRE and HOLDOVER give
way to LOCKED, three periods without an exchange put it into HOLDOVER, and holdover beyond its limit counts or posts its event, once. -/
def Obligations.IslandClocks : Prop :=
  ∀ (s : State) (i : Island), islandRuns s.m i = true → i ≠ rootIsland →
    let x := islandState s.m i
    (∀ ps : Int, Yields s (.timingPulseExchange i ps) fun n =>
      let skew := parentSkew s.m i + ps * 65536 / 1000
      (islandState n i).exchanged = s.m.now ∧ (islandState n i).time = x.time ∧ (islandState n i).copy.skew = skew ∧
      (islandState n i).copy.since = s.m.now ∧ EngineKept s.m n ∧ (s.m.now, (skew * 1000 / 65536).natAbs) ∈ n.offsets) ∧
    (x.time = .acquire → Yields s (.islandLock i) fun n => islandState n i = { x with time := .locked } ∧
      EngineKept s.m n ∧ n.od = s.m.od) ∧
    (x.time = .holdover → Yields s (.islandLock i) fun n => (islandState n i).time = .locked ∧
      (islandState n i).copy.skew = skewAt x.copy s.m.now ∧ (islandState n i).copy.since = s.m.now ∧ EngineKept s.m n) ∧
    (x.time = .locked → Yields s (.holdoverEntry i) fun n => (islandState n i).time = .holdover ∧
      (islandState n i).holdSince = n.now ∧ n.now = max s.m.now (x.exchanged + 3 * 217000)) ∧
    (x.time = .holdover → x.copy.limited = false → s.m.job = none → Yields s (.holdoverLimit i) fun n =>
      (islandState n i).time = .holdover ∧ (islandState n i).copy.limited = true ∧
      x.holdSince + 10 * 217000000 < n.now ∧ n.hbm = s.m.hbm) ∧
    (x.copy.limited = true → Yields s (.holdoverLimit i) fun n => n = s.m)

/-! ## Jobs (R257, R261, R268–R271, R330, R363, R530) -/

/-- An accepted LOAD of an image that passes the loader's checks and finds its dunes puts the module into LOADING with that
job, and its answer waits; one that a check or the search for dunes refuses ends in STANDBY with the code and the detail.
LOAD_COMPLETE of an image that the checks on the way refuse ends in STANDBY too; of a job of one module in which no strip has
cost a site it starts the job: RUNNING. -/
def Obligations.JobsLoad : Prop :=
  ∀ s : State,
    (∀ (v : Via) (bytes : List Byte) (img : Image), jobCheck s.m v bytes = none → field bytes 0 1 = 1 →
      let j : Job := { id := lo32 (field bytes 4 4), image := img, proof := odGet s.m 0x3010 1 == 1, map := [], ergMap := 0 }
      let e := enterLoading (holdAnswer { s.m with imageRetries := [] } v (objKey 0x3000 1) none)
      let stager := odGet e 0x3140 4 == 1
      let m := { (if stager ∧ odGet e 0x5400 1 = 0 then e else readImage e bytes stager) with job := some j }
      Yields s (.jobLoad v bytes img) fun n => n.hbm = s.m.hbm ∧ n.now = s.m.now ∧
        (∀ code detail, loadFault m bytes img j.proof = some (code, detail) →
          n.mode = .standby ∧ n.job = none ∧ odGet n 0x3010 3 = code ∧ odGet n 0x3010 4 = detail) ∧
        (∀ code detail, loadFault m bytes img j.proof = none → findMapping m img j.proof [] = .inr (code, detail) →
          n.mode = .standby ∧ n.job = none ∧ odGet n 0x3010 3 = code ∧ odGet n 0x3010 4 = detail) ∧
        (∀ mp g, loadFault m bytes img j.proof = none → findMapping m img j.proof [] = .inl (mp, g) →
          n.mode = .loading ∧ n.job = some { j with map := mp, ergMap := g } ∧
          n.answers = s.m.answers ++ [⟨v, objKey 0x3000 1, none⟩])) ∧
    (∀ (j : Job) (trials : List SiteTrial), s.m.job = some j → s.m.mode = .loading → j.loaded = false →
      (∀ code detail, lateChecks j.image = some (code, detail) → Yields s (.loadComplete trials) fun n =>
        n.mode = .standby ∧ n.job = none ∧ odGet n 0x3010 3 = code ∧ odGet n 0x3010 4 = detail) ∧
      (lateChecks j.image = none → j.image.modules ≤ 1 →
        lostTrials (placeRecords s.m j) j.image.mem trials = [] → Yields s (.loadComplete trials) fun n => n.mode = .running ∧
          (∃ k, n.job = some k ∧ k.loaded = true ∧ k.image = j.image ∧
          k.id = j.id ∧ k.map = j.map ∧ k.nextClose = 0 ∧ k.lastStarted = none) ∧ s.m.now ≤ n.now))

/-- An accepted DRAIN with no replacement on its way: DRAINING, from now on. DRAIN_COMPLETE and an accepted UNLOAD announce the
pause at the first beat that can still be announced. -/
def Obligations.JobsDrainAndUnload : Prop :=
  ∀ (s : State) (j : Job), s.m.job = some j → s.m.repl = none → j.unloadAt = none → announces s.m = true →
    let at_ := firstAnnounceable s.m
    (∀ (v : Via) (bytes : List Byte), jobCheck s.m v bytes = none → field bytes 0 1 = 2 → s.m.mode = .running →
      Yields s (.jobDrain v bytes) fun n => n.mode = .draining ∧ n.drainSince = s.m.now ∧ n.draining = false ∧
        EngineKept (leaveBask s.m) n) ∧
    (s.m.mode = .draining → s.m.unloading = false → (∀ e ∈ s.m.ctxs, e.2.state = .free) →
      Yields s .drainComplete fun n => n.unloading = true ∧ n.mode = .draining ∧
        (∃ k, n.job = some k ∧ k.unloadAt = some at_ ∧ at_ ≤ k.announcedTo) ∧ EngineKept s.m n) ∧
    (∀ (v : Via) (bytes : List Byte), jobCheck s.m v bytes = none → field bytes 0 1 = 3 →
      Yields s (.jobUnload v bytes) fun n => n.unloading = true ∧ n.mode = s.m.mode ∧
        (∃ k, n.job = some k ∧ k.unloadAt = some at_ ∧ at_ ≤ k.announcedTo) ∧ EngineKept s.m n)

/-! ## The intake (R273–R283) -/

/-- Bytes written to a slot that is not armed stand in the function's intake window, and a final byte with the expected phase
arms the slot. SLOT_CONSUME takes the armed slot in turn, in the order of the window: the slot is free again, the credit counts
one more, and its descriptor waits to be carried out. A SUBMIT stays in its slot while no context is free for it. -/
def Obligations.IntakeSlotsAreWrittenAndConsumed : Prop :=
  (∀ (s : State) (f : Fin 16) (offset : Fin 4096) (bytes : List Byte), powered s.m = true → (getFn s.m f.val).armed = 0 →
     offset.val % 128 + bytes.length ≤ 128 → 0 < bytes.length →
     let k := offset.val / 128
     Yields s (.intakeSlotWrite f offset bytes) fun n =>
       (∀ i, i < bytes.length → sget 0 n.intake (4096 * f.val + offset.val + i) = bytes.getD i 0) ∧
       (∀ a, (a < 4096 * f.val + offset.val ∨ 4096 * f.val + offset.val + bytes.length ≤ a) →
         sget 0 n.intake a = sget 0 s.m.intake a) ∧
       ((getFn n f.val).armed.getLsbD k = (offset.val % 128 + bytes.length == 128 &&
         (bytes.getD (bytes.length - 1) 0).getLsbD 0 == (getFn s.m f.val).expected.getLsbD k)) ∧
       (∀ e, e ≠ f.val → getFn n e = getFn s.m e) ∧ EngineKept s.m n) ∧
  (∀ (s : State) (f : Fin 16), served s.m f.val = true → (getFn s.m f.val).armed.getLsbD (getFn s.m f.val).next = true →
     (getFn s.m f.val).next < 32 →
     let fn := getFn s.m f.val
     let d := slotDescriptor s.m f.val fn.next
     let room := contextsTaken s.m < 16384 ∧ (liveOf s.m f.val).length + submitsTaken fn < odGet s.m (0x3110 + f.val) 2
     (d.opcode ≠ 1 ∨ room → Yields s (.slotConsume f) fun n => (getFn n f.val).armed.getLsbD fn.next = false ∧
       (getFn n f.val).next = (fn.next + 1) % 32 ∧ (getFn n f.val).consumed = fn.consumed + 1 ∧
       (getFn n f.val).taken = fn.taken ++ [(s.m.orderCount, d)] ∧ n.orderCount = s.m.orderCount + 1 ∧
       (∀ e, e ≠ f.val → getFn n e = getFn s.m e) ∧ EngineKept s.m n) ∧
     (d.opcode = 1 → ¬ room → Yields s (.slotConsume f) fun n => n = s.m))

/-- A NOP descriptor does nothing, an unknown opcode counts; a SUBMIT that passes its checks queues a request in the lowest
free context and fetches its prompt. CANCEL, PAUSE and RESUME act on the context that carries the tag: CANCEL ends it, PAUSE of a
request that waits or is in prefill is held until it decodes, RESUME of a paused one is noted. -/
def Obligations.DescriptorsAreCarriedOut : Prop :=
  (∀ (s : State) (f : Fin 16) (k : Nat) (d : Descriptor) (rest : List (Nat × Descriptor)),
     (getFn s.m f.val).taken = (k, d) :: rest →
     let m := setFn s.m f.val { getFn s.m f.val with taken := rest }
     (d.opcode = 0 → d.phaseByte.toNat < 2 → Yields s (.descriptorNop f) fun n => n = m) ∧
     (5 ≤ d.opcode → d.phaseByte.toNat < 2 → Yields s (.unknownOpcode f) fun n => n = count m 0x6180 13 1) ∧
     (∀ c, d.opcode = 1 → submitCheck m f.val d = none → freeCtx m = some c → Yields s (.submit f) fun n =>
       getCtx n c = 
         { state := .queued, fn := f.val, desc := some d, fetching := true, fetchAt := s.m.now, depth := d.specDepth, order := k } ∧
       (∀ e, e ≠ c → getCtx n e = getCtx s.m e) ∧ getFn n f.val = { getFn s.m f.val with taken := rest } ∧
       n.out = s.m.out ++ (hostParts (128 * 2 ^ s.m.port.readCode) (4 * d.promptLen) d.promptAddr.toNat (4 * d.promptLen)).map
         (fun p => .hostRead f.val p.1 p.2) ∧ EngineKept s.m n)) ∧
  (∀ (s : State) (f : Fin 16) (k c : Nat) (d : Descriptor) (rest : List (Nat × Descriptor)),
     (getFn s.m f.val).taken = (k, d) :: rest → d.phaseByte.toNat < 2 →
     let m := setFn s.m f.val { getFn s.m f.val with taken := rest }
     let x := getCtx s.m c
     ctxByTag m f.val d.hostTag = some c →
     (d.opcode = 2 → x.state ≠ .ending → Yields s (.cancel f) fun n => n = endStatus (count m 0x6180 4 1) c 1 0 false ∧
       EngineKept s.m n) ∧
     (d.opcode = 3 → x.state = .queued ∨ x.state = .prefill → Yields s (.pause f) fun n =>
       getCtx n c = { x with pauseHeld := true } ∧ (∀ e, e ≠ c → getCtx n e = getCtx s.m e) ∧ EngineKept s.m n) ∧
     (d.opcode = 4 → x.state = .paused → Yields s (.resume f) fun n => getCtx n c = { x with resumeAsked := true } ∧
       (∀ e, e ≠ c → getCtx n e = getCtx s.m e) ∧ EngineKept s.m n))

/-- PROMPT_FETCH_COMPLETE with tokens of the vocabulary gives the context its prompt, four bytes an id in HBM's firmware area; with
another token the request ends with TOKEN_RANGE (6). END_RECORD_SENT frees it; an accepted
IntakeEnable or token-envelope write stores its value. -/
def Obligations.RequestsAndTheirObjects : Prop :=
  ∀ s : State,
    (∀ (c : Fin 16384) (d : Descriptor) (j : Job) (tokens : List W32), (getCtx s.m c.val).desc = some d → s.m.job = some j →
      (getCtx s.m c.val).fetching = true → tokens.length = d.promptLen → (∀ t ∈ tokens, t.toNat < j.image.stageMap.vocab) →
      Yields s (.promptFetchComplete c tokens) fun n =>
        let bytes := tokens.flatMap fun t => leBytes 4 t.toNat
        (∃ a, getCtx n c.val = { getCtx s.m c.val with fetching := false, prompt := tokens, promptAt := a } ∧
          (bytes.length ≤ hbmEnd - firmwareBase → firmwareBase ≤ a ∧ a + bytes.length ≤ hbmEnd) ∧
          hbmBytes n a bytes.length = bytes ∧
          (∀ y, y < a ∨ a + bytes.length ≤ y → hbmByte n y = hbmByte s.m y)) ∧
        (∀ e, e ≠ c.val → getCtx n e = getCtx s.m e) ∧ n.sram = s.m.sram ∧ n.threads = s.m.threads ∧ n.now = s.m.now) ∧
    (∀ (c : Fin 16384) (d : Descriptor) (j : Job) (tokens : List W32), (getCtx s.m c.val).desc = some d → s.m.job = some j →
      (getCtx s.m c.val).fetching = true → tokens.length = d.promptLen → (∃ t ∈ tokens, j.image.stageMap.vocab ≤ t.toNat) →
      Yields s (.promptFetchComplete c tokens) fun n => n = endStatus (count s.m 0x6180 2 1) c.val 6 0 false ∧ EngineKept s.m n) ∧
    (∀ c : Fin 16384, endWritten s.m c.val = true → Yields s (.endRecordSent c) fun n => getCtx n c.val = {} ∧
      (∀ e, e ≠ c.val → getCtx n e = getCtx s.m e) ∧ EngineKept s.m n) ∧
    (∀ (v : Via) (f : Fin 16) (bytes : List Byte), checkWrite s.m v (0x3110 + f.val) 1 bytes none none = none →
      Yields s (.intakeEnableWrite v f bytes) fun n => odGet n (0x3110 + f.val) 1 = leNat bytes ∧ EngineKept s.m n ∧
        .odResult v 0 0 [] ∈ n.out) ∧
    (∀ (v : Via) (bytes : List Byte), checkWrite s.m v 0x3101 1 bytes none none = none →
      Yields s (.tokenEnvelopeWrite v bytes) fun n => odGet n 0x3101 1 = leNat bytes ∧ EngineKept s.m n ∧
        .odResult v 0 0 [] ∈ n.out)

/-! ## Serving (R284–R325) -/

/-- CONTEXT_ADMIT of the first queued request of priority 1 or 2 that finds its pages: PREFILL, with the lowest free pages
reserved, and its first prompt ids on their way to stage 0. ENTRY_LIST_FIX fixes the entry list of its beat once. -/
def Obligations.RequestsAreAdmitted : Prop :=
  ∀ (s : State) (j : Job), s.m.job = some j →
    (∀ (c : Fin 16384) (d : Descriptor), (getCtx s.m c.val).desc = some d → (getCtx s.m c.val).state = .queued →
      (getCtx s.m c.val).fetching = false → s.m.mode = .running → holdsQueued s.m = false → firstQueued s.m c.val = true →
      adapterHot s.m d = true → pagesFor j.image d ≤ freePages s.m j.image → d.priority ≠ 0 →
      Yields s (.contextAdmit c) fun n =>
        n = feedPrompt (setCtx s.m c.val { getCtx s.m c.val with
          state := .prefill, pages := (freePageList s.m j.image).take (pagesFor j.image d), entered := 0, planned := 0,
          committed := 0, lastEntry := none, plannedAt := none, readySince := upcomingBeat s.m }) j c.val ∧
        (getCtx n c.val).state = .prefill ∧ (getCtx n c.val).pages.length = pagesFor j.image d ∧
        (∀ e, e ≠ c.val → getCtx n e = getCtx s.m e) ∧ n.sram = s.m.sram ∧ n.hbm = s.m.hbm ∧ n.threads = s.m.threads ∧
        n.rows = s.m.rows ∧ n.now = s.m.now) ∧
    (∀ k : Nat, beatsRun s.m = true → upcomingBeat s.m ≤ k → (∀ l, s.m.lastEntryFix = some l → l < k) →
      Yields s (.entryListFix k) fun n => n.lastEntryFix = some k ∧ n.mode = s.m.mode ∧ n.sram = s.m.sram ∧ n.hbm = s.m.hbm ∧
        n.threads = s.m.threads ∧ n.rows = s.m.rows ∧ n.now = s.m.now)

/-- A context's way through its pauses: a settled PAUSING one is PAUSED without pages and its negative stands in HBM, a RESUMING one
decodes again, or raises 0x503 where an uncorrectable error hits its negative, and a DECODE one of priority 2 starts its pause when
its time has passed, in the lowest place of the negative region with room. Tails of token rings and step rings: a value within the records
written becomes the known tail, another one is a protocol error of the host. DRAIN_TIMEOUT ends what is still live when the
time has passed. -/
def Obligations.ContextsPauseAndRingsArePolled : Prop :=
  (∀ (s : State) (c : Fin 16384) (j : Job), s.m.job = some j →
     let x := getCtx s.m c.val
     let place := j.image.mem.negativeBase + x.negativeAt
     (x.state = .pausing → settled s.m c.val = true → stackStops s.m place (negativeSize s.m j x.committed) = false →
       Yields s (.negativeWriteComplete c) fun n =>
         let bytes := (saveNegative s.m j x).1
         getCtx n c.val = { x with
           state := .paused, pages := [], negative := some bytes.length, negativeStored := storesKv s.m j
           lastEntry := none, plannedAt := none } ∧
         hbmBytes n place bytes.length = bytes ∧
         (∀ y, y < place ∨ place + bytes.length ≤ y → hbmByte n y = hbmByte s.m y) ∧
         (∀ e, e ≠ c.val → getCtx n e = getCtx s.m e) ∧ n.sram = s.m.sram ∧ n.threads = s.m.threads ∧ n.now = s.m.now) ∧
     (x.state = .resuming → stackStops s.m place (x.negative.getD 0) = false → ∀ hit : Option Nat,
       ((∀ o, hit = some o → x.negative.getD 0 ≤ o) → Yields s (.negativeRestoreComplete ⟨c, hit⟩) fun n =>
         (getCtx n c.val).state = .decode ∧ (getCtx n c.val).negative = none ∧ (getCtx n c.val).resumedMark = true ∧
         (getCtx n c.val).pages = x.pages ∧ (∀ e, e ≠ c.val → getCtx n e = getCtx s.m e) ∧
         n.sram = (restoreNegative j x.negativeStored x (hbmBytes s.m place (x.negative.getD 0))
           (serveHbm s.m place (x.negative.getD 0))).sram ∧ n.hbm = s.m.hbm ∧ n.threads = s.m.threads ∧ n.now = s.m.now) ∧
       (∀ o, hit = some o → o < x.negative.getD 0 → Yields s (.negativeRestoreComplete ⟨c, hit⟩) fun n =>
         getCtx n c.val = { x with negativeHit := true } ∧ (∃ f, n.raised = s.m.raised ++ [f] ∧ f.code = 0x503 ∧
         f.detail = BitVec.ofNat 64 (place + o)) ∧ n.hbm = s.m.hbm ∧ n.threads = s.m.threads ∧ n.now = s.m.now))) ∧
  (∀ (s : State) (c : Fin 16384) (d : Descriptor) (j : Job) (at_ : Nat), (getCtx s.m c.val).desc = some d →
     (getCtx s.m c.val).state = .decode → d.priority = 2 → mayPause s.m = true → beatsRun s.m = true →
     let due := tuAt s.m (instantAt s.m (getCtx s.m c.val).readySince + 1000 * odGet s.m 0x3100 5)
     let a := advance s.m due
     let x := getCtx a c.val
     let size := negativeSize a j (x.committed + (flyingOf a c.val).foldl (fun n p => n + p.count) 0)
     a.job = some j → x.state = .decode → negativeRoom a j size = some at_ →
     Yields s (.pauseAfterExpiry c) fun n =>
       getCtx n c.val = { x with state := .pausing, negative := some size, negativeAt := at_, pauseHeld := false } ∧
       n.now = max s.m.now due ∧ ∀ e, e ≠ c.val → getCtx n e = getCtx a e) ∧
  (∀ s : State,
     (∀ (c : Fin 16384) (d : Descriptor) (tail : W64), (getCtx s.m c.val).desc = some d → (getCtx s.m c.val).tailRead = true →
       (getCtx s.m c.val).knownTail ≤ tail.toNat → tail.toNat ≤ (getCtx s.m c.val).ringRecords →
       Yields s (.tailReadComplete c tail) fun n => (getCtx n c.val).knownTail = tail.toNat ∧ EngineKept s.m n) ∧
     (∀ (f : Fin 16) (tail : W64), (getFn s.m f.val).stepTailRead = true →
       (((getFn s.m f.val).stepKnown ≤ tail.toNat ∧ tail.toNat ≤ (getFn s.m f.val).stepEntries) →
         Yields s (.stepTailReadComplete f tail) fun n => (getFn n f.val).stepKnown = tail.toNat ∧ EngineKept s.m n) ∧
       (tail.toNat < (getFn s.m f.val).stepKnown → Yields s (.stepTailReadComplete f tail) fun n =>
         n = count (setFn s.m f.val { getFn s.m f.val with stepTailRead := false }) 0x6180 13 1)) ∧
     (s.m.mode = .draining → odGet s.m 0x3140 7 ≠ 0 → Yields s .drainTimeout fun n =>
       n.now = max s.m.now (s.m.drainSince + odGet s.m 0x3140 7 * 217000000) ∧ n.mode = .draining ∧ n.hbm = s.m.hbm))

/-- Adapters: an accepted install reads its container, an intact container is installed with its rank and length and stands in its
slot of HBM, one that is not good ends with result 3, an accepted remove of an adapter that no request names deletes it, and an
adapter copied into the lowest free place of the hot region is hot. -/
def Obligations.AdaptersComeAndGo : Prop :=
  ∀ s : State,
    (∀ (v : Via) (bytes : List Byte), adapterCheck s.m v bytes = none → field bytes 2 2 ≤ 4095 →
      (field bytes 0 1 = 1 → (getAdapter s.m (field bytes 2 2)).installed = false →
        Yields s (.adapterInstall v bytes) fun n =>
          n.adapterWait = s.m.adapterWait ++ [(field bytes 2 2, field bytes 16 8, s.m.now)] ∧
          n.out = s.m.out ++ (hostParts (128 * 2 ^ s.m.port.readCode) (field bytes 16 8) (field bytes 8 8) (field bytes 16 8)).map
            (fun p => .hostRead 0 p.1 p.2) ∧ n.adapters = s.m.adapters ∧ EngineKept s.m n) ∧
      (field bytes 0 1 = 2 → adapterNamed s.m (field bytes 2 2) = false → Yields s (.adapterRemove v bytes) fun n =>
        getAdapter n (field bytes 2 2) = {} ∧ odGet n 0x3130 2 = 0 ∧
        (∀ k, k ≠ field bytes 2 2 → getAdapter n k = getAdapter s.m k) ∧ EngineKept s.m n)) ∧
    (∀ (id len issued : Nat) (rest : List (Nat × Nat × Nat)) (bytes : List Byte) (j : Job),
      s.m.adapterWait = (id, len, issued) :: rest → bytes.length = len → s.m.job = some j →
      (containerOk { s.m with adapterWait := rest } bytes = true →
        Yields s (.adapterContainerRead bytes) fun n => n.adapterWait = rest ∧ odGet n 0x3130 2 = 0 ∧
          getAdapter n id = { installed := true, rank := field bytes 16 2, bytes := field bytes 24 8 } ∧
          (∀ k, k ≠ id → getAdapter n k = getAdapter s.m k) ∧
          let k := 64 + field bytes 24 8
          hbmBytes n (adapterAddr j id) k = bytes.take k ∧
          (∀ y, y < adapterAddr j id ∨ adapterAddr j id + k ≤ y → hbmByte n y = hbmByte s.m y) ∧
          n.sram = s.m.sram ∧ n.threads = s.m.threads ∧ n.now = s.m.now) ∧
      (containerOk { s.m with adapterWait := rest } bytes = false →
        Yields s (.adapterContainerRead bytes) fun n => n.adapterWait = rest ∧ odGet n 0x3130 2 = 3 ∧
          n.adapters = s.m.adapters ∧ EngineKept s.m n)) ∧
    (∀ (id slot : Nat) (j : Job), s.m.job = some j → (getAdapter s.m id).installed = true → (getAdapter s.m id).hot = false →
      slot < 256 → (∀ e ∈ s.m.adapters, e.2.hot = true → e.2.hotSlot ≠ slot) →
      (∀ k, k < slot → ∃ e ∈ s.m.adapters, e.2.hot = true ∧ e.2.hotSlot = k) →
      Yields s (.adapterHotCopyComplete id) fun n =>
        getAdapter n id = { getAdapter s.m id with hot := true, lastUse := s.m.now, hotSlot := slot } ∧
        (∀ k, k ≠ id → getAdapter n k = getAdapter s.m k) ∧
        (∀ h r, j.image.mem.hot = [h] → placeRow j h.place = some r →
          Stored s.m n (sramOf r false (h.base + h.bytes * slot)) (hbmBytes s.m (adapterAddr j id + 64 + h.first) h.bytes)) ∧
        n.hbm = s.m.hbm ∧ n.threads = s.m.threads ∧ n.now = s.m.now)

/-! ## Weight replacement and streamed plans (R335, R339–R346) -/

/-- An accepted ReplaceCommand: methods 1, 2 and 3 put the replacement into CHECKING with the image, ABANDON of one not yet
announced ends it; each answers as R425 says. -/
def Obligations.ReplacementsBegin : Prop :=
  ∀ (s : State) (v : Via) (bytes : List Byte) (img : Image) (j : Job), replaceCheck s.m v bytes = none → s.m.mode = .running →
    s.m.job = some j →
    let start := fun k n => (∃ r, n.repl = some r ∧ r.method = k ∧ r.image = img ∧ r.length = field bytes 16 8) ∧
      odGet n 0x3140 2 = 1 ∧ n.answers = s.m.answers ++ [⟨v, objKey 0x3140 1, none⟩] ∧ n.job = s.m.job ∧ EngineKept s.m n
    let free := odGet s.m 0x3140 2 = 0 ∧ ¬ (field bytes 1 1 = 1 ∧ odGet s.m 0x5400 1 = 0)
    (free → field bytes 0 1 = 1 → methodRefused s.m 1 = none → Yields s (.replaceFixNow v bytes img) (start 1)) ∧
    (free → field bytes 0 1 = 2 → methodRefused s.m 2 = none → Yields s (.replaceFixAfterDrain v bytes img) (start 2)) ∧
    (free → field bytes 0 1 = 3 → methodRefused s.m 3 = none → Yields s (.replaceInPlace v bytes img) (start 3)) ∧
    (field bytes 0 1 = 0 → 1 ≤ odGet s.m 0x3140 2 → odGet s.m 0x3140 2 < 5 → Yields s (.replaceAbandon v bytes) fun n =>
      n = answer (giveFirst (abandonRepl s.m) (objKey 0x3140 1) (loadRefused 0x0707)) v none 0 ∧ n.hbm = s.m.hbm ∧
        n.threads = s.m.threads)

/-- The way of a replacement through its states: the checked image is BUILDING or refused, the latent banks are built, the drain
ends, and the exchange is announced, the fix only with every latent bank complete and stripped (R104); the records of an IN_PLACE
image stand in its buffer, and it is rewritten while the beats are paused. -/
def Obligations.ReplacementsGoOn : Prop :=
  ∀ (s : State) (r : Replacement) (j : Job), s.m.repl = some r → s.m.job = some j →
    let st := odGet s.m 0x3140 2
    (st = 1 → Yields s .replaceCheckComplete fun n => n.job = s.m.job ∧
      (replaceFault s.m j r = none → odGet n 0x3140 2 = 2 ∧
        ∃ q, n.repl = some q ∧ q.method = r.method ∧ q.image = r.image ∧ q.buffered = decide (r.method ≤ 2)) ∧
      (∀ code detail, replaceFault s.m j r = some (code, detail) →
        odGet n 0x3140 2 = 0 ∧ n.repl = none ∧ odGet n 0x3140 3 = code)) ∧
    (st = 2 → r.method ≤ 2 → r.buffered = true → multiModule s.m = false →
      (r.method ≠ 2 → latentReady (setReplState (buildLatent s.m) 3) = true) → Yields s .latentBuildComplete fun n =>
      odGet n 0x3140 2 = (if r.method = 2 then 4 else 5) ∧ n.hbm = s.m.hbm) ∧
    (st = 4 → (∀ e ∈ s.m.ctxs, e.2.state = .free ∨ e.2.state = .queued) → announces s.m = true →
      (r.compatible = true → latentReady s.m = true) →
      Yields s .replaceDrainComplete fun n => odGet n 0x3140 2 = 5 ∧ EngineKept s.m n ∧ ∃ q, n.repl = some q ∧
        (r.compatible = true → q.fixAt = some (htcNow s.m + announceLead s.m)) ∧
        (r.compatible = false → q.pauseAt = some (firstAnnounceable s.m))) ∧
    (st = 2 → r.method = 3 → multiModule s.m = false → Yields s .replaceBufferComplete fun n => odGet n 0x3140 2 = 5 ∧
      (∃ q, n.repl = some q ∧ q.buffered = true ∧
        q.pauseAt = some (firstAnnounceable { fillBuffer s.m j r.image with repl := some { r with buffered := true } })) ∧
      (∀ e ∈ r.image.weights.zipIdx, hbmBytes n (bufferBase j + 139264 * e.2) 139264 =
        (List.range 139264).map (recordByte (entryBank e.1 (odGet s.m 0x3140 8 + 1)))) ∧
      n.sram = s.m.sram ∧ n.threads = s.m.threads ∧ n.rows = s.m.rows ∧ n.now = s.m.now) ∧
    (st = 6 → r.firstBeat = none → Yields s .inplaceRewriteComplete fun n =>
      (∃ q, n.repl = some q ∧ q.firstBeat = r.pauseAt ∧ q.method = r.method) ∧ n.hbm = s.m.hbm)

/-- A streamed plan: at its check before a boundary, beats go on where the latent banks are ready and are paused at the boundary
where they are not; once they are ready the pause ends and counts. -/
def Obligations.StreamedPlans : Prop :=
  ∀ (s : State) (j : Job), s.m.job = some j →
    (∀ at_ : Nat, j.image.mem.bankUse = .streamed → j.image.mem.bankPeriod ≠ 0 → beatsRun s.m = true → j.planHeld = none →
      multiModule s.m = false →
      let b := nextBoundary s.m j.image.mem
      at_ = instantAt s.m b - max (4 * periodAt s.m b) 10000 → htcNow s.m ≤ at_ →
      let m := advance s.m (tuAt s.m at_)
      (latentReady m = true → Yields s .streamReadinessCheck fun n => n = m) ∧
      (latentReady m = false → Yields s .streamReadinessCheck fun n => (∃ k, n.job = some k ∧ k.planHeld = some b ∧
        b ≤ k.announcedTo) ∧ n.now = m.now ∧ n.hbm = s.m.hbm)) ∧
    (∀ b : Nat, j.planHeld = some b → (jobDuneState s.m).pausedFrom = some b → (jobDuneState s.m).beat = none →
      Yields s .streamReady fun n => (∃ k, n.job = some k ∧ k.planHeld = none) ∧
        odGet n 0x6190 4 = odGet s.m 0x6190 4 + 1 ∧ n.threads = s.m.threads ∧ n.hbm = s.m.hbm)

/-! ## Links (R353–R361, R365–R374, R542) -/

/-- Lanes: one that trains becomes live, one that is dropped leaves rotation at the instant, one that has been clean for 1 s
returns; the cable contact switches the supply, and unmating loses every lane. No other bundle changes. -/
def Obligations.LanesComeAndGo : Prop :=
  ∀ (s : State) (b : Fin 8) (k : Fin 24),
    let x := getBundle s.m b.val
    let bit : BitVec 24 := BitVec.ofNat 24 (2 ^ k.val)
    let P := fun n => ∀ e, e ≠ b.val → getBundle n e = getBundle s.m e
    (x.live.getLsbD k.val = true → Yields s (.laneDrop b k) fun n => P n ∧ EngineKept s.m n ∧
      (getBundle n b.val).live = x.live &&& ~~~bit ∧ (getBundle n b.val).trained = x.trained &&& ~~~bit ∧
      sget 0 (getBundle n b.val).dropped k.val = s.m.now + 1) ∧
    (bundleRuns s.m b.val = true → sget 0 x.dropped k.val = 0 → Yields s (.laneTrainingComplete b k) fun n => P n ∧
      EngineKept s.m n ∧ (getBundle n b.val).live = x.live ||| bit ∧ (getBundle n b.val).trained = x.trained ||| bit ∧
      (getBundle n b.val).dropped = x.dropped) ∧
    (∀ t : Nat, bundleRuns s.m b.val = true → sget 0 x.dropped k.val = t + 1 →
      let a := advance s.m (t + 217000000000)
      Yields s (.laneRejoin b k) fun n => (∀ e, e ≠ b.val → getBundle n e = getBundle a e) ∧
        (getBundle n b.val).live = (getBundle a b.val).live ||| bit ∧ sget 0 (getBundle n b.val).dropped k.val = 0 ∧
        n.now = max s.m.now (t + 217000000000) ∧ n.hbm = s.m.hbm) ∧
    (Yields s (.cablePresent b true) fun n => P n ∧ EngineKept s.m n ∧ getBundle n b.val =
      { x with cable := true, supply := powered s.m && sget 0 s.m.power.efuse (240 + b.val) == 0 }) ∧
    (x.cable = true → Yields s (.cablePresent b false) fun n => P n ∧ EngineKept s.m n ∧
      (getBundle n b.val).cable = false ∧ (getBundle n b.val).supply = false ∧ (getBundle n b.val).live = 0)

/-- Frames as a bundle that runs takes them, where no injection is armed: a sound HELLO decides the bundle's state, a DATA
frame ahead of its turn is held and one in turn of a TC0 slot enters the data mesh toward its row, an ACK frees the frames
up to the one it names, a TIME frame leaves the peer's state, and a CTRL frame of the job not seen before is broadcast. A frame of
an unknown type counts in KlProtocolErrors and is discarded. -/
def Obligations.FramesAreTaken : Prop :=
  ∀ (s : State) (b : Fin 8) (f : List Byte), bundleRuns s.m b.val = true → s.m.injections = [] →
    let x := getBundle s.m b.val
    let sound := fun (type len : Nat) => protocolError s.m b.val f = false ∧ frameType f = type ∧ f.length = len ∧
      frameCrcOk f = true
    let P := fun n => EngineKept s.m n ∧ ∀ e, e ≠ b.val → getBundle n e = getBundle s.m e
    (protocolError s.m b.val f = true →
      let Q := fun n => n = count s.m (bundleObj b.val) 5 1
      Yields s (.klProtocolError b f) Q ∧ Yields s (.hello b f) Q ∧ Yields s (.data b f) Q ∧ Yields s (.ack b f) Q ∧
        Yields s (.time b f) Q ∧ Yields s (.ctrl b f) Q) ∧
    (sound 4 32 → x.state = .training → Yields s (.hello b f) fun n => P n ∧
      odGet n (bundleObj b.val) 3 = field f 2 2 ∧ (getBundle n b.val).peerVersion = min (field f 5 1) 1 ∧
      (getBundle n b.val).state = (if helloAgrees s.m b.val f then
        if liveLanes s.m b.val = 24 then .up else .degraded else .mismatch)) ∧
    (sound 1 288 → bundleUp s.m b.val = true →
      let c := field f 1 1 % 4
      let cl := getClass x c
      let ahead := (field f 2 2 + 65536 - cl.rxNext) % 65536
      cl.reordered = [] →
      (1 ≤ ahead → ahead ≤ 16 → cl.rxHeld = [] → Yields s (.data b f) fun n => P n ∧
        (getClass (getBundle n b.val) c).rxHeld = [(field f 2 2, f)] ∧
        (getClass (getBundle n b.val) c).rxNext = cl.rxNext ∧ n.out = s.m.out) ∧
      (∀ (j : Job) (e : Slot) (r : RowId) (buf : Bool) (off : Nat), s.m.job = some j → c = 0 → ahead = 0 → cl.rxHeld = [] →
        j.image.slots[field f 26 2]? = some e → field f 8 4 = j.id.toNat → slotFits b.val f e = true →
        0 < e.length → (getSlot s.m (field f 26 2)).deadlines ≤ (getSlot s.m (field f 26 2)).taken / e.length →
        sramAddr (w64 (relocateAddr j.map (field f 12 8))) = some (r, buf, off) →
        Yields s (.data b f) fun n => (getClass (getBundle n b.val) 0).rxNext = (cl.rxNext + 1) % 65536 ∧
          (getSlot n (field f 26 2)).taken = (getSlot s.m (field f 26 2)).taken + 64 * field f 25 1 ∧
          (∃ p, n.packets = s.m.packets ++ [p] ∧ p.bytes = (f.drop 28).take (64 * field f 25 1) ∧ p.viaLink = true ∧
            p.target = w64 (relocateAddr j.map (field f 12 8)) ∧ p.slot = some (field f 26 2) ∧ p.cls = 0) ∧
          n.sram = s.m.sram ∧ n.hbm = s.m.hbm ∧ n.threads = s.m.threads ∧
          ∀ e, e ≠ b.val → getBundle n e = getBundle s.m e)) ∧
    (sound 2 32 → bundleUp s.m b.val = true → field f 6 1 % 8 ≤ 4 → field f 1 1 % 2 = 0 → Yields s (.ack b f) fun n => P n ∧
      n.out = s.m.out ∧ (getClass (getBundle n b.val) (field f 6 1 % 8)).unacked =
        (getClass x (field f 6 1 % 8)).unacked.filter fun e => (e.1 + 65536 - (field f 4 2 + 1) % 65536) % 65536 < 32768) ∧
    (sound 3 32 → bundleUp s.m b.val = true → Yields s (.time b f) fun n => P n ∧
      (getBundle n b.val).peerRoot = timeState (field f 1 1 % 4) ∧ (getBundle n b.val).peerDepth = field f 1 1 / 4 ∧
      (getBundle n b.val).peerRootModule = BitVec.ofNat 16 (field f 2 2) ∧ (getBundle n b.val).timeHeard = true ∧
      (getBundle n b.val).timeAt = s.m.now ∧ (getBundle n b.val).state = x.state) ∧
    (sound 5 32 → bundleUp s.m b.val = true → ∀ j : Job, s.m.job = some j → field f 8 4 = j.id.toNat →
      (field f 2 2, field f 4 4) ∉ s.m.ctrlSeen → msgType (ctrlMessage f) = 6 → followsAnnouncement s.m = false →
      Yields s (.ctrl b f) fun n => EngineKept s.m n ∧ n.ctrlSeen = s.m.ctrlSeen ++ [(field f 2 2, field f 4 4)] ∧
        .mesh (ctrlMessage f) ∈ n.out ∧
        (getClass (getBundle n b.val) ctrlClass).rxNext = ((getClass x ctrlClass).rxNext + 1) % 65536)

/-- What a bundle does by its own timers: a frame that is not acknowledged counts in KlRetries and goes out again on a lane whose frame
slot comes, a gap that is not filled asks for a replay, a TIME frame waits for the lowest live lane, and at its time a slot's
bytes are asked of their row, or its deadline finds it complete or missed. A frame handed to a bundle goes at once or waits. -/
def Obligations.BundleTimersAndSlots : Prop :=
  ∀ (s : State) (b : Fin 8), bundleUp s.m b.val = true → s.m.injections = [] →
    let x := getBundle s.m b.val
    let Q := fun a n => EngineKept a n ∧ ∀ e, e ≠ b.val → getBundle n e = getBundle a e
    let handed := fun (n : Mach) (rank : Nat) (f : List Byte) =>
      (∃ k, .kl b.val k (relane f k) ∈ n.out) ∨ ({ rank, bytes := f } : KlWait) ∈ (getBundle n b.val).waiting
    (∀ (c : Fin 5) (seq lane tries : Nat) (bytes : List Byte) (pre post : List (Nat × Nat × Nat × List Byte)),
      ((getClass x c.val).unacked.any fun e => e.1 == seq) = true →
      let a := advance s.m (sget 0 (getClass x c.val).sentAt seq + 217000)
      let x := getBundle a b.val
      a.injections = [] → (getClass x c.val).unacked = pre ++ (seq, lane, tries, bytes) :: post →
      (∀ o ∈ pre ++ post, o.1 ≠ seq) → tries < 8 → x.waiting = [] → x.live ≠ 0 →
      let w : KlWait := { rank := classRank c.val, cls := some c.val, seq, again := true, bytes }
      let y := setClass x c.val { getClass x c.val with unacked := pre ++ (seq, lane, tries + 1, bytes) :: post }
      (∀ k, nextLaneFor { y with waiting := [w] } a.now a.now = some k → Yields s (.replayTimeout b c seq) fun n =>
        n.out = a.out ++ [.kl b.val k (relane bytes k)] ∧
        odGet n (bundleObj b.val) 4 = odGet a (bundleObj b.val) 4 + 1 ∧ (getBundle n b.val).waiting = [] ∧
        (getClass (getBundle n b.val) c.val).unacked = pre ++ (seq, k, tries + 1, relane bytes k) :: post ∧ Q a n) ∧
      (nextLaneFor { y with waiting := [w] } a.now a.now = none → Yields s (.replayTimeout b c seq) fun n =>
        n.out = a.out ∧ odGet n (bundleObj b.val) 4 = odGet a (bundleObj b.val) 4 + 1 ∧
        getBundle n b.val = { y with waiting := [w] } ∧ Q a n)) ∧
    (∀ c : Fin 5, (getClass x c.val).rxHeld ≠ [] →
      let a := advance s.m (gapSince s.m (getClass x c.val) + 43400)
      Yields s (.reorderGapTimeout b c) fun n => (getClass (getBundle n b.val) c.val).rxHeld = [] ∧
        (∃ f, handed n 2 f ∧ f.length = 32 ∧ frameType f = 2 ∧ field f 1 1 = 1 ∧ field f 6 1 = c.val) ∧ Q a n) ∧
    (bundleRuns s.m b.val = true → Yields s (.timeFrameDue b) fun n =>
      (∃ f, handed n 1 f ∧ f.length = 32 ∧ frameType f = 3 ∧
        field f 4 8 = (htcNow s.m * 65536 + s.m.now % 217 * 65536 / 217) % 2 ^ 64) ∧ Q s.m n) ∧
    (∀ (i : Nat) (j : Job) (e : Slot) (l : Nat), s.m.job = some j → j.image.slots[i]? = some e → beatsRun s.m = true →
      j.lastStarted = some l →
      let y := getSlot s.m i
      (∀ (r : RowId) (buf : Bool) (off : Nat), e.send = true → e.bundle = b → j.slotBase + y.sent ≤ l →
        sramAddr (w64 (relocateAddr j.map e.source.toNat)) = some (r, buf, off) →
        let a := advance s.m (tuAt s.m (startOf s.m (j.slotBase + y.sent) + e.start))
        a.injections = [] →
        Yields s (.slotSendStart i) fun n => (getSlot n i).sent = y.sent + 1 ∧ n.now = a.now ∧
          (∃ p, n.packets = a.packets ++ [p] ∧ p.cargo = .slotAsk i ∧ p.cls = 0 ∧
            p.target = w64 (relocateAddr j.map e.source.toNat)) ∧
          n.sram = a.sram ∧ n.hbm = s.m.hbm ∧ n.threads = a.threads ∧ (∀ q, q ≠ i → getSlot n q = getSlot a q) ∧
          n.bundles = a.bundles) ∧
      (e.send = false → j.slotBase + y.deadlines ≤ l → 0 < e.length →
        let m := advance s.m (tuAt s.m (startOf s.m (j.slotBase + y.deadlines) + e.deadline))
        let y := getSlot m i
        Yields s (.slotDeadline i) fun n => (getSlot n i).deadlines = y.deadlines + 1 ∧ n.now = m.now ∧ n.hbm = s.m.hbm ∧
          (y.deadlines < y.written / e.length → n = setSlot m i { y with deadlines := y.deadlines + 1 }) ∧
          (y.written / e.length ≤ y.deadlines → ∃ q, n.raised = m.raised ++ [q] ∧ q.code = 0x0401 ∧
            q.detail = BitVec.ofNat 64 i)))

/-! ## Hall time, T0, injection (R363, R373–R380) -/

/-- The module root: without a source for 2 s it is FREE, a holdover beyond 10 ms posts its event outside a job, and a PTP
master of the set domain seeds a free root. Reports of loads are noted, T0 starts a loaded job, and an accepted injection is armed. -/
def Obligations.HallTimeAndInjection : Prop :=
  ∀ s : State,
    (islandRuns s.m rootIsland = true → (getRoot s.m).time = .acquire ∨ (getRoot s.m).time = .holdover →
      Yields s .rootSourceTimeout fun n => (getRoot n).time = .free ∧ n.timeParent = none ∧ n.ptpHeard = false ∧
        n.now = max s.m.now ((getRoot s.m).exchanged + 2 * 217000000000) ∧ odGet n 0x5300 5 = 0xFFFF ∧
        odGet n 0x5300 6 = 0 ∧ n.htcOffset = s.m.htcOffset ∧ n.hbm = s.m.hbm) ∧
    (islandRuns s.m rootIsland = true → (getRoot s.m).time = .holdover → s.m.job = none →
      Yields s .rootHoldoverLimit fun n => n.now = max s.m.now ((getRoot s.m).holdSince + 10 * 217000000 + 1) ∧
        (∃ e, n.events.getLast? = some e ∧ e.code = 0x8008) ∧ getRoot n = getRoot s.m ∧ n.hbm = s.m.hbm) ∧
    (∀ obs : PtpObs, islandRuns s.m .mgmt = true → obs.domain = odGet s.m 0x5300 2 → hallRoot s.m = false →
      (getRoot s.m).time = .free → beatsRun s.m = false → s.m.mode ≠ .restarting → Yields s (.ptpMessage obs) fun n =>
        n.ptpHeard = true ∧ (getRoot n).time = .acquire ∧ (getRoot n).exchanged = s.m.now ∧ EngineKept s.m n ∧
        n.htcOffset = s.m.htcOffset + (((obs.ptpTime : Int) - (odGet s.m 0x5300 3 : Int)) - (htcNow s.m : Int))) ∧
    (∀ (j : Job) (i : Nat), s.m.job = some j → s.m.mode = .loading → i < j.image.modules → j.loaded = false →
      Yields s (.loadCompleteReport i) fun n => (∃ k, n.job = some k ∧ i ∈ k.reports ∧ k.startAt = j.startAt) ∧
        EngineKept s.m n) ∧
    (∀ (j : Job) (t0 : Nat), s.m.job = some j → s.m.restart = none → s.m.mode = .loading → j.loaded = true →
      1 < j.image.modules → htcNow s.m + 100000 ≤ t0 → Yields s (.jobStartT0 t0) fun n => n.mode = .running ∧
        n.now = max s.m.now (tuAt s.m t0) ∧ n.hbm = s.m.hbm) ∧
    (∀ (v : Via) (data : List Byte), injectCheck s.m v data = none → natBits (leNat data) 87 80 = 2 →
      Yields s (.faultInject v data) fun n =>
        n.injections = s.m.injections ++ [⟨BitVec.ofNat 256 (leNat data), natBits (leNat data) 191 160⟩] ∧
        n.sec.injectSeen = true ∧ n.out = s.m.out ++ [.odResult v 0 0 []] ∧ EngineKept s.m n)

/-! ## The host port (R386–R402) -/

/-- A function that is reset, disabled, put into D3hot, or loses its link or its VF Enable serves no more: its slots, held
records and live contexts are gone, and the other functions are as they were. One that is enabled again serves. The stager and a
bifurcation write leave what R387 and R388 say. -/
def Obligations.FunctionsStopAndStart : Prop :=
  ∀ (s : State) (f : Fin 16),
    let gone := fun n => (getFn n f.val).up = false ∧ (getFn n f.val).armed = 0 ∧ (getFn n f.val).taken = [] ∧
      (getFn n f.val).stepHeld = [] ∧ (∀ c, (getCtx s.m c).fn = f.val → (getCtx n c).state = .free) ∧
      (∀ g, g ≠ f.val → getFn n g = getFn s.m g) ∧ n.sram = s.m.sram ∧ n.hbm = s.m.hbm ∧ n.threads = s.m.threads ∧
      n.mode = s.m.mode
    let unset := fun n => (getFn n f.val).mask = 0xFF ∧ (getFn n f.val).pba = 0 ∧ (getFn n f.val).lastMsix = []
    let all := fun n => (∀ g, g < 16 → (getFn n g).up = false ∧ (getFn n g).mask = 0xFF ∧ (getFn n g).pba = 0) ∧
      (∀ o, o < 65536 → bar0Byte n (0x30000 + o) = 0) ∧ n.sram = s.m.sram ∧ n.hbm = s.m.hbm ∧ n.threads = s.m.threads ∧
      n.mode = s.m.mode
    ((getFn s.m f.val).up = true →
      Yields s (.busMasterDisable f) gone ∧ Yields s (.d3hotEntry f) gone ∧
      (f ≠ 0 → Yields s (.vfEnableClear f) fun n => gone n ∧ unset n) ∧
      (f ≠ 0 → portUp s.m = true → Yields s (.functionLevelReset f) fun n => gone n ∧ unset n)) ∧
    (portUp s.m = true → Yields s (.functionLevelReset 0) all) ∧
    (powered s.m = true → Yields s .linkDown fun n => all n ∧ n.port.linkUp = false) ∧
    (powered s.m = true → (getFn s.m f.val).up = false → Yields s (.functionReenable f) fun n =>
      (getFn n f.val).up = true ∧ n.port.linkUp = true ∧ (∀ g, g ≠ f.val → getFn n g = getFn s.m g) ∧ EngineKept s.m n) ∧
    (∀ dev : StagerDevice, powered s.m = true → odGet s.m 0x5400 1 = 1 → Yields s (.stagerEnumeration dev) fun n =>
      let good := dev.present && dev.headerOk && decide (2 ^ 36 ≤ dev.barBytes)
      n.port.stagerBar = (if good then dev.barBytes else 0) ∧
      odGet n 0x5401 3 = (if good then 2 else if dev.present then 3 else 0) ∧ EngineKept s.m n) ∧
    (∀ (v : Via) (data : List Byte), checkWrite s.m v 0x5400 1 data none none = none →
      Yields s (.pcieBifurcationWrite v data) fun n =>
        n = { s.m with nvQueue := s.m.nvQueue ++ [{ via := v, items := [(objKey 0x5400 1, leNat data)] }] })

/-- Reads and writes of the BARs: what a write leaves byte by byte and bit by bit, and what a read answers. -/
def Obligations.HostRegisters : Prop :=
  ∀ (s : State) (f : Fin 16), portUp s.m = true →
    (∀ (o : Fin 8) (data : List Byte), Yields s (.eventCauseWrite f o data) fun n => (∀ k, k < 64 →
      (getFn n f.val).cause.getLsbD k = ((getFn s.m f.val).cause.getLsbD k && !(decide (o.val ≤ k / 8) &&
        decide (k / 8 < o.val + data.length) && (data.getD (k / 8 - o.val) 0).getLsbD (k % 8)))) ∧
      (∀ g, g ≠ f.val → getFn n g = getFn s.m g) ∧ EngineKept s.m n) ∧
    (∀ (k : Nat) (data : List Byte), 8 ≤ data.length → field data 0 8 = 0x01E000000000 + k * 2 ^ 32 →
      (k < 24 → Yields s (.apertureBaseWrite 0 data) fun n =>
        n = { s.m with port := { s.m.port with apertureBase := 0x01E000000000 + k * 2 ^ 32 } }) ∧
      (24 ≤ k → Yields s (.apertureBaseWrite 0 data) fun n => n = s.m)) ∧
    (∀ (i : Nat) (h : 16 * i < 65536) (data : List Byte), data.length = 16 →
      let v := leNat data
      Yields s (.windowTableWrite ⟨16 * i, h⟩ data) fun n =>
        windowEntry n i = (if natBits v 63 36 ≠ 0 ∨ natBits v 7 2 ≠ 0 ∨ natBits v 75 64 ≠ 0 then v / 2 * 2 else v) ∧
        (∀ o, (o < 0x30000 + 16 * i ∨ 0x30000 + 16 * i + 16 ≤ o) → bar0Byte n o = bar0Byte s.m o) ∧ EngineKept s.m n) ∧
    (let t := copyHtc s.m (islandState s.m .pcie).copy
     Yields s (.htcNowRead f false 8) (fun n => n = emit s.m (.completion (some (leBytes 8 t)))) ∧
     Yields s (.htcNowRead f false 4) fun n => n.port.htcLatch = BitVec.ofNat 32 (t / 2 ^ 32) ∧
      n.out = s.m.out ++ [.completion (some (leBytes 4 t))] ∧ EngineKept s.m n) ∧
    (Yields s (.htcNowRead f true 4) fun n =>
      n = emit s.m (.completion (some (leBytes 4 s.m.port.htcLatch.toNat)))) ∧
    (∀ (o : BitVec 32) (k : Nat), s.m.sheetWriting = none → Yields s (.bar2Read o k) fun n => EngineKept s.m n ∧
      (odGet s.m 0x5400 4 = 0 → n.out = s.m.out ++ [.completion none]) ∧
      (odGet s.m 0x5400 4 ≠ 0 → ∃ l, n.out = s.m.out ++ [.completion (some l)] ∧ l.length = k ∧
        ∀ i, i < k → l.getD i 0 = hbmByte s.m (s.m.port.apertureBase + o.toNat + i))) ∧
    (∀ (o : BitVec 32) (data : List Byte), Yields s (.bar2Write o data) fun n => n = count s.m 0x5401 6 1) ∧
    (∀ (o : BitVec 20) (data : List Byte), 0 < data.length →
      (o.toNat + data.length ≤ 4096 → Yields s (.bar0Write f o data) fun n =>
        n = writeIntake s.m f.val o.toNat data) ∧
      (0x10000 ≤ o.toNat → o.toNat + data.length ≤ 0x30000 → Yields s (.bar0Write 0 o data) fun n =>
        (∀ i, i < data.length → bar0Byte n (o.toNat + i) = data.getD i 0) ∧
        (∀ a, (a < o.toNat ∨ o.toNat + data.length ≤ a) → bar0Byte n a = bar0Byte s.m a) ∧ EngineKept s.m n ∧
        n.fns = s.m.fns)) ∧
    (∀ (v : W32) (att : Attach), koaServes s.m = true →
      let len := v.toNat % 2 ^ 17
      (1 ≤ len → len ≤ 65536 → s.m.port.mailboxBusy = false → Yields s (.mailboxDoorbell v att) fun n =>
        n = koaMessage { s.m with port := { s.m.port with mailboxBusy := true, mailboxReady := false } } .mailbox
          ((List.range len).map fun i => bar0Byte s.m (0x10000 + i)) att) ∧
      (s.m.port.mailboxBusy = true → Yields s (.mailboxDoorbell v att) fun n => n = count s.m 0x5401 5 1))

/-- Reads that fail count, and their purpose decides: an image read is tried once more, an adapter's ends its installation, a
prompt's and a tail's end their request. Interrupts: a message held off goes out at its time, and a pending one when its vector
is unmasked. -/
def Obligations.FailedReadsAndInterrupts : Prop :=
  ∀ (s : State) (f : Fin 16) (v : Fin 8),
    let errors := fun a n => odGet n 0x5401 4 = odGet a 0x5401 4 + 1
    let late := fun r => advance s.m (readIssued s.m r + odGet s.m 0x5400 2 * 217000)
    (∀ (cmd : ReadPurpose → Instr) (base : ReadPurpose → Mach),
      (cmd = .readCompletionError ∧ base = fun _ => s.m) ∨ (cmd = .completionTimeout ∧ base = late) →
      (∀ o : Nat, let a := base (.image o)
        imageReading s.m = true → imageReading a = true → o ∉ a.imageRetries → Yields s (cmd (.image o)) fun n => errors a n ∧
        n.imageRetries = a.imageRetries ++ [o] ∧ n.job = a.job ∧ n.mode = a.mode ∧ EngineKept a n) ∧
      (∀ (e : Nat × Nat × Nat) (rest : List (Nat × Nat × Nat)), let a := base .adapter
        s.m.adapterWait ≠ [] → a.adapterWait = e :: rest → Yields s (cmd .adapter) fun n => errors a n ∧
        n.adapterWait = rest ∧ odGet n 0x3130 2 = 4 ∧ n.adapters = a.adapters ∧ EngineKept a n) ∧
      (∀ (c : Fin 16384) (d : Descriptor), let a := base (.prompt c)
        (getCtx s.m c.val).fetching = true → (getCtx a c.val).desc = some d → (getCtx a c.val).fetching = true →
        Yields s (cmd (.prompt c)) fun n => errors a n ∧
        ((getCtx n c.val).state = .ending ∨ (getCtx n c.val).state = .free) ∧ EngineKept a n)) ∧
    (∀ t : Nat, (getFn s.m f.val).heldOff.getLsbD v.val = true → sget 0 (getFn s.m f.val).lastMsix v.val = t + 1 →
      let m := advance s.m (t + odGet s.m 0x5400 3 * 217000)
      (getFn m f.val).up = true →
      Yields s (.msixHoldoffExpiry f v) fun n => n.now = m.now ∧ (getFn n f.val).heldOff.getLsbD v.val = false ∧
        ((getFn m f.val).mask.getLsbD v.val = false → n.out = m.out ++ [.msix f.val v.val]) ∧
        ((getFn m f.val).mask.getLsbD v.val = true → n.out = m.out ∧ (getFn n f.val).pba.getLsbD v.val = true) ∧
        (∀ g, g ≠ f.val → getFn n g = getFn m g) ∧ n.hbm = s.m.hbm) ∧
    (portUp s.m = true → f = 0 ∨ v.val < 4 → Yields s (.msixUnmask f v) fun n =>
      (getFn n f.val).mask.getLsbD v.val = false ∧
      (((getFn s.m f.val).up = true ∧ (getFn s.m f.val).pba.getLsbD v.val = true) →
        n.out = s.m.out ++ [.msix f.val v.val] ∧ (getFn n f.val).pba.getLsbD v.val = false) ∧
      (((getFn s.m f.val).pba.getLsbD v.val = false) → n.out = s.m.out) ∧
      (∀ g, g ≠ f.val → getFn n g = getFn s.m g) ∧ EngineKept s.m n)

/-! ## KOA and the object dictionary (R394, R409, R414–R425, R438) -/

/-- Sessions: a HELLO from a UDP port opens one, AUTH grants its privilege or ends it, CLOSE and the two timeouts end it; a
REQUEST of READs on the mailbox is answered there. A session message that does not authenticate has no effect but its count. -/
def Obligations.SessionsAndRequests : Prop :=
  ∀ (s : State) (k : Fin 2) (msg : List Byte) (att : Attach), powered s.m = true → s.m.sec.booted.getLsbD 0 = true →
    headerOk msg = true → headerReserved msg = false →
    let kind := field msg 3 1
    let seq := field msg 8 8
    let opened := fun (x : Session) =>
      Config.gcmOpen (x.c2s.take 32) (gcmNonce (x.c2s.drop 32) seq) (msg.take 32) (msg.drop 32)
    let dropped := fun n => n = count s.m 0x1100 9 1
    let ends := fun (x : Session) n => n.sessions = s.m.sessions.filter (fun y => !(y.num == x.num)) ∧ EngineKept s.m n
    (kind = 1 → field msg 4 4 = 0 → msg.length = 161 → byteAt (msg.drop 32) 0 = 4 →
      (helloFlood s.m).1 = false → s.m.sec.serving.getLsbD 0 = true →
      (s.m.sessions.filter fun y => !y.overMailbox).length < odGet s.m 0x1100 6 →
      Yields s (.koaHello (.port k) msg) fun n => EngineKept s.m n ∧
        (Config.onCurve ((msg.drop 32).take 97) = true → ∃ x reply, n.sessions = s.m.sessions ++ [x] ∧
          x.num = s.m.sec.nextSession ∧ x.priv = none ∧ x.overMailbox = false ∧ x.rxNext = 2 ∧
          n.out = s.m.out ++ [.koa k.val reply] ∧ field reply 3 1 = 2 ∧ field reply 8 8 = seq) ∧
        (Config.onCurve ((msg.drop 32).take 97) = false → n.sessions = s.m.sessions ∧
          n.out = s.m.out ++ [.koa k.val (plainMsg 9 seq (leBytes 4 0x4B060002))])) ∧
    (∀ x : Session, s.m.sessions.find? (fun y => y.num == field msg 4 4) = some x → field msg 4 4 ≠ 0 →
      msg.length ≤ 1232 →
      (kind = 3 → seq = 1 → x.priv = none → Yields s (.koaAuth (.port k) msg) fun n => match opened x with
        | none => dropped n
        | some body =>
          let granted := fun (e : KeyEntry) => body.length = 148 ∧ field body 49 3 = 0 ∧ e ∈ s.m.sec.keys ∧
            e.keyId = be384 body ∧ field body 48 1 ≤ e.level ∧ Config.ecdsaVerify (be384 body)
              (Config.sha384 (bytes384 x.hash ++ leBytes 1 (field body 48 1))) (be384 (body.drop 52)) (be384 (body.drop 100)) = true
          (∀ e, s.m.sec.keys = [e] → granted e → ∃ y ∈ n.sessions, y.num = x.num ∧ y.priv = some (field body 48 1) ∧
            y.keyId = be384 body) ∧
          (body.length ≠ 148 → ends x n ∧ n.out = s.m.out ++ [.koa k.val (plainMsg 9 seq (leBytes 4 0x4B060001))])) ∧
      (kind = 8 → x.rxNext ≤ seq → Yields s (.koaClose (.port k) msg) fun n => match opened x with
        | none => dropped n
        | some _ => ends x n ∧ n.out = s.m.out)) ∧
    (∀ ops : List Op, kind = 5 → field msg 4 4 = 0 → parseRequest (msg.drop 32) = some ops → (∀ o ∈ ops, o.op = 1) →
      let reply := plainMsg 6 seq (responseBody s.m .mailbox .mailbox ops fun _ => 0)
      Yields s (.koaRequest .mailbox msg att) fun n => n.port.mailboxBusy = false ∧ n.port.mailboxReady = true ∧
        n.port.mailboxLength = reply.length ∧ (∀ i, i < reply.length → bar0Byte n (0x20000 + i) = reply.getD i 0) ∧
        n.od = s.m.od ∧ n.sessions = s.m.sessions ∧ EngineKept s.m n) ∧
    (∀ id : Nat,
      let expires := fun (authenticated : Bool) (seconds : Nat) (n : Mach) =>
        match s.m.sessions.find? fun y => y.num == id && y.priv.isSome == authenticated with
        | none => n = s.m
        | some y =>
          let w := advance s.m (y.heard + seconds * 217000000000)
          n = { w with sessions := w.sessions.filter fun z => !(z.num == id) }
      Yields s (.sessionIdleTimeout id) (expires true 60) ∧ Yields s (.authTimeout id) (expires false 1))

/-- Objects as single operations: a READ answers the value, a WRITE that passes its checks stores it, at once or once
non-volatile storage has taken it, DESCRIBE and SUBSCRIBE answer, and inside the module OD_REQUEST, OD_RESPONSE and TELEMETRY do
what R438 says. A WRITE that fails a check answers the code and has no other effect. -/
def Obligations.ObjectsAreServed : Prop :=
  ∀ (s : State) (v : Via) (i : BitVec 16) (k : BitVec 8), powered s.m = true → s.m.sec.booted.getLsbD 0 = true →
    let plain : Bool := !ownRow (objKey i.toNat k.toNat) && match findObj i.toNat k.toNat with
      | .inl o => o.acc != 2
      | .inr _ => true
    (∀ (o : ObjInfo) (p : Nat) (test : Bool) (offset len : Nat), remoteObj i.toNat = none → inRecovery s.m = false →
      findObj i.toNat k.toNat = .inl o → o.acc ≠ 2 → rightsOf s.m v = some (p, test) → (o.acc = 0 → o.priv ≤ p) →
      (offset = 0 ∨ o.ty = 12 ∨ o.ty = 13) → Yields s (.odRead v i k offset len) fun n =>
        n = emit s.m (.odResult v 0 (objBytes s.m v o).length (((objBytes s.m v o).drop offset).take len))) ∧
    (∀ (e t offset len : Nat), remoteObj i.toNat = some e → freeTag s.m = some t →
      (readObject s.m v i.toNat k.toNat offset len).1 = 0 → Yields s (.odRead v i k offset len) fun n =>
        n.odAsked = s.m.odAsked ++ [(t, v, i.toNat, k.toNat, offset, len)] ∧
        (∃ y : MeshMsg, n.out = s.m.out ++ [.mesh y] ∧ msgType y = 8 ∧ msgDest y = stewardNode e ∧
          y.w1 = odWord 0 t i.toNat k.toNat) ∧ EngineKept s.m n) ∧
    (∀ data : List Byte, plain = true →
      (∀ code, writeCheck s.m v i.toNat k.toNat data = some code → Yields s (.odWrite v i k data) fun n =>
        n = emit s.m (.odResult v (BitVec.ofNat 32 code) 0 [])) ∧
      (writeCheck s.m v i.toNat k.toNat data = none → isNv i.toNat k.toNat = true → Yields s (.odWrite v i k data) fun n =>
        n = { s.m with nvQueue := s.m.nvQueue ++ [{ via := v, items := [(objKey i.toNat k.toNat, leNat data)] }] }) ∧
      (∀ o, writeCheck s.m v i.toNat k.toNat data = none → findObj i.toNat k.toNat = .inl o → o.nv = false →
        o.idx = i.toNat → o.sub = k.toNat → Yields s (.odWrite v i k data) fun n =>
          odGet n i.toNat k.toNat = leNat data ∧ .odResult v 0 0 [] ∈ n.out ∧ EngineKept s.m n)) ∧
    (∀ o, inRecovery s.m = false → findObj i.toNat k.toNat = .inl o → o.acc = 1 → o.len < 2 ^ 32 →
      Yields s (.odDescribe v i k) fun n => n = emit s.m (.odResult v 0 16 (leBytes 1 o.ty ++ [1] ++ leBytes 1 o.cls ++ [0] ++
        leBytes 1 o.priv ++ leBytes 1 (if o.nv then 1 else 0) ++ [0, 0] ++ leBytes 4 o.len ++ [0, 0, 0, 0]))) ∧
    (∀ (num : Nat) (mask : W64), Yields s (.odSubscribe (.session num) mask) fun n =>
      n.sessions = (s.m.sessions.map fun y => if y.num = num then { y with mask := mask } else y) ∧
      n.out = s.m.out ++ [.odResult (.session num) 0 0 []] ∧ EngineKept s.m n) ∧
    (∀ (w : NvWrite) (rest : List NvWrite), s.m.nvQueue = w :: rest → w.reply = none → w.keys = none →
      (Yields s (.nvStoreComplete false) fun n =>
        n = emit { s.m with nvQueue := rest } (.odResult w.via (BitVec.ofNat 32 nvFailure) 0 [])) ∧
      (∀ o x, w.items = [(objKey i.toNat k.toNat, x)] → findObj i.toNat k.toNat = .inl o → o.idx = i.toNat →
        o.sub = k.toNat → Yields s (.nvStoreComplete true) fun n => n.nvQueue = rest ∧ odGet n i.toNat k.toNat = x ∧
          .odResult w.via 0 0 [] ∈ n.out ∧ n.sram = s.m.sram ∧ n.hbm = s.m.hbm ∧ n.threads = s.m.threads)) ∧
    (∀ data : List Byte, writeCheck s.m v 0x1100 10 data = none → Yields s (.restoreDefaults v data) fun n =>
      n = { s.m with nvQueue := s.m.nvQueue ++ [{ via := v, items := restoreItems s.m, command := true }] }) ∧
    (∀ (e : Fin 4) (x : MeshMsg) (o : ObjInfo), Addressed s.m (stewardNode e.val) 8 x →
      x.w1 = odWord 0 (natBits x.w1.toNat 29 24) i.toNat k.toNat → 0x8000 ≤ i.toNat → i.toNat < 0x8C00 →
      i.toNat / 64 % 4 = e.val → findObj i.toNat k.toNat = .inl o → (objBytesWith s.m .mailbox [] o).length ≤ 8 →
      Yields s (.odRequest e x) fun n => ∃ y : MeshMsg, n = postMesh (hears s.m (stewardNode e.val) x) y ∧ msgType y = 9 ∧
        msgDest y = msgSource x ∧ y.w1 = x.w1 ∧
        y.w2.toNat + 2 ^ 32 * y.w3.toNat = leNat (objBytesWith s.m .mailbox [] o)) ∧
    (∀ (x : MeshMsg) (t a b : Nat) (u : Via), Addressed s.m (stewardNode 0) 9 x →
      s.m.odAsked = [(t, u, i.toNat, k.toNat, a, b)] → x.w1 = odWord 1 t i.toNat k.toNat → t < 64 →
      Yields s (.odResponse x) fun n => n = emit { hears s.m (stewardNode 0) x with odAsked := [] } (.odResult u x.w2 0 [])) ∧
    (∀ (d : DuneId) (x : MeshMsg), Addressed s.m (stewardNode d.erg.val) 10 x → msgSource x = duneNode d →
      Yields s (.telemetry x) fun n => (getDune n d).telemetry = x.w1 ∧ (∀ e, e ≠ d → getDune n e = getDune s.m e) ∧
        EngineKept s.m n)

/-! ## Power, heat and coolant (R439–R473, R524, R534, R547) -/

/-- Power: PWR_EN and the feeds bring the module to POWERING and to OFF, where only what is non-volatile stays; a feed that is
isolated leaves the load to the other; converters and e-fuses fail one at a time as R443 to R446 say; the second pulse counts. THERM_TRIP_N
falls only where PWR_EN has been low for 1 s. -/
def Obligations.PowerComesAndGoes : Prop :=
  ∀ s : State,
    let p := s.m.power
    let off := fun n => n.mode = .off ∧ n.job = none ∧ n.sessions = [] ∧ n.sram = [] ∧ n.hbm = [] ∧ n.threads = [] ∧
      n.retirement = s.m.retirement ∧ n.flashThumb = s.m.flashThumb ∧ n.now = s.m.now ∧ htcNow n = 0
    (∀ (lowUs : Nat) (slot : BitVec 6), p.pwrEn = false → s.m.mode = .off → p.feeds ≠ 0 → p.dead = false →
      Yields s (.pwrEnAssert lowUs slot) fun n => n.mode = .powering ∧ n.power.pwrEn = true ∧ n.power.slotId = slot ∧
        n.power.thermTrip = (p.thermTrip && decide (n.now < p.lowSince + 217000000000)) ∧ n.power.dunesUp = true ∧
        n.now = max s.m.now (p.lowSince + 217000 * lowUs) ∧ htcNow n = 0 ∧ odGet n 0x4000 7 = 0xFFF ∧ powered n = true ∧
        EngineKept (leaveBask { s.m with now := n.now }) n) ∧
    (p.pwrEn = true → s.m.mode ≠ .off → Yields s .pwrEnDeassert fun n => off n ∧ n.power.pwrEn = false ∧
      n.power.lowSince = s.m.now ∧ n.power.feeds = p.feeds) ∧
    (s.m.mode ≠ .off → Yields s .feedsLost fun n => off n ∧ n.power.feeds = 0) ∧
    (∀ b : Bool, powered s.m = true → p.feeds = 3 → Yields s (.feedIsolate b) fun n => n.power.feeds = (if b then 1 else 2) ∧
      n.mode = s.m.mode ∧ odGet n 0x4000 8 = odGet s.m 0x4000 8 + 1 ∧ (∃ e, n.events.getLast? = some e ∧ e.code = 0x8004) ∧
      EngineKept s.m n) ∧
    (∀ b : Bool, s.m.mode ≠ .off → p.feeds = (if b then 1 else 2) → Yields s (.feedRejoin b) fun n =>
      n = { s.m with power := { p with feeds := 3 } }) ∧
    (∀ k : Fin 12, powered s.m = true → odGet s.m 0x4000 7 / 2 ^ k.val % 2 = 1 → Yields s (.converterFailure k) fun n =>
      odGet n 0x4000 7 = odGet s.m 0x4000 7 - 2 ^ k.val ∧ (∃ e, n.events.getLast? = some e ∧ e.code = 0x8005) ∧
      EngineKept s.m n ∧ (odGet s.m 0x4000 7 = 0xFFF → n.raised = s.m.raised)) ∧
    (∀ d : Domain, powered s.m = true → sget 0 p.efuse (domainKey d) = 0 →
      let open_ := fun n => sget 0 n.power.efuse (domainKey d) ≠ 0 ∧ n.hbm = s.m.hbm ∧ n.now = s.m.now
      Yields s (.efuseTrip d) fun n => open_ n ∧ match d with
        | .dune e => (getDune s.m e).power = .usable →
          (jobHas s.m e = false → s.m.job = none → (getDune n e).power = .off ∧ n.raised = s.m.raised ∧ n.sram = s.m.sram) ∧
          (jobHas s.m e = true → (getDune n e).power = .off ∧ ∃ x, n.raised = s.m.raised ++ [x] ∧ x.code = 0x0601 ∧
            x.erg = e.erg.val ∧ x.dune = e.num.val)
        | .hbm k => n.sram = s.m.sram ∧ ∃ x, n.raised = s.m.raised ++ [x] ∧ x.code = 0x0703 ∧ x.erg = k.val / 8
        | .bundle k => (getBundle n k.val).live = 0 ∧ (getBundle n k.val).supply = false ∧ EngineKept s.m n
        | .edge e => if e = 0 then n.power.dead = true ∧ n.power.faultN = true ∧ n.port.linkUp = false
            else n.sram = s.m.sram ∧ ∃ x, n.raised = s.m.raised ++ [x] ∧ x.code = 0x0704 ∧ x.erg = e.val) ∧
    (powered s.m = true → s.m.mode ≠ .powering → rootState s.m ≠ .acquire → Yields s .ppsSecond fun n =>
      n.power.pps = p.pps + 1 ∧ n.now = max s.m.now (tuAt s.m ((htcNow s.m / 1000000000 + 1) * 1000000000)) ∧
      n.hbm = s.m.hbm)

/-- Heat and coolant: a sample leaves its readings and a healthy spot's effective temperature, the two expiries, at the end of
their intervals, step the wanted λ up and down, a module still cold after 600 s of bask reports it, HBM bands follow the stack, scrub hits count, and the trips stop the module as R456 and R464 to R466 say. -/
def Obligations.HeatAndCoolant : Prop :=
  ∀ s : State, powered s.m = true →
    let step := s.m.power.stepAt + odGet s.m 0x4100 3 * 217000000
    let relax := s.m.power.relaxAt + odGet s.m 0x4100 4 * 217000000
    (∀ (o : SensorObs) (r : SpotReading), o.spots = [r] → r.spot < 2364 → failsNow (getSpot s.m r.spot) r = (false, false) →
      (r.first - r.second).natAbs ≤ 64 → Yields s (.sensorSample o) fun n => (getSpot n r.spot).eff = r.first + r.second ∧
        (∀ k, k ≠ r.spot → getSpot n k = getSpot s.m k) ∧ n.power.samples = s.m.power.samples + 1 ∧
        odGet n 0x4000 5 = o.inputPower ∧ odGet n 0x4200 1 = f32Of o.inlet 4 ∧ odGet n 0x4200 3 = f32Milli o.flow ∧
        n.hbm = s.m.hbm ∧ n.now = s.m.now) ∧
    (odGet s.m 0x4100 1 ≠ 0 → let a := advance s.m step
      (a.power.stepBase < hottestNow a + 16 → odGet a 0x4100 2 < 8 → Yields s .lengthenStepExpiry fun n =>
        odGet n 0x4100 2 = odGet a 0x4100 2 + 1 ∧ n.power.stepBase = hottestNow a ∧ n.power.stepAt = step ∧ EngineKept a n) ∧
      (hottestNow a + 16 ≤ a.power.stepBase → Yields s .lengthenStepExpiry fun n =>
        n = { a with power := { a.power with stepBase := hottestNow a, stepAt := step } })) ∧
    (odGet s.m 0x4100 1 = 0 → s.m.power.powerLengthening = false → let a := advance s.m relax
      0 < odGet a 0x4100 2 → Yields s .lengthenRelaxExpiry fun n =>
        odGet n 0x4100 2 = odGet a 0x4100 2 - 1 ∧ n.power.relaxAt = relax ∧ EngineKept a n) ∧
    (Yields s .comparatorTrip fun n => n.mode = .thermalHalt ∧ n.power.thermTrip = true ∧ n.power.dunesUp = false ∧
      n.job = none ∧ n.hbm = [] ∧ (∀ b, b < 8 → (getBundle n b).live = 0) ∧ n.retirement = s.m.retirement) ∧
    (s.m.mode = .running → Yields s .flowStop fun n => n.mode = .thermalHalt ∧ odGet n 0x4200 5 = 3 ∧
      odGet n 0x4200 7 = odGet s.m 0x4200 7 + 1 ∧ n.sheetWriting = some 1 ∧ n.sram = s.m.sram ∧ n.hbm = s.m.hbm ∧
      ∀ d, (getDune n d).frozen = true) ∧
    (s.m.mode = .thermalHalt → odGet s.m 0x4200 5 = 3 → Yields s .edgeFieldHot fun n => n.power.dead = true ∧ n.hbm = [] ∧
      n.flashThumb.isSome = true ∧ n.port.linkUp = false ∧ n.job = none ∧ ∀ b, b < 8 → (getBundle n b).live = 0) ∧
    (∀ (k : Fin 32) (c : Nat), Yields s (.hbmStackTemperature k c) fun n =>
      sget 0 n.power.hbmBand k.val = hbmBandOf (sget 0 s.m.power.hbmBand k.val) c ∧
      (∀ j, j ≠ k.val → sget 0 n.power.hbmBand j = sget 0 s.m.power.hbmBand j) ∧ EngineKept s.m n ∧
      (115 ≤ c → sget 0 s.m.power.hbmBand k.val < 115 → s.m.job ≠ none →
        ∃ x, n.raised = s.m.raised ++ [x] ∧ x.code = 0x0505 ∧ x.erg = k.val / 8) ∧
      (c < 115 → n.raised = s.m.raised)) ∧
    (s.m.mode = .standby → odGet s.m 0x4300 3 = 1 → odGet s.m 0x4100 1 = 0 → (∃ e ∈ s.m.dunes, e.2.basking = true) →
      (∃ d, duneIsOff s.m (duneKey d) = false ∧ (getDune s.m d).tj < 16 * odGet s.m 0x4300 4) →
      Yields s .baskShortfallTimeout fun n => n = odSet (advance s.m (s.m.baskSince + 600 * 217000000000)) 0x4300 6 1) ∧
    (∀ (k : Fin 32) (hits : List ScrubHit), Yields s (.hbmScrub k hits) fun n =>
      odGet n 0x6020 6 = odGet s.m 0x6020 6 + (hits.filter (·.corrected)).length ∧
      odGet n 0x6020 7 = odGet s.m 0x6020 7 + (hits.filter fun h => !h.corrected).length ∧ EngineKept s.m n)

/-! ## Faults, sheets, restarts (R475–R494, R531) -/

/-- Faults: one that reaches the steward outside a job is recorded and counts, in a running job it starts a restart, and of
module severity it starts a sheet; FREEZE stops a dune once; a restart whose work is done goes on from its anchor; sheets
complete; provocations are armed and performed. -/
def Obligations.FaultsAndSheets : Prop :=
  ∀ s : State, powered s.m = true →
    (∀ rec : FaultRec, 1 ≤ rec.severity → rec.code ≠ 0x0103 → overtakes s.m (stewardNode 0) (faultMessage rec) = false →
      (rec.severity ≤ 2 → s.m.mode = .standby → s.m.restart = none → Yields s (.fault rec) fun n =>
        odGet n 0x6010 1 = faultRecord rec ∧ odGet n 0x6010 2 = odGet s.m 0x6010 2 + 1 ∧ n.mode = .standby ∧
        n.raised = s.m.raised.erase rec ∧ EngineKept s.m n) ∧
      (rec.severity ≤ 2 → ∀ j, s.m.job = some j → s.m.mode = .running → s.m.restart = none → s.m.restartTimes = [] →
        1 ≤ odGet s.m 0x6000 2 → Yields s (.fault rec) fun n => n.mode = .restarting ∧ odGet n 0x6010 1 = faultRecord rec ∧
          (∃ r, n.restart = some r ∧ r.from_ = .running ∧ r.severity = rec.severity ∧ r.began = s.m.now) ∧
          n.restartTimes = [s.m.now]) ∧
      (rec.severity = 3 → s.m.mode = .standby → Yields s (.fault rec) fun n => n.mode = .dumping ∧
        odGet n 0x6010 1 = faultRecord rec ∧ odGet n 0x6010 5 = odGet s.m 0x6010 5 + 1 ∧ n.restart = none ∧ n.repl = none ∧
        n.sheetWriting.isSome = true ∧ EngineKept (leaveBask s.m) n)) ∧
    (∀ (d : DuneId) (x : MeshMsg), Addressed s.m (duneNode d) 5 x →
      ((getDune s.m d).frozen = false → Yields s (.freeze d x) fun n => (getDune n d).frozen = true ∧
        (∀ e, e ≠ d → getDune n e = getDune s.m e) ∧ (∀ k : Fin 96, (getRow n ⟨d, k⟩).firing = none) ∧
        ((s.m.rows.map (·.1)).Nodup → ∀ r : RowId, r.dune ≠ d → getRow n r = getRow s.m r) ∧
        n = { hears s.m (duneNode d) x with dunes := n.dunes, rows := n.rows }) ∧
      ((getDune s.m d).frozen = true → Yields s (.freeze d x) fun n => n = hears s.m (duneNode d) x)) ∧
    (∀ (r : Restart) (j : Job) (w : Mach) (rounds : List (List SiteTrial)),
      let a := finishStepTwo s.m
      a.restart = some r → a.job = some j → r.from_ = .running → r.ended = true → restartWaits a j = false →
      multiModule a = false → restartWork (finishRewrite a j (restartBeat a)) j (restartBeat a) rounds = (w, false) →
      multiModule w = false → w.draining = false → w.unloading = false → Yields s (.restartAnchor rounds) fun n =>
        n.mode = .running ∧ n.restart = none ∧ n.job = w.job.map (fun k => { k with
          faultBeat := none, faultNext := none, lastStarted := if restartBeat a = 0 then none else some (restartBeat a - 1),
          nextClose := restartBeat a, sampledTo := restartBeat a, clampedBeats := [], starts := [],
          unloadAt := none, slotBase := restartBeat a, announcedTo := 0, levelAnnounced := odGet w 0x4100 2,
          planHeld := none, startAt := none })) ∧
    (∀ e : Fin 4, e ≠ 0 → Yields s (.stewardTimeout e) fun n => EngineKept s.m n ∧
      ∃ x, n.raised = s.m.raised ++ [x] ∧ x.code = 0x070A ∧ x.erg = e.val) ∧
    (∀ k : Nat, s.m.sheetWriting = some k → s.m.mode ≠ .dumping → s.m.mode ≠ .thermalHalt →
      (Yields s (.contactSheetComplete false) fun n => n.sheetWriting = none ∧
        (if k = 3 then n.thumbnail.isSome = true else n.sheet.isSome = true) ∧
        (odGet s.m 0x6030 1 = 1 → k ≠ 3 → odGet n 0x6030 1 = 2) ∧ (∃ e, n.events.getLast? = some e ∧ e.code = 0x800B) ∧
        EngineKept s.m n) ∧
      (k ≠ 3 → Yields s (.contactSheetComplete true) fun n => n.sheetWriting = some 3 ∧ n.sheet.isSome = true ∧
        odGet n 0x6030 1 = 3 ∧ EngineKept s.m n)) ∧
    (∀ (v : Via) (data : List Byte), reinitCheck s.m v data = none → Yields s (.reinit v data) fun n => n.mode = .powering ∧
      n.power.dunesUp = true ∧ odGet n 0x4200 5 = 0 ∧ .odResult v 0 0 [] ∈ n.out ∧ EngineKept (leaveBask s.m) n) ∧
    (∀ (v : Via) (data : List Byte), provokeCheck s.m v data = none → natBits (leNat data) 79 72 ≤ 4 →
      Yields s (.faultProvoke v data) fun n => n.provocations = s.m.provocations ++ [⟨BitVec.ofNat 256 (leNat data), 1⟩] ∧
        n.sec.injectSeen = true ∧ n.out = s.m.out ++ [.odResult v 0 0 []] ∧ EngineKept s.m n) ∧
    (∀ a : Armed, s.m.provocations = [a] → armedBits a 79 72 = 5 → Yields s .provocationArmed fun n => n.provocations = [] ∧
      n.now = max s.m.now (tuAt s.m (armedBits a 255 192)) ∧ (∃ x, n.raised.getLast? = some x ∧ x.code = 0x0F01 ∧
        x.severity = faultSeverity (armedBits a 127 112) ∧ x.detail = BitVec.ofNat 64 (armedBits a 127 112)) ∧
      n.hbm = s.m.hbm)

/-! ## Keys, attestation, boot and firmware (R500–R518, R525–R536) -/

/-- Commands of security: each that passes its checks does what its rule says, and otherwise answers its code and nothing
else; key tables and VendorAccess wait for non-volatile storage. A failed health test stops the element. -/
def Obligations.KeysAndAttestation : Prop :=
  ∀ (s : State) (v : Via) (data : List Byte),
    let refused := fun (check : Option Nat) n => ∀ c, check = some c → n = emit s.m (.odResult v (BitVec.ofNat 32 c) 0 [])
    let stores := fun (w : NvWrite) n => n = { s.m with nvQueue := s.m.nvQueue ++ [w] }
    let done := fun n => n.out = s.m.out ++ [.odResult v 0 0 []] ∧ EngineKept s.m n
    (field data 0 1 = 1 → Yields s (.keyEnroll v data) fun n => refused (keyCheck s.m v data) n ∧
      (keyCheck s.m v data = none → stores { via := v, items := [], command := true,
                                             keys := some (comingKeys s.m ++ [commandKey data]) } n)) ∧
    (field data 0 1 = 2 → Yields s (.keyRemove v data) fun n => refused (keyCheck s.m v data) n ∧
      (keyCheck s.m v data = none → ∃ ks, stores { via := v, items := [], command := true, keys := some ks } n ∧
        ∀ x, x ∈ ks ↔ x ∈ comingKeys s.m ∧ x.keyId ≠ commandKeyId data)) ∧
    (Yields s (.ownerRelease v data) fun n => refused (checkWrite s.m v 0x7100 5 data none none) n ∧
      (checkWrite s.m v 0x7100 5 data none none = none → ∃ w, stores w n ∧ w.keys = some [] ∧ w.via = v ∧
        (objKey 0x3010 2, 0) ∈ w.items ∧ (objKey 0x7100 4, 0) ∈ w.items)) ∧
    (Yields s (.vendorAccessWrite v data) fun n => refused (checkWrite s.m v 0x7100 4 data none none) n ∧
      (checkWrite s.m v 0x7100 4 data none none = none →
        stores { via := v, items := [(objKey 0x7100 4, leNat data)] } n)) ∧
    (Yields s (.antiRollbackCommit v data) fun n => refused (rollbackCheck s.m v data) n ∧
      (rollbackCheck s.m v data = none → done n ∧ odGet n 0x7010 (leNat data + 1) =
        max (odGet s.m 0x7010 (leNat data + 1)) (min (runningSecurity s.m (leNat data)) 64))) ∧
    (Yields s (.rootRevoke v data) fun n => refused (revokeCheck s.m v data) n ∧
      (revokeCheck s.m v data = none → done n ∧ odGet n 0x7000 6 = odGet s.m 0x7000 6 ||| 2 ^ field data 0 1)) ∧
    (Yields s (.attestNonce v data) fun n => refused (checkWrite s.m v 0x7030 1 data none none) n ∧
      (checkWrite s.m v 0x7030 1 data none none = none → done n ∧ (v = .mailbox → n.sec.evidence0.length = 640 ∧
        n.sec.evidence0.take 8 = asciiBytes "KE8EVIDN" ∧ (n.sec.evidence0.drop 16).take 32 = padTo 32 data))) ∧
    (∀ e : Fin 4, powered s.m = true → Yields s (.healthTestFailure e) fun n => EngineKept s.m n ∧
      n.sec.serving.getLsbD e.val = false ∧ (∀ k, k ≠ e.val → n.sec.serving.getLsbD k = s.m.sec.serving.getLsbD k) ∧
      ∃ x, n.raised = s.m.raised ++ [x] ∧ x.code = 0x070A ∧ x.erg = e.val)

/-- Boot and firmware: a boot ROM starts the first copy that passes its checks, POWERING and SELFTEST end as R525 to R527 say,
and an update installs, synchronises, and restarts what it replaced. -/
def Obligations.BootAndFirmware : Prop :=
  ∀ s : State, powered s.m = true →
    (∀ (e : Fin 4) (c : FlashCopy) (b : Bool), s.m.mode = .powering → s.m.sec.booted.getLsbD e.val = false →
      bootCopy s.m e.val = some (c, b) → Yields s (.bootRomCheck e) fun n => n.sec.booted.getLsbD e.val = true ∧
        sget none n.sec.running e.val = some c ∧ natBits (odGet n 0x7040 3) e.val e.val = (if b then 1 else 0) ∧
        n.mode = .powering ∧ EngineKept s.m n) ∧
    (s.m.mode = .powering → s.m.sec.booted = 15 → Yields s .poweringComplete fun n => n.mode = .selftest ∧
      n.moduleKey = Config.freeWord s.m.fresh ∧ EngineKept (leaveBask s.m) n) ∧
    (s.m.mode = .selftest → warmed s.m = true → Yields s (.selftestComplete []) fun n => n.mode = .standby ∧ n.sram = [] ∧
      n.hbm = [] ∧ n.rows = [] ∧ n.threads = [] ∧ odGet n 0x6040 2 = 0 ∧ n.retirement = s.m.retirement ∧
      (∃ x, n.selftest = some x ∧ x.extended = s.m.warming.isSome) ∧ n.warming = none) ∧
    (∀ (v : Via) (data : List Byte) (p : Package), firmwareCheck s.m v data = none →
      (field data 0 1 = 1 → Yields s (.firmwareInstall v data p) fun n =>
        let r := packageResult s.m (field data 1 1) p
        n.sram = s.m.sram ∧ n.threads = s.m.threads ∧ n.now = s.m.now ∧ (∃ a, hbmBytes n a p.file.length = p.file) ∧
        (r = 0 → n.mode = .update ∧ n.sec.install = some p ∧
          n.answers = s.m.answers ++ [⟨v, objKey 0x7040 1, none⟩]) ∧
        (r ≠ 0 → odGet n 0x7040 2 = r ∧ n.sec.install = s.m.sec.install ∧ .odResult v 0 0 [] ∈ n.out)) ∧
      (field data 0 1 = 2 → s.m.sec.booted.getLsbD 0 = true → Yields s (.firmwareSync v data) fun n => n.mode = .standby ∧
        odGet n 0x7040 2 = 0 ∧ (∀ k ∈ (if field data 1 1 = 0 then [0, 1, 2, 3] else [4]),
          sget (some .factory) n.sec.copyB k = sget (some .factory) s.m.sec.copyA k) ∧ n.sec.copyA = s.m.sec.copyA ∧
        EngineKept (leaveBask s.m) n)) ∧
    (∀ p : Package, s.m.sec.install = some p → s.m.mode = .update →
      let ks := if p.imageType = 0 then [0, 1, 2, 3] else [4]
      let kept := fun n => n.sram = s.m.sram ∧ n.hbm = s.m.hbm ∧ n.threads = s.m.threads ∧ n.now = s.m.now
      (Yields s (.firmwareWriteComplete true) fun n => n.sec.install = none ∧ odGet n 0x7040 2 = 0 ∧ kept n ∧
        (∀ k ∈ ks, sget (some .factory) n.sec.copyA k = some (.written p)) ∧
        (p.imageType = 0 → n.mode = .powering ∧ n.sec.booted = 0 ∧ n.sessions = [])) ∧
      (Yields s (.firmwareWriteComplete false) fun n => n.sec.install = none ∧ odGet n 0x7040 2 = 4 ∧ kept n ∧
        (∀ k ∈ ks, sget (some .factory) n.sec.copyA k = none)))
end

