-- ==== Sys2Proof/Laws/Sparse.lean ====
section
/-! SUPPORT. Laws of sparse maps and byte memory: what a read gives after a write, and that every operation keeps the one
canonical form. -/

namespace Sys2Proof.Machine

variable {α : Type}

/-! ## Reads after writes -/

theorem sget_sput_same (d : α) (m : SMap α) (k : Nat) (v : α) : sget d (sput m k v) k = v := by
  induction m with
  | nil => simp [sput, sget]
  | cons e rest ih =>
    obtain ⟨j, w⟩ := e
    simp only [sput]
    split
    · simp [sget]
    · split
      · simp [sget]
      · simp_all [sget]

theorem sget_sput_ne (d : α) (m : SMap α) {k i : Nat} (v : α) (h : i ≠ k) : sget d (sput m k v) i = sget d m i := by
  induction m with
  | nil => simp [sput, sget, h.symm]
  | cons e rest ih =>
    obtain ⟨j, w⟩ := e
    simp only [sput]
    split
    · simp_all [sget, h.symm]
    · split
      · simp [sget, h.symm]
      · simp [sget, ih]

theorem sget_drop_same (d : α) (m : SMap α) (k : Nat) : sget d (m.filter fun e => e.1 != k) k = d := by
  induction m with
  | nil => rfl
  | cons e rest ih =>
    obtain ⟨j, w⟩ := e
    by_cases hj : j = k
    · simp [hj, ih]
    · simp [hj, sget, ih]

theorem sget_drop_ne (d : α) (m : SMap α) {k i : Nat} (h : i ≠ k) :
    sget d (m.filter fun e => e.1 != k) i = sget d m i := by
  induction m with
  | nil => rfl
  | cons e rest ih =>
    obtain ⟨j, w⟩ := e
    by_cases hj : j = k
    · have : j ≠ i := fun hi => h (hi ▸ hj)
      simp_all [sget]
    · simp [hj, sget, ih]

variable [DecidableEq α]

@[simp] theorem sget_sset_same (d : α) (m : SMap α) (k : Nat) (v : α) : sget d (sset d m k v) k = v := by
  unfold sset
  split
  · next h => rw [sget_drop_same, h]
  · exact sget_sput_same d m k v

@[simp] theorem sget_sset_ne (d : α) (m : SMap α) {k i : Nat} (v : α) (h : i ≠ k) :
    sget d (sset d m k v) i = sget d m i := by
  unfold sset
  split
  · exact sget_drop_ne d m h
  · exact sget_sput_ne d m v h

theorem sget_sset (d : α) (m : SMap α) (k i : Nat) (v : α) :
    sget d (sset d m k v) i = if i = k then v else sget d m i := by
  split
  · next h => subst h; simp
  · next h => simp [h]

@[simp] theorem sget_supd_same (d : α) (m : SMap α) (k : Nat) (f : α → α) :
    sget d (supd d m k f) k = f (sget d m k) := by simp [supd]

@[simp] theorem sget_supd_ne (d : α) (m : SMap α) {k i : Nat} (f : α → α) (h : i ≠ k) :
    sget d (supd d m k f) i = sget d m i := by simp [supd, h]

/-! ## The canonical form -/

theorem canonFrom_mono {d : α} {m : SMap α} : ∀ {lo lo' : Nat}, lo' ≤ lo → canonFrom d lo m = true → canonFrom d lo' m = true := by
  intro lo lo' hle h
  cases m with
  | nil => rfl
  | cons e rest =>
    simp only [canonFrom, Bool.and_eq_true, decide_eq_true_eq] at h ⊢
    exact ⟨⟨Nat.le_trans hle h.1.1, h.1.2⟩, h.2⟩

theorem canonFrom_filter {d : α} {m : SMap α} (p : Nat × α → Bool) :
    ∀ {lo : Nat}, canonFrom d lo m = true → canonFrom d lo (m.filter p) = true := by
  induction m with
  | nil => intro lo _; rfl
  | cons e rest ih =>
    intro lo h
    simp only [canonFrom, Bool.and_eq_true, decide_eq_true_eq] at h
    rw [List.filter_cons]
    split
    · simp only [canonFrom, Bool.and_eq_true, decide_eq_true_eq]
      exact ⟨h.1, ih h.2⟩
    · exact canonFrom_mono (by omega) (ih h.2)

theorem canonFrom_sput {d : α} {m : SMap α} {k : Nat} {v : α} (hv : v ≠ d) :
    ∀ {lo : Nat}, lo ≤ k → canonFrom d lo m = true → canonFrom d lo (sput m k v) = true := by
  induction m with
  | nil => intro lo hk _; simp [sput, canonFrom, hk, hv]
  | cons e rest ih =>
    intro lo hk h
    simp only [canonFrom, Bool.and_eq_true, decide_eq_true_eq] at h
    simp only [sput]
    split
    · next hj => subst hj; simp [canonFrom, hk, hv, h.2]
    · split
      · simp only [canonFrom, Bool.and_eq_true, decide_eq_true_eq]
        exact ⟨⟨hk, hv⟩, ⟨by omega, h.1.2⟩, h.2⟩
      · simp only [canonFrom, Bool.and_eq_true, decide_eq_true_eq]
        exact ⟨h.1, ih (by omega) h.2⟩

theorem canon_sset {d : α} {m : SMap α} (k : Nat) (v : α) (h : canon d m = true) : canon d (sset d m k v) = true := by
  unfold canon sset at *
  split
  · exact canonFrom_filter _ h
  · next hv => exact canonFrom_sput hv (Nat.zero_le _) h

theorem canon_filter {d : α} {m : SMap α} (p : Nat × α → Bool) (h : canon d m = true) : canon d (m.filter p) = true :=
  canonFrom_filter p h

theorem canonFrom_smap {d : α} {m : SMap α} (f : Nat → α → α) :
    ∀ {lo : Nat}, canonFrom d lo m = true → canonFrom d lo (smap d m f) = true := by
  induction m with
  | nil => intro lo _; rfl
  | cons e rest ih =>
    intro lo h
    simp only [canonFrom, Bool.and_eq_true, decide_eq_true_eq] at h
    unfold smap at ih ⊢
    rw [List.filterMap_cons]
    split
    · exact canonFrom_mono (by omega) (ih h.2)
    · next y hy =>
      split at hy
      · cases hy
      · cases hy
        simp only [canonFrom, Bool.and_eq_true, decide_eq_true_eq]
        exact ⟨⟨h.1.1, by assumption⟩, ih h.2⟩

theorem canon_smap {d : α} {m : SMap α} (f : Nat → α → α) (h : canon d m = true) : canon d (smap d m f) = true :=
  canonFrom_smap f h

/-- A canonical map reads its default below its lowest key. -/
theorem sget_below {d : α} {m : SMap α} : ∀ {lo k : Nat}, canonFrom d lo m = true → k < lo → sget d m k = d := by
  induction m with
  | nil => intro lo k _ _; rfl
  | cons e rest ih =>
    intro lo k h hk
    simp only [canonFrom, Bool.and_eq_true, decide_eq_true_eq] at h
    have hne : e.1 ≠ k := by omega
    show (if e.1 = k then e.2 else sget d rest k) = d
    rw [if_neg hne]
    exact ih h.2 (by omega)

/-- Canonical maps that read alike are the same data. -/
theorem canonFrom_ext {d : α} : ∀ {m n : SMap α} {lo : Nat}, canonFrom d lo m = true → canonFrom d lo n = true →
    (∀ k, sget d m k = sget d n k) → m = n := by
  intro m
  induction m with
  | nil =>
    intro n lo _ hn he
    cases n with
    | nil => rfl
    | cons e rest =>
      simp only [canonFrom, Bool.and_eq_true, decide_eq_true_eq] at hn
      have := he e.1
      simp [sget] at this
      exact absurd this.symm hn.1.2
  | cons e rest ih =>
    intro n lo hm hn he
    have hm0 := hm
    simp only [canonFrom, Bool.and_eq_true, decide_eq_true_eq] at hm
    cases n with
    | nil =>
      have := he e.1
      simp [sget] at this
      exact absurd this hm.1.2
    | cons f rest' =>
      have hn0 := hn
      simp only [canonFrom, Bool.and_eq_true, decide_eq_true_eq] at hn
      have key : e.1 = f.1 := by
        rcases Nat.lt_trichotomy e.1 f.1 with h | h | h
        · have h1 : sget d (f :: rest') e.1 = d :=
            sget_below (lo := e.1 + 1) (by simp only [canonFrom, Bool.and_eq_true, decide_eq_true_eq]; exact ⟨⟨by omega, hn.1.2⟩, hn.2⟩) (by omega)
          have h2 := he e.1
          rw [h1] at h2
          simp [sget] at h2
          exact absurd h2 hm.1.2
        · exact h
        · have h1 : sget d (e :: rest) f.1 = d :=
            sget_below (lo := f.1 + 1) (by simp only [canonFrom, Bool.and_eq_true, decide_eq_true_eq]; exact ⟨⟨by omega, hm.1.2⟩, hm.2⟩) (by omega)
          have h2 := he f.1
          rw [h1] at h2
          simp [sget] at h2
          exact absurd h2.symm hn.1.2
      have val : e.2 = f.2 := by
        have h2 := he e.1
        simp [sget, key] at h2
        exact h2
      have hef : e = f := Prod.ext key val
      subst hef
      refine congrArg _ (ih hm.2 hn.2 fun k => ?_)
      by_cases hk : e.1 = k
      · subst hk
        rw [sget_below hm.2 (by omega), sget_below hn.2 (by omega)]
      · have h2 := he k
        simp only [sget, hk, if_false] at h2
        exact h2

theorem canon_ext {d : α} {m n : SMap α} (hm : canon d m = true) (hn : canon d n = true)
    (he : ∀ k, sget d m k = sget d n k) : m = n := canonFrom_ext hm hn he

/-! ## Byte memory -/

@[simp] theorem readByte_writeByte_same (mem : List Host.Cell) (a : Nat) (b : Byte) : readByte (writeByte mem a b) a = b :=
  sget_sset_same ..

@[simp] theorem readByte_writeByte_ne (mem : List Host.Cell) {a x : Nat} (b : Byte) (h : x ≠ a) :
    readByte (writeByte mem a b) x = readByte mem x := sget_sset_ne _ _ _ h

/-- A byte outside the bytes written reads as before. -/
theorem readByte_writeBytes_out (bs : List Byte) : ∀ (mem : List Host.Cell) (a x : Nat), (x < a ∨ a + bs.length ≤ x) →
    readByte (writeBytes mem a bs) x = readByte mem x := by
  induction bs with
  | nil => intro _ _ _ _; rfl
  | cons b rest ih =>
    intro mem a x h
    simp only [List.length_cons] at h
    rw [writeBytes, ih _ _ _ (by omega), readByte_writeByte_ne _ _ (by omega)]

/-- A byte written reads as the byte of the string at its place. -/
theorem readByte_writeBytes_in (bs : List Byte) : ∀ (mem : List Host.Cell) (a i : Nat) (h : i < bs.length),
    readByte (writeBytes mem a bs) (a + i) = bs[i] := by
  induction bs with
  | nil => intro _ _ _ h; cases h
  | cons b rest ih =>
    intro mem a i h
    cases i with
    | zero =>
      rw [writeBytes, readByte_writeBytes_out _ _ _ _ (by omega)]
      simp
    | succ j =>
      rw [writeBytes, show a + (j + 1) = a + 1 + j from by omega, ih _ _ _ (by simpa using h)]
      simp

theorem readBytes_length (mem : List Host.Cell) : ∀ (n a : Nat), (readBytes mem a n).length = n := by
  intro n
  induction n with
  | zero => intro _; rfl
  | succ n ih => intro a; simp [readBytes, ih]

theorem readBytes_get (mem : List Host.Cell) : ∀ (n a i : Nat) (h : i < (readBytes mem a n).length),
    (readBytes mem a n)[i] = readByte mem (a + i) := by
  intro n
  induction n with
  | zero => intro _ _ h; simp [readBytes] at h
  | succ n ih =>
    intro a i h
    cases i with
    | zero => simp [readBytes]
    | succ j =>
      simp only [readBytes, List.getElem_cons_succ]
      rw [ih]
      congr 1
      omega

/-- What has just been written reads back. -/
theorem readBytes_writeBytes (mem : List Host.Cell) (a : Nat) (bs : List Byte) :
    readBytes (writeBytes mem a bs) a bs.length = bs := by
  apply List.ext_getElem (readBytes_length _ _ _)
  intro i h1 h2
  rw [readBytes_get, readByte_writeBytes_in _ _ _ _ h2]

theorem wf_writeByte {mem : List Host.Cell} (a : Nat) (b : Byte) (h : Memory.wf mem = true) :
    Memory.wf (writeByte mem a b) = true := canon_sset a b h

theorem wf_writeBytes (bs : List Byte) : ∀ {mem : List Host.Cell} (a : Nat), Memory.wf mem = true →
    Memory.wf (writeBytes mem a bs) = true := by
  induction bs with
  | nil => intro _ _ h; exact h
  | cons b rest ih => intro mem a h; exact ih _ (wf_writeByte a b h)

theorem wf_nil : Memory.wf [] = true := rfl

/-- Byte memories in canonical form that read alike are the same data. -/
theorem Memory.ext {x y : List Host.Cell} (hx : Memory.wf x = true) (hy : Memory.wf y = true)
    (h : ∀ a, readByte x a = readByte y a) : x = y := canon_ext hx hy h

/-! ## Little-endian fields -/

theorem leBytes_length : ∀ (n x : Nat), (leBytes n x).length = n := by
  intro n
  induction n with
  | zero => intro _; rfl
  | succ n ih => intro x; simp [leBytes, ih]

theorem leNat_leBytes : ∀ (n x : Nat), leNat (leBytes n x) = x % 256 ^ n := by
  intro n
  induction n with
  | zero => intro x; simp [leBytes, leNat, Nat.mod_one]
  | succ n ih =>
    intro x
    simp only [leBytes, leNat, ih, BitVec.toNat_ofNat]
    rw [show (2 : Nat) ^ 8 = 256 from rfl, Nat.pow_succ, Nat.mul_comm (256 ^ n) 256, Nat.mod_mul]

end Sys2Proof.Machine
end

