-- ==== Sys2Proof/Laws/State.lean ====
section
/-! SUPPORT. One lemma per field of the machine and per update of it, each true by rfl, and what each accessor reads after an
update: no later proof unfolds a record update. -/

namespace Sys2Proof.Machine

variable (m : Mach)

/-! ## Fields that an update leaves -/

@[simp] theorem setThread_gradeE (t : Thread) (v : ThreadState) : (setThread m t v).gradeE = m.gradeE := rfl
@[simp] theorem setThread_steppingB1 (t : Thread) (v : ThreadState) : (setThread m t v).steppingB1 = m.steppingB1 := rfl
@[simp] theorem setThread_now (t : Thread) (v : ThreadState) : (setThread m t v).now = m.now := rfl
@[simp] theorem setThread_htcOffset (t : Thread) (v : ThreadState) : (setThread m t v).htcOffset = m.htcOffset := rfl
@[simp] theorem setThread_fresh (t : Thread) (v : ThreadState) : (setThread m t v).fresh = m.fresh := rfl
@[simp] theorem setThread_mode (t : Thread) (v : ThreadState) : (setThread m t v).mode = m.mode := rfl
@[simp] theorem setThread_rows (t : Thread) (v : ThreadState) : (setThread m t v).rows = m.rows := rfl
@[simp] theorem setThread_dunes (t : Thread) (v : ThreadState) : (setThread m t v).dunes = m.dunes := rfl
@[simp] theorem setThread_islands (t : Thread) (v : ThreadState) : (setThread m t v).islands = m.islands := rfl
@[simp] theorem setThread_offsets (t : Thread) (v : ThreadState) : (setThread m t v).offsets = m.offsets := rfl
@[simp] theorem setThread_queues (t : Thread) (v : ThreadState) : (setThread m t v).queues = m.queues := rfl
@[simp] theorem setThread_sram (t : Thread) (v : ThreadState) : (setThread m t v).sram = m.sram := rfl
@[simp] theorem setThread_hbm (t : Thread) (v : ThreadState) : (setThread m t v).hbm = m.hbm := rfl
@[simp] theorem setThread_hbmPatch (t : Thread) (v : ThreadState) : (setThread m t v).hbmPatch = m.hbmPatch := rfl
@[simp] theorem setThread_istore (t : Thread) (v : ThreadState) : (setThread m t v).istore = m.istore := rfl
@[simp] theorem setThread_landings (t : Thread) (v : ThreadState) : (setThread m t v).landings = m.landings := rfl
@[simp] theorem setThread_loads (t : Thread) (v : ThreadState) : (setThread m t v).loads = m.loads := rfl
@[simp] theorem setThread_bankServed (t : Thread) (v : ThreadState) : (setThread m t v).bankServed = m.bankServed := rfl
@[simp] theorem setThread_packets (t : Thread) (v : ThreadState) : (setThread m t v).packets = m.packets := rfl
@[simp] theorem setThread_flits (t : Thread) (v : ThreadState) : (setThread m t v).flits = m.flits := rfl
@[simp] theorem setThread_holders (t : Thread) (v : ThreadState) : (setThread m t v).holders = m.holders := rfl
@[simp] theorem setThread_turns (t : Thread) (v : ThreadState) : (setThread m t v).turns = m.turns := rfl
@[simp] theorem setThread_lastSent (t : Thread) (v : ThreadState) : (setThread m t v).lastSent = m.lastSent := rfl
@[simp] theorem setThread_tc3Sent (t : Thread) (v : ThreadState) : (setThread m t v).tc3Sent = m.tc3Sent := rfl
@[simp] theorem setThread_bridgeSent (t : Thread) (v : ThreadState) : (setThread m t v).bridgeSent = m.bridgeSent := rfl
@[simp] theorem setThread_arrivals (t : Thread) (v : ThreadState) : (setThread m t v).arrivals = m.arrivals := rfl
@[simp] theorem setThread_fabricAt (t : Thread) (v : ThreadState) : (setThread m t v).fabricAt = m.fabricAt := rfl
@[simp] theorem setThread_avoided (t : Thread) (v : ThreadState) : (setThread m t v).avoided = m.avoided := rfl
@[simp] theorem setThread_golden (t : Thread) (v : ThreadState) : (setThread m t v).golden = m.golden := rfl
@[simp] theorem setThread_staging (t : Thread) (v : ThreadState) : (setThread m t v).staging = m.staging := rfl
@[simp] theorem setThread_selftest (t : Thread) (v : ThreadState) : (setThread m t v).selftest = m.selftest := rfl
@[simp] theorem setThread_warming (t : Thread) (v : ThreadState) : (setThread m t v).warming = m.warming := rfl
@[simp] theorem setThread_coeffFrom (t : Thread) (v : ThreadState) : (setThread m t v).coeffFrom = m.coeffFrom := rfl
@[simp] theorem setThread_coeffTest (t : Thread) (v : ThreadState) : (setThread m t v).coeffTest = m.coeffTest := rfl
@[simp] theorem setThread_baskFired (t : Thread) (v : ThreadState) : (setThread m t v).baskFired = m.baskFired := rfl
@[simp] theorem setThread_baskSince (t : Thread) (v : ThreadState) : (setThread m t v).baskSince = m.baskSince := rfl
@[simp] theorem setThread_hardWaiting (t : Thread) (v : ThreadState) : (setThread m t v).hardWaiting = m.hardWaiting := rfl
@[simp] theorem setThread_hardAt (t : Thread) (v : ThreadState) : (setThread m t v).hardAt = m.hardAt := rfl
@[simp] theorem setThread_unitRegs (t : Thread) (v : ThreadState) : (setThread m t v).unitRegs = m.unitRegs := rfl
@[simp] theorem setThread_ctlLanes (t : Thread) (v : ThreadState) : (setThread m t v).ctlLanes = m.ctlLanes := rfl
@[simp] theorem setThread_ctrl (t : Thread) (v : ThreadState) : (setThread m t v).ctrl = m.ctrl := rfl
@[simp] theorem setThread_tablesStale (t : Thread) (v : ThreadState) : (setThread m t v).tablesStale = m.tablesStale := rfl
@[simp] theorem setThread_hbmServed (t : Thread) (v : ThreadState) : (setThread m t v).hbmServed = m.hbmServed := rfl
@[simp] theorem setThread_hbmMoved (t : Thread) (v : ThreadState) : (setThread m t v).hbmMoved = m.hbmMoved := rfl
@[simp] theorem setThread_hbmWindow (t : Thread) (v : ThreadState) : (setThread m t v).hbmWindow = m.hbmWindow := rfl
@[simp] theorem setThread_imbalancePost (t : Thread) (v : ThreadState) : (setThread m t v).imbalancePost = m.imbalancePost := rfl
@[simp] theorem setThread_moduleKey (t : Thread) (v : ThreadState) : (setThread m t v).moduleKey = m.moduleKey := rfl
@[simp] theorem setThread_od (t : Thread) (v : ThreadState) : (setThread m t v).od = m.od := rfl
@[simp] theorem setThread_waitingB (t : Thread) (v : ThreadState) : (setThread m t v).waitingB = m.waitingB := rfl
@[simp] theorem setThread_nvQueue (t : Thread) (v : ThreadState) : (setThread m t v).nvQueue = m.nvQueue := rfl
@[simp] theorem setThread_answers (t : Thread) (v : ThreadState) : (setThread m t v).answers = m.answers := rfl
@[simp] theorem setThread_odAsked (t : Thread) (v : ThreadState) : (setThread m t v).odAsked = m.odAsked := rfl
@[simp] theorem setThread_job (t : Thread) (v : ThreadState) : (setThread m t v).job = m.job := rfl
@[simp] theorem setThread_repl (t : Thread) (v : ThreadState) : (setThread m t v).repl = m.repl := rfl
@[simp] theorem setThread_restart (t : Thread) (v : ThreadState) : (setThread m t v).restart = m.restart := rfl
@[simp] theorem setThread_restartTimes (t : Thread) (v : ThreadState) : (setThread m t v).restartTimes = m.restartTimes := rfl
@[simp] theorem setThread_unloading (t : Thread) (v : ThreadState) : (setThread m t v).unloading = m.unloading := rfl
@[simp] theorem setThread_draining (t : Thread) (v : ThreadState) : (setThread m t v).draining = m.draining := rfl
@[simp] theorem setThread_drainSince (t : Thread) (v : ThreadState) : (setThread m t v).drainSince = m.drainSince := rfl
@[simp] theorem setThread_ctxs (t : Thread) (v : ThreadState) : (setThread m t v).ctxs = m.ctxs := rfl
@[simp] theorem setThread_passes (t : Thread) (v : ThreadState) : (setThread m t v).passes = m.passes := rfl
@[simp] theorem setThread_chains (t : Thread) (v : ThreadState) : (setThread m t v).chains = m.chains := rfl
@[simp] theorem setThread_ledger (t : Thread) (v : ThreadState) : (setThread m t v).ledger = m.ledger := rfl
@[simp] theorem setThread_entries (t : Thread) (v : ThreadState) : (setThread m t v).entries = m.entries := rfl
@[simp] theorem setThread_lastEntryFix (t : Thread) (v : ThreadState) : (setThread m t v).lastEntryFix = m.lastEntryFix := rfl
@[simp] theorem setThread_listsHere (t : Thread) (v : ThreadState) : (setThread m t v).listsHere = m.listsHere := rfl
@[simp] theorem setThread_driftGroup (t : Thread) (v : ThreadState) : (setThread m t v).driftGroup = m.driftGroup := rfl
@[simp] theorem setThread_driftSince (t : Thread) (v : ThreadState) : (setThread m t v).driftSince = m.driftSince := rfl
@[simp] theorem setThread_orderCount (t : Thread) (v : ThreadState) : (setThread m t v).orderCount = m.orderCount := rfl
@[simp] theorem setThread_p1Waited (t : Thread) (v : ThreadState) : (setThread m t v).p1Waited = m.p1Waited := rfl
@[simp] theorem setThread_fns (t : Thread) (v : ThreadState) : (setThread m t v).fns = m.fns := rfl
@[simp] theorem setThread_intake (t : Thread) (v : ThreadState) : (setThread m t v).intake = m.intake := rfl
@[simp] theorem setThread_adapters (t : Thread) (v : ThreadState) : (setThread m t v).adapters = m.adapters := rfl
@[simp] theorem setThread_adapterWait (t : Thread) (v : ThreadState) : (setThread m t v).adapterWait = m.adapterWait := rfl
@[simp] theorem setThread_port (t : Thread) (v : ThreadState) : (setThread m t v).port = m.port := rfl
@[simp] theorem setThread_imageRetries (t : Thread) (v : ThreadState) : (setThread m t v).imageRetries = m.imageRetries := rfl
@[simp] theorem setThread_bar0 (t : Thread) (v : ThreadState) : (setThread m t v).bar0 = m.bar0 := rfl
@[simp] theorem setThread_bundles (t : Thread) (v : ThreadState) : (setThread m t v).bundles = m.bundles := rfl
@[simp] theorem setThread_slotRuns (t : Thread) (v : ThreadState) : (setThread m t v).slotRuns = m.slotRuns := rfl
@[simp] theorem setThread_ctrlSeen (t : Thread) (v : ThreadState) : (setThread m t v).ctrlSeen = m.ctrlSeen := rfl
@[simp] theorem setThread_ctrlSeq (t : Thread) (v : ThreadState) : (setThread m t v).ctrlSeq = m.ctrlSeq := rfl
@[simp] theorem setThread_timeParent (t : Thread) (v : ThreadState) : (setThread m t v).timeParent = m.timeParent := rfl
@[simp] theorem setThread_ptpHeard (t : Thread) (v : ThreadState) : (setThread m t v).ptpHeard = m.ptpHeard := rfl
@[simp] theorem setThread_pendingStep (t : Thread) (v : ThreadState) : (setThread m t v).pendingStep = m.pendingStep := rfl
@[simp] theorem setThread_injections (t : Thread) (v : ThreadState) : (setThread m t v).injections = m.injections := rfl
@[simp] theorem setThread_provocations (t : Thread) (v : ThreadState) : (setThread m t v).provocations = m.provocations := rfl
@[simp] theorem setThread_power (t : Thread) (v : ThreadState) : (setThread m t v).power = m.power := rfl
@[simp] theorem setThread_fallback (t : Thread) (v : ThreadState) : (setThread m t v).fallback = m.fallback := rfl
@[simp] theorem setThread_events (t : Thread) (v : ThreadState) : (setThread m t v).events = m.events := rfl
@[simp] theorem setThread_raised (t : Thread) (v : ThreadState) : (setThread m t v).raised = m.raised := rfl
@[simp] theorem setThread_sheet (t : Thread) (v : ThreadState) : (setThread m t v).sheet = m.sheet := rfl
@[simp] theorem setThread_sheetWriting (t : Thread) (v : ThreadState) : (setThread m t v).sheetWriting = m.sheetWriting := rfl
@[simp] theorem setThread_sheetCut (t : Thread) (v : ThreadState) : (setThread m t v).sheetCut = m.sheetCut := rfl
@[simp] theorem setThread_thumbnail (t : Thread) (v : ThreadState) : (setThread m t v).thumbnail = m.thumbnail := rfl
@[simp] theorem setThread_flashThumb (t : Thread) (v : ThreadState) : (setThread m t v).flashThumb = m.flashThumb := rfl
@[simp] theorem setThread_sec (t : Thread) (v : ThreadState) : (setThread m t v).sec = m.sec := rfl
@[simp] theorem setThread_sessions (t : Thread) (v : ThreadState) : (setThread m t v).sessions = m.sessions := rfl
@[simp] theorem setThread_badSites (t : Thread) (v : ThreadState) : (setThread m t v).badSites = m.badSites := rfl
@[simp] theorem setThread_badCores (t : Thread) (v : ThreadState) : (setThread m t v).badCores = m.badCores := rfl
@[simp] theorem setThread_badDunes (t : Thread) (v : ThreadState) : (setThread m t v).badDunes = m.badDunes := rfl
@[simp] theorem setThread_selftestDunes (t : Thread) (v : ThreadState) : (setThread m t v).selftestDunes = m.selftestDunes := rfl
@[simp] theorem setThread_retirement (t : Thread) (v : ThreadState) : (setThread m t v).retirement = m.retirement := rfl
@[simp] theorem setThread_out (t : Thread) (v : ThreadState) : (setThread m t v).out = m.out := rfl

@[simp] theorem setRow_gradeE (r : RowId) (v : RowState) : (setRow m r v).gradeE = m.gradeE := rfl
@[simp] theorem setRow_steppingB1 (r : RowId) (v : RowState) : (setRow m r v).steppingB1 = m.steppingB1 := rfl
@[simp] theorem setRow_now (r : RowId) (v : RowState) : (setRow m r v).now = m.now := rfl
@[simp] theorem setRow_htcOffset (r : RowId) (v : RowState) : (setRow m r v).htcOffset = m.htcOffset := rfl
@[simp] theorem setRow_fresh (r : RowId) (v : RowState) : (setRow m r v).fresh = m.fresh := rfl
@[simp] theorem setRow_mode (r : RowId) (v : RowState) : (setRow m r v).mode = m.mode := rfl
@[simp] theorem setRow_threads (r : RowId) (v : RowState) : (setRow m r v).threads = m.threads := rfl
@[simp] theorem setRow_dunes (r : RowId) (v : RowState) : (setRow m r v).dunes = m.dunes := rfl
@[simp] theorem setRow_islands (r : RowId) (v : RowState) : (setRow m r v).islands = m.islands := rfl
@[simp] theorem setRow_offsets (r : RowId) (v : RowState) : (setRow m r v).offsets = m.offsets := rfl
@[simp] theorem setRow_queues (r : RowId) (v : RowState) : (setRow m r v).queues = m.queues := rfl
@[simp] theorem setRow_sram (r : RowId) (v : RowState) : (setRow m r v).sram = m.sram := rfl
@[simp] theorem setRow_hbm (r : RowId) (v : RowState) : (setRow m r v).hbm = m.hbm := rfl
@[simp] theorem setRow_hbmPatch (r : RowId) (v : RowState) : (setRow m r v).hbmPatch = m.hbmPatch := rfl
@[simp] theorem setRow_istore (r : RowId) (v : RowState) : (setRow m r v).istore = m.istore := rfl
@[simp] theorem setRow_landings (r : RowId) (v : RowState) : (setRow m r v).landings = m.landings := rfl
@[simp] theorem setRow_loads (r : RowId) (v : RowState) : (setRow m r v).loads = m.loads := rfl
@[simp] theorem setRow_bankServed (r : RowId) (v : RowState) : (setRow m r v).bankServed = m.bankServed := rfl
@[simp] theorem setRow_packets (r : RowId) (v : RowState) : (setRow m r v).packets = m.packets := rfl
@[simp] theorem setRow_flits (r : RowId) (v : RowState) : (setRow m r v).flits = m.flits := rfl
@[simp] theorem setRow_holders (r : RowId) (v : RowState) : (setRow m r v).holders = m.holders := rfl
@[simp] theorem setRow_turns (r : RowId) (v : RowState) : (setRow m r v).turns = m.turns := rfl
@[simp] theorem setRow_lastSent (r : RowId) (v : RowState) : (setRow m r v).lastSent = m.lastSent := rfl
@[simp] theorem setRow_tc3Sent (r : RowId) (v : RowState) : (setRow m r v).tc3Sent = m.tc3Sent := rfl
@[simp] theorem setRow_bridgeSent (r : RowId) (v : RowState) : (setRow m r v).bridgeSent = m.bridgeSent := rfl
@[simp] theorem setRow_arrivals (r : RowId) (v : RowState) : (setRow m r v).arrivals = m.arrivals := rfl
@[simp] theorem setRow_fabricAt (r : RowId) (v : RowState) : (setRow m r v).fabricAt = m.fabricAt := rfl
@[simp] theorem setRow_avoided (r : RowId) (v : RowState) : (setRow m r v).avoided = m.avoided := rfl
@[simp] theorem setRow_golden (r : RowId) (v : RowState) : (setRow m r v).golden = m.golden := rfl
@[simp] theorem setRow_staging (r : RowId) (v : RowState) : (setRow m r v).staging = m.staging := rfl
@[simp] theorem setRow_selftest (r : RowId) (v : RowState) : (setRow m r v).selftest = m.selftest := rfl
@[simp] theorem setRow_warming (r : RowId) (v : RowState) : (setRow m r v).warming = m.warming := rfl
@[simp] theorem setRow_coeffFrom (r : RowId) (v : RowState) : (setRow m r v).coeffFrom = m.coeffFrom := rfl
@[simp] theorem setRow_coeffTest (r : RowId) (v : RowState) : (setRow m r v).coeffTest = m.coeffTest := rfl
@[simp] theorem setRow_baskFired (r : RowId) (v : RowState) : (setRow m r v).baskFired = m.baskFired := rfl
@[simp] theorem setRow_baskSince (r : RowId) (v : RowState) : (setRow m r v).baskSince = m.baskSince := rfl
@[simp] theorem setRow_hardWaiting (r : RowId) (v : RowState) : (setRow m r v).hardWaiting = m.hardWaiting := rfl
@[simp] theorem setRow_hardAt (r : RowId) (v : RowState) : (setRow m r v).hardAt = m.hardAt := rfl
@[simp] theorem setRow_unitRegs (r : RowId) (v : RowState) : (setRow m r v).unitRegs = m.unitRegs := rfl
@[simp] theorem setRow_ctlLanes (r : RowId) (v : RowState) : (setRow m r v).ctlLanes = m.ctlLanes := rfl
@[simp] theorem setRow_ctrl (r : RowId) (v : RowState) : (setRow m r v).ctrl = m.ctrl := rfl
@[simp] theorem setRow_tablesStale (r : RowId) (v : RowState) : (setRow m r v).tablesStale = m.tablesStale := rfl
@[simp] theorem setRow_hbmServed (r : RowId) (v : RowState) : (setRow m r v).hbmServed = m.hbmServed := rfl
@[simp] theorem setRow_hbmMoved (r : RowId) (v : RowState) : (setRow m r v).hbmMoved = m.hbmMoved := rfl
@[simp] theorem setRow_hbmWindow (r : RowId) (v : RowState) : (setRow m r v).hbmWindow = m.hbmWindow := rfl
@[simp] theorem setRow_imbalancePost (r : RowId) (v : RowState) : (setRow m r v).imbalancePost = m.imbalancePost := rfl
@[simp] theorem setRow_moduleKey (r : RowId) (v : RowState) : (setRow m r v).moduleKey = m.moduleKey := rfl
@[simp] theorem setRow_od (r : RowId) (v : RowState) : (setRow m r v).od = m.od := rfl
@[simp] theorem setRow_waitingB (r : RowId) (v : RowState) : (setRow m r v).waitingB = m.waitingB := rfl
@[simp] theorem setRow_nvQueue (r : RowId) (v : RowState) : (setRow m r v).nvQueue = m.nvQueue := rfl
@[simp] theorem setRow_answers (r : RowId) (v : RowState) : (setRow m r v).answers = m.answers := rfl
@[simp] theorem setRow_odAsked (r : RowId) (v : RowState) : (setRow m r v).odAsked = m.odAsked := rfl
@[simp] theorem setRow_job (r : RowId) (v : RowState) : (setRow m r v).job = m.job := rfl
@[simp] theorem setRow_repl (r : RowId) (v : RowState) : (setRow m r v).repl = m.repl := rfl
@[simp] theorem setRow_restart (r : RowId) (v : RowState) : (setRow m r v).restart = m.restart := rfl
@[simp] theorem setRow_restartTimes (r : RowId) (v : RowState) : (setRow m r v).restartTimes = m.restartTimes := rfl
@[simp] theorem setRow_unloading (r : RowId) (v : RowState) : (setRow m r v).unloading = m.unloading := rfl
@[simp] theorem setRow_draining (r : RowId) (v : RowState) : (setRow m r v).draining = m.draining := rfl
@[simp] theorem setRow_drainSince (r : RowId) (v : RowState) : (setRow m r v).drainSince = m.drainSince := rfl
@[simp] theorem setRow_ctxs (r : RowId) (v : RowState) : (setRow m r v).ctxs = m.ctxs := rfl
@[simp] theorem setRow_passes (r : RowId) (v : RowState) : (setRow m r v).passes = m.passes := rfl
@[simp] theorem setRow_chains (r : RowId) (v : RowState) : (setRow m r v).chains = m.chains := rfl
@[simp] theorem setRow_ledger (r : RowId) (v : RowState) : (setRow m r v).ledger = m.ledger := rfl
@[simp] theorem setRow_entries (r : RowId) (v : RowState) : (setRow m r v).entries = m.entries := rfl
@[simp] theorem setRow_lastEntryFix (r : RowId) (v : RowState) : (setRow m r v).lastEntryFix = m.lastEntryFix := rfl
@[simp] theorem setRow_listsHere (r : RowId) (v : RowState) : (setRow m r v).listsHere = m.listsHere := rfl
@[simp] theorem setRow_driftGroup (r : RowId) (v : RowState) : (setRow m r v).driftGroup = m.driftGroup := rfl
@[simp] theorem setRow_driftSince (r : RowId) (v : RowState) : (setRow m r v).driftSince = m.driftSince := rfl
@[simp] theorem setRow_orderCount (r : RowId) (v : RowState) : (setRow m r v).orderCount = m.orderCount := rfl
@[simp] theorem setRow_p1Waited (r : RowId) (v : RowState) : (setRow m r v).p1Waited = m.p1Waited := rfl
@[simp] theorem setRow_fns (r : RowId) (v : RowState) : (setRow m r v).fns = m.fns := rfl
@[simp] theorem setRow_intake (r : RowId) (v : RowState) : (setRow m r v).intake = m.intake := rfl
@[simp] theorem setRow_adapters (r : RowId) (v : RowState) : (setRow m r v).adapters = m.adapters := rfl
@[simp] theorem setRow_adapterWait (r : RowId) (v : RowState) : (setRow m r v).adapterWait = m.adapterWait := rfl
@[simp] theorem setRow_port (r : RowId) (v : RowState) : (setRow m r v).port = m.port := rfl
@[simp] theorem setRow_imageRetries (r : RowId) (v : RowState) : (setRow m r v).imageRetries = m.imageRetries := rfl
@[simp] theorem setRow_bar0 (r : RowId) (v : RowState) : (setRow m r v).bar0 = m.bar0 := rfl
@[simp] theorem setRow_bundles (r : RowId) (v : RowState) : (setRow m r v).bundles = m.bundles := rfl
@[simp] theorem setRow_slotRuns (r : RowId) (v : RowState) : (setRow m r v).slotRuns = m.slotRuns := rfl
@[simp] theorem setRow_ctrlSeen (r : RowId) (v : RowState) : (setRow m r v).ctrlSeen = m.ctrlSeen := rfl
@[simp] theorem setRow_ctrlSeq (r : RowId) (v : RowState) : (setRow m r v).ctrlSeq = m.ctrlSeq := rfl
@[simp] theorem setRow_timeParent (r : RowId) (v : RowState) : (setRow m r v).timeParent = m.timeParent := rfl
@[simp] theorem setRow_ptpHeard (r : RowId) (v : RowState) : (setRow m r v).ptpHeard = m.ptpHeard := rfl
@[simp] theorem setRow_pendingStep (r : RowId) (v : RowState) : (setRow m r v).pendingStep = m.pendingStep := rfl
@[simp] theorem setRow_injections (r : RowId) (v : RowState) : (setRow m r v).injections = m.injections := rfl
@[simp] theorem setRow_provocations (r : RowId) (v : RowState) : (setRow m r v).provocations = m.provocations := rfl
@[simp] theorem setRow_power (r : RowId) (v : RowState) : (setRow m r v).power = m.power := rfl
@[simp] theorem setRow_fallback (r : RowId) (v : RowState) : (setRow m r v).fallback = m.fallback := rfl
@[simp] theorem setRow_events (r : RowId) (v : RowState) : (setRow m r v).events = m.events := rfl
@[simp] theorem setRow_raised (r : RowId) (v : RowState) : (setRow m r v).raised = m.raised := rfl
@[simp] theorem setRow_sheet (r : RowId) (v : RowState) : (setRow m r v).sheet = m.sheet := rfl
@[simp] theorem setRow_sheetWriting (r : RowId) (v : RowState) : (setRow m r v).sheetWriting = m.sheetWriting := rfl
@[simp] theorem setRow_sheetCut (r : RowId) (v : RowState) : (setRow m r v).sheetCut = m.sheetCut := rfl
@[simp] theorem setRow_thumbnail (r : RowId) (v : RowState) : (setRow m r v).thumbnail = m.thumbnail := rfl
@[simp] theorem setRow_flashThumb (r : RowId) (v : RowState) : (setRow m r v).flashThumb = m.flashThumb := rfl
@[simp] theorem setRow_sec (r : RowId) (v : RowState) : (setRow m r v).sec = m.sec := rfl
@[simp] theorem setRow_sessions (r : RowId) (v : RowState) : (setRow m r v).sessions = m.sessions := rfl
@[simp] theorem setRow_badSites (r : RowId) (v : RowState) : (setRow m r v).badSites = m.badSites := rfl
@[simp] theorem setRow_badCores (r : RowId) (v : RowState) : (setRow m r v).badCores = m.badCores := rfl
@[simp] theorem setRow_badDunes (r : RowId) (v : RowState) : (setRow m r v).badDunes = m.badDunes := rfl
@[simp] theorem setRow_selftestDunes (r : RowId) (v : RowState) : (setRow m r v).selftestDunes = m.selftestDunes := rfl
@[simp] theorem setRow_retirement (r : RowId) (v : RowState) : (setRow m r v).retirement = m.retirement := rfl
@[simp] theorem setRow_out (r : RowId) (v : RowState) : (setRow m r v).out = m.out := rfl

@[simp] theorem setDune_gradeE (d : DuneId) (v : DuneState) : (setDune m d v).gradeE = m.gradeE := rfl
@[simp] theorem setDune_steppingB1 (d : DuneId) (v : DuneState) : (setDune m d v).steppingB1 = m.steppingB1 := rfl
@[simp] theorem setDune_now (d : DuneId) (v : DuneState) : (setDune m d v).now = m.now := rfl
@[simp] theorem setDune_htcOffset (d : DuneId) (v : DuneState) : (setDune m d v).htcOffset = m.htcOffset := rfl
@[simp] theorem setDune_fresh (d : DuneId) (v : DuneState) : (setDune m d v).fresh = m.fresh := rfl
@[simp] theorem setDune_mode (d : DuneId) (v : DuneState) : (setDune m d v).mode = m.mode := rfl
@[simp] theorem setDune_threads (d : DuneId) (v : DuneState) : (setDune m d v).threads = m.threads := rfl
@[simp] theorem setDune_rows (d : DuneId) (v : DuneState) : (setDune m d v).rows = m.rows := rfl
@[simp] theorem setDune_islands (d : DuneId) (v : DuneState) : (setDune m d v).islands = m.islands := rfl
@[simp] theorem setDune_offsets (d : DuneId) (v : DuneState) : (setDune m d v).offsets = m.offsets := rfl
@[simp] theorem setDune_queues (d : DuneId) (v : DuneState) : (setDune m d v).queues = m.queues := rfl
@[simp] theorem setDune_sram (d : DuneId) (v : DuneState) : (setDune m d v).sram = m.sram := rfl
@[simp] theorem setDune_hbm (d : DuneId) (v : DuneState) : (setDune m d v).hbm = m.hbm := rfl
@[simp] theorem setDune_hbmPatch (d : DuneId) (v : DuneState) : (setDune m d v).hbmPatch = m.hbmPatch := rfl
@[simp] theorem setDune_istore (d : DuneId) (v : DuneState) : (setDune m d v).istore = m.istore := rfl
@[simp] theorem setDune_landings (d : DuneId) (v : DuneState) : (setDune m d v).landings = m.landings := rfl
@[simp] theorem setDune_loads (d : DuneId) (v : DuneState) : (setDune m d v).loads = m.loads := rfl
@[simp] theorem setDune_bankServed (d : DuneId) (v : DuneState) : (setDune m d v).bankServed = m.bankServed := rfl
@[simp] theorem setDune_packets (d : DuneId) (v : DuneState) : (setDune m d v).packets = m.packets := rfl
@[simp] theorem setDune_flits (d : DuneId) (v : DuneState) : (setDune m d v).flits = m.flits := rfl
@[simp] theorem setDune_holders (d : DuneId) (v : DuneState) : (setDune m d v).holders = m.holders := rfl
@[simp] theorem setDune_turns (d : DuneId) (v : DuneState) : (setDune m d v).turns = m.turns := rfl
@[simp] theorem setDune_lastSent (d : DuneId) (v : DuneState) : (setDune m d v).lastSent = m.lastSent := rfl
@[simp] theorem setDune_tc3Sent (d : DuneId) (v : DuneState) : (setDune m d v).tc3Sent = m.tc3Sent := rfl
@[simp] theorem setDune_bridgeSent (d : DuneId) (v : DuneState) : (setDune m d v).bridgeSent = m.bridgeSent := rfl
@[simp] theorem setDune_arrivals (d : DuneId) (v : DuneState) : (setDune m d v).arrivals = m.arrivals := rfl
@[simp] theorem setDune_fabricAt (d : DuneId) (v : DuneState) : (setDune m d v).fabricAt = m.fabricAt := rfl
@[simp] theorem setDune_avoided (d : DuneId) (v : DuneState) : (setDune m d v).avoided = m.avoided := rfl
@[simp] theorem setDune_golden (d : DuneId) (v : DuneState) : (setDune m d v).golden = m.golden := rfl
@[simp] theorem setDune_staging (d : DuneId) (v : DuneState) : (setDune m d v).staging = m.staging := rfl
@[simp] theorem setDune_selftest (d : DuneId) (v : DuneState) : (setDune m d v).selftest = m.selftest := rfl
@[simp] theorem setDune_warming (d : DuneId) (v : DuneState) : (setDune m d v).warming = m.warming := rfl
@[simp] theorem setDune_coeffFrom (d : DuneId) (v : DuneState) : (setDune m d v).coeffFrom = m.coeffFrom := rfl
@[simp] theorem setDune_coeffTest (d : DuneId) (v : DuneState) : (setDune m d v).coeffTest = m.coeffTest := rfl
@[simp] theorem setDune_baskFired (d : DuneId) (v : DuneState) : (setDune m d v).baskFired = m.baskFired := rfl
@[simp] theorem setDune_baskSince (d : DuneId) (v : DuneState) : (setDune m d v).baskSince = m.baskSince := rfl
@[simp] theorem setDune_hardWaiting (d : DuneId) (v : DuneState) : (setDune m d v).hardWaiting = m.hardWaiting := rfl
@[simp] theorem setDune_hardAt (d : DuneId) (v : DuneState) : (setDune m d v).hardAt = m.hardAt := rfl
@[simp] theorem setDune_unitRegs (d : DuneId) (v : DuneState) : (setDune m d v).unitRegs = m.unitRegs := rfl
@[simp] theorem setDune_ctlLanes (d : DuneId) (v : DuneState) : (setDune m d v).ctlLanes = m.ctlLanes := rfl
@[simp] theorem setDune_ctrl (d : DuneId) (v : DuneState) : (setDune m d v).ctrl = m.ctrl := rfl
@[simp] theorem setDune_tablesStale (d : DuneId) (v : DuneState) : (setDune m d v).tablesStale = m.tablesStale := rfl
@[simp] theorem setDune_hbmServed (d : DuneId) (v : DuneState) : (setDune m d v).hbmServed = m.hbmServed := rfl
@[simp] theorem setDune_hbmMoved (d : DuneId) (v : DuneState) : (setDune m d v).hbmMoved = m.hbmMoved := rfl
@[simp] theorem setDune_hbmWindow (d : DuneId) (v : DuneState) : (setDune m d v).hbmWindow = m.hbmWindow := rfl
@[simp] theorem setDune_imbalancePost (d : DuneId) (v : DuneState) : (setDune m d v).imbalancePost = m.imbalancePost := rfl
@[simp] theorem setDune_moduleKey (d : DuneId) (v : DuneState) : (setDune m d v).moduleKey = m.moduleKey := rfl
@[simp] theorem setDune_od (d : DuneId) (v : DuneState) : (setDune m d v).od = m.od := rfl
@[simp] theorem setDune_waitingB (d : DuneId) (v : DuneState) : (setDune m d v).waitingB = m.waitingB := rfl
@[simp] theorem setDune_nvQueue (d : DuneId) (v : DuneState) : (setDune m d v).nvQueue = m.nvQueue := rfl
@[simp] theorem setDune_answers (d : DuneId) (v : DuneState) : (setDune m d v).answers = m.answers := rfl
@[simp] theorem setDune_odAsked (d : DuneId) (v : DuneState) : (setDune m d v).odAsked = m.odAsked := rfl
@[simp] theorem setDune_job (d : DuneId) (v : DuneState) : (setDune m d v).job = m.job := rfl
@[simp] theorem setDune_repl (d : DuneId) (v : DuneState) : (setDune m d v).repl = m.repl := rfl
@[simp] theorem setDune_restart (d : DuneId) (v : DuneState) : (setDune m d v).restart = m.restart := rfl
@[simp] theorem setDune_restartTimes (d : DuneId) (v : DuneState) : (setDune m d v).restartTimes = m.restartTimes := rfl
@[simp] theorem setDune_unloading (d : DuneId) (v : DuneState) : (setDune m d v).unloading = m.unloading := rfl
@[simp] theorem setDune_draining (d : DuneId) (v : DuneState) : (setDune m d v).draining = m.draining := rfl
@[simp] theorem setDune_drainSince (d : DuneId) (v : DuneState) : (setDune m d v).drainSince = m.drainSince := rfl
@[simp] theorem setDune_ctxs (d : DuneId) (v : DuneState) : (setDune m d v).ctxs = m.ctxs := rfl
@[simp] theorem setDune_passes (d : DuneId) (v : DuneState) : (setDune m d v).passes = m.passes := rfl
@[simp] theorem setDune_chains (d : DuneId) (v : DuneState) : (setDune m d v).chains = m.chains := rfl
@[simp] theorem setDune_ledger (d : DuneId) (v : DuneState) : (setDune m d v).ledger = m.ledger := rfl
@[simp] theorem setDune_entries (d : DuneId) (v : DuneState) : (setDune m d v).entries = m.entries := rfl
@[simp] theorem setDune_lastEntryFix (d : DuneId) (v : DuneState) : (setDune m d v).lastEntryFix = m.lastEntryFix := rfl
@[simp] theorem setDune_listsHere (d : DuneId) (v : DuneState) : (setDune m d v).listsHere = m.listsHere := rfl
@[simp] theorem setDune_driftGroup (d : DuneId) (v : DuneState) : (setDune m d v).driftGroup = m.driftGroup := rfl
@[simp] theorem setDune_driftSince (d : DuneId) (v : DuneState) : (setDune m d v).driftSince = m.driftSince := rfl
@[simp] theorem setDune_orderCount (d : DuneId) (v : DuneState) : (setDune m d v).orderCount = m.orderCount := rfl
@[simp] theorem setDune_p1Waited (d : DuneId) (v : DuneState) : (setDune m d v).p1Waited = m.p1Waited := rfl
@[simp] theorem setDune_fns (d : DuneId) (v : DuneState) : (setDune m d v).fns = m.fns := rfl
@[simp] theorem setDune_intake (d : DuneId) (v : DuneState) : (setDune m d v).intake = m.intake := rfl
@[simp] theorem setDune_adapters (d : DuneId) (v : DuneState) : (setDune m d v).adapters = m.adapters := rfl
@[simp] theorem setDune_adapterWait (d : DuneId) (v : DuneState) : (setDune m d v).adapterWait = m.adapterWait := rfl
@[simp] theorem setDune_port (d : DuneId) (v : DuneState) : (setDune m d v).port = m.port := rfl
@[simp] theorem setDune_imageRetries (d : DuneId) (v : DuneState) : (setDune m d v).imageRetries = m.imageRetries := rfl
@[simp] theorem setDune_bar0 (d : DuneId) (v : DuneState) : (setDune m d v).bar0 = m.bar0 := rfl
@[simp] theorem setDune_bundles (d : DuneId) (v : DuneState) : (setDune m d v).bundles = m.bundles := rfl
@[simp] theorem setDune_slotRuns (d : DuneId) (v : DuneState) : (setDune m d v).slotRuns = m.slotRuns := rfl
@[simp] theorem setDune_ctrlSeen (d : DuneId) (v : DuneState) : (setDune m d v).ctrlSeen = m.ctrlSeen := rfl
@[simp] theorem setDune_ctrlSeq (d : DuneId) (v : DuneState) : (setDune m d v).ctrlSeq = m.ctrlSeq := rfl
@[simp] theorem setDune_timeParent (d : DuneId) (v : DuneState) : (setDune m d v).timeParent = m.timeParent := rfl
@[simp] theorem setDune_ptpHeard (d : DuneId) (v : DuneState) : (setDune m d v).ptpHeard = m.ptpHeard := rfl
@[simp] theorem setDune_pendingStep (d : DuneId) (v : DuneState) : (setDune m d v).pendingStep = m.pendingStep := rfl
@[simp] theorem setDune_injections (d : DuneId) (v : DuneState) : (setDune m d v).injections = m.injections := rfl
@[simp] theorem setDune_provocations (d : DuneId) (v : DuneState) : (setDune m d v).provocations = m.provocations := rfl
@[simp] theorem setDune_power (d : DuneId) (v : DuneState) : (setDune m d v).power = m.power := rfl
@[simp] theorem setDune_fallback (d : DuneId) (v : DuneState) : (setDune m d v).fallback = m.fallback := rfl
@[simp] theorem setDune_events (d : DuneId) (v : DuneState) : (setDune m d v).events = m.events := rfl
@[simp] theorem setDune_raised (d : DuneId) (v : DuneState) : (setDune m d v).raised = m.raised := rfl
@[simp] theorem setDune_sheet (d : DuneId) (v : DuneState) : (setDune m d v).sheet = m.sheet := rfl
@[simp] theorem setDune_sheetWriting (d : DuneId) (v : DuneState) : (setDune m d v).sheetWriting = m.sheetWriting := rfl
@[simp] theorem setDune_sheetCut (d : DuneId) (v : DuneState) : (setDune m d v).sheetCut = m.sheetCut := rfl
@[simp] theorem setDune_thumbnail (d : DuneId) (v : DuneState) : (setDune m d v).thumbnail = m.thumbnail := rfl
@[simp] theorem setDune_flashThumb (d : DuneId) (v : DuneState) : (setDune m d v).flashThumb = m.flashThumb := rfl
@[simp] theorem setDune_sec (d : DuneId) (v : DuneState) : (setDune m d v).sec = m.sec := rfl
@[simp] theorem setDune_sessions (d : DuneId) (v : DuneState) : (setDune m d v).sessions = m.sessions := rfl
@[simp] theorem setDune_badSites (d : DuneId) (v : DuneState) : (setDune m d v).badSites = m.badSites := rfl
@[simp] theorem setDune_badCores (d : DuneId) (v : DuneState) : (setDune m d v).badCores = m.badCores := rfl
@[simp] theorem setDune_badDunes (d : DuneId) (v : DuneState) : (setDune m d v).badDunes = m.badDunes := rfl
@[simp] theorem setDune_selftestDunes (d : DuneId) (v : DuneState) : (setDune m d v).selftestDunes = m.selftestDunes := rfl
@[simp] theorem setDune_retirement (d : DuneId) (v : DuneState) : (setDune m d v).retirement = m.retirement := rfl
@[simp] theorem setDune_out (d : DuneId) (v : DuneState) : (setDune m d v).out = m.out := rfl

@[simp] theorem setQueues_gradeE (c : CoreId) (v : QueueState) : (setQueues m c v).gradeE = m.gradeE := rfl
@[simp] theorem setQueues_steppingB1 (c : CoreId) (v : QueueState) : (setQueues m c v).steppingB1 = m.steppingB1 := rfl
@[simp] theorem setQueues_now (c : CoreId) (v : QueueState) : (setQueues m c v).now = m.now := rfl
@[simp] theorem setQueues_htcOffset (c : CoreId) (v : QueueState) : (setQueues m c v).htcOffset = m.htcOffset := rfl
@[simp] theorem setQueues_fresh (c : CoreId) (v : QueueState) : (setQueues m c v).fresh = m.fresh := rfl
@[simp] theorem setQueues_mode (c : CoreId) (v : QueueState) : (setQueues m c v).mode = m.mode := rfl
@[simp] theorem setQueues_threads (c : CoreId) (v : QueueState) : (setQueues m c v).threads = m.threads := rfl
@[simp] theorem setQueues_rows (c : CoreId) (v : QueueState) : (setQueues m c v).rows = m.rows := rfl
@[simp] theorem setQueues_dunes (c : CoreId) (v : QueueState) : (setQueues m c v).dunes = m.dunes := rfl
@[simp] theorem setQueues_islands (c : CoreId) (v : QueueState) : (setQueues m c v).islands = m.islands := rfl
@[simp] theorem setQueues_offsets (c : CoreId) (v : QueueState) : (setQueues m c v).offsets = m.offsets := rfl
@[simp] theorem setQueues_sram (c : CoreId) (v : QueueState) : (setQueues m c v).sram = m.sram := rfl
@[simp] theorem setQueues_hbm (c : CoreId) (v : QueueState) : (setQueues m c v).hbm = m.hbm := rfl
@[simp] theorem setQueues_hbmPatch (c : CoreId) (v : QueueState) : (setQueues m c v).hbmPatch = m.hbmPatch := rfl
@[simp] theorem setQueues_istore (c : CoreId) (v : QueueState) : (setQueues m c v).istore = m.istore := rfl
@[simp] theorem setQueues_landings (c : CoreId) (v : QueueState) : (setQueues m c v).landings = m.landings := rfl
@[simp] theorem setQueues_loads (c : CoreId) (v : QueueState) : (setQueues m c v).loads = m.loads := rfl
@[simp] theorem setQueues_bankServed (c : CoreId) (v : QueueState) : (setQueues m c v).bankServed = m.bankServed := rfl
@[simp] theorem setQueues_packets (c : CoreId) (v : QueueState) : (setQueues m c v).packets = m.packets := rfl
@[simp] theorem setQueues_flits (c : CoreId) (v : QueueState) : (setQueues m c v).flits = m.flits := rfl
@[simp] theorem setQueues_holders (c : CoreId) (v : QueueState) : (setQueues m c v).holders = m.holders := rfl
@[simp] theorem setQueues_turns (c : CoreId) (v : QueueState) : (setQueues m c v).turns = m.turns := rfl
@[simp] theorem setQueues_lastSent (c : CoreId) (v : QueueState) : (setQueues m c v).lastSent = m.lastSent := rfl
@[simp] theorem setQueues_tc3Sent (c : CoreId) (v : QueueState) : (setQueues m c v).tc3Sent = m.tc3Sent := rfl
@[simp] theorem setQueues_bridgeSent (c : CoreId) (v : QueueState) : (setQueues m c v).bridgeSent = m.bridgeSent := rfl
@[simp] theorem setQueues_arrivals (c : CoreId) (v : QueueState) : (setQueues m c v).arrivals = m.arrivals := rfl
@[simp] theorem setQueues_fabricAt (c : CoreId) (v : QueueState) : (setQueues m c v).fabricAt = m.fabricAt := rfl
@[simp] theorem setQueues_avoided (c : CoreId) (v : QueueState) : (setQueues m c v).avoided = m.avoided := rfl
@[simp] theorem setQueues_golden (c : CoreId) (v : QueueState) : (setQueues m c v).golden = m.golden := rfl
@[simp] theorem setQueues_staging (c : CoreId) (v : QueueState) : (setQueues m c v).staging = m.staging := rfl
@[simp] theorem setQueues_selftest (c : CoreId) (v : QueueState) : (setQueues m c v).selftest = m.selftest := rfl
@[simp] theorem setQueues_warming (c : CoreId) (v : QueueState) : (setQueues m c v).warming = m.warming := rfl
@[simp] theorem setQueues_coeffFrom (c : CoreId) (v : QueueState) : (setQueues m c v).coeffFrom = m.coeffFrom := rfl
@[simp] theorem setQueues_coeffTest (c : CoreId) (v : QueueState) : (setQueues m c v).coeffTest = m.coeffTest := rfl
@[simp] theorem setQueues_baskFired (c : CoreId) (v : QueueState) : (setQueues m c v).baskFired = m.baskFired := rfl
@[simp] theorem setQueues_baskSince (c : CoreId) (v : QueueState) : (setQueues m c v).baskSince = m.baskSince := rfl
@[simp] theorem setQueues_hardWaiting (c : CoreId) (v : QueueState) : (setQueues m c v).hardWaiting = m.hardWaiting := rfl
@[simp] theorem setQueues_hardAt (c : CoreId) (v : QueueState) : (setQueues m c v).hardAt = m.hardAt := rfl
@[simp] theorem setQueues_unitRegs (c : CoreId) (v : QueueState) : (setQueues m c v).unitRegs = m.unitRegs := rfl
@[simp] theorem setQueues_ctlLanes (c : CoreId) (v : QueueState) : (setQueues m c v).ctlLanes = m.ctlLanes := rfl
@[simp] theorem setQueues_ctrl (c : CoreId) (v : QueueState) : (setQueues m c v).ctrl = m.ctrl := rfl
@[simp] theorem setQueues_tablesStale (c : CoreId) (v : QueueState) : (setQueues m c v).tablesStale = m.tablesStale := rfl
@[simp] theorem setQueues_hbmServed (c : CoreId) (v : QueueState) : (setQueues m c v).hbmServed = m.hbmServed := rfl
@[simp] theorem setQueues_hbmMoved (c : CoreId) (v : QueueState) : (setQueues m c v).hbmMoved = m.hbmMoved := rfl
@[simp] theorem setQueues_hbmWindow (c : CoreId) (v : QueueState) : (setQueues m c v).hbmWindow = m.hbmWindow := rfl
@[simp] theorem setQueues_imbalancePost (c : CoreId) (v : QueueState) : (setQueues m c v).imbalancePost = m.imbalancePost := rfl
@[simp] theorem setQueues_moduleKey (c : CoreId) (v : QueueState) : (setQueues m c v).moduleKey = m.moduleKey := rfl
@[simp] theorem setQueues_od (c : CoreId) (v : QueueState) : (setQueues m c v).od = m.od := rfl
@[simp] theorem setQueues_waitingB (c : CoreId) (v : QueueState) : (setQueues m c v).waitingB = m.waitingB := rfl
@[simp] theorem setQueues_nvQueue (c : CoreId) (v : QueueState) : (setQueues m c v).nvQueue = m.nvQueue := rfl
@[simp] theorem setQueues_answers (c : CoreId) (v : QueueState) : (setQueues m c v).answers = m.answers := rfl
@[simp] theorem setQueues_odAsked (c : CoreId) (v : QueueState) : (setQueues m c v).odAsked = m.odAsked := rfl
@[simp] theorem setQueues_job (c : CoreId) (v : QueueState) : (setQueues m c v).job = m.job := rfl
@[simp] theorem setQueues_repl (c : CoreId) (v : QueueState) : (setQueues m c v).repl = m.repl := rfl
@[simp] theorem setQueues_restart (c : CoreId) (v : QueueState) : (setQueues m c v).restart = m.restart := rfl
@[simp] theorem setQueues_restartTimes (c : CoreId) (v : QueueState) : (setQueues m c v).restartTimes = m.restartTimes := rfl
@[simp] theorem setQueues_unloading (c : CoreId) (v : QueueState) : (setQueues m c v).unloading = m.unloading := rfl
@[simp] theorem setQueues_draining (c : CoreId) (v : QueueState) : (setQueues m c v).draining = m.draining := rfl
@[simp] theorem setQueues_drainSince (c : CoreId) (v : QueueState) : (setQueues m c v).drainSince = m.drainSince := rfl
@[simp] theorem setQueues_ctxs (c : CoreId) (v : QueueState) : (setQueues m c v).ctxs = m.ctxs := rfl
@[simp] theorem setQueues_passes (c : CoreId) (v : QueueState) : (setQueues m c v).passes = m.passes := rfl
@[simp] theorem setQueues_chains (c : CoreId) (v : QueueState) : (setQueues m c v).chains = m.chains := rfl
@[simp] theorem setQueues_ledger (c : CoreId) (v : QueueState) : (setQueues m c v).ledger = m.ledger := rfl
@[simp] theorem setQueues_entries (c : CoreId) (v : QueueState) : (setQueues m c v).entries = m.entries := rfl
@[simp] theorem setQueues_lastEntryFix (c : CoreId) (v : QueueState) : (setQueues m c v).lastEntryFix = m.lastEntryFix := rfl
@[simp] theorem setQueues_listsHere (c : CoreId) (v : QueueState) : (setQueues m c v).listsHere = m.listsHere := rfl
@[simp] theorem setQueues_driftGroup (c : CoreId) (v : QueueState) : (setQueues m c v).driftGroup = m.driftGroup := rfl
@[simp] theorem setQueues_driftSince (c : CoreId) (v : QueueState) : (setQueues m c v).driftSince = m.driftSince := rfl
@[simp] theorem setQueues_orderCount (c : CoreId) (v : QueueState) : (setQueues m c v).orderCount = m.orderCount := rfl
@[simp] theorem setQueues_p1Waited (c : CoreId) (v : QueueState) : (setQueues m c v).p1Waited = m.p1Waited := rfl
@[simp] theorem setQueues_fns (c : CoreId) (v : QueueState) : (setQueues m c v).fns = m.fns := rfl
@[simp] theorem setQueues_intake (c : CoreId) (v : QueueState) : (setQueues m c v).intake = m.intake := rfl
@[simp] theorem setQueues_adapters (c : CoreId) (v : QueueState) : (setQueues m c v).adapters = m.adapters := rfl
@[simp] theorem setQueues_adapterWait (c : CoreId) (v : QueueState) : (setQueues m c v).adapterWait = m.adapterWait := rfl
@[simp] theorem setQueues_port (c : CoreId) (v : QueueState) : (setQueues m c v).port = m.port := rfl
@[simp] theorem setQueues_imageRetries (c : CoreId) (v : QueueState) : (setQueues m c v).imageRetries = m.imageRetries := rfl
@[simp] theorem setQueues_bar0 (c : CoreId) (v : QueueState) : (setQueues m c v).bar0 = m.bar0 := rfl
@[simp] theorem setQueues_bundles (c : CoreId) (v : QueueState) : (setQueues m c v).bundles = m.bundles := rfl
@[simp] theorem setQueues_slotRuns (c : CoreId) (v : QueueState) : (setQueues m c v).slotRuns = m.slotRuns := rfl
@[simp] theorem setQueues_ctrlSeen (c : CoreId) (v : QueueState) : (setQueues m c v).ctrlSeen = m.ctrlSeen := rfl
@[simp] theorem setQueues_ctrlSeq (c : CoreId) (v : QueueState) : (setQueues m c v).ctrlSeq = m.ctrlSeq := rfl
@[simp] theorem setQueues_timeParent (c : CoreId) (v : QueueState) : (setQueues m c v).timeParent = m.timeParent := rfl
@[simp] theorem setQueues_ptpHeard (c : CoreId) (v : QueueState) : (setQueues m c v).ptpHeard = m.ptpHeard := rfl
@[simp] theorem setQueues_pendingStep (c : CoreId) (v : QueueState) : (setQueues m c v).pendingStep = m.pendingStep := rfl
@[simp] theorem setQueues_injections (c : CoreId) (v : QueueState) : (setQueues m c v).injections = m.injections := rfl
@[simp] theorem setQueues_provocations (c : CoreId) (v : QueueState) : (setQueues m c v).provocations = m.provocations := rfl
@[simp] theorem setQueues_power (c : CoreId) (v : QueueState) : (setQueues m c v).power = m.power := rfl
@[simp] theorem setQueues_fallback (c : CoreId) (v : QueueState) : (setQueues m c v).fallback = m.fallback := rfl
@[simp] theorem setQueues_events (c : CoreId) (v : QueueState) : (setQueues m c v).events = m.events := rfl
@[simp] theorem setQueues_raised (c : CoreId) (v : QueueState) : (setQueues m c v).raised = m.raised := rfl
@[simp] theorem setQueues_sheet (c : CoreId) (v : QueueState) : (setQueues m c v).sheet = m.sheet := rfl
@[simp] theorem setQueues_sheetWriting (c : CoreId) (v : QueueState) : (setQueues m c v).sheetWriting = m.sheetWriting := rfl
@[simp] theorem setQueues_sheetCut (c : CoreId) (v : QueueState) : (setQueues m c v).sheetCut = m.sheetCut := rfl
@[simp] theorem setQueues_thumbnail (c : CoreId) (v : QueueState) : (setQueues m c v).thumbnail = m.thumbnail := rfl
@[simp] theorem setQueues_flashThumb (c : CoreId) (v : QueueState) : (setQueues m c v).flashThumb = m.flashThumb := rfl
@[simp] theorem setQueues_sec (c : CoreId) (v : QueueState) : (setQueues m c v).sec = m.sec := rfl
@[simp] theorem setQueues_sessions (c : CoreId) (v : QueueState) : (setQueues m c v).sessions = m.sessions := rfl
@[simp] theorem setQueues_badSites (c : CoreId) (v : QueueState) : (setQueues m c v).badSites = m.badSites := rfl
@[simp] theorem setQueues_badCores (c : CoreId) (v : QueueState) : (setQueues m c v).badCores = m.badCores := rfl
@[simp] theorem setQueues_badDunes (c : CoreId) (v : QueueState) : (setQueues m c v).badDunes = m.badDunes := rfl
@[simp] theorem setQueues_selftestDunes (c : CoreId) (v : QueueState) : (setQueues m c v).selftestDunes = m.selftestDunes := rfl
@[simp] theorem setQueues_retirement (c : CoreId) (v : QueueState) : (setQueues m c v).retirement = m.retirement := rfl
@[simp] theorem setQueues_out (c : CoreId) (v : QueueState) : (setQueues m c v).out = m.out := rfl

@[simp] theorem setFn_gradeE (f : Nat) (v : Fn) : (setFn m f v).gradeE = m.gradeE := rfl
@[simp] theorem setFn_steppingB1 (f : Nat) (v : Fn) : (setFn m f v).steppingB1 = m.steppingB1 := rfl
@[simp] theorem setFn_now (f : Nat) (v : Fn) : (setFn m f v).now = m.now := rfl
@[simp] theorem setFn_htcOffset (f : Nat) (v : Fn) : (setFn m f v).htcOffset = m.htcOffset := rfl
@[simp] theorem setFn_fresh (f : Nat) (v : Fn) : (setFn m f v).fresh = m.fresh := rfl
@[simp] theorem setFn_mode (f : Nat) (v : Fn) : (setFn m f v).mode = m.mode := rfl
@[simp] theorem setFn_threads (f : Nat) (v : Fn) : (setFn m f v).threads = m.threads := rfl
@[simp] theorem setFn_rows (f : Nat) (v : Fn) : (setFn m f v).rows = m.rows := rfl
@[simp] theorem setFn_dunes (f : Nat) (v : Fn) : (setFn m f v).dunes = m.dunes := rfl
@[simp] theorem setFn_islands (f : Nat) (v : Fn) : (setFn m f v).islands = m.islands := rfl
@[simp] theorem setFn_offsets (f : Nat) (v : Fn) : (setFn m f v).offsets = m.offsets := rfl
@[simp] theorem setFn_queues (f : Nat) (v : Fn) : (setFn m f v).queues = m.queues := rfl
@[simp] theorem setFn_sram (f : Nat) (v : Fn) : (setFn m f v).sram = m.sram := rfl
@[simp] theorem setFn_hbm (f : Nat) (v : Fn) : (setFn m f v).hbm = m.hbm := rfl
@[simp] theorem setFn_hbmPatch (f : Nat) (v : Fn) : (setFn m f v).hbmPatch = m.hbmPatch := rfl
@[simp] theorem setFn_istore (f : Nat) (v : Fn) : (setFn m f v).istore = m.istore := rfl
@[simp] theorem setFn_landings (f : Nat) (v : Fn) : (setFn m f v).landings = m.landings := rfl
@[simp] theorem setFn_loads (f : Nat) (v : Fn) : (setFn m f v).loads = m.loads := rfl
@[simp] theorem setFn_bankServed (f : Nat) (v : Fn) : (setFn m f v).bankServed = m.bankServed := rfl
@[simp] theorem setFn_packets (f : Nat) (v : Fn) : (setFn m f v).packets = m.packets := rfl
@[simp] theorem setFn_flits (f : Nat) (v : Fn) : (setFn m f v).flits = m.flits := rfl
@[simp] theorem setFn_holders (f : Nat) (v : Fn) : (setFn m f v).holders = m.holders := rfl
@[simp] theorem setFn_turns (f : Nat) (v : Fn) : (setFn m f v).turns = m.turns := rfl
@[simp] theorem setFn_lastSent (f : Nat) (v : Fn) : (setFn m f v).lastSent = m.lastSent := rfl
@[simp] theorem setFn_tc3Sent (f : Nat) (v : Fn) : (setFn m f v).tc3Sent = m.tc3Sent := rfl
@[simp] theorem setFn_bridgeSent (f : Nat) (v : Fn) : (setFn m f v).bridgeSent = m.bridgeSent := rfl
@[simp] theorem setFn_arrivals (f : Nat) (v : Fn) : (setFn m f v).arrivals = m.arrivals := rfl
@[simp] theorem setFn_fabricAt (f : Nat) (v : Fn) : (setFn m f v).fabricAt = m.fabricAt := rfl
@[simp] theorem setFn_avoided (f : Nat) (v : Fn) : (setFn m f v).avoided = m.avoided := rfl
@[simp] theorem setFn_golden (f : Nat) (v : Fn) : (setFn m f v).golden = m.golden := rfl
@[simp] theorem setFn_staging (f : Nat) (v : Fn) : (setFn m f v).staging = m.staging := rfl
@[simp] theorem setFn_selftest (f : Nat) (v : Fn) : (setFn m f v).selftest = m.selftest := rfl
@[simp] theorem setFn_warming (f : Nat) (v : Fn) : (setFn m f v).warming = m.warming := rfl
@[simp] theorem setFn_coeffFrom (f : Nat) (v : Fn) : (setFn m f v).coeffFrom = m.coeffFrom := rfl
@[simp] theorem setFn_coeffTest (f : Nat) (v : Fn) : (setFn m f v).coeffTest = m.coeffTest := rfl
@[simp] theorem setFn_baskFired (f : Nat) (v : Fn) : (setFn m f v).baskFired = m.baskFired := rfl
@[simp] theorem setFn_baskSince (f : Nat) (v : Fn) : (setFn m f v).baskSince = m.baskSince := rfl
@[simp] theorem setFn_hardWaiting (f : Nat) (v : Fn) : (setFn m f v).hardWaiting = m.hardWaiting := rfl
@[simp] theorem setFn_hardAt (f : Nat) (v : Fn) : (setFn m f v).hardAt = m.hardAt := rfl
@[simp] theorem setFn_unitRegs (f : Nat) (v : Fn) : (setFn m f v).unitRegs = m.unitRegs := rfl
@[simp] theorem setFn_ctlLanes (f : Nat) (v : Fn) : (setFn m f v).ctlLanes = m.ctlLanes := rfl
@[simp] theorem setFn_ctrl (f : Nat) (v : Fn) : (setFn m f v).ctrl = m.ctrl := rfl
@[simp] theorem setFn_tablesStale (f : Nat) (v : Fn) : (setFn m f v).tablesStale = m.tablesStale := rfl
@[simp] theorem setFn_hbmServed (f : Nat) (v : Fn) : (setFn m f v).hbmServed = m.hbmServed := rfl
@[simp] theorem setFn_hbmMoved (f : Nat) (v : Fn) : (setFn m f v).hbmMoved = m.hbmMoved := rfl
@[simp] theorem setFn_hbmWindow (f : Nat) (v : Fn) : (setFn m f v).hbmWindow = m.hbmWindow := rfl
@[simp] theorem setFn_imbalancePost (f : Nat) (v : Fn) : (setFn m f v).imbalancePost = m.imbalancePost := rfl
@[simp] theorem setFn_moduleKey (f : Nat) (v : Fn) : (setFn m f v).moduleKey = m.moduleKey := rfl
@[simp] theorem setFn_od (f : Nat) (v : Fn) : (setFn m f v).od = m.od := rfl
@[simp] theorem setFn_waitingB (f : Nat) (v : Fn) : (setFn m f v).waitingB = m.waitingB := rfl
@[simp] theorem setFn_nvQueue (f : Nat) (v : Fn) : (setFn m f v).nvQueue = m.nvQueue := rfl
@[simp] theorem setFn_answers (f : Nat) (v : Fn) : (setFn m f v).answers = m.answers := rfl
@[simp] theorem setFn_odAsked (f : Nat) (v : Fn) : (setFn m f v).odAsked = m.odAsked := rfl
@[simp] theorem setFn_job (f : Nat) (v : Fn) : (setFn m f v).job = m.job := rfl
@[simp] theorem setFn_repl (f : Nat) (v : Fn) : (setFn m f v).repl = m.repl := rfl
@[simp] theorem setFn_restart (f : Nat) (v : Fn) : (setFn m f v).restart = m.restart := rfl
@[simp] theorem setFn_restartTimes (f : Nat) (v : Fn) : (setFn m f v).restartTimes = m.restartTimes := rfl
@[simp] theorem setFn_unloading (f : Nat) (v : Fn) : (setFn m f v).unloading = m.unloading := rfl
@[simp] theorem setFn_draining (f : Nat) (v : Fn) : (setFn m f v).draining = m.draining := rfl
@[simp] theorem setFn_drainSince (f : Nat) (v : Fn) : (setFn m f v).drainSince = m.drainSince := rfl
@[simp] theorem setFn_ctxs (f : Nat) (v : Fn) : (setFn m f v).ctxs = m.ctxs := rfl
@[simp] theorem setFn_passes (f : Nat) (v : Fn) : (setFn m f v).passes = m.passes := rfl
@[simp] theorem setFn_chains (f : Nat) (v : Fn) : (setFn m f v).chains = m.chains := rfl
@[simp] theorem setFn_ledger (f : Nat) (v : Fn) : (setFn m f v).ledger = m.ledger := rfl
@[simp] theorem setFn_entries (f : Nat) (v : Fn) : (setFn m f v).entries = m.entries := rfl
@[simp] theorem setFn_lastEntryFix (f : Nat) (v : Fn) : (setFn m f v).lastEntryFix = m.lastEntryFix := rfl
@[simp] theorem setFn_listsHere (f : Nat) (v : Fn) : (setFn m f v).listsHere = m.listsHere := rfl
@[simp] theorem setFn_driftGroup (f : Nat) (v : Fn) : (setFn m f v).driftGroup = m.driftGroup := rfl
@[simp] theorem setFn_driftSince (f : Nat) (v : Fn) : (setFn m f v).driftSince = m.driftSince := rfl
@[simp] theorem setFn_orderCount (f : Nat) (v : Fn) : (setFn m f v).orderCount = m.orderCount := rfl
@[simp] theorem setFn_p1Waited (f : Nat) (v : Fn) : (setFn m f v).p1Waited = m.p1Waited := rfl
@[simp] theorem setFn_intake (f : Nat) (v : Fn) : (setFn m f v).intake = m.intake := rfl
@[simp] theorem setFn_adapters (f : Nat) (v : Fn) : (setFn m f v).adapters = m.adapters := rfl
@[simp] theorem setFn_adapterWait (f : Nat) (v : Fn) : (setFn m f v).adapterWait = m.adapterWait := rfl
@[simp] theorem setFn_port (f : Nat) (v : Fn) : (setFn m f v).port = m.port := rfl
@[simp] theorem setFn_imageRetries (f : Nat) (v : Fn) : (setFn m f v).imageRetries = m.imageRetries := rfl
@[simp] theorem setFn_bar0 (f : Nat) (v : Fn) : (setFn m f v).bar0 = m.bar0 := rfl
@[simp] theorem setFn_bundles (f : Nat) (v : Fn) : (setFn m f v).bundles = m.bundles := rfl
@[simp] theorem setFn_slotRuns (f : Nat) (v : Fn) : (setFn m f v).slotRuns = m.slotRuns := rfl
@[simp] theorem setFn_ctrlSeen (f : Nat) (v : Fn) : (setFn m f v).ctrlSeen = m.ctrlSeen := rfl
@[simp] theorem setFn_ctrlSeq (f : Nat) (v : Fn) : (setFn m f v).ctrlSeq = m.ctrlSeq := rfl
@[simp] theorem setFn_timeParent (f : Nat) (v : Fn) : (setFn m f v).timeParent = m.timeParent := rfl
@[simp] theorem setFn_ptpHeard (f : Nat) (v : Fn) : (setFn m f v).ptpHeard = m.ptpHeard := rfl
@[simp] theorem setFn_pendingStep (f : Nat) (v : Fn) : (setFn m f v).pendingStep = m.pendingStep := rfl
@[simp] theorem setFn_injections (f : Nat) (v : Fn) : (setFn m f v).injections = m.injections := rfl
@[simp] theorem setFn_provocations (f : Nat) (v : Fn) : (setFn m f v).provocations = m.provocations := rfl
@[simp] theorem setFn_power (f : Nat) (v : Fn) : (setFn m f v).power = m.power := rfl
@[simp] theorem setFn_fallback (f : Nat) (v : Fn) : (setFn m f v).fallback = m.fallback := rfl
@[simp] theorem setFn_events (f : Nat) (v : Fn) : (setFn m f v).events = m.events := rfl
@[simp] theorem setFn_raised (f : Nat) (v : Fn) : (setFn m f v).raised = m.raised := rfl
@[simp] theorem setFn_sheet (f : Nat) (v : Fn) : (setFn m f v).sheet = m.sheet := rfl
@[simp] theorem setFn_sheetWriting (f : Nat) (v : Fn) : (setFn m f v).sheetWriting = m.sheetWriting := rfl
@[simp] theorem setFn_sheetCut (f : Nat) (v : Fn) : (setFn m f v).sheetCut = m.sheetCut := rfl
@[simp] theorem setFn_thumbnail (f : Nat) (v : Fn) : (setFn m f v).thumbnail = m.thumbnail := rfl
@[simp] theorem setFn_flashThumb (f : Nat) (v : Fn) : (setFn m f v).flashThumb = m.flashThumb := rfl
@[simp] theorem setFn_sec (f : Nat) (v : Fn) : (setFn m f v).sec = m.sec := rfl
@[simp] theorem setFn_sessions (f : Nat) (v : Fn) : (setFn m f v).sessions = m.sessions := rfl
@[simp] theorem setFn_badSites (f : Nat) (v : Fn) : (setFn m f v).badSites = m.badSites := rfl
@[simp] theorem setFn_badCores (f : Nat) (v : Fn) : (setFn m f v).badCores = m.badCores := rfl
@[simp] theorem setFn_badDunes (f : Nat) (v : Fn) : (setFn m f v).badDunes = m.badDunes := rfl
@[simp] theorem setFn_selftestDunes (f : Nat) (v : Fn) : (setFn m f v).selftestDunes = m.selftestDunes := rfl
@[simp] theorem setFn_retirement (f : Nat) (v : Fn) : (setFn m f v).retirement = m.retirement := rfl
@[simp] theorem setFn_out (f : Nat) (v : Fn) : (setFn m f v).out = m.out := rfl

@[simp] theorem setCtx_gradeE (c : Nat) (v : Context) : (setCtx m c v).gradeE = m.gradeE := rfl
@[simp] theorem setCtx_steppingB1 (c : Nat) (v : Context) : (setCtx m c v).steppingB1 = m.steppingB1 := rfl
@[simp] theorem setCtx_now (c : Nat) (v : Context) : (setCtx m c v).now = m.now := rfl
@[simp] theorem setCtx_htcOffset (c : Nat) (v : Context) : (setCtx m c v).htcOffset = m.htcOffset := rfl
@[simp] theorem setCtx_fresh (c : Nat) (v : Context) : (setCtx m c v).fresh = m.fresh := rfl
@[simp] theorem setCtx_mode (c : Nat) (v : Context) : (setCtx m c v).mode = m.mode := rfl
@[simp] theorem setCtx_threads (c : Nat) (v : Context) : (setCtx m c v).threads = m.threads := rfl
@[simp] theorem setCtx_rows (c : Nat) (v : Context) : (setCtx m c v).rows = m.rows := rfl
@[simp] theorem setCtx_dunes (c : Nat) (v : Context) : (setCtx m c v).dunes = m.dunes := rfl
@[simp] theorem setCtx_islands (c : Nat) (v : Context) : (setCtx m c v).islands = m.islands := rfl
@[simp] theorem setCtx_offsets (c : Nat) (v : Context) : (setCtx m c v).offsets = m.offsets := rfl
@[simp] theorem setCtx_queues (c : Nat) (v : Context) : (setCtx m c v).queues = m.queues := rfl
@[simp] theorem setCtx_sram (c : Nat) (v : Context) : (setCtx m c v).sram = m.sram := rfl
@[simp] theorem setCtx_hbm (c : Nat) (v : Context) : (setCtx m c v).hbm = m.hbm := rfl
@[simp] theorem setCtx_hbmPatch (c : Nat) (v : Context) : (setCtx m c v).hbmPatch = m.hbmPatch := rfl
@[simp] theorem setCtx_istore (c : Nat) (v : Context) : (setCtx m c v).istore = m.istore := rfl
@[simp] theorem setCtx_landings (c : Nat) (v : Context) : (setCtx m c v).landings = m.landings := rfl
@[simp] theorem setCtx_loads (c : Nat) (v : Context) : (setCtx m c v).loads = m.loads := rfl
@[simp] theorem setCtx_bankServed (c : Nat) (v : Context) : (setCtx m c v).bankServed = m.bankServed := rfl
@[simp] theorem setCtx_packets (c : Nat) (v : Context) : (setCtx m c v).packets = m.packets := rfl
@[simp] theorem setCtx_flits (c : Nat) (v : Context) : (setCtx m c v).flits = m.flits := rfl
@[simp] theorem setCtx_holders (c : Nat) (v : Context) : (setCtx m c v).holders = m.holders := rfl
@[simp] theorem setCtx_turns (c : Nat) (v : Context) : (setCtx m c v).turns = m.turns := rfl
@[simp] theorem setCtx_lastSent (c : Nat) (v : Context) : (setCtx m c v).lastSent = m.lastSent := rfl
@[simp] theorem setCtx_tc3Sent (c : Nat) (v : Context) : (setCtx m c v).tc3Sent = m.tc3Sent := rfl
@[simp] theorem setCtx_bridgeSent (c : Nat) (v : Context) : (setCtx m c v).bridgeSent = m.bridgeSent := rfl
@[simp] theorem setCtx_arrivals (c : Nat) (v : Context) : (setCtx m c v).arrivals = m.arrivals := rfl
@[simp] theorem setCtx_fabricAt (c : Nat) (v : Context) : (setCtx m c v).fabricAt = m.fabricAt := rfl
@[simp] theorem setCtx_avoided (c : Nat) (v : Context) : (setCtx m c v).avoided = m.avoided := rfl
@[simp] theorem setCtx_golden (c : Nat) (v : Context) : (setCtx m c v).golden = m.golden := rfl
@[simp] theorem setCtx_staging (c : Nat) (v : Context) : (setCtx m c v).staging = m.staging := rfl
@[simp] theorem setCtx_selftest (c : Nat) (v : Context) : (setCtx m c v).selftest = m.selftest := rfl
@[simp] theorem setCtx_warming (c : Nat) (v : Context) : (setCtx m c v).warming = m.warming := rfl
@[simp] theorem setCtx_coeffFrom (c : Nat) (v : Context) : (setCtx m c v).coeffFrom = m.coeffFrom := rfl
@[simp] theorem setCtx_coeffTest (c : Nat) (v : Context) : (setCtx m c v).coeffTest = m.coeffTest := rfl
@[simp] theorem setCtx_baskFired (c : Nat) (v : Context) : (setCtx m c v).baskFired = m.baskFired := rfl
@[simp] theorem setCtx_baskSince (c : Nat) (v : Context) : (setCtx m c v).baskSince = m.baskSince := rfl
@[simp] theorem setCtx_hardWaiting (c : Nat) (v : Context) : (setCtx m c v).hardWaiting = m.hardWaiting := rfl
@[simp] theorem setCtx_hardAt (c : Nat) (v : Context) : (setCtx m c v).hardAt = m.hardAt := rfl
@[simp] theorem setCtx_unitRegs (c : Nat) (v : Context) : (setCtx m c v).unitRegs = m.unitRegs := rfl
@[simp] theorem setCtx_ctlLanes (c : Nat) (v : Context) : (setCtx m c v).ctlLanes = m.ctlLanes := rfl
@[simp] theorem setCtx_ctrl (c : Nat) (v : Context) : (setCtx m c v).ctrl = m.ctrl := rfl
@[simp] theorem setCtx_tablesStale (c : Nat) (v : Context) : (setCtx m c v).tablesStale = m.tablesStale := rfl
@[simp] theorem setCtx_hbmServed (c : Nat) (v : Context) : (setCtx m c v).hbmServed = m.hbmServed := rfl
@[simp] theorem setCtx_hbmMoved (c : Nat) (v : Context) : (setCtx m c v).hbmMoved = m.hbmMoved := rfl
@[simp] theorem setCtx_hbmWindow (c : Nat) (v : Context) : (setCtx m c v).hbmWindow = m.hbmWindow := rfl
@[simp] theorem setCtx_imbalancePost (c : Nat) (v : Context) : (setCtx m c v).imbalancePost = m.imbalancePost := rfl
@[simp] theorem setCtx_moduleKey (c : Nat) (v : Context) : (setCtx m c v).moduleKey = m.moduleKey := rfl
@[simp] theorem setCtx_od (c : Nat) (v : Context) : (setCtx m c v).od = m.od := rfl
@[simp] theorem setCtx_waitingB (c : Nat) (v : Context) : (setCtx m c v).waitingB = m.waitingB := rfl
@[simp] theorem setCtx_nvQueue (c : Nat) (v : Context) : (setCtx m c v).nvQueue = m.nvQueue := rfl
@[simp] theorem setCtx_answers (c : Nat) (v : Context) : (setCtx m c v).answers = m.answers := rfl
@[simp] theorem setCtx_odAsked (c : Nat) (v : Context) : (setCtx m c v).odAsked = m.odAsked := rfl
@[simp] theorem setCtx_job (c : Nat) (v : Context) : (setCtx m c v).job = m.job := rfl
@[simp] theorem setCtx_repl (c : Nat) (v : Context) : (setCtx m c v).repl = m.repl := rfl
@[simp] theorem setCtx_restart (c : Nat) (v : Context) : (setCtx m c v).restart = m.restart := rfl
@[simp] theorem setCtx_restartTimes (c : Nat) (v : Context) : (setCtx m c v).restartTimes = m.restartTimes := rfl
@[simp] theorem setCtx_unloading (c : Nat) (v : Context) : (setCtx m c v).unloading = m.unloading := rfl
@[simp] theorem setCtx_draining (c : Nat) (v : Context) : (setCtx m c v).draining = m.draining := rfl
@[simp] theorem setCtx_drainSince (c : Nat) (v : Context) : (setCtx m c v).drainSince = m.drainSince := rfl
@[simp] theorem setCtx_passes (c : Nat) (v : Context) : (setCtx m c v).passes = m.passes := rfl
@[simp] theorem setCtx_chains (c : Nat) (v : Context) : (setCtx m c v).chains = m.chains := rfl
@[simp] theorem setCtx_ledger (c : Nat) (v : Context) : (setCtx m c v).ledger = m.ledger := rfl
@[simp] theorem setCtx_entries (c : Nat) (v : Context) : (setCtx m c v).entries = m.entries := rfl
@[simp] theorem setCtx_lastEntryFix (c : Nat) (v : Context) : (setCtx m c v).lastEntryFix = m.lastEntryFix := rfl
@[simp] theorem setCtx_listsHere (c : Nat) (v : Context) : (setCtx m c v).listsHere = m.listsHere := rfl
@[simp] theorem setCtx_driftGroup (c : Nat) (v : Context) : (setCtx m c v).driftGroup = m.driftGroup := rfl
@[simp] theorem setCtx_driftSince (c : Nat) (v : Context) : (setCtx m c v).driftSince = m.driftSince := rfl
@[simp] theorem setCtx_orderCount (c : Nat) (v : Context) : (setCtx m c v).orderCount = m.orderCount := rfl
@[simp] theorem setCtx_p1Waited (c : Nat) (v : Context) : (setCtx m c v).p1Waited = m.p1Waited := rfl
@[simp] theorem setCtx_fns (c : Nat) (v : Context) : (setCtx m c v).fns = m.fns := rfl
@[simp] theorem setCtx_intake (c : Nat) (v : Context) : (setCtx m c v).intake = m.intake := rfl
@[simp] theorem setCtx_adapters (c : Nat) (v : Context) : (setCtx m c v).adapters = m.adapters := rfl
@[simp] theorem setCtx_adapterWait (c : Nat) (v : Context) : (setCtx m c v).adapterWait = m.adapterWait := rfl
@[simp] theorem setCtx_port (c : Nat) (v : Context) : (setCtx m c v).port = m.port := rfl
@[simp] theorem setCtx_imageRetries (c : Nat) (v : Context) : (setCtx m c v).imageRetries = m.imageRetries := rfl
@[simp] theorem setCtx_bar0 (c : Nat) (v : Context) : (setCtx m c v).bar0 = m.bar0 := rfl
@[simp] theorem setCtx_bundles (c : Nat) (v : Context) : (setCtx m c v).bundles = m.bundles := rfl
@[simp] theorem setCtx_slotRuns (c : Nat) (v : Context) : (setCtx m c v).slotRuns = m.slotRuns := rfl
@[simp] theorem setCtx_ctrlSeen (c : Nat) (v : Context) : (setCtx m c v).ctrlSeen = m.ctrlSeen := rfl
@[simp] theorem setCtx_ctrlSeq (c : Nat) (v : Context) : (setCtx m c v).ctrlSeq = m.ctrlSeq := rfl
@[simp] theorem setCtx_timeParent (c : Nat) (v : Context) : (setCtx m c v).timeParent = m.timeParent := rfl
@[simp] theorem setCtx_ptpHeard (c : Nat) (v : Context) : (setCtx m c v).ptpHeard = m.ptpHeard := rfl
@[simp] theorem setCtx_pendingStep (c : Nat) (v : Context) : (setCtx m c v).pendingStep = m.pendingStep := rfl
@[simp] theorem setCtx_injections (c : Nat) (v : Context) : (setCtx m c v).injections = m.injections := rfl
@[simp] theorem setCtx_provocations (c : Nat) (v : Context) : (setCtx m c v).provocations = m.provocations := rfl
@[simp] theorem setCtx_power (c : Nat) (v : Context) : (setCtx m c v).power = m.power := rfl
@[simp] theorem setCtx_fallback (c : Nat) (v : Context) : (setCtx m c v).fallback = m.fallback := rfl
@[simp] theorem setCtx_events (c : Nat) (v : Context) : (setCtx m c v).events = m.events := rfl
@[simp] theorem setCtx_raised (c : Nat) (v : Context) : (setCtx m c v).raised = m.raised := rfl
@[simp] theorem setCtx_sheet (c : Nat) (v : Context) : (setCtx m c v).sheet = m.sheet := rfl
@[simp] theorem setCtx_sheetWriting (c : Nat) (v : Context) : (setCtx m c v).sheetWriting = m.sheetWriting := rfl
@[simp] theorem setCtx_sheetCut (c : Nat) (v : Context) : (setCtx m c v).sheetCut = m.sheetCut := rfl
@[simp] theorem setCtx_thumbnail (c : Nat) (v : Context) : (setCtx m c v).thumbnail = m.thumbnail := rfl
@[simp] theorem setCtx_flashThumb (c : Nat) (v : Context) : (setCtx m c v).flashThumb = m.flashThumb := rfl
@[simp] theorem setCtx_sec (c : Nat) (v : Context) : (setCtx m c v).sec = m.sec := rfl
@[simp] theorem setCtx_sessions (c : Nat) (v : Context) : (setCtx m c v).sessions = m.sessions := rfl
@[simp] theorem setCtx_badSites (c : Nat) (v : Context) : (setCtx m c v).badSites = m.badSites := rfl
@[simp] theorem setCtx_badCores (c : Nat) (v : Context) : (setCtx m c v).badCores = m.badCores := rfl
@[simp] theorem setCtx_badDunes (c : Nat) (v : Context) : (setCtx m c v).badDunes = m.badDunes := rfl
@[simp] theorem setCtx_selftestDunes (c : Nat) (v : Context) : (setCtx m c v).selftestDunes = m.selftestDunes := rfl
@[simp] theorem setCtx_retirement (c : Nat) (v : Context) : (setCtx m c v).retirement = m.retirement := rfl
@[simp] theorem setCtx_out (c : Nat) (v : Context) : (setCtx m c v).out = m.out := rfl

@[simp] theorem setBundle_gradeE (b : Nat) (v : Bundle) : (setBundle m b v).gradeE = m.gradeE := rfl
@[simp] theorem setBundle_steppingB1 (b : Nat) (v : Bundle) : (setBundle m b v).steppingB1 = m.steppingB1 := rfl
@[simp] theorem setBundle_now (b : Nat) (v : Bundle) : (setBundle m b v).now = m.now := rfl
@[simp] theorem setBundle_htcOffset (b : Nat) (v : Bundle) : (setBundle m b v).htcOffset = m.htcOffset := rfl
@[simp] theorem setBundle_fresh (b : Nat) (v : Bundle) : (setBundle m b v).fresh = m.fresh := rfl
@[simp] theorem setBundle_mode (b : Nat) (v : Bundle) : (setBundle m b v).mode = m.mode := rfl
@[simp] theorem setBundle_threads (b : Nat) (v : Bundle) : (setBundle m b v).threads = m.threads := rfl
@[simp] theorem setBundle_rows (b : Nat) (v : Bundle) : (setBundle m b v).rows = m.rows := rfl
@[simp] theorem setBundle_dunes (b : Nat) (v : Bundle) : (setBundle m b v).dunes = m.dunes := rfl
@[simp] theorem setBundle_islands (b : Nat) (v : Bundle) : (setBundle m b v).islands = m.islands := rfl
@[simp] theorem setBundle_offsets (b : Nat) (v : Bundle) : (setBundle m b v).offsets = m.offsets := rfl
@[simp] theorem setBundle_queues (b : Nat) (v : Bundle) : (setBundle m b v).queues = m.queues := rfl
@[simp] theorem setBundle_sram (b : Nat) (v : Bundle) : (setBundle m b v).sram = m.sram := rfl
@[simp] theorem setBundle_hbm (b : Nat) (v : Bundle) : (setBundle m b v).hbm = m.hbm := rfl
@[simp] theorem setBundle_hbmPatch (b : Nat) (v : Bundle) : (setBundle m b v).hbmPatch = m.hbmPatch := rfl
@[simp] theorem setBundle_istore (b : Nat) (v : Bundle) : (setBundle m b v).istore = m.istore := rfl
@[simp] theorem setBundle_landings (b : Nat) (v : Bundle) : (setBundle m b v).landings = m.landings := rfl
@[simp] theorem setBundle_loads (b : Nat) (v : Bundle) : (setBundle m b v).loads = m.loads := rfl
@[simp] theorem setBundle_bankServed (b : Nat) (v : Bundle) : (setBundle m b v).bankServed = m.bankServed := rfl
@[simp] theorem setBundle_packets (b : Nat) (v : Bundle) : (setBundle m b v).packets = m.packets := rfl
@[simp] theorem setBundle_flits (b : Nat) (v : Bundle) : (setBundle m b v).flits = m.flits := rfl
@[simp] theorem setBundle_holders (b : Nat) (v : Bundle) : (setBundle m b v).holders = m.holders := rfl
@[simp] theorem setBundle_turns (b : Nat) (v : Bundle) : (setBundle m b v).turns = m.turns := rfl
@[simp] theorem setBundle_lastSent (b : Nat) (v : Bundle) : (setBundle m b v).lastSent = m.lastSent := rfl
@[simp] theorem setBundle_tc3Sent (b : Nat) (v : Bundle) : (setBundle m b v).tc3Sent = m.tc3Sent := rfl
@[simp] theorem setBundle_bridgeSent (b : Nat) (v : Bundle) : (setBundle m b v).bridgeSent = m.bridgeSent := rfl
@[simp] theorem setBundle_arrivals (b : Nat) (v : Bundle) : (setBundle m b v).arrivals = m.arrivals := rfl
@[simp] theorem setBundle_fabricAt (b : Nat) (v : Bundle) : (setBundle m b v).fabricAt = m.fabricAt := rfl
@[simp] theorem setBundle_avoided (b : Nat) (v : Bundle) : (setBundle m b v).avoided = m.avoided := rfl
@[simp] theorem setBundle_golden (b : Nat) (v : Bundle) : (setBundle m b v).golden = m.golden := rfl
@[simp] theorem setBundle_staging (b : Nat) (v : Bundle) : (setBundle m b v).staging = m.staging := rfl
@[simp] theorem setBundle_selftest (b : Nat) (v : Bundle) : (setBundle m b v).selftest = m.selftest := rfl
@[simp] theorem setBundle_warming (b : Nat) (v : Bundle) : (setBundle m b v).warming = m.warming := rfl
@[simp] theorem setBundle_coeffFrom (b : Nat) (v : Bundle) : (setBundle m b v).coeffFrom = m.coeffFrom := rfl
@[simp] theorem setBundle_coeffTest (b : Nat) (v : Bundle) : (setBundle m b v).coeffTest = m.coeffTest := rfl
@[simp] theorem setBundle_baskFired (b : Nat) (v : Bundle) : (setBundle m b v).baskFired = m.baskFired := rfl
@[simp] theorem setBundle_baskSince (b : Nat) (v : Bundle) : (setBundle m b v).baskSince = m.baskSince := rfl
@[simp] theorem setBundle_hardWaiting (b : Nat) (v : Bundle) : (setBundle m b v).hardWaiting = m.hardWaiting := rfl
@[simp] theorem setBundle_hardAt (b : Nat) (v : Bundle) : (setBundle m b v).hardAt = m.hardAt := rfl
@[simp] theorem setBundle_unitRegs (b : Nat) (v : Bundle) : (setBundle m b v).unitRegs = m.unitRegs := rfl
@[simp] theorem setBundle_ctlLanes (b : Nat) (v : Bundle) : (setBundle m b v).ctlLanes = m.ctlLanes := rfl
@[simp] theorem setBundle_ctrl (b : Nat) (v : Bundle) : (setBundle m b v).ctrl = m.ctrl := rfl
@[simp] theorem setBundle_tablesStale (b : Nat) (v : Bundle) : (setBundle m b v).tablesStale = m.tablesStale := rfl
@[simp] theorem setBundle_hbmServed (b : Nat) (v : Bundle) : (setBundle m b v).hbmServed = m.hbmServed := rfl
@[simp] theorem setBundle_hbmMoved (b : Nat) (v : Bundle) : (setBundle m b v).hbmMoved = m.hbmMoved := rfl
@[simp] theorem setBundle_hbmWindow (b : Nat) (v : Bundle) : (setBundle m b v).hbmWindow = m.hbmWindow := rfl
@[simp] theorem setBundle_imbalancePost (b : Nat) (v : Bundle) : (setBundle m b v).imbalancePost = m.imbalancePost := rfl
@[simp] theorem setBundle_moduleKey (b : Nat) (v : Bundle) : (setBundle m b v).moduleKey = m.moduleKey := rfl
@[simp] theorem setBundle_od (b : Nat) (v : Bundle) : (setBundle m b v).od = m.od := rfl
@[simp] theorem setBundle_waitingB (b : Nat) (v : Bundle) : (setBundle m b v).waitingB = m.waitingB := rfl
@[simp] theorem setBundle_nvQueue (b : Nat) (v : Bundle) : (setBundle m b v).nvQueue = m.nvQueue := rfl
@[simp] theorem setBundle_answers (b : Nat) (v : Bundle) : (setBundle m b v).answers = m.answers := rfl
@[simp] theorem setBundle_odAsked (b : Nat) (v : Bundle) : (setBundle m b v).odAsked = m.odAsked := rfl
@[simp] theorem setBundle_job (b : Nat) (v : Bundle) : (setBundle m b v).job = m.job := rfl
@[simp] theorem setBundle_repl (b : Nat) (v : Bundle) : (setBundle m b v).repl = m.repl := rfl
@[simp] theorem setBundle_restart (b : Nat) (v : Bundle) : (setBundle m b v).restart = m.restart := rfl
@[simp] theorem setBundle_restartTimes (b : Nat) (v : Bundle) : (setBundle m b v).restartTimes = m.restartTimes := rfl
@[simp] theorem setBundle_unloading (b : Nat) (v : Bundle) : (setBundle m b v).unloading = m.unloading := rfl
@[simp] theorem setBundle_draining (b : Nat) (v : Bundle) : (setBundle m b v).draining = m.draining := rfl
@[simp] theorem setBundle_drainSince (b : Nat) (v : Bundle) : (setBundle m b v).drainSince = m.drainSince := rfl
@[simp] theorem setBundle_ctxs (b : Nat) (v : Bundle) : (setBundle m b v).ctxs = m.ctxs := rfl
@[simp] theorem setBundle_passes (b : Nat) (v : Bundle) : (setBundle m b v).passes = m.passes := rfl
@[simp] theorem setBundle_chains (b : Nat) (v : Bundle) : (setBundle m b v).chains = m.chains := rfl
@[simp] theorem setBundle_ledger (b : Nat) (v : Bundle) : (setBundle m b v).ledger = m.ledger := rfl
@[simp] theorem setBundle_entries (b : Nat) (v : Bundle) : (setBundle m b v).entries = m.entries := rfl
@[simp] theorem setBundle_lastEntryFix (b : Nat) (v : Bundle) : (setBundle m b v).lastEntryFix = m.lastEntryFix := rfl
@[simp] theorem setBundle_listsHere (b : Nat) (v : Bundle) : (setBundle m b v).listsHere = m.listsHere := rfl
@[simp] theorem setBundle_driftGroup (b : Nat) (v : Bundle) : (setBundle m b v).driftGroup = m.driftGroup := rfl
@[simp] theorem setBundle_driftSince (b : Nat) (v : Bundle) : (setBundle m b v).driftSince = m.driftSince := rfl
@[simp] theorem setBundle_orderCount (b : Nat) (v : Bundle) : (setBundle m b v).orderCount = m.orderCount := rfl
@[simp] theorem setBundle_p1Waited (b : Nat) (v : Bundle) : (setBundle m b v).p1Waited = m.p1Waited := rfl
@[simp] theorem setBundle_fns (b : Nat) (v : Bundle) : (setBundle m b v).fns = m.fns := rfl
@[simp] theorem setBundle_intake (b : Nat) (v : Bundle) : (setBundle m b v).intake = m.intake := rfl
@[simp] theorem setBundle_adapters (b : Nat) (v : Bundle) : (setBundle m b v).adapters = m.adapters := rfl
@[simp] theorem setBundle_adapterWait (b : Nat) (v : Bundle) : (setBundle m b v).adapterWait = m.adapterWait := rfl
@[simp] theorem setBundle_port (b : Nat) (v : Bundle) : (setBundle m b v).port = m.port := rfl
@[simp] theorem setBundle_imageRetries (b : Nat) (v : Bundle) : (setBundle m b v).imageRetries = m.imageRetries := rfl
@[simp] theorem setBundle_bar0 (b : Nat) (v : Bundle) : (setBundle m b v).bar0 = m.bar0 := rfl
@[simp] theorem setBundle_slotRuns (b : Nat) (v : Bundle) : (setBundle m b v).slotRuns = m.slotRuns := rfl
@[simp] theorem setBundle_ctrlSeen (b : Nat) (v : Bundle) : (setBundle m b v).ctrlSeen = m.ctrlSeen := rfl
@[simp] theorem setBundle_ctrlSeq (b : Nat) (v : Bundle) : (setBundle m b v).ctrlSeq = m.ctrlSeq := rfl
@[simp] theorem setBundle_timeParent (b : Nat) (v : Bundle) : (setBundle m b v).timeParent = m.timeParent := rfl
@[simp] theorem setBundle_ptpHeard (b : Nat) (v : Bundle) : (setBundle m b v).ptpHeard = m.ptpHeard := rfl
@[simp] theorem setBundle_pendingStep (b : Nat) (v : Bundle) : (setBundle m b v).pendingStep = m.pendingStep := rfl
@[simp] theorem setBundle_injections (b : Nat) (v : Bundle) : (setBundle m b v).injections = m.injections := rfl
@[simp] theorem setBundle_provocations (b : Nat) (v : Bundle) : (setBundle m b v).provocations = m.provocations := rfl
@[simp] theorem setBundle_power (b : Nat) (v : Bundle) : (setBundle m b v).power = m.power := rfl
@[simp] theorem setBundle_fallback (b : Nat) (v : Bundle) : (setBundle m b v).fallback = m.fallback := rfl
@[simp] theorem setBundle_events (b : Nat) (v : Bundle) : (setBundle m b v).events = m.events := rfl
@[simp] theorem setBundle_raised (b : Nat) (v : Bundle) : (setBundle m b v).raised = m.raised := rfl
@[simp] theorem setBundle_sheet (b : Nat) (v : Bundle) : (setBundle m b v).sheet = m.sheet := rfl
@[simp] theorem setBundle_sheetWriting (b : Nat) (v : Bundle) : (setBundle m b v).sheetWriting = m.sheetWriting := rfl
@[simp] theorem setBundle_sheetCut (b : Nat) (v : Bundle) : (setBundle m b v).sheetCut = m.sheetCut := rfl
@[simp] theorem setBundle_thumbnail (b : Nat) (v : Bundle) : (setBundle m b v).thumbnail = m.thumbnail := rfl
@[simp] theorem setBundle_flashThumb (b : Nat) (v : Bundle) : (setBundle m b v).flashThumb = m.flashThumb := rfl
@[simp] theorem setBundle_sec (b : Nat) (v : Bundle) : (setBundle m b v).sec = m.sec := rfl
@[simp] theorem setBundle_sessions (b : Nat) (v : Bundle) : (setBundle m b v).sessions = m.sessions := rfl
@[simp] theorem setBundle_badSites (b : Nat) (v : Bundle) : (setBundle m b v).badSites = m.badSites := rfl
@[simp] theorem setBundle_badCores (b : Nat) (v : Bundle) : (setBundle m b v).badCores = m.badCores := rfl
@[simp] theorem setBundle_badDunes (b : Nat) (v : Bundle) : (setBundle m b v).badDunes = m.badDunes := rfl
@[simp] theorem setBundle_selftestDunes (b : Nat) (v : Bundle) : (setBundle m b v).selftestDunes = m.selftestDunes := rfl
@[simp] theorem setBundle_retirement (b : Nat) (v : Bundle) : (setBundle m b v).retirement = m.retirement := rfl
@[simp] theorem setBundle_out (b : Nat) (v : Bundle) : (setBundle m b v).out = m.out := rfl

@[simp] theorem emit_gradeE (o : Output) : (emit m o).gradeE = m.gradeE := rfl
@[simp] theorem emit_steppingB1 (o : Output) : (emit m o).steppingB1 = m.steppingB1 := rfl
@[simp] theorem emit_now (o : Output) : (emit m o).now = m.now := rfl
@[simp] theorem emit_htcOffset (o : Output) : (emit m o).htcOffset = m.htcOffset := rfl
@[simp] theorem emit_fresh (o : Output) : (emit m o).fresh = m.fresh := rfl
@[simp] theorem emit_mode (o : Output) : (emit m o).mode = m.mode := rfl
@[simp] theorem emit_threads (o : Output) : (emit m o).threads = m.threads := rfl
@[simp] theorem emit_rows (o : Output) : (emit m o).rows = m.rows := rfl
@[simp] theorem emit_dunes (o : Output) : (emit m o).dunes = m.dunes := rfl
@[simp] theorem emit_islands (o : Output) : (emit m o).islands = m.islands := rfl
@[simp] theorem emit_offsets (o : Output) : (emit m o).offsets = m.offsets := rfl
@[simp] theorem emit_queues (o : Output) : (emit m o).queues = m.queues := rfl
@[simp] theorem emit_sram (o : Output) : (emit m o).sram = m.sram := rfl
@[simp] theorem emit_hbm (o : Output) : (emit m o).hbm = m.hbm := rfl
@[simp] theorem emit_hbmPatch (o : Output) : (emit m o).hbmPatch = m.hbmPatch := rfl
@[simp] theorem emit_istore (o : Output) : (emit m o).istore = m.istore := rfl
@[simp] theorem emit_landings (o : Output) : (emit m o).landings = m.landings := rfl
@[simp] theorem emit_loads (o : Output) : (emit m o).loads = m.loads := rfl
@[simp] theorem emit_bankServed (o : Output) : (emit m o).bankServed = m.bankServed := rfl
@[simp] theorem emit_packets (o : Output) : (emit m o).packets = m.packets := rfl
@[simp] theorem emit_flits (o : Output) : (emit m o).flits = m.flits := rfl
@[simp] theorem emit_holders (o : Output) : (emit m o).holders = m.holders := rfl
@[simp] theorem emit_turns (o : Output) : (emit m o).turns = m.turns := rfl
@[simp] theorem emit_lastSent (o : Output) : (emit m o).lastSent = m.lastSent := rfl
@[simp] theorem emit_tc3Sent (o : Output) : (emit m o).tc3Sent = m.tc3Sent := rfl
@[simp] theorem emit_bridgeSent (o : Output) : (emit m o).bridgeSent = m.bridgeSent := rfl
@[simp] theorem emit_arrivals (o : Output) : (emit m o).arrivals = m.arrivals := rfl
@[simp] theorem emit_fabricAt (o : Output) : (emit m o).fabricAt = m.fabricAt := rfl
@[simp] theorem emit_avoided (o : Output) : (emit m o).avoided = m.avoided := rfl
@[simp] theorem emit_golden (o : Output) : (emit m o).golden = m.golden := rfl
@[simp] theorem emit_staging (o : Output) : (emit m o).staging = m.staging := rfl
@[simp] theorem emit_selftest (o : Output) : (emit m o).selftest = m.selftest := rfl
@[simp] theorem emit_warming (o : Output) : (emit m o).warming = m.warming := rfl
@[simp] theorem emit_coeffFrom (o : Output) : (emit m o).coeffFrom = m.coeffFrom := rfl
@[simp] theorem emit_coeffTest (o : Output) : (emit m o).coeffTest = m.coeffTest := rfl
@[simp] theorem emit_baskFired (o : Output) : (emit m o).baskFired = m.baskFired := rfl
@[simp] theorem emit_baskSince (o : Output) : (emit m o).baskSince = m.baskSince := rfl
@[simp] theorem emit_hardWaiting (o : Output) : (emit m o).hardWaiting = m.hardWaiting := rfl
@[simp] theorem emit_hardAt (o : Output) : (emit m o).hardAt = m.hardAt := rfl
@[simp] theorem emit_unitRegs (o : Output) : (emit m o).unitRegs = m.unitRegs := rfl
@[simp] theorem emit_ctlLanes (o : Output) : (emit m o).ctlLanes = m.ctlLanes := rfl
@[simp] theorem emit_ctrl (o : Output) : (emit m o).ctrl = m.ctrl := rfl
@[simp] theorem emit_tablesStale (o : Output) : (emit m o).tablesStale = m.tablesStale := rfl
@[simp] theorem emit_hbmServed (o : Output) : (emit m o).hbmServed = m.hbmServed := rfl
@[simp] theorem emit_hbmMoved (o : Output) : (emit m o).hbmMoved = m.hbmMoved := rfl
@[simp] theorem emit_hbmWindow (o : Output) : (emit m o).hbmWindow = m.hbmWindow := rfl
@[simp] theorem emit_imbalancePost (o : Output) : (emit m o).imbalancePost = m.imbalancePost := rfl
@[simp] theorem emit_moduleKey (o : Output) : (emit m o).moduleKey = m.moduleKey := rfl
@[simp] theorem emit_od (o : Output) : (emit m o).od = m.od := rfl
@[simp] theorem emit_waitingB (o : Output) : (emit m o).waitingB = m.waitingB := rfl
@[simp] theorem emit_nvQueue (o : Output) : (emit m o).nvQueue = m.nvQueue := rfl
@[simp] theorem emit_answers (o : Output) : (emit m o).answers = m.answers := rfl
@[simp] theorem emit_odAsked (o : Output) : (emit m o).odAsked = m.odAsked := rfl
@[simp] theorem emit_job (o : Output) : (emit m o).job = m.job := rfl
@[simp] theorem emit_repl (o : Output) : (emit m o).repl = m.repl := rfl
@[simp] theorem emit_restart (o : Output) : (emit m o).restart = m.restart := rfl
@[simp] theorem emit_restartTimes (o : Output) : (emit m o).restartTimes = m.restartTimes := rfl
@[simp] theorem emit_unloading (o : Output) : (emit m o).unloading = m.unloading := rfl
@[simp] theorem emit_draining (o : Output) : (emit m o).draining = m.draining := rfl
@[simp] theorem emit_drainSince (o : Output) : (emit m o).drainSince = m.drainSince := rfl
@[simp] theorem emit_ctxs (o : Output) : (emit m o).ctxs = m.ctxs := rfl
@[simp] theorem emit_passes (o : Output) : (emit m o).passes = m.passes := rfl
@[simp] theorem emit_chains (o : Output) : (emit m o).chains = m.chains := rfl
@[simp] theorem emit_ledger (o : Output) : (emit m o).ledger = m.ledger := rfl
@[simp] theorem emit_entries (o : Output) : (emit m o).entries = m.entries := rfl
@[simp] theorem emit_lastEntryFix (o : Output) : (emit m o).lastEntryFix = m.lastEntryFix := rfl
@[simp] theorem emit_listsHere (o : Output) : (emit m o).listsHere = m.listsHere := rfl
@[simp] theorem emit_driftGroup (o : Output) : (emit m o).driftGroup = m.driftGroup := rfl
@[simp] theorem emit_driftSince (o : Output) : (emit m o).driftSince = m.driftSince := rfl
@[simp] theorem emit_orderCount (o : Output) : (emit m o).orderCount = m.orderCount := rfl
@[simp] theorem emit_p1Waited (o : Output) : (emit m o).p1Waited = m.p1Waited := rfl
@[simp] theorem emit_fns (o : Output) : (emit m o).fns = m.fns := rfl
@[simp] theorem emit_intake (o : Output) : (emit m o).intake = m.intake := rfl
@[simp] theorem emit_adapters (o : Output) : (emit m o).adapters = m.adapters := rfl
@[simp] theorem emit_adapterWait (o : Output) : (emit m o).adapterWait = m.adapterWait := rfl
@[simp] theorem emit_port (o : Output) : (emit m o).port = m.port := rfl
@[simp] theorem emit_imageRetries (o : Output) : (emit m o).imageRetries = m.imageRetries := rfl
@[simp] theorem emit_bar0 (o : Output) : (emit m o).bar0 = m.bar0 := rfl
@[simp] theorem emit_bundles (o : Output) : (emit m o).bundles = m.bundles := rfl
@[simp] theorem emit_slotRuns (o : Output) : (emit m o).slotRuns = m.slotRuns := rfl
@[simp] theorem emit_ctrlSeen (o : Output) : (emit m o).ctrlSeen = m.ctrlSeen := rfl
@[simp] theorem emit_ctrlSeq (o : Output) : (emit m o).ctrlSeq = m.ctrlSeq := rfl
@[simp] theorem emit_timeParent (o : Output) : (emit m o).timeParent = m.timeParent := rfl
@[simp] theorem emit_ptpHeard (o : Output) : (emit m o).ptpHeard = m.ptpHeard := rfl
@[simp] theorem emit_pendingStep (o : Output) : (emit m o).pendingStep = m.pendingStep := rfl
@[simp] theorem emit_injections (o : Output) : (emit m o).injections = m.injections := rfl
@[simp] theorem emit_provocations (o : Output) : (emit m o).provocations = m.provocations := rfl
@[simp] theorem emit_power (o : Output) : (emit m o).power = m.power := rfl
@[simp] theorem emit_fallback (o : Output) : (emit m o).fallback = m.fallback := rfl
@[simp] theorem emit_events (o : Output) : (emit m o).events = m.events := rfl
@[simp] theorem emit_raised (o : Output) : (emit m o).raised = m.raised := rfl
@[simp] theorem emit_sheet (o : Output) : (emit m o).sheet = m.sheet := rfl
@[simp] theorem emit_sheetWriting (o : Output) : (emit m o).sheetWriting = m.sheetWriting := rfl
@[simp] theorem emit_sheetCut (o : Output) : (emit m o).sheetCut = m.sheetCut := rfl
@[simp] theorem emit_thumbnail (o : Output) : (emit m o).thumbnail = m.thumbnail := rfl
@[simp] theorem emit_flashThumb (o : Output) : (emit m o).flashThumb = m.flashThumb := rfl
@[simp] theorem emit_sec (o : Output) : (emit m o).sec = m.sec := rfl
@[simp] theorem emit_sessions (o : Output) : (emit m o).sessions = m.sessions := rfl
@[simp] theorem emit_badSites (o : Output) : (emit m o).badSites = m.badSites := rfl
@[simp] theorem emit_badCores (o : Output) : (emit m o).badCores = m.badCores := rfl
@[simp] theorem emit_badDunes (o : Output) : (emit m o).badDunes = m.badDunes := rfl
@[simp] theorem emit_selftestDunes (o : Output) : (emit m o).selftestDunes = m.selftestDunes := rfl
@[simp] theorem emit_retirement (o : Output) : (emit m o).retirement = m.retirement := rfl

/-! ## Accessors after updates -/

@[simp] theorem emit_out (o : Output) : (emit m o).out = m.out ++ [o] := rfl

@[simp] theorem getThread_setThread_same (t : Thread) (v : ThreadState) : getThread (setThread m t v) t = v := by simp [getThread, setThread]
@[simp] theorem getRow_setRow_same (r : RowId) (v : RowState) : getRow (setRow m r v) r = v := by simp [getRow, setRow]
@[simp] theorem getDune_setDune_same (d : DuneId) (v : DuneState) : getDune (setDune m d v) d = v := by simp [getDune, setDune]
@[simp] theorem getQueues_setQueues_same (c : CoreId) (v : QueueState) : getQueues (setQueues m c v) c = v := by simp [getQueues, setQueues]
@[simp] theorem getFn_setFn_same (f : Nat) (v : Fn) : getFn (setFn m f v) f = v := by simp [getFn, setFn]
@[simp] theorem getCtx_setCtx_same (c : Nat) (v : Context) : getCtx (setCtx m c v) c = v := by simp [getCtx, setCtx]
@[simp] theorem getBundle_setBundle_same (b : Nat) (v : Bundle) : getBundle (setBundle m b v) b = v := by simp [getBundle, setBundle]

@[simp] theorem getRow_setThread (t : Thread) (v : ThreadState) (x : RowId) : getRow (setThread m t v) x = getRow m x := rfl
@[simp] theorem getDune_setThread (t : Thread) (v : ThreadState) (x : DuneId) : getDune (setThread m t v) x = getDune m x := rfl
@[simp] theorem getQueues_setThread (t : Thread) (v : ThreadState) (x : CoreId) : getQueues (setThread m t v) x = getQueues m x := rfl
@[simp] theorem getFn_setThread (t : Thread) (v : ThreadState) (x : Nat) : getFn (setThread m t v) x = getFn m x := rfl
@[simp] theorem getCtx_setThread (t : Thread) (v : ThreadState) (x : Nat) : getCtx (setThread m t v) x = getCtx m x := rfl
@[simp] theorem getBundle_setThread (t : Thread) (v : ThreadState) (x : Nat) : getBundle (setThread m t v) x = getBundle m x := rfl
@[simp] theorem getThread_setRow (r : RowId) (v : RowState) (x : Thread) : getThread (setRow m r v) x = getThread m x := rfl
@[simp] theorem getDune_setRow (r : RowId) (v : RowState) (x : DuneId) : getDune (setRow m r v) x = getDune m x := rfl
@[simp] theorem getQueues_setRow (r : RowId) (v : RowState) (x : CoreId) : getQueues (setRow m r v) x = getQueues m x := rfl
@[simp] theorem getFn_setRow (r : RowId) (v : RowState) (x : Nat) : getFn (setRow m r v) x = getFn m x := rfl
@[simp] theorem getCtx_setRow (r : RowId) (v : RowState) (x : Nat) : getCtx (setRow m r v) x = getCtx m x := rfl
@[simp] theorem getBundle_setRow (r : RowId) (v : RowState) (x : Nat) : getBundle (setRow m r v) x = getBundle m x := rfl
@[simp] theorem getThread_setDune (d : DuneId) (v : DuneState) (x : Thread) : getThread (setDune m d v) x = getThread m x := rfl
@[simp] theorem getRow_setDune (d : DuneId) (v : DuneState) (x : RowId) : getRow (setDune m d v) x = getRow m x := rfl
@[simp] theorem getQueues_setDune (d : DuneId) (v : DuneState) (x : CoreId) : getQueues (setDune m d v) x = getQueues m x := rfl
@[simp] theorem getFn_setDune (d : DuneId) (v : DuneState) (x : Nat) : getFn (setDune m d v) x = getFn m x := rfl
@[simp] theorem getCtx_setDune (d : DuneId) (v : DuneState) (x : Nat) : getCtx (setDune m d v) x = getCtx m x := rfl
@[simp] theorem getBundle_setDune (d : DuneId) (v : DuneState) (x : Nat) : getBundle (setDune m d v) x = getBundle m x := rfl
@[simp] theorem getThread_setQueues (c : CoreId) (v : QueueState) (x : Thread) : getThread (setQueues m c v) x = getThread m x := rfl
@[simp] theorem getRow_setQueues (c : CoreId) (v : QueueState) (x : RowId) : getRow (setQueues m c v) x = getRow m x := rfl
@[simp] theorem getDune_setQueues (c : CoreId) (v : QueueState) (x : DuneId) : getDune (setQueues m c v) x = getDune m x := rfl
@[simp] theorem getFn_setQueues (c : CoreId) (v : QueueState) (x : Nat) : getFn (setQueues m c v) x = getFn m x := rfl
@[simp] theorem getCtx_setQueues (c : CoreId) (v : QueueState) (x : Nat) : getCtx (setQueues m c v) x = getCtx m x := rfl
@[simp] theorem getBundle_setQueues (c : CoreId) (v : QueueState) (x : Nat) : getBundle (setQueues m c v) x = getBundle m x := rfl
@[simp] theorem getThread_setFn (f : Nat) (v : Fn) (x : Thread) : getThread (setFn m f v) x = getThread m x := rfl
@[simp] theorem getRow_setFn (f : Nat) (v : Fn) (x : RowId) : getRow (setFn m f v) x = getRow m x := rfl
@[simp] theorem getDune_setFn (f : Nat) (v : Fn) (x : DuneId) : getDune (setFn m f v) x = getDune m x := rfl
@[simp] theorem getQueues_setFn (f : Nat) (v : Fn) (x : CoreId) : getQueues (setFn m f v) x = getQueues m x := rfl
@[simp] theorem getCtx_setFn (f : Nat) (v : Fn) (x : Nat) : getCtx (setFn m f v) x = getCtx m x := rfl
@[simp] theorem getBundle_setFn (f : Nat) (v : Fn) (x : Nat) : getBundle (setFn m f v) x = getBundle m x := rfl
@[simp] theorem getThread_setCtx (c : Nat) (v : Context) (x : Thread) : getThread (setCtx m c v) x = getThread m x := rfl
@[simp] theorem getRow_setCtx (c : Nat) (v : Context) (x : RowId) : getRow (setCtx m c v) x = getRow m x := rfl
@[simp] theorem getDune_setCtx (c : Nat) (v : Context) (x : DuneId) : getDune (setCtx m c v) x = getDune m x := rfl
@[simp] theorem getQueues_setCtx (c : Nat) (v : Context) (x : CoreId) : getQueues (setCtx m c v) x = getQueues m x := rfl
@[simp] theorem getFn_setCtx (c : Nat) (v : Context) (x : Nat) : getFn (setCtx m c v) x = getFn m x := rfl
@[simp] theorem getBundle_setCtx (c : Nat) (v : Context) (x : Nat) : getBundle (setCtx m c v) x = getBundle m x := rfl
@[simp] theorem getThread_setBundle (b : Nat) (v : Bundle) (x : Thread) : getThread (setBundle m b v) x = getThread m x := rfl
@[simp] theorem getRow_setBundle (b : Nat) (v : Bundle) (x : RowId) : getRow (setBundle m b v) x = getRow m x := rfl
@[simp] theorem getDune_setBundle (b : Nat) (v : Bundle) (x : DuneId) : getDune (setBundle m b v) x = getDune m x := rfl
@[simp] theorem getQueues_setBundle (b : Nat) (v : Bundle) (x : CoreId) : getQueues (setBundle m b v) x = getQueues m x := rfl
@[simp] theorem getFn_setBundle (b : Nat) (v : Bundle) (x : Nat) : getFn (setBundle m b v) x = getFn m x := rfl
@[simp] theorem getCtx_setBundle (b : Nat) (v : Bundle) (x : Nat) : getCtx (setBundle m b v) x = getCtx m x := rfl
@[simp] theorem getThread_emit (o : Output) (x : Thread) : getThread (emit m o) x = getThread m x := rfl
@[simp] theorem getRow_emit (o : Output) (x : RowId) : getRow (emit m o) x = getRow m x := rfl
@[simp] theorem getDune_emit (o : Output) (x : DuneId) : getDune (emit m o) x = getDune m x := rfl
@[simp] theorem getQueues_emit (o : Output) (x : CoreId) : getQueues (emit m o) x = getQueues m x := rfl
@[simp] theorem getFn_emit (o : Output) (x : Nat) : getFn (emit m o) x = getFn m x := rfl
@[simp] theorem getCtx_emit (o : Output) (x : Nat) : getCtx (emit m o) x = getCtx m x := rfl
@[simp] theorem getBundle_emit (o : Output) (x : Nat) : getBundle (emit m o) x = getBundle m x := rfl

/-! ## Keys tell their places apart -/

theorem duneKey_inj {a b : DuneId} (h : duneKey a = duneKey b) : a = b := by
  obtain ⟨⟨e, he⟩, ⟨n, hn⟩⟩ := a
  obtain ⟨⟨e', he'⟩, ⟨n', hn'⟩⟩ := b
  simp only [duneKey] at h
  have h1 : e = e' := by omega
  have h2 : n = n' := by omega
  subst h1 h2
  rfl

theorem rowKey_inj {a b : RowId} (h : rowKey a = rowKey b) : a = b := by
  obtain ⟨d, ⟨n, hn⟩⟩ := a
  obtain ⟨d', ⟨n', hn'⟩⟩ := b
  simp only [rowKey] at h
  have h1 : duneKey d = duneKey d' := by omega
  have h2 : n = n' := by omega
  have h3 := duneKey_inj h1
  subst h2 h3
  rfl

theorem coreKey_inj {a b : CoreId} (h : coreKey a = coreKey b) : a = b := by
  obtain ⟨r, ⟨n, hn⟩⟩ := a
  obtain ⟨r', ⟨n', hn'⟩⟩ := b
  simp only [coreKey] at h
  have h1 : rowKey r = rowKey r' := by omega
  have h2 : n = n' := by omega
  have h3 := rowKey_inj h1
  subst h2 h3
  rfl

theorem threadKey_inj {a b : Thread} (h : threadKey a = threadKey b) : a = b := by
  obtain ⟨c, ⟨n, hn⟩⟩ := a
  obtain ⟨c', ⟨n', hn'⟩⟩ := b
  simp only [threadKey] at h
  have h1 : coreKey c = coreKey c' := by omega
  have h2 : n = n' := by omega
  have h3 := coreKey_inj h1
  subst h2 h3
  rfl

@[simp] theorem getThread_setThread_ne {t u : Thread} (v : ThreadState) (h : u ≠ t) :
    getThread (setThread m t v) u = getThread m u := sget_sset_ne _ _ _ fun e => h (threadKey_inj e)

@[simp] theorem getRow_setRow_ne {r q : RowId} (v : RowState) (h : q ≠ r) : getRow (setRow m r v) q = getRow m q :=
  sget_sset_ne _ _ _ fun e => h (rowKey_inj e)

@[simp] theorem getDune_setDune_ne {d e : DuneId} (v : DuneState) (h : e ≠ d) : getDune (setDune m d v) e = getDune m e :=
  sget_sset_ne _ _ _ fun x => h (duneKey_inj x)

@[simp] theorem getQueues_setQueues_ne {c e : CoreId} (v : QueueState) (h : e ≠ c) :
    getQueues (setQueues m c v) e = getQueues m e := sget_sset_ne _ _ _ fun x => h (coreKey_inj x)

@[simp] theorem getFn_setFn_ne {f g : Nat} (v : Fn) (h : g ≠ f) : getFn (setFn m f v) g = getFn m g := sget_sset_ne _ _ _ h

@[simp] theorem getCtx_setCtx_ne {c e : Nat} (v : Context) (h : e ≠ c) : getCtx (setCtx m c v) e = getCtx m e :=
  sget_sset_ne _ _ _ h

@[simp] theorem getBundle_setBundle_ne {b e : Nat} (v : Bundle) (h : e ≠ b) :
    getBundle (setBundle m b v) e = getBundle m e := sget_sset_ne _ _ _ h

end Sys2Proof.Machine
end

