-- ==== Sys2Proof/Laws/Follows.lean ====
section
/-! SUPPORT. Every operation of the model keeps what `Follows` names: one lemma per operation, in the order of the files. -/

namespace Sys2Proof.Machine

theorem Follows.refl {m : Mach} (h : m.memoryOk) : Follows m m :=
  ⟨h.1, h.2, Nat.le_refl _, List.prefix_rfl, rfl, rfl, rfl, rfl, rfl⟩

theorem Follows.of_eq {k a b : Mach} (h : Follows k a) (h1 : b.sram = a.sram) (h2 : b.hbm = a.hbm) (h3 : b.now = a.now)
    (h4 : b.retirement = a.retirement) (h5 : b.gradeE = a.gradeE) (h6 : b.steppingB1 = a.steppingB1)
    (h7 : b.badSites = a.badSites) (h8 : b.badCores = a.badCores) (h9 : b.badDunes = a.badDunes) : Follows k b :=
  ⟨h1 ▸ h.sram, h2 ▸ h.hbm, h3 ▸ h.now, h4 ▸ h.retirement, h5.trans h.gradeE, h6.trans h.steppingB1, h7.trans h.badSites,
   h8.trans h.badCores, h9.trans h.badDunes⟩

theorem Follows.of_mk {k a : Mach} {gradeE : Bool} {steppingB1 : Bool} {now : Nat} {htcOffset : Int} {fresh : Nat} {mode : ModState} {threads : SMap ThreadState} {rows : SMap RowState} {dunes : SMap DuneState} {islands : SMap IslandState} {offsets : List (Nat × Nat)} {queues : SMap QueueState} {sram : List Host.Cell} {hbm : List Host.Cell} {hbmPatch : SMap (Option Byte)} {istore : SMap W64} {landings : List Landing} {loads : List LoadReq} {bankServed : SMap Nat} {packets : List Packet} {flits : SMap (List Flit)} {holders : SMap (Option Nat)} {turns : SMap Nat} {lastSent : SMap Nat} {tc3Sent : SMap Nat} {bridgeSent : SMap Nat} {arrivals : SMap (List PortUnit)} {fabricAt : Nat} {avoided : List Nat} {golden : SMap (Option BankData)} {staging : SMap (Option BankData)} {selftest : Option PlateTest} {warming : Option (SMap Int)} {coeffFrom : FlashCopy} {coeffTest : Nat} {baskFired : Nat} {baskSince : Nat} {hardWaiting : List HardVerdict} {hardAt : Nat} {unitRegs : SMap W64} {ctlLanes : SMap Nat} {ctrl : List CtrlMsg} {tablesStale : BitVec 4} {hbmServed : SMap Nat} {hbmMoved : Nat} {hbmWindow : Nat} {imbalancePost : Option Nat} {moduleKey : W64} {od : SMap Nat} {waitingB : List (Nat × Nat)} {nvQueue : List NvWrite} {answers : List Answer} {odAsked : List (Nat × Via × Nat × Nat × Nat × Nat)} {job : Option Job} {repl : Option Replacement} {restart : Option Restart} {restartTimes : List Nat} {unloading : Bool} {draining : Bool} {drainSince : Nat} {ctxs : SMap Context} {passes : List Pass} {chains : List Chain} {ledger : SMap Nat} {entries : SMap (List Pass)} {lastEntryFix : Option Nat} {listsHere : List Nat} {driftGroup : Bool} {driftSince : Nat} {orderCount : Nat} {p1Waited : Nat} {fns : SMap Fn} {intake : SMap Byte} {adapters : SMap Adapter} {adapterWait : List (Nat × Nat × Nat)} {port : Port} {imageRetries : List Nat} {bar0 : SMap Byte} {bundles : SMap Bundle} {slotRuns : SMap SlotRun} {ctrlSeen : List (Nat × Nat)} {ctrlSeq : Nat} {timeParent : Option Nat} {ptpHeard : Bool} {pendingStep : Int} {injections : List Armed} {provocations : List Armed} {power : Power} {fallback : FallbackBase} {events : List Event} {raised : List FaultRec} {sheet : Option Sheet} {sheetWriting : Option Nat} {sheetCut : Bool} {thumbnail : Option Sheet} {flashThumb : Option Sheet} {sec : Security} {sessions : List Session} {badSites : List Nat} {badCores : List Nat} {badDunes : List Nat} {selftestDunes : List Nat} {retirement : List Nat} {out : List Output}
    (h : Follows k a) (h0 : sram = a.sram) (h1 : hbm = a.hbm) (h2 : now = a.now) (h3 : retirement = a.retirement) (h4 : gradeE = a.gradeE) (h5 : steppingB1 = a.steppingB1) (h6 : badSites = a.badSites) (h7 : badCores = a.badCores) (h8 : badDunes = a.badDunes) :
    Follows k (Mach.mk gradeE steppingB1 now htcOffset fresh mode threads rows dunes islands offsets queues sram hbm hbmPatch istore landings loads bankServed packets flits holders turns lastSent tc3Sent bridgeSent arrivals fabricAt avoided golden staging selftest warming coeffFrom coeffTest baskFired baskSince hardWaiting hardAt unitRegs ctlLanes ctrl tablesStale hbmServed hbmMoved hbmWindow imbalancePost moduleKey od waitingB nvQueue answers odAsked job repl restart restartTimes unloading draining drainSince ctxs passes chains ledger entries lastEntryFix listsHere driftGroup driftSince orderCount p1Waited fns intake adapters adapterWait port imageRetries bar0 bundles slotRuns ctrlSeen ctrlSeq timeParent ptpHeard pendingStep injections provocations power fallback events raised sheet sheetWriting sheetCut thumbnail flashThumb sec sessions badSites badCores badDunes selftestDunes retirement out) :=
  h.of_eq h0 h1 h2 h3 h4 h5 h6 h7 h8

theorem cut_follows {k e : Mach} {P : Prop} (h : Follows k e) (hb : Follows k e → P) : P := hb h

theorem foldl_follows {α : Type} {k : Mach} {g : Mach → α → Mach} (l : List α) :
    ∀ {m : Mach}, (∀ m x, Follows k m → Follows k (g m x)) → Follows k m → Follows k (l.foldl g m) := by
  induction l with
  | nil => intro _ _ h; exact h
  | cons x rest ih => intro m hg h; exact ih hg (hg _ _ h)

theorem foldl_snd_follows {α β : Type} {k : Mach} {g : β × Mach → α → β × Mach} (l : List α) :
    ∀ {r : β × Mach}, Follows k r.2 → (∀ r x, Follows k r.2 → Follows k (g r x).2) → Follows k (l.foldl g r).2 := by
  induction l with
  | nil => intro _ h _; exact h
  | cons x rest ih => intro r h hg; exact ih (hg _ _ h) hg

/-- A smaller canonical memory: only cells left out. -/
theorem wf_filter {mem : List Host.Cell} (p : Host.Cell → Bool) (h : Memory.wf mem = true) :
    Memory.wf (mem.filter p) = true := canon_filter p h

theorem nextM_follows {k : Mach} {s : State} {f : Mach → Mach} (h : Follows k (f s.m)) :
    ∃ t, nextM s f = .next t ∧ t.pending = s.pending ∧ Follows k t.m := ⟨_, rfl, rfl, h⟩

end Sys2Proof.Machine
end

