-- ==== Sys2Proof/Laws/FollowsObjects.lean ====
section
/-! SUPPORT. The operations and the meanings of Machine/Objects.lean keep what `Follows` names. -/

namespace Sys2Proof.Machine

theorem odSet_follows {k : Mach} (x0 : Mach) (x1 : Nat) (x2 : Nat) (x3 : Nat) (h0 : Follows k x0) :
    Follows k (odSet x0 x1 x2 x3) := by
  unfold odSet
  repeat' (first | with_reducible assumption | (lift_lets; intro mm) | split | intro _ | with_reducible (refine Follows.of_mk ?_ rfl rfl rfl rfl rfl rfl rfl rfl rfl))

theorem count_follows {k : Mach} (x0 : Mach) (x1 : Nat) (x2 : Nat) (x3 : Nat) (h0 : Follows k x0) :
    Follows k (count x0 x1 x2 x3) := by
  unfold count
  repeat' (first | with_reducible assumption | (lift_lets; intro mm) | with_reducible (apply odSet_follows) | split | intro _ | with_reducible (refine Follows.of_mk ?_ rfl rfl rfl rfl rfl rfl rfl rfl rfl))

theorem countDune_follows {k : Mach} (x0 : Mach) (x1 : Nat) (x2 : Nat) (x3 : Nat) (x4 : Nat) (x5 : Nat) (h0 : Follows k x0) :
    Follows k (countDune x0 x1 x2 x3 x4 x5) := by
  unfold countDune
  repeat' (first | with_reducible assumption | (lift_lets; intro mm) | with_reducible (apply count_follows) | split | intro _ | with_reducible (refine Follows.of_mk ?_ rfl rfl rfl rfl rfl rfl rfl rfl rfl))

theorem odClear_follows {k : Mach} (x0 : Mach) (x1 : Nat → Bool) (h0 : Follows k x0) :
    Follows k (odClear x0 x1) := by
  unfold odClear
  repeat' (first | with_reducible assumption | (lift_lets; intro mm) | split | intro _ | with_reducible (refine Follows.of_mk ?_ rfl rfl rfl rfl rfl rfl rfl rfl rfl))

end Sys2Proof.Machine
end

