-- ==== Sys2Proof/Laws/FollowsOps.lean ====
section
/-! SUPPORT. The operations and the meanings of Machine/Ops.lean keep what `Follows` names. -/

namespace Sys2Proof.Machine

theorem setThread_follows {k : Mach} (x0 : Mach) (x1 : Thread) (x2 : ThreadState) (h0 : Follows k x0) :
    Follows k (setThread x0 x1 x2) := by
  unfold setThread
  repeat' (first | with_reducible assumption | (lift_lets; intro mm) | with_reducible (apply foldl_follows) | split | intro _ | with_reducible (refine Follows.of_mk ?_ rfl rfl rfl rfl rfl rfl rfl rfl rfl))

theorem setRow_follows {k : Mach} (x0 : Mach) (x1 : RowId) (x2 : RowState) (h0 : Follows k x0) :
    Follows k (setRow x0 x1 x2) := by
  unfold setRow
  repeat' (first | with_reducible assumption | (lift_lets; intro mm) | with_reducible (apply foldl_follows) | split | intro _ | with_reducible (refine Follows.of_mk ?_ rfl rfl rfl rfl rfl rfl rfl rfl rfl))

theorem setDune_follows {k : Mach} (x0 : Mach) (x1 : DuneId) (x2 : DuneState) (h0 : Follows k x0) :
    Follows k (setDune x0 x1 x2) := by
  unfold setDune
  repeat' (first | with_reducible assumption | (lift_lets; intro mm) | with_reducible (apply foldl_follows) | split | intro _ | with_reducible (refine Follows.of_mk ?_ rfl rfl rfl rfl rfl rfl rfl rfl rfl))

theorem setQueues_follows {k : Mach} (x0 : Mach) (x1 : CoreId) (x2 : QueueState) (h0 : Follows k x0) :
    Follows k (setQueues x0 x1 x2) := by
  unfold setQueues
  repeat' (first | with_reducible assumption | (lift_lets; intro mm) | with_reducible (apply foldl_follows) | split | intro _ | with_reducible (refine Follows.of_mk ?_ rfl rfl rfl rfl rfl rfl rfl rfl rfl))

theorem setFn_follows {k : Mach} (x0 : Mach) (x1 : Nat) (x2 : Fn) (h0 : Follows k x0) :
    Follows k (setFn x0 x1 x2) := by
  unfold setFn
  repeat' (first | with_reducible assumption | (lift_lets; intro mm) | with_reducible (apply foldl_follows) | split | intro _ | with_reducible (refine Follows.of_mk ?_ rfl rfl rfl rfl rfl rfl rfl rfl rfl))

theorem setCtx_follows {k : Mach} (x0 : Mach) (x1 : Nat) (x2 : Context) (h0 : Follows k x0) :
    Follows k (setCtx x0 x1 x2) := by
  unfold setCtx
  repeat' (first | with_reducible assumption | (lift_lets; intro mm) | with_reducible (apply foldl_follows) | split | intro _ | with_reducible (refine Follows.of_mk ?_ rfl rfl rfl rfl rfl rfl rfl rfl rfl))

theorem setBundle_follows {k : Mach} (x0 : Mach) (x1 : Nat) (x2 : Bundle) (h0 : Follows k x0) :
    Follows k (setBundle x0 x1 x2) := by
  unfold setBundle
  repeat' (first | with_reducible assumption | (lift_lets; intro mm) | with_reducible (apply foldl_follows) | split | intro _ | with_reducible (refine Follows.of_mk ?_ rfl rfl rfl rfl rfl rfl rfl rfl rfl))

theorem emit_follows {k : Mach} (x0 : Mach) (x1 : Output) (h0 : Follows k x0) :
    Follows k (emit x0 x1) := by
  unfold emit
  repeat' (first | with_reducible assumption | (lift_lets; intro mm) | with_reducible (apply foldl_follows) | split | intro _ | with_reducible (refine Follows.of_mk ?_ rfl rfl rfl rfl rfl rfl rfl rfl rfl))

theorem hostWrite_follows {k : Mach} (x0 : Mach) (x1 : Nat) (x2 : Nat) (x3 : List Byte) (h0 : Follows k x0) :
    Follows k (hostWrite x0 x1 x2 x3) := by
  unfold hostWrite
  repeat' (first | with_reducible assumption | (lift_lets; intro mm) | with_reducible (apply emit_follows) | with_reducible (apply foldl_follows) | split | intro _ | with_reducible (refine Follows.of_mk ?_ rfl rfl rfl rfl rfl rfl rfl rfl rfl))

theorem hostRead_follows {k : Mach} (x0 : Mach) (x1 : Nat) (x2 : Nat) (x3 : Nat) (h0 : Follows k x0) :
    Follows k (hostRead x0 x1 x2 x3) := by
  unfold hostRead
  repeat' (first | with_reducible assumption | (lift_lets; intro mm) | with_reducible (apply emit_follows) | with_reducible (apply foldl_follows) | split | intro _ | with_reducible (refine Follows.of_mk ?_ rfl rfl rfl rfl rfl rfl rfl rfl rfl))

theorem draw_follows {k : Mach} (x0 : Mach) (h0 : Follows k x0) :
    Follows k (draw x0).2 := by
  unfold draw
  repeat' (first | with_reducible assumption | (lift_lets; intro mm) | with_reducible (apply foldl_follows) | split | intro _ | with_reducible (refine Follows.of_mk ?_ rfl rfl rfl rfl rfl rfl rfl rfl rfl))

theorem draw_follows' {k : Mach} (x0 : Mach) (h0 : Follows k x0) :
    ∀ a z, draw x0 = (a, z) → Follows k z := by
  intro a z e
  have := draw_follows x0  h0 (k := k)
  rw [e] at this
  exact this

theorem raceLocal_follows {k : Mach} (x0 : Mach) (x1 : Nat) (x2 : List Byte) (x3 : Nat) (h0 : Follows k x0) :
    Follows k (raceLocal x0 x1 x2 x3) := by
  unfold raceLocal
  repeat' (first | with_reducible assumption | (lift_lets; intro mm) | with_reducible (apply foldl_follows) | split | intro _ | with_reducible (refine Follows.of_mk ?_ rfl rfl rfl rfl rfl rfl rfl rfl rfl))

theorem landOne_follows {k : Mach} (x0 : Mach) (x1 : Landing) (h0 : Follows k x0) :
    Follows k (landOne x0 x1) := by
  have h1 := raceLocal_follows x0 x1.addr x1.bytes x1.due h0
  exact ⟨wf_writeBytes _ _ h1.sram, h1.hbm, h1.now, h1.retirement, h1.gradeE, h1.steppingB1, h1.badSites, h1.badCores, h1.badDunes⟩

theorem landUpTo_follows {k : Mach} (x0 : Mach) (x1 : Nat) (h0 : Follows k x0) :
    Follows k (landUpTo x0 x1) := by
  unfold landUpTo
  repeat' (first | with_reducible assumption | (lift_lets; intro mm) | with_reducible (apply landOne_follows) | with_reducible (apply foldl_follows) | split | intro _ | with_reducible (refine Follows.of_mk ?_ rfl rfl rfl rfl rfl rfl rfl rfl rfl))

theorem readSram_follows {k : Mach} (x0 : Mach) (x1 : Nat) (x2 : Nat) (h0 : Follows k x0) :
    Follows k (readSram x0 x1 x2).2 := by
  unfold readSram
  refine foldl_snd_follows _ h0 fun r x h => ?_
  exact h.of_eq rfl rfl rfl rfl rfl rfl rfl rfl rfl

theorem readSram_follows' {k : Mach} (x0 : Mach) (x1 : Nat) (x2 : Nat) (h0 : Follows k x0) :
    ∀ a z, readSram x0 x1 x2 = (a, z) → Follows k z := by
  intro a z e
  have := readSram_follows x0 x1 x2  h0 (k := k)
  rw [e] at this
  exact this

theorem serveLoad_follows {k : Mach} (x0 : Mach) (x1 : LoadReq) (h0 : Follows k x0) :
    Follows k (serveLoad x0 x1) := by
  unfold serveLoad
  repeat' (first | with_reducible assumption | (lift_lets; intro mm) | with_reducible (apply landUpTo_follows) | with_reducible (apply readSram_follows) | (refine readSram_follows' _ _ _ ?_ _ _ (by assumption)) | with_reducible (apply countDune_follows) | with_reducible (apply setThread_follows) | with_reducible (apply foldl_follows) | split | intro _ | with_reducible (refine Follows.of_mk ?_ rfl rfl rfl rfl rfl rfl rfl rfl rfl))

theorem settle_follows {k : Mach} (x0 : Mach) (x1 : Nat) (h0 : Follows k x0) :
    Follows k (settle x0 x1) := by
  unfold settle
  have h1 : Follows k { x0 with now := max x0.now x1, loads := x0.loads.filter fun l => decide (max x0.now x1 < l.service) } :=
    ⟨h0.sram, h0.hbm, Nat.le_trans h0.now (Nat.le_max_left _ _), h0.retirement, h0.gradeE, h0.steppingB1, h0.badSites, h0.badCores, h0.badDunes⟩
  exact landUpTo_follows _ _ (foldl_follows _ (fun m x h => serveLoad_follows _ _ h) h1)

theorem land_follows {k : Mach} (x0 : Mach) (x1 : Nat) (x2 : Nat) (x3 : Nat) (x4 : List Byte) (h0 : Follows k x0) :
    Follows k (land x0 x1 x2 x3 x4) := by
  unfold land
  repeat' (first | with_reducible assumption | (lift_lets; intro mm) | with_reducible (apply foldl_follows) | split | intro _ | with_reducible (refine Follows.of_mk ?_ rfl rfl rfl rfl rfl rfl rfl rfl rfl))

theorem postMesh_follows {k : Mach} (x0 : Mach) (x1 : MeshMsg) (h0 : Follows k x0) :
    Follows k (postMesh x0 x1) := by
  unfold postMesh
  repeat' (first | with_reducible assumption | (lift_lets; intro mm) | with_reducible (apply emit_follows) | with_reducible (apply foldl_follows) | split | intro _ | with_reducible (refine Follows.of_mk ?_ rfl rfl rfl rfl rfl rfl rfl rfl rfl))

theorem sendMesh_follows {k : Mach} (x0 : Mach) (x1 : Nat) (x2 : Nat) (x3 : Nat) (x4 : Nat) (x5 : W32) (x6 : W32) (x7 : W32) (h0 : Follows k x0) :
    Follows k (sendMesh x0 x1 x2 x3 x4 x5 x6 x7) := by
  unfold sendMesh
  repeat' (first | with_reducible assumption | (lift_lets; intro mm) | with_reducible (apply postMesh_follows) | with_reducible (apply foldl_follows) | split | intro _ | with_reducible (refine Follows.of_mk ?_ rfl rfl rfl rfl rfl rfl rfl rfl rfl))

theorem msixGenerate_follows {k : Mach} (x0 : Mach) (x1 : Nat) (x2 : Nat) (h0 : Follows k x0) :
    Follows k (msixGenerate x0 x1 x2) := by
  unfold msixGenerate
  repeat' (first | with_reducible assumption | (lift_lets; intro mm) | with_reducible (apply setFn_follows) | with_reducible (apply emit_follows) | with_reducible (apply foldl_follows) | split | intro _ | with_reducible (refine Follows.of_mk ?_ rfl rfl rfl rfl rfl rfl rfl rfl rfl))

theorem msixHeld_follows {k : Mach} (x0 : Mach) (x1 : Nat) (x2 : Nat) (h0 : Follows k x0) :
    Follows k (msixHeld x0 x1 x2) := by
  unfold msixHeld
  repeat' (first | with_reducible assumption | (lift_lets; intro mm) | with_reducible (apply setFn_follows) | with_reducible (apply msixGenerate_follows) | with_reducible (apply foldl_follows) | split | intro _ | with_reducible (refine Follows.of_mk ?_ rfl rfl rfl rfl rfl rfl rfl rfl rfl))

theorem setCauses_follows {k : Mach} (x0 : Mach) (x1 : Nat) (h0 : Follows k x0) :
    Follows k (setCauses x0 x1) := by
  unfold setCauses
  repeat' (first | with_reducible assumption | (lift_lets; intro mm) | with_reducible (apply msixGenerate_follows) | with_reducible (apply setFn_follows) | with_reducible (apply foldl_follows) | split | intro _ | with_reducible (refine Follows.of_mk ?_ rfl rfl rfl rfl rfl rfl rfl rfl rfl))

theorem postEventAt_follows {k : Mach} (x0 : Mach) (x1 : Nat) (x2 : Nat) (x3 : Nat) (x4 : Nat) (x5 : Nat) (h0 : Follows k x0) :
    Follows k (postEventAt x0 x1 x2 x3 x4 x5) := by
  unfold postEventAt
  repeat' (first | with_reducible assumption | (lift_lets; intro mm) | with_reducible (apply setCauses_follows) | with_reducible (apply count_follows) | with_reducible (apply foldl_follows) | split | intro _ | with_reducible (refine Follows.of_mk ?_ rfl rfl rfl rfl rfl rfl rfl rfl rfl))

theorem postEvent_follows {k : Mach} (x0 : Mach) (x1 : Nat) (x2 : Nat) (x3 : Nat) (x4 : Nat) (h0 : Follows k x0) :
    Follows k (postEvent x0 x1 x2 x3 x4) := by
  unfold postEvent
  repeat' (first | with_reducible assumption | (lift_lets; intro mm) | with_reducible (apply postEventAt_follows) | with_reducible (apply foldl_follows) | split | intro _ | with_reducible (refine Follows.of_mk ?_ rfl rfl rfl rfl rfl rfl rfl rfl rfl))

theorem applyClassB_follows {k : Mach} (x0 : Mach) (h0 : Follows k x0) :
    Follows k (applyClassB x0) := by
  unfold applyClassB
  repeat' (first | with_reducible assumption | (lift_lets; intro mm) | with_reducible (apply foldl_follows) | split | intro _ | with_reducible (refine Follows.of_mk ?_ rfl rfl rfl rfl rfl rfl rfl rfl rfl))

theorem stopBask_follows {k : Mach} (x0 : Mach) (h0 : Follows k x0) :
    Follows k (stopBask x0) := by
  unfold stopBask
  repeat' (first | with_reducible assumption | (lift_lets; intro mm) | with_reducible (apply foldl_follows) | split | intro _ | with_reducible (refine Follows.of_mk ?_ rfl rfl rfl rfl rfl rfl rfl rfl rfl))

theorem leaveBask_follows {k : Mach} (x0 : Mach) (h0 : Follows k x0) :
    Follows k (leaveBask x0) := by
  unfold leaveBask
  repeat' (first | with_reducible assumption | (lift_lets; intro mm; refine cut_follows (k := k) (e := mm) ?h ?b; case' h => subst mm; case' b => intro _; clear_value mm) | (lift_lets; intro mm) | with_reducible (apply stopBask_follows) | with_reducible (apply foldl_follows) | split | intro _ | dsimp +zetaDelta only | with_reducible (refine Follows.of_mk ?_ rfl rfl rfl rfl rfl rfl rfl rfl rfl))

theorem setState_follows {k : Mach} (x0 : Mach) (x1 : ModState) (h0 : Follows k x0) :
    Follows k (setState x0 x1) := by
  unfold setState
  repeat' (first | with_reducible assumption | (lift_lets; intro mm; refine cut_follows (k := k) (e := mm) ?h ?b; case' h => subst mm; case' b => intro _; clear_value mm) | (lift_lets; intro mm) | with_reducible (apply leaveBask_follows) | with_reducible (apply applyClassB_follows) | with_reducible (apply postEvent_follows) | with_reducible (apply foldl_follows) | split | intro _ | dsimp +zetaDelta only | with_reducible (refine Follows.of_mk ?_ rfl rfl rfl rfl rfl rfl rfl rfl rfl))

theorem openFault_follows {k : Mach} (x0 : Mach) (h0 : Follows k x0) :
    Follows k (openFault x0) := by
  unfold openFault
  repeat' (first | with_reducible assumption | (lift_lets; intro mm) | with_reducible (apply foldl_follows) | split | intro _ | with_reducible (refine Follows.of_mk ?_ rfl rfl rfl rfl rfl rfl rfl rfl rfl))

theorem keepDetail_follows {k : Mach} (x0 : Mach) (x1 : Nat) (x2 : Nat) (x3 : Nat) (h0 : Follows k x0) :
    Follows k (keepDetail x0 x1 x2 x3) := by
  unfold keepDetail
  split
  · have h1 := draw_follows x0 h0
    exact ⟨wf_writeBytes _ _ h0.sram, h1.hbm, h1.now, h1.retirement, h1.gradeE, h1.steppingB1, h1.badSites, h1.badCores, h1.badDunes⟩
  · exact h0

theorem raiseFault_follows {k : Mach} (x0 : Mach) (x1 : Nat) (x2 : Nat) (x3 : Nat) (x4 : Nat) (x5 : Nat) (x6 : Nat) (x7 : Nat) (h0 : Follows k x0) :
    Follows k (raiseFault x0 x1 x2 x3 x4 x5 x6 x7) := by
  unfold raiseFault
  repeat' (first | with_reducible assumption | (lift_lets; intro mm) | with_reducible (apply keepDetail_follows) | with_reducible (apply openFault_follows) | with_reducible (apply countDune_follows) | with_reducible (apply count_follows) | with_reducible (apply sendMesh_follows) | with_reducible (apply foldl_follows) | split | intro _ | with_reducible (refine Follows.of_mk ?_ rfl rfl rfl rfl rfl rfl rfl rfl rfl))

theorem stopRow_follows {k : Mach} (x0 : Mach) (x1 : RowId) (h0 : Follows k x0) :
    Follows k (stopRow x0 x1) := by
  unfold stopRow
  repeat' (first | with_reducible assumption | (lift_lets; intro mm) | with_reducible (apply setRow_follows) | with_reducible (apply foldl_follows) | split | intro _ | with_reducible (refine Follows.of_mk ?_ rfl rfl rfl rfl rfl rfl rfl rfl rfl))

theorem rowFault_follows {k : Mach} (x0 : Mach) (x1 : RowId) (x2 : Nat) (x3 : Nat) (x4 : Nat) (h0 : Follows k x0) :
    Follows k (rowFault x0 x1 x2 x3 x4) := by
  unfold rowFault
  repeat' (first | with_reducible assumption | (lift_lets; intro mm) | with_reducible (apply raiseFault_follows) | with_reducible (apply stopRow_follows) | with_reducible (apply foldl_follows) | split | intro _ | with_reducible (refine Follows.of_mk ?_ rfl rfl rfl rfl rfl rfl rfl rfl rfl))

theorem duneFault_follows {k : Mach} (x0 : Mach) (x1 : DuneId) (x2 : Nat) (x3 : Nat) (x4 : Nat) (h0 : Follows k x0) :
    Follows k (duneFault x0 x1 x2 x3 x4) := by
  unfold duneFault
  repeat' (first | with_reducible assumption | (lift_lets; intro mm) | with_reducible (apply stopRow_follows) | with_reducible (apply raiseFault_follows) | with_reducible (apply foldl_follows) | split | intro _ | with_reducible (refine Follows.of_mk ?_ rfl rfl rfl rfl rfl rfl rfl rfl rfl))

end Sys2Proof.Machine
end

