-- ==== Sys2Proof/Laws/FollowsFlags.lean ====
section
/-! SUPPORT. The operations and the meanings of Machine/Flags.lean keep what `Follows` names. -/

namespace Sys2Proof.Machine

theorem countK4_follows {k : Mach} (x0 : Mach) (x1 : DuneId) (x2 : K4Block) (h0 : Follows k x0) :
    Follows k (countK4 x0 x1 x2) := by
  unfold countK4
  repeat' (first | with_reducible assumption | (lift_lets; intro mm) | with_reducible (apply countDune_follows) | split | intro _ | with_reducible (refine Follows.of_mk ?_ rfl rfl rfl rfl rfl rfl rfl rfl rfl))

end Sys2Proof.Machine
end

