-- ==== Sys2Proof/Laws/FollowsAddress.lean ====
section
/-! SUPPORT. The operations and the meanings of Machine/Address.lean keep what `Follows` names. -/

namespace Sys2Proof.Machine

theorem spendProvocation_follows {k : Mach} (x0 : Mach) (x1 : Armed) (h0 : Follows k x0) :
    Follows k (spendProvocation x0 x1) := by
  unfold spendProvocation
  repeat' (first | with_reducible assumption | (lift_lets; intro mm) | with_reducible (apply count_follows) | split | intro _ | with_reducible (refine Follows.of_mk ?_ rfl rfl rfl rfl rfl rfl rfl rfl rfl))

theorem eccRead_follows {k : Mach} (x0 : Mach) (x1 : RowId) (x2 : Nat) (x3 : Nat) (x4 : Nat) (h0 : Follows k x0) :
    Follows k (eccRead x0 x1 x2 x3 x4).1 := by
  unfold eccRead
  repeat' (first | with_reducible assumption | (lift_lets; intro mm) | with_reducible (apply spendProvocation_follows) | with_reducible (apply count_follows) | with_reducible (apply rowFault_follows) | split | intro _ | with_reducible (refine Follows.of_mk ?_ rfl rfl rfl rfl rfl rfl rfl rfl rfl))

theorem eccRead_follows' {k : Mach} (x0 : Mach) (x1 : RowId) (x2 : Nat) (x3 : Nat) (x4 : Nat) (h0 : Follows k x0) :
    ∀ a z, eccRead x0 x1 x2 x3 x4 = (z, a) → Follows k z := by
  intro a z e
  have := eccRead_follows x0 x1 x2 x3 x4  h0 (k := k)
  rw [e] at this
  exact this

end Sys2Proof.Machine
end

