-- ==== Sys2Proof/Laws/FollowsRoute.lean ====
section
/-! SUPPORT. The operations and the meanings of Machine/Route.lean keep what `Follows` names. -/

namespace Sys2Proof.Machine

theorem spendInjection_follows {k : Mach} (x0 : Mach) (x1 : Armed) (x2 : Nat) (h0 : Follows k x0) :
    Follows k (spendInjection x0 x1 x2) := by
  unfold spendInjection
  repeat' (first | with_reducible assumption | (lift_lets; intro mm) | with_reducible (apply count_follows) | split | intro _ | with_reducible (refine Follows.of_mk ?_ rfl rfl rfl rfl rfl rfl rfl rfl rfl))

theorem crossBridge_follows {k : Mach} (x0 : Mach) (x1 : Nat) (x2 : Nat) (x3 : Nat) (x4 : Nat) (x5 : Nat) (x6 : Nat) (x7 : Nat) (h0 : Follows k x0) :
    Follows k (crossBridge x0 x1 x2 x3 x4 x5 x6 x7).1 := by
  unfold crossBridge
  repeat' (first | with_reducible assumption | (lift_lets; intro mm) | with_reducible (apply raiseFault_follows) | with_reducible (apply spendInjection_follows) | with_reducible (apply count_follows) | split | intro _ | with_reducible (refine Follows.of_mk ?_ rfl rfl rfl rfl rfl rfl rfl rfl rfl))

theorem crossBridge_follows' {k : Mach} (x0 : Mach) (x1 : Nat) (x2 : Nat) (x3 : Nat) (x4 : Nat) (x5 : Nat) (x6 : Nat) (x7 : Nat) (h0 : Follows k x0) :
    ∀ a z, crossBridge x0 x1 x2 x3 x4 x5 x6 x7 = (z, a) → Follows k z := by
  intro a z e
  have := crossBridge_follows x0 x1 x2 x3 x4 x5 x6 x7  h0 (k := k)
  rw [e] at this
  exact this

end Sys2Proof.Machine
end

