-- ==== Sys2Proof/Laws/FollowsClock.lean ====
section
/-! SUPPORT. The operations and the meanings of Machine/Clock.lean keep what `Follows` names. -/

namespace Sys2Proof.Machine

theorem setIsland_follows {k : Mach} (x0 : Mach) (x1 : Island) (x2 : IslandState) (h0 : Follows k x0) :
    Follows k (setIsland x0 x1 x2) := by
  unfold setIsland
  repeat' (first | with_reducible assumption | (lift_lets; intro mm) | with_reducible (apply setDune_follows) | split | intro _ | with_reducible (refine Follows.of_mk ?_ rfl rfl rfl rfl rfl rfl rfl rfl rfl))

theorem moveRoot_follows {k : Mach} (x0 : Mach) (x1 : Int) (h0 : Follows k x0) :
    Follows k (moveRoot x0 x1) := by
  unfold moveRoot
  repeat' (first | with_reducible assumption | (lift_lets; intro mm) | with_reducible (apply setIsland_follows) | with_reducible (apply foldl_follows) | split | intro _ | with_reducible (refine Follows.of_mk ?_ rfl rfl rfl rfl rfl rfl rfl rfl rfl))

theorem noteHoldover_follows {k : Mach} (x0 : Mach) (x1 : Nat) (h0 : Follows k x0) :
    Follows k (noteHoldover x0 x1) := by
  unfold noteHoldover
  repeat' (first | with_reducible assumption | (lift_lets; intro mm) | with_reducible (apply odSet_follows) | split | intro _ | with_reducible (refine Follows.of_mk ?_ rfl rfl rfl rfl rfl rfl rfl rfl rfl))

end Sys2Proof.Machine
end

