-- ==== Sys2Proof/Laws/FollowsSlots.lean ====
section
/-! SUPPORT. The operations and the meanings of Machine/Slots.lean keep what `Follows` names. -/

namespace Sys2Proof.Machine

theorem setSlot_follows {k : Mach} (x0 : Mach) (x1 : Nat) (x2 : SlotRun) (h0 : Follows k x0) :
    Follows k (setSlot x0 x1 x2) := by
  unfold setSlot
  repeat' (first | with_reducible assumption | (lift_lets; intro mm) | split | intro _ | with_reducible (refine Follows.of_mk ?_ rfl rfl rfl rfl rfl rfl rfl rfl rfl))

theorem slotWritten_follows {k : Mach} (x0 : Mach) (x1 : Nat) (x2 : Nat) (x3 : Nat) (h0 : Follows k x0) :
    Follows k (slotWritten x0 x1 x2 x3) := by
  unfold slotWritten
  repeat' (first | with_reducible assumption | (lift_lets; intro mm) | with_reducible (apply setSlot_follows) | with_reducible (apply count_follows) | split | intro _ | with_reducible (refine Follows.of_mk ?_ rfl rfl rfl rfl rfl rfl rfl rfl rfl))

end Sys2Proof.Machine
end

