-- ==== Sys2Proof/Laws/FollowsBundle.lean ====
section
/-! SUPPORT. The operations and the meanings of Machine/Bundle.lean keep what `Follows` names. -/

namespace Sys2Proof.Machine

theorem frameGoes_follows {k : Mach} (x0 : Mach) (x1 : Nat) (x2 : Nat) (x3 : Nat) (x4 : KlWait) (h0 : Follows k x0) :
    Follows k (frameGoes x0 x1 x2 x3 x4) := by
  unfold frameGoes
  repeat' (first | with_reducible assumption | (lift_lets; intro mm) | with_reducible (apply emit_follows) | with_reducible (apply setBundle_follows) | split | intro _ | with_reducible (refine Follows.of_mk ?_ rfl rfl rfl rfl rfl rfl rfl rfl rfl))

theorem bundleSends_follows {k : Mach} (x0 : Nat) (x1 : Nat) (x2 : Nat) (x3 : Nat) (x4 : Mach) (h0 : Follows k x4) :
    Follows k (bundleSends x0 x1 x2 x3 x4) := by
  induction x3 generalizing x4 with
  | zero => exact h0
  | succ n ih =>
    unfold bundleSends
    split
    · exact h0
    · split
      · exact ih _ (frameGoes_follows _ _ _ _ _ h0)
      · exact h0

theorem hellosDue_follows {k : Mach} (x0 : Nat) (x1 : Nat) (x2 : Nat) (x3 : Mach) (h0 : Follows k x3) :
    Follows k (hellosDue x0 x1 x2 x3) := by
  induction x2 generalizing x3 with
  | zero => exact h0
  | succ n ih =>
    unfold hellosDue
    dsimp only
    split
    · exact h0
    · exact ih _ (setBundle_follows _ _ _ h0)

theorem bundleRun_follows {k : Mach} (x0 : Nat) (x1 : Nat) (x2 : Mach) (x3 : Nat) (h0 : Follows k x2) :
    Follows k (bundleRun x0 x1 x2 x3) := by
  unfold bundleRun
  exact bundleSends_follows _ _ _ _ _ (hellosDue_follows _ _ _ _ h0)

theorem linksRun_follows {k : Mach} (x0 : Nat) (x1 : Nat) (x2 : Mach) (h0 : Follows k x2) :
    Follows k (linksRun x0 x1 x2) := by
  unfold linksRun
  refine foldl_follows _ (fun m b h => ?_) h0
  exact bundleRun_follows _ _ _ _ h

theorem sendFrame_follows {k : Mach} (x0 : Mach) (x1 : Nat) (x2 : Nat) (x3 : Nat) (x4 : List Byte) (h0 : Follows k x0) :
    Follows k (sendFrame x0 x1 x2 x3 x4) := by
  unfold sendFrame
  repeat' (first | with_reducible assumption | (lift_lets; intro mm; refine cut_follows (k := k) (e := mm) ?h ?b; case' h => subst mm; case' b => intro _; clear_value mm) | (lift_lets; intro mm) | with_reducible (apply bundleRun_follows) | with_reducible (apply setBundle_follows) | with_reducible (apply foldl_follows) | split | intro _ | dsimp +zetaDelta only | with_reducible (refine Follows.of_mk ?_ rfl rfl rfl rfl rfl rfl rfl rfl rfl))

theorem sendClass_follows {k : Mach} (x0 : Mach) (x1 : Nat) (x2 : Nat) (x3 : Nat) (x4 : Nat → List Byte) (h0 : Follows k x0) :
    Follows k (sendClass x0 x1 x2 x3 x4) := by
  unfold sendClass
  repeat' (first | with_reducible assumption | (lift_lets; intro mm; refine cut_follows (k := k) (e := mm) ?h ?b; case' h => subst mm; case' b => intro _; clear_value mm) | (lift_lets; intro mm) | with_reducible (apply bundleRun_follows) | with_reducible (apply setBundle_follows) | with_reducible (apply foldl_follows) | split | intro _ | dsimp +zetaDelta only | with_reducible (refine Follows.of_mk ?_ rfl rfl rfl rfl rfl rfl rfl rfl rfl))

theorem slotOut_follows {k : Mach} (x0 : Mach) (x1 : Nat) (x2 : Nat) (x3 : Nat) (x4 : List Byte) (h0 : Follows k x0) :
    Follows k (slotOut x0 x1 x2 x3 x4) := by
  unfold slotOut
  repeat' (first | with_reducible assumption | (lift_lets; intro mm) | with_reducible (apply sendClass_follows) | with_reducible (apply count_follows) | split | intro _ | with_reducible (refine Follows.of_mk ?_ rfl rfl rfl rfl rfl rfl rfl rfl rfl))

end Sys2Proof.Machine
end

