-- ==== Sys2Proof/Laws/FollowsMesh.lean ====
section
/-! SUPPORT. The operations and the meanings of Machine/Mesh.lean keep what `Follows` names. -/

namespace Sys2Proof.Machine

theorem injectFlits_follows {k : Mach} (x0 : Mach) (x1 : Packet) (x2 : Nat → Nat) (h0 : Follows k x0) :
    Follows k (injectFlits x0 x1 x2) := by
  unfold injectFlits
  repeat' (first | with_reducible assumption | (lift_lets; intro mm) | with_reducible (apply foldl_follows) | split | intro _ | with_reducible (refine Follows.of_mk ?_ rfl rfl rfl rfl rfl rfl rfl rfl rfl))

theorem sendAt_follows {k : Mach} (x0 : Mach) (x1 : Nat) (x2 : RowId) (x3 : RowId) (x4 : Packet) (h0 : Follows k x0) :
    Follows k (sendAt x0 x1 x2 x3 x4) := by
  unfold sendAt
  repeat' (first | with_reducible assumption | (lift_lets; intro mm) | with_reducible (apply injectFlits_follows) | with_reducible (apply foldl_follows) | split | intro _ | with_reducible (refine Follows.of_mk ?_ rfl rfl rfl rfl rfl rfl rfl rfl rfl))

theorem sendPacket_follows {k : Mach} (x0 : Mach) (x1 : RowId) (x2 : RowId) (x3 : Packet) (h0 : Follows k x0) :
    Follows k (sendPacket x0 x1 x2 x3) := by
  unfold sendPacket
  repeat' (first | with_reducible assumption | (lift_lets; intro mm) | with_reducible (apply sendAt_follows) | with_reducible (apply foldl_follows) | split | intro _ | with_reducible (refine Follows.of_mk ?_ rfl rfl rfl rfl rfl rfl rfl rfl rfl))

theorem enterPacket_follows {k : Mach} (x0 : Mach) (x1 : RowId) (x2 : RowId) (x3 : Packet) (h0 : Follows k x0) :
    Follows k (enterPacket x0 x1 x2 x3) := by
  unfold enterPacket
  repeat' (first | with_reducible assumption | (lift_lets; intro mm) | with_reducible (apply draw_follows) | (refine draw_follows' _ ?_ _ _ (by assumption)) | with_reducible (apply injectFlits_follows) | with_reducible (apply foldl_follows) | split | intro _ | with_reducible (refine Follows.of_mk ?_ rfl rfl rfl rfl rfl rfl rfl rfl rfl))

theorem removePacket_follows {k : Mach} (x0 : Mach) (x1 : Nat) (h0 : Follows k x0) :
    Follows k (removePacket x0 x1) := by
  unfold removePacket
  repeat' (first | with_reducible assumption | (lift_lets; intro mm) | with_reducible (apply foldl_follows) | split | intro _ | with_reducible (refine Follows.of_mk ?_ rfl rfl rfl rfl rfl rfl rfl rfl rfl))

theorem discardAt_follows {k : Mach} (x0 : Mach) (x1 : Nat) (x2 : Nat) (h0 : Follows k x0) :
    Follows k (discardAt x0 x1 x2) := by
  unfold discardAt
  repeat' (first | with_reducible assumption | (lift_lets; intro mm) | with_reducible (apply countDune_follows) | with_reducible (apply removePacket_follows) | with_reducible (apply foldl_follows) | split | intro _ | with_reducible (refine Follows.of_mk ?_ rfl rfl rfl rfl rfl rfl rfl rfl rfl))

theorem emptyFabric_follows {k : Mach} (x0 : Mach) (h0 : Follows k x0) :
    Follows k (emptyFabric x0) := by
  unfold emptyFabric
  repeat' (first | with_reducible assumption | (lift_lets; intro mm) | with_reducible (apply foldl_follows) | split | intro _ | with_reducible (refine Follows.of_mk ?_ rfl rfl rfl rfl rfl rfl rfl rfl rfl))

theorem dropPackets_follows {k : Mach} (x0 : Mach) (h0 : Follows k x0) :
    Follows k (dropPackets x0) := by
  unfold dropPackets
  repeat' (first | with_reducible assumption | (lift_lets; intro mm) | with_reducible (apply removePacket_follows) | with_reducible (apply foldl_follows) | split | intro _ | with_reducible (refine Follows.of_mk ?_ rfl rfl rfl rfl rfl rfl rfl rfl rfl))

theorem steerPacket_follows {k : Mach} (x0 : Mach) (x1 : Flit) (h0 : Follows k x0) :
    Follows k (steerPacket x0 x1) := by
  unfold steerPacket
  repeat' (first | with_reducible assumption | (lift_lets; intro mm) | with_reducible (apply discardAt_follows) | with_reducible (apply removePacket_follows) | with_reducible (apply foldl_follows) | split | intro _ | dsimp +zetaDelta only | with_reducible (refine Follows.of_mk ?_ rfl rfl rfl rfl rfl rfl rfl rfl rfl))

theorem releaseHeld_follows {k : Mach} (x0 : Mach) (x1 : Packet) (h0 : Follows k x0) :
    Follows k (releaseHeld x0 x1) := by
  unfold releaseHeld
  repeat' (first | with_reducible assumption | (lift_lets; intro mm) | with_reducible (apply removePacket_follows) | with_reducible (apply discardAt_follows) | with_reducible (apply injectFlits_follows) | with_reducible (apply foldl_follows) | split | intro _ | dsimp +zetaDelta only | with_reducible (refine Follows.of_mk ?_ rfl rfl rfl rfl rfl rfl rfl rfl rfl))

theorem writeTables_follows {k : Mach} (x0 : Mach) (x1 : List Nat) (h0 : Follows k x0) :
    Follows k (writeTables x0 x1) := by
  unfold writeTables
  repeat' (first | with_reducible assumption | (lift_lets; intro mm) | with_reducible (apply releaseHeld_follows) | with_reducible (apply foldl_follows) | split | intro _ | dsimp +zetaDelta only | with_reducible (refine Follows.of_mk ?_ rfl rfl rfl rfl rfl rfl rfl rfl rfl))

theorem judgePacket_follows {k : Mach} (x0 : Mach) (x1 : Packet) (h0 : Follows k x0) :
    Follows k (judgePacket x0 x1) := by
  unfold judgePacket
  repeat' (first | with_reducible assumption | (lift_lets; intro mm) | with_reducible (apply rowFault_follows) | with_reducible (apply foldl_follows) | split | intro _ | with_reducible (refine Follows.of_mk ?_ rfl rfl rfl rfl rfl rfl rfl rfl rfl))

theorem reachPort_follows {k : Mach} (x0 : Mach) (x1 : PortUnit) (h0 : Follows k x0) :
    Follows k (reachPort x0 x1) := by
  unfold reachPort
  repeat' (first | with_reducible assumption | (lift_lets; intro mm) | with_reducible (apply countDune_follows) | with_reducible (apply judgePacket_follows) | with_reducible (apply foldl_follows) | split | intro _ | with_reducible (refine Follows.of_mk ?_ rfl rfl rfl rfl rfl rfl rfl rfl rfl))

theorem scratchArrives_follows {k : Mach} (x0 : Mach) (x1 : Cargo) (h0 : Follows k x0) :
    Follows k (scratchArrives x0 x1) := by
  unfold scratchArrives
  repeat' (first | with_reducible assumption | (lift_lets; intro mm) | with_reducible (apply setCtx_follows) | with_reducible (apply foldl_follows) | split | intro _ | with_reducible (refine Follows.of_mk ?_ rfl rfl rfl rfl rfl rfl rfl rfl rfl))

theorem answerSlot_follows {k : Mach} (x0 : Mach) (x1 : Nat) (x2 : Packet) (x3 : Nat) (h0 : Follows k x0) :
    Follows k (answerSlot x0 x1 x2 x3) := by
  unfold answerSlot
  repeat' (first | with_reducible assumption | (lift_lets; intro mm) | with_reducible (apply draw_follows) | (refine draw_follows' _ ?_ _ _ (by assumption)) | with_reducible (apply sendAt_follows) | with_reducible (apply foldl_follows) | split | intro _ | with_reducible (refine Follows.of_mk ?_ rfl rfl rfl rfl rfl rfl rfl rfl rfl))

theorem writeUnit_follows {k : Mach} (x0 : Mach) (x1 : Nat) (x2 : PortUnit) (h0 : Follows k x0) :
    Follows k (writeUnit x0 x1 x2) := by
  unfold writeUnit
  repeat' (first | with_reducible assumption | (lift_lets; intro mm) | with_reducible (apply land_follows) | with_reducible (apply scratchArrives_follows) | with_reducible (apply removePacket_follows) | with_reducible (apply answerSlot_follows) | with_reducible (apply slotWritten_follows) | with_reducible (apply foldl_follows) | split | intro _ | with_reducible (refine Follows.of_mk ?_ rfl rfl rfl rfl rfl rfl rfl rfl rfl))

theorem portCycle_follows {k : Mach} (x0 : Nat) (x1 : Mach) (x2 : Nat) (h0 : Follows k x1) :
    Follows k (portCycle x0 x1 x2) := by
  unfold portCycle
  repeat' (first | with_reducible assumption | (lift_lets; intro mm) | with_reducible (apply reachPort_follows) | with_reducible (apply writeUnit_follows) | with_reducible (apply foldl_follows) | split | intro _ | with_reducible (refine Follows.of_mk ?_ rfl rfl rfl rfl rfl rfl rfl rfl rfl))

theorem leavePacket_follows {k : Mach} (x0 : Mach) (x1 : Nat) (x2 : Packet) (h0 : Follows k x0) :
    Follows k (leavePacket x0 x1 x2) := by
  unfold leavePacket
  repeat' (first | with_reducible assumption | (lift_lets; intro mm) | with_reducible (apply removePacket_follows) | with_reducible (apply slotOut_follows) | with_reducible (apply postEventAt_follows) | with_reducible (apply foldl_follows) | split | intro _ | with_reducible (refine Follows.of_mk ?_ rfl rfl rfl rfl rfl rfl rfl rfl rfl))

theorem pushFlit_follows {k : Mach} (x0 : Mach) (x1 : Want) (x2 : Nat) (x3 : Nat) (h0 : Follows k x0) :
    Follows k (pushFlit x0 x1 x2 x3) := by
  unfold pushFlit
  repeat' (first | with_reducible assumption | (lift_lets; intro mm) | with_reducible (apply foldl_follows) | split | intro _ | with_reducible (refine Follows.of_mk ?_ rfl rfl rfl rfl rfl rfl rfl rfl rfl))

theorem sendFlit_follows {k : Mach} (x0 : Mach) (x1 : Nat) (x2 : Want) (h0 : Follows k x0) :
    Follows k (sendFlit x0 x1 x2) := by
  unfold sendFlit
  repeat' (first | with_reducible assumption | (lift_lets; intro mm) | with_reducible (apply countDune_follows) | with_reducible (apply pushFlit_follows) | with_reducible (apply draw_follows) | (refine draw_follows' _ ?_ _ _ (by assumption)) | with_reducible (apply crossBridge_follows) | (refine crossBridge_follows' _ _ _ _ _ _ _ _ ?_ _ _ (by assumption)) | with_reducible (apply removePacket_follows) | with_reducible (apply leavePacket_follows) | with_reducible (apply foldl_follows) | split | intro _ | with_reducible (refine Follows.of_mk ?_ rfl rfl rfl rfl rfl rfl rfl rfl rfl))

theorem collide_follows {k : Mach} (x0 : Nat) (x1 : Nat) (x2 : List Nat) (x3 : Mach) (h0 : Follows k x3) :
    Follows k (collide x0 x1 x2 x3) := by
  unfold collide
  repeat' (first | with_reducible assumption | (lift_lets; intro mm) | with_reducible (apply duneFault_follows) | with_reducible (apply countDune_follows) | with_reducible (apply foldl_follows) | split | intro _ | dsimp +zetaDelta only | with_reducible (refine Follows.of_mk ?_ rfl rfl rfl rfl rfl rfl rfl rfl rfl))

theorem portSends_follows {k : Mach} (x0 : Nat) (x1 : Mach) (x2 : Nat) (h0 : Follows k x1) :
    Follows k (portSends x0 x1 x2) := by
  unfold portSends
  have key : ∀ n (r : Mach × List Nat), Follows k r.1 → Follows k (sendOn x0 x2 n r).1 := by
    intro n
    induction n with
    | zero => intro r h; exact h
    | succ n ih =>
      intro r h
      unfold sendOn
      split
      · exact h
      · exact ih _ (sendFlit_follows _ _ _ h)
  exact collide_follows _ _ _ _ (key _ _ h0)

theorem fabricCycle_follows {k : Mach} (x0 : Mach) (h0 : Follows k x0) :
    Follows k (fabricCycle x0) := by
  unfold fabricCycle
  repeat' (first | with_reducible assumption | (lift_lets; intro mm) | with_reducible (apply portCycle_follows) | with_reducible (apply steerPacket_follows) | with_reducible (apply portSends_follows) | with_reducible (apply linksRun_follows) | with_reducible (apply foldl_follows) | split | intro _ | dsimp +zetaDelta only | with_reducible (refine Follows.of_mk ?_ rfl rfl rfl rfl rfl rfl rfl rfl rfl))

theorem fabricRun_follows {k : Mach} (x0 : Nat) (x1 : Mach) (x2 : Nat) (h0 : Follows k x1) :
    Follows k (fabricRun x0 x1 x2) := by
  induction x0 generalizing x1 with
  | zero => exact h0
  | succ n ih =>
    unfold fabricRun
    split
    · exact h0
    · exact ih _ (fabricCycle_follows _ (settle_follows _ _ h0))

theorem advance_follows {k : Mach} (x0 : Mach) (x1 : Nat) (h0 : Follows k x0) :
    Follows k (advance x0 x1) := by
  unfold advance
  extract_lets since m1
  have h1 : Follows k m1 := by
    unfold m1
    split
    · exact fabricRun_follows _ _ _ h0
    · exact h0
  clear_value m1
  refine settle_follows _ _ ?_
  split
  · exact linksRun_follows _ _ _ h1
  · exact h1

theorem runUntil_follows {k : Mach} (x0 : Mach → Bool) (x1 : Nat) (x2 : Mach) (h0 : Follows k x2) :
    Follows k (runUntil x0 x1 x2) := by
  induction x1 generalizing x2 with
  | zero => exact h0
  | succ n ih =>
    unfold runUntil
    split
    · exact h0
    · exact ih _ (advance_follows _ _ h0)

end Sys2Proof.Machine
end

