-- ==== Sys2Proof/Laws/FollowsOperands.lean ====
section
/-! SUPPORT. The operations and the meanings of Machine/Operands.lean keep what `Follows` names. -/

namespace Sys2Proof.Machine

theorem instFault_follows {k : Mach} (x0 : Mach) (x1 : Thread) (x2 : Nat) (x3 : Nat) (h0 : Follows k x0) :
    Follows k (instFault x0 x1 x2 x3) := by
  unfold instFault
  repeat' (first | with_reducible assumption | (lift_lets; intro mm) | with_reducible (apply rowFault_follows) | split | intro _ | with_reducible (refine Follows.of_mk ?_ rfl rfl rfl rfl rfl rfl rfl rfl rfl))

theorem retire_follows {k : Mach} (x0 : Mach) (x1 : Thread) (x2 : Nat) (h0 : Follows k x0) :
    Follows k (retire x0 x1 x2) := by
  unfold retire
  repeat' (first | with_reducible assumption | (lift_lets; intro mm) | with_reducible (apply setThread_follows) | split | intro _ | with_reducible (refine Follows.of_mk ?_ rfl rfl rfl rfl rfl rfl rfl rfl rfl))

theorem issue_follows {k : Mach} (x0 : Mach) (x1 : Thread) (x2 : Nat) (x3 : Nat) (x4 : Fields) (x5 : Bool) (x6 : List Nat) (x7 : Mach → Beat → Nat → Mach) (hx7 : ∀ y0 y1 y2, Follows k y0 → Follows k (x7 y0 y1 y2)) (h0 : Follows k x0) :
    Follows k (issue x0 x1 x2 x3 x4 x5 x6 x7) := by
  unfold issue
  repeat' (first | with_reducible assumption | (lift_lets; intro mm) | with_reducible (apply instFault_follows) | with_reducible (apply advance_follows) | with_reducible (apply retire_follows) | with_reducible (apply hx7) | split | intro _ | with_reducible (refine Follows.of_mk ?_ rfl rfl rfl rfl rfl rfl rfl rfl rfl))

theorem dropLoad_follows {k : Mach} (x0 : Mach) (x1 : Thread) (x2 : Nat) (h0 : Follows k x0) :
    Follows k (dropLoad x0 x1 x2) := by
  unfold dropLoad
  repeat' (first | with_reducible assumption | (lift_lets; intro mm) | split | intro _ | with_reducible (refine Follows.of_mk ?_ rfl rfl rfl rfl rfl rfl rfl rfl rfl))

theorem resultG_follows {k : Mach} (x0 : Mach) (x1 : Thread) (x2 : Beat) (x3 : Nat) (x4 : Nat) (x5 : BitVec 5) (x6 : W64) (h0 : Follows k x0) :
    Follows k (resultG x0 x1 x2 x3 x4 x5 x6) := by
  unfold resultG
  repeat' (first | with_reducible assumption | (lift_lets; intro mm) | with_reducible (apply setThread_follows) | with_reducible (apply dropLoad_follows) | split | intro _ | with_reducible (refine Follows.of_mk ?_ rfl rfl rfl rfl rfl rfl rfl rfl rfl))

theorem resultV_follows {k : Mach} (x0 : Mach) (x1 : Thread) (x2 : Beat) (x3 : Nat) (x4 : Nat) (x5 : BitVec 5) (x6 : W512) (h0 : Follows k x0) :
    Follows k (resultV x0 x1 x2 x3 x4 x5 x6) := by
  unfold resultV
  repeat' (first | with_reducible assumption | (lift_lets; intro mm) | with_reducible (apply setThread_follows) | with_reducible (apply dropLoad_follows) | split | intro _ | with_reducible (refine Follows.of_mk ?_ rfl rfl rfl rfl rfl rfl rfl rfl rfl))

theorem resultP_follows {k : Mach} (x0 : Mach) (x1 : Thread) (x2 : Beat) (x3 : Nat) (x4 : Nat) (x5 : Nat) (x6 : Bool) (h0 : Follows k x0) :
    Follows k (resultP x0 x1 x2 x3 x4 x5 x6) := by
  unfold resultP
  repeat' (first | with_reducible assumption | (lift_lets; intro mm) | with_reducible (apply setThread_follows) | split | intro _ | with_reducible (refine Follows.of_mk ?_ rfl rfl rfl rfl rfl rfl rfl rfl rfl))

end Sys2Proof.Machine
end

