-- ==== Sys2Proof/Laws/FollowsAlu.lean ====
section
/-! SUPPORT. The operations and the meanings of Machine/Alu.lean keep what `Follows` names. -/

namespace Sys2Proof.Machine

theorem alu3_follows {k : Mach} (x0 : Nat) (x1 : Nat) (x2 : W64 → W64 → W64) (x3 : Thread) (x4 : Fields) (x5 : Mach) (h0 : Follows k x5) :
    Follows k (alu3 x0 x1 x2 x3 x4 x5) := by
  unfold alu3
  repeat' (first | with_reducible assumption | (lift_lets; intro mm) | with_reducible (apply issue_follows) | with_reducible (apply resultG_follows) | with_reducible (apply retire_follows) | split | intro _ | with_reducible (refine Follows.of_mk ?_ rfl rfl rfl rfl rfl rfl rfl rfl rfl))

theorem aluCmp_follows {k : Mach} (x0 : Nat) (x1 : Thread) (x2 : Fields) (x3 : Mach) (h0 : Follows k x3) :
    Follows k (aluCmp x0 x1 x2 x3) := by
  unfold aluCmp
  repeat' (first | with_reducible assumption | (lift_lets; intro mm) | with_reducible (apply issue_follows) | with_reducible (apply resultP_follows) | with_reducible (apply retire_follows) | split | intro _ | with_reducible (refine Follows.of_mk ?_ rfl rfl rfl rfl rfl rfl rfl rfl rfl))

theorem alu2_follows {k : Mach} (x0 : Nat) (x1 : W64 → W64) (x2 : Thread) (x3 : Fields) (x4 : Mach) (h0 : Follows k x4) :
    Follows k (alu2 x0 x1 x2 x3 x4) := by
  unfold alu2
  repeat' (first | with_reducible assumption | (lift_lets; intro mm) | with_reducible (apply issue_follows) | with_reducible (apply resultG_follows) | with_reducible (apply retire_follows) | split | intro _ | with_reducible (refine Follows.of_mk ?_ rfl rfl rfl rfl rfl rfl rfl rfl rfl))

theorem execAdd_follows {k : Mach} (x0 : Thread) (x1 : Fields) (x2 : State) (h0 : Follows k x2.m) :
    ∃ t, execAdd x0 x1 x2 = .next t ∧ t.pending = x2.pending ∧ Follows k t.m := by
  refine nextM_follows ?_
  repeat' (first | with_reducible assumption | (lift_lets; intro mm) | with_reducible (apply alu3_follows) | split | intro _ | with_reducible (refine Follows.of_mk ?_ rfl rfl rfl rfl rfl rfl rfl rfl rfl))

theorem execSub_follows {k : Mach} (x0 : Thread) (x1 : Fields) (x2 : State) (h0 : Follows k x2.m) :
    ∃ t, execSub x0 x1 x2 = .next t ∧ t.pending = x2.pending ∧ Follows k t.m := by
  refine nextM_follows ?_
  repeat' (first | with_reducible assumption | (lift_lets; intro mm) | with_reducible (apply alu3_follows) | split | intro _ | with_reducible (refine Follows.of_mk ?_ rfl rfl rfl rfl rfl rfl rfl rfl rfl))

theorem execMul_follows {k : Mach} (x0 : Thread) (x1 : Fields) (x2 : State) (h0 : Follows k x2.m) :
    ∃ t, execMul x0 x1 x2 = .next t ∧ t.pending = x2.pending ∧ Follows k t.m := by
  refine nextM_follows ?_
  repeat' (first | with_reducible assumption | (lift_lets; intro mm) | with_reducible (apply alu3_follows) | split | intro _ | with_reducible (refine Follows.of_mk ?_ rfl rfl rfl rfl rfl rfl rfl rfl rfl))

theorem execMulhs_follows {k : Mach} (x0 : Thread) (x1 : Fields) (x2 : State) (h0 : Follows k x2.m) :
    ∃ t, execMulhs x0 x1 x2 = .next t ∧ t.pending = x2.pending ∧ Follows k t.m := by
  refine nextM_follows ?_
  repeat' (first | with_reducible assumption | (lift_lets; intro mm) | with_reducible (apply alu3_follows) | split | intro _ | with_reducible (refine Follows.of_mk ?_ rfl rfl rfl rfl rfl rfl rfl rfl rfl))

theorem execMulhu_follows {k : Mach} (x0 : Thread) (x1 : Fields) (x2 : State) (h0 : Follows k x2.m) :
    ∃ t, execMulhu x0 x1 x2 = .next t ∧ t.pending = x2.pending ∧ Follows k t.m := by
  refine nextM_follows ?_
  repeat' (first | with_reducible assumption | (lift_lets; intro mm) | with_reducible (apply alu3_follows) | split | intro _ | with_reducible (refine Follows.of_mk ?_ rfl rfl rfl rfl rfl rfl rfl rfl rfl))

theorem execDivs_follows {k : Mach} (x0 : Thread) (x1 : Fields) (x2 : State) (h0 : Follows k x2.m) :
    ∃ t, execDivs x0 x1 x2 = .next t ∧ t.pending = x2.pending ∧ Follows k t.m := by
  refine nextM_follows ?_
  repeat' (first | with_reducible assumption | (lift_lets; intro mm) | with_reducible (apply alu3_follows) | split | intro _ | with_reducible (refine Follows.of_mk ?_ rfl rfl rfl rfl rfl rfl rfl rfl rfl))

theorem execDivu_follows {k : Mach} (x0 : Thread) (x1 : Fields) (x2 : State) (h0 : Follows k x2.m) :
    ∃ t, execDivu x0 x1 x2 = .next t ∧ t.pending = x2.pending ∧ Follows k t.m := by
  refine nextM_follows ?_
  repeat' (first | with_reducible assumption | (lift_lets; intro mm) | with_reducible (apply alu3_follows) | split | intro _ | with_reducible (refine Follows.of_mk ?_ rfl rfl rfl rfl rfl rfl rfl rfl rfl))

theorem execRems_follows {k : Mach} (x0 : Thread) (x1 : Fields) (x2 : State) (h0 : Follows k x2.m) :
    ∃ t, execRems x0 x1 x2 = .next t ∧ t.pending = x2.pending ∧ Follows k t.m := by
  refine nextM_follows ?_
  repeat' (first | with_reducible assumption | (lift_lets; intro mm) | with_reducible (apply alu3_follows) | split | intro _ | with_reducible (refine Follows.of_mk ?_ rfl rfl rfl rfl rfl rfl rfl rfl rfl))

theorem execRemu_follows {k : Mach} (x0 : Thread) (x1 : Fields) (x2 : State) (h0 : Follows k x2.m) :
    ∃ t, execRemu x0 x1 x2 = .next t ∧ t.pending = x2.pending ∧ Follows k t.m := by
  refine nextM_follows ?_
  repeat' (first | with_reducible assumption | (lift_lets; intro mm) | with_reducible (apply alu3_follows) | split | intro _ | with_reducible (refine Follows.of_mk ?_ rfl rfl rfl rfl rfl rfl rfl rfl rfl))

theorem execAnd_follows {k : Mach} (x0 : Thread) (x1 : Fields) (x2 : State) (h0 : Follows k x2.m) :
    ∃ t, execAnd x0 x1 x2 = .next t ∧ t.pending = x2.pending ∧ Follows k t.m := by
  refine nextM_follows ?_
  repeat' (first | with_reducible assumption | (lift_lets; intro mm) | with_reducible (apply alu3_follows) | split | intro _ | with_reducible (refine Follows.of_mk ?_ rfl rfl rfl rfl rfl rfl rfl rfl rfl))

theorem execOr_follows {k : Mach} (x0 : Thread) (x1 : Fields) (x2 : State) (h0 : Follows k x2.m) :
    ∃ t, execOr x0 x1 x2 = .next t ∧ t.pending = x2.pending ∧ Follows k t.m := by
  refine nextM_follows ?_
  repeat' (first | with_reducible assumption | (lift_lets; intro mm) | with_reducible (apply alu3_follows) | split | intro _ | with_reducible (refine Follows.of_mk ?_ rfl rfl rfl rfl rfl rfl rfl rfl rfl))

theorem execXor_follows {k : Mach} (x0 : Thread) (x1 : Fields) (x2 : State) (h0 : Follows k x2.m) :
    ∃ t, execXor x0 x1 x2 = .next t ∧ t.pending = x2.pending ∧ Follows k t.m := by
  refine nextM_follows ?_
  repeat' (first | with_reducible assumption | (lift_lets; intro mm) | with_reducible (apply alu3_follows) | split | intro _ | with_reducible (refine Follows.of_mk ?_ rfl rfl rfl rfl rfl rfl rfl rfl rfl))

theorem execShl_follows {k : Mach} (x0 : Thread) (x1 : Fields) (x2 : State) (h0 : Follows k x2.m) :
    ∃ t, execShl x0 x1 x2 = .next t ∧ t.pending = x2.pending ∧ Follows k t.m := by
  refine nextM_follows ?_
  repeat' (first | with_reducible assumption | (lift_lets; intro mm) | with_reducible (apply alu3_follows) | split | intro _ | with_reducible (refine Follows.of_mk ?_ rfl rfl rfl rfl rfl rfl rfl rfl rfl))

theorem execShr_follows {k : Mach} (x0 : Thread) (x1 : Fields) (x2 : State) (h0 : Follows k x2.m) :
    ∃ t, execShr x0 x1 x2 = .next t ∧ t.pending = x2.pending ∧ Follows k t.m := by
  refine nextM_follows ?_
  repeat' (first | with_reducible assumption | (lift_lets; intro mm) | with_reducible (apply alu3_follows) | split | intro _ | with_reducible (refine Follows.of_mk ?_ rfl rfl rfl rfl rfl rfl rfl rfl rfl))

theorem execSar_follows {k : Mach} (x0 : Thread) (x1 : Fields) (x2 : State) (h0 : Follows k x2.m) :
    ∃ t, execSar x0 x1 x2 = .next t ∧ t.pending = x2.pending ∧ Follows k t.m := by
  refine nextM_follows ?_
  repeat' (first | with_reducible assumption | (lift_lets; intro mm) | with_reducible (apply alu3_follows) | split | intro _ | with_reducible (refine Follows.of_mk ?_ rfl rfl rfl rfl rfl rfl rfl rfl rfl))

theorem execMins_follows {k : Mach} (x0 : Thread) (x1 : Fields) (x2 : State) (h0 : Follows k x2.m) :
    ∃ t, execMins x0 x1 x2 = .next t ∧ t.pending = x2.pending ∧ Follows k t.m := by
  refine nextM_follows ?_
  repeat' (first | with_reducible assumption | (lift_lets; intro mm) | with_reducible (apply alu3_follows) | split | intro _ | with_reducible (refine Follows.of_mk ?_ rfl rfl rfl rfl rfl rfl rfl rfl rfl))

theorem execMaxs_follows {k : Mach} (x0 : Thread) (x1 : Fields) (x2 : State) (h0 : Follows k x2.m) :
    ∃ t, execMaxs x0 x1 x2 = .next t ∧ t.pending = x2.pending ∧ Follows k t.m := by
  refine nextM_follows ?_
  repeat' (first | with_reducible assumption | (lift_lets; intro mm) | with_reducible (apply alu3_follows) | split | intro _ | with_reducible (refine Follows.of_mk ?_ rfl rfl rfl rfl rfl rfl rfl rfl rfl))

theorem execPopc_follows {k : Mach} (x0 : Thread) (x1 : Fields) (x2 : State) (h0 : Follows k x2.m) :
    ∃ t, execPopc x0 x1 x2 = .next t ∧ t.pending = x2.pending ∧ Follows k t.m := by
  refine nextM_follows ?_
  repeat' (first | with_reducible assumption | (lift_lets; intro mm) | with_reducible (apply alu2_follows) | split | intro _ | with_reducible (refine Follows.of_mk ?_ rfl rfl rfl rfl rfl rfl rfl rfl rfl))

theorem execClz_follows {k : Mach} (x0 : Thread) (x1 : Fields) (x2 : State) (h0 : Follows k x2.m) :
    ∃ t, execClz x0 x1 x2 = .next t ∧ t.pending = x2.pending ∧ Follows k t.m := by
  refine nextM_follows ?_
  repeat' (first | with_reducible assumption | (lift_lets; intro mm) | with_reducible (apply alu2_follows) | split | intro _ | with_reducible (refine Follows.of_mk ?_ rfl rfl rfl rfl rfl rfl rfl rfl rfl))

theorem execMovh_follows {k : Mach} (x0 : Thread) (x1 : Fields) (x2 : State) (h0 : Follows k x2.m) :
    ∃ t, execMovh x0 x1 x2 = .next t ∧ t.pending = x2.pending ∧ Follows k t.m := by
  refine nextM_follows ?_
  repeat' (first | with_reducible assumption | (lift_lets; intro mm) | with_reducible (apply issue_follows) | with_reducible (apply resultG_follows) | with_reducible (apply retire_follows) | split | intro _ | with_reducible (refine Follows.of_mk ?_ rfl rfl rfl rfl rfl rfl rfl rfl rfl))

theorem execSel_follows {k : Mach} (x0 : Thread) (x1 : Fields) (x2 : State) (h0 : Follows k x2.m) :
    ∃ t, execSel x0 x1 x2 = .next t ∧ t.pending = x2.pending ∧ Follows k t.m := by
  refine nextM_follows ?_
  repeat' (first | with_reducible assumption | (lift_lets; intro mm) | with_reducible (apply issue_follows) | with_reducible (apply resultG_follows) | with_reducible (apply retire_follows) | split | intro _ | with_reducible (refine Follows.of_mk ?_ rfl rfl rfl rfl rfl rfl rfl rfl rfl))

theorem execCmpEq_follows {k : Mach} (x0 : Thread) (x1 : Fields) (x2 : State) (h0 : Follows k x2.m) :
    ∃ t, execCmpEq x0 x1 x2 = .next t ∧ t.pending = x2.pending ∧ Follows k t.m := by
  refine nextM_follows ?_
  repeat' (first | with_reducible assumption | (lift_lets; intro mm) | with_reducible (apply aluCmp_follows) | split | intro _ | with_reducible (refine Follows.of_mk ?_ rfl rfl rfl rfl rfl rfl rfl rfl rfl))

theorem execCmpNe_follows {k : Mach} (x0 : Thread) (x1 : Fields) (x2 : State) (h0 : Follows k x2.m) :
    ∃ t, execCmpNe x0 x1 x2 = .next t ∧ t.pending = x2.pending ∧ Follows k t.m := by
  refine nextM_follows ?_
  repeat' (first | with_reducible assumption | (lift_lets; intro mm) | with_reducible (apply aluCmp_follows) | split | intro _ | with_reducible (refine Follows.of_mk ?_ rfl rfl rfl rfl rfl rfl rfl rfl rfl))

theorem execCmpLts_follows {k : Mach} (x0 : Thread) (x1 : Fields) (x2 : State) (h0 : Follows k x2.m) :
    ∃ t, execCmpLts x0 x1 x2 = .next t ∧ t.pending = x2.pending ∧ Follows k t.m := by
  refine nextM_follows ?_
  repeat' (first | with_reducible assumption | (lift_lets; intro mm) | with_reducible (apply aluCmp_follows) | split | intro _ | with_reducible (refine Follows.of_mk ?_ rfl rfl rfl rfl rfl rfl rfl rfl rfl))

theorem execCmpLes_follows {k : Mach} (x0 : Thread) (x1 : Fields) (x2 : State) (h0 : Follows k x2.m) :
    ∃ t, execCmpLes x0 x1 x2 = .next t ∧ t.pending = x2.pending ∧ Follows k t.m := by
  refine nextM_follows ?_
  repeat' (first | with_reducible assumption | (lift_lets; intro mm) | with_reducible (apply aluCmp_follows) | split | intro _ | with_reducible (refine Follows.of_mk ?_ rfl rfl rfl rfl rfl rfl rfl rfl rfl))

theorem execCmpLtu_follows {k : Mach} (x0 : Thread) (x1 : Fields) (x2 : State) (h0 : Follows k x2.m) :
    ∃ t, execCmpLtu x0 x1 x2 = .next t ∧ t.pending = x2.pending ∧ Follows k t.m := by
  refine nextM_follows ?_
  repeat' (first | with_reducible assumption | (lift_lets; intro mm) | with_reducible (apply aluCmp_follows) | split | intro _ | with_reducible (refine Follows.of_mk ?_ rfl rfl rfl rfl rfl rfl rfl rfl rfl))

theorem execCmpLeu_follows {k : Mach} (x0 : Thread) (x1 : Fields) (x2 : State) (h0 : Follows k x2.m) :
    ∃ t, execCmpLeu x0 x1 x2 = .next t ∧ t.pending = x2.pending ∧ Follows k t.m := by
  refine nextM_follows ?_
  repeat' (first | with_reducible assumption | (lift_lets; intro mm) | with_reducible (apply aluCmp_follows) | split | intro _ | with_reducible (refine Follows.of_mk ?_ rfl rfl rfl rfl rfl rfl rfl rfl rfl))

theorem execPlog_follows {k : Mach} (x0 : Thread) (x1 : Fields) (x2 : State) (h0 : Follows k x2.m) :
    ∃ t, execPlog x0 x1 x2 = .next t ∧ t.pending = x2.pending ∧ Follows k t.m := by
  refine nextM_follows ?_
  repeat' (first | with_reducible assumption | (lift_lets; intro mm) | with_reducible (apply issue_follows) | with_reducible (apply resultP_follows) | with_reducible (apply retire_follows) | split | intro _ | with_reducible (refine Follows.of_mk ?_ rfl rfl rfl rfl rfl rfl rfl rfl rfl))

end Sys2Proof.Machine
end

