-- ==== Sys2Proof/Laws/FollowsVec.lean ====
section
/-! SUPPORT. The operations and the meanings of Machine/Vec.lean keep what `Follows` names. -/

namespace Sys2Proof.Machine

theorem vec3_follows {k : Mach} (x0 : Nat) (x1 : Bool) (x2 : Fields → Nat → Nat → Nat) (x3 : Thread) (x4 : Fields) (x5 : Mach) (h0 : Follows k x5) :
    Follows k (vec3 x0 x1 x2 x3 x4 x5) := by
  unfold vec3
  repeat' (first | with_reducible assumption | (lift_lets; intro mm) | with_reducible (apply issue_follows) | with_reducible (apply resultV_follows) | with_reducible (apply retire_follows) | split | intro _ | with_reducible (refine Follows.of_mk ?_ rfl rfl rfl rfl rfl rfl rfl rfl rfl))

theorem vecFp1_follows {k : Mach} (x0 : Nat) (x1 : Nat) (x2 : FV → Rounded) (x3 : Thread) (x4 : Fields) (x5 : Mach) (h0 : Follows k x5) :
    Follows k (vecFp1 x0 x1 x2 x3 x4 x5) := by
  unfold vecFp1
  repeat' (first | with_reducible assumption | (lift_lets; intro mm) | with_reducible (apply issue_follows) | with_reducible (apply resultV_follows) | with_reducible (apply retire_follows) | split | intro _ | with_reducible (refine Follows.of_mk ?_ rfl rfl rfl rfl rfl rfl rfl rfl rfl))

theorem execVadd_follows {k : Mach} (x0 : Thread) (x1 : Fields) (x2 : State) (h0 : Follows k x2.m) :
    ∃ t, execVadd x0 x1 x2 = .next t ∧ t.pending = x2.pending ∧ Follows k t.m := by
  refine nextM_follows ?_
  repeat' (first | with_reducible assumption | (lift_lets; intro mm) | with_reducible (apply vec3_follows) | split | intro _ | with_reducible (refine Follows.of_mk ?_ rfl rfl rfl rfl rfl rfl rfl rfl rfl))

theorem execVsub_follows {k : Mach} (x0 : Thread) (x1 : Fields) (x2 : State) (h0 : Follows k x2.m) :
    ∃ t, execVsub x0 x1 x2 = .next t ∧ t.pending = x2.pending ∧ Follows k t.m := by
  refine nextM_follows ?_
  repeat' (first | with_reducible assumption | (lift_lets; intro mm) | with_reducible (apply vec3_follows) | split | intro _ | with_reducible (refine Follows.of_mk ?_ rfl rfl rfl rfl rfl rfl rfl rfl rfl))

theorem execVmul_follows {k : Mach} (x0 : Thread) (x1 : Fields) (x2 : State) (h0 : Follows k x2.m) :
    ∃ t, execVmul x0 x1 x2 = .next t ∧ t.pending = x2.pending ∧ Follows k t.m := by
  refine nextM_follows ?_
  repeat' (first | with_reducible assumption | (lift_lets; intro mm) | with_reducible (apply vec3_follows) | split | intro _ | with_reducible (refine Follows.of_mk ?_ rfl rfl rfl rfl rfl rfl rfl rfl rfl))

theorem execVfma_follows {k : Mach} (x0 : Thread) (x1 : Fields) (x2 : State) (h0 : Follows k x2.m) :
    ∃ t, execVfma x0 x1 x2 = .next t ∧ t.pending = x2.pending ∧ Follows k t.m := by
  refine nextM_follows ?_
  repeat' (first | with_reducible assumption | (lift_lets; intro mm) | with_reducible (apply issue_follows) | with_reducible (apply resultV_follows) | with_reducible (apply retire_follows) | split | intro _ | with_reducible (refine Follows.of_mk ?_ rfl rfl rfl rfl rfl rfl rfl rfl rfl))

theorem execVmin_follows {k : Mach} (x0 : Thread) (x1 : Fields) (x2 : State) (h0 : Follows k x2.m) :
    ∃ t, execVmin x0 x1 x2 = .next t ∧ t.pending = x2.pending ∧ Follows k t.m := by
  refine nextM_follows ?_
  repeat' (first | with_reducible assumption | (lift_lets; intro mm) | with_reducible (apply vec3_follows) | split | intro _ | with_reducible (refine Follows.of_mk ?_ rfl rfl rfl rfl rfl rfl rfl rfl rfl))

theorem execVmax_follows {k : Mach} (x0 : Thread) (x1 : Fields) (x2 : State) (h0 : Follows k x2.m) :
    ∃ t, execVmax x0 x1 x2 = .next t ∧ t.pending = x2.pending ∧ Follows k t.m := by
  refine nextM_follows ?_
  repeat' (first | with_reducible assumption | (lift_lets; intro mm) | with_reducible (apply vec3_follows) | split | intro _ | with_reducible (refine Follows.of_mk ?_ rfl rfl rfl rfl rfl rfl rfl rfl rfl))

theorem execVdiv_follows {k : Mach} (x0 : Thread) (x1 : Fields) (x2 : State) (h0 : Follows k x2.m) :
    ∃ t, execVdiv x0 x1 x2 = .next t ∧ t.pending = x2.pending ∧ Follows k t.m := by
  refine nextM_follows ?_
  repeat' (first | with_reducible assumption | (lift_lets; intro mm) | with_reducible (apply issue_follows) | with_reducible (apply resultV_follows) | with_reducible (apply retire_follows) | split | intro _ | with_reducible (refine Follows.of_mk ?_ rfl rfl rfl rfl rfl rfl rfl rfl rfl))

theorem execVsqrt_follows {k : Mach} (x0 : Thread) (x1 : Fields) (x2 : State) (h0 : Follows k x2.m) :
    ∃ t, execVsqrt x0 x1 x2 = .next t ∧ t.pending = x2.pending ∧ Follows k t.m := by
  refine nextM_follows ?_
  repeat' (first | with_reducible assumption | (lift_lets; intro mm) | with_reducible (apply vecFp1_follows) | split | intro _ | with_reducible (refine Follows.of_mk ?_ rfl rfl rfl rfl rfl rfl rfl rfl rfl))

theorem execVrcp_follows {k : Mach} (x0 : Thread) (x1 : Fields) (x2 : State) (h0 : Follows k x2.m) :
    ∃ t, execVrcp x0 x1 x2 = .next t ∧ t.pending = x2.pending ∧ Follows k t.m := by
  refine nextM_follows ?_
  repeat' (first | with_reducible assumption | (lift_lets; intro mm) | with_reducible (apply vecFp1_follows) | split | intro _ | with_reducible (refine Follows.of_mk ?_ rfl rfl rfl rfl rfl rfl rfl rfl rfl))

theorem execVrsq_follows {k : Mach} (x0 : Thread) (x1 : Fields) (x2 : State) (h0 : Follows k x2.m) :
    ∃ t, execVrsq x0 x1 x2 = .next t ∧ t.pending = x2.pending ∧ Follows k t.m := by
  refine nextM_follows ?_
  repeat' (first | with_reducible assumption | (lift_lets; intro mm) | with_reducible (apply vecFp1_follows) | split | intro _ | with_reducible (refine Follows.of_mk ?_ rfl rfl rfl rfl rfl rfl rfl rfl rfl))

theorem execVexp2_follows {k : Mach} (x0 : Thread) (x1 : Fields) (x2 : State) (h0 : Follows k x2.m) :
    ∃ t, execVexp2 x0 x1 x2 = .next t ∧ t.pending = x2.pending ∧ Follows k t.m := by
  refine nextM_follows ?_
  repeat' (first | with_reducible assumption | (lift_lets; intro mm) | with_reducible (apply vecFp1_follows) | split | intro _ | with_reducible (refine Follows.of_mk ?_ rfl rfl rfl rfl rfl rfl rfl rfl rfl))

theorem execVlog2_follows {k : Mach} (x0 : Thread) (x1 : Fields) (x2 : State) (h0 : Follows k x2.m) :
    ∃ t, execVlog2 x0 x1 x2 = .next t ∧ t.pending = x2.pending ∧ Follows k t.m := by
  refine nextM_follows ?_
  repeat' (first | with_reducible assumption | (lift_lets; intro mm) | with_reducible (apply vecFp1_follows) | split | intro _ | with_reducible (refine Follows.of_mk ?_ rfl rfl rfl rfl rfl rfl rfl rfl rfl))

theorem vecRed_follows {k : Mach} (x0 : Nat) (x1 : Bool) (x2 : Thread) (x3 : Fields) (x4 : Mach) (h0 : Follows k x4) :
    Follows k (vecRed x0 x1 x2 x3 x4) := by
  unfold vecRed
  repeat' (first | with_reducible assumption | (lift_lets; intro mm) | with_reducible (apply issue_follows) | with_reducible (apply resultV_follows) | with_reducible (apply retire_follows) | split | intro _ | with_reducible (refine Follows.of_mk ?_ rfl rfl rfl rfl rfl rfl rfl rfl rfl))

theorem execVred_follows {k : Mach} (x0 : Thread) (x1 : Fields) (x2 : State) (h0 : Follows k x2.m) :
    ∃ t, execVred x0 x1 x2 = .next t ∧ t.pending = x2.pending ∧ Follows k t.m := by
  refine nextM_follows ?_
  repeat' (first | with_reducible assumption | (lift_lets; intro mm) | with_reducible (apply vecRed_follows) | split | intro _ | with_reducible (refine Follows.of_mk ?_ rfl rfl rfl rfl rfl rfl rfl rfl rfl))

theorem execVrmax_follows {k : Mach} (x0 : Thread) (x1 : Fields) (x2 : State) (h0 : Follows k x2.m) :
    ∃ t, execVrmax x0 x1 x2 = .next t ∧ t.pending = x2.pending ∧ Follows k t.m := by
  refine nextM_follows ?_
  repeat' (first | with_reducible assumption | (lift_lets; intro mm) | with_reducible (apply vecRed_follows) | split | intro _ | with_reducible (refine Follows.of_mk ?_ rfl rfl rfl rfl rfl rfl rfl rfl rfl))

theorem execVcmp_follows {k : Mach} (x0 : Thread) (x1 : Fields) (x2 : State) (h0 : Follows k x2.m) :
    ∃ t, execVcmp x0 x1 x2 = .next t ∧ t.pending = x2.pending ∧ Follows k t.m := by
  refine nextM_follows ?_
  repeat' (first | with_reducible assumption | (lift_lets; intro mm) | with_reducible (apply vec3_follows) | split | intro _ | with_reducible (refine Follows.of_mk ?_ rfl rfl rfl rfl rfl rfl rfl rfl rfl))

theorem execVsel_follows {k : Mach} (x0 : Thread) (x1 : Fields) (x2 : State) (h0 : Follows k x2.m) :
    ∃ t, execVsel x0 x1 x2 = .next t ∧ t.pending = x2.pending ∧ Follows k t.m := by
  refine nextM_follows ?_
  repeat' (first | with_reducible assumption | (lift_lets; intro mm) | with_reducible (apply issue_follows) | with_reducible (apply resultV_follows) | with_reducible (apply retire_follows) | split | intro _ | with_reducible (refine Follows.of_mk ?_ rfl rfl rfl rfl rfl rfl rfl rfl rfl))

theorem execVbcst_follows {k : Mach} (x0 : Thread) (x1 : Fields) (x2 : State) (h0 : Follows k x2.m) :
    ∃ t, execVbcst x0 x1 x2 = .next t ∧ t.pending = x2.pending ∧ Follows k t.m := by
  refine nextM_follows ?_
  repeat' (first | with_reducible assumption | (lift_lets; intro mm) | with_reducible (apply issue_follows) | with_reducible (apply resultV_follows) | with_reducible (apply retire_follows) | split | intro _ | with_reducible (refine Follows.of_mk ?_ rfl rfl rfl rfl rfl rfl rfl rfl rfl))

theorem execVext_follows {k : Mach} (x0 : Thread) (x1 : Fields) (x2 : State) (h0 : Follows k x2.m) :
    ∃ t, execVext x0 x1 x2 = .next t ∧ t.pending = x2.pending ∧ Follows k t.m := by
  refine nextM_follows ?_
  repeat' (first | with_reducible assumption | (lift_lets; intro mm) | with_reducible (apply issue_follows) | with_reducible (apply resultG_follows) | with_reducible (apply retire_follows) | split | intro _ | with_reducible (refine Follows.of_mk ?_ rfl rfl rfl rfl rfl rfl rfl rfl rfl))

theorem execVmov_follows {k : Mach} (x0 : Thread) (x1 : Fields) (x2 : State) (h0 : Follows k x2.m) :
    ∃ t, execVmov x0 x1 x2 = .next t ∧ t.pending = x2.pending ∧ Follows k t.m := by
  refine nextM_follows ?_
  repeat' (first | with_reducible assumption | (lift_lets; intro mm) | with_reducible (apply issue_follows) | with_reducible (apply resultV_follows) | with_reducible (apply retire_follows) | split | intro _ | with_reducible (refine Follows.of_mk ?_ rfl rfl rfl rfl rfl rfl rfl rfl rfl))

end Sys2Proof.Machine
end

