-- ==== Sys2Proof/Laws/FollowsConv.lean ====
section
/-! SUPPORT. The operations and the meanings of Machine/Conv.lean keep what `Follows` names. -/

namespace Sys2Proof.Machine

theorem conv_follows {k : Mach} (x0 : Nat) (x1 : Bool) (x2 : List Nat) (x3 : Thread) (x4 : Fields) (x5 : Mach) (x6 : Mach → ThreadState → W512 × Mach) (hx6 : ∀ y0 y1, Follows k y0 → Follows k (x6 y0 y1).2) (h0 : Follows k x5) :
    Follows k (conv x0 x1 x2 x3 x4 x5 x6) := by
  unfold conv
  repeat' (first | with_reducible assumption | (lift_lets; intro mm) | with_reducible (apply issue_follows) | with_reducible (apply resultV_follows) | with_reducible (apply retire_follows) | with_reducible (apply hx6) | split | intro _ | with_reducible (refine Follows.of_mk ?_ rfl rfl rfl rfl rfl rfl rfl rfl rfl))

theorem execCvt_follows {k : Mach} (x0 : Thread) (x1 : Fields) (x2 : State) (h0 : Follows k x2.m) :
    ∃ t, execCvt x0 x1 x2 = .next t ∧ t.pending = x2.pending ∧ Follows k t.m := by
  refine nextM_follows ?_
  repeat' (first | with_reducible assumption | (lift_lets; intro mm) | with_reducible (apply conv_follows) | split | intro _ | with_reducible (refine Follows.of_mk ?_ rfl rfl rfl rfl rfl rfl rfl rfl rfl))

theorem execCvtk4_follows {k : Mach} (x0 : Thread) (x1 : Fields) (x2 : State) (h0 : Follows k x2.m) :
    ∃ t, execCvtk4 x0 x1 x2 = .next t ∧ t.pending = x2.pending ∧ Follows k t.m := by
  refine nextM_follows ?_
  repeat' (first | with_reducible assumption | (lift_lets; intro mm) | with_reducible (apply conv_follows) | with_reducible (apply countK4_follows) | split | intro _ | with_reducible (refine Follows.of_mk ?_ rfl rfl rfl rfl rfl rfl rfl rfl rfl))

theorem execDck4_follows {k : Mach} (x0 : Thread) (x1 : Fields) (x2 : State) (h0 : Follows k x2.m) :
    ∃ t, execDck4 x0 x1 x2 = .next t ∧ t.pending = x2.pending ∧ Follows k t.m := by
  refine nextM_follows ?_
  repeat' (first | with_reducible assumption | (lift_lets; intro mm) | with_reducible (apply conv_follows) | with_reducible (apply countDune_follows) | split | intro _ | with_reducible (refine Follows.of_mk ?_ rfl rfl rfl rfl rfl rfl rfl rfl rfl))

theorem execCvtmx_follows {k : Mach} (x0 : Thread) (x1 : Fields) (x2 : State) (h0 : Follows k x2.m) :
    ∃ t, execCvtmx x0 x1 x2 = .next t ∧ t.pending = x2.pending ∧ Follows k t.m := by
  refine nextM_follows ?_
  repeat' (first | with_reducible assumption | (lift_lets; intro mm) | with_reducible (apply conv_follows) | with_reducible (apply countDune_follows) | split | intro _ | with_reducible (refine Follows.of_mk ?_ rfl rfl rfl rfl rfl rfl rfl rfl rfl))

theorem execDcmx_follows {k : Mach} (x0 : Thread) (x1 : Fields) (x2 : State) (h0 : Follows k x2.m) :
    ∃ t, execDcmx x0 x1 x2 = .next t ∧ t.pending = x2.pending ∧ Follows k t.m := by
  refine nextM_follows ?_
  repeat' (first | with_reducible assumption | (lift_lets; intro mm) | with_reducible (apply conv_follows) | with_reducible (apply countK4_follows) | split | intro _ | with_reducible (refine Follows.of_mk ?_ rfl rfl rfl rfl rfl rfl rfl rfl rfl))

end Sys2Proof.Machine
end

