-- ==== Sys2Proof/Laws/FollowsMem.lean ====
section
/-! SUPPORT. The operations and the meanings of Machine/Mem.lean keep what `Follows` names. -/

namespace Sys2Proof.Machine

theorem scheduleLoad_follows {k : Mach} (x0 : Mach) (x1 : LoadReq) (h0 : Follows k x0) :
    Follows k (scheduleLoad x0 x1) := by
  unfold scheduleLoad
  repeat' (first | with_reducible assumption | (lift_lets; intro mm) | with_reducible (apply setThread_follows) | with_reducible (apply foldl_follows) | split | intro _ | with_reducible (refine Follows.of_mk ?_ rfl rfl rfl rfl rfl rfl rfl rfl rfl))

theorem loadInstr_follows {k : Mach} (x0 : Nat) (x1 : Nat) (x2 : Bool) (x3 : Nat) (x4 : Bool) (x5 : Thread) (x6 : Fields) (x7 : Mach) (h0 : Follows k x7) :
    Follows k (loadInstr x0 x1 x2 x3 x4 x5 x6 x7) := by
  unfold loadInstr
  repeat' (first | with_reducible assumption | (lift_lets; intro mm) | with_reducible (apply issue_follows) | with_reducible (apply instFault_follows) | with_reducible (apply eccRead_follows) | (refine eccRead_follows' _ _ _ _ _ ?_ _ _ (by assumption)) | with_reducible (apply dropLoad_follows) | with_reducible (apply retire_follows) | with_reducible (apply readSram_follows) | (refine readSram_follows' _ _ _ ?_ _ _ (by assumption)) | with_reducible (apply setThread_follows) | with_reducible (apply scheduleLoad_follows) | split | intro _ | dsimp +zetaDelta only | with_reducible (refine Follows.of_mk ?_ rfl rfl rfl rfl rfl rfl rfl rfl rfl))

theorem storeInstr_follows {k : Mach} (x0 : Nat) (x1 : Nat) (x2 : Nat) (x3 : Bool) (x4 : ThreadState → Nat) (x5 : Thread) (x6 : Fields) (x7 : Mach) (h0 : Follows k x7) :
    Follows k (storeInstr x0 x1 x2 x3 x4 x5 x6 x7) := by
  unfold storeInstr
  repeat' (first | with_reducible assumption | (lift_lets; intro mm) | with_reducible (apply issue_follows) | with_reducible (apply land_follows) | with_reducible (apply retire_follows) | with_reducible (apply instFault_follows) | split | intro _ | with_reducible (refine Follows.of_mk ?_ rfl rfl rfl rfl rfl rfl rfl rfl rfl))

theorem execLdU1_follows {k : Mach} (x0 : Thread) (x1 : Fields) (x2 : State) (h0 : Follows k x2.m) :
    ∃ t, execLdU1 x0 x1 x2 = .next t ∧ t.pending = x2.pending ∧ Follows k t.m := by
  refine nextM_follows ?_
  repeat' (first | with_reducible assumption | (lift_lets; intro mm) | with_reducible (apply loadInstr_follows) | split | intro _ | with_reducible (refine Follows.of_mk ?_ rfl rfl rfl rfl rfl rfl rfl rfl rfl))

theorem execLdU2_follows {k : Mach} (x0 : Thread) (x1 : Fields) (x2 : State) (h0 : Follows k x2.m) :
    ∃ t, execLdU2 x0 x1 x2 = .next t ∧ t.pending = x2.pending ∧ Follows k t.m := by
  refine nextM_follows ?_
  repeat' (first | with_reducible assumption | (lift_lets; intro mm) | with_reducible (apply loadInstr_follows) | split | intro _ | with_reducible (refine Follows.of_mk ?_ rfl rfl rfl rfl rfl rfl rfl rfl rfl))

theorem execLdU4_follows {k : Mach} (x0 : Thread) (x1 : Fields) (x2 : State) (h0 : Follows k x2.m) :
    ∃ t, execLdU4 x0 x1 x2 = .next t ∧ t.pending = x2.pending ∧ Follows k t.m := by
  refine nextM_follows ?_
  repeat' (first | with_reducible assumption | (lift_lets; intro mm) | with_reducible (apply loadInstr_follows) | split | intro _ | with_reducible (refine Follows.of_mk ?_ rfl rfl rfl rfl rfl rfl rfl rfl rfl))

theorem execLd8_follows {k : Mach} (x0 : Thread) (x1 : Fields) (x2 : State) (h0 : Follows k x2.m) :
    ∃ t, execLd8 x0 x1 x2 = .next t ∧ t.pending = x2.pending ∧ Follows k t.m := by
  refine nextM_follows ?_
  repeat' (first | with_reducible assumption | (lift_lets; intro mm) | with_reducible (apply loadInstr_follows) | split | intro _ | with_reducible (refine Follows.of_mk ?_ rfl rfl rfl rfl rfl rfl rfl rfl rfl))

theorem execLdS1_follows {k : Mach} (x0 : Thread) (x1 : Fields) (x2 : State) (h0 : Follows k x2.m) :
    ∃ t, execLdS1 x0 x1 x2 = .next t ∧ t.pending = x2.pending ∧ Follows k t.m := by
  refine nextM_follows ?_
  repeat' (first | with_reducible assumption | (lift_lets; intro mm) | with_reducible (apply loadInstr_follows) | split | intro _ | with_reducible (refine Follows.of_mk ?_ rfl rfl rfl rfl rfl rfl rfl rfl rfl))

theorem execLdS2_follows {k : Mach} (x0 : Thread) (x1 : Fields) (x2 : State) (h0 : Follows k x2.m) :
    ∃ t, execLdS2 x0 x1 x2 = .next t ∧ t.pending = x2.pending ∧ Follows k t.m := by
  refine nextM_follows ?_
  repeat' (first | with_reducible assumption | (lift_lets; intro mm) | with_reducible (apply loadInstr_follows) | split | intro _ | with_reducible (refine Follows.of_mk ?_ rfl rfl rfl rfl rfl rfl rfl rfl rfl))

theorem execLdS4_follows {k : Mach} (x0 : Thread) (x1 : Fields) (x2 : State) (h0 : Follows k x2.m) :
    ∃ t, execLdS4 x0 x1 x2 = .next t ∧ t.pending = x2.pending ∧ Follows k t.m := by
  refine nextM_follows ?_
  repeat' (first | with_reducible assumption | (lift_lets; intro mm) | with_reducible (apply loadInstr_follows) | split | intro _ | with_reducible (refine Follows.of_mk ?_ rfl rfl rfl rfl rfl rfl rfl rfl rfl))

theorem execSt1_follows {k : Mach} (x0 : Thread) (x1 : Fields) (x2 : State) (h0 : Follows k x2.m) :
    ∃ t, execSt1 x0 x1 x2 = .next t ∧ t.pending = x2.pending ∧ Follows k t.m := by
  refine nextM_follows ?_
  repeat' (first | with_reducible assumption | (lift_lets; intro mm) | with_reducible (apply storeInstr_follows) | split | intro _ | with_reducible (refine Follows.of_mk ?_ rfl rfl rfl rfl rfl rfl rfl rfl rfl))

theorem execSt2_follows {k : Mach} (x0 : Thread) (x1 : Fields) (x2 : State) (h0 : Follows k x2.m) :
    ∃ t, execSt2 x0 x1 x2 = .next t ∧ t.pending = x2.pending ∧ Follows k t.m := by
  refine nextM_follows ?_
  repeat' (first | with_reducible assumption | (lift_lets; intro mm) | with_reducible (apply storeInstr_follows) | split | intro _ | with_reducible (refine Follows.of_mk ?_ rfl rfl rfl rfl rfl rfl rfl rfl rfl))

theorem execSt4_follows {k : Mach} (x0 : Thread) (x1 : Fields) (x2 : State) (h0 : Follows k x2.m) :
    ∃ t, execSt4 x0 x1 x2 = .next t ∧ t.pending = x2.pending ∧ Follows k t.m := by
  refine nextM_follows ?_
  repeat' (first | with_reducible assumption | (lift_lets; intro mm) | with_reducible (apply storeInstr_follows) | split | intro _ | with_reducible (refine Follows.of_mk ?_ rfl rfl rfl rfl rfl rfl rfl rfl rfl))

theorem execSt8_follows {k : Mach} (x0 : Thread) (x1 : Fields) (x2 : State) (h0 : Follows k x2.m) :
    ∃ t, execSt8 x0 x1 x2 = .next t ∧ t.pending = x2.pending ∧ Follows k t.m := by
  refine nextM_follows ?_
  repeat' (first | with_reducible assumption | (lift_lets; intro mm) | with_reducible (apply storeInstr_follows) | split | intro _ | with_reducible (refine Follows.of_mk ?_ rfl rfl rfl rfl rfl rfl rfl rfl rfl))

theorem execLdv_follows {k : Mach} (x0 : Thread) (x1 : Fields) (x2 : State) (h0 : Follows k x2.m) :
    ∃ t, execLdv x0 x1 x2 = .next t ∧ t.pending = x2.pending ∧ Follows k t.m := by
  refine nextM_follows ?_
  repeat' (first | with_reducible assumption | (lift_lets; intro mm) | with_reducible (apply loadInstr_follows) | split | intro _ | with_reducible (refine Follows.of_mk ?_ rfl rfl rfl rfl rfl rfl rfl rfl rfl))

theorem execStv_follows {k : Mach} (x0 : Thread) (x1 : Fields) (x2 : State) (h0 : Follows k x2.m) :
    ∃ t, execStv x0 x1 x2 = .next t ∧ t.pending = x2.pending ∧ Follows k t.m := by
  refine nextM_follows ?_
  repeat' (first | with_reducible assumption | (lift_lets; intro mm) | with_reducible (apply storeInstr_follows) | split | intro _ | with_reducible (refine Follows.of_mk ?_ rfl rfl rfl rfl rfl rfl rfl rfl rfl))

end Sys2Proof.Machine
end

