-- ==== Sys2Proof/Laws/FollowsWin.lean ====
section
/-! SUPPORT. The operations and the meanings of Machine/Win.lean keep what `Follows` names. -/

namespace Sys2Proof.Machine

theorem execWopen_follows {k : Mach} (x0 : Thread) (x1 : Fields) (x2 : State) (h0 : Follows k x2.m) :
    ∃ t, execWopen x0 x1 x2 = .next t ∧ t.pending = x2.pending ∧ Follows k t.m := by
  refine nextM_follows ?_
  repeat' (first | with_reducible assumption | (lift_lets; intro mm) | with_reducible (apply issue_follows) | with_reducible (apply instFault_follows) | with_reducible (apply eccRead_follows) | (refine eccRead_follows' _ _ _ _ _ ?_ _ _ (by assumption)) | with_reducible (apply readSram_follows) | (refine readSram_follows' _ _ _ ?_ _ _ (by assumption)) | with_reducible (apply retire_follows) | with_reducible (apply setRow_follows) | split | intro _ | with_reducible (refine Follows.of_mk ?_ rfl rfl rfl rfl rfl rfl rfl rfl rfl))

theorem execWclose_follows {k : Mach} (x0 : Thread) (x1 : Fields) (x2 : State) (h0 : Follows k x2.m) :
    ∃ t, execWclose x0 x1 x2 = .next t ∧ t.pending = x2.pending ∧ Follows k t.m := by
  refine nextM_follows ?_
  repeat' (first | with_reducible assumption | (lift_lets; intro mm) | with_reducible (apply issue_follows) | with_reducible (apply retire_follows) | with_reducible (apply setRow_follows) | split | intro _ | with_reducible (refine Follows.of_mk ?_ rfl rfl rfl rfl rfl rfl rfl rfl rfl))

theorem execPut_follows {k : Mach} (x0 : Thread) (x1 : Fields) (x2 : State) (h0 : Follows k x2.m) :
    ∃ t, execPut x0 x1 x2 = .next t ∧ t.pending = x2.pending ∧ Follows k t.m := by
  refine nextM_follows ?_
  repeat' (first | with_reducible assumption | (lift_lets; intro mm) | with_reducible (apply issue_follows) | with_reducible (apply instFault_follows) | with_reducible (apply eccRead_follows) | (refine eccRead_follows' _ _ _ _ _ ?_ _ _ (by assumption)) | with_reducible (apply readSram_follows) | (refine readSram_follows' _ _ _ ?_ _ _ (by assumption)) | with_reducible (apply draw_follows) | (refine draw_follows' _ ?_ _ _ (by assumption)) | with_reducible (apply setThread_follows) | with_reducible (apply sendPacket_follows) | with_reducible (apply retire_follows) | split | intro _ | with_reducible (refine Follows.of_mk ?_ rfl rfl rfl rfl rfl rfl rfl rfl rfl))

end Sys2Proof.Machine
end

