-- ==== Sys2Proof/Laws/FollowsQueue.lean ====
section
/-! SUPPORT. The operations and the meanings of Machine/Queue.lean keep what `Follows` names. -/

namespace Sys2Proof.Machine

theorem serveHbm_follows {k : Mach} (x0 : Mach) (x1 : Nat) (x2 : Nat) (h0 : Follows k x0) :
    Follows k (serveHbm x0 x1 x2) := by
  unfold serveHbm
  repeat' (first | with_reducible assumption | (lift_lets; intro mm) | with_reducible (apply foldl_follows) | split | intro _ | with_reducible (refine Follows.of_mk ?_ rfl rfl rfl rfl rfl rfl rfl rfl rfl))

theorem raceRemote_follows {k : Mach} (x0 : Mach) (x1 : Nat) (x2 : List Byte) (h0 : Follows k x0) :
    Follows k (raceRemote x0 x1 x2) := by
  unfold raceRemote
  repeat' (first | with_reducible assumption | (lift_lets; intro mm) | with_reducible (apply foldl_follows) | split | intro _ | with_reducible (refine Follows.of_mk ?_ rfl rfl rfl rfl rfl rfl rfl rfl rfl))

theorem storeByte_follows {k : Mach} (x0 : Mach) (x1 : Nat) (x2 : Byte) (h0 : Follows k x0) :
    Follows k (storeByte x0 x1 x2) := by
  unfold storeByte
  split
  · exact h0.of_eq rfl rfl rfl rfl rfl rfl rfl rfl rfl
  · exact ⟨h0.sram, wf_writeByte _ _ h0.hbm, h0.now, h0.retirement, h0.gradeE, h0.steppingB1, h0.badSites, h0.badCores, h0.badDunes⟩

theorem storeBytes_follows {k : Mach} (x0 : Mach) (x1 : Nat) (x2 : List Byte) (h0 : Follows k x0) :
    Follows k (storeBytes x0 x1 x2) := by
  induction x2 generalizing x0 x1 with
  | nil => exact h0
  | cons b bs ih => exact ih _ _ (storeByte_follows _ _ _ h0)

theorem clearPatch_follows {k : Mach} (x0 : Mach) (x1 : Nat) (x2 : Nat) (h0 : Follows k x0) :
    Follows k (clearPatch x0 x1 x2) := by
  unfold clearPatch
  repeat' (first | with_reducible assumption | (lift_lets; intro mm) | with_reducible (apply foldl_follows) | split | intro _ | with_reducible (refine Follows.of_mk ?_ rfl rfl rfl rfl rfl rfl rfl rfl rfl))

theorem writeHbm_follows {k : Mach} (x0 : Mach) (x1 : Nat) (x2 : List Byte) (h0 : Follows k x0) :
    Follows k (writeHbm x0 x1 x2) := by
  exact storeBytes_follows _ _ _ (raceRemote_follows _ _ _ h0)

theorem dmaHbm_follows {k : Mach} (x0 : Mach) (x1 : Nat) (x2 : List Byte) (h0 : Follows k x0) :
    Follows k (dmaHbm x0 x1 x2) := by
  unfold dmaHbm
  repeat' (first | with_reducible assumption | (lift_lets; intro mm) | with_reducible (apply serveHbm_follows) | with_reducible (apply writeHbm_follows) | with_reducible (apply foldl_follows) | split | intro _ | with_reducible (refine Follows.of_mk ?_ rfl rfl rfl rfl rfl rfl rfl rfl rfl))

theorem sendLoad_follows {k : Mach} (x0 : Mach) (x1 : CoreId) (x2 : Nat) (x3 : Transfer) (x4 : List Byte) (h0 : Follows k x0) :
    Follows k (sendLoad x0 x1 x2 x3 x4) := by
  unfold sendLoad
  repeat' (first | with_reducible assumption | (lift_lets; intro mm) | with_reducible (apply draw_follows) | (refine draw_follows' _ ?_ _ _ (by assumption)) | with_reducible (apply enterPacket_follows) | with_reducible (apply foldl_follows) | split | intro _ | with_reducible (refine Follows.of_mk ?_ rfl rfl rfl rfl rfl rfl rfl rfl rfl))

theorem sendStore_follows {k : Mach} (x0 : Mach) (x1 : CoreId) (x2 : Nat) (x3 : Transfer) (h0 : Follows k x0) :
    Follows k (sendStore x0 x1 x2 x3) := by
  unfold sendStore
  repeat' (first | with_reducible assumption | (lift_lets; intro mm) | with_reducible (apply draw_follows) | (refine draw_follows' _ ?_ _ _ (by assumption)) | with_reducible (apply sendPacket_follows) | with_reducible (apply foldl_follows) | split | intro _ | with_reducible (refine Follows.of_mk ?_ rfl rfl rfl rfl rfl rfl rfl rfl rfl))

theorem takeEntry_follows {k : Mach} (x0 : Mach) (x1 : Thread) (x2 : Beat) (x3 : Nat) (x4 : Nat) (x5 : Nat) (x6 : W64) (x7 : W64) (x8 : Nat) (x9 : BitVec 5) (h0 : Follows k x0) :
    Follows k (takeEntry x0 x1 x2 x3 x4 x5 x6 x7 x8 x9) := by
  unfold takeEntry
  repeat' (first | with_reducible assumption | (lift_lets; intro mm) | with_reducible (apply readSram_follows) | (refine readSram_follows' _ _ _ ?_ _ _ (by assumption)) | with_reducible (apply setQueues_follows) | with_reducible (apply hostRead_follows) | with_reducible (apply sendStore_follows) | with_reducible (apply resultG_follows) | with_reducible (apply foldl_follows) | split | intro _ | with_reducible (refine Follows.of_mk ?_ rfl rfl rfl rfl rfl rfl rfl rfl rfl))

theorem queueInstr_follows {k : Mach} (x0 : Bool) (x1 : Nat) (x2 : Nat) (x3 : Thread) (x4 : Fields) (x5 : Mach) (h0 : Follows k x5) :
    Follows k (queueInstr x0 x1 x2 x3 x4 x5) := by
  unfold queueInstr
  repeat' (first | with_reducible assumption | (lift_lets; intro mm) | with_reducible (apply issue_follows) | with_reducible (apply instFault_follows) | with_reducible (apply eccRead_follows) | (refine eccRead_follows' _ _ _ _ _ ?_ _ _ (by assumption)) | with_reducible (apply takeEntry_follows) | with_reducible (apply retire_follows) | with_reducible (apply countDune_follows) | with_reducible (apply setThread_follows) | with_reducible (apply foldl_follows) | split | intro _ | with_reducible (refine Follows.of_mk ?_ rfl rfl rfl rfl rfl rfl rfl rfl rfl))

theorem execQld_follows {k : Mach} (x0 : Thread) (x1 : Fields) (x2 : State) (h0 : Follows k x2.m) :
    ∃ t, execQld x0 x1 x2 = .next t ∧ t.pending = x2.pending ∧ Follows k t.m := by
  refine nextM_follows ?_
  repeat' (first | with_reducible assumption | (lift_lets; intro mm) | with_reducible (apply queueInstr_follows) | with_reducible (apply foldl_follows) | split | intro _ | with_reducible (refine Follows.of_mk ?_ rfl rfl rfl rfl rfl rfl rfl rfl rfl))

theorem execQst_follows {k : Mach} (x0 : Thread) (x1 : Fields) (x2 : State) (h0 : Follows k x2.m) :
    ∃ t, execQst x0 x1 x2 = .next t ∧ t.pending = x2.pending ∧ Follows k t.m := by
  refine nextM_follows ?_
  repeat' (first | with_reducible assumption | (lift_lets; intro mm) | with_reducible (apply queueInstr_follows) | with_reducible (apply foldl_follows) | split | intro _ | with_reducible (refine Follows.of_mk ?_ rfl rfl rfl rfl rfl rfl rfl rfl rfl))

theorem deadlineEnds_follows {k : Mach} (x0 : Mach) (x1 : Thread) (x2 : Beat) (x3 : BitVec 3) (x4 : Nat) (h0 : Follows k x0) :
    Follows k (deadlineEnds x0 x1 x2 x3 x4) := by
  unfold deadlineEnds
  repeat' (first | with_reducible assumption | (lift_lets; intro mm) | with_reducible (apply countDune_follows) | with_reducible (apply setThread_follows) | with_reducible (apply foldl_follows) | split | intro _ | with_reducible (refine Follows.of_mk ?_ rfl rfl rfl rfl rfl rfl rfl rfl rfl))

theorem execQwait_follows {k : Mach} (x0 : Thread) (x1 : Fields) (x2 : State) (h0 : Follows k x2.m) :
    ∃ t, execQwait x0 x1 x2 = .next t ∧ t.pending = x2.pending ∧ Follows k t.m := by
  refine nextM_follows ?_
  repeat' (first | with_reducible assumption | (lift_lets; intro mm) | with_reducible (apply issue_follows) | with_reducible (apply instFault_follows) | with_reducible (apply retire_follows) | with_reducible (apply resultP_follows) | with_reducible (apply deadlineEnds_follows) | with_reducible (apply setThread_follows) | with_reducible (apply foldl_follows) | split | intro _ | with_reducible (refine Follows.of_mk ?_ rfl rfl rfl rfl rfl rfl rfl rfl rfl))

theorem execQwaitDeadline_follows {k : Mach} (x0 : Thread) (x1 : State) (h0 : Follows k x1.m) :
    ∃ t, execQwaitDeadline x0 x1 = .next t ∧ t.pending = x1.pending ∧ Follows k t.m := by
  refine nextM_follows ?_
  repeat' (first | with_reducible assumption | (lift_lets; intro mm) | with_reducible (apply deadlineEnds_follows) | with_reducible (apply advance_follows) | with_reducible (apply foldl_follows) | split | intro _ | with_reducible (refine Follows.of_mk ?_ rfl rfl rfl rfl rfl rfl rfl rfl rfl))

theorem wakeWaiters_follows {k : Mach} (x0 : Mach) (x1 : CoreId) (x2 : Nat) (x3 : Nat) (h0 : Follows k x0) :
    Follows k (wakeWaiters x0 x1 x2 x3) := by
  unfold wakeWaiters
  repeat' (first | with_reducible assumption | (lift_lets; intro mm) | with_reducible (apply deadlineEnds_follows) | with_reducible (apply setThread_follows) | with_reducible (apply foldl_follows) | split | intro _ | dsimp +zetaDelta only | with_reducible (refine Follows.of_mk ?_ rfl rfl rfl rfl rfl rfl rfl rfl rfl))

theorem qldBytes_follows {k : Mach} (x0 : Mach) (x1 : Transfer) (h0 : Follows k x0) :
    Follows k (qldBytes x0 x1).2 := by
  unfold qldBytes
  extract_lets a racing
  clear_value racing
  refine foldl_snd_follows _ h0 fun r x h => ?_
  exact h.of_eq rfl rfl rfl rfl rfl rfl rfl rfl rfl

theorem qldBytes_follows' {k : Mach} (x0 : Mach) (x1 : Transfer) (h0 : Follows k x0) :
    ∀ a z, qldBytes x0 x1 = (a, z) → Follows k z := by
  intro a z e
  have := qldBytes_follows x0 x1  h0 (k := k)
  rw [e] at this
  exact this

theorem carryTransfer_follows {k : Mach} (x0 : Mach) (x1 : CoreId) (x2 : Nat) (x3 : Transfer) (x4 : List Byte) (h0 : Follows k x0) :
    Follows k (carryTransfer x0 x1 x2 x3 x4) := by
  unfold carryTransfer
  repeat' (first | with_reducible assumption | (lift_lets; intro mm) | with_reducible (apply sendLoad_follows) | with_reducible (apply runUntil_follows) | with_reducible (apply advance_follows) | with_reducible (apply foldl_follows) | split | intro _ | with_reducible (refine Follows.of_mk ?_ rfl rfl rfl rfl rfl rfl rfl rfl rfl))

theorem execQueueTransferComplete_follows {k : Mach} (x0 : CoreId) (x1 : Fin 6) (x2 : Fin 16) (x3 : List Byte) (x4 : XferEnd) (x5 : State) (h0 : Follows k x5.m) :
    ∃ t, execQueueTransferComplete x0 x1 x2 x3 x4 x5 = .next t ∧ t.pending = x5.pending ∧ Follows k t.m := by
  refine nextM_follows ?_
  repeat' (first | with_reducible assumption | (lift_lets; intro mm) | with_reducible (apply setQueues_follows) | with_reducible (apply rowFault_follows) | with_reducible (apply count_follows) | with_reducible (apply qldBytes_follows) | (refine qldBytes_follows' _ _ ?_ _ _ (by assumption)) | with_reducible (apply carryTransfer_follows) | with_reducible (apply hostWrite_follows) | with_reducible (apply writeHbm_follows) | with_reducible (apply serveHbm_follows) | with_reducible (apply countDune_follows) | with_reducible (apply wakeWaiters_follows) | with_reducible (apply foldl_follows) | split | intro _ | with_reducible (refine Follows.of_mk ?_ rfl rfl rfl rfl rfl rfl rfl rfl rfl))

end Sys2Proof.Machine
end

