-- ==== Sys2Proof/Laws/FollowsPlate.lean ====
section
/-! SUPPORT. The operations and the meanings of Machine/Plate.lean keep what `Follows` names. -/

namespace Sys2Proof.Machine

theorem sendStretch_follows {k : Mach} (x0 : Mach) (x1 : RowId) (x2 : Beat) (x3 : Nat) (h0 : Follows k x0) :
    Follows k (sendStretch x0 x1 x2 x3) := by
  unfold sendStretch
  repeat' (first | with_reducible assumption | (lift_lets; intro mm) | with_reducible (apply sendMesh_follows) | with_reducible (apply count_follows) | split | intro _ | with_reducible (refine Follows.of_mk ?_ rfl rfl rfl rfl rfl rfl rfl rfl rfl))

theorem countRow_follows {k : Mach} (x0 : Mach) (x1 : RowId) (x2 : Nat) (x3 : Nat) (x4 : Nat) (h0 : Follows k x0) :
    Follows k (countRow x0 x1 x2 x3 x4) := by
  unfold countRow
  repeat' (first | with_reducible assumption | (lift_lets; intro mm) | with_reducible (apply countDune_follows) | split | intro _ | with_reducible (refine Follows.of_mk ?_ rfl rfl rfl rfl rfl rfl rfl rfl rfl))

theorem noteClamp_follows {k : Mach} (x0 : Mach) (x1 : Nat) (h0 : Follows k x0) :
    Follows k (noteClamp x0 x1) := by
  unfold noteClamp
  repeat' (first | with_reducible assumption | (lift_lets; intro mm) | split | intro _ | with_reducible (refine Follows.of_mk ?_ rfl rfl rfl rfl rfl rfl rfl rfl rfl))

theorem acceptFiring_follows {k : Mach} (x0 : Mach) (x1 : RowId) (x2 : Beat) (x3 : Nat) (x4 : Thread) (x5 : FireKind) (x6 : Nat) (x7 : Nat) (x8 : W64) (h0 : Follows k x0) :
    Follows k (acceptFiring x0 x1 x2 x3 x4 x5 x6 x7 x8) := by
  unfold acceptFiring
  extract_lets e v m1 w blocks classes xs ps proof exact_ forced narrow limit wanted two n dec wide aligned m2 m3 m4 m5 m6 m7 mc m8 len aborted m9
  have he : Follows k e.1 := eccRead_follows _ _ _ _ _ h0
  split
  · exact he
  · have h1 : Follows k m1 := readSram_follows _ _ _ he
    clear_value m1
    clear_value w dec wide aligned wanted aborted n classes xs ps len
    have h2 : Follows k m2 := countRow_follows _ _ _ _ _ h1
    clear_value m2
    have h3 : Follows k m3 := countRow_follows _ _ _ _ _ h2
    clear_value m3
    have h4 : Follows k m4 := countRow_follows _ _ _ _ _ h3
    clear_value m4
    have h5 : Follows k m5 := by
      unfold m5
      split
      · exact countRow_follows _ _ _ _ _ h4
      · exact h4
    clear_value m5
    have h6 : Follows k m6 := by
      unfold m6
      split
      · exact countRow_follows _ _ _ _ _ h5
      · exact h5
    clear_value m6
    have h7 : Follows k m7 := by
      unfold m7
      split
      · exact count_follows _ _ _ _ h6
      · exact h6
    clear_value m7
    have hc : Follows k mc := by
      unfold mc
      split
      · exact noteClamp_follows _ _ h7
      · exact h7
    clear_value mc
    have h8 : Follows k m8 := by
      unfold m8
      split
      · exact sendStretch_follows _ _ _ _ hc
      · exact hc
    clear_value m8
    have h9 : Follows k m9 := by
      unfold m9
      split
      · exact countRow_follows _ _ _ _ _ h8
      · exact h8
    clear_value m9
    exact setRow_follows _ _ _ h9

theorem fireInstr_follows {k : Mach} (x0 : Nat) (x1 : FireKind) (x2 : Thread) (x3 : Fields) (x4 : Mach) (h0 : Follows k x4) :
    Follows k (fireInstr x0 x1 x2 x3 x4) := by
  unfold fireInstr
  repeat' (first | with_reducible assumption | (lift_lets; intro mm) | with_reducible (apply issue_follows) | with_reducible (apply instFault_follows) | with_reducible (apply acceptFiring_follows) | with_reducible (apply retire_follows) | with_reducible (apply setThread_follows) | split | intro _ | with_reducible (refine Follows.of_mk ?_ rfl rfl rfl rfl rfl rfl rfl rfl rfl))

theorem execFire_follows {k : Mach} (x0 : Thread) (x1 : Fields) (x2 : State) (h0 : Follows k x2.m) :
    ∃ t, execFire x0 x1 x2 = .next t ∧ t.pending = x2.pending ∧ Follows k t.m := by
  refine nextM_follows ?_
  repeat' (first | with_reducible assumption | (lift_lets; intro mm) | with_reducible (apply fireInstr_follows) | split | intro _ | with_reducible (refine Follows.of_mk ?_ rfl rfl rfl rfl rfl rfl rfl rfl rfl))

theorem execFirew_follows {k : Mach} (x0 : Thread) (x1 : Fields) (x2 : State) (h0 : Follows k x2.m) :
    ∃ t, execFirew x0 x1 x2 = .next t ∧ t.pending = x2.pending ∧ Follows k t.m := by
  refine nextM_follows ?_
  repeat' (first | with_reducible assumption | (lift_lets; intro mm) | with_reducible (apply fireInstr_follows) | split | intro _ | with_reducible (refine Follows.of_mk ?_ rfl rfl rfl rfl rfl rfl rfl rfl rfl))

theorem execFirex_follows {k : Mach} (x0 : Thread) (x1 : Fields) (x2 : State) (h0 : Follows k x2.m) :
    ∃ t, execFirex x0 x1 x2 = .next t ∧ t.pending = x2.pending ∧ Follows k t.m := by
  refine nextM_follows ?_
  repeat' (first | with_reducible assumption | (lift_lets; intro mm) | with_reducible (apply fireInstr_follows) | split | intro _ | with_reducible (refine Follows.of_mk ?_ rfl rfl rfl rfl rfl rfl rfl rfl rfl))

theorem execFwait_follows {k : Mach} (x0 : Thread) (x1 : Fields) (x2 : State) (h0 : Follows k x2.m) :
    ∃ t, execFwait x0 x1 x2 = .next t ∧ t.pending = x2.pending ∧ Follows k t.m := by
  refine nextM_follows ?_
  repeat' (first | with_reducible assumption | (lift_lets; intro mm) | with_reducible (apply issue_follows) | with_reducible (apply retire_follows) | with_reducible (apply setThread_follows) | split | intro _ | with_reducible (refine Follows.of_mk ?_ rfl rfl rfl rfl rfl rfl rfl rfl rfl))

theorem recordHard_follows {k : Mach} (x0 : Mach) (x1 : HardVerdict) (h0 : Follows k x0) :
    Follows k (recordHard x0 x1) := by
  unfold recordHard
  repeat' (first | with_reducible assumption | (lift_lets; intro mm) | with_reducible (apply odSet_follows) | split | intro _ | with_reducible (refine Follows.of_mk ?_ rfl rfl rfl rfl rfl rfl rfl rfl rfl))

theorem hardArrives_follows {k : Mach} (x0 : Mach) (x1 : Nat) (x2 : Nat) (x3 : Nat) (x4 : Nat) (h0 : Follows k x0) :
    Follows k (hardArrives x0 x1 x2 x3 x4) := by
  unfold hardArrives
  repeat' (first | with_reducible assumption | (lift_lets; intro mm) | with_reducible (apply recordHard_follows) | split | intro _ | with_reducible (refine Follows.of_mk ?_ rfl rfl rfl rfl rfl rfl rfl rfl rfl))

theorem softVerdict_follows {k : Mach} (x0 : Mach) (x1 : RowId) (x2 : Nat) (h0 : Follows k x0) :
    Follows k (softVerdict x0 x1 x2) := by
  unfold softVerdict
  repeat' (first | with_reducible assumption | (lift_lets; intro mm) | with_reducible (apply countRow_follows) | with_reducible (apply rowFault_follows) | with_reducible (apply setRow_follows) | split | intro _ | with_reducible (refine Follows.of_mk ?_ rfl rfl rfl rfl rfl rfl rfl rfl rfl))

theorem plateResult_follows {k : Mach} (x0 : Mach) (x1 : RowId) (x2 : Firing) (x3 : List CellUpset) (x4 : Nat) (h0 : Follows k x0) :
    Follows k (plateResult x0 x1 x2 x3 x4).2 := by
  unfold plateResult
  repeat' (first | with_reducible assumption | (lift_lets; intro mm) | with_reducible (apply spendProvocation_follows) | split | intro _ | dsimp +zetaDelta only | with_reducible (refine Follows.of_mk ?_ rfl rfl rfl rfl rfl rfl rfl rfl rfl))

theorem plateResult_follows' {k : Mach} (x0 : Mach) (x1 : RowId) (x2 : Firing) (x3 : List CellUpset) (x4 : Nat) (h0 : Follows k x0) :
    ∀ a z, plateResult x0 x1 x2 x3 x4 = (a, z) → Follows k z := by
  intro a z e
  have := plateResult_follows x0 x1 x2 x3 x4  h0 (k := k)
  rw [e] at this
  exact this

theorem plateResults_follows {k : Mach} (x0 : Mach) (x1 : RowId) (x2 : Firing) (x3 : List CellUpset) (x4 : List Nat) (h0 : Follows k x0) :
    Follows k (plateResults x0 x1 x2 x3 x4).2 := by
  induction x4 generalizing x0 with
  | nil => exact h0
  | cons p rest ih => exact ih _ (plateResult_follows _ _ _ _ _ h0)

theorem plateResults_follows' {k : Mach} (x0 : Mach) (x1 : RowId) (x2 : Firing) (x3 : List CellUpset) (x4 : List Nat) (h0 : Follows k x0) :
    ∀ a z, plateResults x0 x1 x2 x3 x4 = (a, z) → Follows k z := by
  intro a z e
  have := plateResults_follows x0 x1 x2 x3 x4  h0 (k := k)
  rw [e] at this
  exact this

theorem hardVerdicts_follows {k : Mach} (x0 : Mach) (x1 : RowId) (x2 : Firing) (x3 : List PlateResult) (h0 : Follows k x0) :
    Follows k (hardVerdicts x0 x1 x2 x3) := by
  unfold hardVerdicts
  repeat' (first | with_reducible assumption | (lift_lets; intro mm) | with_reducible (apply countRow_follows) | with_reducible (apply rowFault_follows) | with_reducible (apply setRow_follows) | split | intro _ | with_reducible (refine Follows.of_mk ?_ rfl rfl rfl rfl rfl rfl rfl rfl rfl))

theorem endFiring_follows {k : Mach} (x0 : Mach) (x1 : RowId) (x2 : Beat) (x3 : Firing) (x4 : List CellUpset) (h0 : Follows k x0) :
    Follows k (endFiring x0 x1 x2 x3 x4) := by
  unfold endFiring
  repeat' (first | with_reducible assumption | (lift_lets; intro mm) | with_reducible (apply advance_follows) | with_reducible (apply plateResults_follows) | (refine plateResults_follows' _ _ _ _ _ ?_ _ _ (by assumption)) | with_reducible (apply countRow_follows) | with_reducible (apply setRow_follows) | with_reducible (apply land_follows) | with_reducible (apply softVerdict_follows) | with_reducible (apply hardVerdicts_follows) | with_reducible (apply foldl_follows) | split | intro _ | with_reducible (refine Follows.of_mk ?_ rfl rfl rfl rfl rfl rfl rfl rfl rfl))

end Sys2Proof.Machine
end

