-- ==== Sys2Proof/Laws/FollowsSync.lean ====
section
/-! SUPPORT. The operations and the meanings of Machine/Sync.lean keep what `Follows` names. -/

namespace Sys2Proof.Machine

theorem stallOn_follows {k : Mach} (x0 : Mach) (x1 : Thread) (x2 : Stall) (h0 : Follows k x0) :
    Follows k (stallOn x0 x1 x2) := by
  unfold stallOn
  repeat' (first | with_reducible assumption | (lift_lets; intro mm) | with_reducible (apply setThread_follows) | split | intro _ | with_reducible (refine Follows.of_mk ?_ rfl rfl rfl rfl rfl rfl rfl rfl rfl))

theorem releaseRound_follows {k : Mach} (x0 : Mach) (x1 : RowId) (x2 : Nat) (x3 : List Nat) (h0 : Follows k x0) :
    Follows k (releaseRound x0 x1 x2 x3) := by
  unfold releaseRound
  repeat' (first | with_reducible assumption | (lift_lets; intro mm) | with_reducible (apply stallOn_follows) | with_reducible (apply foldl_follows) | split | intro _ | with_reducible (refine Follows.of_mk ?_ rfl rfl rfl rfl rfl rfl rfl rfl rfl))

theorem arrive_follows {k : Mach} (x0 : Mach) (x1 : Thread) (x2 : Nat) (x3 : Nat) (x4 : Nat) (h0 : Follows k x0) :
    Follows k (arrive x0 x1 x2 x3 x4).1 := by
  unfold arrive
  repeat' (first | with_reducible assumption | (lift_lets; intro mm) | with_reducible (apply setRow_follows) | with_reducible (apply stallOn_follows) | with_reducible (apply retire_follows) | with_reducible (apply releaseRound_follows) | split | intro _ | with_reducible (refine Follows.of_mk ?_ rfl rfl rfl rfl rfl rfl rfl rfl rfl))

theorem arrive_follows' {k : Mach} (x0 : Mach) (x1 : Thread) (x2 : Nat) (x3 : Nat) (x4 : Nat) (h0 : Follows k x0) :
    ∀ a z, arrive x0 x1 x2 x3 x4 = (z, a) → Follows k z := by
  intro a z e
  have := arrive_follows x0 x1 x2 x3 x4  h0 (k := k)
  rw [e] at this
  exact this

theorem execBarl_follows {k : Mach} (x0 : Thread) (x1 : Fields) (x2 : State) (h0 : Follows k x2.m) :
    ∃ t, execBarl x0 x1 x2 = .next t ∧ t.pending = x2.pending ∧ Follows k t.m := by
  refine nextM_follows ?_
  repeat' (first | with_reducible assumption | (lift_lets; intro mm) | with_reducible (apply issue_follows) | with_reducible (apply instFault_follows) | with_reducible (apply arrive_follows) | (refine arrive_follows' _ _ _ _ _ ?_ _ _ (by assumption)) | split | intro _ | with_reducible (refine Follows.of_mk ?_ rfl rfl rfl rfl rfl rfl rfl rfl rfl))

theorem waitFor_follows {k : Mach} (x0 : Mach) (x1 : Thread) (x2 : Beat) (x3 : Nat) (x4 : Nat) (x5 : Nat) (x6 : Stall) (h0 : Follows k x0) :
    Follows k (waitFor x0 x1 x2 x3 x4 x5 x6) := by
  unfold waitFor
  repeat' (first | with_reducible assumption | (lift_lets; intro mm) | with_reducible (apply instFault_follows) | with_reducible (apply countDune_follows) | with_reducible (apply retire_follows) | with_reducible (apply stallOn_follows) | split | intro _ | with_reducible (refine Follows.of_mk ?_ rfl rfl rfl rfl rfl rfl rfl rfl rfl))

theorem execWaittC_follows {k : Mach} (x0 : Thread) (x1 : Fields) (x2 : State) (h0 : Follows k x2.m) :
    ∃ t, execWaittC x0 x1 x2 = .next t ∧ t.pending = x2.pending ∧ Follows k t.m := by
  refine nextM_follows ?_
  repeat' (first | with_reducible assumption | (lift_lets; intro mm) | with_reducible (apply issue_follows) | with_reducible (apply waitFor_follows) | split | intro _ | with_reducible (refine Follows.of_mk ?_ rfl rfl rfl rfl rfl rfl rfl rfl rfl))

theorem execWaittH_follows {k : Mach} (x0 : Thread) (x1 : Fields) (x2 : State) (h0 : Follows k x2.m) :
    ∃ t, execWaittH x0 x1 x2 = .next t ∧ t.pending = x2.pending ∧ Follows k t.m := by
  refine nextM_follows ?_
  repeat' (first | with_reducible assumption | (lift_lets; intro mm) | with_reducible (apply issue_follows) | with_reducible (apply waitFor_follows) | split | intro _ | with_reducible (refine Follows.of_mk ?_ rfl rfl rfl rfl rfl rfl rfl rfl rfl))

theorem sealThread_follows {k : Mach} (x0 : Mach) (x1 : Thread) (h0 : Follows k x0) :
    Follows k (sealThread x0 x1) := by
  unfold sealThread
  repeat' (first | with_reducible assumption | (lift_lets; intro mm) | with_reducible (apply setThread_follows) | split | intro _ | with_reducible (refine Follows.of_mk ?_ rfl rfl rfl rfl rfl rfl rfl rfl rfl))

theorem execSeal_follows {k : Mach} (x0 : Thread) (x1 : Fields) (x2 : State) (h0 : Follows k x2.m) :
    ∃ t, execSeal x0 x1 x2 = .next t ∧ t.pending = x2.pending ∧ Follows k t.m := by
  refine nextM_follows ?_
  repeat' (first | with_reducible assumption | (lift_lets; intro mm) | with_reducible (apply issue_follows) | with_reducible (apply retire_follows) | with_reducible (apply sealThread_follows) | with_reducible (apply stallOn_follows) | split | intro _ | with_reducible (refine Follows.of_mk ?_ rfl rfl rfl rfl rfl rfl rfl rfl rfl))

theorem branchTo_follows {k : Mach} (x0 : Mach) (x1 : Thread) (x2 : Nat) (x3 : Int) (x4 : Nat) (h0 : Follows k x0) :
    Follows k (branchTo x0 x1 x2 x3 x4) := by
  unfold branchTo
  repeat' (first | with_reducible assumption | (lift_lets; intro mm) | with_reducible (apply retire_follows) | with_reducible (apply setThread_follows) | with_reducible (apply instFault_follows) | split | intro _ | with_reducible (refine Follows.of_mk ?_ rfl rfl rfl rfl rfl rfl rfl rfl rfl))

theorem execNop_follows {k : Mach} (x0 : Thread) (x1 : Fields) (x2 : State) (h0 : Follows k x2.m) :
    ∃ t, execNop x0 x1 x2 = .next t ∧ t.pending = x2.pending ∧ Follows k t.m := by
  refine nextM_follows ?_
  repeat' (first | with_reducible assumption | (lift_lets; intro mm) | with_reducible (apply issue_follows) | with_reducible (apply retire_follows) | split | intro _ | with_reducible (refine Follows.of_mk ?_ rfl rfl rfl rfl rfl rfl rfl rfl rfl))

theorem execBr_follows {k : Mach} (x0 : Thread) (x1 : Fields) (x2 : State) (h0 : Follows k x2.m) :
    ∃ t, execBr x0 x1 x2 = .next t ∧ t.pending = x2.pending ∧ Follows k t.m := by
  refine nextM_follows ?_
  repeat' (first | with_reducible assumption | (lift_lets; intro mm) | with_reducible (apply issue_follows) | with_reducible (apply branchTo_follows) | split | intro _ | with_reducible (refine Follows.of_mk ?_ rfl rfl rfl rfl rfl rfl rfl rfl rfl))

theorem execJr_follows {k : Mach} (x0 : Thread) (x1 : Fields) (x2 : State) (h0 : Follows k x2.m) :
    ∃ t, execJr x0 x1 x2 = .next t ∧ t.pending = x2.pending ∧ Follows k t.m := by
  refine nextM_follows ?_
  repeat' (first | with_reducible assumption | (lift_lets; intro mm) | with_reducible (apply issue_follows) | with_reducible (apply branchTo_follows) | split | intro _ | with_reducible (refine Follows.of_mk ?_ rfl rfl rfl rfl rfl rfl rfl rfl rfl))

theorem execCall_follows {k : Mach} (x0 : Thread) (x1 : Fields) (x2 : State) (h0 : Follows k x2.m) :
    ∃ t, execCall x0 x1 x2 = .next t ∧ t.pending = x2.pending ∧ Follows k t.m := by
  refine nextM_follows ?_
  repeat' (first | with_reducible assumption | (lift_lets; intro mm) | with_reducible (apply issue_follows) | with_reducible (apply resultG_follows) | with_reducible (apply branchTo_follows) | with_reducible (apply instFault_follows) | split | intro _ | with_reducible (refine Follows.of_mk ?_ rfl rfl rfl rfl rfl rfl rfl rfl rfl))

theorem execSkip_follows {k : Mach} (x0 : Thread) (x1 : Fields) (x2 : State) (h0 : Follows k x2.m) :
    ∃ t, execSkip x0 x1 x2 = .next t ∧ t.pending = x2.pending ∧ Follows k t.m := by
  refine nextM_follows ?_
  repeat' (first | with_reducible assumption | (lift_lets; intro mm) | with_reducible (apply issue_follows) | with_reducible (apply retire_follows) | with_reducible (apply setThread_follows) | split | intro _ | with_reducible (refine Follows.of_mk ?_ rfl rfl rfl rfl rfl rfl rfl rfl rfl))

theorem execGets_follows {k : Mach} (x0 : Thread) (x1 : Fields) (x2 : State) (h0 : Follows k x2.m) :
    ∃ t, execGets x0 x1 x2 = .next t ∧ t.pending = x2.pending ∧ Follows k t.m := by
  refine nextM_follows ?_
  repeat' (first | with_reducible assumption | (lift_lets; intro mm) | with_reducible (apply issue_follows) | with_reducible (apply resultG_follows) | with_reducible (apply retire_follows) | split | intro _ | with_reducible (refine Follows.of_mk ?_ rfl rfl rfl rfl rfl rfl rfl rfl rfl))

theorem execAbrt_follows {k : Mach} (x0 : Thread) (x1 : Fields) (x2 : State) (h0 : Follows k x2.m) :
    ∃ t, execAbrt x0 x1 x2 = .next t ∧ t.pending = x2.pending ∧ Follows k t.m := by
  refine nextM_follows ?_
  repeat' (first | with_reducible assumption | (lift_lets; intro mm) | with_reducible (apply issue_follows) | with_reducible (apply instFault_follows) | split | intro _ | with_reducible (refine Follows.of_mk ?_ rfl rfl rfl rfl rfl rfl rfl rfl rfl))

theorem sysInstr_follows {k : Mach} (x0 : Nat) (x1 : Bool) (x2 : List Nat) (x3 : ThreadState → Bool) (x4 : Mach → Beat → Nat → Mach) (x5 : Thread) (x6 : Fields) (x7 : Mach) (hx4 : ∀ y0 y1 y2, Follows k y0 → Follows k (x4 y0 y1 y2)) (h0 : Follows k x7) :
    Follows k (sysInstr x0 x1 x2 x3 x4 x5 x6 x7) := by
  unfold sysInstr
  repeat' (first | with_reducible assumption | (lift_lets; intro mm) | with_reducible (apply issue_follows) | with_reducible (apply instFault_follows) | with_reducible (apply hx4) | split | intro _ | with_reducible (refine Follows.of_mk ?_ rfl rfl rfl rfl rfl rfl rfl rfl rfl))

theorem execSld_follows {k : Mach} (x0 : Thread) (x1 : Fields) (x2 : State) (h0 : Follows k x2.m) :
    ∃ t, execSld x0 x1 x2 = .next t ∧ t.pending = x2.pending ∧ Follows k t.m := by
  refine nextM_follows ?_
  repeat' (first | with_reducible assumption | (lift_lets; intro mm) | with_reducible (apply sysInstr_follows) | with_reducible (apply draw_follows) | (refine draw_follows' _ ?_ _ _ (by assumption)) | with_reducible (apply resultG_follows) | with_reducible (apply retire_follows) | split | intro _ | with_reducible (refine Follows.of_mk ?_ rfl rfl rfl rfl rfl rfl rfl rfl rfl))

theorem execSst_follows {k : Mach} (x0 : Thread) (x1 : Fields) (x2 : State) (h0 : Follows k x2.m) :
    ∃ t, execSst x0 x1 x2 = .next t ∧ t.pending = x2.pending ∧ Follows k t.m := by
  refine nextM_follows ?_
  repeat' (first | with_reducible assumption | (lift_lets; intro mm) | with_reducible (apply sysInstr_follows) | with_reducible (apply retire_follows) | split | intro _ | with_reducible (refine Follows.of_mk ?_ rfl rfl rfl rfl rfl rfl rfl rfl rfl))

theorem sendEvent_follows {k : Mach} (x0 : Mach) (x1 : Thread) (x2 : Nat) (x3 : DuneId) (x4 : Nat) (x5 : Nat) (h0 : Follows k x0) :
    Follows k (sendEvent x0 x1 x2 x3 x4 x5) := by
  unfold sendEvent
  repeat' (first | with_reducible assumption | (lift_lets; intro mm) | with_reducible (apply draw_follows) | (refine draw_follows' _ ?_ _ _ (by assumption)) | with_reducible (apply sendPacket_follows) | split | intro _ | with_reducible (refine Follows.of_mk ?_ rfl rfl rfl rfl rfl rfl rfl rfl rfl))

theorem execEvt_follows {k : Mach} (x0 : Thread) (x1 : Fields) (x2 : State) (h0 : Follows k x2.m) :
    ∃ t, execEvt x0 x1 x2 = .next t ∧ t.pending = x2.pending ∧ Follows k t.m := by
  refine nextM_follows ?_
  repeat' (first | with_reducible assumption | (lift_lets; intro mm) | with_reducible (apply sysInstr_follows) | with_reducible (apply sendEvent_follows) | with_reducible (apply retire_follows) | split | intro _ | with_reducible (refine Follows.of_mk ?_ rfl rfl rfl rfl rfl rfl rfl rfl rfl))

theorem resumeAt_follows {k : Mach} (x0 : Mach) (x1 : Thread) (x2 : Nat) (h0 : Follows k x0) :
    Follows k (resumeAt x0 x1 x2) := by
  unfold resumeAt
  repeat' (first | with_reducible assumption | (lift_lets; intro mm) | with_reducible (apply setThread_follows) | split | intro _ | with_reducible (refine Follows.of_mk ?_ rfl rfl rfl rfl rfl rfl rfl rfl rfl))

theorem resumeThread_follows {k : Mach} (x0 : Mach) (x1 : Thread) (x2 : Beat) (x3 : Nat) (h0 : Follows k x0) :
    Follows k (resumeThread x0 x1 x2 x3) := by
  unfold resumeThread
  repeat' (first | with_reducible assumption | (lift_lets; intro mm) | with_reducible (apply resumeAt_follows) | with_reducible (apply advance_follows) | with_reducible (apply sealThread_follows) | with_reducible (apply acceptFiring_follows) | with_reducible (apply takeEntry_follows) | with_reducible (apply wakeWaiters_follows) | split | intro _ | with_reducible (refine Follows.of_mk ?_ rfl rfl rfl rfl rfl rfl rfl rfl rfl))

theorem execStallResume_follows {k : Mach} (x0 : Thread) (x1 : State) (h0 : Follows k x1.m) :
    ∃ t, execStallResume x0 x1 = .next t ∧ t.pending = x1.pending ∧ Follows k t.m := by
  refine nextM_follows ?_
  repeat' (first | with_reducible assumption | (lift_lets; intro mm) | with_reducible (apply resumeThread_follows) | split | intro _ | with_reducible (refine Follows.of_mk ?_ rfl rfl rfl rfl rfl rfl rfl rfl rfl))

end Sys2Proof.Machine
end

