-- ==== Sys2Proof/Laws/FollowsGolden.lean ====
section
/-! SUPPORT. The operations and the meanings of Machine/Golden.lean keep what `Follows` names. -/

namespace Sys2Proof.Machine

theorem goldenSet_follows {k : Mach} (x0 : Mach) (x1 : Nat) (x2 : Nat) (x3 : Option BankData) (h0 : Follows k x0) :
    Follows k (goldenSet x0 x1 x2 x3) := by
  unfold goldenSet
  repeat' (first | with_reducible assumption | (lift_lets; intro mm) | with_reducible (apply serveHbm_follows) | with_reducible (apply clearPatch_follows) | split | intro _ | with_reducible (refine Follows.of_mk ?_ rfl rfl rfl rfl rfl rfl rfl rfl rfl))

theorem stagedSet_follows {k : Mach} (x0 : Mach) (x1 : Nat) (x2 : Nat) (x3 : Option BankData) (h0 : Follows k x0) :
    Follows k (stagedSet x0 x1 x2 x3) := by
  unfold stagedSet
  repeat' (first | with_reducible assumption | (lift_lets; intro mm) | with_reducible (apply serveHbm_follows) | with_reducible (apply clearPatch_follows) | split | intro _ | with_reducible (refine Follows.of_mk ?_ rfl rfl rfl rfl rfl rfl rfl rfl rfl))

theorem serveRecord_follows {k : Mach} (x0 : Mach) (x1 : BankData) (x2 : Nat) (x3 : Nat) (h0 : Follows k x0) :
    Follows k (serveRecord x0 x1 x2 x3) := by
  unfold serveRecord
  repeat' (first | with_reducible assumption | (lift_lets; intro mm) | with_reducible (apply serveHbm_follows) | split | intro _ | with_reducible (refine Follows.of_mk ?_ rfl rfl rfl rfl rfl rfl rfl rfl rfl))

theorem readRecords_follows {k : Mach} (x0 : Mach) (h0 : Follows k x0) :
    Follows k (readRecords x0) := by
  unfold readRecords
  repeat' (first | with_reducible assumption | (lift_lets; intro mm) | split | intro _ | with_reducible (refine Follows.of_mk ?_ rfl rfl rfl rfl rfl rfl rfl rfl rfl))

theorem placeRecord_follows {k : Mach} (x0 : Mach) (x1 : MemDecl) (x2 : WeightEntry) (x3 : Nat) (h0 : Follows k x0) :
    Follows k (placeRecord x0 x1 x2 x3) := by
  unfold placeRecord
  repeat' (first | with_reducible assumption | (lift_lets; intro mm) | with_reducible (apply goldenSet_follows) | with_reducible (apply stagedSet_follows) | split | intro _ | with_reducible (refine Follows.of_mk ?_ rfl rfl rfl rfl rfl rfl rfl rfl rfl))

theorem retireSite_follows {k : Mach} (x0 : Mach) (x1 : RowId) (x2 : Nat) (h0 : Follows k x0) :
    Follows k (retireSite x0 x1 x2) := by
  unfold retireSite
  refine countRow_follows _ _ _ _ _ ?_
  have h1 := setRow_follows x0 x1 (setSite (getRow x0 x1) x2 { getSite (getRow x0 x1) x2 with state := .retired, plate := none, retireDue := false }) h0
  exact ⟨h1.sram, h1.hbm, h1.now, h1.retirement.trans (List.prefix_append _ _), h1.gradeE, h1.steppingB1, h1.badSites, h1.badCores, h1.badDunes⟩

end Sys2Proof.Machine
end

