-- ==== Sys2Proof/Laws/FollowsBask.lean ====
section
/-! SUPPORT. The operations and the meanings of Machine/Bask.lean keep what `Follows` names. -/

namespace Sys2Proof.Machine

theorem baskNext_follows {k : Mach} (x0 : Mach) (x1 : RowId) (x2 : Nat) (h0 : Follows k x0) :
    Follows k (baskNext x0 x1 x2) := by
  unfold baskNext
  repeat' (first | with_reducible assumption | (lift_lets; intro mm) | with_reducible (apply setRow_follows) | split | intro _ | with_reducible (refine Follows.of_mk ?_ rfl rfl rfl rfl rfl rfl rfl rfl rfl))

theorem endBask_follows {k : Mach} (x0 : Mach) (x1 : RowId) (x2 : BaskRun) (x3 : List CellUpset) (h0 : Follows k x0) :
    Follows k (endBask x0 x1 x2 x3) := by
  unfold endBask
  repeat' (first | with_reducible assumption | (lift_lets; intro mm) | with_reducible (apply setRow_follows) | with_reducible (apply countRow_follows) | with_reducible (apply advance_follows) | with_reducible (apply softVerdict_follows) | with_reducible (apply baskNext_follows) | split | intro _ | with_reducible (refine Follows.of_mk ?_ rfl rfl rfl rfl rfl rfl rfl rfl rfl))

theorem execFiringEnd_follows {k : Mach} (x0 : RowId) (x1 : List CellUpset) (x2 : State) (h0 : Follows k x2.m) :
    ∃ t, execFiringEnd x0 x1 x2 = .next t ∧ t.pending = x2.pending ∧ Follows k t.m := by
  refine nextM_follows ?_
  repeat' (first | with_reducible assumption | (lift_lets; intro mm) | with_reducible (apply endFiring_follows) | with_reducible (apply endBask_follows) | split | intro _ | with_reducible (refine Follows.of_mk ?_ rfl rfl rfl rfl rfl rfl rfl rfl rfl))

end Sys2Proof.Machine
end

