-- ==== Sys2Proof/Laws/FollowsLoader.lean ====
section
/-! SUPPORT. The operations and the meanings of Machine/Loader.lean keep what `Follows` names. -/

namespace Sys2Proof.Machine

theorem readImage_follows {k : Mach} (x0 : Mach) (x1 : List Byte) (x2 : Bool) (h0 : Follows k x0) :
    Follows k (readImage x0 x1 x2) := by
  unfold readImage
  repeat' (first | with_reducible assumption | (lift_lets; intro mm) | with_reducible (apply emit_follows) | with_reducible (apply foldl_follows) | split | intro _ | with_reducible (refine Follows.of_mk ?_ rfl rfl rfl rfl rfl rfl rfl rfl rfl))

theorem writeCore_follows {k : Mach} (x0 : Mach) (x1 : Image) (x2 : List (Nat × Nat)) (x3 : Variant) (x4 : CoreProg) (h0 : Follows k x0) :
    Follows k (writeCore x0 x1 x2 x3 x4) := by
  unfold writeCore
  repeat' (first | with_reducible assumption | (lift_lets; intro mm) | with_reducible (apply setThread_follows) | with_reducible (apply foldl_follows) | split | intro _ | with_reducible (refine Follows.of_mk ?_ rfl rfl rfl rfl rfl rfl rfl rfl rfl))

theorem writePrograms_follows {k : Mach} (x0 : Mach) (x1 : Image) (x2 : List (Nat × Nat)) (x3 : Variant) (h0 : Follows k x0) :
    Follows k (writePrograms x0 x1 x2 x3) := by
  unfold writePrograms
  repeat' (first | with_reducible assumption | (lift_lets; intro mm) | with_reducible (apply writeCore_follows) | with_reducible (apply foldl_follows) | split | intro _ | with_reducible (refine Follows.of_mk ?_ rfl rfl rfl rfl rfl rfl rfl rfl rfl))

theorem mapSites_follows {k : Mach} (x0 : Mach) (x1 : RowId) (x2 : W64) (x3 : SiteState) (h0 : Follows k x0) :
    Follows k (mapSites x0 x1 x2 x3) := by
  unfold mapSites
  repeat' (first | with_reducible assumption | (lift_lets; intro mm) | with_reducible (apply setRow_follows) | with_reducible (apply foldl_follows) | split | intro _ | with_reducible (refine Follows.of_mk ?_ rfl rfl rfl rfl rfl rfl rfl rfl rfl))

theorem mapAllSites_follows {k : Mach} (x0 : Mach) (x1 : Image) (x2 : List (Nat × Nat)) (x3 : SiteState) (h0 : Follows k x0) :
    Follows k (mapAllSites x0 x1 x2 x3) := by
  unfold mapAllSites
  repeat' (first | with_reducible assumption | (lift_lets; intro mm) | with_reducible (apply mapSites_follows) | with_reducible (apply foldl_follows) | split | intro _ | with_reducible (refine Follows.of_mk ?_ rfl rfl rfl rfl rfl rfl rfl rfl rfl))

theorem stampDunes_follows {k : Mach} (x0 : Mach) (x1 : List (Nat × Nat)) (h0 : Follows k x0) :
    Follows k (stampDunes x0 x1) := by
  unfold stampDunes
  repeat' (first | with_reducible assumption | (lift_lets; intro mm) | with_reducible (apply setDune_follows) | with_reducible (apply foldl_follows) | split | intro _ | with_reducible (refine Follows.of_mk ?_ rfl rfl rfl rfl rfl rfl rfl rfl rfl))

theorem countStripFirings_follows {k : Mach} (x0 : Mach) (x1 : RowId) (x2 : Nat) (h0 : Follows k x0) :
    Follows k (countStripFirings x0 x1 x2) := by
  unfold countStripFirings
  repeat' (first | with_reducible assumption | (lift_lets; intro mm) | with_reducible (apply countRow_follows) | with_reducible (apply foldl_follows) | split | intro _ | with_reducible (refine Follows.of_mk ?_ rfl rfl rfl rfl rfl rfl rfl rfl rfl))

theorem countTrial_follows {k : Mach} (x0 : Mach) (x1 : RowId) (x2 : TrialEnd) (h0 : Follows k x0) :
    Follows k (countTrial x0 x1 x2) := by
  unfold countTrial
  repeat' (first | with_reducible assumption | (lift_lets; intro mm) | with_reducible (apply countRow_follows) | with_reducible (apply countStripFirings_follows) | with_reducible (apply foldl_follows) | split | intro _ | with_reducible (refine Follows.of_mk ?_ rfl rfl rfl rfl rfl rfl rfl rfl rfl))

theorem loadBanks_follows {k : Mach} (x0 : Mach) (x1 : List SiteTrial) (x2 : RowId) (x3 : Nat) (x4 : Nat) (x5 : MemDecl) (x6 : Nat) (h0 : Follows k x0) :
    Follows k (loadBanks x0 x1 x2 x3 x4 x5 x6) := by
  unfold loadBanks
  repeat' (first | with_reducible assumption | (lift_lets; intro mm) | with_reducible (apply serveRecord_follows) | with_reducible (apply setRow_follows) | with_reducible (apply countTrial_follows) | with_reducible (apply countStripFirings_follows) | with_reducible (apply countRow_follows) | with_reducible (apply retireSite_follows) | with_reducible (apply foldl_follows) | split | intro _ | with_reducible (refine Follows.of_mk ?_ rfl rfl rfl rfl rfl rfl rfl rfl rfl))

theorem loadRow_follows {k : Mach} (x0 : Mach) (x1 : List SiteTrial) (x2 : RowId) (x3 : MemDecl) (x4 : Nat) (x5 : SiteState) (h0 : Follows k x0) :
    Follows k (loadRow x0 x1 x2 x3 x4 x5) := by
  unfold loadRow
  repeat' (first | with_reducible assumption | (lift_lets; intro mm) | with_reducible (apply loadBanks_follows) | with_reducible (apply setRow_follows) | with_reducible (apply foldl_follows) | split | intro _ | with_reducible (refine Follows.of_mk ?_ rfl rfl rfl rfl rfl rfl rfl rfl rfl))

theorem loadAllRows_follows {k : Mach} (x0 : Mach) (x1 : List SiteTrial) (x2 : MemDecl) (x3 : Nat) (x4 : SiteState) (h0 : Follows k x0) :
    Follows k (loadAllRows x0 x1 x2 x3 x4) := by
  unfold loadAllRows
  repeat' (first | with_reducible assumption | (lift_lets; intro mm) | with_reducible (apply loadRow_follows) | with_reducible (apply foldl_follows) | split | intro _ | with_reducible (refine Follows.of_mk ?_ rfl rfl rfl rfl rfl rfl rfl rfl rfl))

theorem clearRows_follows {k : Mach} (x0 : Mach) (h0 : Follows k x0) :
    Follows k (clearRows x0) := by
  unfold clearRows
  repeat' (first | with_reducible assumption | (lift_lets; intro mm) | with_reducible (apply dropPackets_follows) | with_reducible (apply foldl_follows) | split | intro _ | with_reducible (refine Follows.of_mk ?_ rfl rfl rfl rfl rfl rfl rfl rfl rfl))

end Sys2Proof.Machine
end

