-- ==== Sys2Proof/Laws/FollowsUpkeep.lean ====
section
/-! SUPPORT. The operations and the meanings of Machine/Upkeep.lean keep what `Follows` names. -/

namespace Sys2Proof.Machine

theorem countRepeat_follows {k : Mach} (x0 : Mach) (x1 : RowId) (x2 : Site) (h0 : Follows k x0) :
    Follows k (countRepeat x0 x1 x2) := by
  unfold countRepeat
  repeat' (first | with_reducible assumption | (lift_lets; intro mm) | with_reducible (apply countRow_follows) | with_reducible (apply foldl_follows) | split | intro _ | with_reducible (refine Follows.of_mk ?_ rfl rfl rfl rfl rfl rfl rfl rfl rfl))

theorem retirePlate_follows {k : Mach} (x0 : Mach) (x1 : RowId) (x2 : Nat) (x3 : Nat) (h0 : Follows k x0) :
    Follows k (retirePlate x0 x1 x2 x3) := by
  unfold retirePlate
  repeat' (first | with_reducible assumption | (lift_lets; intro mm) | with_reducible (apply countRepeat_follows) | with_reducible (apply retireSite_follows) | with_reducible (apply setRow_follows) | with_reducible (apply countRow_follows) | with_reducible (apply rowFault_follows) | with_reducible (apply foldl_follows) | split | intro _ | with_reducible (refine Follows.of_mk ?_ rfl rfl rfl rfl rfl rfl rfl rfl rfl))

theorem beginUpkeep_follows {k : Mach} (x0 : Mach) (x1 : RowId) (x2 : Upkeep) (h0 : Follows k x0) :
    Follows k (beginUpkeep x0 x1 x2) := by
  unfold beginUpkeep
  repeat' (first | with_reducible assumption | (lift_lets; intro mm) | with_reducible (apply setRow_follows) | with_reducible (apply rowFault_follows) | with_reducible (apply countRow_follows) | with_reducible (apply foldl_follows) | split | intro _ | with_reducible (refine Follows.of_mk ?_ rfl rfl rfl rfl rfl rfl rfl rfl rfl))

theorem substitute_follows {k : Mach} (x0 : Mach) (x1 : RowId) (x2 : Upkeep) (x3 : Nat) (h0 : Follows k x0) :
    Follows k (substitute x0 x1 x2 x3) := by
  unfold substitute
  repeat' (first | with_reducible assumption | (lift_lets; intro mm) | with_reducible (apply setRow_follows) | with_reducible (apply countRow_follows) | with_reducible (apply countRepeat_follows) | with_reducible (apply retireSite_follows) | with_reducible (apply foldl_follows) | split | intro _ | with_reducible (refine Follows.of_mk ?_ rfl rfl rfl rfl rfl rfl rfl rfl rfl))

theorem replanDune_follows {k : Mach} (x0 : Mach) (x1 : DuneId) (h0 : Follows k x0) :
    Follows k (replanDune x0 x1) := by
  unfold replanDune
  repeat' (first | with_reducible assumption | (lift_lets; intro mm) | with_reducible (apply setRow_follows) | with_reducible (apply foldl_follows) | split | intro _ | with_reducible (refine Follows.of_mk ?_ rfl rfl rfl rfl rfl rfl rfl rfl rfl))

theorem advanceUpkeep_follows {k : Mach} (x0 : Mach) (x1 : RowId) (h0 : Follows k x0) :
    Follows k (advanceUpkeep x0 x1) := by
  unfold advanceUpkeep
  repeat' (first | with_reducible assumption | (lift_lets; intro mm) | with_reducible (apply beginUpkeep_follows) | with_reducible (apply setRow_follows) | with_reducible (apply substitute_follows) | with_reducible (apply foldl_follows) | split | intro _ | with_reducible (refine Follows.of_mk ?_ rfl rfl rfl rfl rfl rfl rfl rfl rfl))

theorem upkeepRow_follows {k : Mach} (x0 : Mach) (x1 : RowId) (h0 : Follows k x0) :
    Follows k (upkeepRow x0 x1) := by
  unfold upkeepRow
  repeat' (first | with_reducible assumption | (lift_lets; intro mm) | with_reducible (apply retirePlate_follows) | with_reducible (apply setRow_follows) | with_reducible (apply advanceUpkeep_follows) | with_reducible (apply foldl_follows) | split | intro _ | with_reducible (refine Follows.of_mk ?_ rfl rfl rfl rfl rfl rfl rfl rfl rfl))

theorem upkeepBoundary_follows {k : Mach} (x0 : Mach) (x1 : DuneId) (h0 : Follows k x0) :
    Follows k (upkeepBoundary x0 x1) := by
  unfold upkeepBoundary
  repeat' (first | with_reducible assumption | (lift_lets; intro mm) | with_reducible (apply upkeepRow_follows) | with_reducible (apply foldl_follows) | split | intro _ | with_reducible (refine Follows.of_mk ?_ rfl rfl rfl rfl rfl rfl rfl rfl rfl))

theorem placeSegment_follows {k : Mach} (x0 : Mach) (x1 : RowId) (x2 : StripRun) (x3 : Nat) (h0 : Follows k x0) :
    Follows k (placeSegment x0 x1 x2 x3) := by
  unfold placeSegment
  repeat' (first | with_reducible assumption | (lift_lets; intro mm) | with_reducible (apply advance_follows) | with_reducible (apply setRow_follows) | with_reducible (apply foldl_follows) | split | intro _ | with_reducible (refine Follows.of_mk ?_ rfl rfl rfl rfl rfl rfl rfl rfl rfl))

theorem takeSeed_follows {k : Mach} (x0 : Mach) (x1 : RowId) (h0 : Follows k x0) :
    Follows k (takeSeed x0 x1) := by
  unfold takeSeed
  repeat' (first | with_reducible assumption | (lift_lets; intro mm) | with_reducible (apply foldl_follows) | split | intro _ | with_reducible (refine Follows.of_mk ?_ rfl rfl rfl rfl rfl rfl rfl rfl rfl))

theorem execStripSegmentStart_follows {k : Mach} (x0 : RowId) (x1 : Fin 68) (x2 : Bank) (x3 : State) (h0 : Follows k x3.m) :
    ∃ t, execStripSegmentStart x0 x1 x2 x3 = .next t ∧ t.pending = x3.pending ∧ Follows k t.m := by
  refine nextM_follows ?_
  repeat' (first | with_reducible assumption | (lift_lets; intro mm) | with_reducible (apply placeSegment_follows) | with_reducible (apply takeSeed_follows) | with_reducible (apply foldl_follows) | split | intro _ | with_reducible (refine Follows.of_mk ?_ rfl rfl rfl rfl rfl rfl rfl rfl rfl))

theorem stripTick_follows {k : Mach} (x0 : Mach) (x1 : RowId) (h0 : Follows k x0) :
    Follows k (stripTick x0 x1) := by
  unfold stripTick
  repeat' (first | with_reducible assumption | (lift_lets; intro mm) | with_reducible (apply placeSegment_follows) | with_reducible (apply takeSeed_follows) | with_reducible (apply foldl_follows) | split | intro _ | with_reducible (refine Follows.of_mk ?_ rfl rfl rfl rfl rfl rfl rfl rfl rfl))

theorem stripTicks_follows {k : Mach} (x0 : Mach) (h0 : Follows k x0) :
    Follows k (stripTicks x0) := by
  unfold stripTicks
  repeat' (first | with_reducible assumption | (lift_lets; intro mm) | with_reducible (apply stripTick_follows) | with_reducible (apply foldl_follows) | split | intro _ | with_reducible (refine Follows.of_mk ?_ rfl rfl rfl rfl rfl rfl rfl rfl rfl))

theorem countSegment_follows {k : Mach} (x0 : Mach) (x1 : RowId) (x2 : Nat) (h0 : Follows k x0) :
    Follows k (countSegment x0 x1 x2) := by
  unfold countSegment
  repeat' (first | with_reducible assumption | (lift_lets; intro mm) | with_reducible (apply countRow_follows) | with_reducible (apply foldl_follows) | split | intro _ | with_reducible (refine Follows.of_mk ?_ rfl rfl rfl rfl rfl rfl rfl rfl rfl))

theorem trimWarning_follows {k : Mach} (x0 : Mach) (x1 : RowId) (x2 : StripRun) (x3 : BankState) (x4 : StripObs) (h0 : Follows k x0) :
    Follows k (trimWarning x0 x1 x2 x3 x4) := by
  unfold trimWarning
  repeat' (first | with_reducible assumption | (lift_lets; intro mm) | with_reducible (apply countRow_follows) | with_reducible (apply setRow_follows) | with_reducible (apply foldl_follows) | split | intro _ | with_reducible (refine Follows.of_mk ?_ rfl rfl rfl rfl rfl rfl rfl rfl rfl))

theorem stripPassed_follows {k : Mach} (x0 : Mach) (x1 : RowId) (x2 : StripRun) (h0 : Follows k x0) :
    Follows k (stripPassed x0 x1 x2) := by
  unfold stripPassed
  repeat' (first | with_reducible assumption | (lift_lets; intro mm) | with_reducible (apply countRow_follows) | with_reducible (apply setRow_follows) | with_reducible (apply foldl_follows) | split | intro _ | with_reducible (refine Follows.of_mk ?_ rfl rfl rfl rfl rfl rfl rfl rfl rfl))

theorem giveUpSite_follows {k : Mach} (x0 : Mach) (x1 : RowId) (x2 : Nat) (h0 : Follows k x0) :
    Follows k (giveUpSite x0 x1 x2) := by
  unfold giveUpSite
  repeat' (first | with_reducible assumption | (lift_lets; intro mm) | with_reducible (apply retireSite_follows) | with_reducible (apply setRow_follows) | with_reducible (apply foldl_follows) | split | intro _ | with_reducible (refine Follows.of_mk ?_ rfl rfl rfl rfl rfl rfl rfl rfl rfl))

theorem rewriteSite_follows {k : Mach} (x0 : Mach) (x1 : RowId) (x2 : Nat) (x3 : Bank) (h0 : Follows k x0) :
    Follows k (rewriteSite x0 x1 x2 x3) := by
  unfold rewriteSite
  repeat' (first | with_reducible assumption | (lift_lets; intro mm) | with_reducible (apply setRow_follows) | with_reducible (apply foldl_follows) | split | intro _ | with_reducible (refine Follows.of_mk ?_ rfl rfl rfl rfl rfl rfl rfl rfl rfl))

theorem queueReexposure_follows {k : Mach} (x0 : Mach) (x1 : RowId) (x2 : Nat) (x3 : Nat) (h0 : Follows k x0) :
    Follows k (queueReexposure x0 x1 x2 x3) := by
  unfold queueReexposure
  repeat' (first | with_reducible assumption | (lift_lets; intro mm) | with_reducible (apply setRow_follows) | with_reducible (apply foldl_follows) | split | intro _ | with_reducible (refine Follows.of_mk ?_ rfl rfl rfl rfl rfl rfl rfl rfl rfl))

theorem stripVerdict_follows {k : Mach} (x0 : Mach) (x1 : RowId) (x2 : Nat) (h0 : Follows k x0) :
    Follows k (stripVerdict x0 x1 x2) := by
  unfold stripVerdict
  repeat' (first | with_reducible assumption | (lift_lets; intro mm) | with_reducible (apply softVerdict_follows) | with_reducible (apply countRow_follows) | with_reducible (apply foldl_follows) | split | intro _ | with_reducible (refine Follows.of_mk ?_ rfl rfl rfl rfl rfl rfl rfl rfl rfl))

theorem stripFailed_follows {k : Mach} (x0 : Mach) (x1 : RowId) (x2 : StripRun) (h0 : Follows k x0) :
    Follows k (stripFailed x0 x1 x2) := by
  unfold stripFailed
  repeat' (first | with_reducible assumption | (lift_lets; intro mm) | with_reducible (apply countRow_follows) | with_reducible (apply setRow_follows) | with_reducible (apply queueReexposure_follows) | with_reducible (apply stripVerdict_follows) | with_reducible (apply giveUpSite_follows) | with_reducible (apply rewriteSite_follows) | with_reducible (apply foldl_follows) | split | intro _ | with_reducible (refine Follows.of_mk ?_ rfl rfl rfl rfl rfl rfl rfl rfl rfl))

theorem solveSegment_follows {k : Mach} (x0 : Mach) (x1 : RowId) (x2 : StripRun) (x3 : StripObs) (h0 : Follows k x0) :
    Follows k (solveSegment x0 x1 x2 x3) := by
  unfold solveSegment
  repeat' (first | with_reducible assumption | (lift_lets; intro mm) | with_reducible (apply setRow_follows) | with_reducible (apply trimWarning_follows) | with_reducible (apply foldl_follows) | split | intro _ | with_reducible (refine Follows.of_mk ?_ rfl rfl rfl rfl rfl rfl rfl rfl rfl))

theorem proofSegment_follows {k : Mach} (x0 : Mach) (x1 : RowId) (x2 : StripRun) (x3 : Nat) (x4 : StripObs) (h0 : Follows k x0) :
    Follows k (proofSegment x0 x1 x2 x3 x4) := by
  unfold proofSegment
  repeat' (first | with_reducible assumption | (lift_lets; intro mm) | with_reducible (apply setRow_follows) | with_reducible (apply stripVerdict_follows) | with_reducible (apply foldl_follows) | split | intro _ | with_reducible (refine Follows.of_mk ?_ rfl rfl rfl rfl rfl rfl rfl rfl rfl))

theorem segmentFinds_follows {k : Mach} (x0 : Mach) (x1 : RowId) (x2 : StripRun) (x3 : StripObs) (h0 : Follows k x0) :
    Follows k (segmentFinds x0 x1 x2 x3) := by
  unfold segmentFinds
  repeat' (first | with_reducible assumption | (lift_lets; intro mm) | with_reducible (apply solveSegment_follows) | with_reducible (apply proofSegment_follows) | with_reducible (apply setRow_follows) | with_reducible (apply foldl_follows) | split | intro _ | with_reducible (refine Follows.of_mk ?_ rfl rfl rfl rfl rfl rfl rfl rfl rfl))

theorem execStripSegmentEnd_follows {k : Mach} (x0 : RowId) (x1 : StripObs) (x2 : State) (h0 : Follows k x2.m) :
    ∃ t, execStripSegmentEnd x0 x1 x2 = .next t ∧ t.pending = x2.pending ∧ Follows k t.m := by
  refine nextM_follows ?_
  repeat' (first | with_reducible assumption | (lift_lets; intro mm) | with_reducible (apply advance_follows) | with_reducible (apply setRow_follows) | with_reducible (apply segmentFinds_follows) | with_reducible (apply countSegment_follows) | with_reducible (apply stripFailed_follows) | with_reducible (apply stripPassed_follows) | with_reducible (apply foldl_follows) | split | intro _ | with_reducible (refine Follows.of_mk ?_ rfl rfl rfl rfl rfl rfl rfl rfl rfl))

theorem execRowWordStaged_follows {k : Mach} (x0 : RowId) (x1 : Bool) (x2 : State) (h0 : Follows k x2.m) :
    ∃ t, execRowWordStaged x0 x1 x2 = .next t ∧ t.pending = x2.pending ∧ Follows k t.m := by
  refine nextM_follows ?_
  repeat' (first | with_reducible assumption | (lift_lets; intro mm) | with_reducible (apply setRow_follows) | with_reducible (apply rowFault_follows) | with_reducible (apply serveRecord_follows) | with_reducible (apply landOne_follows) | with_reducible (apply foldl_follows) | split | intro _ | with_reducible (refine Follows.of_mk ?_ rfl rfl rfl rfl rfl rfl rfl rfl rfl))

theorem bankWritten_follows {k : Mach} (x0 : Mach) (x1 : RowId) (x2 : WriteJob) (h0 : Follows k x0) :
    Follows k (bankWritten x0 x1 x2) := by
  unfold bankWritten
  repeat' (first | with_reducible assumption | (lift_lets; intro mm) | with_reducible (apply setRow_follows) | with_reducible (apply foldl_follows) | split | intro _ | with_reducible (refine Follows.of_mk ?_ rfl rfl rfl rfl rfl rfl rfl rfl rfl))

theorem writeFailed_follows {k : Mach} (x0 : Mach) (x1 : RowId) (x2 : WriteJob) (h0 : Follows k x0) :
    Follows k (writeFailed x0 x1 x2) := by
  unfold writeFailed
  repeat' (first | with_reducible assumption | (lift_lets; intro mm) | with_reducible (apply countRow_follows) | with_reducible (apply setRow_follows) | with_reducible (apply giveUpSite_follows) | with_reducible (apply foldl_follows) | split | intro _ | with_reducible (refine Follows.of_mk ?_ rfl rfl rfl rfl rfl rfl rfl rfl rfl))

theorem execPlateRowWrite_follows {k : Mach} (x0 : RowId) (x1 : Bool) (x2 : Bool) (x3 : State) (h0 : Follows k x3.m) :
    ∃ t, execPlateRowWrite x0 x1 x2 x3 = .next t ∧ t.pending = x3.pending ∧ Follows k t.m := by
  refine nextM_follows ?_
  repeat' (first | with_reducible assumption | (lift_lets; intro mm) | with_reducible (apply writeFailed_follows) | with_reducible (apply advance_follows) | with_reducible (apply bankWritten_follows) | with_reducible (apply setRow_follows) | with_reducible (apply foldl_follows) | split | intro _ | with_reducible (refine Follows.of_mk ?_ rfl rfl rfl rfl rfl rfl rfl rfl rfl))

end Sys2Proof.Machine
end

