-- ==== Sys2Proof/Laws/FollowsGovernor.lean ====
section
/-! SUPPORT. The operations and the meanings of Machine/Governor.lean keep what `Follows` names. -/

namespace Sys2Proof.Machine

theorem commitProfile_follows {k : Mach} (x0 : Mach) (x1 : Nat) (x2 : List (Nat × Nat)) (h0 : Follows k x0) :
    Follows k (commitProfile x0 x1 x2) := by
  unfold commitProfile
  repeat' (first | with_reducible assumption | (lift_lets; intro mm) | split | intro _ | with_reducible (refine Follows.of_mk ?_ rfl rfl rfl rfl rfl rfl rfl rfl rfl))

theorem releaseProfile_follows {k : Mach} (x0 : Mach) (x1 : Nat) (x2 : List (Nat × Nat)) (h0 : Follows k x0) :
    Follows k (releaseProfile x0 x1 x2) := by
  unfold releaseProfile
  repeat' (first | with_reducible assumption | (lift_lets; intro mm) | split | intro _ | with_reducible (refine Follows.of_mk ?_ rfl rfl rfl rfl rfl rfl rfl rfl rfl))

theorem endChain_follows {k : Mach} (x0 : Mach) (x1 : Nat) (h0 : Follows k x0) :
    Follows k (endChain x0 x1) := by
  unfold endChain
  repeat' (first | with_reducible assumption | (lift_lets; intro mm) | with_reducible (apply commitProfile_follows) | with_reducible (apply foldl_follows) | split | intro _ | with_reducible (refine Follows.of_mk ?_ rfl rfl rfl rfl rfl rfl rfl rfl rfl))

end Sys2Proof.Machine
end

