-- ==== Sys2Proof/Laws/FollowsOd.lean ====
section
/-! SUPPORT. The operations and the meanings of Machine/Od.lean keep what `Follows` names. -/

namespace Sys2Proof.Machine

theorem extendMeas_follows {k : Mach} (x0 : Mach) (x1 : Fin 6) (x2 : BitVec 384) (h0 : Follows k x0) :
    Follows k (extendMeas x0 x1 x2) := by
  unfold extendMeas
  repeat' (first | with_reducible assumption | (lift_lets; intro mm) | with_reducible (apply foldl_follows) | split | intro _ | with_reducible (refine Follows.of_mk ?_ rfl rfl rfl rfl rfl rfl rfl rfl rfl))

theorem closeSessions_follows {k : Mach} (x0 : Mach) (x1 : Session → Bool) (h0 : Follows k x0) :
    Follows k (closeSessions x0 x1) := by
  unfold closeSessions
  repeat' (first | with_reducible assumption | (lift_lets; intro mm) | with_reducible (apply foldl_follows) | split | intro _ | with_reducible (refine Follows.of_mk ?_ rfl rfl rfl rfl rfl rfl rfl rfl rfl))

theorem rematchBundles_follows {k : Mach} (x0 : Mach) (h0 : Follows k x0) :
    Follows k (rematchBundles x0) := by
  unfold rematchBundles
  repeat' (first | with_reducible assumption | (lift_lets; intro mm) | with_reducible (apply setBundle_follows) | with_reducible (apply foldl_follows) | split | intro _ | with_reducible (refine Follows.of_mk ?_ rfl rfl rfl rfl rfl rfl rfl rfl rfl))

theorem objEffect_follows {k : Mach} (x0 : Mach) (x1 : Nat) (x2 : Nat) (h0 : Follows k x0) :
    Follows k (objEffect x0 x1 x2) := by
  unfold objEffect
  repeat' (first | with_reducible assumption | (lift_lets; intro mm) | with_reducible (apply rematchBundles_follows) | with_reducible (apply extendMeas_follows) | with_reducible (apply closeSessions_follows) | with_reducible (apply foldl_follows) | split | intro _ | with_reducible (refine Follows.of_mk ?_ rfl rfl rfl rfl rfl rfl rfl rfl rfl))

theorem accept_follows {k : Mach} (x0 : Mach) (x1 : ObjInfo) (x2 : Nat) (h0 : Follows k x0) :
    Follows k (accept x0 x1 x2) := by
  unfold accept
  repeat' (first | with_reducible assumption | (lift_lets; intro mm) | with_reducible (apply objEffect_follows) | with_reducible (apply odSet_follows) | with_reducible (apply foldl_follows) | split | intro _ | with_reducible (refine Follows.of_mk ?_ rfl rfl rfl rfl rfl rfl rfl rfl rfl))

theorem writeBar0_follows {k : Mach} (x0 : Mach) (x1 : Nat) (x2 : List Byte) (h0 : Follows k x0) :
    Follows k (writeBar0 x0 x1 x2) := by
  unfold writeBar0
  repeat' (first | with_reducible assumption | (lift_lets; intro mm) | with_reducible (apply foldl_follows) | split | intro _ | with_reducible (refine Follows.of_mk ?_ rfl rfl rfl rfl rfl rfl rfl rfl rfl))

theorem mailboxPut_follows {k : Mach} (x0 : Mach) (x1 : List Byte) (h0 : Follows k x0) :
    Follows k (mailboxPut x0 x1) := by
  unfold mailboxPut
  repeat' (first | with_reducible assumption | (lift_lets; intro mm) | with_reducible (apply writeBar0_follows) | with_reducible (apply msixGenerate_follows) | with_reducible (apply foldl_follows) | split | intro _ | with_reducible (refine Follows.of_mk ?_ rfl rfl rfl rfl rfl rfl rfl rfl rfl))

theorem sendBack_follows {k : Mach} (x0 : Mach) (x1 : KoaSrc) (x2 : List Byte) (h0 : Follows k x0) :
    Follows k (sendBack x0 x1 x2) := by
  unfold sendBack
  repeat' (first | with_reducible assumption | (lift_lets; intro mm) | with_reducible (apply mailboxPut_follows) | with_reducible (apply emit_follows) | with_reducible (apply foldl_follows) | split | intro _ | with_reducible (refine Follows.of_mk ?_ rfl rfl rfl rfl rfl rfl rfl rfl rfl))

theorem sendSealed_follows {k : Mach} (x0 : Mach) (x1 : KoaSrc) (x2 : Session) (x3 : Nat) (x4 : List Byte) (h0 : Follows k x0) :
    Follows k (sendSealed x0 x1 x2 x3 x4) := by
  unfold sendSealed
  repeat' (first | with_reducible assumption | (lift_lets; intro mm) | with_reducible (apply sendBack_follows) | with_reducible (apply foldl_follows) | split | intro _ | with_reducible (refine Follows.of_mk ?_ rfl rfl rfl rfl rfl rfl rfl rfl rfl))

theorem closeWaiting_follows {k : Mach} (x0 : Mach) (x1 : Nat) (h0 : Follows k x0) :
    Follows k (closeWaiting x0 x1) := by
  unfold closeWaiting
  repeat' (first | with_reducible assumption | (lift_lets; intro mm) | with_reducible (apply closeSessions_follows) | with_reducible (apply foldl_follows) | split | intro _ | with_reducible (refine Follows.of_mk ?_ rfl rfl rfl rfl rfl rfl rfl rfl rfl))

theorem sendResponse_follows {k : Mach} (x0 : Mach) (x1 : Via) (x2 : KoaSrc) (x3 : Nat) (x4 : List Byte) (h0 : Follows k x0) :
    Follows k (sendResponse x0 x1 x2 x3 x4) := by
  unfold sendResponse
  repeat' (first | with_reducible assumption | (lift_lets; intro mm) | with_reducible (apply sendBack_follows) | with_reducible (apply closeWaiting_follows) | with_reducible (apply sendSealed_follows) | with_reducible (apply foldl_follows) | split | intro _ | with_reducible (refine Follows.of_mk ?_ rfl rfl rfl rfl rfl rfl rfl rfl rfl))

theorem answerWith_follows {k : Mach} (x0 : Mach) (x1 : Via) (x2 : Option Reply) (x3 : Op → Bool) (x4 : Nat) (x5 : Nat) (h0 : Follows k x0) :
    Follows k (answerWith x0 x1 x2 x3 x4 x5) := by
  unfold answerWith
  repeat' (first | with_reducible assumption | (lift_lets; intro mm) | with_reducible (apply emit_follows) | with_reducible (apply sendResponse_follows) | with_reducible (apply foldl_follows) | split | intro _ | with_reducible (refine Follows.of_mk ?_ rfl rfl rfl rfl rfl rfl rfl rfl rfl))

theorem answer_follows {k : Mach} (x0 : Mach) (x1 : Via) (x2 : Option Reply) (x3 : Nat) (h0 : Follows k x0) :
    Follows k (answer x0 x1 x2 x3) := by
  unfold answer
  repeat' (first | with_reducible assumption | (lift_lets; intro mm) | with_reducible (apply answerWith_follows) | with_reducible (apply foldl_follows) | split | intro _ | with_reducible (refine Follows.of_mk ?_ rfl rfl rfl rfl rfl rfl rfl rfl rfl))

theorem holdAnswer_follows {k : Mach} (x0 : Mach) (x1 : Via) (x2 : Nat) (x3 : Option Reply) (h0 : Follows k x0) :
    Follows k (holdAnswer x0 x1 x2 x3) := by
  unfold holdAnswer
  repeat' (first | with_reducible assumption | (lift_lets; intro mm) | with_reducible (apply foldl_follows) | split | intro _ | with_reducible (refine Follows.of_mk ?_ rfl rfl rfl rfl rfl rfl rfl rfl rfl))

theorem giveAnswers_follows {k : Mach} (x0 : Mach) (x1 : Nat) (x2 : Nat) (h0 : Follows k x0) :
    Follows k (giveAnswers x0 x1 x2) := by
  unfold giveAnswers
  repeat' (first | with_reducible assumption | (lift_lets; intro mm) | with_reducible (apply answer_follows) | with_reducible (apply foldl_follows) | split | intro _ | with_reducible (refine Follows.of_mk ?_ rfl rfl rfl rfl rfl rfl rfl rfl rfl))

theorem giveFirst_follows {k : Mach} (x0 : Mach) (x1 : Nat) (x2 : Nat) (h0 : Follows k x0) :
    Follows k (giveFirst x0 x1 x2) := by
  unfold giveFirst
  repeat' (first | with_reducible assumption | (lift_lets; intro mm) | with_reducible (apply answer_follows) | with_reducible (apply foldl_follows) | split | intro _ | with_reducible (refine Follows.of_mk ?_ rfl rfl rfl rfl rfl rfl rfl rfl rfl))

theorem commandRow_follows {k : Mach} (x0 : Mach) (x1 : Via) (x2 : Option Nat) (x3 : Mach → Mach) (hx3 : ∀ y0, Follows k y0 → Follows k (x3 y0)) (h0 : Follows k x0) :
    Follows k (commandRow x0 x1 x2 x3) := by
  unfold commandRow
  repeat' (first | with_reducible assumption | (lift_lets; intro mm) | with_reducible (apply answer_follows) | with_reducible (apply hx3) | with_reducible (apply foldl_follows) | split | intro _ | with_reducible (refine Follows.of_mk ?_ rfl rfl rfl rfl rfl rfl rfl rfl rfl))

end Sys2Proof.Machine
end

