-- ==== Sys2Proof/Laws/FollowsRecords.lean ====
section
/-! SUPPORT. The operations and the meanings of Machine/Records.lean keep what `Follows` names. -/

namespace Sys2Proof.Machine

theorem serves_follows {k : Mach} (x0 : Mach) (x1 : Nat) (h0 : Follows k x0) :
    Follows k (serves x0 x1) := by
  unfold serves
  repeat' (first | with_reducible assumption | (lift_lets; intro mm) | with_reducible (apply count_follows) | with_reducible (apply foldl_follows) | split | intro _ | with_reducible (refine Follows.of_mk ?_ rfl rfl rfl rfl rfl rfl rfl rfl rfl))

theorem flushOne_follows {k : Mach} (x0 : Mach) (x1 : Nat) (h0 : Follows k x0) :
    ∀ z, flushOne x0 x1 = some z → Follows k z := by
  intro z hz
  unfold flushOne at hz
  extract_lets x at hz
  split at hz
  · split at hz
    · cases hz
    · split at hz
      · split at hz
        · cases hz
        · cases hz
          exact setCtx_follows _ _ _ (setFn_follows _ _ _ h0)
      · split at hz
        · cases hz
          exact setCtx_follows _ _ _ (count_follows _ _ _ _ (hostWrite_follows _ _ _ _ h0))
        · cases hz
  · cases hz

theorem flushLoop_follows {k : Mach} (x0 : Nat) (x1 : Mach) (x2 : Nat) (h0 : Follows k x1) :
    Follows k (flushLoop x0 x1 x2) := by
  induction x0 generalizing x1 with
  | zero => exact h0
  | succ n ih =>
    unfold flushLoop
    split
    · next z hz => exact ih _ (flushOne_follows _ _ h0 _ hz)
    · exact h0

theorem pollTail_follows {k : Mach} (x0 : Mach) (x1 : Nat) (h0 : Follows k x0) :
    Follows k (pollTail x0 x1) := by
  unfold pollTail
  repeat' (first | with_reducible assumption | (lift_lets; intro mm) | with_reducible (apply hostRead_follows) | with_reducible (apply setCtx_follows) | with_reducible (apply foldl_follows) | split | intro _ | with_reducible (refine Follows.of_mk ?_ rfl rfl rfl rfl rfl rfl rfl rfl rfl))

theorem flushCtx_follows {k : Mach} (x0 : Mach) (x1 : Nat) (h0 : Follows k x0) :
    Follows k (flushCtx x0 x1) := by
  unfold flushCtx
  repeat' (first | with_reducible assumption | (lift_lets; intro mm) | with_reducible (apply pollTail_follows) | with_reducible (apply flushLoop_follows) | with_reducible (apply foldl_follows) | split | intro _ | with_reducible (refine Follows.of_mk ?_ rfl rfl rfl rfl rfl rfl rfl rfl rfl))

theorem writeBlock_follows {k : Mach} (x0 : Mach) (x1 : Nat) (h0 : Follows k x0) :
    ∀ z, writeBlock x0 x1 = some z → Follows k z := by
  intro z hz
  unfold writeBlock at hz
  extract_lets fn size at hz
  split at hz
  · cases hz
  · split at hz
    split at hz
    · cases hz
    · extract_lets time m1 m2 n at hz
      have h1 : Follows k m1 := hostWrite_follows _ _ _ _ h0
      clear_value m1
      have h2 : Follows k m2 := foldl_follows _ (fun m e h => hostWrite_follows _ _ _ _ h) h1
      clear_value m2
      cases hz
      exact setFn_follows _ _ _ (count_follows _ _ _ _ h2)

theorem blockLoop_follows {k : Mach} (x0 : Nat) (x1 : Mach) (x2 : Nat) (h0 : Follows k x1) :
    Follows k (blockLoop x0 x1 x2) := by
  induction x0 generalizing x1 with
  | zero => exact h0
  | succ n ih =>
    unfold blockLoop
    split
    · next z hz => exact ih _ (writeBlock_follows _ _ h0 _ hz)
    · exact h0

theorem pollStep_follows {k : Mach} (x0 : Mach) (x1 : Nat) (h0 : Follows k x0) :
    Follows k (pollStep x0 x1) := by
  unfold pollStep
  repeat' (first | with_reducible assumption | (lift_lets; intro mm) | with_reducible (apply hostRead_follows) | with_reducible (apply setFn_follows) | with_reducible (apply foldl_follows) | split | intro _ | with_reducible (refine Follows.of_mk ?_ rfl rfl rfl rfl rfl rfl rfl rfl rfl))

theorem flushFn_follows {k : Mach} (x0 : Mach) (x1 : Nat) (h0 : Follows k x0) :
    Follows k (flushFn x0 x1) := by
  unfold flushFn
  repeat' (first | with_reducible assumption | (lift_lets; intro mm) | with_reducible (apply flushCtx_follows) | with_reducible (apply pollStep_follows) | with_reducible (apply blockLoop_follows) | with_reducible (apply msixHeld_follows) | with_reducible (apply foldl_follows) | split | intro _ | with_reducible (refine Follows.of_mk ?_ rfl rfl rfl rfl rfl rfl rfl rfl rfl))

theorem flushAll_follows {k : Mach} (x0 : Mach) (h0 : Follows k x0) :
    Follows k (flushAll x0) := by
  unfold flushAll
  repeat' (first | with_reducible assumption | (lift_lets; intro mm) | with_reducible (apply flushFn_follows) | with_reducible (apply foldl_follows) | split | intro _ | with_reducible (refine Follows.of_mk ?_ rfl rfl rfl rfl rfl rfl rfl rfl rfl))

theorem lastRefusal_follows {k : Mach} (x0 : Mach) (x1 : Nat) (x2 : Nat) (x3 : Nat) (x4 : Nat) (h0 : Follows k x0) :
    Follows k (lastRefusal x0 x1 x2 x3 x4) := by
  unfold lastRefusal
  repeat' (first | with_reducible assumption | (lift_lets; intro mm) | with_reducible (apply odSet_follows) | with_reducible (apply serves_follows) | with_reducible (apply foldl_follows) | split | intro _ | with_reducible (refine Follows.of_mk ?_ rfl rfl rfl rfl rfl rfl rfl rfl rfl))

theorem unknownTag_follows {k : Mach} (x0 : Mach) (x1 : Nat) (x2 : W64) (h0 : Follows k x0) :
    Follows k (unknownTag x0 x1 x2) := by
  unfold unknownTag
  repeat' (first | with_reducible assumption | (lift_lets; intro mm) | with_reducible (apply lastRefusal_follows) | with_reducible (apply serves_follows) | with_reducible (apply flushFn_follows) | with_reducible (apply setFn_follows) | with_reducible (apply foldl_follows) | split | intro _ | with_reducible (refine Follows.of_mk ?_ rfl rfl rfl rfl rfl rfl rfl rfl rfl))

theorem toEnding_follows {k : Mach} (x0 : Mach) (x1 : Nat) (h0 : Follows k x0) :
    Follows k (toEnding x0 x1) := by
  unfold toEnding
  repeat' (first | with_reducible assumption | (lift_lets; intro mm) | with_reducible (apply setCtx_follows) | with_reducible (apply endChain_follows) | with_reducible (apply foldl_follows) | split | intro _ | with_reducible (refine Follows.of_mk ?_ rfl rfl rfl rfl rfl rfl rfl rfl rfl))

theorem endStatus_follows {k : Mach} (x0 : Mach) (x1 : Nat) (x2 : Nat) (x3 : Nat) (x4 : Bool) (h0 : Follows k x0) :
    Follows k (endStatus x0 x1 x2 x3 x4) := by
  unfold endStatus
  repeat' (first | with_reducible assumption | (lift_lets; intro mm) | with_reducible (apply toEnding_follows) | with_reducible (apply setCtx_follows) | with_reducible (apply lastRefusal_follows) | with_reducible (apply flushFn_follows) | with_reducible (apply foldl_follows) | split | intro _ | with_reducible (refine Follows.of_mk ?_ rfl rfl rfl rfl rfl rfl rfl rfl rfl))

theorem execEndRecordSent_follows {k : Mach} (x0 : Fin 16384) (x1 : State) (h0 : Follows k x1.m) :
    ∃ t, execEndRecordSent x0 x1 = .next t ∧ t.pending = x1.pending ∧ Follows k t.m := by
  refine nextM_follows ?_
  repeat' (first | with_reducible assumption | (lift_lets; intro mm) | with_reducible (apply setCtx_follows) | with_reducible (apply foldl_follows) | split | intro _ | with_reducible (refine Follows.of_mk ?_ rfl rfl rfl rfl rfl rfl rfl rfl rfl))

theorem execTailReadComplete_follows {k : Mach} (x0 : Fin 16384) (x1 : W64) (x2 : State) (h0 : Follows k x2.m) :
    ∃ t, execTailReadComplete x0 x1 x2 = .next t ∧ t.pending = x2.pending ∧ Follows k t.m := by
  refine nextM_follows ?_
  repeat' (first | with_reducible assumption | (lift_lets; intro mm) | with_reducible (apply setCtx_follows) | with_reducible (apply endStatus_follows) | with_reducible (apply flushFn_follows) | with_reducible (apply foldl_follows) | split | intro _ | with_reducible (refine Follows.of_mk ?_ rfl rfl rfl rfl rfl rfl rfl rfl rfl))

theorem execStepTailReadComplete_follows {k : Mach} (x0 : Fin 16) (x1 : W64) (x2 : State) (h0 : Follows k x2.m) :
    ∃ t, execStepTailReadComplete x0 x1 x2 = .next t ∧ t.pending = x2.pending ∧ Follows k t.m := by
  refine nextM_follows ?_
  repeat' (first | with_reducible assumption | (lift_lets; intro mm) | with_reducible (apply serves_follows) | with_reducible (apply setFn_follows) | with_reducible (apply flushFn_follows) | with_reducible (apply foldl_follows) | split | intro _ | with_reducible (refine Follows.of_mk ?_ rfl rfl rfl rfl rfl rfl rfl rfl rfl))

end Sys2Proof.Machine
end

