-- ==== Sys2Proof/Laws/FollowsNegative.lean ====
section
/-! SUPPORT. The operations and the meanings of Machine/Negative.lean keep what `Follows` names. -/

namespace Sys2Proof.Machine

theorem saveNegative_follows {k : Mach} (x0 : Mach) (x1 : Job) (x2 : Context) (h0 : Follows k x0) :
    Follows k (saveNegative x0 x1 x2).2 := by
  unfold saveNegative
  have kf : ∀ (l : List KvArea) pos (w : List Byte × Mach), Follows k w.2 →
      Follows k (l.foldl (saveVector x1 (storesKv x0 x1) x2 pos) w).2 := by
    intro l pos w h
    refine foldl_snd_follows l h fun w a h => ?_
    unfold saveVector
    split
    · exact h
    · extract_lets bytes bs
      split
      · exact h
      · exact foldl_follows _ (fun m k h => countK4_follows _ _ _ h) h
  exact foldl_snd_follows _ h0 fun w pos h => kf _ _ _ h

theorem saveNegative_follows' {k : Mach} (x0 : Mach) (x1 : Job) (x2 : Context) (h0 : Follows k x0) :
    ∀ a z, saveNegative x0 x1 x2 = (a, z) → Follows k z := by
  intro a z e
  have := saveNegative_follows x0 x1 x2  h0 (k := k)
  rw [e] at this
  exact this

theorem restoreNegative_follows {k : Mach} (x0 : Job) (x1 : Bool) (x2 : Context) (x3 : List Byte) (x4 : Mach) (h0 : Follows k x4) :
    Follows k (restoreNegative x0 x1 x2 x3 x4) := by
  unfold restoreNegative
  have key : ∀ (l : List (Nat × Option Nat × (List Byte → List Byte))) (w : Mach × List Byte), Follows k w.1 →
      Follows k (l.foldl (fun (w : Mach × List Byte) e =>
        (match e.2.1 with
          | some a => landOne w.1 ⟨x4.now, 1, a, e.2.2 (w.2.take e.1)⟩
          | none => w.1, w.2.drop e.1)) w).1 := by
    intro l
    induction l with
    | nil => intro w h; exact h
    | cons e rest ih =>
      intro w h
      refine ih _ ?_
      dsimp only
      split
      · exact landOne_follows _ _ h
      · exact h
  exact key _ _ h0

theorem pauseCtx_follows {k : Mach} (x0 : Mach) (x1 : Nat) (h0 : Follows k x0) :
    ∀ z, pauseCtx x0 x1 = some z → Follows k z := by
  intro z hz
  unfold pauseCtx at hz
  extract_lets x at hz
  split at hz
  · cases hz
  · extract_lets n at hz
    split at hz
    · cases hz
    · rw [Option.map_eq_some_iff] at hz
      obtain ⟨a, _, rfl⟩ := hz
      exact setCtx_follows _ _ _ (endChain_follows _ _ h0)

theorem governorPause_follows {k : Mach} (x0 : Mach) (x1 : Nat) (h0 : Follows k x0) :
    Follows k (governorPause x0 x1) := by
  unfold governorPause
  cases h : pauseCtx x0 x1 with
  | none => exact h0
  | some z => exact pauseCtx_follows x0 x1 h0 z h

theorem descriptorPause_follows {k : Mach} (x0 : Mach) (x1 : Nat) (h0 : Follows k x0) :
    Follows k (descriptorPause x0 x1) := by
  unfold descriptorPause
  repeat' (first | with_reducible assumption | (lift_lets; intro mm) | (refine pauseCtx_follows _ _ ?_ _ (by assumption)) | with_reducible (apply setCtx_follows) | with_reducible (apply serves_follows) | split | intro _ | with_reducible (refine Follows.of_mk ?_ rfl rfl rfl rfl rfl rfl rfl rfl rfl))

theorem execPauseAfterExpiry_follows {k : Mach} (x0 : Fin 16384) (x1 : State) (h0 : Follows k x1.m) :
    ∃ t, execPauseAfterExpiry x0 x1 = .next t ∧ t.pending = x1.pending ∧ Follows k t.m := by
  refine nextM_follows ?_
  repeat' (first | with_reducible assumption | (lift_lets; intro mm) | with_reducible (apply advance_follows) | with_reducible (apply governorPause_follows) | split | intro _ | with_reducible (refine Follows.of_mk ?_ rfl rfl rfl rfl rfl rfl rfl rfl rfl))

theorem execNegativeWriteComplete_follows {k : Mach} (x0 : Fin 16384) (x1 : State) (h0 : Follows k x1.m) :
    ∃ t, execNegativeWriteComplete x0 x1 = .next t ∧ t.pending = x1.pending ∧ Follows k t.m := by
  refine nextM_follows ?_
  repeat' (first | with_reducible assumption | (lift_lets; intro mm) | with_reducible (apply saveNegative_follows) | (refine saveNegative_follows' _ _ _ ?_ _ _ (by assumption)) | with_reducible (apply dmaHbm_follows) | with_reducible (apply serves_follows) | with_reducible (apply setCtx_follows) | split | intro _ | with_reducible (refine Follows.of_mk ?_ rfl rfl rfl rfl rfl rfl rfl rfl rfl))

theorem negativeLost_follows {k : Mach} (x0 : Mach) (x1 : Nat) (x2 : Nat) (h0 : Follows k x0) :
    Follows k (negativeLost x0 x1 x2) := by
  unfold negativeLost
  repeat' (first | with_reducible assumption | (lift_lets; intro mm) | with_reducible (apply raiseFault_follows) | with_reducible (apply setCtx_follows) | split | intro _ | with_reducible (refine Follows.of_mk ?_ rfl rfl rfl rfl rfl rfl rfl rfl rfl))

theorem execNegativeRestoreComplete_follows {k : Mach} (x0 : NegativeRead) (x1 : State) (h0 : Follows k x1.m) :
    ∃ t, execNegativeRestoreComplete x0 x1 = .next t ∧ t.pending = x1.pending ∧ Follows k t.m := by
  refine nextM_follows ?_
  repeat' (first | with_reducible assumption | (lift_lets; intro mm) | with_reducible (apply negativeLost_follows) | with_reducible (apply restoreNegative_follows) | with_reducible (apply serveHbm_follows) | with_reducible (apply serves_follows) | with_reducible (apply setCtx_follows) | split | intro _ | with_reducible (refine Follows.of_mk ?_ rfl rfl rfl rfl rfl rfl rfl rfl rfl))

theorem stopRestore_follows {k : Mach} (x0 : Mach) (x1 : Nat) (h0 : Follows k x0) :
    Follows k (stopRestore x0 x1) := by
  unfold stopRestore
  repeat' (first | with_reducible assumption | (lift_lets; intro mm) | with_reducible (apply setCtx_follows) | with_reducible (apply endChain_follows) | split | intro _ | with_reducible (refine Follows.of_mk ?_ rfl rfl rfl rfl rfl rfl rfl rfl rfl))

theorem pauseForPages_follows {k : Mach} (x0 : Mach) (x1 : Nat) (x2 : List Nat) (h0 : Follows k x0) :
    Follows k (pauseForPages x0 x1 x2) := by
  induction x2 generalizing x0 x1 with
  | nil => exact h0
  | cons c rest ih =>
    unfold pauseForPages
    split
    · exact h0
    · split
      · next z hz => exact ih _ _ (pauseCtx_follows _ _ h0 _ hz)
      · exact ih _ _ h0

theorem waitForPages_follows {k : Mach} (x0 : Mach) (x1 : Image) (x2 : Descriptor) (x3 : Nat) (h0 : Follows k x0) :
    Follows k (waitForPages x0 x1 x2 x3) := by
  unfold waitForPages
  repeat' (first | with_reducible assumption | (lift_lets; intro mm) | with_reducible (apply pauseForPages_follows) | split | intro _ | with_reducible (refine Follows.of_mk ?_ rfl rfl rfl rfl rfl rfl rfl rfl rfl))

theorem tryResume_follows {k : Mach} (x0 : Mach) (x1 : Image) (x2 : Nat) (h0 : Follows k x0) :
    Follows k (tryResume x0 x1 x2).1 := by
  unfold tryResume
  extract_lets x
  split
  · exact h0
  · extract_lets n go
    have hg : ∀ m, Follows k m → Follows k (go m) := fun m h => setCtx_follows _ _ _ h
    clear_value go
    split
    · exact waitForPages_follows _ _ _ _ h0
    · split
      · split
        · exact hg _ (h0.of_eq rfl rfl rfl rfl rfl rfl rfl rfl rfl)
        · exact h0
      · exact hg _ h0

theorem tryResume_follows' {k : Mach} (x0 : Mach) (x1 : Image) (x2 : Nat) (h0 : Follows k x0) :
    ∀ a z, tryResume x0 x1 x2 = (z, a) → Follows k z := by
  intro a z e
  have := tryResume_follows x0 x1 x2  h0 (k := k)
  rw [e] at this
  exact this

theorem resumeAll_follows {k : Mach} (x0 : Image) (x1 : List Nat) (x2 : Mach) (h0 : Follows k x2) :
    Follows k (resumeAll x0 x1 x2) := by
  induction x1 generalizing x2 with
  | nil => exact h0
  | cons c rest ih =>
    unfold resumeAll
    extract_lets w
    have hw : Follows k w.1 := tryResume_follows _ _ _ h0
    clear_value w
    split
    · exact ih _ hw
    · exact hw

end Sys2Proof.Machine
end

