-- ==== Sys2Proof/Laws/FollowsIntake.lean ====
section
/-! SUPPORT. The operations and the meanings of Machine/Intake.lean keep what `Follows` names. -/

namespace Sys2Proof.Machine

theorem writeSlot_follows {k : Mach} (x0 : Mach) (x1 : Nat) (x2 : Nat) (x3 : List (Nat × Byte)) (h0 : Follows k x0) :
    Follows k (writeSlot x0 x1 x2 x3) := by
  unfold writeSlot
  repeat' (first | with_reducible assumption | (lift_lets; intro mm) | with_reducible (apply serves_follows) | with_reducible (apply setFn_follows) | with_reducible (apply foldl_follows) | split | intro _ | with_reducible (refine Follows.of_mk ?_ rfl rfl rfl rfl rfl rfl rfl rfl rfl))

theorem writeIntake_follows {k : Mach} (x0 : Mach) (x1 : Nat) (x2 : Nat) (x3 : List Byte) (h0 : Follows k x0) :
    Follows k (writeIntake x0 x1 x2 x3) := by
  unfold writeIntake
  repeat' (first | with_reducible assumption | (lift_lets; intro mm) | with_reducible (apply writeSlot_follows) | with_reducible (apply foldl_follows) | split | intro _ | with_reducible (refine Follows.of_mk ?_ rfl rfl rfl rfl rfl rfl rfl rfl rfl))

theorem execIntakeSlotWrite_follows {k : Mach} (x0 : Fin 16) (x1 : Fin 4096) (x2 : List Byte) (x3 : State) (h0 : Follows k x3.m) :
    ∃ t, execIntakeSlotWrite x0 x1 x2 x3 = .next t ∧ t.pending = x3.pending ∧ Follows k t.m := by
  refine nextM_follows ?_
  repeat' (first | with_reducible assumption | (lift_lets; intro mm) | with_reducible (apply writeIntake_follows) | with_reducible (apply foldl_follows) | split | intro _ | with_reducible (refine Follows.of_mk ?_ rfl rfl rfl rfl rfl rfl rfl rfl rfl))

theorem writeCredit_follows {k : Mach} (x0 : Mach) (x1 : Nat) (h0 : Follows k x0) :
    Follows k (writeCredit x0 x1) := by
  unfold writeCredit
  repeat' (first | with_reducible assumption | (lift_lets; intro mm) | with_reducible (apply msixHeld_follows) | with_reducible (apply hostWrite_follows) | with_reducible (apply foldl_follows) | split | intro _ | with_reducible (refine Follows.of_mk ?_ rfl rfl rfl rfl rfl rfl rfl rfl rfl))

theorem resetWindow_follows {k : Mach} (x0 : Mach) (x1 : Nat) (h0 : Follows k x0) :
    Follows k (resetWindow x0 x1) := by
  unfold resetWindow
  repeat' (first | with_reducible assumption | (lift_lets; intro mm) | with_reducible (apply writeCredit_follows) | with_reducible (apply setFn_follows) | with_reducible (apply foldl_follows) | split | intro _ | with_reducible (refine Follows.of_mk ?_ rfl rfl rfl rfl rfl rfl rfl rfl rfl))

theorem resetWindows_follows {k : Mach} (x0 : Mach) (h0 : Follows k x0) :
    Follows k (resetWindows x0) := by
  unfold resetWindows
  repeat' (first | with_reducible assumption | (lift_lets; intro mm) | with_reducible (apply setFn_follows) | with_reducible (apply resetWindow_follows) | with_reducible (apply foldl_follows) | split | intro _ | with_reducible (refine Follows.of_mk ?_ rfl rfl rfl rfl rfl rfl rfl rfl rfl))

theorem setIntakeEnable_follows {k : Mach} (x0 : Mach) (x1 : Nat) (x2 : Nat) (h0 : Follows k x0) :
    Follows k (setIntakeEnable x0 x1 x2) := by
  unfold setIntakeEnable
  repeat' (first | with_reducible assumption | (lift_lets; intro mm) | with_reducible (apply odSet_follows) | with_reducible (apply resetWindow_follows) | with_reducible (apply writeCredit_follows) | with_reducible (apply foldl_follows) | split | intro _ | with_reducible (refine Follows.of_mk ?_ rfl rfl rfl rfl rfl rfl rfl rfl rfl))

theorem execIntakeEnableWrite_follows {k : Mach} (x0 : Via) (x1 : Fin 16) (x2 : List Byte) (x3 : State) (h0 : Follows k x3.m) :
    ∃ t, execIntakeEnableWrite x0 x1 x2 x3 = .next t ∧ t.pending = x3.pending ∧ Follows k t.m := by
  refine nextM_follows ?_
  repeat' (first | with_reducible assumption | (lift_lets; intro mm) | with_reducible (apply commandRow_follows) | with_reducible (apply answer_follows) | with_reducible (apply setIntakeEnable_follows) | with_reducible (apply foldl_follows) | split | intro _ | with_reducible (refine Follows.of_mk ?_ rfl rfl rfl rfl rfl rfl rfl rfl rfl))

theorem execSlotConsume_follows {k : Mach} (x0 : Fin 16) (x1 : State) (h0 : Follows k x1.m) :
    ∃ t, execSlotConsume x0 x1 = .next t ∧ t.pending = x1.pending ∧ Follows k t.m := by
  refine nextM_follows ?_
  repeat' (first | with_reducible assumption | (lift_lets; intro mm) | with_reducible (apply setFn_follows) | with_reducible (apply writeCredit_follows) | with_reducible (apply serves_follows) | with_reducible (apply foldl_follows) | split | intro _ | with_reducible (refine Follows.of_mk ?_ rfl rfl rfl rfl rfl rfl rfl rfl rfl))

theorem carryOut_follows {k : Mach} (x0 : Mach) (x1 : Nat) (x2 : Nat → Bool) (x3 : Mach → Nat → Descriptor → Mach) (hx3 : ∀ y0 y1 y2, Follows k y0 → Follows k (x3 y0 y1 y2)) (h0 : Follows k x0) :
    Follows k (carryOut x0 x1 x2 x3) := by
  unfold carryOut
  repeat' (first | with_reducible assumption | (lift_lets; intro mm) | with_reducible (apply setFn_follows) | with_reducible (apply serves_follows) | with_reducible (apply hx3) | with_reducible (apply foldl_follows) | split | intro _ | with_reducible (refine Follows.of_mk ?_ rfl rfl rfl rfl rfl rfl rfl rfl rfl))

theorem execDescriptorNop_follows {k : Mach} (x0 : Fin 16) (x1 : State) (h0 : Follows k x1.m) :
    ∃ t, execDescriptorNop x0 x1 = .next t ∧ t.pending = x1.pending ∧ Follows k t.m := by
  refine nextM_follows ?_
  repeat' (first | with_reducible assumption | (lift_lets; intro mm) | with_reducible (apply carryOut_follows) | with_reducible (apply foldl_follows) | split | intro _ | with_reducible (refine Follows.of_mk ?_ rfl rfl rfl rfl rfl rfl rfl rfl rfl))

theorem execUnknownOpcode_follows {k : Mach} (x0 : Fin 16) (x1 : State) (h0 : Follows k x1.m) :
    ∃ t, execUnknownOpcode x0 x1 = .next t ∧ t.pending = x1.pending ∧ Follows k t.m := by
  refine nextM_follows ?_
  repeat' (first | with_reducible assumption | (lift_lets; intro mm) | with_reducible (apply carryOut_follows) | with_reducible (apply serves_follows) | with_reducible (apply foldl_follows) | split | intro _ | with_reducible (refine Follows.of_mk ?_ rfl rfl rfl rfl rfl rfl rfl rfl rfl))

theorem execCancel_follows {k : Mach} (x0 : Fin 16) (x1 : State) (h0 : Follows k x1.m) :
    ∃ t, execCancel x0 x1 = .next t ∧ t.pending = x1.pending ∧ Follows k t.m := by
  refine nextM_follows ?_
  repeat' (first | with_reducible assumption | (lift_lets; intro mm) | with_reducible (apply carryOut_follows) | with_reducible (apply unknownTag_follows) | with_reducible (apply endStatus_follows) | with_reducible (apply serves_follows) | with_reducible (apply foldl_follows) | split | intro _ | with_reducible (refine Follows.of_mk ?_ rfl rfl rfl rfl rfl rfl rfl rfl rfl))

theorem execPause_follows {k : Mach} (x0 : Fin 16) (x1 : State) (h0 : Follows k x1.m) :
    ∃ t, execPause x0 x1 = .next t ∧ t.pending = x1.pending ∧ Follows k t.m := by
  refine nextM_follows ?_
  repeat' (first | with_reducible assumption | (lift_lets; intro mm) | with_reducible (apply carryOut_follows) | with_reducible (apply unknownTag_follows) | with_reducible (apply descriptorPause_follows) | with_reducible (apply setCtx_follows) | with_reducible (apply stopRestore_follows) | with_reducible (apply foldl_follows) | split | intro _ | with_reducible (refine Follows.of_mk ?_ rfl rfl rfl rfl rfl rfl rfl rfl rfl))

theorem execResume_follows {k : Mach} (x0 : Fin 16) (x1 : State) (h0 : Follows k x1.m) :
    ∃ t, execResume x0 x1 = .next t ∧ t.pending = x1.pending ∧ Follows k t.m := by
  refine nextM_follows ?_
  repeat' (first | with_reducible assumption | (lift_lets; intro mm) | with_reducible (apply carryOut_follows) | with_reducible (apply unknownTag_follows) | with_reducible (apply setCtx_follows) | with_reducible (apply foldl_follows) | split | intro _ | with_reducible (refine Follows.of_mk ?_ rfl rfl rfl rfl rfl rfl rfl rfl rfl))

theorem submitRequest_follows {k : Mach} (x0 : Mach) (x1 : Nat) (x2 : Nat) (x3 : Descriptor) (h0 : Follows k x0) :
    Follows k (submitRequest x0 x1 x2 x3) := by
  unfold submitRequest
  repeat' (first | with_reducible assumption | (lift_lets; intro mm) | with_reducible (apply setCtx_follows) | with_reducible (apply endStatus_follows) | with_reducible (apply serves_follows) | with_reducible (apply hostRead_follows) | with_reducible (apply foldl_follows) | split | intro _ | dsimp +zetaDelta only | with_reducible (refine Follows.of_mk ?_ rfl rfl rfl rfl rfl rfl rfl rfl rfl))

theorem execSubmit_follows {k : Mach} (x0 : Fin 16) (x1 : State) (h0 : Follows k x1.m) :
    ∃ t, execSubmit x0 x1 = .next t ∧ t.pending = x1.pending ∧ Follows k t.m := by
  refine nextM_follows ?_
  repeat' (first | with_reducible assumption | (lift_lets; intro mm) | with_reducible (apply carryOut_follows) | with_reducible (apply submitRequest_follows) | with_reducible (apply foldl_follows) | split | intro _ | with_reducible (refine Follows.of_mk ?_ rfl rfl rfl rfl rfl rfl rfl rfl rfl))

theorem execPromptFetchComplete_follows {k : Mach} (x0 : Fin 16384) (x1 : List W32) (x2 : State) (h0 : Follows k x2.m) :
    ∃ t, execPromptFetchComplete x0 x1 x2 = .next t ∧ t.pending = x2.pending ∧ Follows k t.m := by
  refine nextM_follows ?_
  repeat' (first | with_reducible assumption | (lift_lets; intro mm) | with_reducible (apply endStatus_follows) | with_reducible (apply serves_follows) | with_reducible (apply draw_follows) | (refine draw_follows' _ ?_ _ _ (by assumption)) | with_reducible (apply setCtx_follows) | with_reducible (apply dmaHbm_follows) | with_reducible (apply foldl_follows) | split | intro _ | with_reducible (refine Follows.of_mk ?_ rfl rfl rfl rfl rfl rfl rfl rfl rfl))

theorem promptFailed_follows {k : Mach} (x0 : Mach) (x1 : Nat) (h0 : Follows k x0) :
    Follows k (promptFailed x0 x1) := by
  unfold promptFailed
  repeat' (first | with_reducible assumption | (lift_lets; intro mm) | with_reducible (apply endStatus_follows) | with_reducible (apply serves_follows) | with_reducible (apply foldl_follows) | split | intro _ | with_reducible (refine Follows.of_mk ?_ rfl rfl rfl rfl rfl rfl rfl rfl rfl))

end Sys2Proof.Machine
end

