-- ==== Sys2Proof/Laws/FollowsSampling.lean ====
section
/-! SUPPORT. The operations and the meanings of Machine/Sampling.lean keep what `Follows` names. -/

namespace Sys2Proof.Machine

theorem passNoise_follows {k : Mach} (x0 : Mach) (x1 : Job) (x2 : Context) (h0 : Follows k x0) :
    Follows k (passNoise x0 x1 x2).2 := by
  unfold passNoise
  repeat' (first | with_reducible assumption | (lift_lets; intro mm) | with_reducible (apply draw_follows) | (refine draw_follows' _ ?_ _ _ (by assumption)) | with_reducible (apply foldl_follows) | split | intro _ | with_reducible (refine Follows.of_mk ?_ rfl rfl rfl rfl rfl rfl rfl rfl rfl))

theorem passNoise_follows' {k : Mach} (x0 : Mach) (x1 : Job) (x2 : Context) (h0 : Follows k x0) :
    ∀ a z, passNoise x0 x1 x2 = (a, z) → Follows k z := by
  intro a z e
  have := passNoise_follows x0 x1 x2  h0 (k := k)
  rw [e] at this
  exact this

theorem draftCtx_follows {k : Mach} (x0 : Mach) (x1 : Job) (x2 : Nat) (x3 : Nat) (h0 : Follows k x0) :
    Follows k (draftCtx x0 x1 x2 x3) := by
  unfold draftCtx
  repeat' (first | with_reducible assumption | (lift_lets; intro mm) | with_reducible (apply passNoise_follows) | (refine passNoise_follows' _ _ _ ?_ _ _ (by assumption)) | with_reducible (apply setCtx_follows) | with_reducible (apply foldl_follows) | split | intro _ | with_reducible (refine Follows.of_mk ?_ rfl rfl rfl rfl rfl rfl rfl rfl rfl))

theorem adaptDepth_follows {k : Mach} (x0 : Mach) (x1 : Nat) (x2 : Nat) (x3 : Nat) (x4 : Nat) (x5 : Nat) (h0 : Follows k x0) :
    Follows k (adaptDepth x0 x1 x2 x3 x4 x5) := by
  unfold adaptDepth
  repeat' (first | with_reducible assumption | (lift_lets; intro mm) | with_reducible (apply serves_follows) | with_reducible (apply setCtx_follows) | with_reducible (apply foldl_follows) | split | intro _ | with_reducible (refine Follows.of_mk ?_ rfl rfl rfl rfl rfl rfl rfl rfl rfl))

theorem samplePass_follows {k : Mach} (x0 : Mach) (x1 : Job) (x2 : Nat) (x3 : Pass) (h0 : Follows k x0) :
    Follows k (samplePass x0 x1 x2 x3) := by
  unfold samplePass
  repeat' (first | with_reducible assumption | (lift_lets; intro mm) | with_reducible (apply passNoise_follows) | (refine passNoise_follows' _ _ _ ?_ _ _ (by assumption)) | with_reducible (apply setCtx_follows) | with_reducible (apply count_follows) | with_reducible (apply adaptDepth_follows) | with_reducible (apply foldl_follows) | split | intro _ | with_reducible (refine Follows.of_mk ?_ rfl rfl rfl rfl rfl rfl rfl rfl rfl))

theorem sampleBeat_follows {k : Mach} (x0 : Mach) (x1 : Job) (x2 : Nat) (h0 : Follows k x0) :
    Follows k (sampleBeat x0 x1 x2) := by
  unfold sampleBeat
  repeat' (first | with_reducible assumption | (lift_lets; intro mm) | with_reducible (apply samplePass_follows) | with_reducible (apply draftCtx_follows) | with_reducible (apply foldl_follows) | split | intro _ | with_reducible (refine Follows.of_mk ?_ rfl rfl rfl rfl rfl rfl rfl rfl rfl))

theorem sampleUpTo_follows {k : Mach} (x0 : Mach) (x1 : Nat) (h0 : Follows k x0) :
    Follows k (sampleUpTo x0 x1) := by
  unfold sampleUpTo
  repeat' (first | with_reducible assumption | (lift_lets; intro mm) | with_reducible (apply sampleBeat_follows) | with_reducible (apply foldl_follows) | split | intro _ | with_reducible (refine Follows.of_mk ?_ rfl rfl rfl rfl rfl rfl rfl rfl rfl))

end Sys2Proof.Machine
end

