-- ==== Sys2Proof/Laws/FollowsServe.lean ====
section
/-! SUPPORT. The operations and the meanings of Machine/Serve.lean keep what `Follows` names. -/

namespace Sys2Proof.Machine

theorem setAdapter_follows {k : Mach} (x0 : Mach) (x1 : Nat) (x2 : Adapter) (h0 : Follows k x0) :
    Follows k (setAdapter x0 x1 x2) := by
  unfold setAdapter
  repeat' (first | with_reducible assumption | (lift_lets; intro mm) | with_reducible (apply foldl_follows) | split | intro _ | with_reducible (refine Follows.of_mk ?_ rfl rfl rfl rfl rfl rfl rfl rfl rfl))

theorem copyHot_follows {k : Mach} (x0 : Mach) (x1 : Job) (x2 : Nat) (x3 : Nat) (h0 : Follows k x0) :
    Follows k (copyHot x0 x1 x2 x3) := by
  unfold copyHot
  repeat' (first | with_reducible assumption | (lift_lets; intro mm) | with_reducible (apply landOne_follows) | with_reducible (apply serveHbm_follows) | with_reducible (apply foldl_follows) | split | intro _ | with_reducible (refine Follows.of_mk ?_ rfl rfl rfl rfl rfl rfl rfl rfl rfl))

theorem makeHot_follows {k : Mach} (x0 : Mach) (x1 : Nat) (x2 : Nat) (h0 : Follows k x0) :
    Follows k (makeHot x0 x1 x2) := by
  unfold makeHot
  extract_lets m1
  have h1 : Follows k m1 := by
    unfold m1
    cases x0.job with
    | none => exact h0
    | some j => exact copyHot_follows _ _ _ _ h0
  clear_value m1
  exact setAdapter_follows _ _ _ h1

theorem execAdapterHotCopyComplete_follows {k : Mach} (x0 : Nat) (x1 : State) (h0 : Follows k x1.m) :
    ∃ t, execAdapterHotCopyComplete x0 x1 = .next t ∧ t.pending = x1.pending ∧ Follows k t.m := by
  refine nextM_follows ?_
  repeat' (first | with_reducible assumption | (lift_lets; intro mm) | with_reducible (apply makeHot_follows) | with_reducible (apply setAdapter_follows) | with_reducible (apply foldl_follows) | split | intro _ | with_reducible (refine Follows.of_mk ?_ rfl rfl rfl rfl rfl rfl rfl rfl rfl))

theorem adapterResult_follows {k : Mach} (x0 : Mach) (x1 : Nat) (h0 : Follows k x0) :
    Follows k (adapterResult x0 x1) := by
  unfold adapterResult
  repeat' (first | with_reducible assumption | (lift_lets; intro mm) | with_reducible (apply giveFirst_follows) | with_reducible (apply odSet_follows) | with_reducible (apply foldl_follows) | split | intro _ | with_reducible (refine Follows.of_mk ?_ rfl rfl rfl rfl rfl rfl rfl rfl rfl))

theorem adapterRun_follows {k : Mach} (x0 : Mach) (x1 : Via) (x2 : List Byte) (x3 : Option Reply) (h0 : Follows k x0) :
    Follows k (adapterRun x0 x1 x2 x3) := by
  unfold adapterRun
  repeat' (first | with_reducible assumption | (lift_lets; intro mm) | with_reducible (apply holdAnswer_follows) | with_reducible (apply adapterResult_follows) | with_reducible (apply hostRead_follows) | with_reducible (apply setAdapter_follows) | with_reducible (apply foldl_follows) | split | intro _ | with_reducible (refine Follows.of_mk ?_ rfl rfl rfl rfl rfl rfl rfl rfl rfl))

theorem execAdapterInstall_follows {k : Mach} (x0 : Via) (x1 : List Byte) (x2 : State) (h0 : Follows k x2.m) :
    ∃ t, execAdapterInstall x0 x1 x2 = .next t ∧ t.pending = x2.pending ∧ Follows k t.m := by
  refine nextM_follows ?_
  repeat' (first | with_reducible assumption | (lift_lets; intro mm) | with_reducible (apply commandRow_follows) | with_reducible (apply adapterRun_follows) | with_reducible (apply foldl_follows) | split | intro _ | with_reducible (refine Follows.of_mk ?_ rfl rfl rfl rfl rfl rfl rfl rfl rfl))

theorem execAdapterRemove_follows {k : Mach} (x0 : Via) (x1 : List Byte) (x2 : State) (h0 : Follows k x2.m) :
    ∃ t, execAdapterRemove x0 x1 x2 = .next t ∧ t.pending = x2.pending ∧ Follows k t.m := by
  refine nextM_follows ?_
  repeat' (first | with_reducible assumption | (lift_lets; intro mm) | with_reducible (apply commandRow_follows) | with_reducible (apply adapterRun_follows) | with_reducible (apply foldl_follows) | split | intro _ | with_reducible (refine Follows.of_mk ?_ rfl rfl rfl rfl rfl rfl rfl rfl rfl))

theorem execAdapterContainerRead_follows {k : Mach} (x0 : List Byte) (x1 : State) (h0 : Follows k x1.m) :
    ∃ t, execAdapterContainerRead x0 x1 = .next t ∧ t.pending = x1.pending ∧ Follows k t.m := by
  refine nextM_follows ?_
  split
  · exact h0
  · split
    · exact h0
    · extract_lets m1 m2
      have h1 : Follows k m1 := h0.of_eq rfl rfl rfl rfl rfl rfl rfl rfl rfl
      clear_value m1
      split
      · refine adapterResult_follows _ _ (setAdapter_follows _ _ _ ?_)
        unfold m2
        cases m1.job with
        | none => exact h1
        | some j => exact dmaHbm_follows _ _ _ h1
      · exact adapterResult_follows _ _ h1

theorem adapterReadFailed_follows {k : Mach} (x0 : Mach) (h0 : Follows k x0) :
    Follows k (adapterReadFailed x0) := by
  unfold adapterReadFailed
  repeat' (first | with_reducible assumption | (lift_lets; intro mm) | with_reducible (apply adapterResult_follows) | with_reducible (apply foldl_follows) | split | intro _ | with_reducible (refine Follows.of_mk ?_ rfl rfl rfl rfl rfl rfl rfl rfl rfl))

theorem execTokenEnvelopeWrite_follows {k : Mach} (x0 : Via) (x1 : List Byte) (x2 : State) (h0 : Follows k x2.m) :
    ∃ t, execTokenEnvelopeWrite x0 x1 x2 = .next t ∧ t.pending = x2.pending ∧ Follows k t.m := by
  refine nextM_follows ?_
  repeat' (first | with_reducible assumption | (lift_lets; intro mm) | with_reducible (apply commandRow_follows) | with_reducible (apply answer_follows) | with_reducible (apply accept_follows) | with_reducible (apply foldl_follows) | split | intro _ | with_reducible (refine Follows.of_mk ?_ rfl rfl rfl rfl rfl rfl rfl rfl rfl))

theorem sendScratch_follows {k : Mach} (x0 : Mach) (x1 : Job) (x2 : Nat) (x3 : Cargo) (x4 : List Byte) (h0 : Follows k x0) :
    Follows k (sendScratch x0 x1 x2 x3 x4) := by
  unfold sendScratch
  repeat' (first | with_reducible assumption | (lift_lets; intro mm) | with_reducible (apply scratchArrives_follows) | with_reducible (apply draw_follows) | (refine draw_follows' _ ?_ _ _ (by assumption)) | with_reducible (apply enterPacket_follows) | with_reducible (apply foldl_follows) | split | intro _ | with_reducible (refine Follows.of_mk ?_ rfl rfl rfl rfl rfl rfl rfl rfl rfl))

theorem feedPrompt_follows {k : Mach} (x0 : Mach) (x1 : Job) (x2 : Nat) (h0 : Follows k x0) :
    Follows k (feedPrompt x0 x1 x2) := by
  unfold feedPrompt
  repeat' (first | with_reducible assumption | (lift_lets; intro mm) | with_reducible (apply setCtx_follows) | with_reducible (apply serveHbm_follows) | with_reducible (apply sendScratch_follows) | with_reducible (apply foldl_follows) | split | intro _ | with_reducible (refine Follows.of_mk ?_ rfl rfl rfl rfl rfl rfl rfl rfl rfl))

theorem execContextAdmit_follows {k : Mach} (x0 : Fin 16384) (x1 : State) (h0 : Follows k x1.m) :
    ∃ t, execContextAdmit x0 x1 = .next t ∧ t.pending = x1.pending ∧ Follows k t.m := by
  refine nextM_follows ?_
  repeat' (first | with_reducible assumption | (lift_lets; intro mm) | with_reducible (apply waitForPages_follows) | with_reducible (apply feedPrompt_follows) | with_reducible (apply setCtx_follows) | with_reducible (apply foldl_follows) | split | intro _ | with_reducible (refine Follows.of_mk ?_ rfl rfl rfl rfl rfl rfl rfl rfl rfl))

theorem commitPass_follows {k : Mach} (x0 : Mach) (x1 : Image) (x2 : Pass) (h0 : Follows k x0) :
    Follows k (commitPass x0 x1 x2) := by
  unfold commitPass
  repeat' (first | with_reducible assumption | (lift_lets; intro mm) | with_reducible (apply commitProfile_follows) | with_reducible (apply setCtx_follows) | with_reducible (apply foldl_follows) | split | intro _ | with_reducible (refine Follows.of_mk ?_ rfl rfl rfl rfl rfl rfl rfl rfl rfl))

theorem fixEntries_follows {k : Mach} (x0 : Image) (x1 : Nat) (x2 : List Nat) (x3 : Mach) (h0 : Follows k x3) :
    Follows k (fixEntries x0 x1 x2 x3).1 := by
  induction x2 generalizing x3 with
  | nil => exact h0
  | cons c rest ih =>
    unfold fixEntries
    split
    · exact ih _ h0
    · dsimp only
      split
      · dsimp only
        split
        · exact h0.of_eq rfl rfl rfl rfl rfl rfl rfl rfl rfl
        · exact h0
      · exact ih _ (commitPass_follows _ _ _ h0)

theorem fixEntries_follows' {k : Mach} (x0 : Image) (x1 : Nat) (x2 : List Nat) (x3 : Mach) (h0 : Follows k x3) :
    ∀ a z, fixEntries x0 x1 x2 x3 = (z, a) → Follows k z := by
  intro a z e
  have := fixEntries_follows x0 x1 x2 x3  h0 (k := k)
  rw [e] at this
  exact this

theorem sendList_follows {k : Mach} (x0 : Mach) (x1 : Job) (x2 : Nat) (h0 : Follows k x0) :
    Follows k (sendList x0 x1 x2) := by
  unfold sendList
  repeat' (first | with_reducible assumption | (lift_lets; intro mm) | with_reducible (apply sendScratch_follows) | with_reducible (apply foldl_follows) | split | intro _ | with_reducible (refine Follows.of_mk ?_ rfl rfl rfl rfl rfl rfl rfl rfl rfl))

theorem execEntryListFix_follows {k : Mach} (x0 : Nat) (x1 : State) (h0 : Follows k x1.m) :
    ∃ t, execEntryListFix x0 x1 = .next t ∧ t.pending = x1.pending ∧ Follows k t.m := by
  refine nextM_follows ?_
  repeat' (first | with_reducible assumption | (lift_lets; intro mm) | with_reducible (apply resumeAll_follows) | with_reducible (apply sendList_follows) | with_reducible (apply fixEntries_follows) | (refine fixEntries_follows' _ _ _ _ ?_ _ _ (by assumption)) | with_reducible (apply serves_follows) | with_reducible (apply foldl_follows) | split | intro _ | with_reducible (refine Follows.of_mk ?_ rfl rfl rfl rfl rfl rfl rfl rfl rfl))

theorem enterPass_follows {k : Mach} (x0 : Mach) (x1 : Job) (x2 : Pass) (h0 : Follows k x0) :
    Follows k (enterPass x0 x1 x2) := by
  unfold enterPass
  repeat' (first | with_reducible assumption | (lift_lets; intro mm) | with_reducible (apply setCtx_follows) | with_reducible (apply setAdapter_follows) | with_reducible (apply feedPrompt_follows) | with_reducible (apply descriptorPause_follows) | with_reducible (apply foldl_follows) | split | intro _ | with_reducible (refine Follows.of_mk ?_ rfl rfl rfl rfl rfl rfl rfl rfl rfl))

theorem missPass_follows {k : Mach} (x0 : Mach) (x1 : Image) (x2 : Pass) (h0 : Follows k x0) :
    Follows k (missPass x0 x1 x2) := by
  unfold missPass
  repeat' (first | with_reducible assumption | (lift_lets; intro mm) | with_reducible (apply releaseProfile_follows) | with_reducible (apply setCtx_follows) | with_reducible (apply foldl_follows) | split | intro _ | with_reducible (refine Follows.of_mk ?_ rfl rfl rfl rfl rfl rfl rfl rfl rfl))

theorem enterListed_follows {k : Mach} (x0 : Mach) (x1 : Job) (x2 : Pass) (h0 : Follows k x0) :
    Follows k (enterListed x0 x1 x2) := by
  unfold enterListed
  repeat' (first | with_reducible assumption | (lift_lets; intro mm) | with_reducible (apply enterPass_follows) | with_reducible (apply missPass_follows) | with_reducible (apply foldl_follows) | split | intro _ | with_reducible (refine Follows.of_mk ?_ rfl rfl rfl rfl rfl rfl rfl rfl rfl))

theorem enterChain_follows {k : Mach} (x0 : Mach) (x1 : Job) (x2 : Nat) (x3 : Chain) (h0 : Follows k x0) :
    Follows k (enterChain x0 x1 x2 x3) := by
  unfold enterChain
  repeat' (first | with_reducible assumption | (lift_lets; intro mm) | with_reducible (apply setCtx_follows) | with_reducible (apply enterPass_follows) | with_reducible (apply foldl_follows) | split | intro _ | with_reducible (refine Follows.of_mk ?_ rfl rfl rfl rfl rfl rfl rfl rfl rfl))

theorem driftStep_follows {k : Mach} (x0 : Mach) (x1 : Nat) (h0 : Follows k x0) :
    Follows k (driftStep x0 x1) := by
  unfold driftStep
  repeat' (first | with_reducible assumption | (lift_lets; intro mm) | with_reducible (apply foldl_follows) | split | intro _ | with_reducible (refine Follows.of_mk ?_ rfl rfl rfl rfl rfl rfl rfl rfl rfl))

theorem enterBeat_follows {k : Mach} (x0 : Mach) (x1 : Job) (x2 : Nat) (h0 : Follows k x0) :
    Follows k (enterBeat x0 x1 x2) := by
  unfold enterBeat
  repeat' (first | with_reducible assumption | (lift_lets; intro mm) | with_reducible (apply driftStep_follows) | with_reducible (apply serves_follows) | with_reducible (apply enterChain_follows) | with_reducible (apply enterListed_follows) | with_reducible (apply missPass_follows) | with_reducible (apply foldl_follows) | split | intro _ | with_reducible (refine Follows.of_mk ?_ rfl rfl rfl rfl rfl rfl rfl rfl rfl))

theorem serveStart_follows {k : Mach} (x0 : Mach) (x1 : Nat) (h0 : Follows k x0) :
    Follows k (serveStart x0 x1) := by
  unfold serveStart
  repeat' (first | with_reducible assumption | (lift_lets; intro mm) | with_reducible (apply sampleUpTo_follows) | with_reducible (apply enterBeat_follows) | with_reducible (apply foldl_follows) | split | intro _ | with_reducible (refine Follows.of_mk ?_ rfl rfl rfl rfl rfl rfl rfl rfl rfl))

theorem closeCtx_follows {k : Mach} (x0 : Mach) (x1 : Nat) (x2 : Nat) (x3 : Nat) (h0 : Follows k x0) :
    Follows k (closeCtx x0 x1 x2 x3) := by
  unfold closeCtx
  repeat' (first | with_reducible assumption | (lift_lets; intro mm) | with_reducible (apply count_follows) | with_reducible (apply setCtx_follows) | with_reducible (apply serves_follows) | with_reducible (apply toEnding_follows) | with_reducible (apply foldl_follows) | split | intro _ | with_reducible (refine Follows.of_mk ?_ rfl rfl rfl rfl rfl rfl rfl rfl rfl))

theorem retirePasses_follows {k : Mach} (x0 : Mach) (x1 : Nat) (x2 : Nat) (h0 : Follows k x0) :
    Follows k (retirePasses x0 x1 x2) := by
  unfold retirePasses
  repeat' (first | with_reducible assumption | (lift_lets; intro mm) | with_reducible (apply setCtx_follows) | with_reducible (apply foldl_follows) | split | intro _ | with_reducible (refine Follows.of_mk ?_ rfl rfl rfl rfl rfl rfl rfl rfl rfl))

theorem serveClose_follows {k : Mach} (x0 : Mach) (x1 : Nat) (x2 : Nat) (h0 : Follows k x0) :
    Follows k (serveClose x0 x1 x2) := by
  unfold serveClose
  repeat' (first | with_reducible assumption | (lift_lets; intro mm) | with_reducible (apply sampleUpTo_follows) | with_reducible (apply closeCtx_follows) | with_reducible (apply flushAll_follows) | with_reducible (apply retirePasses_follows) | with_reducible (apply foldl_follows) | split | intro _ | with_reducible (refine Follows.of_mk ?_ rfl rfl rfl rfl rfl rfl rfl rfl rfl))

theorem endUnloaded_follows {k : Mach} (x0 : Mach) (x1 : List Nat) (h0 : Follows k x0) :
    Follows k (endUnloaded x0 x1) := by
  unfold endUnloaded
  repeat' (first | with_reducible assumption | (lift_lets; intro mm) | with_reducible (apply endStatus_follows) | with_reducible (apply foldl_follows) | split | intro _ | with_reducible (refine Follows.of_mk ?_ rfl rfl rfl rfl rfl rfl rfl rfl rfl))

theorem execDrainTimeout_follows {k : Mach} (x0 : State) (h0 : Follows k x0.m) :
    ∃ t, execDrainTimeout x0 = .next t ∧ t.pending = x0.pending ∧ Follows k t.m := by
  refine nextM_follows ?_
  repeat' (first | with_reducible assumption | (lift_lets; intro mm) | with_reducible (apply advance_follows) | with_reducible (apply endUnloaded_follows) | with_reducible (apply count_follows) | with_reducible (apply foldl_follows) | split | intro _ | with_reducible (refine Follows.of_mk ?_ rfl rfl rfl rfl rfl rfl rfl rfl rfl))

end Sys2Proof.Machine
end

