-- ==== Sys2Proof/Laws/FollowsHall.lean ====
section
/-! SUPPORT. The operations and the meanings of Machine/Hall.lean keep what `Follows` names. -/

namespace Sys2Proof.Machine

theorem countDiscard_follows {k : Mach} (x0 : Mach) (x1 : Nat) (h0 : Follows k x0) :
    Follows k (countDiscard x0 x1) := by
  unfold countDiscard
  repeat' (first | with_reducible assumption | (lift_lets; intro mm) | with_reducible (apply countDune_follows) | with_reducible (apply count_follows) | split | intro _ | with_reducible (refine Follows.of_mk ?_ rfl rfl rfl rfl rfl rfl rfl rfl rfl))

theorem onMessage_follows {k : Mach} (x0 : Mach) (x1 : Nat) (x2 : Nat) (x3 : MeshMsg) (x4 : Mach → Mach) (hx4 : ∀ y0, Follows k y0 → Follows k (x4 y0)) (h0 : Follows k x0) :
    Follows k (onMessage x0 x1 x2 x3 x4) := by
  unfold onMessage
  repeat' (first | with_reducible assumption | (lift_lets; intro mm) | with_reducible (apply countDiscard_follows) | with_reducible (apply hx4) | split | intro _ | with_reducible (refine Follows.of_mk ?_ rfl rfl rfl rfl rfl rfl rfl rfl rfl))

theorem relayCtrl_follows {k : Mach} (x0 : Mach) (x1 : Option Nat) (x2 : Nat) (x3 : Nat) (x4 : Nat) (x5 : MeshMsg) (h0 : Follows k x0) :
    Follows k (relayCtrl x0 x1 x2 x3 x4 x5) := by
  unfold relayCtrl
  repeat' (first | with_reducible assumption | (lift_lets; intro mm) | with_reducible (apply sendClass_follows) | with_reducible (apply foldl_follows) | split | intro _ | with_reducible (refine Follows.of_mk ?_ rfl rfl rfl rfl rfl rfl rfl rfl rfl))

theorem originate_follows {k : Mach} (x0 : Mach) (x1 : MeshMsg) (h0 : Follows k x0) :
    Follows k (originate x0 x1) := by
  unfold originate
  repeat' (first | with_reducible assumption | (lift_lets; intro mm) | with_reducible (apply relayCtrl_follows) | split | intro _ | with_reducible (refine Follows.of_mk ?_ rfl rfl rfl rfl rfl rfl rfl rfl rfl))

theorem broadcastJob_follows {k : Mach} (x0 : Mach) (x1 : Nat) (x2 : Nat) (x3 : W32) (x4 : W32) (x5 : W32) (h0 : Follows k x0) :
    Follows k (broadcastJob x0 x1 x2 x3 x4 x5) := by
  unfold broadcastJob
  repeat' (first | with_reducible assumption | (lift_lets; intro mm) | with_reducible (apply originate_follows) | with_reducible (apply postMesh_follows) | split | intro _ | with_reducible (refine Follows.of_mk ?_ rfl rfl rfl rfl rfl rfl rfl rfl rfl))

theorem noteBeat_follows {k : Mach} (x0 : Mach) (x1 : Nat) (h0 : Follows k x0) :
    Follows k (noteBeat x0 x1) := by
  unfold noteBeat
  repeat' (first | with_reducible assumption | (lift_lets; intro mm) | split | intro _ | with_reducible (refine Follows.of_mk ?_ rfl rfl rfl rfl rfl rfl rfl rfl rfl))

theorem announcePeriod_follows {k : Mach} (x0 : Mach) (x1 : Nat) (x2 : Nat) (x3 : Nat) (h0 : Follows k x0) :
    Follows k (announcePeriod x0 x1 x2 x3) := by
  unfold announcePeriod
  repeat' (first | with_reducible assumption | (lift_lets; intro mm) | with_reducible (apply noteBeat_follows) | with_reducible (apply broadcastJob_follows) | split | intro _ | with_reducible (refine Follows.of_mk ?_ rfl rfl rfl rfl rfl rfl rfl rfl rfl))

theorem announcePause_follows {k : Mach} (x0 : Mach) (x1 : Nat) (h0 : Follows k x0) :
    Follows k (announcePause x0 x1) := by
  unfold announcePause
  repeat' (first | with_reducible assumption | (lift_lets; intro mm) | with_reducible (apply broadcastJob_follows) | with_reducible (apply noteBeat_follows) | split | intro _ | with_reducible (refine Follows.of_mk ?_ rfl rfl rfl rfl rfl rfl rfl rfl rfl))

theorem announceResume_follows {k : Mach} (x0 : Mach) (x1 : Nat) (h0 : Follows k x0) :
    Follows k (announceResume x0 x1) := by
  unfold announceResume
  repeat' (first | with_reducible assumption | (lift_lets; intro mm) | with_reducible (apply broadcastJob_follows) | split | intro _ | with_reducible (refine Follows.of_mk ?_ rfl rfl rfl rfl rfl rfl rfl rfl rfl))

theorem announceLevel_follows {k : Mach} (x0 : Mach) (h0 : Follows k x0) :
    Follows k (announceLevel x0) := by
  unfold announceLevel
  repeat' (first | with_reducible assumption | (lift_lets; intro mm) | with_reducible (apply emit_follows) | with_reducible (apply draw_follows) | (refine draw_follows' _ ?_ _ _ (by assumption)) | with_reducible (apply announcePeriod_follows) | split | intro _ | with_reducible (refine Follows.of_mk ?_ rfl rfl rfl rfl rfl rfl rfl rfl rfl))

theorem announceFix_follows {k : Mach} (x0 : Mach) (x1 : Nat) (x2 : Nat) (h0 : Follows k x0) :
    Follows k (announceFix x0 x1 x2) := by
  unfold announceFix
  repeat' (first | with_reducible assumption | (lift_lets; intro mm) | with_reducible (apply broadcastJob_follows) | split | intro _ | with_reducible (refine Follows.of_mk ?_ rfl rfl rfl rfl rfl rfl rfl rfl rfl))

end Sys2Proof.Machine
end

