-- ==== Sys2Proof/Laws/FollowsWeights.lean ====
section
/-! SUPPORT. The operations and the meanings of Machine/Weights.lean keep what `Follows` names. -/

namespace Sys2Proof.Machine

theorem setReplState_follows {k : Mach} (x0 : Mach) (x1 : Nat) (h0 : Follows k x0) :
    Follows k (setReplState x0 x1) := by
  unfold setReplState
  repeat' (first | with_reducible assumption | (lift_lets; intro mm) | with_reducible (apply odSet_follows) | with_reducible (apply foldl_follows) | split | intro _ | with_reducible (refine Follows.of_mk ?_ rfl rfl rfl rfl rfl rfl rfl rfl rfl))

theorem endRepl_follows {k : Mach} (x0 : Mach) (x1 : Nat) (h0 : Follows k x0) :
    Follows k (endRepl x0 x1) := by
  unfold endRepl
  repeat' (first | with_reducible assumption | (lift_lets; intro mm) | with_reducible (apply count_follows) | with_reducible (apply odSet_follows) | with_reducible (apply setReplState_follows) | with_reducible (apply foldl_follows) | split | intro _ | with_reducible (refine Follows.of_mk ?_ rfl rfl rfl rfl rfl rfl rfl rfl rfl))

theorem refuseCommand_follows {k : Mach} (x0 : Mach) (x1 : Via) (x2 : Option Reply) (x3 : Nat) (x4 : Bool) (h0 : Follows k x0) :
    Follows k (refuseCommand x0 x1 x2 x3 x4) := by
  unfold refuseCommand
  repeat' (first | with_reducible assumption | (lift_lets; intro mm) | with_reducible (apply odSet_follows) | with_reducible (apply answer_follows) | with_reducible (apply count_follows) | with_reducible (apply foldl_follows) | split | intro _ | with_reducible (refine Follows.of_mk ?_ rfl rfl rfl rfl rfl rfl rfl rfl rfl))

theorem dropLatent_follows {k : Mach} (x0 : Mach) (h0 : Follows k x0) :
    Follows k (dropLatent x0) := by
  unfold dropLatent
  repeat' (first | with_reducible assumption | (lift_lets; intro mm) | with_reducible (apply foldl_follows) | split | intro _ | with_reducible (refine Follows.of_mk ?_ rfl rfl rfl rfl rfl rfl rfl rfl rfl))

theorem abandonRepl_follows {k : Mach} (x0 : Mach) (h0 : Follows k x0) :
    Follows k (abandonRepl x0) := by
  unfold abandonRepl
  repeat' (first | with_reducible assumption | (lift_lets; intro mm) | with_reducible (apply endRepl_follows) | with_reducible (apply dropLatent_follows) | with_reducible (apply foldl_follows) | split | intro _ | with_reducible (refine Follows.of_mk ?_ rfl rfl rfl rfl rfl rfl rfl rfl rfl))

theorem countBeyond_follows {k : Mach} (x0 : Mach) (x1 : List Byte) (x2 : Option Image) (h0 : Follows k x0) :
    Follows k (countBeyond x0 x1 x2) := by
  unfold countBeyond
  repeat' (first | with_reducible assumption | (lift_lets; intro mm) | with_reducible (apply count_follows) | with_reducible (apply foldl_follows) | split | intro _ | with_reducible (refine Follows.of_mk ?_ rfl rfl rfl rfl rfl rfl rfl rfl rfl))

theorem replaceRun_follows {k : Mach} (x0 : Mach) (x1 : Via) (x2 : List Byte) (x3 : Option Image) (x4 : Option Reply) (h0 : Follows k x0) :
    Follows k (replaceRun x0 x1 x2 x3 x4) := by
  unfold replaceRun
  repeat' (first | with_reducible assumption | (lift_lets; intro mm) | with_reducible (apply refuseCommand_follows) | with_reducible (apply giveFirst_follows) | with_reducible (apply abandonRepl_follows) | with_reducible (apply answer_follows) | with_reducible (apply readImage_follows) | with_reducible (apply countBeyond_follows) | with_reducible (apply holdAnswer_follows) | with_reducible (apply setReplState_follows) | with_reducible (apply foldl_follows) | split | intro _ | with_reducible (refine Follows.of_mk ?_ rfl rfl rfl rfl rfl rfl rfl rfl rfl))

theorem execReplaceAbandon_follows {k : Mach} (x0 : Via) (x1 : List Byte) (x2 : State) (h0 : Follows k x2.m) :
    ∃ t, execReplaceAbandon x0 x1 x2 = .next t ∧ t.pending = x2.pending ∧ Follows k t.m := by
  refine nextM_follows ?_
  repeat' (first | with_reducible assumption | (lift_lets; intro mm) | with_reducible (apply commandRow_follows) | with_reducible (apply replaceRun_follows) | with_reducible (apply foldl_follows) | split | intro _ | with_reducible (refine Follows.of_mk ?_ rfl rfl rfl rfl rfl rfl rfl rfl rfl))

theorem execReplaceFixNow_follows {k : Mach} (x0 : Via) (x1 : List Byte) (x2 : Image) (x3 : State) (h0 : Follows k x3.m) :
    ∃ t, execReplaceFixNow x0 x1 x2 x3 = .next t ∧ t.pending = x3.pending ∧ Follows k t.m := by
  refine nextM_follows ?_
  repeat' (first | with_reducible assumption | (lift_lets; intro mm) | with_reducible (apply commandRow_follows) | with_reducible (apply replaceRun_follows) | with_reducible (apply foldl_follows) | split | intro _ | with_reducible (refine Follows.of_mk ?_ rfl rfl rfl rfl rfl rfl rfl rfl rfl))

theorem execReplaceFixAfterDrain_follows {k : Mach} (x0 : Via) (x1 : List Byte) (x2 : Image) (x3 : State) (h0 : Follows k x3.m) :
    ∃ t, execReplaceFixAfterDrain x0 x1 x2 x3 = .next t ∧ t.pending = x3.pending ∧ Follows k t.m := by
  refine nextM_follows ?_
  repeat' (first | with_reducible assumption | (lift_lets; intro mm) | with_reducible (apply commandRow_follows) | with_reducible (apply replaceRun_follows) | with_reducible (apply foldl_follows) | split | intro _ | with_reducible (refine Follows.of_mk ?_ rfl rfl rfl rfl rfl rfl rfl rfl rfl))

theorem execReplaceInPlace_follows {k : Mach} (x0 : Via) (x1 : List Byte) (x2 : Image) (x3 : State) (h0 : Follows k x3.m) :
    ∃ t, execReplaceInPlace x0 x1 x2 x3 = .next t ∧ t.pending = x3.pending ∧ Follows k t.m := by
  refine nextM_follows ?_
  repeat' (first | with_reducible assumption | (lift_lets; intro mm) | with_reducible (apply commandRow_follows) | with_reducible (apply replaceRun_follows) | with_reducible (apply foldl_follows) | split | intro _ | with_reducible (refine Follows.of_mk ?_ rfl rfl rfl rfl rfl rfl rfl rfl rfl))

theorem fillLoadBuffer_follows {k : Mach} (x0 : Mach) (x1 : Image) (h0 : Follows k x0) :
    Follows k (fillLoadBuffer x0 x1) := by
  unfold fillLoadBuffer
  repeat' (first | with_reducible assumption | (lift_lets; intro mm) | with_reducible (apply dmaHbm_follows) | with_reducible (apply foldl_follows) | split | intro _ | with_reducible (refine Follows.of_mk ?_ rfl rfl rfl rfl rfl rfl rfl rfl rfl))

theorem fillBuffer_follows {k : Mach} (x0 : Mach) (x1 : Job) (x2 : Image) (h0 : Follows k x0) :
    Follows k (fillBuffer x0 x1 x2) := by
  unfold fillBuffer
  repeat' (first | with_reducible assumption | (lift_lets; intro mm) | with_reducible (apply dmaHbm_follows) | with_reducible (apply foldl_follows) | split | intro _ | with_reducible (refine Follows.of_mk ?_ rfl rfl rfl rfl rfl rfl rfl rfl rfl))

theorem goldenLatent_follows {k : Mach} (x0 : Mach) (x1 : Job) (x2 : Image) (h0 : Follows k x0) :
    Follows k (goldenLatent x0 x1 x2) := by
  unfold goldenLatent
  repeat' (first | with_reducible assumption | (lift_lets; intro mm) | with_reducible (apply fillLoadBuffer_follows) | with_reducible (apply goldenSet_follows) | with_reducible (apply foldl_follows) | split | intro _ | with_reducible (refine Follows.of_mk ?_ rfl rfl rfl rfl rfl rfl rfl rfl rfl))

theorem execReplaceCheckComplete_follows {k : Mach} (x0 : State) (h0 : Follows k x0.m) :
    ∃ t, execReplaceCheckComplete x0 = .next t ∧ t.pending = x0.pending ∧ Follows k t.m := by
  refine nextM_follows ?_
  repeat' (first | with_reducible assumption | (lift_lets; intro mm) | with_reducible (apply giveFirst_follows) | with_reducible (apply endRepl_follows) | with_reducible (apply extendMeas_follows) | with_reducible (apply goldenLatent_follows) | with_reducible (apply setReplState_follows) | with_reducible (apply foldl_follows) | split | intro _ | with_reducible (refine Follows.of_mk ?_ rfl rfl rfl rfl rfl rfl rfl rfl rfl))

theorem buildLatentSite_follows {k : Mach} (x0 : Mach) (x1 : RowId) (x2 : Nat) (h0 : Follows k x0) :
    Follows k (buildLatentSite x0 x1 x2) := by
  unfold buildLatentSite
  repeat' (first | with_reducible assumption | (lift_lets; intro mm) | with_reducible (apply serveRecord_follows) | with_reducible (apply countStripFirings_follows) | with_reducible (apply countRow_follows) | with_reducible (apply setRow_follows) | with_reducible (apply foldl_follows) | split | intro _ | dsimp +zetaDelta only | with_reducible (refine Follows.of_mk ?_ rfl rfl rfl rfl rfl rfl rfl rfl rfl))

theorem buildLatent_follows {k : Mach} (x0 : Mach) (h0 : Follows k x0) :
    Follows k (buildLatent x0) := by
  unfold buildLatent
  repeat' (first | with_reducible assumption | (lift_lets; intro mm) | with_reducible (apply buildLatentSite_follows) | with_reducible (apply foldl_follows) | split | intro _ | with_reducible (refine Follows.of_mk ?_ rfl rfl rfl rfl rfl rfl rfl rfl rfl))

theorem announceReplFix_follows {k : Mach} (x0 : Mach) (h0 : Follows k x0) :
    Follows k (announceReplFix x0) := by
  unfold announceReplFix
  repeat' (first | with_reducible assumption | (lift_lets; intro mm) | with_reducible (apply announceFix_follows) | with_reducible (apply setReplState_follows) | with_reducible (apply foldl_follows) | split | intro _ | with_reducible (refine Follows.of_mk ?_ rfl rfl rfl rfl rfl rfl rfl rfl rfl))

theorem announceReplPause_follows {k : Mach} (x0 : Mach) (h0 : Follows k x0) :
    Follows k (announceReplPause x0) := by
  unfold announceReplPause
  repeat' (first | with_reducible assumption | (lift_lets; intro mm) | with_reducible (apply announcePause_follows) | with_reducible (apply setReplState_follows) | with_reducible (apply foldl_follows) | split | intro _ | with_reducible (refine Follows.of_mk ?_ rfl rfl rfl rfl rfl rfl rfl rfl rfl))

theorem replReady_follows {k : Mach} (x0 : Mach) (x1 : Replacement) (h0 : Follows k x0) :
    Follows k (replReady x0 x1) := by
  unfold replReady
  repeat' (first | with_reducible assumption | (lift_lets; intro mm) | with_reducible (apply setReplState_follows) | with_reducible (apply announceReplPause_follows) | with_reducible (apply announceReplFix_follows) | with_reducible (apply foldl_follows) | split | intro _ | with_reducible (refine Follows.of_mk ?_ rfl rfl rfl rfl rfl rfl rfl rfl rfl))

theorem execLatentBuildComplete_follows {k : Mach} (x0 : State) (h0 : Follows k x0.m) :
    ∃ t, execLatentBuildComplete x0 = .next t ∧ t.pending = x0.pending ∧ Follows k t.m := by
  refine nextM_follows ?_
  repeat' (first | with_reducible assumption | (lift_lets; intro mm) | with_reducible (apply setReplState_follows) | with_reducible (apply buildLatent_follows) | with_reducible (apply replReady_follows) | with_reducible (apply foldl_follows) | split | intro _ | with_reducible (refine Follows.of_mk ?_ rfl rfl rfl rfl rfl rfl rfl rfl rfl))

theorem execReplaceDrainComplete_follows {k : Mach} (x0 : State) (h0 : Follows k x0.m) :
    ∃ t, execReplaceDrainComplete x0 = .next t ∧ t.pending = x0.pending ∧ Follows k t.m := by
  refine nextM_follows ?_
  repeat' (first | with_reducible assumption | (lift_lets; intro mm) | with_reducible (apply announceReplFix_follows) | with_reducible (apply announceReplPause_follows) | with_reducible (apply foldl_follows) | split | intro _ | with_reducible (refine Follows.of_mk ?_ rfl rfl rfl rfl rfl rfl rfl rfl rfl))

theorem execReplaceBufferComplete_follows {k : Mach} (x0 : State) (h0 : Follows k x0.m) :
    ∃ t, execReplaceBufferComplete x0 = .next t ∧ t.pending = x0.pending ∧ Follows k t.m := by
  refine nextM_follows ?_
  split
  · exact h0
  · next r _ =>
    extract_lets state m1
    split
    · exact h0
    · split
      · have hb : Follows k ((x0.m.job.map fun j => fillBuffer x0.m j r.image).getD x0.m) := by
          cases x0.m.job with
          | none => exact h0
          | some j => exact fillBuffer_follows _ _ _ h0
        split
        · exact setReplState_follows _ _ (hb.of_eq rfl rfl rfl rfl rfl rfl rfl rfl rfl)
        · exact announceReplPause_follows _ (hb.of_eq rfl rfl rfl rfl rfl rfl rfl rfl rfl)
      · split
        · exact announceReplPause_follows _ h0
        · exact h0

theorem rewriteCode_follows {k : Mach} (x0 : Mach) (x1 : Job) (x2 : Image) (h0 : Follows k x0) :
    Follows k (rewriteCode x0 x1 x2) := by
  unfold rewriteCode
  repeat' (first | with_reducible assumption | (lift_lets; intro mm) | with_reducible (apply writePrograms_follows) | with_reducible (apply clearRows_follows) | with_reducible (apply foldl_follows) | split | intro _ | with_reducible (refine Follows.of_mk ?_ rfl rfl rfl rfl rfl rfl rfl rfl rfl))

theorem rewriteInPlace_follows {k : Mach} (x0 : Mach) (x1 : Job) (x2 : RowId) (x3 : Nat) (h0 : Follows k x0) :
    Follows k (rewriteInPlace x0 x1 x2 x3) := by
  unfold rewriteInPlace
  extract_lets w x due
  split
  · extract_lets vp record new m1
    have h1 : Follows k m1 := by
      refine foldl_follows _ (fun m k h => ?_) h0
      cases record k with
      | none => exact h
      | some d => exact serveRecord_follows _ _ _ _ h
    clear_value m1
    exact countStripFirings_follows _ _ _ (countRow_follows _ _ _ _ _ (setRow_follows _ _ _ h1))
  · exact h0

theorem overwriteGolden_follows {k : Mach} (x0 : Mach) (x1 : Job) (x2 : Image) (x3 : Nat → Bool) (h0 : Follows k x0) :
    Follows k (overwriteGolden x0 x1 x2 x3) := by
  unfold overwriteGolden
  repeat' (first | with_reducible assumption | (lift_lets; intro mm) | with_reducible (apply goldenSet_follows) | with_reducible (apply serveHbm_follows) | with_reducible (apply foldl_follows) | split | intro _ | with_reducible (refine Follows.of_mk ?_ rfl rfl rfl rfl rfl rfl rfl rfl rfl))

theorem beginRewrite_follows {k : Mach} (x0 : Mach) (x1 : Job) (x2 : Image) (h0 : Follows k x0) :
    Follows k (beginRewrite x0 x1 x2) := by
  unfold beginRewrite
  repeat' (first | with_reducible assumption | (lift_lets; intro mm) | with_reducible (apply setRow_follows) | with_reducible (apply overwriteGolden_follows) | with_reducible (apply foldl_follows) | split | intro _ | with_reducible (refine Follows.of_mk ?_ rfl rfl rfl rfl rfl rfl rfl rfl rfl))

theorem rewriteAll_follows {k : Mach} (x0 : Mach) (x1 : Job) (x2 : Image) (h0 : Follows k x0) :
    Follows k (rewriteAll x0 x1 x2) := by
  unfold rewriteAll
  repeat' (first | with_reducible assumption | (lift_lets; intro mm) | with_reducible (apply overwriteGolden_follows) | with_reducible (apply rewriteInPlace_follows) | with_reducible (apply foldl_follows) | split | intro _ | with_reducible (refine Follows.of_mk ?_ rfl rfl rfl rfl rfl rfl rfl rfl rfl))

theorem replPaused_follows {k : Mach} (x0 : Mach) (h0 : Follows k x0) :
    Follows k (replPaused x0) := by
  unfold replPaused
  repeat' (first | with_reducible assumption | (lift_lets; intro mm) | with_reducible (apply beginRewrite_follows) | with_reducible (apply setReplState_follows) | with_reducible (apply buildLatent_follows) | with_reducible (apply rewriteCode_follows) | with_reducible (apply announceResume_follows) | with_reducible (apply announceFix_follows) | with_reducible (apply foldl_follows) | split | intro _ | with_reducible (refine Follows.of_mk ?_ rfl rfl rfl rfl rfl rfl rfl rfl rfl))

theorem execInplaceRewriteComplete_follows {k : Mach} (x0 : State) (h0 : Follows k x0.m) :
    ∃ t, execInplaceRewriteComplete x0 = .next t ∧ t.pending = x0.pending ∧ Follows k t.m := by
  refine nextM_follows ?_
  repeat' (first | with_reducible assumption | (lift_lets; intro mm) | with_reducible (apply rewriteAll_follows) | with_reducible (apply announceResume_follows) | with_reducible (apply foldl_follows) | split | intro _ | with_reducible (refine Follows.of_mk ?_ rfl rfl rfl rfl rfl rfl rfl rfl rfl))

theorem replDone_follows {k : Mach} (x0 : Mach) (x1 : Nat) (h0 : Follows k x0) :
    Follows k (replDone x0 x1) := by
  unfold replDone
  repeat' (first | with_reducible assumption | (lift_lets; intro mm) | with_reducible (apply odSet_follows) | with_reducible (apply count_follows) | with_reducible (apply setReplState_follows) | with_reducible (apply foldl_follows) | split | intro _ | with_reducible (refine Follows.of_mk ?_ rfl rfl rfl rfl rfl rfl rfl rfl rfl))

theorem execStreamReadinessCheck_follows {k : Mach} (x0 : State) (h0 : Follows k x0.m) :
    ∃ t, execStreamReadinessCheck x0 = .next t ∧ t.pending = x0.pending ∧ Follows k t.m := by
  refine nextM_follows ?_
  repeat' (first | with_reducible assumption | (lift_lets; intro mm) | with_reducible (apply advance_follows) | with_reducible (apply announcePause_follows) | with_reducible (apply foldl_follows) | split | intro _ | with_reducible (refine Follows.of_mk ?_ rfl rfl rfl rfl rfl rfl rfl rfl rfl))

theorem execStreamReady_follows {k : Mach} (x0 : State) (h0 : Follows k x0.m) :
    ∃ t, execStreamReady x0 = .next t ∧ t.pending = x0.pending ∧ Follows k t.m := by
  refine nextM_follows ?_
  repeat' (first | with_reducible assumption | (lift_lets; intro mm) | with_reducible (apply buildLatent_follows) | with_reducible (apply announceResume_follows) | with_reducible (apply count_follows) | with_reducible (apply foldl_follows) | split | intro _ | with_reducible (refine Follows.of_mk ?_ rfl rfl rfl rfl rfl rfl rfl rfl rfl))

end Sys2Proof.Machine
end

