-- ==== Sys2Proof/Laws/FollowsRestart.lean ====
section
/-! SUPPORT. The operations and the meanings of Machine/Restart.lean keep what `Follows` names. -/

namespace Sys2Proof.Machine

theorem freezeDune_follows {k : Mach} (x0 : Mach) (x1 : DuneId) (h0 : Follows k x0) :
    Follows k (freezeDune x0 x1) := by
  unfold freezeDune
  repeat' (first | with_reducible assumption | (lift_lets; intro mm) | with_reducible (apply setDune_follows) | with_reducible (apply foldl_follows) | split | intro _ | with_reducible (refine Follows.of_mk ?_ rfl rfl rfl rfl rfl rfl rfl rfl rfl))

theorem freezeAll_follows {k : Mach} (x0 : Mach) (h0 : Follows k x0) :
    Follows k (freezeAll x0) := by
  unfold freezeAll
  repeat' (first | with_reducible assumption | (lift_lets; intro mm) | with_reducible (apply freezeDune_follows) | with_reducible (apply foldl_follows) | split | intro _ | with_reducible (refine Follows.of_mk ?_ rfl rfl rfl rfl rfl rfl rfl rfl rfl))

theorem sendFreeze_follows {k : Mach} (x0 : Mach) (x1 : Nat) (h0 : Follows k x0) :
    Follows k (sendFreeze x0 x1) := by
  unfold sendFreeze
  repeat' (first | with_reducible assumption | (lift_lets; intro mm) | with_reducible (apply broadcastJob_follows) | with_reducible (apply foldl_follows) | split | intro _ | with_reducible (refine Follows.of_mk ?_ rfl rfl rfl rfl rfl rfl rfl rfl rfl))

theorem beginSheet_follows {k : Mach} (x0 : Mach) (x1 : Nat) (h0 : Follows k x0) :
    Follows k (beginSheet x0 x1) := by
  unfold beginSheet
  repeat' (first | with_reducible assumption | (lift_lets; intro mm) | with_reducible (apply odSet_follows) | with_reducible (apply count_follows) | with_reducible (apply foldl_follows) | split | intro _ | with_reducible (refine Follows.of_mk ?_ rfl rfl rfl rfl rfl rfl rfl rfl rfl))

theorem signSheet_follows {k : Mach} (x0 : Mach) (x1 : Sheet) (h0 : Follows k x0) :
    Follows k (signSheet x0 x1).2 := by
  unfold signSheet
  repeat' (first | with_reducible assumption | (lift_lets; intro mm) | with_reducible (apply draw_follows) | (refine draw_follows' _ ?_ _ _ (by assumption)) | with_reducible (apply foldl_follows) | split | intro _ | with_reducible (refine Follows.of_mk ?_ rfl rfl rfl rfl rfl rfl rfl rfl rfl))

theorem signSheet_follows' {k : Mach} (x0 : Mach) (x1 : Sheet) (h0 : Follows k x0) :
    ∀ a z, signSheet x0 x1 = (a, z) → Follows k z := by
  intro a z e
  have := signSheet_follows x0 x1  h0 (k := k)
  rw [e] at this
  exact this

theorem completeSheet_follows {k : Mach} (x0 : Mach) (x1 : Nat) (x2 : Bool) (h0 : Follows k x0) :
    Follows k (completeSheet x0 x1 x2) := by
  unfold completeSheet
  repeat' (first | with_reducible assumption | (lift_lets; intro mm) | with_reducible (apply signSheet_follows) | (refine signSheet_follows' _ _ ?_ _ _ (by assumption)) | with_reducible (apply odSet_follows) | with_reducible (apply serveHbm_follows) | with_reducible (apply clearPatch_follows) | with_reducible (apply postEvent_follows) | with_reducible (apply foldl_follows) | split | intro _ | with_reducible (refine Follows.of_mk ?_ rfl rfl rfl rfl rfl rfl rfl rfl rfl))

theorem incompleteSheet_follows {k : Mach} (x0 : Mach) (x1 : Nat) (h0 : Follows k x0) :
    Follows k (incompleteSheet x0 x1) := by
  unfold incompleteSheet
  repeat' (first | with_reducible assumption | (lift_lets; intro mm) | with_reducible (apply odSet_follows) | with_reducible (apply foldl_follows) | split | intro _ | with_reducible (refine Follows.of_mk ?_ rfl rfl rfl rfl rfl rfl rfl rfl rfl))

theorem recordFault_follows {k : Mach} (x0 : Mach) (x1 : FaultRec) (h0 : Follows k x0) :
    Follows k (recordFault x0 x1) := by
  unfold recordFault
  repeat' (first | with_reducible assumption | (lift_lets; intro mm) | with_reducible (apply odSet_follows) | with_reducible (apply foldl_follows) | split | intro _ | with_reducible (refine Follows.of_mk ?_ rfl rfl rfl rfl rfl rfl rfl rfl rfl))

theorem sameBeat_follows {k : Mach} (x0 : Mach) (h0 : Follows k x0) :
    Follows k (sameBeat x0) := by
  unfold sameBeat
  repeat' (first | with_reducible assumption | (lift_lets; intro mm) | with_reducible (apply odSet_follows) | with_reducible (apply foldl_follows) | split | intro _ | with_reducible (refine Follows.of_mk ?_ rfl rfl rfl rfl rfl rfl rfl rfl rfl))

theorem dropAnswers_follows {k : Mach} (x0 : Mach) (h0 : Follows k x0) :
    Follows k (dropAnswers x0) := by
  unfold dropAnswers
  repeat' (first | with_reducible assumption | (lift_lets; intro mm) | with_reducible (apply answer_follows) | with_reducible (apply foldl_follows) | split | intro _ | with_reducible (refine Follows.of_mk ?_ rfl rfl rfl rfl rfl rfl rfl rfl rfl))

theorem moduleFault_follows {k : Mach} (x0 : Mach) (x1 : FaultRec) (h0 : Follows k x0) :
    Follows k (moduleFault x0 x1) := by
  unfold moduleFault
  repeat' (first | with_reducible assumption | (lift_lets; intro mm) | with_reducible (apply count_follows) | with_reducible (apply sendFreeze_follows) | with_reducible (apply recordFault_follows) | with_reducible (apply dropAnswers_follows) | with_reducible (apply beginSheet_follows) | with_reducible (apply setState_follows) | with_reducible (apply setReplState_follows) | with_reducible (apply foldl_follows) | split | intro _ | with_reducible (refine Follows.of_mk ?_ rfl rfl rfl rfl rfl rfl rfl rfl rfl))

theorem dunesOff_follows {k : Mach} (x0 : Mach) (h0 : Follows k x0) :
    Follows k (dunesOff x0) := by
  have key : ∀ m, Follows k m → Follows k { m with
      dunes := smap {} m.dunes fun _ d => { d with power := if d.power = .usable then .off else d.power, time := .acquire, copy := {}, beat := none }
      power := { m.power with dunesUp := false } } :=
    fun m h => ⟨h.sram, h.hbm, h.now, h.retirement, h.gradeE, h.steppingB1, h.badSites, h.badCores, h.badDunes⟩
  exact key _ (emptyFabric_follows _ (freezeAll_follows _ h0))

theorem dropJob_follows {k : Mach} (x0 : Mach) (h0 : Follows k x0) :
    Follows k (dropJob x0) := by
  unfold dropJob
  repeat' (first | with_reducible assumption | (lift_lets; intro mm) | with_reducible (apply clearRows_follows) | with_reducible (apply freezeAll_follows) | with_reducible (apply setReplState_follows) | with_reducible (apply foldl_follows) | split | intro _ | with_reducible (refine Follows.of_mk ?_ rfl rfl rfl rfl rfl rfl rfl rfl rfl))

theorem endAll_follows {k : Mach} (x0 : Mach) (x1 : Nat) (x2 : Nat) (h0 : Follows k x0) :
    Follows k (endAll x0 x1 x2) := by
  unfold endAll
  repeat' (first | with_reducible assumption | (lift_lets; intro mm) | with_reducible (apply endStatus_follows) | with_reducible (apply foldl_follows) | split | intro _ | with_reducible (refine Follows.of_mk ?_ rfl rfl rfl rfl rfl rfl rfl rfl rfl))

theorem enterFaulted_follows {k : Mach} (x0 : Mach) (h0 : Follows k x0) :
    Follows k (enterFaulted x0) := by
  unfold enterFaulted
  repeat' (first | with_reducible assumption | (lift_lets; intro mm) | with_reducible (apply endAll_follows) | with_reducible (apply setState_follows) | with_reducible (apply dropJob_follows) | with_reducible (apply dunesOff_follows) | with_reducible (apply foldl_follows) | split | intro _ | with_reducible (refine Follows.of_mk ?_ rfl rfl rfl rfl rfl rfl rfl rfl rfl))

theorem restartRequests_follows {k : Mach} (x0 : Mach) (h0 : Follows k x0) :
    Follows k (restartRequests x0) := by
  unfold restartRequests
  repeat' (first | with_reducible assumption | (lift_lets; intro mm) | with_reducible (apply flushAll_follows) | with_reducible (apply serves_follows) | with_reducible (apply endStatus_follows) | with_reducible (apply stopRestore_follows) | with_reducible (apply foldl_follows) | split | intro _ | with_reducible (refine Follows.of_mk ?_ rfl rfl rfl rfl rfl rfl rfl rfl rfl))

theorem replAtFault_follows {k : Mach} (x0 : Mach) (h0 : Follows k x0) :
    Follows k (replAtFault x0) := by
  unfold replAtFault
  repeat' (first | with_reducible assumption | (lift_lets; intro mm) | with_reducible (apply giveFirst_follows) | with_reducible (apply abandonRepl_follows) | with_reducible (apply foldl_follows) | split | intro _ | with_reducible (refine Follows.of_mk ?_ rfl rfl rfl rfl rfl rfl rfl rfl rfl))

theorem stepTwo_follows {k : Mach} (x0 : Mach) (h0 : Follows k x0) :
    Follows k (stepTwo x0) := by
  unfold stepTwo
  repeat' (first | with_reducible assumption | (lift_lets; intro mm) | with_reducible (apply restartRequests_follows) | with_reducible (apply replAtFault_follows) | with_reducible (apply beginSheet_follows) | with_reducible (apply foldl_follows) | split | intro _ | dsimp +zetaDelta only | with_reducible (refine Follows.of_mk ?_ rfl rfl rfl rfl rfl rfl rfl rfl rfl))

theorem closeBeat_follows {k : Mach} (x0 : Mach) (x1 : Nat) (h0 : Follows k x0) :
    Follows k (closeBeat x0 x1) := by
  unfold closeBeat
  repeat' (first | with_reducible assumption | (lift_lets; intro mm) | with_reducible (apply serveClose_follows) | with_reducible (apply foldl_follows) | split | intro _ | with_reducible (refine Follows.of_mk ?_ rfl rfl rfl rfl rfl rfl rfl rfl rfl))

theorem closeDue_follows {k : Mach} (x0 : Nat) (x1 : Mach) (x2 : Nat) (h0 : Follows k x1) :
    Follows k (closeDue x0 x1 x2) := by
  induction x0 generalizing x1 with
  | zero => exact h0
  | succ n ih =>
    unfold closeDue
    split
    · exact h0
    · dsimp only
      split
      · exact h0
      · exact ih _ (closeBeat_follows _ _ h0)

theorem holdBeat_follows {k : Mach} (x0 : Mach) (x1 : Nat) (h0 : Follows k x0) :
    Follows k (holdBeat x0 x1) := by
  unfold holdBeat
  repeat' (first | with_reducible assumption | (lift_lets; intro mm) | with_reducible (apply openFault_follows) | with_reducible (apply foldl_follows) | split | intro _ | with_reducible (refine Follows.of_mk ?_ rfl rfl rfl rfl rfl rfl rfl rfl rfl))

theorem giveUpDune_follows {k : Mach} (x0 : Mach) (x1 : FaultRec) (h0 : Follows k x0) :
    Follows k (giveUpDune x0 x1) := by
  unfold giveUpDune
  repeat' (first | with_reducible assumption | (lift_lets; intro mm) | with_reducible (apply foldl_follows) | split | intro _ | with_reducible (refine Follows.of_mk ?_ rfl rfl rfl rfl rfl rfl rfl rfl rfl))

theorem beginRestart_follows {k : Mach} (x0 : Mach) (x1 : FaultRec) (h0 : Follows k x0) :
    Follows k (beginRestart x0 x1) := by
  unfold beginRestart
  repeat' (first | with_reducible assumption | (lift_lets; intro mm) | with_reducible (apply recordFault_follows) | with_reducible (apply moduleFault_follows) | with_reducible (apply sendFreeze_follows) | with_reducible (apply postEvent_follows) | with_reducible (apply stepTwo_follows) | with_reducible (apply closeDue_follows) | with_reducible (apply setState_follows) | with_reducible (apply foldl_follows) | split | intro _ | with_reducible (refine Follows.of_mk ?_ rfl rfl rfl rfl rfl rfl rfl rfl rfl))

theorem joinRestart_follows {k : Mach} (x0 : Mach) (x1 : Restart) (x2 : FaultRec) (h0 : Follows k x0) :
    Follows k (joinRestart x0 x1 x2) := by
  unfold joinRestart
  repeat' (first | with_reducible assumption | (lift_lets; intro mm) | with_reducible (apply sameBeat_follows) | with_reducible (apply beginSheet_follows) | with_reducible (apply foldl_follows) | split | intro _ | with_reducible (refine Follows.of_mk ?_ rfl rfl rfl rfl rfl rfl rfl rfl rfl))

theorem handleFault_follows {k : Mach} (x0 : Mach) (x1 : FaultRec) (h0 : Follows k x0) :
    Follows k (handleFault x0 x1) := by
  unfold handleFault
  repeat' (first | with_reducible assumption | (lift_lets; intro mm) | with_reducible (apply moduleFault_follows) | with_reducible (apply holdBeat_follows) | with_reducible (apply giveUpDune_follows) | with_reducible (apply count_follows) | with_reducible (apply joinRestart_follows) | with_reducible (apply beginRestart_follows) | with_reducible (apply recordFault_follows) | with_reducible (apply foldl_follows) | split | intro _ | with_reducible (refine Follows.of_mk ?_ rfl rfl rfl rfl rfl rfl rfl rfl rfl))

theorem settleRow_follows {k : Mach} (x0 : Mach) (x1 : RowId) (h0 : Follows k x0) :
    Follows k (settleRow x0 x1).1 := by
  unfold settleRow
  repeat' (first | with_reducible assumption | (lift_lets; intro mm) | with_reducible (apply retireSite_follows) | with_reducible (apply countRepeat_follows) | with_reducible (apply setRow_follows) | with_reducible (apply foldl_follows) | split | intro _ | with_reducible (refine Follows.of_mk ?_ rfl rfl rfl rfl rfl rfl rfl rfl rfl))

theorem settleRow_follows' {k : Mach} (x0 : Mach) (x1 : RowId) (h0 : Follows k x0) :
    ∀ a z, settleRow x0 x1 = (z, a) → Follows k z := by
  intro a z e
  have := settleRow_follows x0 x1  h0 (k := k)
  rw [e] at this
  exact this

theorem settleRows_follows {k : Mach} (x0 : List RowId) (x1 : Mach) (h0 : Follows k x1) :
    Follows k (settleRows x0 x1).1 := by
  induction x0 generalizing x1 with
  | nil => exact h0
  | cons r rest ih => exact ih _ (settleRow_follows _ _ h0)

theorem settleRows_follows' {k : Mach} (x0 : List RowId) (x1 : Mach) (h0 : Follows k x1) :
    ∀ a z, settleRows x0 x1 = (z, a) → Follows k z := by
  intro a z e
  have := settleRows_follows x0 x1  h0 (k := k)
  rw [e] at this
  exact this

theorem reexposeInPlace_follows {k : Mach} (x0 : Mach) (x1 : List SiteTrial) (x2 : RowId) (x3 : Nat) (x4 : MemDecl) (x5 : Nat) (h0 : Follows k x0) :
    Follows k (reexposeInPlace x0 x1 x2 x3 x4 x5) := by
  unfold reexposeInPlace
  repeat' (first | with_reducible assumption | (lift_lets; intro mm) | with_reducible (apply loadBanks_follows) | with_reducible (apply countRow_follows) | with_reducible (apply setRow_follows) | with_reducible (apply foldl_follows) | split | intro _ | with_reducible (refine Follows.of_mk ?_ rfl rfl rfl rfl rfl rfl rfl rfl rfl))

theorem restartRow_follows {k : Mach} (x0 : Mach) (x1 : List SiteTrial) (x2 : Job) (x3 : List (Nat × Nat)) (x4 : Nat) (x5 : RowId) (x6 : List Nat) (h0 : Follows k x0) :
    Follows k (restartRow x0 x1 x2 x3 x4 x5 x6) := by
  unfold restartRow
  repeat' (first | with_reducible assumption | (lift_lets; intro mm) | with_reducible (apply loadRow_follows) | with_reducible (apply mapSites_follows) | with_reducible (apply setRow_follows) | with_reducible (apply countRow_follows) | with_reducible (apply reexposeInPlace_follows) | with_reducible (apply foldl_follows) | split | intro _ | with_reducible (refine Follows.of_mk ?_ rfl rfl rfl rfl rfl rfl rfl rfl rfl))

theorem restartOnce_follows {k : Mach} (x0 : Mach) (x1 : List SiteTrial) (x2 : Job) (x3 : Nat) (h0 : Follows k x0) :
    Follows k (restartOnce x0 x1 x2 x3).1 := by
  unfold restartOnce
  extract_lets lost settled m0 fail m1
  have hs : Follows k m0 := settleRows_follows _ _ h0
  have hf : ∀ m c, Follows k m → Follows k (fail m c).1 := fun m c h => moduleFault_follows _ _ h
  have hr : Follows k m1 := readRecords_follows _ hs
  clear_value fail m1 m0
  split
  · exact hf _ _ (odSet_follows _ _ _ _ (odSet_follows _ _ _ _ hs))
  · split
    · extract_lets ma j' m3 rows m4 m5
      have ha : Follows k ma := Follows.of_mk hr rfl rfl rfl rfl rfl rfl rfl rfl rfl
      clear_value ma
      have h3 : Follows k m3 := Follows.of_mk ha rfl rfl rfl rfl rfl rfl rfl rfl rfl
      clear_value m3
      have h4 : Follows k m4 := foldl_follows _ (fun m x h => restartRow_follows _ _ _ _ _ _ _ h) h3
      clear_value m4
      have h5 : Follows k m5 := stampDunes_follows _ _ (writePrograms_follows _ _ _ _ (clearRows_follows _ h4))
      clear_value m5
      exact ⟨wf_filter _ h5.sram, h5.hbm, h5.now, h5.retirement, h5.gradeE, h5.steppingB1, h5.badSites, h5.badCores, h5.badDunes⟩
    · exact hf _ _ hr

theorem restartOnce_follows' {k : Mach} (x0 : Mach) (x1 : List SiteTrial) (x2 : Job) (x3 : Nat) (h0 : Follows k x0) :
    ∀ a z, restartOnce x0 x1 x2 x3 = (z, a) → Follows k z := by
  intro a z e
  have := restartOnce_follows x0 x1 x2 x3  h0 (k := k)
  rw [e] at this
  exact this

theorem restartAgain_follows {k : Mach} (x0 : Mach) (x1 : RowId) (x2 : Nat) (h0 : Follows k x0) :
    Follows k (restartAgain x0 x1 x2) := by
  unfold restartAgain
  repeat' (first | with_reducible assumption | (lift_lets; intro mm) | with_reducible (apply raiseFault_follows) | with_reducible (apply count_follows) | with_reducible (apply moduleFault_follows) | with_reducible (apply beginSheet_follows) | with_reducible (apply foldl_follows) | split | intro _ | with_reducible (refine Follows.of_mk ?_ rfl rfl rfl rfl rfl rfl rfl rfl rfl))

theorem restartRounds_follows {k : Mach} (x0 : Mach) (x1 : Job) (x2 : Nat) (x3 : List (List SiteTrial)) (h0 : Follows k x0) :
    Follows k (restartRounds x0 x1 x2 x3).1 := by
  induction x3 generalizing x0 x1 with
  | nil => exact restartOnce_follows _ _ _ _ h0
  | cons ts rest ih =>
    unfold restartRounds
    have hw := restartOnce_follows x0 ts x1 x2 h0
    generalize restartOnce x0 ts x1 x2 = w at hw ⊢
    dsimp only
    split
    · exact hw
    · split
      · exact hw
      · split
        · exact restartAgain_follows _ _ _ hw
        · exact ih _ _ hw

theorem restartRounds_follows' {k : Mach} (x0 : Mach) (x1 : Job) (x2 : Nat) (x3 : List (List SiteTrial)) (h0 : Follows k x0) :
    ∀ a z, restartRounds x0 x1 x2 x3 = (z, a) → Follows k z := by
  intro a z e
  have := restartRounds_follows x0 x1 x2 x3  h0 (k := k)
  rw [e] at this
  exact this

theorem restartWork_follows {k : Mach} (x0 : Mach) (x1 : Job) (x2 : Nat) (x3 : List (List SiteTrial)) (h0 : Follows k x0) :
    Follows k (restartWork x0 x1 x2 x3).1 := by
  unfold restartWork
  have hw := restartRounds_follows x0 x1 x2 x3 h0
  generalize restartRounds x0 x1 x2 x3 = w at hw ⊢
  dsimp only
  split
  · exact count_follows _ _ _ _ hw
  · exact hw

theorem restartWork_follows' {k : Mach} (x0 : Mach) (x1 : Job) (x2 : Nat) (x3 : List (List SiteTrial)) (h0 : Follows k x0) :
    ∀ a z, restartWork x0 x1 x2 x3 = (z, a) → Follows k z := by
  intro a z e
  have := restartWork_follows x0 x1 x2 x3  h0 (k := k)
  rw [e] at this
  exact this

theorem setAnchor_follows {k : Mach} (x0 : Mach) (x1 : Nat) (x2 : Nat) (x3 : Nat) (h0 : Follows k x0) :
    Follows k (setAnchor x0 x1 x2 x3) := by
  unfold setAnchor
  repeat' (first | with_reducible assumption | (lift_lets; intro mm) | with_reducible (apply setDune_follows) | with_reducible (apply writeTables_follows) | with_reducible (apply foldl_follows) | split | intro _ | with_reducible (refine Follows.of_mk ?_ rfl rfl rfl rfl rfl rfl rfl rfl rfl))

theorem rollFallback_follows {k : Mach} (x0 : Mach) (h0 : Follows k x0) :
    Follows k (rollFallback x0) := by
  unfold rollFallback
  repeat' (first | with_reducible assumption | (lift_lets; intro mm) | with_reducible (apply foldl_follows) | split | intro _ | with_reducible (refine Follows.of_mk ?_ rfl rfl rfl rfl rfl rfl rfl rfl rfl))

theorem resumeJob_follows {k : Mach} (x0 : Mach) (x1 : Restart) (x2 : Nat) (x3 : Nat) (h0 : Follows k x0) :
    Follows k (resumeJob x0 x1 x2 x3) := by
  unfold resumeJob
  repeat' (first | with_reducible assumption | (lift_lets; intro mm) | with_reducible (apply advance_follows) | with_reducible (apply setAnchor_follows) | with_reducible (apply applyClassB_follows) | with_reducible (apply rollFallback_follows) | with_reducible (apply count_follows) | with_reducible (apply odSet_follows) | with_reducible (apply setState_follows) | with_reducible (apply foldl_follows) | split | intro _ | with_reducible (refine Follows.of_mk ?_ rfl rfl rfl rfl rfl rfl rfl rfl rfl))

theorem chooseAnchor_follows {k : Mach} (x0 : Mach) (x1 : Nat) (x2 : Nat) (h0 : Follows k x0) :
    Follows k (chooseAnchor x0 x1 x2).2 := by
  unfold chooseAnchor
  repeat' (first | with_reducible assumption | (lift_lets; intro mm) | with_reducible (apply draw_follows) | (refine draw_follows' _ ?_ _ _ (by assumption)) | with_reducible (apply foldl_follows) | split | intro _ | with_reducible (refine Follows.of_mk ?_ rfl rfl rfl rfl rfl rfl rfl rfl rfl))

theorem chooseAnchor_follows' {k : Mach} (x0 : Mach) (x1 : Nat) (x2 : Nat) (h0 : Follows k x0) :
    ∀ a z, chooseAnchor x0 x1 x2 = (a, z) → Follows k z := by
  intro a z e
  have := chooseAnchor_follows x0 x1 x2  h0 (k := k)
  rw [e] at this
  exact this

end Sys2Proof.Machine
end

