-- ==== Sys2Proof/Laws/FollowsJobCtl.lean ====
section
/-! SUPPORT. The operations and the meanings of Machine/JobCtl.lean keep what `Follows` names. -/

namespace Sys2Proof.Machine

theorem reviveDunes_follows {k : Mach} (x0 : Mach) (h0 : Follows k x0) :
    Follows k (reviveDunes x0) := by
  unfold reviveDunes
  repeat' (first | with_reducible assumption | (lift_lets; intro mm) | with_reducible (apply foldl_follows) | split | intro _ | with_reducible (refine Follows.of_mk ?_ rfl rfl rfl rfl rfl rfl rfl rfl rfl))

theorem enterStandby_follows {k : Mach} (x0 : Mach) (h0 : Follows k x0) :
    Follows k (enterStandby x0) := by
  unfold enterStandby
  repeat' (first | with_reducible assumption | (lift_lets; intro mm) | with_reducible (apply odSet_follows) | with_reducible (apply moveRoot_follows) | with_reducible (apply setState_follows) | with_reducible (apply reviveDunes_follows) | with_reducible (apply foldl_follows) | split | intro _ | with_reducible (refine Follows.of_mk ?_ rfl rfl rfl rfl rfl rfl rfl rfl rfl))

theorem setLoadResult_follows {k : Mach} (x0 : Mach) (x1 : Nat) (x2 : Nat) (h0 : Follows k x0) :
    Follows k (setLoadResult x0 x1 x2) := by
  unfold setLoadResult
  repeat' (first | with_reducible assumption | (lift_lets; intro mm) | with_reducible (apply odSet_follows) | with_reducible (apply foldl_follows) | split | intro _ | with_reducible (refine Follows.of_mk ?_ rfl rfl rfl rfl rfl rfl rfl rfl rfl))

theorem refuseLoad_follows {k : Mach} (x0 : Mach) (x1 : Nat) (x2 : Nat) (h0 : Follows k x0) :
    Follows k (refuseLoad x0 x1 x2) := by
  unfold refuseLoad
  repeat' (first | with_reducible assumption | (lift_lets; intro mm) | with_reducible (apply giveAnswers_follows) | with_reducible (apply enterStandby_follows) | with_reducible (apply setLoadResult_follows) | with_reducible (apply foldl_follows) | split | intro _ | with_reducible (refine Follows.of_mk ?_ rfl rfl rfl rfl rfl rfl rfl rfl rfl))

theorem enterLoading_follows {k : Mach} (x0 : Mach) (h0 : Follows k x0) :
    Follows k (enterLoading x0) := by
  unfold enterLoading
  repeat' (first | with_reducible assumption | (lift_lets; intro mm) | with_reducible (apply odClear_follows) | with_reducible (apply setState_follows) | with_reducible (apply reviveDunes_follows) | with_reducible (apply draw_follows) | (refine draw_follows' _ ?_ _ _ (by assumption)) | with_reducible (apply odSet_follows) | with_reducible (apply writeTables_follows) | with_reducible (apply clearRows_follows) | with_reducible (apply foldl_follows) | split | intro _ | with_reducible (refine Follows.of_mk ?_ rfl rfl rfl rfl rfl rfl rfl rfl rfl))

theorem placeJob_follows {k : Mach} (x0 : Mach) (x1 : Job) (x2 : List (Nat × Nat)) (x3 : Nat) (h0 : Follows k x0) :
    Follows k (placeJob x0 x1 x2 x3) := by
  unfold placeJob
  repeat' (first | with_reducible assumption | (lift_lets; intro mm) | with_reducible (apply odSet_follows) | with_reducible (apply stampDunes_follows) | with_reducible (apply mapAllSites_follows) | with_reducible (apply foldl_follows) | split | intro _ | with_reducible (refine Follows.of_mk ?_ rfl rfl rfl rfl rfl rfl rfl rfl rfl))

theorem loadRun_follows {k : Mach} (x0 : Mach) (x1 : Via) (x2 : List Byte) (x3 : Option Image) (x4 : Option Reply) (h0 : Follows k x0) :
    Follows k (loadRun x0 x1 x2 x3 x4) := by
  unfold loadRun
  repeat' (first | with_reducible assumption | (lift_lets; intro mm) | with_reducible (apply holdAnswer_follows) | with_reducible (apply enterLoading_follows) | with_reducible (apply readImage_follows) | with_reducible (apply refuseLoad_follows) | with_reducible (apply count_follows) | with_reducible (apply placeJob_follows) | with_reducible (apply extendMeas_follows) | with_reducible (apply foldl_follows) | split | intro _ | with_reducible (refine Follows.of_mk ?_ rfl rfl rfl rfl rfl rfl rfl rfl rfl))

theorem loadLosesDune_follows {k : Mach} (x0 : Mach) (x1 : Nat) (h0 : Follows k x0) :
    Follows k (loadLosesDune x0 x1) := by
  unfold loadLosesDune
  repeat' (first | with_reducible assumption | (lift_lets; intro mm) | with_reducible (apply refuseLoad_follows) | with_reducible (apply placeJob_follows) | with_reducible (apply foldl_follows) | split | intro _ | with_reducible (refine Follows.of_mk ?_ rfl rfl rfl rfl rfl rfl rfl rfl rfl))

theorem startJob_follows {k : Mach} (x0 : Mach) (x1 : Nat) (h0 : Follows k x0) :
    Follows k (startJob x0 x1) := by
  unfold startJob
  repeat' (first | with_reducible assumption | (lift_lets; intro mm) | with_reducible (apply advance_follows) | with_reducible (apply setAnchor_follows) | with_reducible (apply announceLevel_follows) | with_reducible (apply resetWindows_follows) | with_reducible (apply setState_follows) | with_reducible (apply foldl_follows) | split | intro _ | with_reducible (refine Follows.of_mk ?_ rfl rfl rfl rfl rfl rfl rfl rfl rfl))

theorem placeRecords_follows {k : Mach} (x0 : Mach) (x1 : Job) (h0 : Follows k x0) :
    Follows k (placeRecords x0 x1) := by
  unfold placeRecords
  repeat' (first | with_reducible assumption | (lift_lets; intro mm) | with_reducible (apply placeRecord_follows) | with_reducible (apply fillLoadBuffer_follows) | with_reducible (apply foldl_follows) | split | intro _ | with_reducible (refine Follows.of_mk ?_ rfl rfl rfl rfl rfl rfl rfl rfl rfl))

theorem finishLoad_follows {k : Mach} (x0 : Mach) (x1 : List SiteTrial) (x2 : Job) (h0 : Follows k x0) :
    Follows k (finishLoad x0 x1 x2) := by
  unfold finishLoad
  repeat' (first | with_reducible assumption | (lift_lets; intro mm) | with_reducible (apply odSet_follows) | with_reducible (apply loadAllRows_follows) | with_reducible (apply clearRows_follows) | with_reducible (apply writePrograms_follows) | with_reducible (apply count_follows) | with_reducible (apply setLoadResult_follows) | with_reducible (apply foldl_follows) | split | intro _ | with_reducible (refine Follows.of_mk ?_ rfl rfl rfl rfl rfl rfl rfl rfl rfl))

theorem chooseT0_follows {k : Mach} (x0 : Mach) (h0 : Follows k x0) :
    Follows k (chooseT0 x0) := by
  unfold chooseT0
  repeat' (first | with_reducible assumption | (lift_lets; intro mm) | with_reducible (apply broadcastJob_follows) | with_reducible (apply foldl_follows) | split | intro _ | with_reducible (refine Follows.of_mk ?_ rfl rfl rfl rfl rfl rfl rfl rfl rfl))

theorem noteReport_follows {k : Mach} (x0 : Mach) (x1 : Nat) (h0 : Follows k x0) :
    Follows k (noteReport x0 x1) := by
  unfold noteReport
  repeat' (first | with_reducible assumption | (lift_lets; intro mm) | with_reducible (apply foldl_follows) | split | intro _ | with_reducible (refine Follows.of_mk ?_ rfl rfl rfl rfl rfl rfl rfl rfl rfl))

theorem loseSite_follows {k : Mach} (x0 : MemDecl) (x1 : Mach) (x2 : SiteTrial) (h0 : Follows k x1) :
    Follows k (loseSite x0 x1 x2) := by
  unfold loseSite
  repeat' (first | with_reducible assumption | (lift_lets; intro mm) | with_reducible (apply retireSite_follows) | with_reducible (apply countTrial_follows) | with_reducible (apply foldl_follows) | split | intro _ | with_reducible (refine Follows.of_mk ?_ rfl rfl rfl rfl rfl rfl rfl rfl rfl))

theorem loadLosesSites_follows {k : Mach} (x0 : Mach) (x1 : Job) (x2 : List SiteTrial) (h0 : Follows k x0) :
    Follows k (loadLosesSites x0 x1 x2) := by
  unfold loadLosesSites
  repeat' (first | with_reducible assumption | (lift_lets; intro mm) | with_reducible (apply loseSite_follows) | with_reducible (apply refuseLoad_follows) | with_reducible (apply placeJob_follows) | with_reducible (apply foldl_follows) | split | intro _ | with_reducible (refine Follows.of_mk ?_ rfl rfl rfl rfl rfl rfl rfl rfl rfl))

theorem execLoadComplete_follows {k : Mach} (x0 : List SiteTrial) (x1 : State) (h0 : Follows k x1.m) :
    ∃ t, execLoadComplete x0 x1 = .next t ∧ t.pending = x1.pending ∧ Follows k t.m := by
  refine nextM_follows ?_
  repeat' (first | with_reducible assumption | (lift_lets; intro mm) | with_reducible (apply refuseLoad_follows) | with_reducible (apply placeRecords_follows) | with_reducible (apply loadLosesSites_follows) | with_reducible (apply finishLoad_follows) | with_reducible (apply chooseT0_follows) | with_reducible (apply noteReport_follows) | with_reducible (apply giveAnswers_follows) | with_reducible (apply startJob_follows) | with_reducible (apply foldl_follows) | split | intro _ | with_reducible (refine Follows.of_mk ?_ rfl rfl rfl rfl rfl rfl rfl rfl rfl))

theorem endTaken_follows {k : Mach} (x0 : Mach) (h0 : Follows k x0) :
    Follows k (endTaken x0) := by
  unfold endTaken
  repeat' (first | with_reducible assumption | (lift_lets; intro mm) | with_reducible (apply setFn_follows) | with_reducible (apply endStatus_follows) | with_reducible (apply setCtx_follows) | with_reducible (apply foldl_follows) | split | intro _ | with_reducible (refine Follows.of_mk ?_ rfl rfl rfl rfl rfl rfl rfl rfl rfl))

theorem finishUnload_follows {k : Mach} (x0 : Mach) (h0 : Follows k x0) :
    Follows k (finishUnload x0) := by
  unfold finishUnload
  repeat' (first | with_reducible assumption | (lift_lets; intro mm) | with_reducible (apply endAll_follows) | with_reducible (apply endTaken_follows) | with_reducible (apply flushAll_follows) | with_reducible (apply giveAnswers_follows) | with_reducible (apply enterStandby_follows) | with_reducible (apply dropJob_follows) | with_reducible (apply foldl_follows) | split | intro _ | with_reducible (refine Follows.of_mk ?_ rfl rfl rfl rfl rfl rfl rfl rfl rfl))

theorem beginUnload_follows {k : Mach} (x0 : Mach) (h0 : Follows k x0) :
    Follows k (beginUnload x0) := by
  unfold beginUnload
  repeat' (first | with_reducible assumption | (lift_lets; intro mm) | with_reducible (apply announcePause_follows) | with_reducible (apply finishUnload_follows) | with_reducible (apply foldl_follows) | split | intro _ | with_reducible (refine Follows.of_mk ?_ rfl rfl rfl rfl rfl rfl rfl rfl rfl))

theorem beginDrain_follows {k : Mach} (x0 : Mach) (h0 : Follows k x0) :
    Follows k (beginDrain x0) := by
  unfold beginDrain
  repeat' (first | with_reducible assumption | (lift_lets; intro mm) | with_reducible (apply setState_follows) | with_reducible (apply endUnloaded_follows) | with_reducible (apply foldl_follows) | split | intro _ | with_reducible (refine Follows.of_mk ?_ rfl rfl rfl rfl rfl rfl rfl rfl rfl))

theorem meetReplacement_follows {k : Mach} (x0 : Mach) (h0 : Follows k x0) :
    Follows k (meetReplacement x0).1 := by
  unfold meetReplacement
  repeat' (first | with_reducible assumption | (lift_lets; intro mm) | with_reducible (apply giveFirst_follows) | with_reducible (apply abandonRepl_follows) | with_reducible (apply foldl_follows) | split | intro _ | with_reducible (refine Follows.of_mk ?_ rfl rfl rfl rfl rfl rfl rfl rfl rfl))

theorem meetReplacement_follows' {k : Mach} (x0 : Mach) (h0 : Follows k x0) :
    ∀ a z, meetReplacement x0 = (z, a) → Follows k z := by
  intro a z e
  have := meetReplacement_follows x0  h0 (k := k)
  rw [e] at this
  exact this

theorem drainRun_follows {k : Mach} (x0 : Mach) (x1 : Via) (x2 : Option Reply) (h0 : Follows k x0) :
    Follows k (drainRun x0 x1 x2) := by
  unfold drainRun
  repeat' (first | with_reducible assumption | (lift_lets; intro mm) | with_reducible (apply meetReplacement_follows) | (refine meetReplacement_follows' _ ?_ _ _ (by assumption)) | with_reducible (apply holdAnswer_follows) | with_reducible (apply beginDrain_follows) | with_reducible (apply foldl_follows) | split | intro _ | with_reducible (refine Follows.of_mk ?_ rfl rfl rfl rfl rfl rfl rfl rfl rfl))

theorem unloadRun_follows {k : Mach} (x0 : Mach) (x1 : Via) (x2 : Option Reply) (h0 : Follows k x0) :
    Follows k (unloadRun x0 x1 x2) := by
  unfold unloadRun
  repeat' (first | with_reducible assumption | (lift_lets; intro mm) | with_reducible (apply meetReplacement_follows) | (refine meetReplacement_follows' _ ?_ _ _ (by assumption)) | with_reducible (apply holdAnswer_follows) | with_reducible (apply beginUnload_follows) | with_reducible (apply foldl_follows) | split | intro _ | with_reducible (refine Follows.of_mk ?_ rfl rfl rfl rfl rfl rfl rfl rfl rfl))

theorem resumePendingEnd_follows {k : Mach} (x0 : Mach) (h0 : Follows k x0) :
    Follows k (resumePendingEnd x0) := by
  unfold resumePendingEnd
  repeat' (first | with_reducible assumption | (lift_lets; intro mm) | with_reducible (apply beginDrain_follows) | with_reducible (apply beginUnload_follows) | with_reducible (apply foldl_follows) | split | intro _ | with_reducible (refine Follows.of_mk ?_ rfl rfl rfl rfl rfl rfl rfl rfl rfl))

theorem execDrainComplete_follows {k : Mach} (x0 : State) (h0 : Follows k x0.m) :
    ∃ t, execDrainComplete x0 = .next t ∧ t.pending = x0.pending ∧ Follows k t.m := by
  refine nextM_follows ?_
  repeat' (first | with_reducible assumption | (lift_lets; intro mm) | with_reducible (apply beginUnload_follows) | with_reducible (apply foldl_follows) | split | intro _ | with_reducible (refine Follows.of_mk ?_ rfl rfl rfl rfl rfl rfl rfl rfl rfl))

theorem jobRun_follows {k : Mach} (x0 : Mach) (x1 : Via) (x2 : List Byte) (x3 : Option Image) (x4 : Option Reply) (h0 : Follows k x0) :
    Follows k (jobRun x0 x1 x2 x3 x4) := by
  unfold jobRun
  repeat' (first | with_reducible assumption | (lift_lets; intro mm) | with_reducible (apply loadRun_follows) | with_reducible (apply drainRun_follows) | with_reducible (apply unloadRun_follows) | with_reducible (apply foldl_follows) | split | intro _ | with_reducible (refine Follows.of_mk ?_ rfl rfl rfl rfl rfl rfl rfl rfl rfl))

theorem execJobLoad_follows {k : Mach} (x0 : Via) (x1 : List Byte) (x2 : Image) (x3 : State) (h0 : Follows k x3.m) :
    ∃ t, execJobLoad x0 x1 x2 x3 = .next t ∧ t.pending = x3.pending ∧ Follows k t.m := by
  refine nextM_follows ?_
  repeat' (first | with_reducible assumption | (lift_lets; intro mm) | with_reducible (apply commandRow_follows) | with_reducible (apply jobRun_follows) | with_reducible (apply foldl_follows) | split | intro _ | with_reducible (refine Follows.of_mk ?_ rfl rfl rfl rfl rfl rfl rfl rfl rfl))

theorem execJobDrain_follows {k : Mach} (x0 : Via) (x1 : List Byte) (x2 : State) (h0 : Follows k x2.m) :
    ∃ t, execJobDrain x0 x1 x2 = .next t ∧ t.pending = x2.pending ∧ Follows k t.m := by
  refine nextM_follows ?_
  repeat' (first | with_reducible assumption | (lift_lets; intro mm) | with_reducible (apply commandRow_follows) | with_reducible (apply jobRun_follows) | with_reducible (apply foldl_follows) | split | intro _ | with_reducible (refine Follows.of_mk ?_ rfl rfl rfl rfl rfl rfl rfl rfl rfl))

theorem execJobUnload_follows {k : Mach} (x0 : Via) (x1 : List Byte) (x2 : State) (h0 : Follows k x2.m) :
    ∃ t, execJobUnload x0 x1 x2 = .next t ∧ t.pending = x2.pending ∧ Follows k t.m := by
  refine nextM_follows ?_
  repeat' (first | with_reducible assumption | (lift_lets; intro mm) | with_reducible (apply commandRow_follows) | with_reducible (apply jobRun_follows) | with_reducible (apply foldl_follows) | split | intro _ | with_reducible (refine Follows.of_mk ?_ rfl rfl rfl rfl rfl rfl rfl rfl rfl))

end Sys2Proof.Machine
end

