-- ==== Sys2Proof/Laws/FollowsBeat.lean ====
section
/-! SUPPORT. The operations and the meanings of Machine/Beat.lean keep what `Follows` names. -/

namespace Sys2Proof.Machine

theorem noteStart_follows {k : Mach} (x0 : Mach) (x1 : Nat) (x2 : Nat) (h0 : Follows k x0) :
    Follows k (noteStart x0 x1 x2).1 := by
  unfold noteStart
  repeat' (first | with_reducible assumption | (lift_lets; intro mm) | with_reducible (apply foldl_follows) | split | intro _ | with_reducible (refine Follows.of_mk ?_ rfl rfl rfl rfl rfl rfl rfl rfl rfl))

theorem noteStart_follows' {k : Mach} (x0 : Mach) (x1 : Nat) (x2 : Nat) (h0 : Follows k x0) :
    ∀ a z, noteStart x0 x1 x2 = (z, a) → Follows k z := by
  intro a z e
  have := noteStart_follows x0 x1 x2  h0 (k := k)
  rw [e] at this
  exact this

theorem commitRows_follows {k : Mach} (x0 : Mach) (x1 : DuneId) (h0 : Follows k x0) :
    Follows k (commitRows x0 x1) := by
  unfold commitRows
  repeat' (first | with_reducible assumption | (lift_lets; intro mm) | with_reducible (apply rowFault_follows) | with_reducible (apply count_follows) | with_reducible (apply foldl_follows) | split | intro _ | with_reducible (refine Follows.of_mk ?_ rfl rfl rfl rfl rfl rfl rfl rfl rfl))

theorem commitBeat_follows {k : Mach} (x0 : Mach) (x1 : DuneId) (h0 : Follows k x0) :
    Follows k (commitBeat x0 x1) := by
  unfold commitBeat
  repeat' (first | with_reducible assumption | (lift_lets; intro mm) | with_reducible (apply advance_follows) | with_reducible (apply commitRows_follows) | with_reducible (apply setDune_follows) | with_reducible (apply foldl_follows) | split | intro _ | with_reducible (refine Follows.of_mk ?_ rfl rfl rfl rfl rfl rfl rfl rfl rfl))

theorem execCommitCheck_follows {k : Mach} (x0 : DuneId) (x1 : State) (h0 : Follows k x1.m) :
    ∃ t, execCommitCheck x0 x1 = .next t ∧ t.pending = x1.pending ∧ Follows k t.m := by
  refine nextM_follows ?_
  repeat' (first | with_reducible assumption | (lift_lets; intro mm) | with_reducible (apply commitBeat_follows) | with_reducible (apply foldl_follows) | split | intro _ | with_reducible (refine Follows.of_mk ?_ rfl rfl rfl rfl rfl rfl rfl rfl rfl))

theorem resetRows_follows {k : Mach} (x0 : Mach) (x1 : DuneId) (h0 : Follows k x0) :
    Follows k (resetRows x0 x1) := by
  unfold resetRows
  repeat' (first | with_reducible assumption | (lift_lets; intro mm) | with_reducible (apply setRow_follows) | with_reducible (apply foldl_follows) | split | intro _ | with_reducible (refine Follows.of_mk ?_ rfl rfl rfl rfl rfl rfl rfl rfl rfl))

theorem fixDune_follows {k : Mach} (x0 : Mach) (x1 : DuneId) (h0 : Follows k x0) :
    Follows k (fixDune x0 x1) := by
  unfold fixDune
  repeat' (first | with_reducible assumption | (lift_lets; intro mm) | with_reducible (apply replanDune_follows) | with_reducible (apply foldl_follows) | split | intro _ | with_reducible (refine Follows.of_mk ?_ rfl rfl rfl rfl rfl rfl rfl rfl rfl))

theorem startsBeat_follows {k : Mach} (x0 : Mach) (x1 : Nat) (x2 : Nat) (x3 : Nat) (h0 : Follows k x0) :
    Follows k (startsBeat x0 x1 x2 x3) := by
  unfold startsBeat
  repeat' (first | with_reducible assumption | (lift_lets; intro mm) | with_reducible (apply count_follows) | with_reducible (apply applyClassB_follows) | with_reducible (apply resumePendingEnd_follows) | with_reducible (apply replDone_follows) | with_reducible (apply serveStart_follows) | with_reducible (apply foldl_follows) | split | intro _ | with_reducible (refine Follows.of_mk ?_ rfl rfl rfl rfl rfl rfl rfl rfl rfl))

theorem applyResume_follows {k : Mach} (x0 : Mach) (x1 : DuneId) (x2 : Nat) (h0 : Follows k x0) :
    Follows k (applyResume x0 x1 x2) := by
  unfold applyResume
  repeat' (first | with_reducible assumption | (lift_lets; intro mm) | with_reducible (apply setDune_follows) | with_reducible (apply count_follows) | with_reducible (apply foldl_follows) | split | intro _ | with_reducible (refine Follows.of_mk ?_ rfl rfl rfl rfl rfl rfl rfl rfl rfl))

theorem reachBeat_follows {k : Mach} (x0 : Mach) (x1 : Job) (x2 : DuneId) (h0 : Follows k x0) :
    Follows k (reachBeat x0 x1 x2) := by
  unfold reachBeat
  repeat' (first | with_reducible assumption | (lift_lets; intro mm) | with_reducible (apply commitBeat_follows) | with_reducible (apply advance_follows) | with_reducible (apply setDune_follows) | with_reducible (apply noteStart_follows) | (refine noteStart_follows' _ _ _ ?_ _ _ (by assumption)) | with_reducible (apply count_follows) | with_reducible (apply applyResume_follows) | with_reducible (apply resetRows_follows) | with_reducible (apply fixDune_follows) | with_reducible (apply upkeepBoundary_follows) | with_reducible (apply startsBeat_follows) | with_reducible (apply foldl_follows) | split | intro _ | with_reducible (refine Follows.of_mk ?_ rfl rfl rfl rfl rfl rfl rfl rfl rfl))

theorem execBeatStart_follows {k : Mach} (x0 : DuneId) (x1 : State) (h0 : Follows k x1.m) :
    ∃ t, execBeatStart x0 x1 = .next t ∧ t.pending = x1.pending ∧ Follows k t.m := by
  refine nextM_follows ?_
  repeat' (first | with_reducible assumption | (lift_lets; intro mm) | with_reducible (apply reachBeat_follows) | with_reducible (apply foldl_follows) | split | intro _ | with_reducible (refine Follows.of_mk ?_ rfl rfl rfl rfl rfl rfl rfl rfl rfl))

theorem execSegmentMark_follows {k : Mach} (x0 : DuneId) (x1 : State) (h0 : Follows k x1.m) :
    ∃ t, execSegmentMark x0 x1 = .next t ∧ t.pending = x1.pending ∧ Follows k t.m := by
  refine nextM_follows ?_
  repeat' (first | with_reducible assumption | (lift_lets; intro mm) | with_reducible (apply advance_follows) | with_reducible (apply setDune_follows) | with_reducible (apply setRow_follows) | with_reducible (apply foldl_follows) | split | intro _ | with_reducible (refine Follows.of_mk ?_ rfl rfl rfl rfl rfl rfl rfl rfl rfl))

theorem afterClose_follows {k : Mach} (x0 : Mach) (x1 : Nat) (h0 : Follows k x0) :
    Follows k (afterClose x0 x1) := by
  unfold afterClose
  repeat' (first | with_reducible assumption | (lift_lets; intro mm) | with_reducible (apply replPaused_follows) | with_reducible (apply finishUnload_follows) | with_reducible (apply stepTwo_follows) | with_reducible (apply foldl_follows) | split | intro _ | with_reducible (refine Follows.of_mk ?_ rfl rfl rfl rfl rfl rfl rfl rfl rfl))

theorem execBeatClose_follows {k : Mach} (x0 : Nat) (x1 : State) (h0 : Follows k x1.m) :
    ∃ t, execBeatClose x0 x1 = .next t ∧ t.pending = x1.pending ∧ Follows k t.m := by
  refine nextM_follows ?_
  repeat' (first | with_reducible assumption | (lift_lets; intro mm) | with_reducible (apply advance_follows) | with_reducible (apply afterClose_follows) | with_reducible (apply closeBeat_follows) | with_reducible (apply foldl_follows) | split | intro _ | with_reducible (refine Follows.of_mk ?_ rfl rfl rfl rfl rfl rfl rfl rfl rfl))

theorem stretchBeat_follows {k : Mach} (x0 : Mach) (x1 : DuneId) (x2 : DuneState) (x3 : Beat) (x4 : Nat) (h0 : Follows k x0) :
    Follows k (stretchBeat x0 x1 x2 x3 x4) := by
  unfold stretchBeat
  repeat' (first | with_reducible assumption | (lift_lets; intro mm) | with_reducible (apply setDune_follows) | with_reducible (apply count_follows) | with_reducible (apply foldl_follows) | split | intro _ | with_reducible (refine Follows.of_mk ?_ rfl rfl rfl rfl rfl rfl rfl rfl rfl))

theorem execStretch_follows {k : Mach} (x0 : DuneId) (x1 : MeshMsg) (x2 : State) (h0 : Follows k x2.m) :
    ∃ t, execStretch x0 x1 x2 = .next t ∧ t.pending = x2.pending ∧ Follows k t.m := by
  refine nextM_follows ?_
  repeat' (first | with_reducible assumption | (lift_lets; intro mm) | with_reducible (apply onMessage_follows) | with_reducible (apply duneFault_follows) | with_reducible (apply stretchBeat_follows) | with_reducible (apply foldl_follows) | split | intro _ | with_reducible (refine Follows.of_mk ?_ rfl rfl rfl rfl rfl rfl rfl rfl rfl))

theorem keepChange_follows {k : Mach} (x0 : Mach) (x1 : DuneId) (x2 : BeatChange) (h0 : Follows k x0) :
    Follows k (keepChange x0 x1 x2) := by
  unfold keepChange
  repeat' (first | with_reducible assumption | (lift_lets; intro mm) | with_reducible (apply setDune_follows) | with_reducible (apply foldl_follows) | split | intro _ | with_reducible (refine Follows.of_mk ?_ rfl rfl rfl rfl rfl rfl rfl rfl rfl))

theorem namedChange_follows {k : Mach} (x0 : Mach) (x1 : DuneId) (x2 : Nat) (x3 : BeatChange) (h0 : Follows k x0) :
    Follows k (namedChange x0 x1 x2 x3) := by
  unfold namedChange
  repeat' (first | with_reducible assumption | (lift_lets; intro mm) | with_reducible (apply duneFault_follows) | with_reducible (apply keepChange_follows) | with_reducible (apply foldl_follows) | split | intro _ | with_reducible (refine Follows.of_mk ?_ rfl rfl rfl rfl rfl rfl rfl rfl rfl))

theorem execBeatChangePeriod_follows {k : Mach} (x0 : DuneId) (x1 : MeshMsg) (x2 : State) (h0 : Follows k x2.m) :
    ∃ t, execBeatChangePeriod x0 x1 x2 = .next t ∧ t.pending = x2.pending ∧ Follows k t.m := by
  refine nextM_follows ?_
  repeat' (first | with_reducible assumption | (lift_lets; intro mm) | with_reducible (apply onMessage_follows) | with_reducible (apply namedChange_follows) | with_reducible (apply foldl_follows) | split | intro _ | with_reducible (refine Follows.of_mk ?_ rfl rfl rfl rfl rfl rfl rfl rfl rfl))

theorem execBeatChangePause_follows {k : Mach} (x0 : DuneId) (x1 : MeshMsg) (x2 : State) (h0 : Follows k x2.m) :
    ∃ t, execBeatChangePause x0 x1 x2 = .next t ∧ t.pending = x2.pending ∧ Follows k t.m := by
  refine nextM_follows ?_
  repeat' (first | with_reducible assumption | (lift_lets; intro mm) | with_reducible (apply onMessage_follows) | with_reducible (apply namedChange_follows) | with_reducible (apply foldl_follows) | split | intro _ | with_reducible (refine Follows.of_mk ?_ rfl rfl rfl rfl rfl rfl rfl rfl rfl))

theorem execBeatChangeResume_follows {k : Mach} (x0 : DuneId) (x1 : MeshMsg) (x2 : State) (h0 : Follows k x2.m) :
    ∃ t, execBeatChangeResume x0 x1 x2 = .next t ∧ t.pending = x2.pending ∧ Follows k t.m := by
  refine nextM_follows ?_
  repeat' (first | with_reducible assumption | (lift_lets; intro mm) | with_reducible (apply onMessage_follows) | with_reducible (apply duneFault_follows) | with_reducible (apply applyResume_follows) | with_reducible (apply reachBeat_follows) | with_reducible (apply keepChange_follows) | with_reducible (apply foldl_follows) | split | intro _ | with_reducible (refine Follows.of_mk ?_ rfl rfl rfl rfl rfl rfl rfl rfl rfl))

theorem execFix_follows {k : Mach} (x0 : DuneId) (x1 : MeshMsg) (x2 : State) (h0 : Follows k x2.m) :
    ∃ t, execFix x0 x1 x2 = .next t ∧ t.pending = x2.pending ∧ Follows k t.m := by
  refine nextM_follows ?_
  repeat' (first | with_reducible assumption | (lift_lets; intro mm) | with_reducible (apply onMessage_follows) | with_reducible (apply duneFault_follows) | with_reducible (apply setDune_follows) | with_reducible (apply foldl_follows) | split | intro _ | with_reducible (refine Follows.of_mk ?_ rfl rfl rfl rfl rfl rfl rfl rfl rfl))

theorem execFallbackCheck_follows {k : Mach} (x0 : State) (h0 : Follows k x0.m) :
    ∃ t, execFallbackCheck x0 = .next t ∧ t.pending = x0.pending ∧ Follows k t.m := by
  refine nextM_follows ?_
  repeat' (first | with_reducible assumption | (lift_lets; intro mm) | with_reducible (apply rollFallback_follows) | with_reducible (apply advance_follows) | with_reducible (apply postEvent_follows) | with_reducible (apply count_follows) | with_reducible (apply foldl_follows) | split | intro _ | with_reducible (refine Follows.of_mk ?_ rfl rfl rfl rfl rfl rfl rfl rfl rfl))

theorem execHbmImbalanceWindowEnd_follows {k : Mach} (x0 : State) (h0 : Follows k x0.m) :
    ∃ t, execHbmImbalanceWindowEnd x0 = .next t ∧ t.pending = x0.pending ∧ Follows k t.m := by
  unfold execHbmImbalanceWindowEnd
  refine nextM_follows ?_
  split
  · exact h0
  · extract_lets n total busiest ratio bad m2 m3
    have h1 : Follows k n := advance_follows x0.m _ h0
    clear_value n ratio
    have h2 : Follows k m2 := odSet_follows _ _ _ _ (Follows.of_mk h1 rfl rfl rfl rfl rfl rfl rfl rfl rfl)
    clear_value m2
    have h3 : Follows k m3 := odSet_follows _ _ _ _ (count_follows _ _ _ _ h2)
    clear_value m3
    split
    · exact h2
    · split
      · exact postEvent_follows _ _ _ _ _ (Follows.of_mk h3 rfl rfl rfl rfl rfl rfl rfl rfl rfl)
      · exact h3

end Sys2Proof.Machine
end

