-- ==== Sys2Proof/Laws/FollowsFabric.lean ====
section
/-! SUPPORT. The operations and the meanings of Machine/Fabric.lean keep what `Follows` names. -/

namespace Sys2Proof.Machine

theorem losePacket_follows {k : Mach} (x0 : Nat) (x1 : Mach) (x2 : Packet) (h0 : Follows k x1) :
    Follows k (losePacket x0 x1 x2) := by
  unfold losePacket
  repeat' (first | with_reducible assumption | (lift_lets; intro mm) | with_reducible (apply removePacket_follows) | with_reducible (apply sendPacket_follows) | with_reducible (apply foldl_follows) | split | intro _ | with_reducible (refine Follows.of_mk ?_ rfl rfl rfl rfl rfl rfl rfl rfl rfl))

theorem duneGoesOff_follows {k : Mach} (x0 : Mach) (x1 : DuneId) (x2 : DunePower) (h0 : Follows k x0) :
    Follows k (duneGoesOff x0 x1 x2) := by
  unfold duneGoesOff
  repeat' (first | with_reducible assumption | (lift_lets; intro mm) | with_reducible (apply noteHoldover_follows) | with_reducible (apply setDune_follows) | with_reducible (apply losePacket_follows) | with_reducible (apply loadLosesDune_follows) | with_reducible (apply foldl_follows) | split | intro _ | with_reducible (refine Follows.of_mk ?_ rfl rfl rfl rfl rfl rfl rfl rfl rfl))

theorem execDuneOff_follows {k : Mach} (x0 : DuneId) (x1 : State) (h0 : Follows k x1.m) :
    ∃ t, execDuneOff x0 x1 = .next t ∧ t.pending = x1.pending ∧ Follows k t.m := by
  refine nextM_follows ?_
  repeat' (first | with_reducible assumption | (lift_lets; intro mm) | with_reducible (apply duneGoesOff_follows) | with_reducible (apply raiseFault_follows) | with_reducible (apply foldl_follows) | split | intro _ | with_reducible (refine Follows.of_mk ?_ rfl rfl rfl rfl rfl rfl rfl rfl rfl))

theorem execRouteTableRewrite_follows {k : Mach} (x0 : Fin 4) (x1 : State) (h0 : Follows k x1.m) :
    ∃ t, execRouteTableRewrite x0 x1 = .next t ∧ t.pending = x1.pending ∧ Follows k t.m := by
  refine nextM_follows ?_
  repeat' (first | with_reducible assumption | (lift_lets; intro mm) | with_reducible (apply releaseHeld_follows) | with_reducible (apply foldl_follows) | split | intro _ | with_reducible (refine Follows.of_mk ?_ rfl rfl rfl rfl rfl rfl rfl rfl rfl))

theorem execControlParityError_follows {k : Mach} (x0 : Nat) (x1 : Fin 2) (x2 : Bool) (x3 : State) (h0 : Follows k x3.m) :
    ∃ t, execControlParityError x0 x1 x2 x3 = .next t ∧ t.pending = x3.pending ∧ Follows k t.m := by
  refine nextM_follows ?_
  repeat' (first | with_reducible assumption | (lift_lets; intro mm) | with_reducible (apply count_follows) | with_reducible (apply countDune_follows) | with_reducible (apply raiseFault_follows) | with_reducible (apply foldl_follows) | split | intro _ | with_reducible (refine Follows.of_mk ?_ rfl rfl rfl rfl rfl rfl rfl rfl rfl))

theorem execControlMessageDiscard_follows {k : Mach} (x0 : BitVec 8) (x1 : MeshMsg) (x2 : State) (h0 : Follows k x2.m) :
    ∃ t, execControlMessageDiscard x0 x1 x2 = .next t ∧ t.pending = x2.pending ∧ Follows k t.m := by
  refine nextM_follows ?_
  repeat' (first | with_reducible assumption | (lift_lets; intro mm) | with_reducible (apply countDiscard_follows) | with_reducible (apply foldl_follows) | split | intro _ | with_reducible (refine Follows.of_mk ?_ rfl rfl rfl rfl rfl rfl rfl rfl rfl))

theorem noteOffset_follows {k : Mach} (x0 : Mach) (x1 : Nat) (h0 : Follows k x0) :
    Follows k (noteOffset x0 x1) := by
  unfold noteOffset
  repeat' (first | with_reducible assumption | (lift_lets; intro mm) | with_reducible (apply foldl_follows) | split | intro _ | with_reducible (refine Follows.of_mk ?_ rfl rfl rfl rfl rfl rfl rfl rfl rfl))

theorem execTimingPulseExchange_follows {k : Mach} (x0 : Island) (x1 : Int) (x2 : State) (h0 : Follows k x2.m) :
    ∃ t, execTimingPulseExchange x0 x1 x2 = .next t ∧ t.pending = x2.pending ∧ Follows k t.m := by
  refine nextM_follows ?_
  repeat' (first | with_reducible assumption | (lift_lets; intro mm) | with_reducible (apply noteOffset_follows) | with_reducible (apply setIsland_follows) | with_reducible (apply foldl_follows) | split | intro _ | with_reducible (refine Follows.of_mk ?_ rfl rfl rfl rfl rfl rfl rfl rfl rfl))

theorem execIslandLock_follows {k : Mach} (x0 : Island) (x1 : State) (h0 : Follows k x1.m) :
    ∃ t, execIslandLock x0 x1 = .next t ∧ t.pending = x1.pending ∧ Follows k t.m := by
  refine nextM_follows ?_
  repeat' (first | with_reducible assumption | (lift_lets; intro mm) | with_reducible (apply setIsland_follows) | with_reducible (apply noteHoldover_follows) | with_reducible (apply foldl_follows) | split | intro _ | with_reducible (refine Follows.of_mk ?_ rfl rfl rfl rfl rfl rfl rfl rfl rfl))

theorem execHoldoverEntry_follows {k : Mach} (x0 : Island) (x1 : State) (h0 : Follows k x1.m) :
    ∃ t, execHoldoverEntry x0 x1 = .next t ∧ t.pending = x1.pending ∧ Follows k t.m := by
  refine nextM_follows ?_
  repeat' (first | with_reducible assumption | (lift_lets; intro mm) | with_reducible (apply advance_follows) | with_reducible (apply draw_follows) | (refine draw_follows' _ ?_ _ _ (by assumption)) | with_reducible (apply setIsland_follows) | with_reducible (apply foldl_follows) | split | intro _ | with_reducible (refine Follows.of_mk ?_ rfl rfl rfl rfl rfl rfl rfl rfl rfl))

theorem execHoldoverLimit_follows {k : Mach} (x0 : Island) (x1 : State) (h0 : Follows k x1.m) :
    ∃ t, execHoldoverLimit x0 x1 = .next t ∧ t.pending = x1.pending ∧ Follows k t.m := by
  refine nextM_follows ?_
  repeat' (first | with_reducible assumption | (lift_lets; intro mm) | with_reducible (apply noteHoldover_follows) | with_reducible (apply advance_follows) | with_reducible (apply setIsland_follows) | with_reducible (apply duneFault_follows) | with_reducible (apply count_follows) | with_reducible (apply postEvent_follows) | with_reducible (apply foldl_follows) | split | intro _ | with_reducible (refine Follows.of_mk ?_ rfl rfl rfl rfl rfl rfl rfl rfl rfl))

end Sys2Proof.Machine
end

