-- ==== Sys2Proof/Laws/FollowsArrive.lean ====
section
/-! SUPPORT. The operations and the meanings of Machine/Arrive.lean keep what `Follows` names. -/

namespace Sys2Proof.Machine

theorem execPutArrival_follows {k : Mach} (x0 : Nat) (x1 : State) (h0 : Follows k x1.m) :
    ∃ t, execPutArrival x0 x1 = .next t ∧ t.pending = x1.pending ∧ Follows k t.m := by
  refine nextM_follows ?_
  repeat' (first | with_reducible assumption | (lift_lets; intro mm) | with_reducible (apply runUntil_follows) | split | intro _ | with_reducible (refine Follows.of_mk ?_ rfl rfl rfl rfl rfl rfl rfl rfl rfl))

end Sys2Proof.Machine
end

