-- ==== Sys2Proof/Laws/FollowsLinks.lean ====
section
/-! SUPPORT. The operations and the meanings of Machine/Links.lean keep what `Follows` names. -/

namespace Sys2Proof.Machine

theorem bundleFault_follows {k : Mach} (x0 : Mach) (x1 : Nat) (x2 : Nat) (x3 : Nat) (h0 : Follows k x0) :
    Follows k (bundleFault x0 x1 x2 x3) := by
  unfold bundleFault
  repeat' (first | with_reducible assumption | (lift_lets; intro mm) | with_reducible (apply raiseFault_follows) | with_reducible (apply foldl_follows) | split | intro _ | with_reducible (refine Follows.of_mk ?_ rfl rfl rfl rfl rfl rfl rfl rfl rfl))

theorem lanesChanged_follows {k : Mach} (x0 : Mach) (x1 : Nat) (x2 : Nat) (h0 : Follows k x0) :
    Follows k (lanesChanged x0 x1 x2) := by
  unfold lanesChanged
  repeat' (first | with_reducible assumption | (lift_lets; intro mm) | with_reducible (apply setBundle_follows) | with_reducible (apply sendFrame_follows) | with_reducible (apply bundleFault_follows) | with_reducible (apply count_follows) | with_reducible (apply foldl_follows) | split | intro _ | with_reducible (refine Follows.of_mk ?_ rfl rfl rfl rfl rfl rfl rfl rfl rfl))

theorem replayWhere_follows {k : Mach} (x0 : Mach) (x1 : Nat) (x2 : Nat) (x3 : Nat × Nat × Nat × List Byte → Bool) (x4 : Bool) (h0 : Follows k x0) :
    Follows k (replayWhere x0 x1 x2 x3 x4) := by
  unfold replayWhere
  repeat' (first | with_reducible assumption | (lift_lets; intro mm; refine cut_follows (k := k) (e := mm) ?h ?b; case' h => subst mm; case' b => intro _; clear_value mm) | (lift_lets; intro mm) | with_reducible (apply bundleRun_follows) | with_reducible (apply count_follows) | with_reducible (apply setBundle_follows) | with_reducible (apply foldl_follows) | split | intro _ | dsimp +zetaDelta only | with_reducible (refine Follows.of_mk ?_ rfl rfl rfl rfl rfl rfl rfl rfl rfl))

theorem laneLost_follows {k : Mach} (x0 : Mach) (x1 : Nat) (x2 : Nat) (h0 : Follows k x0) :
    Follows k (laneLost x0 x1 x2) := by
  unfold laneLost
  repeat' (first | with_reducible assumption | (lift_lets; intro mm) | with_reducible (apply setBundle_follows) | with_reducible (apply count_follows) | with_reducible (apply replayWhere_follows) | with_reducible (apply lanesChanged_follows) | with_reducible (apply foldl_follows) | split | intro _ | with_reducible (refine Follows.of_mk ?_ rfl rfl rfl rfl rfl rfl rfl rfl rfl))

theorem bundleLost_follows {k : Mach} (x0 : Mach) (x1 : Nat) (h0 : Follows k x0) :
    Follows k (bundleLost x0 x1) := by
  unfold bundleLost
  repeat' (first | with_reducible assumption | (lift_lets; intro mm) | with_reducible (apply laneLost_follows) | with_reducible (apply foldl_follows) | split | intro _ | with_reducible (refine Follows.of_mk ?_ rfl rfl rfl rfl rfl rfl rfl rfl rfl))

theorem execLaneDrop_follows {k : Mach} (x0 : Fin 8) (x1 : Fin 24) (x2 : State) (h0 : Follows k x2.m) :
    ∃ t, execLaneDrop x0 x1 x2 = .next t ∧ t.pending = x2.pending ∧ Follows k t.m := by
  refine nextM_follows ?_
  repeat' (first | with_reducible assumption | (lift_lets; intro mm) | with_reducible (apply laneLost_follows) | with_reducible (apply foldl_follows) | split | intro _ | with_reducible (refine Follows.of_mk ?_ rfl rfl rfl rfl rfl rfl rfl rfl rfl))

theorem execLaneRejoin_follows {k : Mach} (x0 : Fin 8) (x1 : Fin 24) (x2 : State) (h0 : Follows k x2.m) :
    ∃ t, execLaneRejoin x0 x1 x2 = .next t ∧ t.pending = x2.pending ∧ Follows k t.m := by
  refine nextM_follows ?_
  repeat' (first | with_reducible assumption | (lift_lets; intro mm) | with_reducible (apply advance_follows) | with_reducible (apply lanesChanged_follows) | with_reducible (apply setBundle_follows) | with_reducible (apply foldl_follows) | split | intro _ | with_reducible (refine Follows.of_mk ?_ rfl rfl rfl rfl rfl rfl rfl rfl rfl))

theorem execLaneTrainingComplete_follows {k : Mach} (x0 : Fin 8) (x1 : Fin 24) (x2 : State) (h0 : Follows k x2.m) :
    ∃ t, execLaneTrainingComplete x0 x1 x2 = .next t ∧ t.pending = x2.pending ∧ Follows k t.m := by
  refine nextM_follows ?_
  repeat' (first | with_reducible assumption | (lift_lets; intro mm) | with_reducible (apply lanesChanged_follows) | with_reducible (apply setBundle_follows) | with_reducible (apply foldl_follows) | split | intro _ | with_reducible (refine Follows.of_mk ?_ rfl rfl rfl rfl rfl rfl rfl rfl rfl))

theorem execCablePresent_follows {k : Mach} (x0 : Fin 8) (x1 : Bool) (x2 : State) (h0 : Follows k x2.m) :
    ∃ t, execCablePresent x0 x1 x2 = .next t ∧ t.pending = x2.pending ∧ Follows k t.m := by
  refine nextM_follows ?_
  repeat' (first | with_reducible assumption | (lift_lets; intro mm) | with_reducible (apply setBundle_follows) | with_reducible (apply bundleLost_follows) | with_reducible (apply foldl_follows) | split | intro _ | with_reducible (refine Follows.of_mk ?_ rfl rfl rfl rfl rfl rfl rfl rfl rfl))

theorem killLanes_follows {k : Mach} (x0 : Mach) (x1 : Nat) (h0 : Follows k x0) :
    Follows k (killLanes x0 x1) := by
  unfold killLanes
  repeat' (first | with_reducible assumption | (lift_lets; intro mm) | with_reducible (apply laneLost_follows) | with_reducible (apply spendInjection_follows) | with_reducible (apply foldl_follows) | split | intro _ | with_reducible (refine Follows.of_mk ?_ rfl rfl rfl rfl rfl rfl rfl rfl rfl))

theorem sendAck_follows {k : Mach} (x0 : Mach) (x1 : Nat) (x2 : Nat) (x3 : Bool) (h0 : Follows k x0) :
    Follows k (sendAck x0 x1 x2 x3) := by
  unfold sendAck
  repeat' (first | with_reducible assumption | (lift_lets; intro mm) | with_reducible (apply sendFrame_follows) | with_reducible (apply foldl_follows) | split | intro _ | with_reducible (refine Follows.of_mk ?_ rfl rfl rfl rfl rfl rfl rfl rfl rfl))

theorem ackUpTo_follows {k : Mach} (x0 : Mach) (x1 : Nat) (x2 : Nat) (x3 : Nat) (h0 : Follows k x0) :
    Follows k (ackUpTo x0 x1 x2 x3) := by
  unfold ackUpTo
  repeat' (first | with_reducible assumption | (lift_lets; intro mm) | with_reducible (apply setBundle_follows) | with_reducible (apply foldl_follows) | split | intro _ | with_reducible (refine Follows.of_mk ?_ rfl rfl rfl rfl rfl rfl rfl rfl rfl))

theorem replayOrDrop_follows {k : Mach} (x0 : Mach) (x1 : Nat) (x2 : Nat) (x3 : Nat × Nat × Nat × List Byte → Bool) (h0 : Follows k x0) :
    Follows k (replayOrDrop x0 x1 x2 x3) := by
  unfold replayOrDrop
  repeat' (first | with_reducible assumption | (lift_lets; intro mm) | with_reducible (apply replayWhere_follows) | with_reducible (apply laneLost_follows) | with_reducible (apply foldl_follows) | split | intro _ | with_reducible (refine Follows.of_mk ?_ rfl rfl rfl rfl rfl rfl rfl rfl rfl))

theorem ackFrame_follows {k : Mach} (x0 : Mach) (x1 : Nat) (x2 : List Byte) (h0 : Follows k x0) :
    Follows k (ackFrame x0 x1 x2) := by
  unfold ackFrame
  repeat' (first | with_reducible assumption | (lift_lets; intro mm) | with_reducible (apply ackUpTo_follows) | with_reducible (apply replayOrDrop_follows) | with_reducible (apply foldl_follows) | split | intro _ | with_reducible (refine Follows.of_mk ?_ rfl rfl rfl rfl rfl rfl rfl rfl rfl))

theorem execReplayTimeout_follows {k : Mach} (x0 : Fin 8) (x1 : Fin 5) (x2 : Nat) (x3 : State) (h0 : Follows k x3.m) :
    ∃ t, execReplayTimeout x0 x1 x2 x3 = .next t ∧ t.pending = x3.pending ∧ Follows k t.m := by
  refine nextM_follows ?_
  repeat' (first | with_reducible assumption | (lift_lets; intro mm) | with_reducible (apply replayOrDrop_follows) | with_reducible (apply killLanes_follows) | with_reducible (apply advance_follows) | with_reducible (apply foldl_follows) | split | intro _ | with_reducible (refine Follows.of_mk ?_ rfl rfl rfl rfl rfl rfl rfl rfl rfl))

theorem askReplay_follows {k : Mach} (x0 : Mach) (x1 : Nat) (x2 : Nat) (h0 : Follows k x0) :
    Follows k (askReplay x0 x1 x2) := by
  unfold askReplay
  repeat' (first | with_reducible assumption | (lift_lets; intro mm) | with_reducible (apply sendAck_follows) | with_reducible (apply setBundle_follows) | with_reducible (apply foldl_follows) | split | intro _ | with_reducible (refine Follows.of_mk ?_ rfl rfl rfl rfl rfl rfl rfl rfl rfl))

theorem execReorderGapTimeout_follows {k : Mach} (x0 : Fin 8) (x1 : Fin 5) (x2 : State) (h0 : Follows k x2.m) :
    ∃ t, execReorderGapTimeout x0 x1 x2 = .next t ∧ t.pending = x2.pending ∧ Follows k t.m := by
  refine nextM_follows ?_
  repeat' (first | with_reducible assumption | (lift_lets; intro mm) | with_reducible (apply askReplay_follows) | with_reducible (apply advance_follows) | with_reducible (apply foldl_follows) | split | intro _ | with_reducible (refine Follows.of_mk ?_ rfl rfl rfl rfl rfl rfl rfl rfl rfl))

theorem injectPacket_follows {k : Mach} (x0 : Mach) (x1 : Job) (x2 : Nat) (x3 : Nat) (x4 : List Byte) (x5 : Option Nat) (h0 : Follows k x0) :
    Follows k (injectPacket x0 x1 x2 x3 x4 x5) := by
  unfold injectPacket
  repeat' (first | with_reducible assumption | (lift_lets; intro mm) | with_reducible (apply draw_follows) | (refine draw_follows' _ ?_ _ _ (by assumption)) | with_reducible (apply enterPacket_follows) | with_reducible (apply foldl_follows) | split | intro _ | with_reducible (refine Follows.of_mk ?_ rfl rfl rfl rfl rfl rfl rfl rfl rfl))

theorem slotFrame_follows {k : Mach} (x0 : Mach) (x1 : Nat) (x2 : List Byte) (h0 : Follows k x0) :
    Follows k (slotFrame x0 x1 x2) := by
  unfold slotFrame
  repeat' (first | with_reducible assumption | (lift_lets; intro mm) | with_reducible (apply bundleFault_follows) | with_reducible (apply setSlot_follows) | with_reducible (apply injectPacket_follows) | with_reducible (apply foldl_follows) | split | intro _ | with_reducible (refine Follows.of_mk ?_ rfl rfl rfl rfl rfl rfl rfl rfl rfl))

theorem deliverFrame_follows {k : Mach} (x0 : Mach) (x1 : Nat) (x2 : Nat) (x3 : List Byte) (h0 : Follows k x0) :
    Follows k (deliverFrame x0 x1 x2 x3) := by
  unfold deliverFrame
  repeat' (first | with_reducible assumption | (lift_lets; intro mm) | with_reducible (apply slotFrame_follows) | with_reducible (apply injectPacket_follows) | with_reducible (apply foldl_follows) | split | intro _ | with_reducible (refine Follows.of_mk ?_ rfl rfl rfl rfl rfl rfl rfl rfl rfl))

theorem deliverHeld_follows {k : Mach} (x0 : Nat) (x1 : Nat) (x2 : Nat) (x3 : Mach) (h0 : Follows k x3) :
    Follows k (deliverHeld x0 x1 x2 x3) := by
  induction x2 generalizing x3 with
  | zero => exact h0
  | succ n ih =>
    unfold deliverHeld
    dsimp only
    split
    · exact h0
    · exact ih _ (deliverFrame_follows _ _ _ _ (setBundle_follows _ _ _ h0))

theorem injectedAction_follows {k : Mach} (x0 : Mach) (x1 : Nat) (x2 : Nat) (h0 : Follows k x0) :
    Follows k (injectedAction x0 x1 x2).1 := by
  unfold injectedAction
  repeat' (first | with_reducible assumption | (lift_lets; intro mm) | with_reducible (apply spendInjection_follows) | with_reducible (apply foldl_follows) | split | intro _ | with_reducible (refine Follows.of_mk ?_ rfl rfl rfl rfl rfl rfl rfl rfl rfl))

theorem injectedAction_follows' {k : Mach} (x0 : Mach) (x1 : Nat) (x2 : Nat) (h0 : Follows k x0) :
    ∀ a z, injectedAction x0 x1 x2 = (z, a) → Follows k z := by
  intro a z e
  have := injectedAction_follows x0 x1 x2  h0 (k := k)
  rw [e] at this
  exact this

theorem sequenceData_follows {k : Mach} (x0 : Mach) (x1 : Nat) (x2 : List Byte) (h0 : Follows k x0) :
    Follows k (sequenceData x0 x1 x2) := by
  unfold sequenceData
  repeat' (first | with_reducible assumption | (lift_lets; intro mm) | with_reducible (apply ackUpTo_follows) | with_reducible (apply setBundle_follows) | with_reducible (apply sendAck_follows) | with_reducible (apply deliverHeld_follows) | with_reducible (apply deliverFrame_follows) | with_reducible (apply askReplay_follows) | with_reducible (apply foldl_follows) | split | intro _ | with_reducible (refine Follows.of_mk ?_ rfl rfl rfl rfl rfl rfl rfl rfl rfl))

theorem releaseReordered_follows {k : Mach} (x0 : Mach) (x1 : Nat) (x2 : Nat) (h0 : Follows k x0) :
    Follows k (releaseReordered x0 x1 x2) := by
  unfold releaseReordered
  repeat' (first | with_reducible assumption | (lift_lets; intro mm) | with_reducible (apply sequenceData_follows) | with_reducible (apply setBundle_follows) | with_reducible (apply foldl_follows) | split | intro _ | with_reducible (refine Follows.of_mk ?_ rfl rfl rfl rfl rfl rfl rfl rfl rfl))

theorem takeData_follows {k : Mach} (x0 : Mach) (x1 : Nat) (x2 : List Byte) (h0 : Follows k x0) :
    Follows k (takeData x0 x1 x2) := by
  unfold takeData
  repeat' (first | with_reducible assumption | (lift_lets; intro mm) | with_reducible (apply injectedAction_follows) | (refine injectedAction_follows' _ _ _ ?_ _ _ (by assumption)) | with_reducible (apply askReplay_follows) | with_reducible (apply setBundle_follows) | with_reducible (apply releaseReordered_follows) | with_reducible (apply sequenceData_follows) | with_reducible (apply foldl_follows) | split | intro _ | with_reducible (refine Follows.of_mk ?_ rfl rfl rfl rfl rfl rfl rfl rfl rfl))

theorem execSlotSendStart_follows {k : Mach} (x0 : Nat) (x1 : State) (h0 : Follows k x1.m) :
    ∃ t, execSlotSendStart x0 x1 = .next t ∧ t.pending = x1.pending ∧ Follows k t.m := by
  refine nextM_follows ?_
  repeat' (first | with_reducible assumption | (lift_lets; intro mm) | with_reducible (apply killLanes_follows) | with_reducible (apply advance_follows) | with_reducible (apply setSlot_follows) | with_reducible (apply draw_follows) | (refine draw_follows' _ ?_ _ _ (by assumption)) | with_reducible (apply enterPacket_follows) | with_reducible (apply foldl_follows) | split | intro _ | with_reducible (refine Follows.of_mk ?_ rfl rfl rfl rfl rfl rfl rfl rfl rfl))

theorem execSlotDeadline_follows {k : Mach} (x0 : Nat) (x1 : State) (h0 : Follows k x1.m) :
    ∃ t, execSlotDeadline x0 x1 = .next t ∧ t.pending = x1.pending ∧ Follows k t.m := by
  refine nextM_follows ?_
  repeat' (first | with_reducible assumption | (lift_lets; intro mm) | with_reducible (apply advance_follows) | with_reducible (apply setSlot_follows) | with_reducible (apply bundleFault_follows) | with_reducible (apply count_follows) | with_reducible (apply foldl_follows) | split | intro _ | with_reducible (refine Follows.of_mk ?_ rfl rfl rfl rfl rfl rfl rfl rfl rfl))

theorem takeHello_follows {k : Mach} (x0 : Mach) (x1 : Nat) (x2 : List Byte) (h0 : Follows k x0) :
    Follows k (takeHello x0 x1 x2) := by
  unfold takeHello
  repeat' (first | with_reducible assumption | (lift_lets; intro mm) | with_reducible (apply odSet_follows) | with_reducible (apply setBundle_follows) | with_reducible (apply sendFrame_follows) | with_reducible (apply foldl_follows) | split | intro _ | with_reducible (refine Follows.of_mk ?_ rfl rfl rfl rfl rfl rfl rfl rfl rfl))

theorem receiveT0_follows {k : Mach} (x0 : Mach) (x1 : Nat) (h0 : Follows k x0) :
    Follows k (receiveT0 x0 x1) := by
  unfold receiveT0
  repeat' (first | with_reducible assumption | (lift_lets; intro mm) | with_reducible (apply raiseFault_follows) | with_reducible (apply giveAnswers_follows) | with_reducible (apply startJob_follows) | with_reducible (apply foldl_follows) | split | intro _ | with_reducible (refine Follows.of_mk ?_ rfl rfl rfl rfl rfl rfl rfl rfl rfl))

theorem moduleLate_follows {k : Mach} (x0 : Mach) (h0 : Follows k x0) :
    Follows k (moduleLate x0) := by
  unfold moduleLate
  repeat' (first | with_reducible assumption | (lift_lets; intro mm) | with_reducible (apply stopRow_follows) | with_reducible (apply raiseFault_follows) | with_reducible (apply foldl_follows) | split | intro _ | with_reducible (refine Follows.of_mk ?_ rfl rfl rfl rfl rfl rfl rfl rfl rfl))

theorem relayedChange_follows {k : Mach} (x0 : Mach) (x1 : MeshMsg) (h0 : Follows k x0) :
    Follows k (relayedChange x0 x1) := by
  unfold relayedChange
  repeat' (first | with_reducible assumption | (lift_lets; intro mm) | with_reducible (apply moduleLate_follows) | with_reducible (apply noteBeat_follows) | with_reducible (apply setReplState_follows) | with_reducible (apply foldl_follows) | split | intro _ | with_reducible (refine Follows.of_mk ?_ rfl rfl rfl rfl rfl rfl rfl rfl rfl))

theorem relayedFix_follows {k : Mach} (x0 : Mach) (x1 : MeshMsg) (h0 : Follows k x0) :
    Follows k (relayedFix x0 x1) := by
  unfold relayedFix
  repeat' (first | with_reducible assumption | (lift_lets; intro mm) | with_reducible (apply setReplState_follows) | with_reducible (apply foldl_follows) | split | intro _ | with_reducible (refine Follows.of_mk ?_ rfl rfl rfl rfl rfl rfl rfl rfl rfl))

theorem relayedMessage_follows {k : Mach} (x0 : Mach) (x1 : MeshMsg) (h0 : Follows k x0) :
    Follows k (relayedMessage x0 x1) := by
  unfold relayedMessage
  repeat' (first | with_reducible assumption | (lift_lets; intro mm) | with_reducible (apply handleFault_follows) | with_reducible (apply relayedChange_follows) | with_reducible (apply receiveT0_follows) | with_reducible (apply relayedFix_follows) | with_reducible (apply foldl_follows) | split | intro _ | with_reducible (refine Follows.of_mk ?_ rfl rfl rfl rfl rfl rfl rfl rfl rfl))

theorem takeCtrl_follows {k : Mach} (x0 : Mach) (x1 : Nat) (x2 : List Byte) (h0 : Follows k x0) :
    Follows k (takeCtrl x0 x1 x2) := by
  unfold takeCtrl
  repeat' (first | with_reducible assumption | (lift_lets; intro mm) | with_reducible (apply askReplay_follows) | with_reducible (apply sendAck_follows) | with_reducible (apply setBundle_follows) | with_reducible (apply postMesh_follows) | with_reducible (apply relayedMessage_follows) | with_reducible (apply relayCtrl_follows) | with_reducible (apply foldl_follows) | split | intro _ | with_reducible (refine Follows.of_mk ?_ rfl rfl rfl rfl rfl rfl rfl rfl rfl))

theorem onFrame_follows {k : Mach} (x0 : Mach) (x1 : Nat) (x2 : Nat) (x3 : Nat) (x4 : List Byte) (x5 : Mach → Mach) (hx5 : ∀ y0, Follows k y0 → Follows k (x5 y0)) (h0 : Follows k x0) :
    Follows k (onFrame x0 x1 x2 x3 x4 x5) := by
  unfold onFrame
  repeat' (first | with_reducible assumption | (lift_lets; intro mm) | with_reducible (apply killLanes_follows) | with_reducible (apply count_follows) | with_reducible (apply hx5) | with_reducible (apply foldl_follows) | split | intro _ | with_reducible (refine Follows.of_mk ?_ rfl rfl rfl rfl rfl rfl rfl rfl rfl))

theorem execHello_follows {k : Mach} (x0 : Fin 8) (x1 : List Byte) (x2 : State) (h0 : Follows k x2.m) :
    ∃ t, execHello x0 x1 x2 = .next t ∧ t.pending = x2.pending ∧ Follows k t.m := by
  refine nextM_follows ?_
  repeat' (first | with_reducible assumption | (lift_lets; intro mm) | with_reducible (apply onFrame_follows) | with_reducible (apply takeHello_follows) | with_reducible (apply foldl_follows) | split | intro _ | with_reducible (refine Follows.of_mk ?_ rfl rfl rfl rfl rfl rfl rfl rfl rfl))

theorem execData_follows {k : Mach} (x0 : Fin 8) (x1 : List Byte) (x2 : State) (h0 : Follows k x2.m) :
    ∃ t, execData x0 x1 x2 = .next t ∧ t.pending = x2.pending ∧ Follows k t.m := by
  refine nextM_follows ?_
  repeat' (first | with_reducible assumption | (lift_lets; intro mm) | with_reducible (apply onFrame_follows) | with_reducible (apply takeData_follows) | with_reducible (apply foldl_follows) | split | intro _ | with_reducible (refine Follows.of_mk ?_ rfl rfl rfl rfl rfl rfl rfl rfl rfl))

theorem execAck_follows {k : Mach} (x0 : Fin 8) (x1 : List Byte) (x2 : State) (h0 : Follows k x2.m) :
    ∃ t, execAck x0 x1 x2 = .next t ∧ t.pending = x2.pending ∧ Follows k t.m := by
  refine nextM_follows ?_
  repeat' (first | with_reducible assumption | (lift_lets; intro mm) | with_reducible (apply onFrame_follows) | with_reducible (apply ackFrame_follows) | with_reducible (apply foldl_follows) | split | intro _ | with_reducible (refine Follows.of_mk ?_ rfl rfl rfl rfl rfl rfl rfl rfl rfl))

theorem execCtrl_follows {k : Mach} (x0 : Fin 8) (x1 : List Byte) (x2 : State) (h0 : Follows k x2.m) :
    ∃ t, execCtrl x0 x1 x2 = .next t ∧ t.pending = x2.pending ∧ Follows k t.m := by
  refine nextM_follows ?_
  repeat' (first | with_reducible assumption | (lift_lets; intro mm) | with_reducible (apply onFrame_follows) | with_reducible (apply takeCtrl_follows) | with_reducible (apply foldl_follows) | split | intro _ | with_reducible (refine Follows.of_mk ?_ rfl rfl rfl rfl rfl rfl rfl rfl rfl))

theorem execKlProtocolError_follows {k : Mach} (x0 : Fin 8) (x1 : List Byte) (x2 : State) (h0 : Follows k x2.m) :
    ∃ t, execKlProtocolError x0 x1 x2 = .next t ∧ t.pending = x2.pending ∧ Follows k t.m := by
  refine nextM_follows ?_
  repeat' (first | with_reducible assumption | (lift_lets; intro mm) | with_reducible (apply count_follows) | with_reducible (apply foldl_follows) | split | intro _ | with_reducible (refine Follows.of_mk ?_ rfl rfl rfl rfl rfl rfl rfl rfl rfl))

end Sys2Proof.Machine
end

