-- ==== Sys2Proof/Laws/FollowsHallTime.lean ====
section
/-! SUPPORT. The operations and the meanings of Machine/HallTime.lean keep what `Follows` names. -/

namespace Sys2Proof.Machine

theorem setRoot_follows {k : Mach} (x0 : Mach) (x1 : IslandState) (h0 : Follows k x0) :
    Follows k (setRoot x0 x1) := by
  unfold setRoot
  repeat' (first | with_reducible assumption | (lift_lets; intro mm) | with_reducible (apply setIsland_follows) | split | intro _ | with_reducible (refine Follows.of_mk ?_ rfl rfl rfl rfl rfl rfl rfl rfl rfl))

theorem followSource_follows {k : Mach} (x0 : Mach) (x1 : Int) (h0 : Follows k x0) :
    Follows k (followSource x0 x1) := by
  unfold followSource
  extract_lets x far wait ma mb
  have hw : ∀ m, Follows k m → Follows k (wait m) := by
    intro m h
    unfold wait
    split
    · exact odSet_follows _ _ _ _ (h.of_eq rfl rfl rfl rfl rfl rfl rfl rfl rfl)
    · exact h
  clear_value wait
  split
  · refine setRoot_follows _ _ ?_
    split
    · exact moveRoot_follows _ _ h0
    · exact hw _ h0
  · split
    · exact hw _ h0
    · exact setRoot_follows _ _ (moveRoot_follows _ _ h0)
  · have h1 : Follows k ma := setRoot_follows _ _ h0
    clear_value ma
    split
    · exact h1
    · split
      · exact hw _ h1
      · split
        · exact moveRoot_follows _ _ h1
        · exact h1
  · have h1 : Follows k mb := noteHoldover_follows _ _ (setRoot_follows _ _ h0)
    clear_value mb
    split
    · exact h1
    · split
      · exact hw _ h1
      · split
        · exact moveRoot_follows _ _ h1
        · exact h1

theorem takeTime_follows {k : Mach} (x0 : Mach) (x1 : Nat) (x2 : List Byte) (h0 : Follows k x0) :
    Follows k (takeTime x0 x1 x2) := by
  unfold takeTime
  repeat' (first | with_reducible assumption | (lift_lets; intro mm) | with_reducible (apply setBundle_follows) | with_reducible (apply odSet_follows) | with_reducible (apply setRoot_follows) | with_reducible (apply followSource_follows) | split | intro _ | with_reducible (refine Follows.of_mk ?_ rfl rfl rfl rfl rfl rfl rfl rfl rfl))

theorem execTime_follows {k : Mach} (x0 : Fin 8) (x1 : List Byte) (x2 : State) (h0 : Follows k x2.m) :
    ∃ t, execTime x0 x1 x2 = .next t ∧ t.pending = x2.pending ∧ Follows k t.m := by
  refine nextM_follows ?_
  repeat' (first | with_reducible assumption | (lift_lets; intro mm) | with_reducible (apply onFrame_follows) | with_reducible (apply takeTime_follows) | split | intro _ | with_reducible (refine Follows.of_mk ?_ rfl rfl rfl rfl rfl rfl rfl rfl rfl))

theorem execTimeFrameDue_follows {k : Mach} (x0 : Fin 8) (x1 : State) (h0 : Follows k x1.m) :
    ∃ t, execTimeFrameDue x0 x1 = .next t ∧ t.pending = x1.pending ∧ Follows k t.m := by
  refine nextM_follows ?_
  repeat' (first | with_reducible assumption | (lift_lets; intro mm) | with_reducible (apply sendFrame_follows) | split | intro _ | with_reducible (refine Follows.of_mk ?_ rfl rfl rfl rfl rfl rfl rfl rfl rfl))

theorem execRootSourceTimeout_follows {k : Mach} (x0 : State) (h0 : Follows k x0.m) :
    ∃ t, execRootSourceTimeout x0 = .next t ∧ t.pending = x0.pending ∧ Follows k t.m := by
  refine nextM_follows ?_
  repeat' (first | with_reducible assumption | (lift_lets; intro mm) | with_reducible (apply advance_follows) | with_reducible (apply noteHoldover_follows) | with_reducible (apply odSet_follows) | with_reducible (apply setRoot_follows) | split | intro _ | with_reducible (refine Follows.of_mk ?_ rfl rfl rfl rfl rfl rfl rfl rfl rfl))

theorem execRootHoldoverLimit_follows {k : Mach} (x0 : State) (h0 : Follows k x0.m) :
    ∃ t, execRootHoldoverLimit x0 = .next t ∧ t.pending = x0.pending ∧ Follows k t.m := by
  refine nextM_follows ?_
  repeat' (first | with_reducible assumption | (lift_lets; intro mm) | with_reducible (apply noteHoldover_follows) | with_reducible (apply advance_follows) | with_reducible (apply raiseFault_follows) | with_reducible (apply postEvent_follows) | split | intro _ | with_reducible (refine Follows.of_mk ?_ rfl rfl rfl rfl rfl rfl rfl rfl rfl))

theorem execPtpMessage_follows {k : Mach} (x0 : PtpObs) (x1 : State) (h0 : Follows k x1.m) :
    ∃ t, execPtpMessage x0 x1 = .next t ∧ t.pending = x1.pending ∧ Follows k t.m := by
  refine nextM_follows ?_
  repeat' (first | with_reducible assumption | (lift_lets; intro mm) | with_reducible (apply followSource_follows) | with_reducible (apply odSet_follows) | split | intro _ | with_reducible (refine Follows.of_mk ?_ rfl rfl rfl rfl rfl rfl rfl rfl rfl))

theorem execLoadCompleteReport_follows {k : Mach} (x0 : Nat) (x1 : State) (h0 : Follows k x1.m) :
    ∃ t, execLoadCompleteReport x0 x1 = .next t ∧ t.pending = x1.pending ∧ Follows k t.m := by
  refine nextM_follows ?_
  repeat' (first | with_reducible assumption | (lift_lets; intro mm) | with_reducible (apply chooseT0_follows) | with_reducible (apply noteReport_follows) | split | intro _ | with_reducible (refine Follows.of_mk ?_ rfl rfl rfl rfl rfl rfl rfl rfl rfl))

theorem execJobStartT0_follows {k : Mach} (x0 : Nat) (x1 : State) (h0 : Follows k x1.m) :
    ∃ t, execJobStartT0 x0 x1 = .next t ∧ t.pending = x1.pending ∧ Follows k t.m := by
  refine nextM_follows ?_
  repeat' (first | with_reducible assumption | (lift_lets; intro mm) | with_reducible (apply receiveT0_follows) | split | intro _ | with_reducible (refine Follows.of_mk ?_ rfl rfl rfl rfl rfl rfl rfl rfl rfl))

theorem injectRun_follows {k : Mach} (x0 : Mach) (x1 : Via) (x2 : List Byte) (x3 : Option Reply) (h0 : Follows k x0) :
    Follows k (injectRun x0 x1 x2 x3) := by
  unfold injectRun
  repeat' (first | with_reducible assumption | (lift_lets; intro mm) | with_reducible (apply answer_follows) | with_reducible (apply killLanes_follows) | split | intro _ | with_reducible (refine Follows.of_mk ?_ rfl rfl rfl rfl rfl rfl rfl rfl rfl))

theorem execFaultInject_follows {k : Mach} (x0 : Via) (x1 : List Byte) (x2 : State) (h0 : Follows k x2.m) :
    ∃ t, execFaultInject x0 x1 x2 = .next t ∧ t.pending = x2.pending ∧ Follows k t.m := by
  refine nextM_follows ?_
  repeat' (first | with_reducible assumption | (lift_lets; intro mm) | with_reducible (apply commandRow_follows) | with_reducible (apply injectRun_follows) | split | intro _ | with_reducible (refine Follows.of_mk ?_ rfl rfl rfl rfl rfl rfl rfl rfl rfl))

end Sys2Proof.Machine
end

