-- ==== Sys2Proof/Laws/FollowsHostPort.lean ====
section
/-! SUPPORT. The operations and the meanings of Machine/HostPort.lean keep what `Follows` names. -/

namespace Sys2Proof.Machine

theorem queueNv_follows {k : Mach} (x0 : Mach) (x1 : NvWrite) (h0 : Follows k x0) :
    Follows k (queueNv x0 x1) := by
  unfold queueNv
  repeat' (first | with_reducible assumption | (lift_lets; intro mm) | with_reducible (apply foldl_follows) | split | intro _ | with_reducible (refine Follows.of_mk ?_ rfl rfl rfl rfl rfl rfl rfl rfl rfl))

theorem nvRow_follows {k : Mach} (x0 : Mach) (x1 : Via) (x2 : Nat) (x3 : Nat) (x4 : List Byte) (h0 : Follows k x0) :
    Follows k (nvRow x0 x1 x2 x3 x4) := by
  unfold nvRow
  repeat' (first | with_reducible assumption | (lift_lets; intro mm) | with_reducible (apply answer_follows) | with_reducible (apply queueNv_follows) | with_reducible (apply foldl_follows) | split | intro _ | with_reducible (refine Follows.of_mk ?_ rfl rfl rfl rfl rfl rfl rfl rfl rfl))

theorem dropContext_follows {k : Mach} (x0 : Mach) (x1 : Nat) (h0 : Follows k x0) :
    Follows k (dropContext x0 x1) := by
  unfold dropContext
  repeat' (first | with_reducible assumption | (lift_lets; intro mm) | with_reducible (apply serves_follows) | with_reducible (apply setCtx_follows) | with_reducible (apply endChain_follows) | with_reducible (apply foldl_follows) | split | intro _ | with_reducible (refine Follows.of_mk ?_ rfl rfl rfl rfl rfl rfl rfl rfl rfl))

theorem discardReads_follows {k : Mach} (x0 : Mach) (x1 : Nat) (h0 : Follows k x0) :
    Follows k (discardReads x0 x1) := by
  unfold discardReads
  repeat' (first | with_reducible assumption | (lift_lets; intro mm) | with_reducible (apply foldl_follows) | split | intro _ | with_reducible (refine Follows.of_mk ?_ rfl rfl rfl rfl rfl rfl rfl rfl rfl))

theorem endFunction_follows {k : Mach} (x0 : Mach) (x1 : Nat) (h0 : Follows k x0) :
    Follows k (endFunction x0 x1) := by
  unfold endFunction
  repeat' (first | with_reducible assumption | (lift_lets; intro mm) | with_reducible (apply setFn_follows) | with_reducible (apply count_follows) | with_reducible (apply dropContext_follows) | with_reducible (apply discardReads_follows) | with_reducible (apply foldl_follows) | split | intro _ | with_reducible (refine Follows.of_mk ?_ rfl rfl rfl rfl rfl rfl rfl rfl rfl))

theorem resetMsix_follows {k : Mach} (x0 : Mach) (x1 : Nat) (h0 : Follows k x0) :
    Follows k (resetMsix x0 x1) := by
  unfold resetMsix
  repeat' (first | with_reducible assumption | (lift_lets; intro mm) | with_reducible (apply setFn_follows) | with_reducible (apply foldl_follows) | split | intro _ | with_reducible (refine Follows.of_mk ?_ rfl rfl rfl rfl rfl rfl rfl rfl rfl))

theorem clearWindowTable_follows {k : Mach} (x0 : Mach) (h0 : Follows k x0) :
    Follows k (clearWindowTable x0) := by
  unfold clearWindowTable
  repeat' (first | with_reducible assumption | (lift_lets; intro mm) | with_reducible (apply foldl_follows) | split | intro _ | with_reducible (refine Follows.of_mk ?_ rfl rfl rfl rfl rfl rfl rfl rfl rfl))

theorem endAllFunctions_follows {k : Mach} (x0 : Mach) (h0 : Follows k x0) :
    Follows k (endAllFunctions x0) := by
  unfold endAllFunctions
  repeat' (first | with_reducible assumption | (lift_lets; intro mm) | with_reducible (apply clearWindowTable_follows) | with_reducible (apply resetMsix_follows) | with_reducible (apply endFunction_follows) | with_reducible (apply foldl_follows) | split | intro _ | with_reducible (refine Follows.of_mk ?_ rfl rfl rfl rfl rfl rfl rfl rfl rfl))

theorem linkGone_follows {k : Mach} (x0 : Mach) (h0 : Follows k x0) :
    Follows k (linkGone x0) := by
  unfold linkGone
  repeat' (first | with_reducible assumption | (lift_lets; intro mm) | with_reducible (apply endAllFunctions_follows) | with_reducible (apply odSet_follows) | with_reducible (apply foldl_follows) | split | intro _ | with_reducible (refine Follows.of_mk ?_ rfl rfl rfl rfl rfl rfl rfl rfl rfl))

theorem execFunctionLevelReset_follows {k : Mach} (x0 : Fin 16) (x1 : State) (h0 : Follows k x1.m) :
    ∃ t, execFunctionLevelReset x0 x1 = .next t ∧ t.pending = x1.pending ∧ Follows k t.m := by
  refine nextM_follows ?_
  repeat' (first | with_reducible assumption | (lift_lets; intro mm) | with_reducible (apply endAllFunctions_follows) | with_reducible (apply resetMsix_follows) | with_reducible (apply endFunction_follows) | with_reducible (apply foldl_follows) | split | intro _ | with_reducible (refine Follows.of_mk ?_ rfl rfl rfl rfl rfl rfl rfl rfl rfl))

theorem execVfEnableClear_follows {k : Mach} (x0 : Fin 16) (x1 : State) (h0 : Follows k x1.m) :
    ∃ t, execVfEnableClear x0 x1 = .next t ∧ t.pending = x1.pending ∧ Follows k t.m := by
  refine nextM_follows ?_
  repeat' (first | with_reducible assumption | (lift_lets; intro mm) | with_reducible (apply resetMsix_follows) | with_reducible (apply endFunction_follows) | with_reducible (apply foldl_follows) | split | intro _ | with_reducible (refine Follows.of_mk ?_ rfl rfl rfl rfl rfl rfl rfl rfl rfl))

theorem execBusMasterDisable_follows {k : Mach} (x0 : Fin 16) (x1 : State) (h0 : Follows k x1.m) :
    ∃ t, execBusMasterDisable x0 x1 = .next t ∧ t.pending = x1.pending ∧ Follows k t.m := by
  refine nextM_follows ?_
  repeat' (first | with_reducible assumption | (lift_lets; intro mm) | with_reducible (apply endFunction_follows) | with_reducible (apply foldl_follows) | split | intro _ | with_reducible (refine Follows.of_mk ?_ rfl rfl rfl rfl rfl rfl rfl rfl rfl))

theorem execD3hotEntry_follows {k : Mach} (x0 : Fin 16) (x1 : State) (h0 : Follows k x1.m) :
    ∃ t, execD3hotEntry x0 x1 = .next t ∧ t.pending = x1.pending ∧ Follows k t.m := by
  refine nextM_follows ?_
  repeat' (first | with_reducible assumption | (lift_lets; intro mm) | with_reducible (apply endFunction_follows) | with_reducible (apply foldl_follows) | split | intro _ | with_reducible (refine Follows.of_mk ?_ rfl rfl rfl rfl rfl rfl rfl rfl rfl))

theorem execLinkDown_follows {k : Mach} (x0 : State) (h0 : Follows k x0.m) :
    ∃ t, execLinkDown x0 = .next t ∧ t.pending = x0.pending ∧ Follows k t.m := by
  refine nextM_follows ?_
  repeat' (first | with_reducible assumption | (lift_lets; intro mm) | with_reducible (apply linkGone_follows) | with_reducible (apply foldl_follows) | split | intro _ | with_reducible (refine Follows.of_mk ?_ rfl rfl rfl rfl rfl rfl rfl rfl rfl))

theorem trainLink_follows {k : Mach} (x0 : Mach) (h0 : Follows k x0) :
    Follows k (trainLink x0) := by
  unfold trainLink
  repeat' (first | with_reducible assumption | (lift_lets; intro mm) | with_reducible (apply draw_follows) | (refine draw_follows' _ ?_ _ _ (by assumption)) | with_reducible (apply odSet_follows) | with_reducible (apply foldl_follows) | split | intro _ | with_reducible (refine Follows.of_mk ?_ rfl rfl rfl rfl rfl rfl rfl rfl rfl))

theorem execFunctionReenable_follows {k : Mach} (x0 : Fin 16) (x1 : State) (h0 : Follows k x1.m) :
    ∃ t, execFunctionReenable x0 x1 = .next t ∧ t.pending = x1.pending ∧ Follows k t.m := by
  refine nextM_follows ?_
  repeat' (first | with_reducible assumption | (lift_lets; intro mm) | with_reducible (apply trainLink_follows) | with_reducible (apply setFn_follows) | with_reducible (apply resetWindow_follows) | with_reducible (apply foldl_follows) | split | intro _ | with_reducible (refine Follows.of_mk ?_ rfl rfl rfl rfl rfl rfl rfl rfl rfl))

theorem bifurcate_follows {k : Mach} (x0 : Mach) (h0 : Follows k x0) :
    Follows k (bifurcate x0) := by
  unfold bifurcate
  repeat' (first | with_reducible assumption | (lift_lets; intro mm) | with_reducible (apply linkGone_follows) | with_reducible (apply odSet_follows) | with_reducible (apply foldl_follows) | split | intro _ | with_reducible (refine Follows.of_mk ?_ rfl rfl rfl rfl rfl rfl rfl rfl rfl))

theorem execPcieBifurcationWrite_follows {k : Mach} (x0 : Via) (x1 : List Byte) (x2 : State) (h0 : Follows k x2.m) :
    ∃ t, execPcieBifurcationWrite x0 x1 x2 = .next t ∧ t.pending = x2.pending ∧ Follows k t.m := by
  refine nextM_follows ?_
  repeat' (first | with_reducible assumption | (lift_lets; intro mm) | with_reducible (apply nvRow_follows) | with_reducible (apply foldl_follows) | split | intro _ | with_reducible (refine Follows.of_mk ?_ rfl rfl rfl rfl rfl rfl rfl rfl rfl))

theorem execStagerEnumeration_follows {k : Mach} (x0 : StagerDevice) (x1 : State) (h0 : Follows k x1.m) :
    ∃ t, execStagerEnumeration x0 x1 = .next t ∧ t.pending = x1.pending ∧ Follows k t.m := by
  refine nextM_follows ?_
  repeat' (first | with_reducible assumption | (lift_lets; intro mm) | with_reducible (apply odSet_follows) | with_reducible (apply foldl_follows) | split | intro _ | with_reducible (refine Follows.of_mk ?_ rfl rfl rfl rfl rfl rfl rfl rfl rfl))

theorem clearCause_follows {k : Mach} (x0 : Mach) (x1 : Nat) (x2 : Nat) (x3 : List Byte) (h0 : Follows k x0) :
    Follows k (clearCause x0 x1 x2 x3) := by
  unfold clearCause
  repeat' (first | with_reducible assumption | (lift_lets; intro mm) | with_reducible (apply setFn_follows) | with_reducible (apply foldl_follows) | split | intro _ | with_reducible (refine Follows.of_mk ?_ rfl rfl rfl rfl rfl rfl rfl rfl rfl))

theorem execEventCauseWrite_follows {k : Mach} (x0 : Fin 16) (x1 : Fin 8) (x2 : List Byte) (x3 : State) (h0 : Follows k x3.m) :
    ∃ t, execEventCauseWrite x0 x1 x2 x3 = .next t ∧ t.pending = x3.pending ∧ Follows k t.m := by
  refine nextM_follows ?_
  repeat' (first | with_reducible assumption | (lift_lets; intro mm) | with_reducible (apply clearCause_follows) | with_reducible (apply foldl_follows) | split | intro _ | with_reducible (refine Follows.of_mk ?_ rfl rfl rfl rfl rfl rfl rfl rfl rfl))

theorem setAperture_follows {k : Mach} (x0 : Mach) (x1 : Nat) (x2 : List Byte) (h0 : Follows k x0) :
    Follows k (setAperture x0 x1 x2) := by
  unfold setAperture
  repeat' (first | with_reducible assumption | (lift_lets; intro mm) | with_reducible (apply foldl_follows) | split | intro _ | with_reducible (refine Follows.of_mk ?_ rfl rfl rfl rfl rfl rfl rfl rfl rfl))

theorem execApertureBaseWrite_follows {k : Mach} (x0 : Fin 8) (x1 : List Byte) (x2 : State) (h0 : Follows k x2.m) :
    ∃ t, execApertureBaseWrite x0 x1 x2 = .next t ∧ t.pending = x2.pending ∧ Follows k t.m := by
  refine nextM_follows ?_
  repeat' (first | with_reducible assumption | (lift_lets; intro mm) | with_reducible (apply setAperture_follows) | with_reducible (apply foldl_follows) | split | intro _ | with_reducible (refine Follows.of_mk ?_ rfl rfl rfl rfl rfl rfl rfl rfl rfl))

theorem judgeEntry_follows {k : Mach} (x0 : Mach) (x1 : Nat) (h0 : Follows k x0) :
    Follows k (judgeEntry x0 x1) := by
  unfold judgeEntry
  repeat' (first | with_reducible assumption | (lift_lets; intro mm) | with_reducible (apply writeBar0_follows) | with_reducible (apply foldl_follows) | split | intro _ | with_reducible (refine Follows.of_mk ?_ rfl rfl rfl rfl rfl rfl rfl rfl rfl))

theorem writeWindowTable_follows {k : Mach} (x0 : Mach) (x1 : Nat) (x2 : List Byte) (h0 : Follows k x0) :
    Follows k (writeWindowTable x0 x1 x2) := by
  unfold writeWindowTable
  repeat' (first | with_reducible assumption | (lift_lets; intro mm) | with_reducible (apply judgeEntry_follows) | with_reducible (apply foldl_follows) | split | intro _ | with_reducible (refine Follows.of_mk ?_ rfl rfl rfl rfl rfl rfl rfl rfl rfl))

theorem execWindowTableWrite_follows {k : Mach} (x0 : Fin 65536) (x1 : List Byte) (x2 : State) (h0 : Follows k x2.m) :
    ∃ t, execWindowTableWrite x0 x1 x2 = .next t ∧ t.pending = x2.pending ∧ Follows k t.m := by
  refine nextM_follows ?_
  repeat' (first | with_reducible assumption | (lift_lets; intro mm) | with_reducible (apply writeWindowTable_follows) | with_reducible (apply foldl_follows) | split | intro _ | with_reducible (refine Follows.of_mk ?_ rfl rfl rfl rfl rfl rfl rfl rfl rfl))

theorem execHtcNowRead_follows {k : Mach} (x0 : Fin 16) (x1 : Bool) (x2 : Nat) (x3 : State) (h0 : Follows k x3.m) :
    ∃ t, execHtcNowRead x0 x1 x2 x3 = .next t ∧ t.pending = x3.pending ∧ Follows k t.m := by
  refine nextM_follows ?_
  repeat' (first | with_reducible assumption | (lift_lets; intro mm) | with_reducible (apply emit_follows) | with_reducible (apply foldl_follows) | split | intro _ | with_reducible (refine Follows.of_mk ?_ rfl rfl rfl rfl rfl rfl rfl rfl rfl))

theorem execBar2Read_follows {k : Mach} (x0 : BitVec 32) (x1 : Nat) (x2 : State) (h0 : Follows k x2.m) :
    ∃ t, execBar2Read x0 x1 x2 = .next t ∧ t.pending = x2.pending ∧ Follows k t.m := by
  refine nextM_follows ?_
  repeat' (first | with_reducible assumption | (lift_lets; intro mm) | with_reducible (apply emit_follows) | with_reducible (apply serveHbm_follows) | with_reducible (apply foldl_follows) | split | intro _ | with_reducible (refine Follows.of_mk ?_ rfl rfl rfl rfl rfl rfl rfl rfl rfl))

theorem execBar2Write_follows {k : Mach} (x0 : BitVec 32) (x1 : List Byte) (x2 : State) (h0 : Follows k x2.m) :
    ∃ t, execBar2Write x0 x1 x2 = .next t ∧ t.pending = x2.pending ∧ Follows k t.m := by
  refine nextM_follows ?_
  repeat' (first | with_reducible assumption | (lift_lets; intro mm) | with_reducible (apply count_follows) | with_reducible (apply foldl_follows) | split | intro _ | with_reducible (refine Follows.of_mk ?_ rfl rfl rfl rfl rfl rfl rfl rfl rfl))

theorem tailFailed_follows {k : Mach} (x0 : Mach) (x1 : Nat) (h0 : Follows k x0) :
    Follows k (tailFailed x0 x1) := by
  unfold tailFailed
  repeat' (first | with_reducible assumption | (lift_lets; intro mm) | with_reducible (apply setCtx_follows) | with_reducible (apply endStatus_follows) | with_reducible (apply foldl_follows) | split | intro _ | with_reducible (refine Follows.of_mk ?_ rfl rfl rfl rfl rfl rfl rfl rfl rfl))

theorem stepTailFailed_follows {k : Mach} (x0 : Mach) (x1 : Nat) (h0 : Follows k x0) :
    Follows k (stepTailFailed x0 x1) := by
  unfold stepTailFailed
  repeat' (first | with_reducible assumption | (lift_lets; intro mm) | with_reducible (apply setFn_follows) | with_reducible (apply endStatus_follows) | with_reducible (apply foldl_follows) | split | intro _ | with_reducible (refine Follows.of_mk ?_ rfl rfl rfl rfl rfl rfl rfl rfl rfl))

theorem qldFailed_follows {k : Mach} (x0 : Mach) (x1 : CoreId) (x2 : Nat) (x3 : Nat) (h0 : Follows k x0) :
    Follows k (qldFailed x0 x1 x2 x3) := by
  unfold qldFailed
  repeat' (first | with_reducible assumption | (lift_lets; intro mm) | with_reducible (apply rowFault_follows) | with_reducible (apply setQueues_follows) | with_reducible (apply foldl_follows) | split | intro _ | with_reducible (refine Follows.of_mk ?_ rfl rfl rfl rfl rfl rfl rfl rfl rfl))

theorem imageFailed_follows {k : Mach} (x0 : Mach) (x1 : Nat) (h0 : Follows k x0) :
    Follows k (imageFailed x0 x1) := by
  unfold imageFailed
  repeat' (first | with_reducible assumption | (lift_lets; intro mm) | with_reducible (apply refuseLoad_follows) | with_reducible (apply giveFirst_follows) | with_reducible (apply endRepl_follows) | with_reducible (apply dropLatent_follows) | with_reducible (apply foldl_follows) | split | intro _ | with_reducible (refine Follows.of_mk ?_ rfl rfl rfl rfl rfl rfl rfl rfl rfl))

theorem readFailed_follows {k : Mach} (x0 : Mach) (x1 : ReadPurpose) (h0 : Follows k x0) :
    Follows k (readFailed x0 x1) := by
  unfold readFailed
  repeat' (first | with_reducible assumption | (lift_lets; intro mm) | with_reducible (apply count_follows) | with_reducible (apply promptFailed_follows) | with_reducible (apply tailFailed_follows) | with_reducible (apply stepTailFailed_follows) | with_reducible (apply qldFailed_follows) | with_reducible (apply imageFailed_follows) | with_reducible (apply adapterReadFailed_follows) | with_reducible (apply foldl_follows) | split | intro _ | with_reducible (refine Follows.of_mk ?_ rfl rfl rfl rfl rfl rfl rfl rfl rfl))

theorem execReadCompletionError_follows {k : Mach} (x0 : ReadPurpose) (x1 : State) (h0 : Follows k x1.m) :
    ∃ t, execReadCompletionError x0 x1 = .next t ∧ t.pending = x1.pending ∧ Follows k t.m := by
  refine nextM_follows ?_
  repeat' (first | with_reducible assumption | (lift_lets; intro mm) | with_reducible (apply readFailed_follows) | with_reducible (apply foldl_follows) | split | intro _ | with_reducible (refine Follows.of_mk ?_ rfl rfl rfl rfl rfl rfl rfl rfl rfl))

theorem execCompletionTimeout_follows {k : Mach} (x0 : ReadPurpose) (x1 : State) (h0 : Follows k x1.m) :
    ∃ t, execCompletionTimeout x0 x1 = .next t ∧ t.pending = x1.pending ∧ Follows k t.m := by
  refine nextM_follows ?_
  repeat' (first | with_reducible assumption | (lift_lets; intro mm) | with_reducible (apply readFailed_follows) | with_reducible (apply advance_follows) | with_reducible (apply foldl_follows) | split | intro _ | with_reducible (refine Follows.of_mk ?_ rfl rfl rfl rfl rfl rfl rfl rfl rfl))

theorem execMsixHoldoffExpiry_follows {k : Mach} (x0 : Fin 16) (x1 : Fin 8) (x2 : State) (h0 : Follows k x2.m) :
    ∃ t, execMsixHoldoffExpiry x0 x1 x2 = .next t ∧ t.pending = x2.pending ∧ Follows k t.m := by
  refine nextM_follows ?_
  repeat' (first | with_reducible assumption | (lift_lets; intro mm) | with_reducible (apply advance_follows) | with_reducible (apply msixGenerate_follows) | with_reducible (apply setFn_follows) | with_reducible (apply foldl_follows) | split | intro _ | with_reducible (refine Follows.of_mk ?_ rfl rfl rfl rfl rfl rfl rfl rfl rfl))

theorem unmaskVector_follows {k : Mach} (x0 : Mach) (x1 : Nat) (x2 : Nat) (h0 : Follows k x0) :
    Follows k (unmaskVector x0 x1 x2) := by
  unfold unmaskVector
  repeat' (first | with_reducible assumption | (lift_lets; intro mm) | with_reducible (apply setFn_follows) | with_reducible (apply emit_follows) | with_reducible (apply foldl_follows) | split | intro _ | with_reducible (refine Follows.of_mk ?_ rfl rfl rfl rfl rfl rfl rfl rfl rfl))

theorem execMsixUnmask_follows {k : Mach} (x0 : Fin 16) (x1 : Fin 8) (x2 : State) (h0 : Follows k x2.m) :
    ∃ t, execMsixUnmask x0 x1 x2 = .next t ∧ t.pending = x2.pending ∧ Follows k t.m := by
  refine nextM_follows ?_
  repeat' (first | with_reducible assumption | (lift_lets; intro mm) | with_reducible (apply unmaskVector_follows) | with_reducible (apply foldl_follows) | split | intro _ | with_reducible (refine Follows.of_mk ?_ rfl rfl rfl rfl rfl rfl rfl rfl rfl))

end Sys2Proof.Machine
end

