-- ==== Sys2Proof/Laws/FollowsPower.lean ====
section
/-! SUPPORT. The operations and the meanings of Machine/Power.lean keep what `Follows` names. -/

namespace Sys2Proof.Machine

theorem cutNv_follows {k : Mach} (x0 : Mach) (x1 : NvWrite) (h0 : Follows k x0) :
    Follows k (cutNv x0 x1) := by
  unfold cutNv
  repeat' (first | with_reducible assumption | (lift_lets; intro mm) | with_reducible (apply draw_follows) | (refine draw_follows' _ ?_ _ _ (by assumption)) | with_reducible (apply odSet_follows) | with_reducible (apply foldl_follows) | split | intro _ | with_reducible (refine Follows.of_mk ?_ rfl rfl rfl rfl rfl rfl rfl rfl rfl))

theorem setCopyA_follows {k : Mach} (x0 : Mach) (x1 : Nat) (x2 : Option FlashCopy) (h0 : Follows k x0) :
    Follows k (setCopyA x0 x1 x2) := by
  unfold setCopyA
  repeat' (first | with_reducible assumption | (lift_lets; intro mm) | with_reducible (apply foldl_follows) | split | intro _ | with_reducible (refine Follows.of_mk ?_ rfl rfl rfl rfl rfl rfl rfl rfl rfl))

theorem cutFirmware_follows {k : Mach} (x0 : Mach) (h0 : Follows k x0) :
    Follows k (cutFirmware x0) := by
  unfold cutFirmware
  repeat' (first | with_reducible assumption | (lift_lets; intro mm) | with_reducible (apply setCopyA_follows) | with_reducible (apply foldl_follows) | split | intro _ | with_reducible (refine Follows.of_mk ?_ rfl rfl rfl rfl rfl rfl rfl rfl rfl))

theorem offState_follows {k : Mach} (x0 : Mach) (h0 : Follows k x0) :
    Follows k (offState x0) := by
  exact ⟨wf_nil, wf_nil, h0.now, h0.retirement, h0.gradeE, h0.steppingB1, h0.badSites, h0.badCores, h0.badDunes⟩

theorem powerDown_follows {k : Mach} (x0 : Mach) (x1 : Nat) (h0 : Follows k x0) :
    Follows k (powerDown x0 x1) := by
  unfold powerDown
  repeat' (first | with_reducible assumption | (lift_lets; intro mm) | with_reducible (apply odSet_follows) | with_reducible (apply sendFreeze_follows) | with_reducible (apply offState_follows) | with_reducible (apply cutFirmware_follows) | with_reducible (apply cutNv_follows) | with_reducible (apply foldl_follows) | split | intro _ | with_reducible (refine Follows.of_mk ?_ rfl rfl rfl rfl rfl rfl rfl rfl rfl))

theorem enterPowering_follows {k : Mach} (x0 : Mach) (h0 : Follows k x0) :
    Follows k (enterPowering x0) := by
  unfold enterPowering
  repeat' (first | with_reducible assumption | (lift_lets; intro mm) | with_reducible (apply setDune_follows) | with_reducible (apply odSet_follows) | with_reducible (apply setState_follows) | with_reducible (apply foldl_follows) | split | intro _ | with_reducible (refine Follows.of_mk ?_ rfl rfl rfl rfl rfl rfl rfl rfl rfl))

theorem tryPower_follows {k : Mach} (x0 : Mach) (h0 : Follows k x0) :
    Follows k (tryPower x0) := by
  unfold tryPower
  repeat' (first | with_reducible assumption | (lift_lets; intro mm) | with_reducible (apply enterPowering_follows) | with_reducible (apply foldl_follows) | split | intro _ | with_reducible (refine Follows.of_mk ?_ rfl rfl rfl rfl rfl rfl rfl rfl rfl))

theorem endCycle_follows {k : Mach} (x0 : Mach) (h0 : Follows k x0) :
    Follows k (endCycle x0) := by
  unfold endCycle
  repeat' (first | with_reducible assumption | (lift_lets; intro mm) | with_reducible (apply foldl_follows) | split | intro _ | with_reducible (refine Follows.of_mk ?_ rfl rfl rfl rfl rfl rfl rfl rfl rfl))

theorem passOff_follows {k : Mach} (x0 : Mach) (x1 : Nat) (h0 : Follows k x0) :
    Follows k (passOff x0 x1) := by
  exact ⟨h0.sram, h0.hbm, Nat.le_trans h0.now (Nat.le_max_left _ _), h0.retirement, h0.gradeE, h0.steppingB1, h0.badSites, h0.badCores, h0.badDunes⟩

theorem execPwrEnAssert_follows {k : Mach} (x0 : Nat) (x1 : BitVec 6) (x2 : State) (h0 : Follows k x2.m) :
    ∃ t, execPwrEnAssert x0 x1 x2 = .next t ∧ t.pending = x2.pending ∧ Follows k t.m := by
  unfold execPwrEnAssert
  refine nextM_follows ?_
  split
  · exact h0
  · extract_lets n
    have h1 : Follows k n := endCycle_follows _ (passOff_follows x2.m _ h0)
    clear_value n
    exact tryPower_follows _ (Follows.of_mk h1 rfl rfl rfl rfl rfl rfl rfl rfl rfl)

theorem execPwrEnDeassert_follows {k : Mach} (x0 : State) (h0 : Follows k x0.m) :
    ∃ t, execPwrEnDeassert x0 = .next t ∧ t.pending = x0.pending ∧ Follows k t.m := by
  refine nextM_follows ?_
  repeat' (first | with_reducible assumption | (lift_lets; intro mm) | with_reducible (apply powerDown_follows) | with_reducible (apply foldl_follows) | split | intro _ | with_reducible (refine Follows.of_mk ?_ rfl rfl rfl rfl rfl rfl rfl rfl rfl))

theorem execFeedsLost_follows {k : Mach} (x0 : State) (h0 : Follows k x0.m) :
    ∃ t, execFeedsLost x0 = .next t ∧ t.pending = x0.pending ∧ Follows k t.m := by
  refine nextM_follows ?_
  repeat' (first | with_reducible assumption | (lift_lets; intro mm) | with_reducible (apply powerDown_follows) | with_reducible (apply foldl_follows) | split | intro _ | with_reducible (refine Follows.of_mk ?_ rfl rfl rfl rfl rfl rfl rfl rfl rfl))

theorem execFeedIsolate_follows {k : Mach} (x0 : Bool) (x1 : State) (h0 : Follows k x1.m) :
    ∃ t, execFeedIsolate x0 x1 = .next t ∧ t.pending = x1.pending ∧ Follows k t.m := by
  refine nextM_follows ?_
  repeat' (first | with_reducible assumption | (lift_lets; intro mm) | with_reducible (apply postEvent_follows) | with_reducible (apply count_follows) | with_reducible (apply powerDown_follows) | with_reducible (apply foldl_follows) | split | intro _ | with_reducible (refine Follows.of_mk ?_ rfl rfl rfl rfl rfl rfl rfl rfl rfl))

theorem execFeedRejoin_follows {k : Mach} (x0 : Bool) (x1 : State) (h0 : Follows k x1.m) :
    ∃ t, execFeedRejoin x0 x1 = .next t ∧ t.pending = x1.pending ∧ Follows k t.m := by
  refine nextM_follows ?_
  repeat' (first | with_reducible assumption | (lift_lets; intro mm) | with_reducible (apply tryPower_follows) | with_reducible (apply foldl_follows) | split | intro _ | with_reducible (refine Follows.of_mk ?_ rfl rfl rfl rfl rfl rfl rfl rfl rfl))

theorem converterFails_follows {k : Mach} (x0 : Mach) (x1 : Nat) (h0 : Follows k x0) :
    Follows k (converterFails x0 x1) := by
  unfold converterFails
  repeat' (first | with_reducible assumption | (lift_lets; intro mm) | with_reducible (apply postEvent_follows) | with_reducible (apply odSet_follows) | with_reducible (apply raiseFault_follows) | with_reducible (apply foldl_follows) | split | intro _ | with_reducible (refine Follows.of_mk ?_ rfl rfl rfl rfl rfl rfl rfl rfl rfl))

theorem execConverterFailure_follows {k : Mach} (x0 : Fin 12) (x1 : State) (h0 : Follows k x1.m) :
    ∃ t, execConverterFailure x0 x1 = .next t ∧ t.pending = x1.pending ∧ Follows k t.m := by
  refine nextM_follows ?_
  repeat' (first | with_reducible assumption | (lift_lets; intro mm) | with_reducible (apply converterFails_follows) | with_reducible (apply foldl_follows) | split | intro _ | with_reducible (refine Follows.of_mk ?_ rfl rfl rfl rfl rfl rfl rfl rfl rfl))

theorem stewardLost_follows {k : Mach} (x0 : Mach) (h0 : Follows k x0) :
    Follows k (stewardLost x0) := by
  unfold stewardLost
  repeat' (first | with_reducible assumption | (lift_lets; intro mm) | with_reducible (apply linkGone_follows) | with_reducible (apply foldl_follows) | split | intro _ | with_reducible (refine Follows.of_mk ?_ rfl rfl rfl rfl rfl rfl rfl rfl rfl))

theorem execEfuseTrip_follows {k : Mach} (x0 : Domain) (x1 : State) (h0 : Follows k x1.m) :
    ∃ t, execEfuseTrip x0 x1 = .next t ∧ t.pending = x1.pending ∧ Follows k t.m := by
  refine nextM_follows ?_
  repeat' (first | with_reducible assumption | (lift_lets; intro mm) | with_reducible (apply count_follows) | with_reducible (apply duneGoesOff_follows) | with_reducible (apply raiseFault_follows) | with_reducible (apply postEvent_follows) | with_reducible (apply bundleLost_follows) | with_reducible (apply setBundle_follows) | with_reducible (apply stewardLost_follows) | with_reducible (apply foldl_follows) | split | intro _ | with_reducible (refine Follows.of_mk ?_ rfl rfl rfl rfl rfl rfl rfl rfl rfl))

theorem askLevel_follows {k : Mach} (x0 : Mach) (x1 : List Nat) (h0 : Follows k x0) :
    Follows k (askLevel x0 x1) := by
  unfold askLevel
  repeat' (first | with_reducible assumption | (lift_lets; intro mm) | with_reducible (apply announceLevel_follows) | with_reducible (apply odSet_follows) | with_reducible (apply foldl_follows) | split | intro _ | with_reducible (refine Follows.of_mk ?_ rfl rfl rfl rfl rfl rfl rfl rfl rfl))

theorem beginStep_follows {k : Mach} (x0 : Mach) (h0 : Follows k x0) :
    Follows k (beginStep x0) := by
  unfold beginStep
  repeat' (first | with_reducible assumption | (lift_lets; intro mm) | with_reducible (apply foldl_follows) | split | intro _ | with_reducible (refine Follows.of_mk ?_ rfl rfl rfl rfl rfl rfl rfl rfl rfl))

theorem beginRelax_follows {k : Mach} (x0 : Mach) (h0 : Follows k x0) :
    Follows k (beginRelax x0) := by
  unfold beginRelax
  repeat' (first | with_reducible assumption | (lift_lets; intro mm) | with_reducible (apply foldl_follows) | split | intro _ | with_reducible (refine Follows.of_mk ?_ rfl rfl rfl rfl rfl rfl rfl rfl rfl))

theorem execLengthenStepExpiry_follows {k : Mach} (x0 : State) (h0 : Follows k x0.m) :
    ∃ t, execLengthenStepExpiry x0 = .next t ∧ t.pending = x0.pending ∧ Follows k t.m := by
  unfold execLengthenStepExpiry
  refine nextM_follows ?_
  split
  · exact h0
  · extract_lets d m1 hot base pw m2
    clear_value d
    have h1 : Follows k m1 := advance_follows x0.m d h0
    clear_value m1
    have h2 : Follows k m2 := Follows.of_mk h1 rfl rfl rfl rfl rfl rfl rfl rfl rfl
    clear_value m2
    split
    · exact h2
    · exact askLevel_follows _ _ h2

theorem execLengthenRelaxExpiry_follows {k : Mach} (x0 : State) (h0 : Follows k x0.m) :
    ∃ t, execLengthenRelaxExpiry x0 = .next t ∧ t.pending = x0.pending ∧ Follows k t.m := by
  unfold execLengthenRelaxExpiry
  refine nextM_follows ?_
  split
  · exact h0
  · extract_lets d m1 pw m2 lam
    clear_value d
    have h1 : Follows k m1 := advance_follows x0.m d h0
    clear_value m1
    have h2 : Follows k m2 := Follows.of_mk h1 rfl rfl rfl rfl rfl rfl rfl rfl rfl
    clear_value m2
    split
    · exact h2
    · exact announceLevel_follows _ (odSet_follows _ _ _ _ h2)

theorem sampleSpot_follows {k : Mach} (x0 : Mach) (x1 : SpotReading) (h0 : Follows k x0) :
    Follows k (sampleSpot x0 x1) := by
  unfold sampleSpot
  repeat' (first | with_reducible assumption | (lift_lets; intro mm) | with_reducible (apply foldl_follows) | split | intro _ | with_reducible (refine Follows.of_mk ?_ rfl rfl rfl rfl rfl rfl rfl rfl rfl))

theorem sampleDune_follows {k : Mach} (x0 : Mach) (x1 : Nat) (h0 : Follows k x0) :
    Follows k (sampleDune x0 x1) := by
  unfold sampleDune
  repeat' (first | with_reducible assumption | (lift_lets; intro mm) | with_reducible (apply setDune_follows) | with_reducible (apply foldl_follows) | split | intro _ | with_reducible (refine Follows.of_mk ?_ rfl rfl rfl rfl rfl rfl rfl rfl rfl))

theorem shutDune_follows {k : Mach} (x0 : Mach) (x1 : DuneId) (h0 : Follows k x0) :
    Follows k (shutDune x0 x1) := by
  unfold shutDune
  repeat' (first | with_reducible assumption | (lift_lets; intro mm) | with_reducible (apply duneGoesOff_follows) | with_reducible (apply count_follows) | with_reducible (apply raiseFault_follows) | with_reducible (apply foldl_follows) | split | intro _ | with_reducible (refine Follows.of_mk ?_ rfl rfl rfl rfl rfl rfl rfl rfl rfl))

theorem hotSpot_follows {k : Mach} (x0 : Mach) (x1 : Nat) (h0 : Follows k x0) :
    Follows k (hotSpot x0 x1) := by
  unfold hotSpot
  repeat' (first | with_reducible assumption | (lift_lets; intro mm) | with_reducible (apply shutDune_follows) | with_reducible (apply raiseFault_follows) | with_reducible (apply foldl_follows) | split | intro _ | with_reducible (refine Follows.of_mk ?_ rfl rfl rfl rfl rfl rfl rfl rfl rfl))

theorem senseCoolant_follows {k : Mach} (x0 : Mach) (x1 : SensorObs) (h0 : Follows k x0) :
    Follows k (senseCoolant x0 x1) := by
  unfold senseCoolant
  extract_lets dt d r m1 m2 new old m3 src m4
  have hr : Follows k r.2 := by
    unfold r
    split
    · exact h0
    · split
      · exact draw_follows _ h0
      · exact h0
  clear_value r
  have h1 : Follows k m1 := odSet_follows _ _ _ _ (odSet_follows _ _ _ _ (odSet_follows _ _ _ _ hr))
  clear_value m1
  have h2 : Follows k m2 := odSet_follows _ _ _ _ (odSet_follows _ _ _ _ h1)
  clear_value m2
  clear_value new old
  have h3 : Follows k m3 := odSet_follows _ _ _ _ h2
  clear_value m3
  have h4 : Follows k m4 := h3.of_eq rfl rfl rfl rfl rfl rfl rfl rfl rfl
  clear_value m4
  split
  · exact postEvent_follows _ _ _ _ _ h4
  · exact h4

theorem sensePower_follows {k : Mach} (x0 : Mach) (x1 : SensorObs) (h0 : Follows k x0) :
    Follows k (sensePower x0 x1).1 := by
  unfold sensePower
  repeat' (first | with_reducible assumption | (lift_lets; intro mm) | with_reducible (apply count_follows) | with_reducible (apply beginStep_follows) | with_reducible (apply beginRelax_follows) | with_reducible (apply foldl_follows) | split | intro _ | with_reducible (refine Follows.of_mk ?_ rfl rfl rfl rfl rfl rfl rfl rfl rfl))

theorem sensePower_follows' {k : Mach} (x0 : Mach) (x1 : SensorObs) (h0 : Follows k x0) :
    ∀ a z, sensePower x0 x1 = (z, a) → Follows k z := by
  intro a z e
  have := sensePower_follows x0 x1  h0 (k := k)
  rw [e] at this
  exact this

theorem senseLevel_follows {k : Mach} (x0 : Mach) (h0 : Follows k x0) :
    Follows k (senseLevel x0).1 := by
  unfold senseLevel
  repeat' (first | with_reducible assumption | (lift_lets; intro mm) | with_reducible (apply odSet_follows) | with_reducible (apply postEvent_follows) | with_reducible (apply beginStep_follows) | with_reducible (apply beginRelax_follows) | with_reducible (apply foldl_follows) | split | intro _ | with_reducible (refine Follows.of_mk ?_ rfl rfl rfl rfl rfl rfl rfl rfl rfl))

theorem senseLevel_follows' {k : Mach} (x0 : Mach) (h0 : Follows k x0) :
    ∀ a z, senseLevel x0 = (z, a) → Follows k z := by
  intro a z e
  have := senseLevel_follows x0  h0 (k := k)
  rw [e] at this
  exact this

theorem senseCold_follows {k : Mach} (x0 : Mach) (h0 : Follows k x0) :
    Follows k (senseCold x0) := by
  unfold senseCold
  repeat' (first | with_reducible assumption | (lift_lets; intro mm) | with_reducible (apply count_follows) | with_reducible (apply odSet_follows) | with_reducible (apply foldl_follows) | split | intro _ | with_reducible (refine Follows.of_mk ?_ rfl rfl rfl rfl rfl rfl rfl rfl rfl))

theorem baskDune_follows {k : Mach} (x0 : Mach) (x1 : DuneId) (h0 : Follows k x0) :
    Follows k (baskDune x0 x1) := by
  unfold baskDune
  repeat' (first | with_reducible assumption | (lift_lets; intro mm) | with_reducible (apply setDune_follows) | with_reducible (apply foldl_follows) | split | intro _ | with_reducible (refine Follows.of_mk ?_ rfl rfl rfl rfl rfl rfl rfl rfl rfl))

theorem baskSample_follows {k : Mach} (x0 : Mach) (h0 : Follows k x0) :
    Follows k (baskSample x0) := by
  unfold baskSample
  repeat' (first | with_reducible assumption | (lift_lets; intro mm) | with_reducible (apply stopBask_follows) | with_reducible (apply baskDune_follows) | with_reducible (apply baskNext_follows) | with_reducible (apply foldl_follows) | split | intro _ | with_reducible (refine Follows.of_mk ?_ rfl rfl rfl rfl rfl rfl rfl rfl rfl))

theorem execSensorSample_follows {k : Mach} (x0 : SensorObs) (x1 : State) (h0 : Follows k x1.m) :
    ∃ t, execSensorSample x0 x1 = .next t ∧ t.pending = x1.pending ∧ Follows k t.m := by
  refine nextM_follows ?_
  repeat' (first | with_reducible assumption | (lift_lets; intro mm) | with_reducible (apply sampleSpot_follows) | with_reducible (apply sampleDune_follows) | with_reducible (apply senseCoolant_follows) | with_reducible (apply senseLevel_follows) | (refine senseLevel_follows' _ ?_ _ _ (by assumption)) | with_reducible (apply sensePower_follows) | (refine sensePower_follows' _ _ ?_ _ _ (by assumption)) | with_reducible (apply askLevel_follows) | with_reducible (apply baskSample_follows) | with_reducible (apply senseCold_follows) | with_reducible (apply hotSpot_follows) | with_reducible (apply foldl_follows) | split | intro _ | with_reducible (refine Follows.of_mk ?_ rfl rfl rfl rfl rfl rfl rfl rfl rfl))

theorem execBaskShortfallTimeout_follows {k : Mach} (x0 : State) (h0 : Follows k x0.m) :
    ∃ t, execBaskShortfallTimeout x0 = .next t ∧ t.pending = x0.pending ∧ Follows k t.m := by
  refine nextM_follows ?_
  repeat' (first | with_reducible assumption | (lift_lets; intro mm) | with_reducible (apply odSet_follows) | with_reducible (apply advance_follows) | with_reducible (apply foldl_follows) | split | intro _ | with_reducible (refine Follows.of_mk ?_ rfl rfl rfl rfl rfl rfl rfl rfl rfl))

theorem abandonLoad_follows {k : Mach} (x0 : Mach) (h0 : Follows k x0) :
    Follows k (abandonLoad x0) := by
  unfold abandonLoad
  repeat' (first | with_reducible assumption | (lift_lets; intro mm) | with_reducible (apply foldl_follows) | split | intro _ | with_reducible (refine Follows.of_mk ?_ rfl rfl rfl rfl rfl rfl rfl rfl rfl))

theorem haltModule_follows {k : Mach} (x0 : Mach) (h0 : Follows k x0) :
    Follows k (haltModule x0) := by
  unfold haltModule
  repeat' (first | with_reducible assumption | (lift_lets; intro mm) | with_reducible (apply abandonLoad_follows) | with_reducible (apply setState_follows) | with_reducible (apply setReplState_follows) | with_reducible (apply dropAnswers_follows) | with_reducible (apply foldl_follows) | split | intro _ | with_reducible (refine Follows.of_mk ?_ rfl rfl rfl rfl rfl rfl rfl rfl rfl))

theorem execComparatorTrip_follows {k : Mach} (x0 : State) (h0 : Follows k x0.m) :
    ∃ t, execComparatorTrip x0 = .next t ∧ t.pending = x0.pending ∧ Follows k t.m := by
  refine nextM_follows ?_
  split
  · exact h0
  · have h1 := haltModule_follows _ h0
    generalize haltModule x0.m = m1 at h1 ⊢
    extract_lets m0 m2 m3 m4
    have h2 : Follows k m2 := by
      unfold m2
      split
      · exact incompleteSheet_follows _ _ h1
      · split
        · exact odSet_follows _ _ _ _ (h1.of_eq rfl rfl rfl rfl rfl rfl rfl rfl rfl)
        · exact h1
    clear_value m2
    have h3 : Follows k m3 := dropJob_follows _ (dunesOff_follows _ h2)
    clear_value m3
    have h4 : Follows k m4 := foldl_follows _ (fun m x h => bundleLost_follows _ _ h) h3
    clear_value m4
    exact ⟨h4.sram, wf_nil, h4.now, h4.retirement, h4.gradeE, h4.steppingB1, h4.badSites, h4.badCores, h4.badDunes⟩

theorem flowStops_follows {k : Mach} (x0 : Mach) (h0 : Follows k x0) :
    Follows k (flowStops x0) := by
  unfold flowStops
  repeat' (first | with_reducible assumption | (lift_lets; intro mm) | with_reducible (apply count_follows) | with_reducible (apply odSet_follows) | with_reducible (apply sendFreeze_follows) | with_reducible (apply recordFault_follows) | with_reducible (apply freezeAll_follows) | with_reducible (apply haltModule_follows) | with_reducible (apply dropJob_follows) | with_reducible (apply dunesOff_follows) | with_reducible (apply beginSheet_follows) | with_reducible (apply foldl_follows) | split | intro _ | with_reducible (refine Follows.of_mk ?_ rfl rfl rfl rfl rfl rfl rfl rfl rfl))

theorem execFlowStop_follows {k : Mach} (x0 : State) (h0 : Follows k x0.m) :
    ∃ t, execFlowStop x0 = .next t ∧ t.pending = x0.pending ∧ Follows k t.m := by
  refine nextM_follows ?_
  repeat' (first | with_reducible assumption | (lift_lets; intro mm) | with_reducible (apply flowStops_follows) | with_reducible (apply foldl_follows) | split | intro _ | with_reducible (refine Follows.of_mk ?_ rfl rfl rfl rfl rfl rfl rfl rfl rfl))

theorem execEdgeFieldHot_follows {k : Mach} (x0 : State) (h0 : Follows k x0.m) :
    ∃ t, execEdgeFieldHot x0 = .next t ∧ t.pending = x0.pending ∧ Follows k t.m := by
  refine nextM_follows ?_
  split
  · exact h0
  · split
    next x y hxy =>
    have h1 : Follows k y := by
      split at hxy
      · cases hxy; exact h0
      · exact signSheet_follows' _ _ h0 _ _ hxy
    clear hxy
    extract_lets m2 m3
    have h2 : Follows k m2 := linkGone_follows _ (h1.of_eq rfl rfl rfl rfl rfl rfl rfl rfl rfl)
    clear_value m2
    have h3 : Follows k m3 := foldl_follows _ (fun m x h => bundleLost_follows _ _ h) (dropJob_follows _ (dunesOff_follows _ h2))
    clear_value m3
    exact ⟨h3.sram, wf_nil, h3.now, h3.retirement, h3.gradeE, h3.steppingB1, h3.badSites, h3.badCores, h3.badDunes⟩

theorem execHbmStackTemperature_follows {k : Mach} (x0 : Fin 32) (x1 : Nat) (x2 : State) (h0 : Follows k x2.m) :
    ∃ t, execHbmStackTemperature x0 x1 x2 = .next t ∧ t.pending = x2.pending ∧ Follows k t.m := by
  refine nextM_follows ?_
  repeat' (first | with_reducible assumption | (lift_lets; intro mm) | with_reducible (apply count_follows) | with_reducible (apply raiseFault_follows) | with_reducible (apply foldl_follows) | split | intro _ | with_reducible (refine Follows.of_mk ?_ rfl rfl rfl rfl rfl rfl rfl rfl rfl))

theorem scrubHit_follows {k : Mach} (x0 : Nat) (x1 : Mach) (x2 : ScrubHit) (h0 : Follows k x1) :
    Follows k (scrubHit x0 x1 x2) := by
  unfold scrubHit
  repeat' (first | with_reducible assumption | (lift_lets; intro mm) | with_reducible (apply count_follows) | with_reducible (apply postEvent_follows) | with_reducible (apply foldl_follows) | split | intro _ | with_reducible (refine Follows.of_mk ?_ rfl rfl rfl rfl rfl rfl rfl rfl rfl))

theorem execHbmScrub_follows {k : Mach} (x0 : Fin 32) (x1 : List ScrubHit) (x2 : State) (h0 : Follows k x2.m) :
    ∃ t, execHbmScrub x0 x1 x2 = .next t ∧ t.pending = x2.pending ∧ Follows k t.m := by
  refine nextM_follows ?_
  repeat' (first | with_reducible assumption | (lift_lets; intro mm) | with_reducible (apply scrubHit_follows) | with_reducible (apply foldl_follows) | split | intro _ | with_reducible (refine Follows.of_mk ?_ rfl rfl rfl rfl rfl rfl rfl rfl rfl))

theorem execPpsSecond_follows {k : Mach} (x0 : State) (h0 : Follows k x0.m) :
    ∃ t, execPpsSecond x0 = .next t ∧ t.pending = x0.pending ∧ Follows k t.m := by
  refine nextM_follows ?_
  repeat' (first | with_reducible assumption | (lift_lets; intro mm) | with_reducible (apply advance_follows) | with_reducible (apply foldl_follows) | split | intro _ | with_reducible (refine Follows.of_mk ?_ rfl rfl rfl rfl rfl rfl rfl rfl rfl))

end Sys2Proof.Machine
end

