-- ==== Sys2Proof/Laws/FollowsFaults.lean ====
section
/-! SUPPORT. The operations and the meanings of Machine/Faults.lean keep what `Follows` names. -/

namespace Sys2Proof.Machine

theorem execFault_follows {k : Mach} (x0 : FaultRec) (x1 : State) (h0 : Follows k x1.m) :
    ∃ t, execFault x0 x1 = .next t ∧ t.pending = x1.pending ∧ Follows k t.m := by
  refine nextM_follows ?_
  repeat' (first | with_reducible assumption | (lift_lets; intro mm) | with_reducible (apply originate_follows) | with_reducible (apply handleFault_follows) | with_reducible (apply hardArrives_follows) | split | intro _ | with_reducible (refine Follows.of_mk ?_ rfl rfl rfl rfl rfl rfl rfl rfl rfl))

theorem execFreeze_follows {k : Mach} (x0 : DuneId) (x1 : MeshMsg) (x2 : State) (h0 : Follows k x2.m) :
    ∃ t, execFreeze x0 x1 x2 = .next t ∧ t.pending = x2.pending ∧ Follows k t.m := by
  refine nextM_follows ?_
  repeat' (first | with_reducible assumption | (lift_lets; intro mm) | with_reducible (apply onMessage_follows) | with_reducible (apply freezeDune_follows) | split | intro _ | with_reducible (refine Follows.of_mk ?_ rfl rfl rfl rfl rfl rfl rfl rfl rfl))

theorem finishStepTwo_follows {k : Mach} (x0 : Mach) (h0 : Follows k x0) :
    Follows k (finishStepTwo x0) := by
  unfold finishStepTwo
  repeat' (first | with_reducible assumption | (lift_lets; intro mm) | with_reducible (apply advance_follows) | with_reducible (apply stepTwo_follows) | with_reducible (apply closeDue_follows) | split | intro _ | with_reducible (refine Follows.of_mk ?_ rfl rfl rfl rfl rfl rfl rfl rfl rfl))

theorem finishRewrite_follows {k : Mach} (x0 : Mach) (x1 : Job) (x2 : Nat) (h0 : Follows k x0) :
    Follows k (finishRewrite x0 x1 x2) := by
  unfold finishRewrite
  repeat' (first | with_reducible assumption | (lift_lets; intro mm) | with_reducible (apply rewriteAll_follows) | split | intro _ | with_reducible (refine Follows.of_mk ?_ rfl rfl rfl rfl rfl rfl rfl rfl rfl))

theorem restartAnchorOf_follows {k : Mach} (x0 : Mach) (x1 : Restart) (x2 : Job) (h0 : Follows k x0) :
    Follows k (restartAnchorOf x0 x1 x2).2 := by
  unfold restartAnchorOf
  repeat' (first | with_reducible assumption | (lift_lets; intro mm) | with_reducible (apply chooseAnchor_follows) | (refine chooseAnchor_follows' _ _ _ ?_ _ _ (by assumption)) | with_reducible (apply broadcastJob_follows) | split | intro _ | with_reducible (refine Follows.of_mk ?_ rfl rfl rfl rfl rfl rfl rfl rfl rfl))

theorem restartAnchorOf_follows' {k : Mach} (x0 : Mach) (x1 : Restart) (x2 : Job) (h0 : Follows k x0) :
    ∀ a z, restartAnchorOf x0 x1 x2 = (a, z) → Follows k z := by
  intro a z e
  have := restartAnchorOf_follows x0 x1 x2  h0 (k := k)
  rw [e] at this
  exact this

theorem restartDone_follows {k : Mach} (x0 : Mach) (x1 : Restart) (x2 : Nat) (x3 : Nat) (h0 : Follows k x0) :
    Follows k (restartDone x0 x1 x2 x3) := by
  unfold restartDone
  repeat' (first | with_reducible assumption | (lift_lets; intro mm) | with_reducible (apply resumeJob_follows) | with_reducible (apply giveAnswers_follows) | with_reducible (apply resetWindows_follows) | with_reducible (apply resumePendingEnd_follows) | split | intro _ | with_reducible (refine Follows.of_mk ?_ rfl rfl rfl rfl rfl rfl rfl rfl rfl))

theorem execRestartAnchor_follows {k : Mach} (x0 : List (List SiteTrial)) (x1 : State) (h0 : Follows k x1.m) :
    ∃ t, execRestartAnchor x0 x1 = .next t ∧ t.pending = x1.pending ∧ Follows k t.m := by
  refine nextM_follows ?_
  split
  · exact h0
  · extract_lets m1 n
    have h1 : Follows k m1 := finishStepTwo_follows _ h0
    clear_value n m1
    split
    · split
      · exact h1
      · split
        next m2 failed hw =>
        have h2 : Follows k m2 := restartWork_follows' _ _ _ _ (finishRewrite_follows _ _ _ h1) _ _ hw
        split
        · exact h2
        · split
          · next a m3 hz => exact restartDone_follows _ _ _ _ (restartAnchorOf_follows' _ _ _ h2 _ _ hz)
          · next m3 hz => exact restartAnchorOf_follows' _ _ _ h2 _ _ hz
    · exact h1

theorem execStewardTimeout_follows {k : Mach} (x0 : Fin 4) (x1 : State) (h0 : Follows k x1.m) :
    ∃ t, execStewardTimeout x0 x1 = .next t ∧ t.pending = x1.pending ∧ Follows k t.m := by
  refine nextM_follows ?_
  repeat' (first | with_reducible assumption | (lift_lets; intro mm) | with_reducible (apply raiseFault_follows) | split | intro _ | with_reducible (refine Follows.of_mk ?_ rfl rfl rfl rfl rfl rfl rfl rfl rfl))

theorem afterSheet_follows {k : Mach} (x0 : Mach) (h0 : Follows k x0) :
    Follows k (afterSheet x0) := by
  unfold afterSheet
  repeat' (first | with_reducible assumption | (lift_lets; intro mm) | with_reducible (apply enterFaulted_follows) | with_reducible (apply dropJob_follows) | with_reducible (apply dunesOff_follows) | split | intro _ | with_reducible (refine Follows.of_mk ?_ rfl rfl rfl rfl rfl rfl rfl rfl rfl))

theorem execContactSheetComplete_follows {k : Mach} (x0 : Bool) (x1 : State) (h0 : Follows k x1.m) :
    ∃ t, execContactSheetComplete x0 x1 = .next t ∧ t.pending = x1.pending ∧ Follows k t.m := by
  refine nextM_follows ?_
  repeat' (first | with_reducible assumption | (lift_lets; intro mm) | with_reducible (apply afterSheet_follows) | with_reducible (apply completeSheet_follows) | with_reducible (apply odSet_follows) | with_reducible (apply beginSheet_follows) | with_reducible (apply incompleteSheet_follows) | split | intro _ | with_reducible (refine Follows.of_mk ?_ rfl rfl rfl rfl rfl rfl rfl rfl rfl))

theorem provokedFault_follows {k : Mach} (x0 : Mach) (x1 : Armed) (h0 : Follows k x0) :
    Follows k (provokedFault x0 x1) := by
  unfold provokedFault
  repeat' (first | with_reducible assumption | (lift_lets; intro mm) | with_reducible (apply postMesh_follows) | split | intro _ | with_reducible (refine Follows.of_mk ?_ rfl rfl rfl rfl rfl rfl rfl rfl rfl))

theorem perform_follows {k : Mach} (x0 : Mach) (x1 : Armed) (h0 : Follows k x0) :
    Follows k (perform x0 x1) := by
  unfold perform
  repeat' (first | with_reducible assumption | (lift_lets; intro mm) | with_reducible (apply spendProvocation_follows) | with_reducible (apply provokedFault_follows) | with_reducible (apply flowStops_follows) | split | intro _ | with_reducible (refine Follows.of_mk ?_ rfl rfl rfl rfl rfl rfl rfl rfl rfl))

theorem provokeRun_follows {k : Mach} (x0 : Mach) (x1 : Via) (x2 : List Byte) (x3 : Option Reply) (h0 : Follows k x0) :
    Follows k (provokeRun x0 x1 x2 x3) := by
  unfold provokeRun
  repeat' (first | with_reducible assumption | (lift_lets; intro mm) | with_reducible (apply answer_follows) | with_reducible (apply perform_follows) | split | intro _ | with_reducible (refine Follows.of_mk ?_ rfl rfl rfl rfl rfl rfl rfl rfl rfl))

theorem execFaultProvoke_follows {k : Mach} (x0 : Via) (x1 : List Byte) (x2 : State) (h0 : Follows k x2.m) :
    ∃ t, execFaultProvoke x0 x1 x2 = .next t ∧ t.pending = x2.pending ∧ Follows k t.m := by
  refine nextM_follows ?_
  repeat' (first | with_reducible assumption | (lift_lets; intro mm) | with_reducible (apply commandRow_follows) | with_reducible (apply provokeRun_follows) | split | intro _ | with_reducible (refine Follows.of_mk ?_ rfl rfl rfl rfl rfl rfl rfl rfl rfl))

theorem execProvocationArmed_follows {k : Mach} (x0 : State) (h0 : Follows k x0.m) :
    ∃ t, execProvocationArmed x0 = .next t ∧ t.pending = x0.pending ∧ Follows k t.m := by
  refine nextM_follows ?_
  repeat' (first | with_reducible assumption | (lift_lets; intro mm) | with_reducible (apply perform_follows) | with_reducible (apply advance_follows) | split | intro _ | dsimp +zetaDelta only | with_reducible (refine Follows.of_mk ?_ rfl rfl rfl rfl rfl rfl rfl rfl rfl))

end Sys2Proof.Machine
end

