-- ==== Sys2Proof/Laws/FollowsSecurity.lean ====
section
/-! SUPPORT. The operations and the meanings of Machine/Security.lean keep what `Follows` names. -/

namespace Sys2Proof.Machine

theorem keyRun_follows {k : Mach} (x0 : Mach) (x1 : Via) (x2 : List Byte) (x3 : Option Reply) (h0 : Follows k x0) :
    Follows k (keyRun x0 x1 x2 x3) := by
  unfold keyRun
  repeat' (first | with_reducible assumption | (lift_lets; intro mm) | with_reducible (apply queueNv_follows) | split | intro _ | with_reducible (refine Follows.of_mk ?_ rfl rfl rfl rfl rfl rfl rfl rfl rfl))

theorem execKeyEnroll_follows {k : Mach} (x0 : Via) (x1 : List Byte) (x2 : State) (h0 : Follows k x2.m) :
    ∃ t, execKeyEnroll x0 x1 x2 = .next t ∧ t.pending = x2.pending ∧ Follows k t.m := by
  refine nextM_follows ?_
  repeat' (first | with_reducible assumption | (lift_lets; intro mm) | with_reducible (apply commandRow_follows) | with_reducible (apply keyRun_follows) | split | intro _ | with_reducible (refine Follows.of_mk ?_ rfl rfl rfl rfl rfl rfl rfl rfl rfl))

theorem execKeyRemove_follows {k : Mach} (x0 : Via) (x1 : List Byte) (x2 : State) (h0 : Follows k x2.m) :
    ∃ t, execKeyRemove x0 x1 x2 = .next t ∧ t.pending = x2.pending ∧ Follows k t.m := by
  refine nextM_follows ?_
  repeat' (first | with_reducible assumption | (lift_lets; intro mm) | with_reducible (apply commandRow_follows) | with_reducible (apply keyRun_follows) | split | intro _ | with_reducible (refine Follows.of_mk ?_ rfl rfl rfl rfl rfl rfl rfl rfl rfl))

theorem releaseRun_follows {k : Mach} (x0 : Mach) (x1 : Via) (x2 : Option Reply) (h0 : Follows k x0) :
    Follows k (releaseRun x0 x1 x2) := by
  unfold releaseRun
  repeat' (first | with_reducible assumption | (lift_lets; intro mm) | with_reducible (apply queueNv_follows) | split | intro _ | with_reducible (refine Follows.of_mk ?_ rfl rfl rfl rfl rfl rfl rfl rfl rfl))

theorem execOwnerRelease_follows {k : Mach} (x0 : Via) (x1 : List Byte) (x2 : State) (h0 : Follows k x2.m) :
    ∃ t, execOwnerRelease x0 x1 x2 = .next t ∧ t.pending = x2.pending ∧ Follows k t.m := by
  refine nextM_follows ?_
  repeat' (first | with_reducible assumption | (lift_lets; intro mm) | with_reducible (apply commandRow_follows) | with_reducible (apply releaseRun_follows) | split | intro _ | with_reducible (refine Follows.of_mk ?_ rfl rfl rfl rfl rfl rfl rfl rfl rfl))

theorem execVendorAccessWrite_follows {k : Mach} (x0 : Via) (x1 : List Byte) (x2 : State) (h0 : Follows k x2.m) :
    ∃ t, execVendorAccessWrite x0 x1 x2 = .next t ∧ t.pending = x2.pending ∧ Follows k t.m := by
  refine nextM_follows ?_
  repeat' (first | with_reducible assumption | (lift_lets; intro mm) | with_reducible (apply nvRow_follows) | split | intro _ | with_reducible (refine Follows.of_mk ?_ rfl rfl rfl rfl rfl rfl rfl rfl rfl))

theorem keysStored_follows {k : Mach} (x0 : Mach) (x1 : List KeyEntry) (h0 : Follows k x0) :
    Follows k (keysStored x0 x1) := by
  unfold keysStored
  repeat' (first | with_reducible assumption | (lift_lets; intro mm) | with_reducible (apply extendMeas_follows) | split | intro _ | with_reducible (refine Follows.of_mk ?_ rfl rfl rfl rfl rfl rfl rfl rfl rfl))

theorem closeRemoved_follows {k : Mach} (x0 : Mach) (x1 : List KeyEntry) (x2 : List KeyEntry) (h0 : Follows k x0) :
    Follows k (closeRemoved x0 x1 x2) := by
  unfold closeRemoved
  repeat' (first | with_reducible assumption | (lift_lets; intro mm) | with_reducible (apply closeSessions_follows) | split | intro _ | with_reducible (refine Follows.of_mk ?_ rfl rfl rfl rfl rfl rfl rfl rfl rfl))

theorem rollbackRun_follows {k : Mach} (x0 : Mach) (x1 : Via) (x2 : List Byte) (x3 : Option Reply) (h0 : Follows k x0) :
    Follows k (rollbackRun x0 x1 x2 x3) := by
  unfold rollbackRun
  repeat' (first | with_reducible assumption | (lift_lets; intro mm) | with_reducible (apply answer_follows) | with_reducible (apply odSet_follows) | split | intro _ | with_reducible (refine Follows.of_mk ?_ rfl rfl rfl rfl rfl rfl rfl rfl rfl))

theorem execAntiRollbackCommit_follows {k : Mach} (x0 : Via) (x1 : List Byte) (x2 : State) (h0 : Follows k x2.m) :
    ∃ t, execAntiRollbackCommit x0 x1 x2 = .next t ∧ t.pending = x2.pending ∧ Follows k t.m := by
  refine nextM_follows ?_
  repeat' (first | with_reducible assumption | (lift_lets; intro mm) | with_reducible (apply commandRow_follows) | with_reducible (apply rollbackRun_follows) | split | intro _ | with_reducible (refine Follows.of_mk ?_ rfl rfl rfl rfl rfl rfl rfl rfl rfl))

theorem revokeRun_follows {k : Mach} (x0 : Mach) (x1 : Via) (x2 : List Byte) (x3 : Option Reply) (h0 : Follows k x0) :
    Follows k (revokeRun x0 x1 x2 x3) := by
  unfold revokeRun
  repeat' (first | with_reducible assumption | (lift_lets; intro mm) | with_reducible (apply answer_follows) | with_reducible (apply odSet_follows) | split | intro _ | with_reducible (refine Follows.of_mk ?_ rfl rfl rfl rfl rfl rfl rfl rfl rfl))

theorem execRootRevoke_follows {k : Mach} (x0 : Via) (x1 : List Byte) (x2 : State) (h0 : Follows k x2.m) :
    ∃ t, execRootRevoke x0 x1 x2 = .next t ∧ t.pending = x2.pending ∧ Follows k t.m := by
  refine nextM_follows ?_
  repeat' (first | with_reducible assumption | (lift_lets; intro mm) | with_reducible (apply commandRow_follows) | with_reducible (apply revokeRun_follows) | split | intro _ | with_reducible (refine Follows.of_mk ?_ rfl rfl rfl rfl rfl rfl rfl rfl rfl))

theorem makeEvidence_follows {k : Mach} (x0 : Mach) (x1 : List Byte) (h0 : Follows k x0) :
    Follows k (makeEvidence x0 x1).2 := by
  unfold makeEvidence
  repeat' (first | with_reducible assumption | (lift_lets; intro mm) | with_reducible (apply draw_follows) | (refine draw_follows' _ ?_ _ _ (by assumption)) | split | intro _ | with_reducible (refine Follows.of_mk ?_ rfl rfl rfl rfl rfl rfl rfl rfl rfl))

theorem makeEvidence_follows' {k : Mach} (x0 : Mach) (x1 : List Byte) (h0 : Follows k x0) :
    ∀ a z, makeEvidence x0 x1 = (a, z) → Follows k z := by
  intro a z e
  have := makeEvidence_follows x0 x1  h0 (k := k)
  rw [e] at this
  exact this

theorem keepEvidence_follows {k : Mach} (x0 : Mach) (x1 : Via) (x2 : List Byte) (h0 : Follows k x0) :
    Follows k (keepEvidence x0 x1 x2) := by
  unfold keepEvidence
  repeat' (first | with_reducible assumption | (lift_lets; intro mm) | split | intro _ | with_reducible (refine Follows.of_mk ?_ rfl rfl rfl rfl rfl rfl rfl rfl rfl))

theorem nonceRun_follows {k : Mach} (x0 : Mach) (x1 : Via) (x2 : List Byte) (x3 : Option Reply) (h0 : Follows k x0) :
    Follows k (nonceRun x0 x1 x2 x3) := by
  unfold nonceRun
  repeat' (first | with_reducible assumption | (lift_lets; intro mm) | with_reducible (apply makeEvidence_follows) | (refine makeEvidence_follows' _ _ ?_ _ _ (by assumption)) | with_reducible (apply answer_follows) | with_reducible (apply keepEvidence_follows) | split | intro _ | with_reducible (refine Follows.of_mk ?_ rfl rfl rfl rfl rfl rfl rfl rfl rfl))

theorem execAttestNonce_follows {k : Mach} (x0 : Via) (x1 : List Byte) (x2 : State) (h0 : Follows k x2.m) :
    ∃ t, execAttestNonce x0 x1 x2 = .next t ∧ t.pending = x2.pending ∧ Follows k t.m := by
  refine nextM_follows ?_
  repeat' (first | with_reducible assumption | (lift_lets; intro mm) | with_reducible (apply commandRow_follows) | with_reducible (apply nonceRun_follows) | split | intro _ | with_reducible (refine Follows.of_mk ?_ rfl rfl rfl rfl rfl rfl rfl rfl rfl))

theorem execHealthTestFailure_follows {k : Mach} (x0 : Fin 4) (x1 : State) (h0 : Follows k x1.m) :
    ∃ t, execHealthTestFailure x0 x1 = .next t ∧ t.pending = x1.pending ∧ Follows k t.m := by
  refine nextM_follows ?_
  repeat' (first | with_reducible assumption | (lift_lets; intro mm) | with_reducible (apply raiseFault_follows) | split | intro _ | with_reducible (refine Follows.of_mk ?_ rfl rfl rfl rfl rfl rfl rfl rfl rfl))

end Sys2Proof.Machine
end

