-- ==== Sys2Proof/Laws/FollowsLifecycle.lean ====
section
/-! SUPPORT. The operations and the meanings of Machine/Lifecycle.lean keep what `Follows` names. -/

namespace Sys2Proof.Machine

theorem setBootCopy_follows {k : Mach} (x0 : Mach) (x1 : Nat) (x2 : Bool) (h0 : Follows k x0) :
    Follows k (setBootCopy x0 x1 x2) := by
  unfold setBootCopy
  repeat' (first | with_reducible assumption | (lift_lets; intro mm) | with_reducible (apply odSet_follows) | with_reducible (apply foldl_follows) | split | intro _ | with_reducible (refine Follows.of_mk ?_ rfl rfl rfl rfl rfl rfl rfl rfl rfl))

theorem startFirmware_follows {k : Mach} (x0 : Mach) (x1 : Nat) (x2 : FlashCopy) (x3 : Bool) (h0 : Follows k x0) :
    Follows k (startFirmware x0 x1 x2 x3) := by
  unfold startFirmware
  repeat' (first | with_reducible assumption | (lift_lets; intro mm) | with_reducible (apply setBootCopy_follows) | with_reducible (apply foldl_follows) | split | intro _ | with_reducible (refine Follows.of_mk ?_ rfl rfl rfl rfl rfl rfl rfl rfl rfl))

theorem measureRunning_follows {k : Mach} (x0 : Mach) (x1 : Fin 6) (x2 : Nat) (x3 : List Nat) (h0 : Follows k x0) :
    Follows k (measureRunning x0 x1 x2 x3) := by
  unfold measureRunning
  repeat' (first | with_reducible assumption | (lift_lets; intro mm) | with_reducible (apply extendMeas_follows) | with_reducible (apply foldl_follows) | split | intro _ | with_reducible (refine Follows.of_mk ?_ rfl rfl rfl rfl rfl rfl rfl rfl rfl))

theorem bootBoard_follows {k : Mach} (x0 : Mach) (h0 : Follows k x0) :
    Follows k (bootBoard x0) := by
  unfold bootBoard
  repeat' (first | with_reducible assumption | (lift_lets; intro mm) | with_reducible (apply measureRunning_follows) | with_reducible (apply startFirmware_follows) | with_reducible (apply foldl_follows) | split | intro _ | with_reducible (refine Follows.of_mk ?_ rfl rfl rfl rfl rfl rfl rfl rfl rfl))

theorem measureOthers_follows {k : Mach} (x0 : Mach) (h0 : Follows k x0) :
    Follows k (measureOthers x0) := by
  unfold measureOthers
  repeat' (first | with_reducible assumption | (lift_lets; intro mm) | with_reducible (apply measureRunning_follows) | with_reducible (apply foldl_follows) | split | intro _ | with_reducible (refine Follows.of_mk ?_ rfl rfl rfl rfl rfl rfl rfl rfl rfl))

theorem bootFails_follows {k : Mach} (x0 : Mach) (x1 : Nat) (h0 : Follows k x0) :
    Follows k (bootFails x0 x1) := by
  unfold bootFails
  repeat' (first | with_reducible assumption | (lift_lets; intro mm) | with_reducible (apply setState_follows) | with_reducible (apply raiseFault_follows) | with_reducible (apply foldl_follows) | split | intro _ | with_reducible (refine Follows.of_mk ?_ rfl rfl rfl rfl rfl rfl rfl rfl rfl))

theorem execBootRomCheck_follows {k : Mach} (x0 : Fin 4) (x1 : State) (h0 : Follows k x1.m) :
    ∃ t, execBootRomCheck x0 x1 = .next t ∧ t.pending = x1.pending ∧ Follows k t.m := by
  refine nextM_follows ?_
  repeat' (first | with_reducible assumption | (lift_lets; intro mm) | with_reducible (apply extendMeas_follows) | with_reducible (apply bootFails_follows) | with_reducible (apply startFirmware_follows) | with_reducible (apply measureOthers_follows) | with_reducible (apply bootBoard_follows) | with_reducible (apply measureRunning_follows) | with_reducible (apply foldl_follows) | split | intro _ | with_reducible (refine Follows.of_mk ?_ rfl rfl rfl rfl rfl rfl rfl rfl rfl))

theorem drawModuleKey_follows {k : Mach} (x0 : Mach) (h0 : Follows k x0) :
    Follows k (drawModuleKey x0) := by
  unfold drawModuleKey
  repeat' (first | with_reducible assumption | (lift_lets; intro mm) | with_reducible (apply draw_follows) | (refine draw_follows' _ ?_ _ _ (by assumption)) | with_reducible (apply foldl_follows) | split | intro _ | with_reducible (refine Follows.of_mk ?_ rfl rfl rfl rfl rfl rfl rfl rfl rfl))

theorem execPoweringComplete_follows {k : Mach} (x0 : State) (h0 : Follows k x0.m) :
    ∃ t, execPoweringComplete x0 = .next t ∧ t.pending = x0.pending ∧ Follows k t.m := by
  refine nextM_follows ?_
  repeat' (first | with_reducible assumption | (lift_lets; intro mm) | with_reducible (apply setState_follows) | with_reducible (apply drawModuleKey_follows) | with_reducible (apply foldl_follows) | split | intro _ | with_reducible (refine Follows.of_mk ?_ rfl rfl rfl rfl rfl rfl rfl rfl rfl))

theorem selftestResult_follows {k : Mach} (x0 : Mach) (x1 : SelftestFailure) (h0 : Follows k x0) :
    Follows k (selftestResult x0 x1).2 := by
  unfold selftestResult
  repeat' (first | with_reducible assumption | (lift_lets; intro mm) | with_reducible (apply draw_follows) | (refine draw_follows' _ ?_ _ _ (by assumption)) | with_reducible (apply foldl_follows) | split | intro _ | with_reducible (refine Follows.of_mk ?_ rfl rfl rfl rfl rfl rfl rfl rfl rfl))

theorem selftestResult_follows' {k : Mach} (x0 : Mach) (x1 : SelftestFailure) (h0 : Follows k x0) :
    ∀ a z, selftestResult x0 x1 = (a, z) → Follows k z := by
  intro a z e
  have := selftestResult_follows x0 x1  h0 (k := k)
  rw [e] at this
  exact this

theorem workAround_follows {k : Mach} (x0 : Mach) (x1 : SelftestFailure) (h0 : Follows k x0) :
    Follows k (workAround x0 x1) := by
  unfold workAround
  repeat' (first | with_reducible assumption | (lift_lets; intro mm) | with_reducible (apply retireSite_follows) | with_reducible (apply count_follows) | with_reducible (apply duneGoesOff_follows) | with_reducible (apply converterFails_follows) | with_reducible (apply foldl_follows) | split | intro _ | with_reducible (refine Follows.of_mk ?_ rfl rfl rfl rfl rfl rfl rfl rfl rfl))

theorem selftestFaulted_follows {k : Mach} (x0 : Mach) (x1 : Nat) (x2 : Nat) (h0 : Follows k x0) :
    Follows k (selftestFaulted x0 x1 x2) := by
  unfold selftestFaulted
  repeat' (first | with_reducible assumption | (lift_lets; intro mm) | with_reducible (apply count_follows) | with_reducible (apply recordFault_follows) | with_reducible (apply setState_follows) | with_reducible (apply dunesOff_follows) | with_reducible (apply foldl_follows) | split | intro _ | with_reducible (refine Follows.of_mk ?_ rfl rfl rfl rfl rfl rfl rfl rfl rfl))

theorem wiped_follows {k : Mach} (x0 : Mach) (h0 : Follows k x0) :
    Follows k (wiped x0) := by
  exact ⟨wf_nil, wf_nil, h0.now, h0.retirement, h0.gradeE, h0.steppingB1, h0.badSites, h0.badCores, h0.badDunes⟩

theorem plateTest_follows {k : Mach} (x0 : Mach) (h0 : Follows k x0) :
    Follows k (plateTest x0) := by
  unfold plateTest
  repeat' (first | with_reducible assumption | (lift_lets; intro mm) | with_reducible (apply countDune_follows) | with_reducible (apply foldl_follows) | split | intro _ | with_reducible (refine Follows.of_mk ?_ rfl rfl rfl rfl rfl rfl rfl rfl rfl))

theorem execSelftestComplete_follows {k : Mach} (x0 : List SelftestFailure) (x1 : State) (h0 : Follows k x1.m) :
    ∃ t, execSelftestComplete x0 x1 = .next t ∧ t.pending = x1.pending ∧ Follows k t.m := by
  refine nextM_follows ?_
  repeat' (first | with_reducible assumption | (lift_lets; intro mm) | with_reducible (apply selftestResult_follows) | (refine selftestResult_follows' _ _ ?_ _ _ (by assumption)) | with_reducible (apply plateTest_follows) | with_reducible (apply workAround_follows) | with_reducible (apply odSet_follows) | with_reducible (apply wiped_follows) | with_reducible (apply selftestFaulted_follows) | with_reducible (apply enterStandby_follows) | with_reducible (apply foldl_follows) | split | intro _ | dsimp +zetaDelta only | with_reducible (refine Follows.of_mk ?_ rfl rfl rfl rfl rfl rfl rfl rfl rfl))

theorem reinitRun_follows {k : Mach} (x0 : Mach) (x1 : Via) (x2 : Option Reply) (h0 : Follows k x0) :
    Follows k (reinitRun x0 x1 x2) := by
  unfold reinitRun
  repeat' (first | with_reducible assumption | (lift_lets; intro mm) | with_reducible (apply odSet_follows) | with_reducible (apply measureOthers_follows) | with_reducible (apply measureRunning_follows) | with_reducible (apply extendMeas_follows) | with_reducible (apply answer_follows) | with_reducible (apply setState_follows) | with_reducible (apply foldl_follows) | split | intro _ | with_reducible (refine Follows.of_mk ?_ rfl rfl rfl rfl rfl rfl rfl rfl rfl))

theorem execReinit_follows {k : Mach} (x0 : Via) (x1 : List Byte) (x2 : State) (h0 : Follows k x2.m) :
    ∃ t, execReinit x0 x1 x2 = .next t ∧ t.pending = x2.pending ∧ Follows k t.m := by
  refine nextM_follows ?_
  repeat' (first | with_reducible assumption | (lift_lets; intro mm) | with_reducible (apply commandRow_follows) | with_reducible (apply reinitRun_follows) | with_reducible (apply foldl_follows) | split | intro _ | with_reducible (refine Follows.of_mk ?_ rfl rfl rfl rfl rfl rfl rfl rfl rfl))

theorem updateEnds_follows {k : Mach} (x0 : Mach) (h0 : Follows k x0) :
    Follows k (updateEnds x0) := by
  unfold updateEnds
  repeat' (first | with_reducible assumption | (lift_lets; intro mm) | with_reducible (apply enterStandby_follows) | with_reducible (apply foldl_follows) | split | intro _ | with_reducible (refine Follows.of_mk ?_ rfl rfl rfl rfl rfl rfl rfl rfl rfl))

theorem updateRefused_follows {k : Mach} (x0 : Mach) (x1 : Nat) (x2 : Via) (x3 : Option Reply) (h0 : Follows k x0) :
    Follows k (updateRefused x0 x1 x2 x3) := by
  unfold updateRefused
  repeat' (first | with_reducible assumption | (lift_lets; intro mm) | with_reducible (apply answer_follows) | with_reducible (apply updateEnds_follows) | with_reducible (apply odSet_follows) | with_reducible (apply foldl_follows) | split | intro _ | with_reducible (refine Follows.of_mk ?_ rfl rfl rfl rfl rfl rfl rfl rfl rfl))

theorem syncCopies_follows {k : Mach} (x0 : Mach) (x1 : Nat) (h0 : Follows k x0) :
    Follows k (syncCopies x0 x1) := by
  unfold syncCopies
  repeat' (first | with_reducible assumption | (lift_lets; intro mm) | with_reducible (apply foldl_follows) | split | intro _ | with_reducible (refine Follows.of_mk ?_ rfl rfl rfl rfl rfl rfl rfl rfl rfl))

theorem readPackage_follows {k : Mach} (x0 : Mach) (x1 : Package) (h0 : Follows k x0) :
    Follows k (readPackage x0 x1) := by
  unfold readPackage
  repeat' (first | with_reducible assumption | (lift_lets; intro mm) | with_reducible (apply draw_follows) | (refine draw_follows' _ ?_ _ _ (by assumption)) | with_reducible (apply dmaHbm_follows) | with_reducible (apply foldl_follows) | split | intro _ | with_reducible (refine Follows.of_mk ?_ rfl rfl rfl rfl rfl rfl rfl rfl rfl))

theorem firmwareRun_follows {k : Mach} (x0 : Mach) (x1 : Via) (x2 : List Byte) (x3 : Option Package) (x4 : Option Reply) (h0 : Follows k x0) :
    Follows k (firmwareRun x0 x1 x2 x3 x4) := by
  unfold firmwareRun
  repeat' (first | with_reducible assumption | (lift_lets; intro mm) | with_reducible (apply setState_follows) | with_reducible (apply updateRefused_follows) | with_reducible (apply syncCopies_follows) | with_reducible (apply hostRead_follows) | with_reducible (apply count_follows) | with_reducible (apply readPackage_follows) | with_reducible (apply holdAnswer_follows) | with_reducible (apply foldl_follows) | split | intro _ | with_reducible (refine Follows.of_mk ?_ rfl rfl rfl rfl rfl rfl rfl rfl rfl))

theorem execFirmwareInstall_follows {k : Mach} (x0 : Via) (x1 : List Byte) (x2 : Package) (x3 : State) (h0 : Follows k x3.m) :
    ∃ t, execFirmwareInstall x0 x1 x2 x3 = .next t ∧ t.pending = x3.pending ∧ Follows k t.m := by
  refine nextM_follows ?_
  repeat' (first | with_reducible assumption | (lift_lets; intro mm) | with_reducible (apply commandRow_follows) | with_reducible (apply firmwareRun_follows) | with_reducible (apply foldl_follows) | split | intro _ | with_reducible (refine Follows.of_mk ?_ rfl rfl rfl rfl rfl rfl rfl rfl rfl))

theorem execFirmwareSync_follows {k : Mach} (x0 : Via) (x1 : List Byte) (x2 : State) (h0 : Follows k x2.m) :
    ∃ t, execFirmwareSync x0 x1 x2 = .next t ∧ t.pending = x2.pending ∧ Follows k t.m := by
  refine nextM_follows ?_
  repeat' (first | with_reducible assumption | (lift_lets; intro mm) | with_reducible (apply commandRow_follows) | with_reducible (apply firmwareRun_follows) | with_reducible (apply foldl_follows) | split | intro _ | with_reducible (refine Follows.of_mk ?_ rfl rfl rfl rfl rfl rfl rfl rfl rfl))

theorem restartStewards_follows {k : Mach} (x0 : Mach) (h0 : Follows k x0) :
    Follows k (restartStewards x0) := by
  unfold restartStewards
  repeat' (first | with_reducible assumption | (lift_lets; intro mm) | with_reducible (apply closeSessions_follows) | with_reducible (apply setState_follows) | with_reducible (apply foldl_follows) | split | intro _ | with_reducible (refine Follows.of_mk ?_ rfl rfl rfl rfl rfl rfl rfl rfl rfl))

theorem execFirmwareWriteComplete_follows {k : Mach} (x0 : Bool) (x1 : State) (h0 : Follows k x1.m) :
    ∃ t, execFirmwareWriteComplete x0 x1 = .next t ∧ t.pending = x1.pending ∧ Follows k t.m := by
  refine nextM_follows ?_
  repeat' (first | with_reducible assumption | (lift_lets; intro mm) | with_reducible (apply giveAnswers_follows) | with_reducible (apply updateEnds_follows) | with_reducible (apply odSet_follows) | with_reducible (apply setCopyA_follows) | with_reducible (apply restartStewards_follows) | with_reducible (apply bootBoard_follows) | with_reducible (apply foldl_follows) | split | intro _ | with_reducible (refine Follows.of_mk ?_ rfl rfl rfl rfl rfl rfl rfl rfl rfl))

end Sys2Proof.Machine
end

