-- ==== Sys2Proof/Laws/FollowsKoa.lean ====
section
/-! SUPPORT. The operations and the meanings of Machine/Koa.lean keep what `Follows` names. -/

namespace Sys2Proof.Machine

theorem restoreRun_follows {k : Mach} (x0 : Mach) (x1 : Via) (x2 : Option Reply) (h0 : Follows k x0) :
    Follows k (restoreRun x0 x1 x2) := by
  unfold restoreRun
  repeat' (first | with_reducible assumption | (lift_lets; intro mm) | with_reducible (apply queueNv_follows) | with_reducible (apply foldl_follows) | split | intro _ | with_reducible (refine Follows.of_mk ?_ rfl rfl rfl rfl rfl rfl rfl rfl rfl))

theorem commandRun_follows {k : Mach} (x0 : Mach) (x1 : Via) (x2 : Nat) (x3 : Nat) (x4 : List Byte) (x5 : Attach) (x6 : Option Reply) (h0 : Follows k x0) :
    Follows k (commandRun x0 x1 x2 x3 x4 x5 x6) := by
  unfold commandRun
  repeat' (first | with_reducible assumption | (lift_lets; intro mm) | with_reducible (apply restoreRun_follows) | with_reducible (apply jobRun_follows) | with_reducible (apply adapterRun_follows) | with_reducible (apply replaceRun_follows) | with_reducible (apply reinitRun_follows) | with_reducible (apply injectRun_follows) | with_reducible (apply provokeRun_follows) | with_reducible (apply revokeRun_follows) | with_reducible (apply rollbackRun_follows) | with_reducible (apply nonceRun_follows) | with_reducible (apply firmwareRun_follows) | with_reducible (apply keyRun_follows) | with_reducible (apply releaseRun_follows) | with_reducible (apply answer_follows) | with_reducible (apply foldl_follows) | split | intro _ | with_reducible (refine Follows.of_mk ?_ rfl rfl rfl rfl rfl rfl rfl rfl rfl))

theorem execRestoreDefaults_follows {k : Mach} (x0 : Via) (x1 : List Byte) (x2 : State) (h0 : Follows k x2.m) :
    ∃ t, execRestoreDefaults x0 x1 x2 = .next t ∧ t.pending = x2.pending ∧ Follows k t.m := by
  refine nextM_follows ?_
  repeat' (first | with_reducible assumption | (lift_lets; intro mm) | with_reducible (apply commandRow_follows) | with_reducible (apply restoreRun_follows) | with_reducible (apply foldl_follows) | split | intro _ | with_reducible (refine Follows.of_mk ?_ rfl rfl rfl rfl rfl rfl rfl rfl rfl))

theorem applyWrite_follows {k : Mach} (x0 : Mach) (x1 : Nat) (x2 : Nat) (x3 : List Byte) (h0 : Follows k x0) :
    Follows k (applyWrite x0 x1 x2 x3) := by
  unfold applyWrite
  repeat' (first | with_reducible assumption | (lift_lets; intro mm) | with_reducible (apply setIntakeEnable_follows) | with_reducible (apply accept_follows) | with_reducible (apply foldl_follows) | split | intro _ | with_reducible (refine Follows.of_mk ?_ rfl rfl rfl rfl rfl rfl rfl rfl rfl))

theorem storedValues_follows {k : Mach} (x0 : Mach) (x1 : NvWrite) (h0 : Follows k x0) :
    Follows k (storedValues x0 x1) := by
  unfold storedValues
  repeat' (first | with_reducible assumption | (lift_lets; intro mm) | with_reducible (apply keysStored_follows) | with_reducible (apply accept_follows) | with_reducible (apply foldl_follows) | split | intro _ | with_reducible (refine Follows.of_mk ?_ rfl rfl rfl rfl rfl rfl rfl rfl rfl))

theorem afterStore_follows {k : Mach} (x0 : Mach) (x1 : List KeyEntry) (x2 : NvWrite) (h0 : Follows k x0) :
    Follows k (afterStore x0 x1 x2) := by
  unfold afterStore
  repeat' (first | with_reducible assumption | (lift_lets; intro mm) | with_reducible (apply closeRemoved_follows) | with_reducible (apply closeSessions_follows) | with_reducible (apply bifurcate_follows) | with_reducible (apply foldl_follows) | split | intro _ | with_reducible (refine Follows.of_mk ?_ rfl rfl rfl rfl rfl rfl rfl rfl rfl))

theorem finishRequest_follows {k : Mach} (x0 : Mach) (x1 : Via) (x2 : Reply) (h0 : Follows k x0) :
    Follows k (finishRequest x0 x1 x2) := by
  unfold finishRequest
  repeat' (first | with_reducible assumption | (lift_lets; intro mm) | with_reducible (apply commandRun_follows) | with_reducible (apply answerWith_follows) | with_reducible (apply foldl_follows) | split | intro _ | with_reducible (refine Follows.of_mk ?_ rfl rfl rfl rfl rfl rfl rfl rfl rfl))

theorem failStore_follows {k : Mach} (x0 : Mach) (x1 : NvWrite) (h0 : Follows k x0) :
    Follows k (failStore x0 x1) := by
  unfold failStore
  repeat' (first | with_reducible assumption | (lift_lets; intro mm) | with_reducible (apply answer_follows) | with_reducible (apply sendResponse_follows) | with_reducible (apply foldl_follows) | split | intro _ | with_reducible (refine Follows.of_mk ?_ rfl rfl rfl rfl rfl rfl rfl rfl rfl))

theorem execNvStoreComplete_follows {k : Mach} (x0 : Bool) (x1 : State) (h0 : Follows k x1.m) :
    ∃ t, execNvStoreComplete x0 x1 = .next t ∧ t.pending = x1.pending ∧ Follows k t.m := by
  refine nextM_follows ?_
  repeat' (first | with_reducible assumption | (lift_lets; intro mm) | with_reducible (apply failStore_follows) | with_reducible (apply storedValues_follows) | with_reducible (apply answer_follows) | with_reducible (apply finishRequest_follows) | with_reducible (apply afterStore_follows) | with_reducible (apply foldl_follows) | split | intro _ | with_reducible (refine Follows.of_mk ?_ rfl rfl rfl rfl rfl rfl rfl rfl rfl))

theorem subscribe_follows {k : Mach} (x0 : Mach) (x1 : Via) (x2 : W64) (h0 : Follows k x0) :
    Follows k (subscribe x0 x1 x2) := by
  unfold subscribe
  repeat' (first | with_reducible assumption | (lift_lets; intro mm) | with_reducible (apply foldl_follows) | split | intro _ | with_reducible (refine Follows.of_mk ?_ rfl rfl rfl rfl rfl rfl rfl rfl rfl))

theorem runRequest_follows {k : Mach} (x0 : Mach) (x1 : KoaSrc) (x2 : Via) (x3 : Nat) (x4 : List Byte) (x5 : Attach) (h0 : Follows k x0) :
    Follows k (runRequest x0 x1 x2 x3 x4 x5) := by
  unfold runRequest
  repeat' (first | with_reducible assumption | (lift_lets; intro mm) | with_reducible (apply sendResponse_follows) | with_reducible (apply subscribe_follows) | with_reducible (apply applyWrite_follows) | with_reducible (apply finishRequest_follows) | with_reducible (apply queueNv_follows) | with_reducible (apply foldl_follows) | split | intro _ | with_reducible (refine Follows.of_mk ?_ rfl rfl rfl rfl rfl rfl rfl rfl rfl))

theorem errorTo_follows {k : Mach} (x0 : Mach) (x1 : KoaSrc) (x2 : Nat) (x3 : Nat) (h0 : Follows k x0) :
    Follows k (errorTo x0 x1 x2 x3) := by
  unfold errorTo
  repeat' (first | with_reducible assumption | (lift_lets; intro mm) | with_reducible (apply sendBack_follows) | with_reducible (apply foldl_follows) | split | intro _ | with_reducible (refine Follows.of_mk ?_ rfl rfl rfl rfl rfl rfl rfl rfl rfl))

theorem reject_follows {k : Mach} (x0 : Mach) (x1 : KoaSrc) (x2 : Nat) (x3 : Nat) (h0 : Follows k x0) :
    Follows k (reject x0 x1 x2 x3) := by
  unfold reject
  repeat' (first | with_reducible assumption | (lift_lets; intro mm) | with_reducible (apply count_follows) | with_reducible (apply errorTo_follows) | with_reducible (apply foldl_follows) | split | intro _ | with_reducible (refine Follows.of_mk ?_ rfl rfl rfl rfl rfl rfl rfl rfl rfl))

theorem helloFlood_follows {k : Mach} (x0 : Mach) (h0 : Follows k x0) :
    Follows k (helloFlood x0).2 := by
  unfold helloFlood
  repeat' (first | with_reducible assumption | (lift_lets; intro mm) | with_reducible (apply foldl_follows) | split | intro _ | with_reducible (refine Follows.of_mk ?_ rfl rfl rfl rfl rfl rfl rfl rfl rfl))

theorem helloFlood_follows' {k : Mach} (x0 : Mach) (h0 : Follows k x0) :
    ∀ a z, helloFlood x0 = (a, z) → Follows k z := by
  intro a z e
  have := helloFlood_follows x0  h0 (k := k)
  rw [e] at this
  exact this

theorem takeHelloMsg_follows {k : Mach} (x0 : Mach) (x1 : KoaSrc) (x2 : Nat) (x3 : Byte) (x4 : List Byte) (h0 : Follows k x0) :
    Follows k (takeHelloMsg x0 x1 x2 x3 x4) := by
  unfold takeHelloMsg
  repeat' (first | with_reducible assumption | (lift_lets; intro mm) | with_reducible (apply helloFlood_follows) | (refine helloFlood_follows' _ ?_ _ _ (by assumption)) | with_reducible (apply reject_follows) | with_reducible (apply errorTo_follows) | with_reducible (apply draw_follows) | (refine draw_follows' _ ?_ _ _ (by assumption)) | with_reducible (apply sendBack_follows) | with_reducible (apply foldl_follows) | split | intro _ | with_reducible (refine Follows.of_mk ?_ rfl rfl rfl rfl rfl rfl rfl rfl rfl))

theorem takeAuth_follows {k : Mach} (x0 : Mach) (x1 : KoaSrc) (x2 : Session) (x3 : Nat) (x4 : List Byte) (h0 : Follows k x0) :
    Follows k (takeAuth x0 x1 x2 x3 x4) := by
  unfold takeAuth
  repeat' (first | with_reducible assumption | (lift_lets; intro mm) | with_reducible (apply errorTo_follows) | with_reducible (apply closeSessions_follows) | with_reducible (apply count_follows) | with_reducible (apply sendSealed_follows) | with_reducible (apply foldl_follows) | split | intro _ | with_reducible (refine Follows.of_mk ?_ rfl rfl rfl rfl rfl rfl rfl rfl rfl))

theorem heardNow_follows {k : Mach} (x0 : Mach) (x1 : Nat) (h0 : Follows k x0) :
    Follows k (heardNow x0 x1) := by
  unfold heardNow
  repeat' (first | with_reducible assumption | (lift_lets; intro mm) | with_reducible (apply foldl_follows) | split | intro _ | with_reducible (refine Follows.of_mk ?_ rfl rfl rfl rfl rfl rfl rfl rfl rfl))

theorem repeated_follows {k : Mach} (x0 : Mach) (x1 : KoaSrc) (x2 : Session) (x3 : Nat) (x4 : List Byte) (h0 : Follows k x0) :
    Follows k (repeated x0 x1 x2 x3 x4) := by
  unfold repeated
  repeat' (first | with_reducible assumption | (lift_lets; intro mm) | with_reducible (apply sendSealed_follows) | with_reducible (apply heardNow_follows) | with_reducible (apply reject_follows) | with_reducible (apply foldl_follows) | split | intro _ | with_reducible (refine Follows.of_mk ?_ rfl rfl rfl rfl rfl rfl rfl rfl rfl))

theorem runWaiting_follows {k : Mach} (x0 : Nat) (x1 : Mach) (x2 : Nat) (h0 : Follows k x1) :
    Follows k (runWaiting x0 x1 x2) := by
  induction x0 generalizing x1 with
  | zero => exact h0
  | succ n ih =>
    unfold runWaiting
    split
    · exact h0
    · split
      · exact h0
      · exact ih _ (runRequest_follows _ _ _ _ _ _ (h0.of_eq rfl rfl rfl rfl rfl rfl rfl rfl rfl))

theorem takeRequest_follows {k : Mach} (x0 : Mach) (x1 : KoaSrc) (x2 : Session) (x3 : Nat) (x4 : List Byte) (x5 : Attach) (h0 : Follows k x0) :
    Follows k (takeRequest x0 x1 x2 x3 x4 x5) := by
  unfold takeRequest
  repeat' (first | with_reducible assumption | (lift_lets; intro mm) | with_reducible (apply reject_follows) | with_reducible (apply repeated_follows) | with_reducible (apply runWaiting_follows) | with_reducible (apply foldl_follows) | split | intro _ | with_reducible (refine Follows.of_mk ?_ rfl rfl rfl rfl rfl rfl rfl rfl rfl))

theorem takeClose_follows {k : Mach} (x0 : Mach) (x1 : KoaSrc) (x2 : Session) (x3 : Nat) (h0 : Follows k x0) :
    Follows k (takeClose x0 x1 x2 x3) := by
  unfold takeClose
  repeat' (first | with_reducible assumption | (lift_lets; intro mm) | with_reducible (apply reject_follows) | with_reducible (apply sendSealed_follows) | with_reducible (apply closeSessions_follows) | with_reducible (apply foldl_follows) | split | intro _ | with_reducible (refine Follows.of_mk ?_ rfl rfl rfl rfl rfl rfl rfl rfl rfl))

theorem plainMessage_follows {k : Mach} (x0 : Mach) (x1 : KoaSrc) (x2 : List Byte) (x3 : Attach) (h0 : Follows k x0) :
    Follows k (plainMessage x0 x1 x2 x3) := by
  unfold plainMessage
  repeat' (first | with_reducible assumption | (lift_lets; intro mm) | with_reducible (apply reject_follows) | with_reducible (apply errorTo_follows) | with_reducible (apply takeHelloMsg_follows) | with_reducible (apply runRequest_follows) | with_reducible (apply foldl_follows) | split | intro _ | with_reducible (refine Follows.of_mk ?_ rfl rfl rfl rfl rfl rfl rfl rfl rfl))

theorem sessionMessage_follows {k : Mach} (x0 : Mach) (x1 : KoaSrc) (x2 : List Byte) (x3 : Attach) (h0 : Follows k x0) :
    Follows k (sessionMessage x0 x1 x2 x3) := by
  unfold sessionMessage
  repeat' (first | with_reducible assumption | (lift_lets; intro mm) | with_reducible (apply reject_follows) | with_reducible (apply errorTo_follows) | with_reducible (apply takeAuth_follows) | with_reducible (apply takeRequest_follows) | with_reducible (apply takeClose_follows) | with_reducible (apply foldl_follows) | split | intro _ | with_reducible (refine Follows.of_mk ?_ rfl rfl rfl rfl rfl rfl rfl rfl rfl))

theorem koaMessage_follows {k : Mach} (x0 : Mach) (x1 : KoaSrc) (x2 : List Byte) (x3 : Attach) (h0 : Follows k x0) :
    Follows k (koaMessage x0 x1 x2 x3) := by
  unfold koaMessage
  repeat' (first | with_reducible assumption | (lift_lets; intro mm) | with_reducible (apply reject_follows) | with_reducible (apply plainMessage_follows) | with_reducible (apply sessionMessage_follows) | with_reducible (apply foldl_follows) | split | intro _ | with_reducible (refine Follows.of_mk ?_ rfl rfl rfl rfl rfl rfl rfl rfl rfl))

theorem koaRow_follows {k : Mach} (x0 : Mach) (x1 : Nat) (x2 : KoaSrc) (x3 : List Byte) (x4 : Attach) (h0 : Follows k x0) :
    Follows k (koaRow x0 x1 x2 x3 x4) := by
  unfold koaRow
  repeat' (first | with_reducible assumption | (lift_lets; intro mm) | with_reducible (apply koaMessage_follows) | with_reducible (apply foldl_follows) | split | intro _ | with_reducible (refine Follows.of_mk ?_ rfl rfl rfl rfl rfl rfl rfl rfl rfl))

theorem execKoaHello_follows {k : Mach} (x0 : KoaSrc) (x1 : List Byte) (x2 : State) (h0 : Follows k x2.m) :
    ∃ t, execKoaHello x0 x1 x2 = .next t ∧ t.pending = x2.pending ∧ Follows k t.m := by
  refine nextM_follows ?_
  repeat' (first | with_reducible assumption | (lift_lets; intro mm) | with_reducible (apply koaRow_follows) | with_reducible (apply foldl_follows) | split | intro _ | with_reducible (refine Follows.of_mk ?_ rfl rfl rfl rfl rfl rfl rfl rfl rfl))

theorem execKoaAuth_follows {k : Mach} (x0 : KoaSrc) (x1 : List Byte) (x2 : State) (h0 : Follows k x2.m) :
    ∃ t, execKoaAuth x0 x1 x2 = .next t ∧ t.pending = x2.pending ∧ Follows k t.m := by
  refine nextM_follows ?_
  repeat' (first | with_reducible assumption | (lift_lets; intro mm) | with_reducible (apply koaRow_follows) | with_reducible (apply foldl_follows) | split | intro _ | with_reducible (refine Follows.of_mk ?_ rfl rfl rfl rfl rfl rfl rfl rfl rfl))

theorem execKoaRequest_follows {k : Mach} (x0 : KoaSrc) (x1 : List Byte) (x2 : Attach) (x3 : State) (h0 : Follows k x3.m) :
    ∃ t, execKoaRequest x0 x1 x2 x3 = .next t ∧ t.pending = x3.pending ∧ Follows k t.m := by
  refine nextM_follows ?_
  repeat' (first | with_reducible assumption | (lift_lets; intro mm) | with_reducible (apply koaRow_follows) | with_reducible (apply foldl_follows) | split | intro _ | with_reducible (refine Follows.of_mk ?_ rfl rfl rfl rfl rfl rfl rfl rfl rfl))

theorem execKoaClose_follows {k : Mach} (x0 : KoaSrc) (x1 : List Byte) (x2 : State) (h0 : Follows k x2.m) :
    ∃ t, execKoaClose x0 x1 x2 = .next t ∧ t.pending = x2.pending ∧ Follows k t.m := by
  refine nextM_follows ?_
  repeat' (first | with_reducible assumption | (lift_lets; intro mm) | with_reducible (apply koaRow_follows) | with_reducible (apply foldl_follows) | split | intro _ | with_reducible (refine Follows.of_mk ?_ rfl rfl rfl rfl rfl rfl rfl rfl rfl))

theorem sessionExpires_follows {k : Mach} (x0 : Mach) (x1 : Nat) (x2 : Bool) (x3 : Nat) (h0 : Follows k x0) :
    Follows k (sessionExpires x0 x1 x2 x3) := by
  unfold sessionExpires
  repeat' (first | with_reducible assumption | (lift_lets; intro mm) | with_reducible (apply closeSessions_follows) | with_reducible (apply advance_follows) | with_reducible (apply foldl_follows) | split | intro _ | with_reducible (refine Follows.of_mk ?_ rfl rfl rfl rfl rfl rfl rfl rfl rfl))

theorem execSessionIdleTimeout_follows {k : Mach} (x0 : Nat) (x1 : State) (h0 : Follows k x1.m) :
    ∃ t, execSessionIdleTimeout x0 x1 = .next t ∧ t.pending = x1.pending ∧ Follows k t.m := by
  refine nextM_follows ?_
  repeat' (first | with_reducible assumption | (lift_lets; intro mm) | with_reducible (apply sessionExpires_follows) | with_reducible (apply foldl_follows) | split | intro _ | with_reducible (refine Follows.of_mk ?_ rfl rfl rfl rfl rfl rfl rfl rfl rfl))

theorem execAuthTimeout_follows {k : Mach} (x0 : Nat) (x1 : State) (h0 : Follows k x1.m) :
    ∃ t, execAuthTimeout x0 x1 = .next t ∧ t.pending = x1.pending ∧ Follows k t.m := by
  refine nextM_follows ?_
  repeat' (first | with_reducible assumption | (lift_lets; intro mm) | with_reducible (apply sessionExpires_follows) | with_reducible (apply foldl_follows) | split | intro _ | with_reducible (refine Follows.of_mk ?_ rfl rfl rfl rfl rfl rfl rfl rfl rfl))

theorem ringDoorbell_follows {k : Mach} (x0 : Mach) (x1 : Nat) (x2 : Attach) (h0 : Follows k x0) :
    Follows k (ringDoorbell x0 x1 x2) := by
  unfold ringDoorbell
  repeat' (first | with_reducible assumption | (lift_lets; intro mm) | with_reducible (apply count_follows) | with_reducible (apply koaMessage_follows) | with_reducible (apply foldl_follows) | split | intro _ | with_reducible (refine Follows.of_mk ?_ rfl rfl rfl rfl rfl rfl rfl rfl rfl))

theorem execMailboxDoorbell_follows {k : Mach} (x0 : W32) (x1 : Attach) (x2 : State) (h0 : Follows k x2.m) :
    ∃ t, execMailboxDoorbell x0 x1 x2 = .next t ∧ t.pending = x2.pending ∧ Follows k t.m := by
  refine nextM_follows ?_
  repeat' (first | with_reducible assumption | (lift_lets; intro mm) | with_reducible (apply ringDoorbell_follows) | with_reducible (apply foldl_follows) | split | intro _ | with_reducible (refine Follows.of_mk ?_ rfl rfl rfl rfl rfl rfl rfl rfl rfl))

theorem writeMsix_follows {k : Mach} (x0 : Mach) (x1 : Nat) (x2 : Nat × List Byte) (h0 : Follows k x0) :
    Follows k (writeMsix x0 x1 x2) := by
  unfold writeMsix
  repeat' (first | with_reducible assumption | (lift_lets; intro mm) | with_reducible (apply setFn_follows) | with_reducible (apply unmaskVector_follows) | with_reducible (apply foldl_follows) | split | intro _ | with_reducible (refine Follows.of_mk ?_ rfl rfl rfl rfl rfl rfl rfl rfl rfl))

theorem writeCommon_follows {k : Mach} (x0 : Mach) (x1 : Nat) (x2 : Nat) (x3 : List Byte) (h0 : Follows k x0) :
    Follows k (writeCommon x0 x1 x2 x3) := by
  unfold writeCommon
  repeat' (first | with_reducible assumption | (lift_lets; intro mm) | with_reducible (apply writeIntake_follows) | with_reducible (apply clearCause_follows) | with_reducible (apply foldl_follows) | split | intro _ | with_reducible (refine Follows.of_mk ?_ rfl rfl rfl rfl rfl rfl rfl rfl rfl))

theorem execBar0Write_follows {k : Mach} (x0 : Fin 16) (x1 : BitVec 20) (x2 : List Byte) (x3 : State) (h0 : Follows k x3.m) :
    ∃ t, execBar0Write x0 x1 x2 x3 = .next t ∧ t.pending = x3.pending ∧ Follows k t.m := by
  refine nextM_follows ?_
  repeat' (first | with_reducible assumption | (lift_lets; intro mm) | with_reducible (apply writeCommon_follows) | with_reducible (apply writeMsix_follows) | with_reducible (apply ringDoorbell_follows) | with_reducible (apply setAperture_follows) | with_reducible (apply writeBar0_follows) | with_reducible (apply writeWindowTable_follows) | with_reducible (apply foldl_follows) | split | intro _ | with_reducible (refine Follows.of_mk ?_ rfl rfl rfl rfl rfl rfl rfl rfl rfl))

theorem giveRead_follows {k : Mach} (x0 : Mach) (x1 : Via) (x2 : Nat) (x3 : Nat) (x4 : Nat) (x5 : Nat) (h0 : Follows k x0) :
    Follows k (giveRead x0 x1 x2 x3 x4 x5) := by
  unfold giveRead
  repeat' (first | with_reducible assumption | (lift_lets; intro mm) | with_reducible (apply emit_follows) | with_reducible (apply foldl_follows) | split | intro _ | with_reducible (refine Follows.of_mk ?_ rfl rfl rfl rfl rfl rfl rfl rfl rfl))

theorem execOdRead_follows {k : Mach} (x0 : Via) (x1 : BitVec 16) (x2 : BitVec 8) (x3 : Nat) (x4 : Nat) (x5 : State) (h0 : Follows k x5.m) :
    ∃ t, execOdRead x0 x1 x2 x3 x4 x5 = .next t ∧ t.pending = x5.pending ∧ Follows k t.m := by
  refine nextM_follows ?_
  repeat' (first | with_reducible assumption | (lift_lets; intro mm) | with_reducible (apply giveRead_follows) | with_reducible (apply sendMesh_follows) | with_reducible (apply foldl_follows) | split | intro _ | with_reducible (refine Follows.of_mk ?_ rfl rfl rfl rfl rfl rfl rfl rfl rfl))

theorem execOdWrite_follows {k : Mach} (x0 : Via) (x1 : BitVec 16) (x2 : BitVec 8) (x3 : List Byte) (x4 : State) (h0 : Follows k x4.m) :
    ∃ t, execOdWrite x0 x1 x2 x3 x4 = .next t ∧ t.pending = x4.pending ∧ Follows k t.m := by
  refine nextM_follows ?_
  repeat' (first | with_reducible assumption | (lift_lets; intro mm) | with_reducible (apply answer_follows) | with_reducible (apply queueNv_follows) | with_reducible (apply applyWrite_follows) | with_reducible (apply foldl_follows) | split | intro _ | with_reducible (refine Follows.of_mk ?_ rfl rfl rfl rfl rfl rfl rfl rfl rfl))

theorem execOdDescribe_follows {k : Mach} (x0 : Via) (x1 : BitVec 16) (x2 : BitVec 8) (x3 : State) (h0 : Follows k x3.m) :
    ∃ t, execOdDescribe x0 x1 x2 x3 = .next t ∧ t.pending = x3.pending ∧ Follows k t.m := by
  refine nextM_follows ?_
  repeat' (first | with_reducible assumption | (lift_lets; intro mm) | with_reducible (apply emit_follows) | with_reducible (apply foldl_follows) | split | intro _ | with_reducible (refine Follows.of_mk ?_ rfl rfl rfl rfl rfl rfl rfl rfl rfl))

theorem execOdSubscribe_follows {k : Mach} (x0 : Via) (x1 : W64) (x2 : State) (h0 : Follows k x2.m) :
    ∃ t, execOdSubscribe x0 x1 x2 = .next t ∧ t.pending = x2.pending ∧ Follows k t.m := by
  refine nextM_follows ?_
  repeat' (first | with_reducible assumption | (lift_lets; intro mm) | with_reducible (apply emit_follows) | with_reducible (apply subscribe_follows) | with_reducible (apply foldl_follows) | split | intro _ | with_reducible (refine Follows.of_mk ?_ rfl rfl rfl rfl rfl rfl rfl rfl rfl))

theorem sendValue_follows {k : Mach} (x0 : Mach) (x1 : Nat) (x2 : List Byte) (h0 : Follows k x0) :
    Follows k (sendValue x0 x1 x2).2 := by
  unfold sendValue
  repeat' (first | with_reducible assumption | (lift_lets; intro mm) | with_reducible (apply draw_follows) | (refine draw_follows' _ ?_ _ _ (by assumption)) | with_reducible (apply enterPacket_follows) | with_reducible (apply foldl_follows) | split | intro _ | with_reducible (refine Follows.of_mk ?_ rfl rfl rfl rfl rfl rfl rfl rfl rfl))

theorem sendValue_follows' {k : Mach} (x0 : Mach) (x1 : Nat) (x2 : List Byte) (h0 : Follows k x0) :
    ∀ a z, sendValue x0 x1 x2 = (a, z) → Follows k z := by
  intro a z e
  have := sendValue_follows x0 x1 x2  h0 (k := k)
  rw [e] at this
  exact this

theorem stewardAnswers_follows {k : Mach} (x0 : Mach) (x1 : Nat) (x2 : Nat) (x3 : Nat) (x4 : Nat) (h0 : Follows k x0) :
    Follows k (stewardAnswers x0 x1 x2 x3 x4).2.2 := by
  unfold stewardAnswers
  repeat' (first | with_reducible assumption | (lift_lets; intro mm) | with_reducible (apply sendValue_follows) | (refine sendValue_follows' _ _ _ ?_ _ _ (by assumption)) | with_reducible (apply foldl_follows) | split | intro _ | with_reducible (refine Follows.of_mk ?_ rfl rfl rfl rfl rfl rfl rfl rfl rfl))

theorem execOdRequest_follows {k : Mach} (x0 : Fin 4) (x1 : MeshMsg) (x2 : State) (h0 : Follows k x2.m) :
    ∃ t, execOdRequest x0 x1 x2 = .next t ∧ t.pending = x2.pending ∧ Follows k t.m := by
  refine nextM_follows ?_
  repeat' (first | with_reducible assumption | (lift_lets; intro mm) | with_reducible (apply onMessage_follows) | with_reducible (apply stewardAnswers_follows) | with_reducible (apply sendMesh_follows) | with_reducible (apply foldl_follows) | split | intro _ | with_reducible (refine Follows.of_mk ?_ rfl rfl rfl rfl rfl rfl rfl rfl rfl))

theorem execOdResponse_follows {k : Mach} (x0 : MeshMsg) (x1 : State) (h0 : Follows k x1.m) :
    ∃ t, execOdResponse x0 x1 = .next t ∧ t.pending = x1.pending ∧ Follows k t.m := by
  refine nextM_follows ?_
  repeat' (first | with_reducible assumption | (lift_lets; intro mm) | with_reducible (apply onMessage_follows) | with_reducible (apply giveRead_follows) | with_reducible (apply emit_follows) | with_reducible (apply foldl_follows) | split | intro _ | dsimp +zetaDelta only | with_reducible (refine Follows.of_mk ?_ rfl rfl rfl rfl rfl rfl rfl rfl rfl))

theorem execTelemetry_follows {k : Mach} (x0 : MeshMsg) (x1 : State) (h0 : Follows k x1.m) :
    ∃ t, execTelemetry x0 x1 = .next t ∧ t.pending = x1.pending ∧ Follows k t.m := by
  unfold execTelemetry
  refine nextM_follows ?_
  refine onMessage_follows _ _ _ _ _ (fun m h => ?_) h0
  dsimp only
  split
  · exact h
  · exact setDune_follows _ _ _ h

end Sys2Proof.Machine
end

