-- ==== Sys2Proof/Laws/Issue.lean ====
section
/-! SUPPORT. What the shared operations of thread instructions do: `issue` in each of its cases, and the writing of a
register, a predicate, or nothing. -/

namespace Sys2Proof.Machine

/-! ## issue -/

/-- An instruction that issues runs its body at the start of its cycle. -/
theorem issue_issues {m : Mach} {t : Thread} {cls op : Nat} {f : Fields} {legal : Bool} {srcs : List Nat}
    {body : Mach → Beat → Nat → Mach} {b : Beat} {c : Nat} (hl : legal = true) (h : IssuesAt m t f srcs b c) :
    issue m t cls op f legal srcs body = body (atCycle m b c) b c := by
  obtain ⟨hb, hc, hlt, hg⟩ := h
  subst hc
  simp [issue, hb, hl, hg, atCycle, Nat.not_le.mpr hlt]

/-- A thread that cannot issue leaves everything as it is. -/
theorem issue_silent {m : Mach} {t : Thread} {cls op : Nat} {f : Fields} {legal : Bool} {srcs : List Nat}
    {body : Mach → Beat → Nat → Mach} (h : issuingBeat m t = none) : issue m t cls op f legal srcs body = m := by
  simp [issue, h]

/-- A failed guard. -/
theorem issue_unguarded {m : Mach} {t : Thread} {cls op : Nat} {f : Fields} {legal : Bool} {srcs : List Nat}
    {body : Mach → Beat → Nat → Mach} {b : Beat} {c : Nat} (hl : legal = true) (hb : issuingBeat m t = some b)
    (hg : guardHolds (getThread m t) f = false) (hc : c = issueSlot m b t [srcP f.gp.toNat])
    (hlt : c < commitCycle m (getDune m t.core.row.dune) b) :
    issue m t cls op f legal srcs body = retire (atCycle m b c) t c := by
  subst hc
  simp [issue, hb, hl, hg, atCycle, Nat.not_le.mpr hlt]

/-- An illegal encoding. -/
theorem issue_illegal {m : Mach} {t : Thread} {cls op : Nat} {f : Fields} {legal : Bool} {srcs : List Nat}
    {body : Mach → Beat → Nat → Mach} {b : Beat} {c : Nat} (hl : legal = false) (hb : issuingBeat m t = some b)
    (hc : c = issueSlot m b t []) (hlt : c < commitCycle m (getDune m t.core.row.dune) b) :
    issue m t cls op f legal srcs body = instFault (atCycle m b c) t 1 (instrWord cls op f) := by
  subst hc
  simp [issue, hb, hl, atCycle, Nat.not_le.mpr hlt]

/-! ## Registers -/

@[simp] theorem dropLoad_threads (m : Mach) (t : Thread) (k : Nat) : (dropLoad m t k).threads = m.threads := rfl

@[simp] theorem getThread_dropLoad (m : Mach) (t u : Thread) (k : Nat) : getThread (dropLoad m t k) u = getThread m u := rfl

theorem getThread_retire_self (m : Mach) (t : Thread) (c : Nat) :
    getThread (retire m t c) t = { getThread m t with nextIssue := c + 8, pc := (getThread m t).pc + 1 } := by
  simp only [retire, getThread_setThread_same]

theorem getThread_retire_ne (m : Mach) {t u : Thread} (c : Nat) (h : u ≠ t) :
    getThread (retire m t c) u = getThread m u := by
  simp only [retire, getThread_setThread_ne _ _ h]

theorem readG_writeG (ts : ThreadState) (k j : BitVec 5) (v : W64) :
    readG (writeG ts k v) j = if j = k ∧ j ≠ 0 then v else readG ts j := by
  unfold readG writeG
  by_cases hk : k = 0
  · subst hk
    by_cases hj : j = 0 <;> simp [hj]
  · by_cases hj : j = 0
    · simp [hj]
    · simp only [hk, hj, if_false, ne_eq, not_false_eq_true, and_true]
      show (ts.g.set k.toNat v k.isLt)[j.toNat]'j.isLt = if j = k then v else ts.g[j.toNat]'j.isLt
      rw [Vector.getElem_set]
      by_cases e : j = k
      · simp [e]
      · have : k.toNat ≠ j.toNat := fun x => e (BitVec.eq_of_toNat_eq x.symm)
        simp [e, this]

theorem readV_writeV (ts : ThreadState) (k j : BitVec 5) (v : W512) :
    readV (writeV ts k v) j = if j.toNat % 16 = k.toNat % 16 then v else readV ts j := by
  unfold readV writeV
  have hj : j.toNat % 16 < 16 := Nat.mod_lt _ (by decide)
  show (ts.v.set (k.toNat % 16) v (Nat.mod_lt _ (by decide)))[j.toNat % 16]'hj = if j.toNat % 16 = k.toNat % 16 then v else ts.v[j.toNat % 16]'hj
  rw [Vector.getElem_set]
  by_cases e : j.toNat % 16 = k.toNat % 16
  · simp [e]
  · have : k.toNat % 16 ≠ j.toNat % 16 := fun x => e x.symm
    simp [e, this]

/-- Bit `j` of a predicate byte with bit `k` set or cleared. -/
theorem predicate_bit : ∀ (p : BitVec 8) (k : Fin 8) (v : Bool) (j : Fin 8),
    (if v then p ||| BitVec.ofNat 8 (2 ^ k.val) else p &&& ~~~ BitVec.ofNat 8 (2 ^ k.val)).getLsbD j.val =
      if j = k then v else p.getLsbD j.val := by decide +kernel

theorem readP_writeP (ts : ThreadState) (k j : Nat) (v : Bool) :
    readP (writeP ts k v) j = if j % 8 = k % 8 ∧ k % 8 ≠ 0 then v else readP ts j := by
  unfold readP writeP
  by_cases hk : k % 8 = 0
  · simp [hk]
  · have h := predicate_bit ts.p ⟨k % 8, Nat.mod_lt _ (by decide)⟩ v ⟨j % 8, Nat.mod_lt _ (by decide)⟩
    simp only [Fin.mk.injEq] at h
    simp only [hk, if_false]
    rw [h]
    by_cases e : j % 8 = k % 8
    · simp [e, hk]
    · simp [e]

/-! ## What a result changes -/

/-- A thread gets a new state whose code, privilege, stall and SEAL are as they were, and goes on with the next word. -/
theorem oneThread_of {a n : Mach} {t : Thread} {c : Nat} {ts : ThreadState} (hs : getThread n t = ts)
    (ho : ∀ u, u ≠ t → getThread n u = getThread a u) (hf : n = { a with threads := n.threads, loads := n.loads })
    (h1 : ts.pc = (getThread a t).pc + 1) (h2 : ts.nextIssue = c + 8)
    (h3 : ts = { getThread a t with g := ts.g, v := ts.v, p := ts.p, ready := ts.ready, pc := ts.pc, nextIssue := ts.nextIssue }) :
    OneThread a n t c :=
  ⟨hs ▸ h1, hs ▸ h2, hs ▸ h3, ho, hf⟩

theorem resultG_writes (a : Mach) (t : Thread) (b : Beat) (c lat : Nat) (k : BitVec 5) (v : W64) :
    WritesG a (resultG (retire a t c) t b c lat k v) t b c lat k v := by
  have hs : getThread (resultG (retire a t c) t b c lat k v) t =
      setReady (retire a t c) b c lat (srcG k) (writeG (getThread (retire a t c) t) k v) := by
    simp only [resultG, getThread_setThread_same]
  rw [getThread_retire_self] at hs
  refine ⟨oneThread_of hs (fun u hu => ?_) rfl ?_ ?_ ?_, fun j => ?_, ?_, ?_, fun hk => ?_, rfl⟩
  · simp only [resultG, getThread_setThread_ne _ _ hu, getThread_dropLoad, getThread_retire_ne _ _ hu]
  · simp only [setReady, writeG]; split <;> rfl
  · simp only [setReady, writeG]; split <;> rfl
  · simp only [setReady, writeG]; split <;> rfl
  · rw [hs]
    have := readG_writeG { getThread a t with nextIssue := c + 8, pc := (getThread a t).pc + 1 } k j v
    simpa only [setReady, readG] using this
  · rw [hs]; simp only [setReady, writeG]; split <;> rfl
  · rw [hs]; simp only [setReady, writeG]; split <;> rfl
  · rw [hs]
    have h0 : srcG k ≠ 0 := fun x => hk (BitVec.eq_of_toNat_eq x)
    have h1 : srcG k ≠ 48 := fun x => absurd k.isLt (by simp only [srcG] at x; omega)
    simp only [readyAt, h0, h1, or_self, if_false, setReady, sget_sset_same]
    rfl

theorem resultV_writes (a : Mach) (t : Thread) (b : Beat) (c lat : Nat) (k : BitVec 5) (v : W512) :
    WritesV a (resultV (retire a t c) t b c lat k v) t b c lat k v := by
  have hs : getThread (resultV (retire a t c) t b c lat k v) t =
      setReady (retire a t c) b c lat (srcV k) (writeV (getThread (retire a t c) t) k v) := by
    simp only [resultV, getThread_setThread_same]
  rw [getThread_retire_self] at hs
  refine ⟨oneThread_of hs (fun u hu => ?_) rfl rfl rfl rfl, fun j => ?_, ?_, ?_, ?_, rfl⟩
  · simp only [resultV, getThread_setThread_ne _ _ hu, getThread_dropLoad, getThread_retire_ne _ _ hu]
  · rw [hs]
    have := readV_writeV { getThread a t with nextIssue := c + 8, pc := (getThread a t).pc + 1 } k j v
    simpa only [setReady, readV] using this
  · rw [hs]; rfl
  · rw [hs]; rfl
  · rw [hs]
    have h0 : srcV k ≠ 0 := by simp only [srcV]; omega
    have h1 : srcV k ≠ 48 := by simp only [srcV]; omega
    simp only [readyAt, h0, h1, or_self, if_false, setReady, sget_sset_same]
    rfl

theorem resultP_writes (a : Mach) (t : Thread) (b : Beat) (c lat : Nat) (k : Nat) (v : Bool) :
    WritesP a (resultP (retire a t c) t b c lat k v) t b c k v := by
  have hs : getThread (resultP (retire a t c) t b c lat k v) t =
      setReady (retire a t c) b c lat (srcP k) (writeP (getThread (retire a t c) t) k v) := by
    simp only [resultP, getThread_setThread_same]
  rw [getThread_retire_self] at hs
  refine ⟨oneThread_of hs (fun u hu => ?_) rfl ?_ ?_ ?_, fun j => ?_, ?_, ?_, rfl⟩
  · simp only [resultP, getThread_setThread_ne _ _ hu, getThread_retire_ne _ _ hu]
  · simp only [setReady, writeP]; split <;> rfl
  · simp only [setReady, writeP]; split <;> rfl
  · simp only [setReady, writeP]; split <;> rfl
  · rw [hs]
    have := readP_writeP { getThread a t with nextIssue := c + 8, pc := (getThread a t).pc + 1 } k j v
    simpa only [setReady, readP] using this
  · rw [hs]; simp only [setReady, writeP]; split <;> rfl
  · rw [hs]; simp only [setReady, writeP]; split <;> rfl

theorem retire_only (a : Mach) (t : Thread) (c : Nat) : OnlyRetires a (retire a t c) t c := by
  have hs := getThread_retire_self a t c
  refine ⟨oneThread_of hs (fun u hu => getThread_retire_ne _ _ hu) rfl rfl rfl rfl, ?_, ?_, ?_, rfl⟩ <;> rw [hs]

end Sys2Proof.Machine
end

