-- ==== Sys2Proof/Laws/Keys.lean ====
section
/-! SUPPORT. Numbers of the parts of a module: each names its part back. -/

namespace Sys2Proof.Machine

@[simp] theorem duneOf_duneKey (d : DuneId) : duneOf (duneKey d) = d := by
  obtain ⟨e, n⟩ := d
  have := e.isLt
  have := n.isLt
  simp only [duneOf, duneKey, DuneId.mk.injEq, Fin.ext_iff, Fin.val_ofNat]
  omega

@[simp] theorem rowOf_rowKey (r : RowId) : rowOf (rowKey r) = r := by
  obtain ⟨d, n⟩ := r
  have := n.isLt
  have h1 : (96 * duneKey d + n.val) / 96 = duneKey d := by omega
  simp only [rowOf, rowKey, h1, duneOf_duneKey, RowId.mk.injEq, Fin.ext_iff, Fin.val_ofNat, true_and]
  omega

@[simp] theorem threadAt_threadKey (t : Thread) : threadAt (threadKey t) = t := by
  obtain ⟨⟨r, c⟩, n⟩ := t
  have := c.isLt
  have := n.isLt
  have h1 : (8 * (16 * rowKey r + c.val) + n.val) / 128 = rowKey r := by omega
  have h2 : (8 * (16 * rowKey r + c.val) + n.val) / 8 % 16 = c.val := by omega
  have h3 : (8 * (16 * rowKey r + c.val) + n.val) % 8 = n.val := by omega
  simp only [threadAt, threadKey, coreKey, h1, h2, h3, rowOf_rowKey, Thread.mk.injEq, CoreId.mk.injEq, Fin.ext_iff,
    Fin.val_ofNat, true_and]
  omega

end Sys2Proof.Machine
end

