-- ==== Sys2Proof/Laws/Lanes.lean ====
section
/-! SUPPORT. Lanes of a vector register: what a register made of lanes holds in each of them. -/

namespace Sys2Proof.Machine

/-- Digit `k` in base `B` of the number spelled by digits. -/
theorem digits_get (B : Nat) (hB : 0 < B) (ls : List Nat) :
    ∀ k, ls.foldr (fun x acc => x % B + B * acc) 0 / B ^ k % B = ls.getD k 0 % B := by
  induction ls with
  | nil => intro k; simp
  | cons x rest ih =>
    intro k
    cases k with
    | zero => simp
    | succ k =>
      simp only [List.foldr_cons, List.getD_cons_succ, ← ih k]
      rw [Nat.pow_succ', ← Nat.div_div_eq_div_mul, Nat.add_mul_div_left _ _ hB, Nat.div_eq_of_lt (Nat.mod_lt _ hB),
        Nat.zero_add]

/-- Lane `k` of a register made of lanes. -/
theorem lane_ofLanes {w : Nat} (hw : 0 < w) (ls : List Nat) {k : Nat} (hk : k < 512 / w) :
    lane w (ofLanes w ls) k = ls.getD k 0 % 2 ^ w := by
  have h1 : w * k + w ≤ 512 := by
    have := Nat.mul_le_mul_left w hk
    have := Nat.mul_div_le 512 w
    rw [Nat.mul_succ] at *
    omega
  rw [← digits_get (2 ^ w) (Nat.two_pow_pos w) ls k, lane, ofLanes, BitVec.toNat_ofNat, ← Nat.pow_mul]
  generalize List.foldr _ _ ls = x
  have : 2 ^ 512 = 2 ^ (w * k) * 2 ^ (512 - w * k) := by rw [← Nat.pow_add]; congr 1; omega
  rw [this, Nat.mod_mul_right_div_self]
  exact Nat.mod_mod_of_dvd _ (Nat.pow_dvd_pow 2 (by omega))

theorem lanes_getD (w : Nat) (v : W512) (k : Nat) (hk : k < 512 / w) : (lanes w v).getD k 0 = lane w v k := by
  simp [lanes, hk]

theorem tyWidth_pos (ty : Nat) : 0 < tyWidth ty := by unfold tyWidth; split <;> decide

/-- Lane by lane over two registers. -/
theorem lane_zipLanes (ty : Nat) (fn : Nat → Nat → Nat) (x y : W512) {k : Nat} (hk : k < 512 / tyWidth ty) :
    lane (tyWidth ty) (zipLanes ty fn x y) k = fn (lane (tyWidth ty) x k) (lane (tyWidth ty) y k) % 2 ^ tyWidth ty := by
  rw [zipLanes, lane_ofLanes (tyWidth_pos ty) _ hk]
  simp [lanes, List.getD, hk]

/-- Lane by lane over one register. -/
theorem lane_mapLanes (ty : Nat) (fn : Nat → Nat) (x : W512) {k : Nat} (hk : k < 512 / tyWidth ty) :
    lane (tyWidth ty) (mapLanes ty fn x) k = fn (lane (tyWidth ty) x k) % 2 ^ tyWidth ty := by
  rw [mapLanes, lane_ofLanes (tyWidth_pos ty) _ hk]
  simp [lanes, List.getD, hk]

end Sys2Proof.Machine
end

