-- ==== Sys2Proof/Machine/Pins.lean ====
section
/-! DEFINITION. What the module shows on its sideband connector and its front panel, as functions of the state: levels of the
output pins and colours of the indicators (R442, R523, R545–R548). -/

namespace Sys2Proof.Machine

/-- FAULT_N is driven low. With no usable feed it floats and reads deasserted (R546, R547). -/
def faultAsserted (m : Mach) : Bool := m.power.faultN && m.power.feeds != 0

/-- THERM_TRIP_N is driven low (R456, R546). -/
def thermTripAsserted (m : Mach) : Bool := m.power.thermTrip && m.power.feeds != 0

/-- PRESENT_N is tied low inside the cassette, with or without power (R547). -/
def presentAsserted (_ : Mach) : Bool := true

/-- HTC_PPS_OUT is high: the first 100 ms of each second of the root's HTC, from SELFTEST on, but not in ACQUIRE (R547). -/
def ppsHigh (m : Mach) : Bool :=
  powered m && m.mode != .powering && rootState m != .acquire && decide (htcNow m % 1000000000 < 100000000)

/-- A colour of a front-panel indicator (R548). -/
inductive Lamp where
  | off | green | greenBlinking | amber | red
  deriving DecidableEq, Repr

/-- The FEED indicator. -/
def feedLamp (m : Mach) : Lamp := if m.power.feeds = 3 then .green else if m.power.feeds = 0 then .off else .amber

/-- The MODULE indicator. -/
def moduleLamp (m : Mach) : Lamp :=
  match m.mode with
  | .off => .off
  | .powering => .greenBlinking | .selftest => .greenBlinking | .loading => .greenBlinking
  | .restarting => .greenBlinking | .update => .greenBlinking
  | .standby => .green | .running => .green | .draining => .green
  | .faulted => .amber | .dumping => .amber
  | .thermalHalt => .red

/-- The TIME indicator, dark without power. -/
def timeLamp (m : Mach) : Lamp :=
  if !powered m then .off
  else match rootState m with
    | .locked => .green
    | .acquire => .greenBlinking
    | .holdover => .greenBlinking
    | .free => .amber

/-- The DHCP client identifier of option 61: type 0, SerialNumber, a "/", and SLOT_ID as two decimal digits (R544). -/
def dhcpClientId (m : Mach) : List Byte :=
  let slot := m.power.slotId.toNat
  0 :: Config.serialNumber ++ [0x2F, BitVec.ofNat 8 (0x30 + slot / 10), BitVec.ofNat 8 (0x30 + slot % 10)]

end Sys2Proof.Machine
end

