-- ==== Sys2Proof/Tests/Slice0.lean ====
section
/-! SUPPORT. The model's own tests: results written out from the specification, an ill-formed term for each check of
WellFormed, and for every obligation a state and operands that meet its hypotheses. -/

namespace Sys2Proof.Tests

set_option Elab.async false

open Sys2Proof.Machine

/-! ## Small states -/

/-- The machine after a list of commands, one after another. -/
def after (m : Mach) (cs : List Instr) : Mach :=
  cs.foldl (fun m c => match exec c ⟨[], m⟩ with
    | .next t => t.m
    | _ => m) m

def d0 : DuneId := ⟨0, 0⟩
def r0 : RowId := ⟨d0, 0⟩
def core0 : CoreId := ⟨r0, 0⟩
def t0 : Thread := ⟨core0, 0⟩
def beat0 : Beat := { n := 0, start := 0 }
def wordsVec (f : Nat → Nat) : Vector W64 32 := Vector.ofFn fun k => BitVec.ofNat 64 (f k.val)

/-- Registers of the test thread: g1 = 5, g2 = 7, g3 = −8, g4 = 0, g5 the own row buffer, g6 the scratchpad of row 1. -/
def regs : Vector W64 32 := wordsVec fun k => match k with
  | 1 => 5
  | 2 => 7
  | 3 => 2 ^ 64 - 8
  | 5 => 2 ^ 60 + 2 ^ 42
  | 6 => 2 ^ 60 + 2 ^ 43
  | 7 => 0x2000000000000000
  | 8 => 2 ^ 60
  | _ => 0
def ts0 : ThreadState := { live := true, hi := 64, g := regs, p := 1 }
def dune0 : DuneState := { power := .usable, time := .locked, period := 900, beat := some beat0, nextBeat := 1, hosted := some 0 }
def mach : Mach :=
  { mode := .running, power := { pwrEn := true, dunesUp := true }, dunes := [(0, dune0)], threads := [(0, ts0)]
    sec := { booted := 15 } }
def st (m : Mach) : State := ⟨[], m⟩
/-- The fields of an instruction without a guard. -/
def fl (d a b : Nat) (i : Bool) (low : Nat) : Fields := ⟨false, 0, BitVec.ofNat 5 d, BitVec.ofNat 5 a, BitVec.ofNat 5 b, i, BitVec.ofNat 32 low⟩
def out (m : Mach) (k : Nat) : Nat := ((getThread m t0).g.toList.getD k 0).toNat

/-! ## An ill-formed term for each check -/

theorem test_ill_upsets : (Instr.firingEnd r0 [⟨0, 3, 4, 0⟩, ⟨0, 3, 4, 1⟩]).wellFormed = false := by decide
theorem test_ill_link : (Instr.controlParityError 1024 0 false).wellFormed = false := by decide
theorem test_ill_value : (Instr.odWrite .mailbox 0x1000 1 (List.replicate 65536 0)).wellFormed = false := by
  decide +kernel
theorem test_ill_slot_write : (Instr.intakeSlotWrite 0 4095 [1, 2]).wellFormed = false := by decide
theorem test_ill_empty_write : (Instr.eventCauseWrite 0 0 []).wellFormed = false := by decide
theorem test_ill_hello_frame : (Instr.hello 0 [0]).wellFormed = false := by decide
theorem test_ill_data_frame : (Instr.data 0 [0]).wellFormed = false := by decide
theorem test_ill_sequence : (Instr.replayTimeout 0 0 65536).wellFormed = false := by decide
theorem test_ill_report : (Instr.loadCompleteReport 32).wellFormed = false := by decide
theorem test_ill_domain : (Instr.ptpMessage ⟨0, 256, 0⟩).wellFormed = false := by decide
theorem test_ill_htc_read : (Instr.htcNowRead 0 true 8).wellFormed = false := by decide
theorem test_ill_bar2 : (Instr.bar2Read 0xFFFFFFFF 2).wellFormed = false := by decide
theorem test_ill_datagram : (Instr.koaHello (.port 0) (List.replicate 1233 0)).wellFormed = false := by
  decide +kernel
theorem test_ill_read_range : (Instr.odRead .mailbox 0x1000 1 (2 ^ 32) 1).wellFormed = false := by decide
theorem test_ill_spots : (Instr.sensorSample ⟨[⟨3, 0, 0⟩, ⟨3, 1, 1⟩], 0, 0, 0, 0, 0, 0⟩).wellFormed = false := by decide
theorem test_ill_spot_number : (Instr.sensorSample ⟨[⟨2364, 0, 0⟩], 0, 0, 0, 0, 0, 0⟩).wellFormed = false := by decide
theorem test_ill_fault : (Instr.fault ⟨1, 4, 0, 0, 0, 0, 0, 0, 0⟩).wellFormed = false := by decide
theorem test_ill_kl_frame : (Instr.klProtocolError 0 [0]).wellFormed = false := by decide

/-! ## Thread instructions: results worked out from R136 to R158 -/

theorem test_add : out (after mach [.add t0 (fl 9 1 2 false 0)]) 9 = 12 := by decide
theorem test_add_wraps : out (after mach [.add t0 (fl 9 3 0 true 8)]) 9 = 0 := by decide
theorem test_sub_borrows : out (after mach [.sub t0 (fl 9 1 2 false 0)]) 9 = 2 ^ 64 - 2 := by decide
theorem test_mul_negative : out (after mach [.mul t0 (fl 9 3 2 false 0)]) 9 = 2 ^ 64 - 56 := by decide
theorem test_mulhs : out (after mach [.mulhs t0 (fl 9 3 2 false 0)]) 9 = 2 ^ 64 - 1 := by decide
theorem test_mulhu : out (after mach [.mulhu t0 (fl 9 3 2 false 0)]) 9 = 6 := by decide
theorem test_divs_truncates : out (after mach [.divs t0 (fl 9 3 0 true 3)]) 9 = 2 ^ 64 - 2 := by decide
theorem test_rems_sign : out (after mach [.rems t0 (fl 9 3 0 true 3)]) 9 = 2 ^ 64 - 2 := by decide
theorem test_divu_zero : out (after mach [.divu t0 (fl 9 1 4 false 0)]) 9 = 0 := by decide
theorem test_remu_zero : out (after mach [.remu t0 (fl 9 1 4 false 0)]) 9 = 5 := by decide
theorem test_and : out (after mach [.and t0 (fl 9 1 2 false 0)]) 9 = 5 := by decide
theorem test_or : out (after mach [.or t0 (fl 9 1 0 true 8)]) 9 = 13 := by decide
theorem test_xor_imm_sign : out (after mach [.xor t0 (fl 9 1 0 true 0xFFFFFFFF)]) 9 = 2 ^ 64 - 6 := by decide
theorem test_shl_masks : out (after mach [.shl t0 (fl 9 1 0 true 65)]) 9 = 10 := by decide
theorem test_shr_fills_zero : out (after mach [.shr t0 (fl 9 3 0 true 60)]) 9 = 15 := by decide
theorem test_sar_fills_sign : out (after mach [.sar t0 (fl 9 3 0 true 1)]) 9 = 2 ^ 64 - 4 := by decide
theorem test_mins : out (after mach [.mins t0 (fl 9 3 1 false 0)]) 9 = 2 ^ 64 - 8 := by decide
theorem test_maxs : out (after mach [.maxs t0 (fl 9 3 1 false 0)]) 9 = 5 := by decide
theorem test_popc : out (after mach [.popc t0 (fl 9 2 0 false 0)]) 9 = 3 := by decide
theorem test_clz_zero : out (after mach [.clz t0 (fl 9 4 0 false 0)]) 9 = 64 := by decide
theorem test_movh : out (after mach [.movh t0 (fl 1 0 0 true 3)]) 1 = 3 * 2 ^ 32 + 5 := by decide
theorem test_sel : out (after mach [.sel t0 (fl 9 1 2 false (2 * 2 ^ 27))]) 9 = 7 := by decide
theorem test_discard : out (after mach [.add t0 (fl 0 1 2 false 0)]) 0 = 0 := by decide
theorem test_cmp_signed : readP (getThread (after mach [.cmpLts t0 (fl 2 3 1 false 0)]) t0) 2 = true := by decide
theorem test_cmp_unsigned : readP (getThread (after mach [.cmpLtu t0 (fl 2 3 1 false 0)]) t0) 2 = false := by decide
theorem test_plog_andn : readP (getThread (after mach [.plog t0 (fl 2 0 1 true 3)]) t0) 2 = true := by decide
theorem test_guard_false : out (after mach [.add t0 { fl 9 1 2 false 0 with gp := 3 }]) 9 = 0 := by decide
theorem test_slots_eight_apart : (getThread (after mach [.nop t0 (fl 0 0 0 false 0), .nop t0 (fl 0 0 0 false 0)]) t0).nextIssue = 16 := by
  decide
theorem test_illegal : ((after mach [.br t0 (fl 1 0 0 true 2)]).raised.map FaultRec.code) = [1] := by decide
theorem test_store_then_load : out (after mach [.st8 t0 (fl 0 5 3 true 0x100), .ldS1 t0 (fl 9 5 0 true 0x100)]) 9 = 2 ^ 64 - 8 := by decide
theorem test_load_little_end : out (after mach [.st8 t0 (fl 0 5 3 true 0x100), .ldU2 t0 (fl 9 5 0 true 0x101)]) 9 = 0 ∧
    ((after mach [.ldU2 t0 (fl 9 5 0 true 0x101)]).raised.map FaultRec.code) = [4] := by decide
theorem test_vmov_vbcst : (readV (getThread (after mach [.vbcst t0 (fl 1 1 0 false 7), .vmov t0 (fl 2 1 0 false 0)]) t0) 2).toNat % 2 ^ 64
    = 0x0000000500000005 := by decide +kernel
theorem test_vadd_i32 : (readV (getThread (after mach [.vbcst t0 (fl 1 1 0 false 7), .vadd t0 (fl 2 1 1 false 7)]) t0) 2).toNat % 2 ^ 32
    = 10 := by decide +kernel
theorem test_vred_i32 : (readV (getThread (after mach [.vbcst t0 (fl 1 1 0 false 7), .vred t0 (fl 2 1 0 false 7)]) t0) 2).toNat
    = 80 := by decide +kernel
theorem test_vext : out (after mach [.vbcst t0 (fl 1 1 0 false 7), .vext t0 (fl 9 1 7 false 0)]) 9 = 0x0000000500000005 := by decide +kernel
theorem test_br_back : (getThread (after mach [.nop t0 (fl 0 0 0 false 0), .br t0 (fl 0 0 0 true 0xFFFFFFFF)]) t0).pc = 0 := by decide
theorem test_br_out : ((after mach [.br t0 (fl 0 0 0 true 64)]).raised.map FaultRec.code) = [8] := by decide
theorem test_call_links : out (after mach [.call t0 (fl 0 0 0 true 5)]) 31 = 1 := by decide
theorem test_skip : (getThread (after mach [.skip t0 (fl 0 0 0 true 3)]) t0).nextIssue = 32 := by decide
theorem test_gets_sbase : out (after mach [.gets t0 (fl 9 0 0 true 11)]) 9 = 2 ^ 60 := by decide
theorem test_sst_in_u : ((after mach [.sst t0 (fl 0 1 2 false 0)]).raised.map FaultRec.code) = [2] := by decide
theorem test_seal_ends : (getThread (after mach [.seal t0 (fl 0 0 0 false 0), .nop t0 (fl 0 0 0 false 0)]) t0).pc = 1 := by decide

/-! ## Witnesses: for every statement, a state and operands that meet its hypotheses, clause by clause -/

theorem issues {m : Mach} {t : Thread} {f : Fields} {srcs : List Nat} {b : Beat} {c : Nat}
    (h : (issuingBeat m t = some b ∧ c = issueSlot m b t (srcP f.gp.toNat :: srcs)) ∧
      c < commitCycle m (getDune m t.core.row.dune) b ∧ guardHolds (getThread m t) f = true) : IssuesAt m t f srcs b c :=
  ⟨h.1.1, h.1.2, h.2.1, h.2.2⟩
theorem noRace {m : Mach} (h : m.queues = []) (addr n : Nat) : NoQldRace m addr n := by
  intro q hq
  rw [h] at hq
  cases hq

/-- ADD g9, g1, g2 at word 0 of the test thread. -/
def fetching : Mach := { mach with istore := [(0, 0x0001484400000000)] }
theorem witness_StepRunsTheFrontCommand : (State.reset.pending = [] ∧ State.reset.m.threads = []) ∧
    (fetching.threads.map (·.1) = [threadKey t0] ∧ (getThread fetching t0).stall = none ∧
      decodeWord t0 (fetchWord fetching t0) = some (.add t0 (fl 9 1 2 false 0)) ∧
      (after fetching [.add t0 (fl 9 1 2 false 0)]).now < fetching.now + cycleTu fetching) := by decide
theorem witness_StepKeepsTheMachineFacts : State.reset.m.memoryOk ∧ ∃ t, step State.reset = .next t := ⟨⟨rfl, rfl⟩, _, rfl⟩
theorem witness_SilentThreadsDoNothing : threadOf (.add t0 (fl 9 1 2 false 0)) = some (t0, fl 9 1 2 false 0) ∧
    issuingBeat State.reset.m t0 = none := by decide
/-- A guard that does not hold, on each of the six forms. -/
theorem witness_FailedGuardOnlyRetires :
    let g := fun (f : Fields) => { f with gp := 3 }
    (issuingBeat mach t0 = some beat0 ∧ guardHolds (getThread mach t0) (g (fl 9 1 2 false 0)) = false ∧
      0 = issueSlot mach beat0 t0 [srcP 3] ∧ 0 < commitCycle mach (getDune mach d0) beat0) ∧
    legalAlu3 (g (fl 2 1 2 false 0)) = true ∧ pOk 2 = true ∧ legalRR (g (fl 9 1 0 false 0)) = true ∧
    (g (fl 9 0 0 true 1)).i = true ∧ fieldC (g (fl 9 1 2 false 0)) < 8 ∧ immWithin (g (fl 2 1 2 true 3)) 3 = true := by decide

/-- The machine with the dividend −2^63 in g1. -/
def lowest : Mach := setThread mach t0 { ts0 with g := wordsVec fun k => if k = 1 then 2 ^ 63 else 7 }
/-- Each form of class ALU, and each case of a division. -/
theorem witness_AluResults :
    (legalAlu3 (fl 9 1 2 false 0) = true ∧ IssuesAt mach t0 (fl 9 1 2 false 0) (srcsAlu (fl 9 1 2 false 0)) beat0 0) ∧
    (legalAlu3 (fl 9 1 0 true 3) = true ∧ IssuesAt mach t0 (fl 9 1 0 true 3) (srcsAlu (fl 9 1 0 true 3)) beat0 0) ∧
    readG (getThread (atCycle mach beat0 0) t0) 4 = 0 ∧ readG (getThread (atCycle mach beat0 0) t0) 2 ≠ 0 ∧
    (legalAlu3 (fl 9 1 0 true 0xFFFFFFFF) = true ∧
      IssuesAt lowest t0 (fl 9 1 0 true 0xFFFFFFFF) (srcsAlu (fl 9 1 0 true 0xFFFFFFFF)) beat0 0 ∧
      (readG (getThread (atCycle lowest beat0 0) t0) 1).toInt = -(2 ^ 63) ∧
      ((0xFFFFFFFF : BitVec 32).signExtend 64).toInt = -1) ∧
    (legalRR (fl 9 2 0 false 0) = true ∧ IssuesAt mach t0 (fl 9 2 0 false 0) [srcG 2] beat0 0) ∧
    (IssuesAt mach t0 (fl 1 0 0 true 3) [srcG 1] beat0 0) ∧
    (fieldC (fl 9 1 2 false (2 * 2 ^ 27)) < 8 ∧ fieldMod (fl 9 1 2 false (2 * 2 ^ 27)) = 0 ∧
      IssuesAt mach t0 (fl 9 1 2 false (2 * 2 ^ 27)) [srcG 1, srcG 2, srcP 2] beat0 0) ∧
    (pOk 2 = true ∧ IssuesAt mach t0 (fl 2 3 1 false 0) (srcsAlu (fl 2 3 1 false 0)) beat0 0) ∧
    (immWithin (fl 2 0 1 true 3) 3 = true ∧ IssuesAt mach t0 (fl 2 0 1 true 3) [srcP 0, srcP 1] beat0 0) :=
  ⟨⟨by decide, issues (by decide)⟩, ⟨by decide, issues (by decide)⟩, by decide, by decide,
    ⟨by decide, issues (by decide), by decide, by decide⟩, ⟨by decide, issues (by decide)⟩, issues (by decide),
    ⟨by decide, by decide, issues (by decide)⟩, ⟨by decide, issues (by decide)⟩, ⟨by decide, issues (by decide)⟩⟩

theorem witness_VectorLaneOperations :
    (IssuesAt mach t0 (fl 1 2 3 false 7) [srcV 2, srcV 3] beat0 0 ∧ legalVec (fl 1 2 3 false 7) true false true false = true ∧
      legalVec (fl 1 2 3 false 23) true false false true = true) ∧
    (IssuesAt mach t0 (fl 1 2 3 false 0) [srcV 2, srcV 3] beat0 0 ∧ legalVec (fl 1 2 3 false 0) true true false false = true) :=
  ⟨⟨issues (by decide), by decide, by decide⟩, issues (by decide), by decide⟩
theorem witness_VectorFmaAndFunctions :
    (legalVec (fl 1 2 3 false 0) true false true false = true ∧ IssuesAt mach t0 (fl 1 2 3 false 0) [srcV 2, srcV 3, srcV 1] beat0 0) ∧
    (legalVec (fl 1 2 0 false 0) false true false false = true ∧ IssuesAt mach t0 (fl 1 2 0 false 0) [srcV 2] beat0 0) :=
  ⟨⟨by decide, issues (by decide)⟩, by decide, issues (by decide)⟩
theorem witness_VectorReductionsAndMoves :
    (IssuesAt mach t0 (fl 1 2 0 false 7) [srcV 2] beat0 0 ∧ legalVec (fl 1 2 0 false 7) false false false false = true ∧
      5 ≤ fieldMod (fl 1 2 0 false 7) % 8) ∧
    (vOk 3 = true ∧ IssuesAt mach t0 (fl 1 2 3 false (3 * 2 ^ 27)) [srcV 2, srcV 3, srcV 3] beat0 0) ∧
    (legalRR (fl 1 2 0 false 0) = true ∧ IssuesAt mach t0 (fl 1 2 0 false 0) [srcV 2] beat0 0) ∧
    (tyVec (fieldMod (fl 1 1 0 false 7)) = true ∧ IssuesAt mach t0 (fl 1 1 0 false 7) [srcG 1] beat0 0) ∧
    (IssuesAt mach t0 (fl 9 1 7 false 0) [srcV 1] beat0 0) :=
  ⟨⟨issues (by decide), by decide, by decide⟩, ⟨by decide, issues (by decide)⟩, ⟨by decide, issues (by decide)⟩,
    ⟨by decide, issues (by decide)⟩, issues (by decide)⟩
/-- CVT from F32 to BF16 in part 1, and each block conversion at its widest operands. -/
theorem witness_Conversions :
    (IssuesAt mach t0 (fl 1 2 0 true 0x101) [srcV 2, srcV 1] beat0 0 ∧ (fl 1 2 0 true 0x101).low.toNat / 256 <
      max (tyWidth 1) (tyWidth 0) / min (tyWidth 1) (tyWidth 0)) ∧
    IssuesAt mach t0 (fl 1 2 0 true 0) [srcV 2] beat0 0 ∧
    IssuesAt mach t0 (fl 1 2 0 true 0x3E) [srcV 2] beat0 0 ∧ IssuesAt mach t0 (fl 1 2 0 true 6) [srcV 2] beat0 0 ∧
    IssuesAt mach t0 (fl 1 14 0 true 5) [srcV 14, srcV 15] beat0 0 ∧ IssuesAt mach t0 (fl 1 2 0 true 0x2D) [srcV 2, srcV 1] beat0 0 :=
  ⟨⟨issues (by decide), by decide⟩, issues (by decide), issues (by decide), issues (by decide), issues (by decide),
    issues (by decide)⟩

theorem witness_RowBufferLoads : IssuesAt mach t0 (fl 9 5 0 true 0x100) [srcG 5] beat0 0 ∧ (atCycle mach beat0 0).provocations = [] ∧
    NoQldRace (atCycle mach beat0 0) (sramOf r0 true 0x100) 8 ∧
    ∀ k ∈ [1, 2, 4, 8, 64], loadTarget t0 (getThread (atCycle mach beat0 0) t0).privF
      (effAddr (getThread (atCycle mach beat0 0) t0) (fl 9 5 0 true 0x100)) k = some (r0, true, 0x100) :=
  ⟨issues (by decide), rfl, noRace rfl _ _, by decide⟩
theorem witness_ScratchpadLoads : IssuesAt mach t0 (fl 9 6 0 true 0x100) [srcG 6] beat0 0 ∧
    ∀ k ∈ [1, 2, 4, 8, 64], loadTarget t0 (getThread (atCycle mach beat0 0) t0).privF
      (effAddr (getThread (atCycle mach beat0 0) t0) (fl 9 6 0 true 0x100)) k = some (⟨d0, 1⟩, false, 0x100) :=
  ⟨issues (by decide), by decide⟩
theorem witness_StoresGoAndLand : IssuesAt mach t0 (fl 0 5 3 true 0x100) [srcG 5, srcG 3] beat0 0 ∧
    IssuesAt mach t0 (fl 0 5 3 true 0x100) [srcG 5, srcV 3] beat0 0 ∧ vOk 3 = true ∧
    (∀ k ∈ [1, 2, 4, 8, 64], loadTarget t0 ts0.privF (effAddr ts0 (fl 0 5 3 true 0x100)) k = some (r0, true, 0x100)) ∧
    mach.landings = [] ∧ mach.loads = [] ∧ fabricBusy mach = false :=
  ⟨issues (by decide), issues (by decide), by decide, by decide, rfl, rfl, rfl⟩
theorem witness_MemoryAddressFaults : IssuesAt mach t0 (fl 9 1 0 true 0) [srcG 1] beat0 0 ∧
    IssuesAt mach t0 (fl 0 1 2 true 0) [srcG 1, srcG 2] beat0 0 ∧ IssuesAt mach t0 (fl 0 1 2 true 0) [srcG 1, srcV 2] beat0 0 ∧
    ∀ k ∈ [1, 2, 4, 8, 64], loadTarget t0 ts0.privF (effAddr ts0 (fl 9 1 0 true 0)) k = none :=
  ⟨issues (by decide), issues (by decide), issues (by decide), by decide⟩

/-- A window descriptor in the own row buffer: the whole job may write its first 4 KiB. -/
def windowed : Mach := { mach with sram := writeBytes [] (sramOf r0 true 0x100) (leBytes 16 (2 ^ 96 + 0x1000 * 2 ^ 32)) }
theorem witness_WindowsOpenAndClose :
    (let m := setThread windowed t0 { ts0 with g := wordsVec fun k => if k = 1 then 0x100 else 0 }
     IssuesAt m t0 (fl 0 1 0 true 3) [srcG 1] beat0 0 ∧ (atCycle m beat0 0).provocations = [] ∧
      NoQldRace (atCycle m beat0 0) (sramOf r0 true 0x100) 16 ∧ (readG (getThread (atCycle m beat0 0) t0) 1).toNat = 0x100 ∧
      windowOk r0 ⟨BitVec.ofNat 128 (leNat (readBytes (atCycle m beat0 0).sram (sramOf r0 true 0x100) 16)), false⟩ = true) ∧
    IssuesAt mach t0 (fl 0 0 0 true 3) [] beat0 0 :=
  ⟨⟨issues (by decide), rfl, noRace rfl _ _, by decide, by decide⟩, issues (by decide)⟩

/-- A packet of 64 bytes at the arrival port of the scratchpad of row 1, which window 0 of the row takes only from the whole job. -/
def packet : Packet :=
  { id := 3, src := some r0, sender := some t0, target := BitVec.ofNat 64 (2 ^ 60 + 2 ^ 43), bytes := List.replicate 64 7, cls := 1
    tag := 0, vdune := 0, viaLink := false, privF := false, source := 2 ^ 60, readUntil := 0, word := 0 }
def carrying (w : Option Window) : Mach :=
  { setRow mach ⟨d0, 1⟩ { windows := [(0, w)] } with packets := [packet], arrivals := [(1, [⟨0, false, 3, 0⟩])] }
theorem witness_PacketsAreSentAndArrive :
    (IssuesAt mach t0 (fl 0 8 6 false (4 * 2 ^ 27)) [srcG 8, srcG 6, srcG 4] beat0 0 ∧ putFault t0 ts0 (fl 0 8 6 false (4 * 2 ^ 27)) = 0 ∧
      sramAddr (readG ts0 6) = some (⟨d0, 1⟩, false, 0) ∧ (atCycle mach beat0 0).provocations = [] ∧
      NoQldRace (atCycle mach beat0 0) (readG ts0 8).toNat 64) ∧
    (∀ w ∈ [none, some (⟨BitVec.ofNat 128 (2 ^ 96 + 0x1000 * 2 ^ 32), false⟩ : Window)],
      ((carrying w).packets = [packet] ∧ packet.cargo = .put ∧ packet.held = false ∧ packet.verdict = none ∧ packet.units = 1 ∧
        packet.slot = none) ∧
      ((carrying w).landings = [] ∧ (carrying w).loads = [] ∧ (carrying w).flits = [] ∧
        (carrying w).arrivals = [(1, [⟨(carrying w).fabricAt, false, packet.id, 0⟩])] ∧ (carrying w).now ≤ (carrying w).fabricAt) ∧
      sramAddr packet.target = some (⟨d0, 1⟩, false, 0) ∧ packet.bytes.length = 64 ∧
      windowAccepts (carrying w) ⟨d0, 1⟩ packet false 0 = w.isSome) :=
  ⟨⟨issues (by decide), by decide, by decide, rfl, noRace rfl _ _⟩, by decide⟩

/-- An allotment of 1 MiB of HBM. -/
def allotted : Mach := { mach with od := [(objKey 0x2230 1, 2 ^ 20 + 1)] }
theorem witness_QueueTransfersIssue :
    (IssuesAt allotted t0 (fl 9 7 8 true 0x13F) [srcG 7, srcG 8] beat0 0 ∧ addrSpace (readG ts0 7) = 2 ∧
      NoQldRace (atCycle allotted beat0 0) (readG ts0 8).toNat 4096 ∧
      (atCycle allotted beat0 0).provocations = []) ∧
    (immWithin (fl 9 7 8 true 0x33F) 0x33F = true ∧ queueFault (atCycle allotted beat0 0) t0 false false (readG ts0 7) (readG ts0 8) 4096 = 0 ∧
      freeEntry (getQueues (atCycle allotted beat0 0) core0) 1 = some 0) ∧
    (immWithin (fl 9 7 8 true 0x13F) 0x13F = true ∧ queueFault (atCycle allotted beat0 0) t0 false true (readG ts0 7) (readG ts0 8) 4096 = 0 ∧
      freeEntry (getQueues (atCycle allotted beat0 0) core0) 5 = some 0) :=
  ⟨⟨issues (by decide), by decide, noRace rfl _ _, rfl⟩, by decide, by decide⟩

def transfer : Transfer :=
  { seq := 0, load := false, remote := BitVec.ofNat 64 (2 ^ 61), host := 0, localAddr := BitVec.ofNat 64 (2 ^ 60), length := 64
    source := List.replicate 64 1, fn := 0 }
def queued (done : Bool) : Mach :=
  { mach with queues := [(0, { next := [(4, 1)], entries := if done then [] else [(64, some transfer)] })] }
def waiting : Mach := setThread (queued false) t0 { ts0 with stall := some (.qwait 4 0 100 1) }
theorem witness_QueueTransfersEnd :
    (let m := fun b => setThread (queued b) t0 { ts0 with g := wordsVec fun k => if k = 1 then 64 else 0 }
     (∀ b ∈ [true, false], (readG (getThread (atCycle (m b) beat0 0) t0) 1).toNat / 16 % 8 = 4 ∧
        transferDone (getQueues (atCycle (m b) beat0 0) core0) 4 0 = b ∧ 0 < sget 0 (getQueues (atCycle (m b) beat0 0) core0).next 4) ∧
      IssuesAt (m true) t0 (fl 2 1 0 true 0) [srcG 1] beat0 0 ∧ IssuesAt (m false) t0 (fl 2 1 0 true 0) [srcG 1] beat0 0) ∧
    ((getThread waiting t0).stall = some (.qwait 4 0 100 1) ∧ (getDune waiting d0).beat = some beat0 ∧
      transferDone (getQueues waiting core0) 4 0 = false ∧ (getDune waiting d0).power = .usable ∧
      cycleStart waiting beat0 (stretchTarget waiting beat0 100) < beat0.start + beatLength waiting (getDune waiting d0) beat0 * 217) ∧
    (sget none (getQueues (queued false) core0).entries (16 * 4 + 0) = some transfer ∧ addrSpace transfer.remote = 2 ∧
      transfer.load = false ∧ transfer.discarded = false ∧ partsDone core0 (16 * 4 + 0) 0 (queued false) = true ∧
      stackStops (queued false) (transfer.remote.toNat % 2 ^ 41) 64 = false) :=
  ⟨⟨by decide, issues (by decide), issues (by decide)⟩, by decide, by decide⟩

/-- Row 0 with plate 0 active in site 0. -/
def plated : Mach := setRow (setThread mach t0 { ts0 with g := wordsVec fun k => if k = 2 then 0x1000 else if k = 3 then 1 else 0 }) r0
  { sites := [(0, { state := .active, plate := some 0 })] }
theorem witness_PlateInstructionsFire :
    IssuesAt plated t0 (fl 0 1 2 false (3 * 2 ^ 27)) [srcG 1, srcG 2, srcG 3] beat0 0 ∧
    fireFault (getRow (atCycle plated beat0 0) r0) 0 0x1000 1 = 0 ∧ (getRow (atCycle plated beat0 0) r0).firing = none ∧
    plateWaiters (atCycle plated beat0 0) r0 = [] ∧ lowerCoreFires (atCycle plated beat0 0) beat0 0 t0 = false ∧
    (atCycle plated beat0 0).provocations = [] ∧ (getThread (atCycle plated beat0 0) t0).stall = none ∧ NoQldRace (atCycle plated beat0 0) (sramOf r0 true 0) 640 :=
  ⟨issues (by decide), by decide, by decide, by decide, by decide, rfl, by decide, noRace rfl _ _⟩
def firing : Firing := { plates := [0], output := 0x1000, exact := false, wide := false, twoBit := false, q := [], exps := [], start := 0, last := 151 }
def firingRow : Mach := setRow mach r0 { firing := some firing }
theorem witness_FiringsEnd : ((getRow firingRow r0).firing = some firing ∧ (getDune firingRow d0).beat = some beat0 ∧
      (getDune firingRow d0).frozen = false) ∧
    IssuesAt firingRow t0 (fl 0 0 0 false 0) [] beat0 0 ∧ IssuesAt mach t0 (fl 0 0 0 false 0) [] beat0 0 ∧
    (getRow (atCycle firingRow beat0 0) r0).firing = some firing ∧ (getRow (atCycle mach beat0 0) r0).firing = none :=
  ⟨by decide, issues (by decide), issues (by decide), by decide, by decide⟩

def stalled (x : Stall) : Mach := setThread mach t0 { ts0 with stall := some x }
theorem witness_WaitsSealAndResume :
    (IssuesAt mach t0 (fl 0 0 0 true 100) [] beat0 0 ∧ unguarded (fl 0 0 0 true 100) = true ∧
      cycleStart mach beat0 (stretchTarget mach beat0 100) < cycleStart mach beat0 (commitCycle mach (getDune mach d0) beat0)) ∧
    (IssuesAt mach t0 (fl 0 2 0 false 0) [srcG 2] beat0 0 ∧ copyTu mach (getDune mach d0).copy 7 < cycleStart mach beat0 (commitCycle mach (getDune mach d0) beat0) ∧
      cycleStart mach beat0 0 ≤ copyTu mach (getDune mach d0).copy 7) ∧
    (IssuesAt mach t0 (fl 0 0 0 false 0) [] beat0 0 ∧ ts0.putRead ≤ mach.now) ∧
    (let m := setThread mach t0 { ts0 with putRead := 9 }
     IssuesAt m t0 (fl 0 0 0 false 0) [] beat0 0 ∧ (atCycle m beat0 0).now < (getThread (atCycle m beat0 0) t0).putRead) ∧
    (∀ x ∈ [Stall.untilCycle 50 false, .untilCycle 50 true, .untilHtc 30], (getThread (stalled x) t0).stall = some x ∧
      (getDune (stalled x) d0).beat = some beat0 ∧ (getDune (stalled x) d0).frozen = false ∧ (getRow (stalled x) r0).stopped = false ∧ 50 < commitCycle (stalled x) (getDune (stalled x) d0) beat0 ∧
      stretchTarget (stalled x) beat0 50 < commitCycle (stalled x) (getDune (stalled x) d0) beat0 ∧
      cycleAtOrAfter (stalled x) beat0 (copyTu (stalled x) (getDune (stalled x) d0).copy 30) < commitCycle (stalled x) (getDune (stalled x) d0) beat0) :=
  ⟨⟨issues (by decide), by decide, by decide⟩, ⟨issues (by decide), by decide, by decide⟩, ⟨issues (by decide), by decide⟩,
    ⟨issues (by decide), by decide⟩, by decide⟩
/-- A round of three at barrier 1, with none, one and two threads arrived. -/
def rounds (arrived : List Nat) : Mach := setRow mach r0 { barriers := [(1, some ⟨3, arrived⟩)] }
theorem witness_Barriers : ∀ l ∈ [[], [9], [9, 10]],
    (issuingBeat (rounds l) t0 = some beat0 ∧ 0 = issueSlot (rounds l) beat0 t0 [srcP 0] ∧
      guardHolds (getThread (rounds l) t0) (fl 0 0 0 true 0x301) = true) ∧
    ((sget none (getRow (atCycle (rounds l) beat0 0) r0).barriers 1).getD ⟨3, []⟩).arrived = l ∧ 0 ∉ l ∧ (∀ k ∈ l, k < 128) ∧
    immWithin (fl 0 0 0 true 0x301) 0xFF07 = true ∧ (fl 0 0 0 true 0x301).low.toNat / 256 = 3 ∧
    (fl 0 0 0 true 0x401).low.toNat / 256 ≠ 3 := by decide
theorem witness_ControlTransfers :
    (IssuesAt mach t0 (fl 0 0 0 true 5) [] beat0 0 ∧ (ts0.lo : Int) ≤ ts0.pc + (fl 0 0 0 true 5).low.toInt ∧
      ts0.pc + (fl 0 0 0 true 5).low.toInt < ts0.hi) ∧
    (IssuesAt mach t0 (fl 0 0 0 true 64) [] beat0 0 ∧ (ts0.hi : Int) ≤ ts0.pc + (fl 0 0 0 true 64).low.toInt) ∧
    (legalRR (fl 0 2 0 false 0) = true ∧ IssuesAt mach t0 (fl 0 2 0 false 0) [srcG 2] beat0 0 ∧ (readG ts0 2).toNat < ts0.hi) ∧
    (IssuesAt mach t0 (fl 0 3 0 false 0) [srcG 3] beat0 0 ∧ ts0.hi ≤ (readG ts0 3).toNat) ∧
    IssuesAt mach t0 (fl 0 0 0 false 0) [] beat0 0 :=
  ⟨⟨issues (by decide), by decide, by decide⟩, ⟨issues (by decide), by decide⟩, ⟨by decide, issues (by decide), by decide⟩,
    ⟨issues (by decide), by decide⟩, issues (by decide)⟩
theorem witness_GetsReadsTheSelector : (∀ k ∈ [0, 1, 2, 3, 4, 5, 6, 7, 8, 10, 11, 12, 13, 14],
      issuingBeat mach t0 = some beat0 ∧ 0 = issueSlot mach beat0 t0 [srcP (fl 9 0 0 true k).gp.toNat] ∧ (fl 9 0 0 true k).low.toNat = k) ∧
    IssuesAt mach t0 (fl 9 0 0 true 14) [] beat0 0 ∧ (getDune mach d0).hosted = some 0 ∧
    (0 = issueSlot mach beat0 t0 [] ∧ 0 < commitCycle mach (getDune mach d0) beat0 ∧ 15 ≤ (fl 9 0 0 true 15).low.toNat) :=
  ⟨by decide, issues (by decide), by decide, by decide⟩
theorem witness_UnitControl : ∀ priv ∈ [true, false],
    let m := setThread mach t0 { ts0 with privF := priv }
    (issuingBeat m t0 = some beat0 ∧ 0 = issueSlot m beat0 t0 [srcP 0, srcG 1, srcG 2] ∧ 0 < commitCycle m (getDune m d0) beat0 ∧
      guardHolds (getThread m t0) (fl 0 1 2 false 0) = true) ∧
    (0 = issueSlot m beat0 t0 [srcP 0, srcG 1] ∧ legalRR (fl 9 1 0 false 0) = true) ∧
    (getThread (atCycle m beat0 0) t0).privF = priv := by decide
/-- Where SLD and SST find a register: at any address of the space whose register the unit has (R188 leaves which to the unit). -/
theorem witness_unitAddress : Config.unitRegister 0xF003F80000000000 = true →
    unitAddress 0xF003F80000000000 = true := by
  intro h
  have e : (0xF003F80000000000 : W64).toNat = 0xF003F80000000000 := by decide
  have k : addrSpace 0xF003F80000000000 = 15 ∧ natBits 0xF003F80000000000 59 58 = 0 ∧ natBits 0xF003F80000000000 55 50 = 0 ∧
      natBits 0xF003F80000000000 49 43 = 127 ∧ natBits 0xF003F80000000000 42 24 = 0 ∧ 0xF003F80000000000 % 8 = 0 := by decide
  simp only [unitAddress, e, k, h]
  decide

/-- The registers and addresses of each shape of `ThreadInstructionsComplete`: the machine issues it in cycle 0 of its beat. -/
theorem witness_ThreadInstructionsComplete :
    (∀ e ∈ [(fl 9 1 2 false 0, [srcG 1, srcG 2]), (fl 9 1 0 true 5, [srcG 1]), (fl 9 1 0 false 0, [srcG 1]), (fl 9 0 0 true 5, [srcG 9]),
        (fl 9 1 2 false (3 * 2 ^ 27), [srcG 1, srcG 2, srcP 3]), (fl 2 0 1 true 3, [srcP 0, srcP 1]), (fl 1 2 3 false 7, [srcV 2, srcV 3]),
        (fl 1 2 3 false 0, [srcV 2, srcV 3, srcV 1]), (fl 1 2 0 false 0, [srcV 2]), (fl 1 1 0 false 7, [srcG 1]),
        (fl 9 5 0 true 0x100, [srcG 5]), (fl 0 5 3 true 0x100, [srcG 5, srcG 3]), (fl 0 5 3 true 0x100, [srcG 5, srcV 3]),
        (fl 0 0 0 true 3, []), (fl 0 0 0 false 0, []), (fl 9 0 0 true 14, []), (fl 0 1 2 false 0, [srcG 1, srcG 2])],
      issuingBeat mach t0 = some beat0 ∧ 0 = issueSlot mach beat0 t0 (srcP e.1.gp.toNat :: e.2) ∧
      0 < commitCycle mach (getDune mach d0) beat0 ∧ guardHolds (getThread mach t0) e.1 = true) ∧
    srcsAlu (fl 9 1 2 false 0) = [srcG 1, srcG 2] ∧ srcsAlu (fl 9 1 0 true 5) = [srcG 1] ∧
    legalAlu3 (fl 9 1 2 false 0) = true ∧ legalRR (fl 9 1 0 false 0) = true ∧ legalRR (fl 0 0 0 false 0) = true ∧
    unguarded (fl 0 0 0 false 0) = true ∧ (atCycle mach beat0 0).provocations = [] ∧
    (∀ k ∈ [1, 2, 4, 8, 64], loadTarget t0 ts0.privF (effAddr ts0 (fl 9 5 0 true 0x100)) k = some (r0, true, 0x100)) := by decide

/-! ## Words: written out bit by bit from R133 and the table of R136; the first two are the examples the specification works out -/

theorem test_word_add_guarded : decodeWord t0 0x030139C100000040 = some (.add t0 { fl 7 7 0 true 0x40 with gp := 3 }) := by decide
theorem test_word_fire : decodeWord t0 0x6001010A30000000 = some (.fire t0 (fl 0 4 5 false (6 * 2 ^ 27))) := by decide
theorem test_word_vcmp : decodeWord t0 0x1F0F10C600000020 = some (.vcmp t0 ⟨true, 7, 2, 3, 3, false, 0x20⟩) := by decide
theorem witness_WordsAndInstructionsAgree : threadOf (.add t0 (fl 9 1 2 false 0)) = some (t0, fl 9 1 2 false 0) ∧
    threadOf (.stallResume t0) = none ∧ encodeInstr (.add t0 (fl 9 1 2 false 0)) = some 0x0001484400000000 ∧
    decodeWord t0 0x0001484400000000 = some (.add t0 (fl 9 1 2 false 0)) := by decide
theorem test_word_class_unlisted : (decodeWord t0 0xA001000000000000).isNone = true := by decide
theorem test_word_op_unlisted : (decodeWord t0 0x001D000000000000).isNone = true := by decide

/-! ## A module with a job -/

def variant0 : Variant :=
  { programs := [{ vdune := 0, row := 0, core := 0, words := [0, 0, 0, 0, 0, 0, 0, 0], sect := 1
                   threads := [{ num := 0, entry := 0, lo := 0, hi := 8, privF := false, g := [], v := [], p := 0 }] }]
    marksNs := [400, 880], segRows := [⟨0, 0, [64, 64], [100, 100], [100, 100], true⟩], gaps := [⟨0, 0, [(0, 1500)]⟩]
    tc0 := [], separations := [], relocs := [] }
def stages0 : StageMap :=
  { vocab := 1000, contextLimit := 1024, endIds := [], prefillWidth := 4, maxSpecDepth := 4, draftBeats := 1, kvPages := 100 }
def mem0 : MemDecl :=
  { upkeepArea := some (0x3C000, 0x3FFFF), scratchArea := some (0x1F0000, 0x1FFFFF), bankUse := .single, groups := 0, bankPeriod := 0
    entryBeats := [], residentPlates := [], negativeBytes := 4096, adapterSlotBytes := 4096, debugRegions := [], declaredBytes := 0
    kv := [⟨(0, 0), 0, 64, 1⟩] }
/-- An image header by R251: base period 900 ns, one module, eight lanes, two stages, and no sections. -/
def header0 : List Byte :=
  asciiBytes "KE8IMAGE" ++ leBytes 2 1 ++ leBytes 2 256 ++ leBytes 4 0 ++ leBytes 8 256 ++ leBytes 8 0x1234 ++ leBytes 4 900 ++
  leBytes 4 40 ++ [1, 0, 3, 3, 0, 1] ++ leBytes 2 8 ++ leBytes 2 2 ++ List.replicate 206 0
def image0 : Image :=
  { file := header0, ordinary := variant0, proof := variant0, stageMap := stages0, energy := [(1, 1, 1, 1), (1, 1, 1, 1)], manifest := []
    vdunes := [⟨0, 0, [], [⟨0, 0, 1⟩]⟩], ergMaps := 1, twins := [], laneGroup := [], mem := mem0, moduleList := [] }
def job0 : Job :=
  { id := 9, image := image0, proof := false, map := [(0, 0)], ergMap := 0, loaded := true, lastStarted := some 0
    starts := [(0, 0)] }
def module0 : Mach := { mach with job := some job0 }
def dune0is (f : DuneState → DuneState) : Mach := setDune module0 d0 (f (getDune module0 d0))

/-! ## Strips, beats, the fabric (R97–R249) -/

/-- Row 0 with site 67 ACTIVE, its bank A complete and not yet stripped, and what else is set. -/
def siteRow (f : RowState → RowState) : Mach :=
  setRow module0 r0 (f { sites := [(67, { state := .active, plate := some 0, bankA := { complete := true } })] })
def stripping (k : Nat) : StripRun := { site := 67, bank := .a, segment := k, running := true, until_ := 0 }
def writing (staged written : Nat) : WriteJob :=
  { site := 67, bank := .b, record := { valid := true }, staged, written, arrived := [5] }
theorem witness_StripsAndRowWords :
    ((getRow (siteRow id) r0).strip = none ∧ (getRow (siteRow id) r0).firing = none ∧ (getDune (siteRow id) d0).frozen = false ∧
      stripsSite (siteRow id) (siteView (siteRow id) r0 67) = true ∧ (bankOf (siteView (siteRow id) r0 67) .a).complete = true ∧
      powered (siteRow id) = true ∧ mayStrip (siteRow id) r0 67 .a = true ∧
      segmentSlot (siteRow id) r0 (segmentLength (siteRow id) 0) = some 0) ∧
    (∀ k ∈ [0, 68, 78, 92], let m := siteRow fun w => { w with strip := some (stripping k) }
      (getRow m r0).strip = some (stripping k) ∧ (stripping k).running = true ∧ k < 93 ∧
      (bankOf (siteView (advance m 0) r0 67) .a).complete = true) ∧
    (∀ e ∈ [(0, 0), (1023, 900), (1, 0), (1024, 1022)], let m := siteRow fun w => { w with writer := some (writing e.1 e.2) }
      writeJob (getRow m r0) = some (writing e.1 e.2) ∧ (writing e.1 e.2).record.valid = true ∧ fixAnnounced m d0 = false) ∧
    (getDune module0 d0).power = .usable := by decide +kernel
theorem witness_BeatsStartAdvanceAndClose :
    (mayRun module0 d0 = true ∧ (getDune module0 d0).beat = some beat0 ∧ beat0.checked = false ∧
      beat0.segment + 1 < (jobVariant job0).marksNs.length) ∧
    (let m := { dune0is (fun x => { x with beat := none }) with job := some { job0 with lastStarted := some 1 } }
     mayRun m d0 = true ∧ (getDune m d0).pausedFrom = none ∧ (getDune m d0).beat = none ∧ (getDune m d0).changes = [] ∧
      (getDune m d0).fixes = [] ∧ (getDune m d0).nextBeat ≤ 1 ∧ planFixAt mem0 (getDune m d0).nextBeat = false) ∧
    (beatsRun module0 = true ∧ job0.faultBeat = none ∧ job0.nextClose ≤ 0) := by decide +kernel

def msg (type kind dest : Nat) (w1 w2 low : Nat) : MeshMsg :=
  ⟨BitVec.ofNat 32 (type * 2 ^ 28 + (if type ≤ 6 then 2 ^ 27 else 0) + dest * 256), BitVec.ofNat 32 w1, BitVec.ofNat 32 w2,
    BitVec.ofNat 32 (kind * 2 ^ 28 + low)⟩
theorem addressed {m : Mach} {node type : Nat} {x : MeshMsg} (h : msgBad x = false ∧ msgType x = type ∧
    (msgDest x = 0xFF ∨ msgDest x = node) ∧ overtakes m node x = false) : Addressed m node type x := h
theorem witness_StretchMovesTheAnchor :
    Addressed module0 (duneNode d0) 2 (msg 2 0 0 0 0 0) ∧ Addressed module0 (duneNode d0) 2 (msg 2 0 0xFF 1 0 0) ∧
    (isJobDune module0 d0 = true ∧ (getDune module0 d0).frozen = false ∧ (getDune module0 d0).power = .usable ∧
      beatsRun module0 = true ∧ (getDune module0 d0).beat = some beat0) ∧
    ((msg 2 0 0 0 0 0).w2.toNat / 2 ^ 28 = 0 ∧ beat0.n % 2 ^ 32 = (msg 2 0 0 0 0 0).w1.toNat ∧ beat0.stretched = none ∧ beat0.segment = 0 ∧
      module0.now ≤ cycleStart module0 beat0 (markCycle module0 0)) ∧
    beat0.n % 2 ^ 32 ≠ (msg 2 0 0xFF 1 0 0).w1.toNat :=
  ⟨addressed (by decide), addressed (by decide), by decide⟩
theorem witness_BeatChangesAreKept :
    (Addressed module0 (duneNode d0) 3 (msg 3 0 0 1 0 (8 * 2 ^ 24)) ∧ Addressed module0 (duneNode d0) 3 (msg 3 1 0 1 0 0) ∧
      Addressed module0 (duneNode d0) 3 (msg 3 2 0xFF 1 0 0) ∧ Addressed module0 (duneNode d0) 6 (msg 6 0 0 1 0 1)) ∧
    takesChanges module0 d0 = true ∧ (getDune module0 d0).nextBeat ≤ msgLong (msg 3 0 0 1 0 (8 * 2 ^ 24)) ∧
    (∀ e ∈ [(0, msg 3 0 0 1 0 (8 * 2 ^ 24)), (1, msg 3 1 0 1 0 0), (2, msg 3 2 0xFF 1 0 0)], msgKind e.2 = e.1) ∧
    natBits (msg 3 0 0 1 0 (8 * 2 ^ 24)).w3.toNat 27 24 = 8 ∧
    (let m := dune0is fun x => { x with beat := none, pausedFrom := some 1 }
     m.job = some job0 ∧ takesChanges m d0 = true ∧ (getDune m d0).pausedFrom.isSome = true ∧
       copyHtc m (getDune m d0).copy ≤ msgLong (msg 3 2 0xFF 1 0 0) ∧ (getDune m d0).beat = none) :=
  ⟨⟨addressed (by decide), addressed (by decide), addressed (by decide), addressed (by decide)⟩,
    by decide, by decide, by decide, by decide, rfl, by decide⟩
theorem witness_WindowsOfRatesEnd : beatsRun module0 = true ∧ powered module0 = true := by decide
theorem witness_DunesGoOffAndMeshUpkeep :
    ((getDune mach d0).power = .usable ∧ mach.job = none) ∧
    (({ mach with tablesStale := 8 } : Mach).tablesStale.getLsbD 3 = true ∧ ergStale { mach with tablesStale := 8 } 3 = true ∧ mach.packets = [] ∧ powered mach = true ∧
      sget 0 mach.ctlLanes 5 / 2 ^ 1 % 2 = 0) ∧ msgBad (msg 7 0 0 0 0 0) = true := by decide
theorem witness_IslandClocks :
    (∀ t : TimeState, islandRuns (dune0is fun x => { x with time := t }) (.dune d0) = true ∧
      (islandState (dune0is fun x => { x with time := t }) (.dune d0)).time = t) ∧ Island.dune d0 ≠ rootIsland ∧
    islandRuns mach .pcie = true ∧ (islandState (setDune mach d0 { dune0 with time := .holdover }) (.dune d0)).time = .holdover ∧
    mach.job = none ∧ (let m := setDune mach d0 { dune0 with time := .holdover, copy := { limited := true } }
     (islandState m (.dune d0)).copy.limited = true ∧ islandRuns m (.dune d0) = true) :=
  ⟨fun t => by cases t <;> decide, by decide⟩

/-! ## Jobs and serving (R257–R346) -/

def jobCommand (op : Nat) : List Byte :=
  leBytes 1 op ++ [0, 0, 0] ++ leBytes 4 (if op = 1 then 9 else 0) ++ List.replicate 8 0 ++ leBytes 8 (if op = 1 then 4096 else 0)
def standby : Mach := { mach with mode := .standby }
def loadingNow : Mach := { mach with mode := .loading, job := some { job0 with loaded := false, lastStarted := none, starts := [] } }
/-- The image's declared 4,096 bytes are more than it has (0x0109, byte 16); a trial that passes loses no site, and an image without
energies is refused on the way. -/
theorem witness_JobsLoad :
    (jobCheck standby .mailbox (jobCommand 1) = none ∧ field (jobCommand 1) 0 1 = 1 ∧ field (jobCommand 1) 4 4 = 9 ∧
      loadFault standby (jobCommand 1) image0 false = some (0x0109, 16)) ∧
    (∀ j : Job, loadingNow.job = some j → loadingNow.mode = .loading ∧ j.loaded = false ∧ lateChecks j.image = none ∧
      j.image.modules ≤ 1 ∧ lostTrials (placeRecords loadingNow j) mem0 [⟨r0, 67, .a, some {}, none⟩] = []) ∧
    lateChecks { image0 with energy := [(1, 1, 0, 1)] } = some (0x0601, 0) :=
  ⟨by decide +kernel, by rintro j ⟨⟩; decide +kernel, by decide +kernel⟩
def drainingNow : Mach := { module0 with mode := .draining }
theorem witness_JobsDrainAndUnload :
    (∀ m ∈ [module0, drainingNow], m.job = some job0 ∧ m.repl = none ∧ job0.unloadAt = none ∧ announces m = true) ∧
    (jobCheck module0 .mailbox (jobCommand 2) = none ∧ field (jobCommand 2) 0 1 = 2 ∧ module0.mode = .running) ∧
    (drainingNow.mode = .draining ∧ drainingNow.unloading = false ∧ ∀ e ∈ drainingNow.ctxs, e.2.state = .free) ∧
    (jobCheck module0 .mailbox (jobCommand 3) = none ∧ field (jobCommand 3) 0 1 = 3) := by decide +kernel

def descriptor (opcode priority : Nat) : Descriptor :=
  { hostTag := 5, promptAddr := 0x1000, promptLen := 2, maxNew := 4, ringAddr := 0x4000, tailAddr := 0x8000, ringEntries := 16
    opcode := opcode, priority := priority, specDepth := 0, flags := 0, stopIds := [0, 0, 0, 0], seed := 1
    temperature := 0, topP := 0, topK := 0, adapterId := 0xFFFF, reservedZero := true, phaseByte := 1 }
/-- Function 15 up, its intake on with ring credits, and a field of its state set. -/
def serving (f : Fn → Fn) : Mach :=
  setFn { module0 with od := [(objKey 0x311F 1, 2), (objKey 0x311F 2, 5), (objKey 0x311F 3, 0x2001)] } 15 (f { up := true })
theorem witness_IntakeSlotsAreWrittenAndConsumed :
    (powered module0 = true ∧ (getFn module0 15).armed = 0 ∧ (3968 % 128 + 128 ≤ 128)) ∧
    (let m := serving fun x => { x with armed := 0x80000000, next := 31 }
     served m 15 = true ∧ (getFn m 15).armed.getLsbD (getFn m 15).next = true ∧ (getFn m 15).next < 32 ∧
       (slotDescriptor m 15 31).opcode ≠ 1) ∧
    (let m := { serving fun x => { x with armed := 1 } with intake := [(4096 * 15 + 44, 1)] }
     served m 15 = true ∧ (getFn m 15).armed.getLsbD 0 = true ∧ (slotDescriptor m 15 0).opcode = 1 ∧ contextsTaken m < 16384 ∧
       (liveOf m 15).length + submitsTaken (getFn m 15) < odGet m 0x311F 2) ∧
    (let m := { serving fun x => { x with armed := 1 } with
                intake := [(4096 * 15 + 44, 1)], od := [(objKey 0x311F 1, 2), (objKey 0x311F 2, 1), (objKey 0x311F 3, 0x2001)] }
     served m 15 = true ∧ (slotDescriptor m 15 0).opcode = 1 ∧ odGet m 0x311F 2 = 0) := by decide +kernel

/-- Context 0 of function 15 in a state, with its descriptor. -/
def holds (st : CtxState) (f : Context → Context) (fn : Fn → Fn) : Mach :=
  setCtx (serving fn) 0 (f { state := st, fn := 15, desc := some (descriptor 1 2), order := 3 })
theorem witness_DescriptorsAreCarriedOut :
    (∀ op ∈ [0, 1, 2, 3, 4, 5, 255], (getFn (serving fun x => { x with taken := [(7, descriptor op 2)] }) 15).taken = [(7, descriptor op 2)] ∧
      (descriptor op 2).phaseByte.toNat < 2 ∧ (descriptor op 2).opcode = op) ∧
    (let m := setFn (serving id) 15 { up := true }
     submitCheck m 15 (descriptor 1 2) = none ∧ freeCtx m = some 0) ∧
    (∀ st ∈ [CtxState.queued, .prefill, .decode, .paused], ctxByTag (holds st id id) 15 (descriptor 2 2).hostTag = some 0 ∧
      (getCtx (holds st id id) 0).state = st ∧ st ≠ .ending) := by decide +kernel
theorem witness_RequestsAndTheirObjects :
    (let m := holds .queued (fun x => { x with fetching := true }) id
     (getCtx m 0).desc = some (descriptor 1 2) ∧ (getCtx m 0).fetching = true ∧
       ([999, 0] : List W32).length = (descriptor 1 2).promptLen ∧ ([999, 0] : List W32).all (fun t => decide (t.toNat < image0.stageMap.vocab)) = true ∧
       ([1000, 0] : List W32).any (fun t => decide (image0.stageMap.vocab ≤ t.toNat)) = true) ∧
    endWritten (holds .ending id id) 0 = true ∧ checkWrite module0 .mailbox 0x311F 1 [1] none none = none ∧
    checkWrite module0 .mailbox 0x3101 1 (leBytes 4 1000) none none = none := by decide +kernel
theorem witness_RequestsAreAdmitted :
    (let m := holds .queued id id
     (getCtx m 0).desc = some (descriptor 1 2) ∧ (getCtx m 0).state = .queued ∧ (getCtx m 0).fetching = false ∧ m.mode = .running ∧
       holdsQueued m = false ∧ firstQueued m 0 = true ∧ adapterHot m (descriptor 1 2) = true ∧
       pagesFor image0 (descriptor 1 2) ≤ freePages m image0 ∧ (descriptor 1 2).priority ≠ 0) ∧
    (beatsRun module0 = true ∧ upcomingBeat module0 ≤ 1 ∧ module0.lastEntryFix = none) := by decide +kernel
theorem witness_ContextsPauseAndRingsArePolled :
    ((getCtx (holds .pausing id id) 0).state = .pausing ∧ settled (holds .pausing id id) 0 = true ∧
      stackStops (holds .pausing id id) 64 (negativeSize (holds .pausing id id) job0 (getCtx (holds .pausing id id) 0).committed) = false) ∧
    (let m := holds .resuming (fun x => { x with negative := some 320, negativeAt := 64 }) id
     (getCtx m 0).state = .resuming ∧ (getCtx m 0).negative = some 320 ∧ stackStops m 64 320 = false) ∧
    (let m := holds .decode id id
     (getCtx m 0).desc = some (descriptor 1 2) ∧ (getCtx m 0).state = .decode ∧ (descriptor 1 2).priority = 2 ∧ mayPause m = true ∧
       beatsRun m = true ∧ (getCtx (advance m (tuAt m (instantAt m (getCtx m 0).readySince + 1000 * odGet m 0x3100 5))) 0).state = .decode ∧
       negativeRoom m job0 (negativeSize m job0 3) = some 0 ∧ flyingOf m 0 = []) ∧
    (let m := holds .decode (fun x => { x with tailRead := true, knownTail := 3, ringRecords := 9 }) id
     (getCtx m 0).tailRead = true ∧ (getCtx m 0).knownTail ≤ 9 ∧ 9 ≤ (getCtx m 0).ringRecords ∧ (getCtx m 0).desc = some (descriptor 1 2)) ∧
    (let m := serving fun x => { x with stepTailRead := true, stepKnown := 3, stepEntries := 9 }
     (getFn m 15).stepTailRead = true ∧ (getFn m 15).stepKnown ≤ 9 ∧ 9 ≤ (getFn m 15).stepEntries ∧ 2 < (getFn m 15).stepKnown) ∧
    (drainingNow.mode = .draining ∧ odGet { drainingNow with od := [(objKey 0x3140 7, 101)] } 0x3140 7 ≠ 0) := by decide +kernel
def adapterCommand (op : Nat) : List Byte := leBytes 1 op ++ [0] ++ leBytes 2 4095 ++ List.replicate 4 0 ++ leBytes 8 0x1000 ++ leBytes 8 96
def container : List Byte :=
  asciiBytes "KE8ADAPT" ++ leBytes 8 0x1234 ++ leBytes 2 64 ++ List.replicate 6 0 ++ leBytes 8 32 ++
  leBytes 4 (crc32c (List.replicate 32 7)) ++ List.replicate 28 0 ++ List.replicate 32 7
theorem witness_AdaptersComeAndGo :
    (∀ op ∈ [1, 2], adapterCheck module0 .mailbox (adapterCommand op) = none ∧ field (adapterCommand op) 2 2 = 4095 ∧
      field (adapterCommand op) 0 1 = op) ∧ (getAdapter module0 4095).installed = false ∧ adapterNamed module0 4095 = false ∧
    ({ module0 with adapterWait := [(4095, 96, 0)] } : Mach).adapterWait = (4095, 96, 0) :: [] ∧
    containerOk { module0 with adapterWait := [] } (List.replicate 96 0) = false ∧
    (container.length = 96 ∧ containerOk { module0 with adapterWait := [] } container = true) ∧
    (let m := { module0 with adapters := [(7, { installed := true })] }
     (getAdapter m 7).installed = true ∧ (getAdapter m 7).hot = false ∧ ∀ e ∈ m.adapters, e.2.hot = true → e.2.hotSlot ≠ 0) := by decide +kernel

def replaceCommand (op : Nat) : List Byte := leBytes 1 op ++ List.replicate 15 0 ++ leBytes 8 4096
def replacing (st method : Nat) (f : Replacement → Replacement) : Mach :=
  { module0 with od := [(objKey 0x3140 2, st + 1)], repl := some (f { method := method, image := image0, length := 4096 }) }
theorem witness_ReplacementsBegin :
    (∀ op ∈ [0, 1, 2, 3], replaceCheck module0 .mailbox (replaceCommand op) = none ∧ field (replaceCommand op) 0 1 = op ∧
      field (replaceCommand op) 1 1 = 0) ∧ module0.mode = .running ∧ odGet module0 0x3140 2 = 0 ∧ module0.job = some job0 ∧
    (∀ k ∈ [1, 2, 3], methodRefused { module0 with od := [(objKey 0x3140 6, 3)] } k = none) ∧ methodRefused module0 3 = none ∧
    (∀ k ∈ [1, 2, 3, 4], 1 ≤ odGet (replacing k 1 id) 0x3140 2 ∧ odGet (replacing k 1 id) 0x3140 2 < 5 ∧
      replaceCheck (replacing k 1 id) .mailbox (replaceCommand 0) = none) := by decide +kernel
theorem witness_ReplacementsGoOn :
    (∀ k ∈ [1, 2, 4, 6], odGet (replacing k 1 id) 0x3140 2 = k ∧ (replacing k 1 id).repl.isSome = true) ∧
    (let m := replacing 2 1 fun r => { r with buffered := true }
     (m.repl.map fun r => (r.method, r.buffered)) = some (1, true) ∧ multiModule m = false ∧
       latentReady (setReplState (buildLatent m) 3) = true) ∧
    (let m := replacing 4 2 id
     (∀ e ∈ m.ctxs, e.2.state = .free ∨ e.2.state = .queued) ∧ announces m = true ∧ latentReady m = true) ∧
    (let m := replacing 2 3 id
     (m.repl.map (·.method)) = some 3 ∧ multiModule m = false) ∧
    ((replacing 6 3 fun r => { r with pauseAt := some 8 }).repl.map (·.firstBeat)) = some none := by decide +kernel
def streamed : Mach :=
  { module0 with job := some { job0 with image := { image0 with mem := { mem0 with bankUse := .streamed, groups := 2, bankPeriod := 10000 } } } }
theorem witness_StreamedPlans :
    (beatsRun streamed = true ∧ multiModule streamed = false ∧
      (streamed.job.map fun j => (j.image.mem.bankUse, j.image.mem.bankPeriod, j.planHeld)) = some (.streamed, 10000, none) ∧
      htcNow streamed ≤ instantAt streamed (nextBoundary streamed { mem0 with bankUse := .streamed, groups := 2, bankPeriod := 10000 })
        - 10000) ∧
    (let m := { dune0is (fun x => { x with beat := none, pausedFrom := some 10000 }) with job := some { job0 with planHeld := some 10000 } }
     (m.job.bind fun j => j.planHeld) = some 10000 ∧ (jobDuneState m).pausedFrom = some 10000 ∧ (jobDuneState m).beat = none ∧
       announces m = true) := by decide +kernel

/-! ## Links and hall time (R350–R380) -/

def bundle7 : Fin 8 := 7
/-- Bundle 7 in use, its path to bundle 2 of module 0x55, and a field of its state set. -/
def linked (f : Bundle → Bundle) : Mach :=
  setBundle { module0 with od := [(objKey 0x5200 1, 2), (objKey 0x5200 3, (1 + 0x55 * 2 ^ 16 + 2 * 2 ^ 32) * 2 ^ 896 + 1)] } 7
    (f { state := .up, live := 0x800001, trained := 0x800001 })
def framed (body : List Byte) (len : Nat) : List Byte :=
  let b := padTo (len - 4) body
  b ++ leBytes 4 (crc32c b)
theorem witness_LanesComeAndGo :
    (getBundle (linked id) 7).live.getLsbD 23 = true ∧
    (bundleRuns (linked id) 7 = true ∧ sget 0 (getBundle (linked id) 7).dropped 5 = 0) ∧
    (bundleRuns (linked fun x => { x with dropped := [(5, 10)] }) 7 = true ∧
      sget 0 (getBundle (linked fun x => { x with dropped := [(5, 10)] }) 7).dropped 5 = 9 + 1) ∧
    (getBundle (linked fun x => { x with cable := true }) 7).cable = true := by decide +kernel

def helloFrame (peer bundle : Nat) : List Byte := framed (leBytes 1 0x14 ++ [0] ++ leBytes 2 peer ++ leBytes 1 bundle ++ [1, 1, 0]) 32
def dataFrame (seq : Nat) : List Byte :=
  framed (leBytes 1 0x11 ++ leBytes 1 0 ++ leBytes 2 seq ++ List.replicate 4 0 ++ leBytes 4 9 ++ leBytes 8 (2 ^ 60 + 2 ^ 42) ++
    List.replicate 5 0 ++ [4] ++ leBytes 2 0) 288
def ackFrame (cls upTo : Nat) : List Byte := framed (leBytes 1 0x12 ++ [0, 0, 0] ++ leBytes 2 upTo ++ leBytes 1 cls) 32
def timeFrame : List Byte := framed (leBytes 1 0x13 ++ leBytes 1 (4 * 63 + 2) ++ leBytes 2 0xFFFF) 32
def ctrlFrame : List Byte :=
  framed (leBytes 1 0x15 ++ [0] ++ leBytes 2 3 ++ leBytes 4 8 ++ leBytes 4 9 ++ leBytes 4 (6 * 2 ^ 28 + 2 ^ 27 + 0xFF00) ++
    leBytes 4 1 ++ leBytes 4 0 ++ leBytes 4 5) 32
/-- A slot entry of 48 bytes by R364, for bundle 7: a send slot from the row buffer of row 0, or a receive slot into it. -/
def slotBytes (send : Bool) : List Byte :=
  [if send then 1 else 2, 7] ++ leBytes 2 0x55 ++ leBytes 4 0 ++ leBytes 4 800 ++ leBytes 4 256 ++
  leBytes 8 (if send then 2 ^ 60 + 2 ^ 42 else 0) ++ leBytes 8 (2 ^ 60 + 2 ^ 42) ++ leBytes 4 0 ++ [0, 24] ++ List.replicate 10 0
def slot0 (send : Bool) : Slot := slotEntry (slotBytes send)
theorem test_slot_entry : slot0 true = { sound := true, send := true, bundle := 7, peer := 0x55, start := 0, deadline := 800, length := 256
                                         source := 2 ^ 60 + 2 ^ 42, target := 2 ^ 60 + 2 ^ 42, generation := 0, window := 0, lanes := 24 } := by
  decide +kernel
def slotted (send : Bool) : Mach :=
  { linked id with job := some { job0 with image := { image0 with slotTable := slotBytes send } } }
set_option maxRecDepth 100000 in
theorem witness_FramesAreTaken :
    (bundleRuns (linked id) 7 = true ∧ (linked id).injections = [] ∧ bundleUp (linked id) 7 = true) ∧
    (∀ k ∈ [0x10, 0x16], protocolError (linked id) 7 (framed (leBytes 1 k) 32) = true) ∧
    (∀ e ∈ [(4, 32, helloFrame 0x55 2), (4, 32, helloFrame 0x56 2), (1, 288, dataFrame 16), (2, 32, ackFrame 4 0), (3, 32, timeFrame),
        (5, 32, ctrlFrame)], protocolError (linked id) 7 e.2.2 = false ∧ frameType e.2.2 = e.1 ∧ e.2.2.length = e.2.1 ∧
        frameCrcOk e.2.2 = true) ∧
    helloAgrees (linked id) 7 (helloFrame 0x55 2) = true ∧
    ((getBundle (linked fun x => { x with state := .training }) 7).state = .training) ∧
    (∀ q ∈ [1, 16], (field (dataFrame q) 2 2 + 65536 - (getClass (getBundle (linked id) 7) 0).rxNext) % 65536 = q) ∧
    (let m := slotted false
     (m.job.map fun j => j.image.slots[field (dataFrame 0) 26 2]?) = some (some (slot0 false)) ∧ field (dataFrame 0) 1 1 % 4 = 0 ∧
       field (dataFrame 0) 8 4 = 9 ∧ slotFits 7 (dataFrame 0) (slot0 false) = true ∧ 0 < (slot0 false).length ∧
       (getSlot m 0).deadlines ≤ (getSlot m 0).taken / 256 ∧
       sramAddr (w64 (relocateAddr job0.map (field (dataFrame 0) 12 8))) = some (r0, true, 0)) ∧
    (field (ackFrame 4 0) 6 1 % 8 ≤ 4 ∧ field (ackFrame 4 0) 1 1 % 2 = 0) ∧
    (field ctrlFrame 8 4 = 9 ∧ (field ctrlFrame 2 2, field ctrlFrame 4 4) ∉ (linked id).ctrlSeen ∧ msgType (ctrlMessage ctrlFrame) = 6 ∧
      followsAnnouncement (linked id) = false) := by decide +kernel
/-- Bundle 7 with one unacknowledged frame of CTRL, sent seven times, its lanes free from the instant `t` on. -/
def unacked (t : Nat) : Mach := linked fun x =>
  { x with classes := [(4, { unacked := [(9, 0, 7, ackFrame 4 0)] })], nextLane := 23, laneFree := [(0, 10000 * t), (23, 10000 * t)] }
def handed : KlWait := { rank := classRank 4, cls := some 4, seq := 9, again := true, bytes := ackFrame 4 0 }
/-- The instant of its timeout. -/
def timedOut (t : Nat) : Mach := advance (unacked t) (sget 0 (getClass (getBundle (unacked t) 7) 4).sentAt 9 + 217000)
def handing (t : Nat) : Bundle :=
  let x := getBundle (timedOut t) 7
  setClass x 4 { getClass x 4 with unacked := [] ++ (9, 0, 8, ackFrame 4 0) :: [] }
theorem witness_BundleTimersAndSlots :
    (∀ t ∈ [0, 1000000], bundleUp (unacked t) 7 = true ∧ (unacked t).injections = [] ∧
      ((getClass (getBundle (unacked t) 7) 4).unacked.any fun e => e.1 == 9) = true ∧ (timedOut t).injections = [] ∧
      (getClass (getBundle (timedOut t) 7) 4).unacked = [] ++ (9, 0, 7, ackFrame 4 0) :: [] ∧
      (getBundle (timedOut t) 7).waiting = [] ∧ (getBundle (timedOut t) 7).live ≠ 0 ∧
      nextLaneFor { handing t with waiting := [handed] } (timedOut t).now (timedOut t).now = if t = 0 then some 23 else none) ∧
    (let m := linked fun x => { x with classes := [(2, { rxHeld := [(3, dataFrame 3)] })] }
     (getClass (getBundle m 7) 2).rxHeld ≠ [] ∧ bundleRuns m 7 = true) ∧
    (∀ b : Bool, ((slotted b).job.map fun j => (j.image.slots[0]?, j.lastStarted, j.slotBase)) = some (some (slot0 b), some 0, 0) ∧
      beatsRun (slotted b) = true ∧ (slot0 b).send = b ∧ (slot0 b).bundle = 7 ∧ 0 < (slot0 b).length ∧
      (getSlot (slotted b) 0).sent = 0 ∧ (getSlot (slotted b) 0).deadlines = 0 ∧ bundleUp (slotted b) 7 = true) ∧
    sramAddr (w64 (relocateAddr job0.map (slot0 true).source.toNat)) = some (r0, true, 0) ∧
    (advance (slotted true) (tuAt (slotted true) (startOf (slotted true) 0 + (slot0 true).start))).injections = [] := 
  ⟨by decide +kernel, by decide +kernel, by decide +kernel, by decide +kernel, by decide +kernel⟩

def rootIs (t : TimeState) (m : Mach) : Mach := { m with islands := [(islandKey (.steward 0), { time := t })] }
def oneInjection : List Byte := leBytes 32 ((2 : Nat) * 2 ^ 80 + 31 * 2 ^ 88 + 1 * 2 ^ 96 + 65535 * 2 ^ 160)
def tester : Session := { num := 5, overMailbox := false, priv := some 2, test := true, hash := 0, c2s := [], s2c := [] }
theorem witness_HallTimeAndInjection :
    (∀ t ∈ [TimeState.acquire, .holdover], islandRuns (rootIs t mach) rootIsland = true ∧ (getRoot (rootIs t mach)).time = t) ∧
    ((rootIs .holdover mach).job = none) ∧
    (let m := rootIs .free standby
     islandRuns m .mgmt = true ∧ odGet m 0x5300 2 = 0 ∧ hallRoot { m with od := [(objKey 0x5300 1, 1)] } = false ∧
       (getRoot m).time = .free ∧ beatsRun m = false ∧ m.mode ≠ .restarting) ∧
    (loadingNow.mode = .loading ∧ 0 < image0.modules) ∧
    (let m := { loadingNow with job := some { job0 with image := { image0 with file := header0.take 45 ++ [2] ++ header0.drop 46 } } }
     (m.job.map fun j => (j.loaded, decide (1 < j.image.modules))) = some (true, true) ∧ m.restart = none ∧ m.mode = .loading ∧
       htcNow m + 100000 ≤ 100000) ∧
    (injectCheck { standby with sessions := [tester] } (.session 5) oneInjection = none ∧
      natBits (leNat oneInjection) 87 80 = 2) := by decide +kernel

/-! ## The host port (R386–R402) -/

def hosted (f : Fn → Fn) : Mach := setFn { standby with port := { linkUp := true } } 15 (f {})
theorem witness_FunctionsStopAndStart :
    ((getFn (hosted fun x => { x with up := true }) 15).up = true ∧ (15 : Fin 16) ≠ 0 ∧ portUp (hosted fun x => { x with up := true }) = true) ∧
    (powered (hosted id) = true ∧ (getFn (hosted id) 15).up = false) ∧
    odGet { hosted id with od := [(objKey 0x5400 1, 2)] } 0x5400 1 = 1 ∧
    checkWrite (hosted id) .mailbox 0x5400 1 [1] none none = none := by decide +kernel
theorem witness_HostRegisters :
    portUp (hosted id) = true ∧
    (∀ k ∈ [0, 23, 24], (leBytes 8 (0x01E000000000 + k * 2 ^ 32)).length = 8 ∧
      field (leBytes 8 (0x01E000000000 + k * 2 ^ 32)) 0 8 = 0x01E000000000 + k * 2 ^ 32) ∧ 16 * 4095 < 65536 ∧
    ((hosted id).sheetWriting = none ∧ odGet { hosted id with od := [(objKey 0x5400 4, 2)] } 0x5400 4 ≠ 0) ∧
    (koaServes (hosted id) = true ∧ (65536 : W32).toNat % 2 ^ 17 = 65536 ∧ (hosted id).port.mailboxBusy = false ∧
      { hosted id with port := { mailboxBusy := true, linkUp := true } }.port.mailboxBusy = true) := by decide +kernel
theorem witness_FailedReadsAndInterrupts :
    (∀ m ∈ [loadingNow, advance loadingNow (readIssued loadingNow (.image 64) + odGet loadingNow 0x5400 2 * 217000)],
      imageReading m = true ∧ 64 ∉ m.imageRetries) ∧
    (let m : Mach := { module0 with adapterWait := [(7, 96, 0)] }
     m.adapterWait ≠ [] ∧ (advance m (readIssued m .adapter + odGet m 0x5400 2 * 217000)).adapterWait = (7, 96, 0) :: []) ∧
    (let m := holds .queued (fun x => { x with fetching := true }) id
     (getCtx m 0).desc = some (descriptor 1 2) ∧ (getCtx m 0).fetching = true ∧
       (getCtx (advance m (readIssued m (.prompt 0) + odGet m 0x5400 2 * 217000)) 0).desc = some (descriptor 1 2)) ∧
    (∀ k ∈ [0, 4], let m := hosted fun x => { x with up := true, heldOff := 4, lastMsix := [(2, 10)], mask := k }
      (getFn m 15).heldOff.getLsbD 2 = true ∧ sget 0 (getFn m 15).lastMsix 2 = 9 + 1 ∧ (getFn m 15).mask = k ∧
      (getFn (advance m (9 + odGet m 0x5400 3 * 217000)) 15).up = true) ∧
    (∀ k ∈ [0, 8], let m := hosted fun x => { x with up := true, pba := k }
      portUp m = true ∧ (3 : Fin 8).val < 4 ∧ (getFn m 15).pba = k) :=
  ⟨by decide +kernel, by decide +kernel, by decide +kernel, by decide +kernel, by decide +kernel⟩

/-! ## KOA and objects (R394, R409–R438) -/

def koa (kind session seq : Nat) (body : List Byte) : List Byte :=
  leBytes 2 0x4F4B ++ [1] ++ leBytes 1 kind ++ leBytes 4 session ++ leBytes 8 seq ++ leBytes 4 (body.length - (if session = 0 then 0 else 16))
    ++ List.replicate 12 0 ++ body
def requestBody : List Byte := leBytes 2 1 ++ [0, 0, 1, 0] ++ leBytes 2 0x1000 ++ leBytes 4 0 ++ leBytes 4 32
def user (k : Nat) (priv : Option Nat) : Mach :=
  { standby with sessions := [{ num := k, overMailbox := false, priv := priv, hash := 0, c2s := [], s2c := [] }] }
theorem witness_SessionsAndRequests :
    (powered standby = true ∧ standby.sec.booted.getLsbD 0 = true) ∧
    (let msg := koa 1 0 7 ([4] ++ List.replicate 128 1)
     headerOk msg = true ∧ headerReserved msg = false ∧ field msg 3 1 = 1 ∧ field msg 4 4 = 0 ∧ msg.length = 161 ∧
       byteAt (msg.drop 32) 0 = 4 ∧ (helloFlood standby).1 = false ∧ standby.sec.serving.getLsbD 0 = true ∧
       (standby.sessions.filter fun y => !y.overMailbox).length < odGet standby 0x1100 6) ∧
    (∀ e ∈ [(3, 1, 164), (3, 1, 160), (8, 2, 16)], let msg := koa e.1 5 e.2.1 (List.replicate e.2.2 0)
      headerOk msg = true ∧ headerReserved msg = false ∧ field msg 3 1 = e.1 ∧ field msg 8 8 = e.2.1 ∧ field msg 4 4 = 5 ∧
        msg.length ≤ 1232 ∧ ((user 5 none).sessions.find? fun y => y.num == field msg 4 4).isSome = true) ∧
    ((user 5 none).sessions.map fun x => (x.priv, x.rxNext)) = [(none, 2)] ∧
    (headerOk (koa 5 0 9 requestBody) = true ∧ headerReserved (koa 5 0 9 requestBody) = false ∧
      ((parseRequest ((koa 5 0 9 requestBody).drop 32)).map fun l => l.map (·.op)) = some [1]) := by decide +kernel

theorem witness_ObjectsAreServed :
    (powered standby = true ∧ standby.sec.booted.getLsbD 0 = true ∧ inRecovery standby = false ∧ rightsOf standby .mailbox = some (1, false)) ∧
    (remoteObj 0x1000 = none ∧ (∃ o, findObj 0x1000 1 = .inl o ∧ o.acc ≠ 2 ∧ o.ty = 12)) ∧
    (remoteObj 0x8040 = some 1 ∧ freeTag standby = some 0 ∧ (readObject standby .mailbox 0x8040 1 0 8).1 = 0) ∧
    (∀ k ∈ [(0x3100, 5), (0x1000, 1), (0x5200, 1)], ownRow (objKey k.1 k.2) = false) ∧
    (∃ code, writeCheck standby .mailbox 0x1000 1 [1] = some code) ∧
    (writeCheck standby .mailbox 0x5200 1 [1] = none ∧ isNv 0x5200 1 = true) ∧
    (writeCheck standby .mailbox 0x3100 5 (leBytes 4 1000) = none ∧
      ∃ o, findObj 0x3100 5 = .inl o ∧ o.nv = false ∧ o.idx = 0x3100 ∧ o.sub = 5 ∧ o.acc = 1 ∧ o.len < 2 ^ 32) ∧
    (∃ o, findObj 0x5200 1 = .inl o ∧ o.idx = 0x5200 ∧ o.sub = 1) ∧
    writeCheck { standby with sessions := [tester] } (.session 5) 0x1100 10 [1] = none ∧
    (Addressed standby (stewardNode 1) 8 (msg 8 0 0x70 0x00804001 0 0) ∧ (msg 8 0 0x70 0x00804001 0 0).w1 = odWord 0 0 0x8040 1 ∧
      ∃ o, findObj 0x8040 1 = .inl o ∧ (objBytesWith standby .mailbox [] o).length ≤ 8) ∧
    (Addressed standby (stewardNode 0) 9 (msg 9 0 48 0x7F804001 0 0) ∧ (msg 9 0 48 0x7F804001 0 0).w1 = odWord 1 63 0x8040 1) ∧
    (Addressed standby (stewardNode d0.erg.val) 10 (msg 10 0 48 7 0 0) ∧ msgSource (msg 10 0 48 7 0 0) = duneNode d0) :=
  ⟨by decide +kernel, ⟨by decide, _, rfl, by decide⟩, by decide +kernel, by decide, ⟨_, rfl⟩, by decide +kernel,
    ⟨by decide +kernel, _, rfl, by decide⟩, ⟨_, rfl, by decide⟩, by decide +kernel,
    ⟨addressed (by decide), by decide, _, rfl, by decide +kernel⟩, ⟨addressed (by decide), by decide⟩, addressed (by decide), by decide⟩

/-- R394, R437: a response of 76 bytes is ready. -/
theorem test_mailbox_status :
    mailboxStatus { standby with port := { standby.port with mailboxReady := true, mailboxLength := 76 } } = 0x4C2 := by decide
/-- R393: bits [31:24] of ModuleStatus are the state code, 3 in STANDBY; a VF sees them too, and no mailbox. -/
theorem test_module_status_read :
    (bar0ReadByte standby 0 0x100B, bar0ReadByte standby 3 0x100B, bar0ReadByte standby 3 0x2008) = (3, 3, 0) := by decide +kernel

/-! ## Power, heat, faults, security, boot (R439–R536) -/

def sheeting (k : Nat) (mode : ModState) : Mach := { standby with mode := mode, sheetWriting := some k, od := [(objKey 0x6030 1, 2)] }
theorem witness_PowerComesAndGoes :
    (State.reset.m.power.pwrEn = false ∧ State.reset.m.mode = .off ∧ State.reset.m.power.feeds ≠ 0 ∧ State.reset.m.power.dead = false) ∧
    (standby.power.pwrEn = true ∧ standby.mode ≠ .off ∧ powered standby = true ∧ standby.power.feeds = 3) ∧
    (∀ b : Bool, ({ standby with power := { standby.power with feeds := if b then 1 else 2 } } : Mach).power.feeds = if b then 1 else 2) ∧
    (let m := { standby with od := [(objKey 0x4000 7, 2 ^ 12)] }
     odGet m 0x4000 7 = 0xFFF ∧ ∀ k : Fin 12, odGet m 0x4000 7 / 2 ^ k.val % 2 = 1) ∧
    (∀ d ∈ [Domain.dune d0, .hbm 31, .bundle 7, .edge 0, .edge 3], sget 0 standby.power.efuse (domainKey d) = 0) ∧
    ((getDune standby d0).power = .usable ∧ standby.job = none) ∧
    (rootState (rootIs .locked standby) ≠ .acquire ∧ standby.mode ≠ .powering) := by decide +kernel
def reading : SpotReading := ⟨2363, 640, 704⟩
theorem witness_HeatAndCoolant :
    (powered standby = true ∧ reading.spot < 2364 ∧ failsNow (getSpot standby 2363) reading = (false, false) ∧
      (reading.first - reading.second).natAbs ≤ 64) ∧
    (let m := { standby with od := [(objKey 0x4100 1, 2), (objKey 0x4100 2, 8)] }
     let a := advance m (m.power.stepAt + odGet m 0x4100 3 * 217000000)
     odGet m 0x4100 1 ≠ 0 ∧ a.power.stepBase < hottestNow a + 16 ∧ odGet a 0x4100 2 = 7) ∧
    (let m := { standby with od := [(objKey 0x4100 1, 2)], power := { standby.power with stepBase := 4000 } }
     let a := advance m (m.power.stepAt + odGet m 0x4100 3 * 217000000)
     odGet m 0x4100 1 ≠ 0 ∧ hottestNow a + 16 ≤ a.power.stepBase) ∧
    (odGet standby 0x4100 1 = 0 ∧ standby.power.powerLengthening = false ∧
      (let m := { standby with od := [(objKey 0x4100 2, 2)] }
       0 < odGet (advance m (m.power.relaxAt + odGet m 0x4100 4 * 217000000)) 0x4100 2)) ∧
    (mach.mode = .running ∧ odGet { standby with mode := .thermalHalt, od := [(objKey 0x4200 5, 4)] } 0x4200 5 = 3) ∧
    (sget 0 module0.power.hbmBand 31 < 115 ∧ module0.job.isSome = true) ∧
    (let m := setDune { standby with od := [(objKey 0x4300 3, 2), (objKey 0x4300 4, 26)] } d0 { dune0 with basking := true }
     m.mode = .standby ∧ (∃ e ∈ m.dunes, e.2.basking = true) ∧ odGet m 0x4300 3 = 1 ∧ odGet m 0x4100 1 = 0 ∧ duneIsOff m (duneKey d0) = false ∧
       (getDune m d0).tj < 16 * odGet m 0x4300 4) := by decide +kernel
def fault0 (severity : Nat) : FaultRec := ⟨0x0401, severity, 0, 0, 0, 0, 0, 0, 0⟩
def twoBooted : Mach := { standby with mode := .powering, sec := { standby.sec with booted := 7 } }
def restarting0 : Mach := { module0 with mode := .restarting, restart := some { from_ := .running, severity := 1, began := 0, ended := true } }
def provocation4 : List Byte := leBytes 32 ((4 : Nat) * 2 ^ 72 + 95 * 2 ^ 96 + 67 * 2 ^ 104)
def provocation5 : Armed := ⟨BitVec.ofNat 256 ((5 : Nat) * 2 ^ 72 + 0x401 * 2 ^ 112 + 1000 * 2 ^ 192), 1⟩
theorem witness_FaultsAndSheets :
    Addressed standby (duneNode d0) 5 (msg 5 0 0xFF 0 0 0) ∧
    (powered standby = true ∧ ∀ k ∈ [1, 2, 3], 1 ≤ (fault0 k).severity ∧ (fault0 k).code ≠ 0x0103 ∧
      overtakes standby (stewardNode 0) (faultMessage (fault0 k)) = false) ∧
    standby.restart = none ∧
    (module0.mode = .running ∧ module0.restart = none ∧ module0.restartTimes = [] ∧ 1 ≤ odGet module0 0x6000 2) ∧
    ((getDune module0 d0).frozen = false ∧ (module0.rows.map (·.1)).Nodup ∧
      (getDune (dune0is fun x => { x with frozen := true }) d0).frozen = true) ∧
    (∀ k ∈ [1, 2, 3], (sheeting k .standby).sheetWriting = some k ∧ (sheeting k .standby).mode ≠ .dumping ∧
      odGet (sheeting k .standby) 0x6030 1 = 1) ∧
    reinitCheck { standby with mode := .faulted } .mailbox [1] = none ∧
    provokeCheck { standby with sessions := [tester] } (.session 5) provocation4 = none ∧ natBits (leNat provocation4) 79 72 = 4 ∧
    armedBits provocation5 79 72 = 5 :=
  ⟨addressed (by decide), by decide +kernel⟩
set_option maxRecDepth 1000000 in
/-- A restart whose work is done and succeeds. -/
theorem witness_FaultsAndSheets_restartAnchor :
    let a := finishStepTwo restarting0
    let p := restartWork (finishRewrite a job0 (restartBeat a)) job0 (restartBeat a) []
    ((a.restart.map fun r => (r.from_, r.ended)) = some (.running, true) ∧ (a.job.map (·.id)) = some 9 ∧ restartWaits a job0 = false ∧
      multiModule a = false ∧ p.2 = false) ∧ (multiModule p.1 = false ∧ p.1.draining = false ∧ p.1.unloading = false) := by decide +kernel

theorem witness_KeysAndAttestation :
    (∀ op ∈ [1, 2], field (leBytes 1 op ++ List.replicate 111 0) 0 1 = op) ∧
    (let m := { standby with sessions := [tester], sec := { standby.sec with keys := [⟨[], 2, 0, 0⟩] } }
     checkWrite m (.session 5) 0x7100 5 [1] none none = none ∧ checkWrite m (.session 5) 0x7100 4 [1] none none = none ∧
       (∀ k ∈ [[0], [1]], rollbackCheck m (.session 5) k = none) ∧ rollbackCheck m (.session 5) [2] ≠ none ∧
       revokeCheck m (.session 5) (leBytes 8 4 ++ List.replicate 96 0) ≠ none) ∧
    checkWrite standby .mailbox 0x7030 1 (List.replicate 32 9) none none = none ∧ powered standby = true := by decide +kernel
/-- A package of 256 bytes and no body, by the header of R502. -/
def package0 (kind : Nat) : Package := ⟨asciiBytes "KE8FWPKG" ++ [BitVec.ofNat 8 kind] ++ List.replicate 247 0⟩
def firmwareCommand (op kind : Nat) : List Byte := leBytes 1 op ++ leBytes 1 kind ++ List.replicate 14 0 ++ leBytes 8 (if op = 1 then 512 else 0)
theorem witness_BootAndFirmware :
    (twoBooted.mode = .powering ∧ twoBooted.sec.booted.getLsbD 3 = false ∧ bootCopy twoBooted 3 = some (.factory, false) ∧ powered twoBooted = true) ∧
    (let m := { standby with mode := .powering }
     m.mode = .powering ∧ m.sec.booted = 15) ∧ ({ standby with mode := .selftest } : Mach).mode = .selftest ∧
    warmed { standby with mode := .selftest } = true ∧
    (∀ k ∈ [0, 1], firmwareCheck { standby with sessions := [tester] } (.session 5) (firmwareCommand 1 k) = none ∧
      field (firmwareCommand 1 k) 0 1 = 1) ∧
    (let m := { standby with sessions := [tester]
                             sec := { standby.sec with running := [(0, some .factory), (1, some .factory), (2, some .factory), (3, some .factory)] } }
     firmwareCheck m (.session 5) (firmwareCommand 2 0) = none ∧ m.sec.booted.getLsbD 0 = true) ∧
    (∀ k ∈ [0, 1], (({ standby with mode := .update, sec := { standby.sec with install := some (package0 k) } } : Mach).sec.install.map
      fun p => p.imageType) = some k) := by decide +kernel

/-! ## The other commands: results worked out from the specification -/

/-- The check value of CRC-32C (R353): the ASCII digits 1 to 9 give 0xE3069283. -/
theorem test_crc32c : crc32c (asciiBytes "123456789") = 0xE3069283 := by decide +kernel
/-- 25 °C in FLOAT32 (R432). -/
theorem test_float_object : f32Of 400 4 = 0x41C80000 := by decide +kernel
/-- S(1) of a 900 ns beat is 900 ns: 195,300 units of 1/217 ns (R225, R226). -/
theorem test_second_beat_start :
    (after { dune0is (fun x => { x with beat := none }) with job := some { job0 with lastStarted := some 1 } } [.beatStart d0]).now = 195300 := by
  decide +kernel
/-- SEGMENT_MARK waits for the mark at 400 ns (R227, R228). -/
theorem test_segment_mark : ((getDune (after module0 [.segmentMark d0]) d0).beat.map (·.segment)) = some 1 := by decide +kernel
/-- A missed SEAL at the commit check raises SEAL_MISS, 0x0201 (R244). -/
theorem test_seal_miss : ((after module0 [.commitCheck d0]).raised.map (·.code)) = [0x0201] := by decide +kernel
theorem test_stretch_of_another_beat : ((after module0 [.stretch d0 (msg 2 0 0xFF 1 0 0)]).raised.map (·.code)) = [0x0202] := by decide +kernel
theorem test_stretch_of_another_dune : ((after module0 [.stretch d0 (msg 2 0 1 1 0 0)]).raised.map (·.code)) = [] := by decide +kernel
/-- Three sync periods of 1 µs without an exchange (R217). -/
theorem test_holdover_entry : (after module0 [.holdoverEntry (.dune d0)]).now = 3 * 217000 := by decide +kernel
theorem test_dune_off_alternates : (getDune (after mach [.duneOff d0]) d0).alternates = true := by decide +kernel
/-- R110 on a BUSY site: a failed strip is repeated once; trims out of range and a failed read-back retire at once. -/
theorem test_trials :
    (let bad : StripObs := { residuals := [⟨0, 0, 2 ^ 40⟩] }
     let out : StripObs := { trims := [⟨514, 2 ^ 20, 0⟩] }
     let e := fun ts => let x := trialEnd 75 0 320 0 { complete := true } 0 ts
       (x.failed, x.unread, x.retired)
     [e [some bad, some {}], e [some bad, some bad], e [some out, some {}], e [none, none]]) =
    [(1, 0, false), (2, 0, true), (1, 0, true), (1, 1, true)] := by decide +kernel
/-- A site lost in a load is retired, and plate 0 of its row maps to the next usable site (R110, R260). -/
theorem test_load_loses_site :
    (let m := setRow { loadingNow with golden := [(0, some { valid := true })] } r0 { sites := [(0, { state := .busy, plate := some 0 })] }
     let n := (lostTrials m mem0 [⟨r0, 0, .a, none, none⟩]).foldl (loseSite mem0) m
     (n.retirement, odGet n 0x6140 8, mapRowSites n r0 1)) = ([siteKey r0 0], 1, [(1, 0)]) := by decide +kernel
/-- R547: THERM_TRIP_N stands after a low of 999,999 µs, and falls after one of 1 s. -/
theorem test_thermal_trip_cycle :
    (let m := { State.reset.m with power := { State.reset.m.power with thermTrip := true, efuse := [(5, 2)] } }
     ([999999, 1000000].map fun u => let n := after m [.pwrEnAssert u 7]
       (n.power.thermTrip, n.power.efuse, n.power.slotId, (getDune n (duneOf 5)).power, htcNow n))) =
    [(true, [(5, 2)], 7, .off, 0), (false, [], 7, .usable, 0)] := by decide +kernel
/-- R548. -/
theorem test_lamps : ([.faulted, .thermalHalt, .restarting, .draining, .off].map fun s => moduleLamp { standby with mode := s }) =
    [.amber, .red, .greenBlinking, .green, .off] := by decide +kernel
theorem test_bad_magic : (loadChecks standby { image0 with file := 0 :: header0.drop 1 } 256 false).map (·.1) = some 0x0101 := by decide +kernel
theorem test_load_in_running : (after module0 [.jobLoad .mailbox (jobCommand 1) image0]).mode = .running := by decide +kernel
theorem test_drain : (after module0 [.jobDrain .mailbox (jobCommand 2)]).mode = .draining := by decide +kernel
theorem test_slot_not_last_byte : (getFn (after module0 [.intakeSlotWrite 0 0 (List.replicate 127 1)]) 0).armed = 0 := by decide +kernel
theorem test_slot_phase : (getFn (after module0 [.intakeSlotWrite 0 127 [0]]) 0).armed = 0 ∧
    (getFn (after module0 [.intakeSlotWrite 0 127 [1]]) 0).armed = 1 := by decide +kernel
theorem test_unknown_opcode : odGet (after (serving fun x => { x with taken := [(7, descriptor 5 2)] }) [.unknownOpcode 15]) 0x6180 13 = 1 := by
  decide +kernel
/-- 2 + 4 + 8 positions take one page of 64 (R288). -/
theorem test_admit_pages : (getCtx (after (holds .queued id id) [.contextAdmit 0]) 0).pages = [0] := by decide +kernel
theorem test_bad_token : (getCtx (after (holds .queued (fun x => { x with fetching := true }) id) [.promptFetchComplete 0 [1000, 0]]) 0).state
    = .ending := by decide +kernel
theorem test_tail_beyond_head :
    odGet (after (holds .decode (fun x => { x with tailRead := true, ringRecords := 9 }) id) [.tailReadComplete 0 10]) 0x6180 13 = 1 := by
  decide +kernel
theorem test_container_magic : odGet (after { module0 with adapterWait := [(5, 96, 0)] } [.adapterContainerRead (0 :: container.drop 1)]) 0x3130 2
    = 3 := by decide +kernel
theorem test_hello_mismatch : (getBundle (after (linked fun x => { x with state := .training }) [.hello 7 (helloFrame 0x56 2)]) 7).state
    = .mismatch := by decide +kernel
theorem test_bad_frame_crc : (after (linked id) [.time 7 (timeFrame.take 31 ++ [0])]).bundles = (linked id).bundles := by decide +kernel
theorem test_event_cause_clears :
    (getFn (after (hosted fun x => { x with cause := 0xFFFF }) [.eventCauseWrite 15 1 [0xFF]]) 15).cause = 0xFF := by decide +kernel
theorem test_aperture_closed : (after (hosted id) [.bar2Read 0 4]).out = [.completion none] := by decide +kernel
theorem test_unmask_sends : (after (hosted fun x => { x with up := true, pba := 8 }) [.msixUnmask 15 3]).out = [.msix 15 3] := by decide +kernel
theorem test_describe : (after standby [.odDescribe .mailbox 0x3100 5]).out
    = [.odResult .mailbox 0 16 [4, 1, 2, 0, 1, 0, 0, 0, 4, 0, 0, 0, 0, 0, 0, 0]] := by decide +kernel
theorem test_write_of_constant : (after standby [.odWrite .mailbox 0x1000 0 [1]]).od = [] := by decide +kernel
theorem test_feed_isolated : (after standby [.feedIsolate true]).power.feeds = 1 ∧
    ((after standby [.feedIsolate true]).events.map (·.code)) = [0x8004] := by decide +kernel
/-- The hotter of the two phases and their average stand in 1/32 °C: 20 °C and 22 °C (R449). -/
theorem test_effective_spot : (getSpot (after standby [.sensorSample ⟨[reading], 5000, 4, 4, 400, 500, 60000⟩]) 2363).eff = 640 + 704 := by
  decide +kernel
/-- A stack leaves the band of 105 °C below 100 °C (R461). -/
theorem test_hbm_band : sget 0 (after module0 [.hbmStackTemperature 3 105, .hbmStackTemperature 3 100]).power.hbmBand 3 = 105 ∧
    sget 0 (after module0 [.hbmStackTemperature 3 105, .hbmStackTemperature 3 99]).power.hbmBand 3 = 95 := by decide +kernel
theorem test_hbm_hot_fault : ((after module0 [.hbmStackTemperature 31 115]).raised.map fun x => (x.code, x.erg)) = [(0x0505, 3)] := by
  decide +kernel
theorem test_module_fault_dumps : (after standby [.fault (fault0 3)]).mode = .dumping := by decide +kernel
theorem test_job_fault_restarts : (after module0 [.fault (fault0 1)]).mode = .restarting := by decide +kernel
theorem test_nonce : ((after standby [.attestNonce .mailbox (List.replicate 32 9)]).sec.evidence0.take 8) = asciiBytes "KE8EVIDN" := by
  decide +kernel
theorem test_health : (after standby [.healthTestFailure 3]).sec.serving = 7 := by decide +kernel
theorem test_boot : (after twoBooted [.bootRomCheck 3, .poweringComplete]).mode = .selftest := by decide +kernel
theorem test_sync_needs_copy_a : (after { standby with sessions := [tester] } [.firmwareSync (.session 5) (firmwareCommand 2 0)]).sec.copyB = [] := by
  decide +kernel
/-- A table of rows without bits spells no command, and the queue stays as it is. -/
theorem test_no_words : decodeTableWord 64 0 = none ∧ State.reset.withFetchWord 64 0 = State.reset := by decide +kernel

end Sys2Proof.Tests
end

/-! SUPPORT. One step of the module keeps what `Follows` names: the lemma of each command's meaning, collected over the dispatch,
then the cycle that passes on an empty queue. -/

namespace Sys2Proof.Machine

section
variable {k : Mach}

/-! ## Commands -/

/-- No command ends in a fault or a refusal: it answers a next state with the queue of the state it ran in, and a machine that
follows whatever the machine before it followed. -/
theorem exec_follows (i : Instr) (s : State) (h : Follows k s.m) :
    ∃ t, exec i s = .next t ∧ t.pending = s.pending ∧ Follows k t.m :=
  match i with
  | .add t f => execAdd_follows t f s h
  | .sub t f => execSub_follows t f s h
  | .mul t f => execMul_follows t f s h
  | .mulhs t f => execMulhs_follows t f s h
  | .mulhu t f => execMulhu_follows t f s h
  | .divs t f => execDivs_follows t f s h
  | .divu t f => execDivu_follows t f s h
  | .rems t f => execRems_follows t f s h
  | .remu t f => execRemu_follows t f s h
  | .and t f => execAnd_follows t f s h
  | .or t f => execOr_follows t f s h
  | .xor t f => execXor_follows t f s h
  | .shl t f => execShl_follows t f s h
  | .shr t f => execShr_follows t f s h
  | .sar t f => execSar_follows t f s h
  | .mins t f => execMins_follows t f s h
  | .maxs t f => execMaxs_follows t f s h
  | .popc t f => execPopc_follows t f s h
  | .clz t f => execClz_follows t f s h
  | .movh t f => execMovh_follows t f s h
  | .sel t f => execSel_follows t f s h
  | .cmpEq t f => execCmpEq_follows t f s h
  | .cmpNe t f => execCmpNe_follows t f s h
  | .cmpLts t f => execCmpLts_follows t f s h
  | .cmpLes t f => execCmpLes_follows t f s h
  | .cmpLtu t f => execCmpLtu_follows t f s h
  | .cmpLeu t f => execCmpLeu_follows t f s h
  | .plog t f => execPlog_follows t f s h
  | .vadd t f => execVadd_follows t f s h
  | .vsub t f => execVsub_follows t f s h
  | .vmul t f => execVmul_follows t f s h
  | .vfma t f => execVfma_follows t f s h
  | .vmin t f => execVmin_follows t f s h
  | .vmax t f => execVmax_follows t f s h
  | .vdiv t f => execVdiv_follows t f s h
  | .vsqrt t f => execVsqrt_follows t f s h
  | .vrcp t f => execVrcp_follows t f s h
  | .vrsq t f => execVrsq_follows t f s h
  | .vexp2 t f => execVexp2_follows t f s h
  | .vlog2 t f => execVlog2_follows t f s h
  | .vred t f => execVred_follows t f s h
  | .vrmax t f => execVrmax_follows t f s h
  | .vcmp t f => execVcmp_follows t f s h
  | .vsel t f => execVsel_follows t f s h
  | .vbcst t f => execVbcst_follows t f s h
  | .vext t f => execVext_follows t f s h
  | .vmov t f => execVmov_follows t f s h
  | .cvt t f => execCvt_follows t f s h
  | .cvtk4 t f => execCvtk4_follows t f s h
  | .dck4 t f => execDck4_follows t f s h
  | .cvtmx t f => execCvtmx_follows t f s h
  | .dcmx t f => execDcmx_follows t f s h
  | .ldU1 t f => execLdU1_follows t f s h
  | .ldU2 t f => execLdU2_follows t f s h
  | .ldU4 t f => execLdU4_follows t f s h
  | .ld8 t f => execLd8_follows t f s h
  | .ldS1 t f => execLdS1_follows t f s h
  | .ldS2 t f => execLdS2_follows t f s h
  | .ldS4 t f => execLdS4_follows t f s h
  | .st1 t f => execSt1_follows t f s h
  | .st2 t f => execSt2_follows t f s h
  | .st4 t f => execSt4_follows t f s h
  | .st8 t f => execSt8_follows t f s h
  | .ldv t f => execLdv_follows t f s h
  | .stv t f => execStv_follows t f s h
  | .wopen t f => execWopen_follows t f s h
  | .wclose t f => execWclose_follows t f s h
  | .put t f => execPut_follows t f s h
  | .qld t f => execQld_follows t f s h
  | .qst t f => execQst_follows t f s h
  | .qwait t f => execQwait_follows t f s h
  | .fire t f => execFire_follows t f s h
  | .firew t f => execFirew_follows t f s h
  | .firex t f => execFirex_follows t f s h
  | .fwait t f => execFwait_follows t f s h
  | .barl t f => execBarl_follows t f s h
  | .waittC t f => execWaittC_follows t f s h
  | .waittH t f => execWaittH_follows t f s h
  | .seal t f => execSeal_follows t f s h
  | .nop t f => execNop_follows t f s h
  | .br t f => execBr_follows t f s h
  | .jr t f => execJr_follows t f s h
  | .call t f => execCall_follows t f s h
  | .skip t f => execSkip_follows t f s h
  | .gets t f => execGets_follows t f s h
  | .abrt t f => execAbrt_follows t f s h
  | .sld t f => execSld_follows t f s h
  | .sst t f => execSst_follows t f s h
  | .evt t f => execEvt_follows t f s h
  | .stallResume t => execStallResume_follows t s h
  | .qwaitDeadline t => execQwaitDeadline_follows t s h
  | .firingEnd r upsets => execFiringEnd_follows r upsets s h
  | .putArrival id => execPutArrival_follows id s h
  | .queueTransferComplete c q e hostData how => execQueueTransferComplete_follows c q e hostData how s h
  | .stripSegmentStart r site bank => execStripSegmentStart_follows r site bank s h
  | .stripSegmentEnd r obs => execStripSegmentEnd_follows r obs s h
  | .rowWordStaged r invalid => execRowWordStaged_follows r invalid s h
  | .plateRowWrite r firstDiffers secondDiffers => execPlateRowWrite_follows r firstDiffers secondDiffers s h
  | .beatStart d => execBeatStart_follows d s h
  | .segmentMark d => execSegmentMark_follows d s h
  | .commitCheck d => execCommitCheck_follows d s h
  | .beatClose n => execBeatClose_follows n s h
  | .stretch d msg => execStretch_follows d msg s h
  | .beatChangePeriod d msg => execBeatChangePeriod_follows d msg s h
  | .beatChangePause d msg => execBeatChangePause_follows d msg s h
  | .beatChangeResume d msg => execBeatChangeResume_follows d msg s h
  | .fix d msg => execFix_follows d msg s h
  | .fallbackCheck => execFallbackCheck_follows s h
  | .hbmImbalanceWindowEnd => execHbmImbalanceWindowEnd_follows s h
  | .duneOff d => execDuneOff_follows d s h
  | .routeTableRewrite e => execRouteTableRewrite_follows e s h
  | .controlParityError link lane twice => execControlParityError_follows link lane twice s h
  | .timingPulseExchange isl offsetPs => execTimingPulseExchange_follows isl offsetPs s h
  | .islandLock isl => execIslandLock_follows isl s h
  | .holdoverEntry isl => execHoldoverEntry_follows isl s h
  | .holdoverLimit isl => execHoldoverLimit_follows isl s h
  | .jobLoad v data img => execJobLoad_follows v data img s h
  | .loadComplete trials => execLoadComplete_follows trials s h
  | .jobDrain v data => execJobDrain_follows v data s h
  | .drainComplete => execDrainComplete_follows s h
  | .jobUnload v data => execJobUnload_follows v data s h
  | .intakeSlotWrite fn offset data => execIntakeSlotWrite_follows fn offset data s h
  | .slotConsume fn => execSlotConsume_follows fn s h
  | .descriptorNop fn => execDescriptorNop_follows fn s h
  | .submit fn => execSubmit_follows fn s h
  | .cancel fn => execCancel_follows fn s h
  | .pause fn => execPause_follows fn s h
  | .resume fn => execResume_follows fn s h
  | .unknownOpcode fn => execUnknownOpcode_follows fn s h
  | .promptFetchComplete c tokens => execPromptFetchComplete_follows c tokens s h
  | .contextAdmit c => execContextAdmit_follows c s h
  | .entryListFix m => execEntryListFix_follows m s h
  | .pauseAfterExpiry c => execPauseAfterExpiry_follows c s h
  | .negativeWriteComplete c => execNegativeWriteComplete_follows c s h
  | .negativeRestoreComplete c => execNegativeRestoreComplete_follows c s h
  | .tailReadComplete c tail => execTailReadComplete_follows c tail s h
  | .stepTailReadComplete fn tail => execStepTailReadComplete_follows fn tail s h
  | .endRecordSent c => execEndRecordSent_follows c s h
  | .drainTimeout => execDrainTimeout_follows s h
  | .adapterInstall v data => execAdapterInstall_follows v data s h
  | .adapterRemove v data => execAdapterRemove_follows v data s h
  | .adapterHotCopyComplete id => execAdapterHotCopyComplete_follows id s h
  | .tokenEnvelopeWrite v data => execTokenEnvelopeWrite_follows v data s h
  | .intakeEnableWrite v fn data => execIntakeEnableWrite_follows v fn data s h
  | .replaceAbandon v data => execReplaceAbandon_follows v data s h
  | .replaceFixNow v data img => execReplaceFixNow_follows v data img s h
  | .replaceFixAfterDrain v data img => execReplaceFixAfterDrain_follows v data img s h
  | .replaceInPlace v data img => execReplaceInPlace_follows v data img s h
  | .replaceCheckComplete => execReplaceCheckComplete_follows s h
  | .latentBuildComplete => execLatentBuildComplete_follows s h
  | .replaceDrainComplete => execReplaceDrainComplete_follows s h
  | .replaceBufferComplete => execReplaceBufferComplete_follows s h
  | .inplaceRewriteComplete => execInplaceRewriteComplete_follows s h
  | .streamReadinessCheck => execStreamReadinessCheck_follows s h
  | .streamReady => execStreamReady_follows s h
  | .hello b frame => execHello_follows b frame s h
  | .data b frame => execData_follows b frame s h
  | .ack b frame => execAck_follows b frame s h
  | .time b frame => execTime_follows b frame s h
  | .ctrl b frame => execCtrl_follows b frame s h
  | .replayTimeout b cls seq => execReplayTimeout_follows b cls seq s h
  | .reorderGapTimeout b cls => execReorderGapTimeout_follows b cls s h
  | .laneDrop b lane => execLaneDrop_follows b lane s h
  | .laneRejoin b lane => execLaneRejoin_follows b lane s h
  | .slotSendStart k => execSlotSendStart_follows k s h
  | .slotDeadline k => execSlotDeadline_follows k s h
  | .loadCompleteReport index => execLoadCompleteReport_follows index s h
  | .jobStartT0 t0 => execJobStartT0_follows t0 s h
  | .rootSourceTimeout => execRootSourceTimeout_follows s h
  | .rootHoldoverLimit => execRootHoldoverLimit_follows s h
  | .ptpMessage obs => execPtpMessage_follows obs s h
  | .faultInject v data => execFaultInject_follows v data s h
  | .pcieBifurcationWrite v data => execPcieBifurcationWrite_follows v data s h
  | .stagerEnumeration dev => execStagerEnumeration_follows dev s h
  | .mailboxDoorbell value att => execMailboxDoorbell_follows value att s h
  | .eventCauseWrite fn offset data => execEventCauseWrite_follows fn offset data s h
  | .apertureBaseWrite offset data => execApertureBaseWrite_follows offset data s h
  | .windowTableWrite offset data => execWindowTableWrite_follows offset data s h
  | .htcNowRead fn high bytes => execHtcNowRead_follows fn high bytes s h
  | .bar2Read offset bytes => execBar2Read_follows offset bytes s h
  | .bar2Write offset data => execBar2Write_follows offset data s h
  | .bar0Write fn offset data => execBar0Write_follows fn offset data s h
  | .functionLevelReset fn => execFunctionLevelReset_follows fn s h
  | .vfEnableClear fn => execVfEnableClear_follows fn s h
  | .busMasterDisable fn => execBusMasterDisable_follows fn s h
  | .linkDown => execLinkDown_follows s h
  | .functionReenable fn => execFunctionReenable_follows fn s h
  | .readCompletionError r => execReadCompletionError_follows r s h
  | .completionTimeout r => execCompletionTimeout_follows r s h
  | .msixHoldoffExpiry fn vec => execMsixHoldoffExpiry_follows fn vec s h
  | .msixUnmask fn vec => execMsixUnmask_follows fn vec s h
  | .koaHello src msg => execKoaHello_follows src msg s h
  | .koaAuth src msg => execKoaAuth_follows src msg s h
  | .koaRequest src msg att => execKoaRequest_follows src msg att s h
  | .koaClose src msg => execKoaClose_follows src msg s h
  | .sessionIdleTimeout session => execSessionIdleTimeout_follows session s h
  | .authTimeout session => execAuthTimeout_follows session s h
  | .odRead v index sub offset length => execOdRead_follows v index sub offset length s h
  | .odWrite v index sub data => execOdWrite_follows v index sub data s h
  | .odDescribe v index sub => execOdDescribe_follows v index sub s h
  | .odSubscribe v mask => execOdSubscribe_follows v mask s h
  | .nvStoreComplete stored => execNvStoreComplete_follows stored s h
  | .restoreDefaults v data => execRestoreDefaults_follows v data s h
  | .odRequest e msg => execOdRequest_follows e msg s h
  | .odResponse msg => execOdResponse_follows msg s h
  | .telemetry msg => execTelemetry_follows msg s h
  | .pwrEnAssert lowUs slot => execPwrEnAssert_follows lowUs slot s h
  | .pwrEnDeassert => execPwrEnDeassert_follows s h
  | .feedsLost => execFeedsLost_follows s h
  | .feedIsolate feedB => execFeedIsolate_follows feedB s h
  | .feedRejoin feedB => execFeedRejoin_follows feedB s h
  | .converterFailure k => execConverterFailure_follows k s h
  | .efuseTrip dom => execEfuseTrip_follows dom s h
  | .sensorSample obs => execSensorSample_follows obs s h
  | .lengthenStepExpiry => execLengthenStepExpiry_follows s h
  | .lengthenRelaxExpiry => execLengthenRelaxExpiry_follows s h
  | .comparatorTrip => execComparatorTrip_follows s h
  | .flowStop => execFlowStop_follows s h
  | .edgeFieldHot => execEdgeFieldHot_follows s h
  | .hbmStackTemperature k celsius => execHbmStackTemperature_follows k celsius s h
  | .baskShortfallTimeout => execBaskShortfallTimeout_follows s h
  | .hbmScrub k hits => execHbmScrub_follows k hits s h
  | .ppsSecond => execPpsSecond_follows s h
  | .fault rec => execFault_follows rec s h
  | .freeze d msg => execFreeze_follows d msg s h
  | .restartAnchor rounds => execRestartAnchor_follows rounds s h
  | .stewardTimeout e => execStewardTimeout_follows e s h
  | .contactSheetComplete failed => execContactSheetComplete_follows failed s h
  | .reinit v data => execReinit_follows v data s h
  | .faultProvoke v data => execFaultProvoke_follows v data s h
  | .keyEnroll v data => execKeyEnroll_follows v data s h
  | .keyRemove v data => execKeyRemove_follows v data s h
  | .ownerRelease v data => execOwnerRelease_follows v data s h
  | .antiRollbackCommit v data => execAntiRollbackCommit_follows v data s h
  | .rootRevoke v data => execRootRevoke_follows v data s h
  | .attestNonce v data => execAttestNonce_follows v data s h
  | .vendorAccessWrite v data => execVendorAccessWrite_follows v data s h
  | .bootRomCheck e => execBootRomCheck_follows e s h
  | .firmwareInstall v data pkg => execFirmwareInstall_follows v data pkg s h
  | .firmwareSync v data => execFirmwareSync_follows v data s h
  | .poweringComplete => execPoweringComplete_follows s h
  | .selftestComplete failures => execSelftestComplete_follows failures s h
  | .adapterContainerRead bytes => execAdapterContainerRead_follows bytes s h
  | .firmwareWriteComplete verified => execFirmwareWriteComplete_follows verified s h
  | .provocationArmed => execProvocationArmed_follows s h
  | .controlMessageDiscard node msg => execControlMessageDiscard_follows node msg s h
  | .klProtocolError b frame => execKlProtocolError_follows b frame s h
  | .timeFrameDue b => execTimeFrameDue_follows b s h
  | .laneTrainingComplete b lane => execLaneTrainingComplete_follows b lane s h
  | .cablePresent b grounded => execCablePresent_follows b grounded s h
  | .d3hotEntry fn => execD3hotEntry_follows fn s h
  | .healthTestFailure e => execHealthTestFailure_follows e s h

/-! ## A cycle without a command (assumption 4) -/

theorem tryBefore_follows (stop : Nat) (i : Instr) (s : State) (h : Follows k s.m) :
    Follows k (tryBefore stop i s).m := by
  obtain ⟨t, he, -, ht⟩ := exec_follows i s h
  simp only [tryBefore, he]
  split
  · exact ht
  · exact h

theorem fetchThread_follows (stop : Nat) (s : State) (t : Thread) (h : Follows k s.m) :
    Follows k (fetchThread stop s t).m := by
  unfold fetchThread
  split
  case h_1 => exact tryBefore_follows _ _ _ (tryBefore_follows _ _ _ h)
  case h_2 => exact tryBefore_follows _ _ _ h
  case h_3 =>
    dsimp only
    split
    · exact tryBefore_follows _ _ _ h
    · split
      · exact issue_follows _ _ _ _ _ _ _ _ (fun _ _ _ hm => hm) h
      · exact h

theorem idle_follows (s : State) (h : Follows k s.m) : Follows k (idle s).m := by
  have hthreads : Follows k
      (s.m.threads.foldl (fun u e => fetchThread (s.m.now + cycleTu s.m) u (threadAt e.1)) s).m :=
    List.foldlRecOn (motive := fun u => Follows k u.m) _ _ h
      fun u hu e _ => fetchThread_follows _ u (threadAt e.1) hu
  exact stripTicks_follows _ (advance_follows _ _ hthreads)

end

/-! ## The step -/

/-- A step always answers a next state, and its machine follows the machine it started from. -/
theorem step_follows (s : State) (h : s.m.memoryOk) : ∃ t, step s = .next t ∧ Follows s.m t.m := by
  unfold step
  split
  case h_1 => exact ⟨_, rfl, idle_follows s (Follows.refl h)⟩
  case h_2 c rest _ =>
    obtain ⟨t, he, -, ht⟩ := exec_follows c { s with pending := rest } (Follows.refl h)
    exact ⟨t, he, ht⟩

/-- Settles O4: `step_follows` names the step's next state, so any state the step answers is that one. -/
theorem stepKeepsTheMachineFacts : Obligations.StepKeepsTheMachineFacts := by
  intro s t hs hstep
  obtain ⟨u, hu, hfollows⟩ := step_follows s hs
  obtain rfl : u = t := Host.Outcome.next.inj (hu.symm.trans hstep)
  exact hfollows

end Sys2Proof.Machine

/-! SUPPORT. The acceptance of a firing by a free row driver (R43, R57, R66, R72, R145): what reading the input and counting
leave as they were, the firing that `acceptFiring` starts, and the three plate instructions from it. -/

namespace Sys2Proof.Machine

/-! ## Reads that nothing disturbs -/

theorem eccRead_of_no_provocations {m : Mach} (h : m.provocations = []) (r : RowId) (t addr n : Nat) :
    eccRead m r t addr n = (m, false) := by
  simp [eccRead, h]

/-- A read that no outstanding QLD races sees the bytes of fabric SRAM and draws no free value. -/
theorem readSram_of_noQldRace {m : Mach} {addr n : Nat} (h : NoQldRace m addr n) :
    readSram m addr n = (readBytes m.sram addr n, m) := by
  unfold readSram
  extract_lets base racing
  have hracing : racing = [] := by
    simp only [racing, List.flatMap_eq_nil_iff, List.filterMap_eq_nil_iff]
    intro q hq e he
    split
    · next x hx =>
      cases hl : x.load
      · rfl
      · simp [h q hq e he x hx hl]
    · rfl
  rw [hracing]
  rfl

/-- How long a firing takes (R72) rests on the stepping only. -/
theorem firingLength_congr {m n : Mach} (h : n.steppingB1 = m.steppingB1) (exact wide : Bool) :
    firingLength n exact wide = firingLength m exact wide := by
  simp only [firingLength, latency, h]

/-! ## Bookkeeping: counters, messages and the record of clamped beats -/

/-- From `a` to `n` only objects, control messages, outputs and the job may have changed. -/
structure OnlyBookkeeping (a n : Mach) : Prop where
  frame : n = { a with od := n.od, ctrl := n.ctrl, out := n.out, job := n.job }

namespace OnlyBookkeeping

variable {a m n : Mach}

theorem refl (a : Mach) : OnlyBookkeeping a a := ⟨rfl⟩

theorem trans (h : OnlyBookkeeping a m) (h' : OnlyBookkeeping m n) : OnlyBookkeeping a n :=
  ⟨h'.frame.trans (by rw [h.frame])⟩

theorem ite {p : Prop} [Decidable p] (h : OnlyBookkeeping a m) (h' : OnlyBookkeeping a n) :
    OnlyBookkeeping a (if p then m else n) := by
  split
  · exact h
  · exact h'

theorem threads (h : OnlyBookkeeping a n) : n.threads = a.threads := by rw [h.frame]
theorem sram (h : OnlyBookkeeping a n) : n.sram = a.sram := by rw [h.frame]
theorem hbm (h : OnlyBookkeeping a n) : n.hbm = a.hbm := by rw [h.frame]
theorem queues (h : OnlyBookkeeping a n) : n.queues = a.queues := by rw [h.frame]
theorem steppingB1 (h : OnlyBookkeeping a n) : n.steppingB1 = a.steppingB1 := by rw [h.frame]

theorem getThread_eq (h : OnlyBookkeeping a n) (t : Thread) : getThread n t = getThread a t := by
  simp only [getThread, h.threads]

end OnlyBookkeeping

theorem count_onlyBookkeeping (m : Mach) (idx sub n : Nat) : OnlyBookkeeping m (count m idx sub n) := ⟨rfl⟩

theorem countRow_onlyBookkeeping (m : Mach) (r : RowId) (idx sub n : Nat) :
    OnlyBookkeeping m (countRow m r idx sub n) := by
  unfold countRow countDune
  have hmodule := count_onlyBookkeeping m idx sub n
  refine .ite (.refl m) ?_
  split
  · exact .ite ((hmodule.trans (count_onlyBookkeeping ..)).trans (count_onlyBookkeeping ..)) hmodule
  · exact hmodule

theorem noteClamp_onlyBookkeeping (m : Mach) (n : Nat) : OnlyBookkeeping m (noteClamp m n) := ⟨rfl⟩

theorem sendStretch_onlyBookkeeping (m : Mach) (r : RowId) (b : Beat) (a : Nat) :
    OnlyBookkeeping m (sendStretch m r b a) := ⟨rfl⟩

/-! ## The firing accepted -/

/-- The values of the 1,024 inputs at offset `input` of a row buffer (R27, R42). -/
def inputValues (m : Mach) (r : RowId) (input : Nat) : List Int :=
  (readInput (readBytes m.sram (sramOf r true input) 640)).flatMap (·.2)

/-- `fr` is a firing requested by an instruction of `kind` and accepted by row `r` of `m` in beat cycle `c` (R43, R66, R72):
the width executed stays open where the row driver may widen (R67, R68). -/
structure AcceptedFiring (m : Mach) (r : RowId) (c : Nat) (kind : FireKind) (input output : Nat) (mask : W64) (fr : Firing) :
    Prop where
  plates : fr.plates = maskPlates mask
  output : fr.output = output
  start : fr.start = c
  exact : fr.exact = (proofJob m || kind == .firex)
  forced : (proofJob m || kind == .firew) = true → fr.wide = true
  aligned : (fr.q, fr.exps) = alignInput (if fr.wide then 7 else 3) (inputValues m r input)
  last : fr.last + 1 = c + firingLength m fr.exact fr.wide

theorem firingLength_pos (m : Mach) (exact wide : Bool) : 0 < firingLength m exact wide := by
  have hsteps : 0 < 2 * (4 * (if wide then 8 else 4) * (if exact then 4 else 1)) := by
    cases exact <;> cases wide <;> decide
  exact Nat.add_pos_left hsteps _

/-- A row driver that reads its input undisturbed starts the firing asked for, and besides the row only bookkeeping changes. -/
theorem acceptFiring_starts {m : Mach} {r : RowId} {input : Nat} (hp : m.provocations = [])
    (hq : NoQldRace m (sramOf r true input) 640) (b : Beat) (c : Nat) (t : Thread) (kind : FireKind) (output : Nat)
    (mask : W64) : ∃ n w fr, acceptFiring m r b c t kind input output mask = setRow n r w ∧ OnlyBookkeeping m n ∧
      w.firing = some fr ∧ w.driverFree = fr.last + 1 ∧ AcceptedFiring m r c kind input output mask fr := by
  unfold acceptFiring
  extract_lets e v m1 w blocks classes xs ps proof exact_ forced narrow limit wanted two n dec
    wide aligned m2 m3 m4 m5 m6 m7 mc m8 len aborted m9
  have hecc : e = (m, false) := eccRead_of_no_provocations hp ..
  have hread : v = (readBytes m.sram (sramOf r true input) 640, m) := by
    simp only [v, hecc, readSram_of_noQldRace hq]
  have hm1 : m1 = m := by simp only [m1, hread]
  have hxs : xs = inputValues m r input := by simp only [xs, blocks, hread, inputValues]
  have hforced : forced = true → wide = true := fun h => by simp [wide, h]
  have haligned : aligned = alignInput (if wide then 7 else 3) xs := by
    cases hw : wide <;> simp [aligned, narrow, hw]
  have h1 : OnlyBookkeeping m m1 := by rw [hm1]; exact .refl m
  have h2 : OnlyBookkeeping m m2 := h1.trans (countRow_onlyBookkeeping ..)
  have h3 : OnlyBookkeeping m m3 := h2.trans (countRow_onlyBookkeeping ..)
  have h4 : OnlyBookkeeping m m4 := h3.trans (countRow_onlyBookkeeping ..)
  have h5 : OnlyBookkeeping m m5 := .ite (h4.trans (countRow_onlyBookkeeping ..)) h4
  have h6 : OnlyBookkeeping m m6 := .ite (h5.trans (countRow_onlyBookkeeping ..)) h5
  have h7 : OnlyBookkeeping m m7 := .ite (h6.trans (count_onlyBookkeeping ..)) h6
  have hclamp : OnlyBookkeeping m mc := .ite (h7.trans (noteClamp_onlyBookkeeping ..)) h7
  have h8 : OnlyBookkeeping m m8 := by
    unfold m8
    clear_value dec
    split
    · exact hclamp.trans (sendStretch_onlyBookkeeping ..)
    · exact hclamp
  have h9 : OnlyBookkeeping m m9 := .ite (h8.trans (countRow_onlyBookkeeping ..)) h8
  have hlen : len = firingLength m exact_ wide := firingLength_congr h8.steppingB1 ..
  have hlast : c + len - 1 + 1 = c + len := by
    have := firingLength_pos m8 exact_ wide
    omega
  rw [if_neg (by simp [hecc])]
  refine ⟨m9, _, _, rfl, h9, rfl, hlast.symm, ?_⟩
  exact {
    plates := rfl
    output := rfl
    start := rfl
    exact := by simp only [exact_, proof, hm1]
    forced := by simpa only [forced, proof, hm1] using hforced
    aligned := by rw [← hxs]; exact haligned
    last := by rw [hlast, hlen] }

/-! ## The plate instructions -/

theorem inputValues_retire (m : Mach) (t : Thread) (c : Nat) (r : RowId) (input : Nat) :
    inputValues (retire m t c) r input = inputValues m r input := rfl

theorem firingLength_retire (m : Mach) (t : Thread) (c : Nat) (exact wide : Bool) :
    firingLength (retire m t c) exact wide = firingLength m exact wide :=
  firingLength_congr rfl exact wide

/-- A free row driver accepts the plate instruction of a thread that is the first to ask for it (R61, R145). -/
theorem fireInstr_accepts {m : Mach} {op : Nat} {kind : FireKind} {t : Thread} {f : Fields} {b : Beat} {c : Nat}
    (hi : f.i = false) (hd : f.d = 0) (hmod : fieldMod f = 0)
    (h : IssuesAt m t f [srcG f.a, srcG f.b, srcG (BitVec.ofNat 5 (fieldC f))] b c) :
    let a := atCycle m b c
    let r := t.core.row
    let ts := getThread a t
    let mask := readG ts (BitVec.ofNat 5 (fieldC f))
    fireFault (getRow a r) (readG ts f.a) (readG ts f.b) mask = 0 → (getRow a r).firing = none → plateWaiters a r = [] →
    lowerCoreFires a b c t = false →
    fireInstr op kind t f m = acceptFiring (retire a t c) r b c t kind (readG ts f.a).toNat (readG ts f.b).toNat mask := by
  intro a r ts mask hcode hfree hfirst hlower
  have hlegal : (!f.i && f.d == 0 && fieldMod f == 0) = true := by simp [hi, hd, hmod]
  unfold fireInstr
  rw [issue_issues hlegal h]
  simp [a, r, ts, mask, hcode, hfree, hfirst, hlower]

/-- Settles O20: the row driver accepts the firing of each of the three instructions (`fireInstr_accepts`), and what it accepts is
the firing asked for (`acceptFiring_starts`). -/
theorem plateInstructionsFire : Obligations.PlateInstructionsFire := by
  unfold Obligations.PlateInstructionsFire
  intro s t f b c a ts r gc input xs P hi hd hmod hissue hstall hcode hfree hfirst hlower hprov hrace
  have hfires : ∀ (op : Nat) (kind : FireKind),
      P (kind == .firex) (kind == .firew) (fireInstr op kind t f s.m) := by
    intro op kind
    have hissued : fireInstr op kind t f s.m = acceptFiring (retire a t c) r b c t kind input.toNat
        (readG ts f.b).toNat (readG ts gc) := fireInstr_accepts hi hd hmod hissue hcode hfree hfirst hlower
    clear_value a
    obtain ⟨n, w, fr, hn, hkept, hfiring, hdriver, hplates, houtput, hstart, hexact, hforced, haligned, hlast⟩ :=
      acceptFiring_starts (m := retire a t c) (r := r) (input := input.toNat) hprov hrace b c t kind
        (readG ts f.b).toNat (readG ts gc)
    have hrow : getRow (setRow n r w) r = w := getRow_setRow_same ..
    have hthread : getThread (setRow n r w) t = { ts with nextIssue := c + 8, pc := ts.pc + 1 } := by
      rw [getThread_setRow, hkept.getThread_eq, getThread_retire_self]
    rw [inputValues_retire] at haligned
    rw [firingLength_retire] at hlast
    rw [hissued, hn]
    refine ⟨fr, ?firing, hplates, houtput, hstart, ?exactness, ?widened, ?proofWide, haligned, hlast, ?driverFree, ?pc, ?nextIssue,
      ?stall, ?g, hkept.sram, hkept.hbm, hkept.queues⟩
    case firing => rw [hrow, hfiring]
    case exactness => exact hexact.trans (Bool.or_comm ..)
    case widened => exact fun h => hforced (by rw [h, Bool.or_true])
    case proofWide => exact fun h => hforced (Bool.or_eq_true_iff.mpr (.inl h))
    case driverFree => rw [hrow, hdriver]
    case stall => rw [hthread, hstall]
    case pc | nextIssue | g => rw [hthread]
  exact ⟨⟨_, rfl, hfires 0x01 .fire⟩, ⟨_, rfl, hfires 0x02 .firew⟩, ⟨_, rfl, hfires 0x03 .firex⟩⟩

end Sys2Proof.Machine

/-! SUPPORT. Every thread instruction is one `issue` (R123, R129, R134), so a thread that cannot issue has no effect (R86, R124,
R130, R155, R478). -/

namespace Sys2Proof.Machine

/-! ## Every thread instruction issues (R123, R129, R134) -/

/-- A plate instruction is an `issue` of class 6. -/
theorem nextM_fireInstr_eq_issue (op : Nat) (kind : FireKind) (t : Thread) (f : Fields) (s : State) :
    ∃ legal srcs body, nextM s (fireInstr op kind t f) = .next { s with m := issue s.m t 6 op f legal srcs body } := by
  unfold fireInstr
  extract_lets gc
  exact ⟨_, _, _, rfl⟩

/-- A thread instruction is one `issue`: what differs is its class, opcode, legal encodings, sources and effect. -/
theorem exec_of_threadOf {i : Instr} {t : Thread} {f : Fields} (h : threadOf i = some (t, f)) (s : State) :
    ∃ cls op legal srcs body, exec i s = .next { s with m := issue s.m t cls op f legal srcs body } := by
  cases i
  case add | sub | mul | mulhs | mulhu | divs | divu | rems | remu | and | or | xor | shl | shr | sar | mins | maxs | popc
    | clz | movh | sel | cmpEq | cmpNe | cmpLts | cmpLes | cmpLtu | cmpLeu | plog | vadd | vsub | vmul | vfma | vmin | vmax
    | vdiv | vsqrt | vrcp | vrsq | vexp2 | vlog2 | vred | vrmax | vcmp | vsel | vbcst | vext | vmov | cvt | cvtk4 | dck4
    | cvtmx | dcmx | ldU1 | ldU2 | ldU4 | ld8 | ldS1 | ldS2 | ldS4 | st1 | st2 | st4 | st8 | ldv | stv | wopen | wclose
    | put | qld | qst | qwait | fwait | barl | waittC | waittH | nop | br | jr | call | skip
    | gets | abrt | sld | sst | evt =>
    cases h
    exact ⟨_, _, _, _, _, rfl⟩
  case fire | firew | firex =>
    cases h
    exact ⟨6, _, nextM_fireInstr_eq_issue _ _ t f s⟩
  -- SEAL, the one left: `seal` is a keyword of Lean and cannot name a case.
  next =>
    cases h
    exact ⟨_, _, _, _, _, rfl⟩
  all_goals nomatch h

/-- Settles O5: every thread instruction is an `issue`, and `issue` does nothing for a thread that cannot issue. -/
theorem silentThreadsDoNothing : Obligations.SilentThreadsDoNothing := by
  intro i t f s hthread hsilent
  obtain ⟨cls, op, legal, srcs, body, hexec⟩ := exec_of_threadOf hthread s
  rw [hexec, issue_silent hsilent]

end Sys2Proof.Machine

/-! SUPPORT. What an instruction fault changes (R86, R159, R477, R479), and the loads and stores that end in one (R144). -/

namespace Sys2Proof.Machine

/-! ## What raising a fault does (R86, R159, R477) -/

theorem count_eq (m : Mach) (idx sub n : Nat) : ∃ od, count m idx sub n = { m with od } := ⟨_, rfl⟩

theorem countDune_eq (m : Mach) (erg num idx sub n : Nat) : ∃ od, countDune m erg num idx sub n = { m with od } := by
  obtain ⟨od, hmodule⟩ := count_eq m idx sub n
  unfold countDune
  simp only [hmodule]
  split
  · exact ⟨_, rfl⟩
  · split
    · next family hi _ =>
      obtain ⟨od', hdune⟩ := count_eq { m with od } (arrayIndex family erg num) sub n
      obtain ⟨od'', herg⟩ := count_eq { m with od := od' } (arrayIndex family erg 63) sub n
      simp only [hdune, herg]
      split <;> exact ⟨_, rfl⟩
    · exact ⟨_, rfl⟩

theorem openFault_eq (m : Mach) : openFault m = { m with job := (openFault m).job } := by
  unfold openFault
  split <;> rfl

/-- The job that an open fault leaves rests on the job and the module state alone. -/
theorem openFault_job_congr {m n : Mach} (hjob : n.job = m.job) (hmode : n.mode = m.mode) :
    (openFault n).job = (openFault m).job := by
  have hruns : beatsRun n = beatsRun m := by simp only [beatsRun, hmode]
  unfold openFault
  rw [hruns]
  split
  · simp only [hjob]
  · exact hjob

theorem detailPlace_congr {m n : Mach} (h : n.fresh = m.fresh) (erg dune : Nat) :
    detailPlace n erg dune = detailPlace m erg dune := by
  simp only [detailPlace, draw, h]

theorem keepDetail_eq (m : Mach) (erg : Nat) {dune : Nat} (hdune : dune < 48) (detail : Nat) :
    keepDetail m erg dune detail = { m with
      sram := writeBytes m.sram (detailPlace m erg dune) (leBytes 8 (detail % 2 ^ 64)), fresh := m.fresh + 1 } :=
  if_pos hdune

/-- The causes 1 to 10 of R159 are job faults. -/
theorem faultSeverity_of_cause {code : Nat} (h : code ≤ 0xA) : faultSeverity code = 1 := by
  unfold faultSeverity
  rw [if_neg (by omega), if_neg (by omega)]

@[simp] theorem getRow_stopRow_same (m : Mach) (r : RowId) : getRow (stopRow m r) r = { getRow m r with stopped := true } :=
  getRow_setRow_same ..

@[simp] theorem getRow_stopRow_ne (m : Mach) {r q : RowId} (h : q ≠ r) : getRow (stopRow m r) q = getRow m q :=
  getRow_setRow_ne _ _ h

/-- The record of a job fault at the present instant (R479). -/
def jobFaultRec (m : Mach) (code erg dune row thread beat detail : Nat) : FaultRec :=
  ⟨BitVec.ofNat 16 code, 1, erg, dune, row, BitVec.ofNat 8 thread, beat, BitVec.ofNat 64 detail, htcNow m⟩

/-- A fault that a dune raises with a cause of R159 changes nothing but its record, the detail kept in the firmware scratch with
the draw of its place, the job, the counters, and the message with its output. -/
theorem raiseFault_eq (m : Mach) {code dune : Nat} (hcode : code ≤ 0xA) (hdune : dune < 48)
    (erg row thread beat detail : Nat) :
    ∃ od ctrl out, raiseFault m code erg dune row thread beat detail = { m with
      raised := m.raised ++ [jobFaultRec m code erg dune row thread beat detail]
      sram := writeBytes m.sram (detailPlace m erg dune) (leBytes 8 (detail % 2 ^ 64))
      fresh := m.fresh + 1, job := (openFault m).job, od, ctrl, out } := by
  have hue : code ≠ 0x501 := by omega
  have hbridge : code ≠ 0x502 := by omega
  unfold raiseFault
  extract_lets sev rec_ src m1 m2 m3
  have hrec : rec_ = jobFaultRec m code erg dune row thread beat detail := by
    simp only [rec_, sev, faultSeverity_of_cause hcode, jobFaultRec]
  have hm1 : m1 = { m with
      raised := m.raised ++ [rec_]
      sram := writeBytes m.sram (detailPlace m erg dune) (leBytes 8 (detail % 2 ^ 64))
      fresh := m.fresh + 1, job := (openFault m).job } := by
    have hjob : (openFault { m with raised := m.raised ++ [rec_] }).job = (openFault m).job := openFault_job_congr rfl rfl
    unfold m1
    rw [keepDetail_eq _ _ hdune, openFault_eq, hjob, detailPlace_congr (m := m) rfl]
    rfl
  obtain ⟨od, hm2⟩ : ∃ od, m2 = { m1 with od } := by
    simp only [m2, hcode, hdune, and_self, if_true]
    exact countDune_eq ..
  have hm3 : m3 = m2 := by simp only [m3, hue, hbridge, if_false]
  rw [hm3, hm2, hm1, hrec]
  exact ⟨od, _, _, rfl⟩

/-- An instruction fault has every effect that R159 names, and no other. -/
theorem instFault_faulted (m : Mach) (t : Thread) {code : Nat} (hcode : code ≤ 0xA) (word : Nat) :
    Faulted m (instFault m t code word) t code word := by
  obtain ⟨od, ctrl, out, heq⟩ := raiseFault_eq (stopRow m t.core.row) hcode t.core.row.dune.num.isLt t.core.row.dune.erg.val
    t.core.row.num.val (threadByte t) (beatOfNow m t.core.row.dune) word
  unfold instFault rowFault
  rw [heq]
  exact {
    stopped := congrArg RowState.stopped (getRow_stopRow_same m t.core.row)
    rows := fun q hq => getRow_stopRow_ne m hq
    raised := ⟨_, rfl, rfl, rfl, rfl, rfl, rfl, rfl, rfl, rfl⟩
    detail := ⟨readBytes_writeBytes .., fun x hx => readByte_writeBytes_out _ _ _ x hx⟩
    job := openFault_job_congr rfl rfl
    frame := rfl }

/-! ## Addresses that name no storage (R144) -/

section
variable {m : Mach} {t : Thread} {f : Fields} {b : Beat} {c n : Nat}

theorem loadInstr_faults {op dest : Nat} {signed legal : Bool} (hi : f.i = true) (hb : f.b = 0) (hlegal : legal = true)
    (h : IssuesAt m t f [srcG f.a] b c)
    (hnone : loadTarget t (getThread (atCycle m b c) t).privF (effAddr (getThread (atCycle m b c) t) f) n = none) :
    loadInstr op n signed dest legal t f m = instFault (atCycle m b c) t 4 (instrWord 3 op f) := by
  unfold loadInstr
  rw [issue_issues (by simp [hi, hb, hlegal]) h]
  simp only [hnone]

theorem storeInstr_faults {op src : Nat} {legal : Bool} {value : ThreadState → Nat} (hi : f.i = true) (hd : f.d = 0)
    (hlegal : legal = true) (h : IssuesAt m t f [srcG f.a, src] b c)
    (hnone : loadTarget t (getThread (atCycle m b c) t).privF (effAddr (getThread (atCycle m b c) t) f) n = none) :
    storeInstr op n src legal value t f m = instFault (atCycle m b c) t 4 (instrWord 3 op f) := by
  unfold storeInstr
  rw [issue_issues (by simp [hi, hd, hlegal]) h]
  simp only [hnone]

end

/-- Settles O15: each load and each store becomes the ADDRESS fault (`loadInstr_faults`, `storeInstr_faults`), and
`instFault_faulted` says what an instruction fault changes. -/
theorem memoryAddressFaults : Obligations.MemoryAddressFaults := by
  intro s t f b c k a F hi hnone
  have hfault : ∀ op, F op (instFault a t 4 (instrWord 3 op f)) := fun op => instFault_faulted a t (by decide) _
  refine ⟨fun hb hissue => ?_, fun hd hissue => ?_, fun hd hissue hv => ?_⟩
  · have hload : ∀ (op dest : Nat) (signed legal : Bool), legal = true → F op (loadInstr op k signed dest legal t f s.m) :=
      fun op dest signed legal hlegal => loadInstr_faults hi hb hlegal hissue hnone ▸ hfault op
    refine ⟨?_, ?_, ?_, ?_, ?_⟩
    · rintro rfl
      exact ⟨⟨_, rfl, hload 1 _ _ _ rfl⟩, ⟨_, rfl, hload 5 _ _ _ rfl⟩⟩
    · rintro rfl
      exact ⟨⟨_, rfl, hload 2 _ _ _ rfl⟩, ⟨_, rfl, hload 6 _ _ _ rfl⟩⟩
    · rintro rfl
      exact ⟨⟨_, rfl, hload 3 _ _ _ rfl⟩, ⟨_, rfl, hload 7 _ _ _ rfl⟩⟩
    · rintro rfl
      exact ⟨_, rfl, hload 4 _ _ _ rfl⟩
    · rintro rfl hv
      exact ⟨_, rfl, hload 12 _ _ _ hv⟩
  · have hstore : ∀ (op : Nat) (value : ThreadState → Nat), F op (storeInstr op k (srcG f.b) true value t f s.m) :=
      fun op value => storeInstr_faults hi hd rfl hissue hnone ▸ hfault op
    refine ⟨?_, ?_, ?_, ?_⟩
    · rintro rfl
      exact ⟨_, rfl, hstore 8 _⟩
    · rintro rfl
      exact ⟨_, rfl, hstore 9 _⟩
    · rintro rfl
      exact ⟨_, rfl, hstore 10 _⟩
    · rintro rfl
      exact ⟨_, rfl, hstore 11 _⟩
  · rintro rfl
    exact ⟨_, rfl, storeInstr_faults hi hd hv hissue hnone ▸ hfault 13⟩

end Sys2Proof.Machine

/-! SUPPORT. What moves on while time passes leaves the row drivers and HBM as they are (R57, R72), the end of a firing, and FWAIT
(R146; that FWAIT waits for the firing in progress at its issue is the model's reading, assumption 23). -/

namespace Sys2Proof.Machine

/-- From `a` to `n` HBM and the grade are as they were, the clock has not run back, and every row driver has the firing it had
and is free when it was (R57, R72). -/
structure DriversKept (a n : Mach) : Prop where
  hbm : n.hbm = a.hbm
  gradeE : n.gradeE = a.gradeE
  now : a.now ≤ n.now
  firing : ∀ q, (getRow n q).firing = (getRow a q).firing
  driverFree : ∀ q, (getRow n q).driverFree = (getRow a q).driverFree

namespace DriversKept

variable {a m n : Mach}

theorem refl (a : Mach) : DriversKept a a := ⟨rfl, rfl, Nat.le_refl _, fun _ => rfl, fun _ => rfl⟩

theorem trans (h : DriversKept a m) (h' : DriversKept m n) : DriversKept a n :=
  ⟨h'.hbm.trans h.hbm, h'.gradeE.trans h.gradeE, Nat.le_trans h.now h'.now, fun q => (h'.firing q).trans (h.firing q),
    fun q => (h'.driverFree q).trans (h.driverFree q)⟩

/-- `trans` with the later step first, so that its statement says which machine stands between. -/
theorem after (h' : DriversKept m n) (h : DriversKept a m) : DriversKept a n := h.trans h'

/-- An update of other parts of the machine. -/
theorem of_eq (hrows : n.rows = a.rows) (hhbm : n.hbm = a.hbm) (hgrade : n.gradeE = a.gradeE) (hnow : n.now = a.now) :
    DriversKept a n :=
  ⟨hhbm, hgrade, hnow ▸ Nat.le_refl _, fun q => by simp only [getRow, hrows], fun q => by simp only [getRow, hrows]⟩

theorem ite {p : Prop} [Decidable p] (h : DriversKept a m) (h' : DriversKept a n) : DriversKept a (if p then m else n) := by
  split
  · exact h
  · exact h'

theorem foldl {α : Type} {g : Mach → α → Mach} (hg : ∀ m x, DriversKept m (g m x)) (l : List α) (a : Mach) :
    DriversKept a (l.foldl g a) := by
  induction l generalizing a with
  | nil => exact .refl a
  | cons x rest ih => exact (hg a x).trans (ih _)

theorem cycleStart_eq (h : DriversKept a n) (b : Beat) (c : Nat) : cycleStart n b c = cycleStart a b c := by
  simp only [cycleStart, cycleTu, h.gradeE]

end DriversKept

/-! ## Counters, events and faults -/

theorem count_driversKept (m : Mach) (idx sub n : Nat) : DriversKept m (count m idx sub n) := .of_eq rfl rfl rfl rfl

theorem countDune_driversKept (m : Mach) (erg num idx sub n : Nat) : DriversKept m (countDune m erg num idx sub n) := by
  obtain ⟨od, h⟩ := countDune_eq m erg num idx sub n
  rw [h]
  exact .of_eq rfl rfl rfl rfl

theorem setRow_driversKept {m : Mach} {r : RowId} {w : RowState} (hfiring : w.firing = (getRow m r).firing)
    (hfree : w.driverFree = (getRow m r).driverFree) : DriversKept m (setRow m r w) where
  hbm := rfl
  gradeE := rfl
  now := Nat.le_refl _
  firing q := by
    by_cases hq : q = r
    · rw [hq, getRow_setRow_same, hfiring]
    · rw [getRow_setRow_ne m w hq]
  driverFree q := by
    by_cases hq : q = r
    · rw [hq, getRow_setRow_same, hfree]
    · rw [getRow_setRow_ne m w hq]

theorem stopRow_driversKept (m : Mach) (r : RowId) : DriversKept m (stopRow m r) := setRow_driversKept rfl rfl

theorem openFault_driversKept (m : Mach) : DriversKept m (openFault m) := by
  rw [openFault_eq]
  exact .of_eq rfl rfl rfl rfl

theorem keepDetail_driversKept (m : Mach) (erg dune detail : Nat) : DriversKept m (keepDetail m erg dune detail) := by
  unfold keepDetail
  exact .ite (.of_eq rfl rfl rfl rfl) (.refl m)

theorem sendMesh_driversKept (m : Mach) (type words dest source : Nat) (w1 w2 w3 : W32) :
    DriversKept m (sendMesh m type words dest source w1 w2 w3) := .of_eq rfl rfl rfl rfl

theorem raiseFault_driversKept (m : Mach) (code erg dune row thread beat detail : Nat) :
    DriversKept m (raiseFault m code erg dune row thread beat detail) := by
  unfold raiseFault
  extract_lets sev rec_ src m1 m2 m3
  have h0 : DriversKept m { m with raised := m.raised ++ [rec_] } := .of_eq rfl rfl rfl rfl
  have h1 : DriversKept m m1 := (h0.trans (openFault_driversKept _)).trans (keepDetail_driversKept ..)
  have h2 : DriversKept m m2 := .ite (h1.trans (countDune_driversKept ..)) h1
  have h3 : DriversKept m m3 := .ite (h2.trans (count_driversKept ..)) (.ite (h2.trans (count_driversKept ..)) h2)
  exact h3.trans (sendMesh_driversKept ..)

theorem rowFault_driversKept (m : Mach) (r : RowId) (code thread detail : Nat) :
    DriversKept m (rowFault m r code thread detail) :=
  (stopRow_driversKept m r).trans (raiseFault_driversKept ..)

theorem duneFault_driversKept (m : Mach) (d : DuneId) (code row detail : Nat) :
    DriversKept m (duneFault m d code row detail) :=
  (DriversKept.foldl (fun m k => stopRow_driversKept m ⟨d, Fin.ofNat 96 k⟩) _ m).trans (raiseFault_driversKept ..)

theorem msixGenerate_driversKept (m : Mach) (f v : Nat) : DriversKept m (msixGenerate m f v) := by
  unfold msixGenerate
  exact .ite (.refl m) (.ite (.of_eq rfl rfl rfl rfl) (.of_eq rfl rfl rfl rfl))

theorem setCauses_driversKept (m : Mach) (bits : Nat) : DriversKept m (setCauses m bits) := by
  unfold setCauses
  refine .ite (.refl m) ?_
  extract_lets m1
  have h1 : DriversKept m m1 := by
    refine .foldl (fun m f => ?_) _ m
    exact .ite (.refl m) (.after (msixGenerate_driversKept ..) (.of_eq rfl rfl rfl rfl))
  exact h1.trans (.of_eq rfl rfl rfl rfl)

theorem postEventAt_driversKept (m : Mach) (code erg dune beat value : Nat) :
    DriversKept m (postEventAt m code erg dune beat value) :=
  .after (setCauses_driversKept ..) (.after (count_driversKept ..) (.of_eq rfl rfl rfl rfl))

/-! ## What lands, and loads (R131, R168) -/

theorem raceLocal_driversKept (m : Mach) (na : Nat) (new : List Byte) (due : Nat) :
    DriversKept m (raceLocal m na new due) := by
  unfold raceLocal
  exact .ite (.of_eq rfl rfl rfl rfl) (.refl m)

theorem landOne_driversKept (m : Mach) (l : Landing) : DriversKept m (landOne m l) :=
  (raceLocal_driversKept ..).trans (.of_eq rfl rfl rfl rfl)

theorem landUpTo_driversKept (m : Mach) (t : Nat) : DriversKept m (landUpTo m t) :=
  .after (.foldl landOne_driversKept _ _) (.of_eq rfl rfl rfl rfl)

theorem land_driversKept (m : Mach) (due rank addr : Nat) (bytes : List Byte) : DriversKept m (land m due rank addr bytes) :=
  .of_eq rfl rfl rfl rfl

theorem readSram_driversKept (m : Mach) (addr n : Nat) : DriversKept m (readSram m addr n).2 := by
  unfold readSram
  exact List.foldlRecOn (motive := fun (x : List Byte × Mach) => DriversKept m x.2) _ _ (.refl m)
    fun x hx e _ => hx.trans (.of_eq rfl rfl rfl rfl)

theorem serveLoad_driversKept (m : Mach) (l : LoadReq) : DriversKept m (serveLoad m l) := by
  unfold serveLoad
  extract_lets m1 x m2 m3 k m4
  have h1 : DriversKept m m1 := landUpTo_driversKept ..
  have h2 : DriversKept m m2 := h1.trans (readSram_driversKept ..)
  have h3 : DriversKept m m3 := h2.trans (.of_eq rfl rfl rfl rfl)
  have h4 : DriversKept m m4 := h3.trans (countDune_driversKept ..)
  split
  · exact h4
  · exact h4.trans (.of_eq rfl rfl rfl rfl)

theorem settle_driversKept (m : Mach) (t : Nat) : DriversKept m (settle m t) := by
  unfold settle
  extract_lets t' due m1
  have hclock : DriversKept m { m with now := t', loads := m.loads.filter fun l => t' < l.service } :=
    ⟨rfl, rfl, Nat.le_max_left .., fun _ => rfl, fun _ => rfl⟩
  exact (hclock.trans (.foldl serveLoad_driversKept _ _)).trans (landUpTo_driversKept ..)

theorem le_settle_now (m : Mach) (t : Nat) : t ≤ (settle m t).now := by
  unfold settle
  extract_lets t' due m1
  have h1 : DriversKept { m with now := t', loads := m.loads.filter fun l => t' < l.service } m1 :=
    .foldl serveLoad_driversKept _ _
  exact Nat.le_trans (Nat.le_max_right m.now t) (h1.trans (landUpTo_driversKept ..)).now

/-! ## Bundles (R353–R361) -/

theorem emit_driversKept (m : Mach) (o : Output) : DriversKept m (emit m o) := .of_eq rfl rfl rfl rfl

theorem setBundle_driversKept (m : Mach) (b : Nat) (x : Bundle) : DriversKept m (setBundle m b x) := .of_eq rfl rfl rfl rfl

theorem frameGoes_driversKept (m : Mach) (b since lane : Nat) (w : KlWait) : DriversKept m (frameGoes m b since lane w) := by
  unfold frameGoes
  exact .after (emit_driversKept ..) (setBundle_driversKept ..)

theorem bundleSends_driversKept (b since t fuel : Nat) (m : Mach) : DriversKept m (bundleSends b since t fuel m) := by
  induction fuel generalizing m with
  | zero => exact .refl m
  | succ fuel ih =>
    unfold bundleSends
    split
    · exact .refl m
    · split
      · exact (frameGoes_driversKept ..).trans (ih _)
      · exact .refl m

theorem hellosDue_driversKept (b t fuel : Nat) (m : Mach) : DriversKept m (hellosDue b t fuel m) := by
  induction fuel generalizing m with
  | zero => exact .refl m
  | succ fuel ih =>
    unfold hellosDue
    exact .ite (.refl m) (.after (ih _) (.of_eq rfl rfl rfl rfl))

theorem bundleRun_driversKept (since t : Nat) (m : Mach) (b : Nat) : DriversKept m (bundleRun since t m b) :=
  (hellosDue_driversKept ..).trans (bundleSends_driversKept ..)

theorem linksRun_driversKept (since t : Nat) (m : Mach) : DriversKept m (linksRun since t m) :=
  .foldl (bundleRun_driversKept since t) _ m

theorem sendClass_driversKept (m : Mach) (t b c : Nat) (frame : Nat → List Byte) :
    DriversKept m (sendClass m t b c frame) :=
  .after (bundleRun_driversKept ..) (.of_eq rfl rfl rfl rfl)

theorem slotOut_driversKept (m : Mach) (t k i : Nat) (bytes : List Byte) : DriversKept m (slotOut m t k i bytes) := by
  unfold slotOut
  split
  · exact .refl m
  · exact .ite ((sendClass_driversKept ..).trans (count_driversKept ..)) (sendClass_driversKept ..)

/-! ## The fabric, cycle by cycle (R149, R195–R208) -/

theorem sendAt_driversKept (m : Mach) (t : Nat) (src dst : RowId) (p : Packet) : DriversKept m (sendAt m t src dst p) :=
  .of_eq rfl rfl rfl rfl

theorem removePacket_driversKept (m : Mach) (id : Nat) : DriversKept m (removePacket m id) := .of_eq rfl rfl rfl rfl

theorem discardAt_driversKept (m : Mach) (router id : Nat) : DriversKept m (discardAt m router id) :=
  (removePacket_driversKept m id).trans (countDune_driversKept ..)

theorem steerPacket_driversKept (m : Mach) (f : Flit) : DriversKept m (steerPacket m f) := by
  unfold steerPacket
  split
  · exact .refl m
  · next p _ =>
    extract_lets here target held
    split
    · exact .refl m
    · extract_lets d way
      refine .ite (.refl m) (.ite (.ite (discardAt_driversKept ..) (.refl m)) ?_)
      clear_value way
      cases way with
      | some l => exact .of_eq rfl rfl rfl rfl
      | none =>
        exact .ite ((removePacket_driversKept m p.id).trans (.of_eq rfl rfl rfl rfl)) (discardAt_driversKept ..)

theorem judgePacket_driversKept (m : Mach) (p : Packet) : DriversKept m (judgePacket m p) := by
  unfold judgePacket
  split
  · exact .refl m
  · exact .ite (.of_eq rfl rfl rfl rfl) (.after (rowFault_driversKept ..) (.of_eq rfl rfl rfl rfl))

theorem reachPort_driversKept (m : Mach) (u : PortUnit) : DriversKept m (reachPort m u) := by
  unfold reachPort
  split
  · exact .refl m
  · exact .ite ((countDune_driversKept ..).trans (judgePacket_driversKept ..)) (countDune_driversKept ..)

theorem scratchArrives_driversKept (m : Mach) (c : Cargo) : DriversKept m (scratchArrives m c) := by
  unfold scratchArrives
  split
  · exact .ite (.of_eq rfl rfl rfl rfl) (.refl m)
  · exact .of_eq rfl rfl rfl rfl
  · exact .refl m

theorem answerSlot_driversKept (m : Mach) (t : Nat) (p : Packet) (k : Nat) : DriversKept m (answerSlot m t p k) := by
  unfold answerSlot
  split
  · extract_lets bytes
    refine .foldl (fun m i => ?_) _ m
    exact .after (sendAt_driversKept ..) (.of_eq rfl rfl rfl rfl)
  · exact .refl m

theorem slotWritten_driversKept (m : Mach) (k n t : Nat) : DriversKept m (slotWritten m k n t) := by
  unfold slotWritten
  split
  · exact .refl m
  · split
    · exact .refl m
    · extract_lets x m1 beat late m2
      have h1 : DriversKept m m1 := .of_eq rfl rfl rfl rfl
      have h2 : DriversKept m m2 := h1.trans (count_driversKept ..)
      exact .ite h1 (.ite (h2.trans (count_driversKept ..)) h2)

theorem writeUnit_driversKept (m : Mach) (T : Nat) (u : PortUnit) : DriversKept m (writeUnit m T u) := by
  unfold writeUnit
  split
  · exact .refl m
  · next p _ =>
    extract_lets done written m1 m2
    have h1 : DriversKept m m1 := .ite (land_driversKept ..) (.refl m)
    have h2 : DriversKept m m2 := (h1.trans (removePacket_driversKept ..)).trans (scratchArrives_driversKept ..)
    refine .ite h1 ?_
    split
    · exact h2.trans (answerSlot_driversKept ..)
    · exact .ite (h2.trans (slotWritten_driversKept ..)) h2
    · exact h2

theorem portCycle_driversKept (T : Nat) (m : Mach) (row : Nat) : DriversKept m (portCycle T m row) := by
  unfold portCycle
  extract_lets m1
  have h1 : DriversKept m m1 := .foldl reachPort_driversKept _ m
  split
  · exact h1
  · exact .ite (.after (writeUnit_driversKept ..) (h1.trans (.of_eq rfl rfl rfl rfl))) h1

theorem leavePacket_driversKept (m : Mach) (t : Nat) (p : Packet) : DriversKept m (leavePacket m t p) := by
  have h1 := removePacket_driversKept m p.id
  unfold leavePacket
  split
  · exact h1.trans (slotOut_driversKept ..)
  · exact h1.trans (postEventAt_driversKept ..)
  · exact h1

theorem pushFlit_driversKept (m : Mach) (w : Want) (T cycles : Nat) : DriversKept m (pushFlit m w T cycles) := by
  unfold pushFlit
  split
  · exact .refl m
  · exact .of_eq rfl rfl rfl rfl

theorem spendInjection_driversKept (m : Mach) (a : Armed) (n : Nat) : DriversKept m (spendInjection m a n) := by
  unfold spendInjection
  extract_lets first m1 b
  have h1 : DriversKept m m1 := .ite (count_driversKept ..) (.refl m)
  exact h1.trans (.of_eq rfl rfl rfl rfl)

theorem crossBridge_driversKept (m : Mach) (erg e b cls flits target beat : Nat) :
    DriversKept m (crossBridge m erg e b cls flits target beat).1 := by
  unfold crossBridge
  split
  · exact .refl m
  · split
    · exact (spendInjection_driversKept ..).trans (raiseFault_driversKept ..)
    · extract_lets n m1
      have h1 : DriversKept m m1 := spendInjection_driversKept ..
      split
      · exact h1.trans (count_driversKept ..)
      · exact h1.trans (raiseFault_driversKept ..)

theorem sendFlit_driversKept (m : Mach) (T : Nat) (w : Want) : DriversKept m (sendFlit m T w) := by
  unfold sendFlit
  extract_lets +onlyGivenNames m1 vc m2
  have h1 : DriversKept m m1 := .ite (countDune_driversKept ..) (.refl m)
  have h2 : DriversKept m m2 := h1.trans (.of_eq rfl rfl rfl rfl)
  clear_value m2
  split
  case h_1 => exact h2.trans (pushFlit_driversKept ..)
  case h_2 => exact .after (pushFlit_driversKept ..) (h2.trans (.of_eq rfl rfl rfl rfl))
  case h_3 e b _ =>
    extract_lets router erg d m3 x
    have h3 : DriversKept m m3 := .after (countDune_driversKept ..) (h2.trans (.of_eq rfl rfl rfl rfl))
    have hx : DriversKept m x.1 := by
      unfold x
      split
      · exact h3.trans (crossBridge_driversKept ..)
      · exact h3
    exact .ite (hx.trans (pushFlit_driversKept ..)) (hx.trans (removePacket_driversKept ..))
  case h_4 => exact .ite (.ite h2 (h2.trans (leavePacket_driversKept ..))) (h2.trans (.of_eq rfl rfl rfl rfl))

theorem collide_driversKept (T link : Nat) (sent : List Nat) (m : Mach) : DriversKept m (collide T link sent m) := by
  unfold collide
  extract_lets holder waits
  clear_value waits
  cases waits with
  | none => exact .refl m
  | some w =>
    exact .after (duneFault_driversKept ..) (.after (countDune_driversKept ..) (.of_eq rfl rfl rfl rfl))

theorem sendOn_driversKept (T link n : Nat) (x : Mach × List Nat) : DriversKept x.1 (sendOn T link n x).1 := by
  induction n generalizing x with
  | zero => exact .refl _
  | succ n ih =>
    unfold sendOn
    split
    · exact .refl _
    · exact .after (ih _) (sendFlit_driversKept ..)

theorem portSends_driversKept (T : Nat) (m : Mach) (link : Nat) : DriversKept m (portSends T m link) :=
  (sendOn_driversKept T link _ (m, [])).trans (collide_driversKept ..)

theorem fabricCycle_driversKept (m : Mach) : DriversKept m (fabricCycle m) := by
  unfold fabricCycle
  extract_lets T m1 m2 m3
  have h1 : DriversKept m m1 := .after (.foldl (portCycle_driversKept T) _ _) (.of_eq rfl rfl rfl rfl)
  have h2 : DriversKept m m2 := h1.trans (.foldl (fun m (e : Nat × Flit) => steerPacket_driversKept m e.2) _ _)
  have h3 : DriversKept m m3 := h2.trans (.foldl (portSends_driversKept T) _ _)
  exact h3.trans (linksRun_driversKept ..)

theorem fabricRun_driversKept (fuel : Nat) (m : Mach) (t : Nat) : DriversKept m (fabricRun fuel m t) := by
  induction fuel generalizing m with
  | zero => exact .refl m
  | succ fuel ih =>
    unfold fabricRun
    exact .ite (.refl m) (((settle_driversKept ..).trans (fabricCycle_driversKept _)).trans (ih _))

/-- Time passing leaves the row drivers and HBM as they are. -/
theorem advance_driversKept (m : Mach) (t : Nat) : DriversKept m (advance m t) := by
  unfold advance
  extract_lets since m1
  have h1 : DriversKept m m1 := .ite (fabricRun_driversKept ..) (.refl m)
  have hlinks : DriversKept m (if since < t then linksRun since t m1 else m1) := .ite (h1.trans (linksRun_driversKept ..)) h1
  exact hlinks.trans (settle_driversKept ..)

theorem le_advance_now (m : Mach) (t : Nat) : t ≤ (advance m t).now := le_settle_now ..

/-! ## The end of a firing (R59, R60, R72, R83) -/

theorem countRow_driversKept (m : Mach) (r : RowId) (idx sub n : Nat) : DriversKept m (countRow m r idx sub n) :=
  countDune_driversKept ..

theorem plateResult_driversKept (m : Mach) (r : RowId) (fr : Firing) (ups : List CellUpset) (plate : Nat) :
    DriversKept m (plateResult m r fr ups plate).2 := by
  unfold plateResult
  split
  · exact .refl m
  · extract_lets bank c mine res m1 v
    have h1 : DriversKept m m1 := .ite (.refl m) (.of_eq rfl rfl rfl rfl)
    split
    · exact h1.trans (.of_eq rfl rfl rfl rfl)
    · exact h1

theorem plateResults_driversKept (m : Mach) (r : RowId) (fr : Firing) (ups : List CellUpset) (plates : List Nat) :
    DriversKept m (plateResults m r fr ups plates).2 := by
  induction plates generalizing m with
  | nil => exact .refl m
  | cons p rest ih => exact (plateResult_driversKept ..).trans (ih _)

theorem softVerdict_driversKept (m : Mach) (r : RowId) (plate : Nat) : DriversKept m (softVerdict m r plate) := by
  unfold softVerdict
  extract_lets m1 w
  have h1 : DriversKept m m1 := countRow_driversKept ..
  split
  · exact h1
  · have hfault (code : Nat) : DriversKept m (rowFault m1 r code 0 0) := h1.trans (rowFault_driversKept ..)
    refine .ite (hfault _) (.ite (hfault _) (.ite h1 (.ite h1 (.ite ?_ ?_))))
    · exact h1.trans (setRow_driversKept rfl rfl)
    · exact h1.trans (setRow_driversKept rfl rfl)

/-- Updates of a row that leave its driver as it is, one after another, as the marking of sites for the restart. -/
theorem foldl_keeps_driver {α : Type} (g : RowState → α → RowState)
    (hg : ∀ w x, (g w x).firing = w.firing ∧ (g w x).driverFree = w.driverFree) (l : List α) (w : RowState) :
    (l.foldl g w).firing = w.firing ∧ (l.foldl g w).driverFree = w.driverFree := by
  induction l generalizing w with
  | nil => exact ⟨rfl, rfl⟩
  | cons x rest ih => exact ⟨(ih _).1.trans (hg w x).1, (ih _).2.trans (hg w x).2⟩

theorem hardVerdicts_driversKept (m : Mach) (r : RowId) (fr : Firing) (hs : List PlateResult) :
    DriversKept m (hardVerdicts m r fr hs) := by
  unfold hardVerdicts
  split
  · exact .refl m
  · extract_lets beat m1 m2 w
    have h1 : DriversKept m m1 := countRow_driversKept ..
    have h2 : DriversKept m m2 := h1.trans (.of_eq rfl rfl rfl rfl)
    obtain ⟨hfiring, hfree⟩ : w.firing = (getRow m2 r).firing ∧ w.driverFree = (getRow m2 r).driverFree := by
      refine foldl_keeps_driver _ (fun w p => ?_) _ _
      exact ⟨rfl, rfl⟩
    exact (h2.trans (setRow_driversKept hfiring hfree)).trans (rowFault_driversKept ..)

/-- The end of a firing: the row driver has none and is free from the cycle after its last one on, which has come. -/
theorem endFiring_frees (m : Mach) (r : RowId) (b : Beat) (fr : Firing) (ups : List CellUpset) :
    let n := endFiring m r b fr ups
    (getRow n r).firing = none ∧ (getRow n r).driverFree = fr.last + 1 ∧ n.hbm = m.hbm ∧
      cycleStart m b (fr.last + 1) ≤ n.now := by
  unfold endFiring
  extract_lets m1 x m2 k m3 zeros m4 w m5 out m6 m7
  have h4 : DriversKept m m4 := by
    have h1 : DriversKept m m1 := advance_driversKept ..
    have h2 : DriversKept m m2 := h1.trans (plateResults_driversKept ..)
    have h3 : DriversKept m m3 := h2.trans (countRow_driversKept ..)
    exact .ite (h3.trans (countRow_driversKept ..)) h3
  have h6 : DriversKept m5 m6 := (land_driversKept ..).trans (advance_driversKept ..)
  have h7 : DriversKept m6 m7 := .foldl (fun m (p : PlateResult) => softVerdict_driversKept m r p.plate) _ _
  have h8 : DriversKept m6 (hardVerdicts m7 r fr (x.1.filter fun p => p.verdict == .hard)) :=
    h7.trans (hardVerdicts_driversKept ..)
  have hafter := h6.trans h8
  have hrow : getRow m5 r = { w with firing := none, driverFree := fr.last + 1 } := getRow_setRow_same ..
  have hstart : cycleStart m5 b (fr.last + 1) = cycleStart m b (fr.last + 1) := h4.cycleStart_eq b _
  refine ⟨?_, ?_, ?_, ?_⟩
  · rw [hafter.firing, hrow]
  · rw [hafter.driverFree, hrow]
  · exact hafter.hbm.trans h4.hbm
  · rw [← hstart]
    exact Nat.le_trans (le_advance_now ..) h8.now

/-- A FIRING_END of a row that runs a firing in a beat, on a dune that is not frozen, ends that firing. -/
theorem execFiringEnd_eq {s : State} {r : RowId} {fr : Firing} {b : Beat} (ups : List CellUpset)
    (hfiring : (getRow s.m r).firing = some fr) (hbeat : (getDune s.m r.dune).beat = some b)
    (hrun : (getDune s.m r.dune).frozen = false) :
    execFiringEnd r ups s = .next { s with m := endFiring s.m r b fr ups } := by
  simp [execFiringEnd, nextM, hrun, hfiring, hbeat]

/-! ## FWAIT (R146) -/

/-- An instruction that has issued and stalls its thread. -/
theorem retire_stall_waits (a : Mach) (t : Thread) (c : Nat) (st : Stall) :
    Waits a (setThread (retire a t c) t { getThread (retire a t c) t with stall := some st }) t c st where
  thread := by rw [getThread_setThread_same, getThread_retire_self]
  others u hu := by rw [getThread_setThread_ne _ _ hu, getThread_retire_ne _ _ hu]
  frame := rfl

theorem getRow_retire (m : Mach) (t : Thread) (c : Nat) (r : RowId) : getRow (retire m t c) r = getRow m r := rfl

section
variable {s : State} {t : Thread} {f : Fields} {b : Beat} {c : Nat}

theorem execFwait_waits {fr : Firing} (hlegal : legalRR f = true) (hd : f.d = 0) (ha : f.a = 0) (h : IssuesAt s.m t f [] b c)
    (hfiring : (getRow (atCycle s.m b c) t.core.row).firing = some fr) :
    Yields s (.fwait t f) fun n => Waits (atCycle s.m b c) n t c (.untilCycle (fr.last + 1) false) := by
  refine ⟨_, rfl, ?_⟩
  dsimp only
  rw [issue_issues (by simp [hlegal, hd, ha]) h]
  simp only [getRow_retire, hfiring]
  exact retire_stall_waits ..

theorem execFwait_passes (hlegal : legalRR f = true) (hd : f.d = 0) (ha : f.a = 0) (h : IssuesAt s.m t f [] b c)
    (hfree : (getRow (atCycle s.m b c) t.core.row).firing = none) :
    Yields s (.fwait t f) fun n => OnlyRetires (atCycle s.m b c) n t c := by
  refine ⟨_, rfl, ?_⟩
  dsimp only
  rw [issue_issues (by simp [hlegal, hd, ha]) h]
  simp only [getRow_retire, hfree]
  exact retire_only ..

end

/-- Settles O21: FIRING_END is `endFiring_frees`, and FWAIT waits for the firing that its row has when it issues, or only
retires. -/
theorem firingsEnd : Obligations.FiringsEnd := by
  refine ⟨fun s r ups fr b hfiring hbeat hrun => ?_, fun s t f b c hlegal hd ha hissue => ?_⟩
  · exact ⟨_, execFiringEnd_eq ups hfiring hbeat hrun, endFiring_frees ..⟩
  · exact ⟨fun fr hfiring => execFwait_waits hlegal hd ha hissue hfiring, execFwait_passes hlegal hd ha hissue⟩

end Sys2Proof.Machine

/-! SUPPORT. A control message that reaches its node (R209–R213), and the announced changes of beats that a dune keeps until
they come due (R240–R242, R342). -/

namespace Sys2Proof.Machine

/-! ## What leaves the engine as it is -/

section
variable {a m n : Mach}

theorem EngineKept.refl (a : Mach) : EngineKept a a := ⟨rfl, rfl, rfl, rfl, rfl, rfl, rfl, rfl, rfl, rfl⟩

theorem EngineKept.trans (h : EngineKept a m) (h' : EngineKept m n) : EngineKept a n where
  sram := h'.sram.trans h.sram
  hbm := h'.hbm.trans h.hbm
  threads := h'.threads.trans h.threads
  rows := h'.rows.trans h.rows
  istore := h'.istore.trans h.istore
  queues := h'.queues.trans h.queues
  packets := h'.packets.trans h.packets
  landings := h'.landings.trans h.landings
  loads := h'.loads.trans h.loads
  now := h'.now.trans h.now

theorem OnlyBookkeeping.engineKept (h : OnlyBookkeeping a n) : EngineKept a n := by
  constructor <;> rw [h.frame]

theorem setDune_engineKept (m : Mach) (d : DuneId) (x : DuneState) : EngineKept m (setDune m d x) :=
  ⟨rfl, rfl, rfl, rfl, rfl, rfl, rfl, rfl, rfl, rfl⟩

theorem ctlLanes_engineKept (m : Mach) (lanes : SMap Nat) : EngineKept m { m with ctlLanes := lanes } :=
  ⟨rfl, rfl, rfl, rfl, rfl, rfl, rfl, rfl, rfl, rfl⟩

theorem hears_onlyBookkeeping (m : Mach) (node : Nat) (x : MeshMsg) : OnlyBookkeeping m (hears m node x) := ⟨rfl⟩

theorem countDune_onlyBookkeeping (m : Mach) (erg num idx sub n : Nat) :
    OnlyBookkeeping m (countDune m erg num idx sub n) := by
  obtain ⟨od, h⟩ := countDune_eq m erg num idx sub n
  rw [h]
  exact ⟨rfl⟩

end

/-! ## A message that reaches its node (R209–R213) -/

/-- A sound message that names the node and overtakes none acts on the machine that has heard it. -/
theorem onMessage_addressed {m : Mach} {node type : Nat} {x : MeshMsg} (h : Addressed m node type x) (act : Mach → Mach) :
    onMessage m node type x act = act (hears m node x) := by
  obtain ⟨hsound, htype, hdest, hfirst⟩ := h
  simp [onMessage, hears, hsound, htype, hdest, hfirst]

section
variable (m : Mach) (node : Nat) (x : MeshMsg)

@[simp] theorem getDune_hears (d : DuneId) : getDune (hears m node x) d = getDune m d := rfl
@[simp] theorem takesChanges_hears (d : DuneId) : takesChanges (hears m node x) d = takesChanges m d := rfl
@[simp] theorem copyHtc_hears (c : HtcCopy) : copyHtc (hears m node x) c = copyHtc m c := rfl
@[simp] theorem hears_job : (hears m node x).job = m.job := rfl

end

/-! ## PERIOD and PAUSE (R240, R241) -/

section
variable {s : State} {d : DuneId} {msg : MeshMsg}

theorem mem_changes_keepChange (m : Mach) (d : DuneId) (c : BeatChange) : c ∈ (getDune (keepChange m d c) d).changes := by
  unfold keepChange
  extract_lets x
  split
  next hknown => exact List.contains_iff_mem.mp hknown
  next => simp

theorem keepChange_beat (m : Mach) (d : DuneId) (c : BeatChange) :
    (getDune (keepChange m d c) d).beat = (getDune m d).beat := by
  unfold keepChange
  extract_lets x
  split
  · rfl
  · rw [getDune_setDune_same]

theorem keepChange_engineKept (m : Mach) (d : DuneId) (c : BeatChange) : EngineKept m (keepChange m d c) := by
  unfold keepChange
  extract_lets x
  split
  · exact .refl m
  · exact setDune_engineKept ..

/-- A change for a beat that has not started in the island is in time. -/
theorem namedChange_in_time {m : Mach} {n : Nat} (h : (getDune m d).nextBeat ≤ n) (c : BeatChange) :
    namedChange m d n c = keepChange m d c := if_neg (Nat.not_lt.mpr h)

/-- A command that keeps a change of the beats once its message is heard. -/
theorem yields_keepChange {i : Instr} {c : BeatChange}
    (h : exec i s = .next { s with m := keepChange (hears s.m (duneNode d) msg) d c }) :
    Yields s i fun n => c ∈ (getDune n d).changes ∧ (getDune n d).beat = (getDune s.m d).beat ∧ EngineKept s.m n :=
  ⟨_, h, mem_changes_keepChange .., keepChange_beat ..,
    (hears_onlyBookkeeping ..).engineKept.trans (keepChange_engineKept ..)⟩

theorem execBeatChangePeriod_in_time (htakes : takesChanges s.m d = true) (hmsg : Addressed s.m (duneNode d) 3 msg)
    (hkind : msgKind msg = 0) (hlevel : natBits msg.w3.toNat 27 24 ≤ 8) (htime : (getDune s.m d).nextBeat ≤ msgLong msg) :
    execBeatChangePeriod d msg s = .next
      { s with
        m := keepChange (hears s.m (duneNode d) msg) d
          (.period (msgLong msg) (natBits msg.w3.toNat 27 24) (natBits msg.w3.toNat 23 0)) } := by
  have hkept := namedChange_in_time (m := hears s.m (duneNode d) msg) htime
  simp [execBeatChangePeriod, nextM, onMessage_addressed hmsg, htakes, hkind, hlevel, hkept]

theorem execBeatChangePause_in_time (htakes : takesChanges s.m d = true) (hmsg : Addressed s.m (duneNode d) 3 msg)
    (hkind : msgKind msg = 1) (htime : (getDune s.m d).nextBeat ≤ msgLong msg) :
    execBeatChangePause d msg s =
      .next { s with m := keepChange (hears s.m (duneNode d) msg) d (.pause (msgLong msg)) } := by
  have hkept := namedChange_in_time (m := hears s.m (duneNode d) msg) htime
  simp [execBeatChangePause, nextM, onMessage_addressed hmsg, htakes, hkind, hkept]

/-! ## RESUME (R240) -/

/-- The state of an island whose beats go on at the anchor `a`, with the first beat not started. -/
def resumedAt (x : DuneState) (a : Nat) : DuneState :=
  { x with pausedFrom := none, anchor := a, anchorBeat := x.nextBeat, changes := x.changes.filter fun c => c != .resume a }

/-- A resume changes the island's state; besides, the first island to resume is noted in the job and counted. -/
theorem applyResume_onlyBookkeeping (m : Mach) (d : DuneId) (a : Nat) :
    OnlyBookkeeping (setDune m d (resumedAt (getDune m d) a)) (applyResume m d a) := by
  unfold applyResume
  extract_lets x k first changes m1
  exact .ite ⟨rfl⟩ (.refl m1)

theorem OnlyBookkeeping.getDune_eq {a n : Mach} (h : OnlyBookkeeping a n) (d : DuneId) : getDune n d = getDune a d := by
  rw [getDune, h.frame, getDune]

theorem getDune_applyResume (m : Mach) (d : DuneId) (a : Nat) :
    getDune (applyResume m d a) d = resumedAt (getDune m d) a := by
  rw [(applyResume_onlyBookkeeping m d a).getDune_eq, getDune_setDune_same]

theorem applyResume_engineKept (m : Mach) (d : DuneId) (a : Nat) : EngineKept m (applyResume m d a) :=
  (setDune_engineKept ..).trans (applyResume_onlyBookkeeping m d a).engineKept

theorem execBeatChangeResume_paused {j : Job} (htakes : takesChanges s.m d = true)
    (hmsg : Addressed s.m (duneNode d) 3 msg) (hkind : msgKind msg = 2) (hjob : s.m.job = some j)
    (hpaused : (getDune s.m d).pausedFrom.isSome = true) (htime : copyHtc s.m (getDune s.m d).copy ≤ msgLong msg) :
    execBeatChangeResume d msg s = .next { s with m := applyResume (hears s.m (duneNode d) msg) d (msgLong msg) } := by
  simp [execBeatChangeResume, nextM, onMessage_addressed hmsg, hjob, htakes, hkind, hpaused, Nat.not_lt.mpr htime]

/-! ## FIX (R342) -/

/-- A fix kept by an island, once. -/
def keepFix (m : Mach) (d : DuneId) (f : Nat × Nat) : Mach :=
  if (getDune m d).fixes.contains f then m else setDune m d { getDune m d with fixes := (getDune m d).fixes ++ [f] }

theorem keepFix_keeps (m : Mach) (d : DuneId) (f : Nat × Nat) :
    f ∈ (getDune (keepFix m d f) d).fixes ∧ (getDune (keepFix m d f) d).changes = (getDune m d).changes ∧
      EngineKept m (keepFix m d f) := by
  unfold keepFix
  split
  next hknown => exact ⟨List.contains_iff_mem.mp hknown, rfl, .refl m⟩
  next =>
    rw [getDune_setDune_same]
    exact ⟨by simp, rfl, setDune_engineKept ..⟩

/-- Between beats no fix is late. -/
theorem execFix_between_beats (htakes : takesChanges s.m d = true) (hmsg : Addressed s.m (duneNode d) 6 msg)
    (hbeat : (getDune s.m d).beat = none) :
    execFix d msg s =
      .next { s with m := keepFix (hears s.m (duneNode d) msg) d (msgLong msg, natBits msg.w3.toNat 23 0) } := by
  simp [execFix, nextM, onMessage_addressed hmsg, keepFix, htakes, hbeat]

end

/-- Settles O32: a PERIOD and a PAUSE in time are kept (`yields_keepChange`), a RESUME of paused beats sets the new anchor
(`getDune_applyResume`), and a FIX is kept (`keepFix_keeps`). -/
theorem beatChangesAreKept : Obligations.BeatChangesAreKept := by
  intro s d msg htakes x
  have hheard : EngineKept s.m (hears s.m (duneNode d) msg) := (hears_onlyBookkeeping ..).engineKept
  refine ⟨?period, ?pause, ?resume, ?fix⟩
  case period =>
    intro hmsg hkind hlevel htime
    exact yields_keepChange (execBeatChangePeriod_in_time htakes hmsg hkind hlevel htime)
  case pause =>
    intro hmsg hkind htime
    exact yields_keepChange (execBeatChangePause_in_time htakes hmsg hkind htime)
  case resume =>
    intro hmsg hkind j hjob hpaused htime
    exact ⟨_, execBeatChangeResume_paused htakes hmsg hkind hjob hpaused htime, getDune_applyResume ..,
      hheard.trans (applyResume_engineKept ..)⟩
  case fix =>
    intro hmsg hbeat
    obtain ⟨hfix, hchanges, hkept⟩ :=
      keepFix_keeps (hears s.m (duneNode d) msg) d (msgLong msg, natBits msg.w3.toNat 23 0)
    exact ⟨_, execFix_between_beats htakes hmsg hbeat, hfix, hchanges, hheard.trans hkept⟩

end Sys2Proof.Machine

/-! SUPPORT. A dune that loses its supply outside a job (R219), new route tables (R220), and the control mesh's own errors (R211,
R213). The model's choices: an OFF dune keeps its memories (assumption 72), its neighbours switch tables at once (assumption 147), and
how the links of the control mesh are numbered (assumption 39). -/

namespace Sys2Proof.Machine

/-! ## Packets lost with a dune (R219) -/

/-- A packet of the list, as it is or sent once more. -/
def CopyOfOne (ps : List Packet) (q : Packet) : Prop := ∃ p ∈ ps, q.id = p.id ∧ q.cargo = p.cargo ∧ q.bytes = p.bytes

/-- From `a` to `n` only the traffic of the data mesh has changed, and every packet in it is a copy of one of `ps`. -/
structure OnlyTraffic (ps : List Packet) (a n : Mach) : Prop where
  frame : n = { a with packets := n.packets, flits := n.flits, holders := n.holders, arrivals := n.arrivals,
                       fabricAt := n.fabricAt }
  copies : ∀ q ∈ n.packets, CopyOfOne ps q

namespace OnlyTraffic

variable {ps : List Packet} {a m n : Mach}

theorem refl (a : Mach) : OnlyTraffic a.packets a a := ⟨rfl, fun q hq => ⟨q, hq, rfl, rfl, rfl⟩⟩

theorem step (h : OnlyTraffic ps a m)
    (hframe : n = { m with packets := n.packets, flits := n.flits, holders := n.holders, arrivals := n.arrivals,
                           fabricAt := n.fabricAt })
    (hcopies : ∀ q ∈ n.packets, CopyOfOne ps q) : OnlyTraffic ps a n :=
  ⟨hframe.trans (by rw [h.frame]), hcopies⟩

theorem remove (h : OnlyTraffic ps a m) (id : Nat) : OnlyTraffic ps a (removePacket m id) :=
  h.step rfl fun q hq => h.copies q (List.mem_filter.mp hq).1

theorem send (h : OnlyTraffic ps a m) {p : Packet} (hp : CopyOfOne ps p) (src dst : RowId) :
    OnlyTraffic ps a (sendPacket m src dst p) := by
  refine h.step rfl fun q hq => ?_
  rcases List.mem_append.mp hq with hold | hnew
  · exact h.copies q hold
  · rw [List.mem_singleton.mp hnew]
    exact hp

theorem lose (h : OnlyTraffic ps a m) {p : Packet} (hp : p ∈ ps) (k : Nat) : OnlyTraffic ps a (losePacket k m p) := by
  have hgone : OnlyTraffic ps a (removePacket m p.id) := h.remove p.id
  unfold losePacket
  extract_lets m1
  split
  · split
    · exact hgone
    · exact hgone.send (p := { p with exit := edgePort }) ⟨p, hp, rfl, rfl, rfl⟩ ..
  · exact hgone

theorem loseAll {l : List Packet} (h : OnlyTraffic ps a m) (hl : l ⊆ ps) (k : Nat) :
    OnlyTraffic ps a (l.foldl (losePacket k) m) :=
  List.foldlRecOn l (losePacket k) h fun _ hm _ hp => hm.lose (hl hp) k

theorem job (h : OnlyTraffic ps a m) : m.job = a.job := by rw [h.frame]
theorem sram (h : OnlyTraffic ps a m) : m.sram = a.sram := by rw [h.frame]
theorem hbm (h : OnlyTraffic ps a m) : m.hbm = a.hbm := by rw [h.frame]
theorem threads (h : OnlyTraffic ps a m) : m.threads = a.threads := by rw [h.frame]

theorem getDune_eq (h : OnlyTraffic ps a m) (d : DuneId) : getDune m d = getDune a d := by
  rw [getDune, h.frame, getDune]

end OnlyTraffic

/-! ## DUNE_OFF outside a job (R219) -/

/-- What a dune's loss of supply leaves: its own state, the other dunes, packets and loads on their way, memories and threads. -/
structure WentOff (a n : Mach) (d : DuneId) (p : DunePower) : Prop where
  dune : getDune n d = { getDune a d with
    power := p, time := .acquire, copy := {}, beat := none, alternates := !otherOff a d, basking := false }
  others : ∀ e, e ≠ d → getDune n e = getDune a e
  packets : ∀ q ∈ n.packets, CopyOfOne a.packets q
  loads : ∀ l ∈ n.loads, l.thread.core.row.dune ≠ d
  sram : n.sram = a.sram
  hbm : n.hbm = a.hbm
  threads : n.threads = a.threads

theorem loadLosesDune_of_no_job {m : Mach} (h : m.job = none) (k : Nat) : loadLosesDune m k = m := by
  simp [loadLosesDune, h]

theorem duneGoesOff_wentOff {m : Mach} {d : DuneId} (husable : (getDune m d).power = .usable) (hjob : m.job = none)
    (p : DunePower) : WentOff m (duneGoesOff m d p) d p := by
  unfold duneGoesOff
  extract_lets x k second m1 m2 m3 m4
  have hjob1 : m1.job = none := by
    unfold m1
    split
    · exact hjob
    · exact hjob
  have hkept : OnlyBookkeeping m m1 := .ite ⟨rfl⟩ (.refl m)
  have hlost : OnlyTraffic m.packets m2 m3 := by
    have hpackets : m2.packets = m.packets := hkept.engineKept.packets
    rw [← hpackets]
    exact (OnlyTraffic.refl m2).loseAll (fun q hq => (List.mem_filter.mp hq).1) k
  have hdunes (e : DuneId) : getDune m4 e = getDune m2 e := hlost.getDune_eq e
  rw [if_neg (not_not_intro husable), loadLosesDune_of_no_job (m := m4) (hlost.job.trans hjob1)]
  exact {
    dune := by rw [hdunes, getDune_setDune_same]
    others := fun e he => by rw [hdunes, getDune_setDune_ne m1 _ he, hkept.getDune_eq]
    packets := hlost.copies
    loads := fun l hl hd => by
      have hkey : (duneKey l.thread.core.row.dune != k) = true := (List.mem_filter.mp hl).2
      exact (bne_iff_ne.mp hkey) (congrArg duneKey hd)
    sram := hlost.sram.trans hkept.sram
    hbm := hlost.hbm.trans hkept.hbm
    threads := hlost.threads.trans hkept.threads }

theorem execDuneOff_of_no_job {s : State} (hjob : s.m.job = none) (d : DuneId) :
    execDuneOff d s = .next { s with m := duneGoesOff s.m d .off } := by
  simp [execDuneOff, nextM, hjob]

/-! ## ROUTE_TABLE_REWRITE (R220) -/

/-- The bit of one erg cleared in the tables that are out of date. -/
theorem getLsbD_clear_bit (w : BitVec 4) (e k : Fin 4) :
    (w &&& ~~~BitVec.ofNat 4 (2 ^ e.val)).getLsbD k.val = (w.getLsbD k.val && k != e) := by
  simp only [BitVec.getLsbD_and, BitVec.getLsbD_not, BitVec.getLsbD_ofNat, Nat.testBit_two_pow, k.isLt, decide_true,
    Bool.true_and]
  by_cases hk : k = e
  · simp only [hk, decide_true, Bool.not_true, bne_self_eq_false]
  · have hval : e.val ≠ k.val := fun h => hk (Fin.ext h.symm)
    simp only [hval, decide_false, Bool.not_false, bne_iff_ne.mpr hk]

/-- The machine with the erg's tables up to date, before its held packets go on. -/
def tablesRewritten (m : Mach) (e : Fin 4) : Mach :=
  { m with
    tablesStale := m.tablesStale &&& ~~~(BitVec.ofNat 4 (2 ^ e.val))
    dunes := smap {} m.dunes fun k d => if k / 48 = e.val && duneIsOff m k then { d with alternates := true } else d }

theorem ergStale_tablesRewritten (m : Mach) (e k : Fin 4) :
    ergStale (tablesRewritten m e) k.val = (ergStale m k.val && k != e) := getLsbD_clear_bit ..

theorem tablesRewritten_engineKept (m : Mach) (e : Fin 4) : EngineKept m (tablesRewritten m e) :=
  ⟨rfl, rfl, rfl, rfl, rfl, rfl, rfl, rfl, rfl, rfl⟩

theorem execRouteTableRewrite_of_none_held {s : State} {e : Fin 4} (hstale : ergStale s.m e.val = true)
    (hheld : ∀ p ∈ s.m.packets, p.held = false) :
    execRouteTableRewrite e s = .next { s with m := tablesRewritten s.m e } := by
  have hnone : s.m.packets.filter (·.held) = [] := List.filter_eq_nil_iff.mpr fun p hp => by simp [hheld p hp]
  simp [execRouteTableRewrite, nextM, hstale, hnone, tablesRewritten]

/-! ## Lanes of the control mesh (R213) -/

/-- From `a` to `n` a fault of the code has been recorded and sent; its detail may be kept in the firmware scratch (R477). -/
structure FaultRaised (a n : Mach) (code : Nat) : Prop where
  raised : ∃ x, n.raised = a.raised ++ [x] ∧ x.code = BitVec.ofNat 16 code
  frame : n = { a with raised := n.raised, sram := n.sram, fresh := n.fresh, od := n.od, ctrl := n.ctrl, out := n.out,
                       job := n.job }

theorem FaultRaised.bookkeeping {a m n : Mach} {code : Nat} (h : FaultRaised a m code) (h' : OnlyBookkeeping m n) :
    FaultRaised a n code where
  raised := by
    rw [h'.frame]
    exact h.raised
  frame := by rw [h'.frame, h.frame]

theorem raiseFault_faultRaised (m : Mach) (code erg dune row thread beat detail : Nat) :
    FaultRaised m (raiseFault m code erg dune row thread beat detail) code := by
  unfold raiseFault
  extract_lets sev rec_ src m1 m2 m3
  have h1 : FaultRaised m m1 code := by
    unfold m1 keepDetail
    rw [openFault_eq]
    split
    · exact ⟨⟨rec_, rfl, rfl⟩, rfl⟩
    · exact ⟨⟨rec_, rfl, rfl⟩, rfl⟩
  have h2 : OnlyBookkeeping m1 m2 := .ite (countDune_onlyBookkeeping ..) (.refl m1)
  have h3 : OnlyBookkeeping m1 m3 :=
    .ite (h2.trans (count_onlyBookkeeping ..)) (.ite (h2.trans (count_onlyBookkeeping ..)) h2)
  exact h1.bookkeeping (h3.trans ⟨rfl⟩)

section
variable {a n : Mach} {code : Nat} (h : FaultRaised a n code)
include h

theorem FaultRaised.threads : n.threads = a.threads := by rw [h.frame]
theorem FaultRaised.hbm : n.hbm = a.hbm := by rw [h.frame]
theorem FaultRaised.ctlLanes : n.ctlLanes = a.ctlLanes := by rw [h.frame]

end

/-- The machine once a lane of a control-mesh link has been retired, and counted. -/
def ctlLaneRetired (m : Mach) (link : Nat) (lane : Fin 2) : Mach :=
  let a := { m with ctlLanes := sset 0 m.ctlLanes link (sget 0 m.ctlLanes link + 2 ^ lane.val) }
  let node := linkNode link
  if node % 64 < 48 then countDune a (node / 64 % 4) (node % 64) 0x5101 10 1 else count a 0x5101 10 1

section
variable (m : Mach) (link : Nat) (lane : Fin 2)

theorem ctlLaneRetired_onlyBookkeeping :
    OnlyBookkeeping { m with ctlLanes := sset 0 m.ctlLanes link (sget 0 m.ctlLanes link + 2 ^ lane.val) }
      (ctlLaneRetired m link lane) :=
  .ite (countDune_onlyBookkeeping ..) (count_onlyBookkeeping ..)

theorem ctlLaneRetired_ctlLanes :
    (ctlLaneRetired m link lane).ctlLanes = sset 0 m.ctlLanes link (sget 0 m.ctlLanes link + 2 ^ lane.val) := by
  rw [(ctlLaneRetired_onlyBookkeeping ..).frame]

theorem sget_ctlLaneRetired_same :
    sget 0 (ctlLaneRetired m link lane).ctlLanes link = sget 0 m.ctlLanes link + 2 ^ lane.val := by
  rw [ctlLaneRetired_ctlLanes, sget_sset_same]

theorem sget_ctlLaneRetired_ne {k : Nat} (hk : k ≠ link) :
    sget 0 (ctlLaneRetired m link lane).ctlLanes k = sget 0 m.ctlLanes k := by
  rw [ctlLaneRetired_ctlLanes, sget_sset_ne _ _ _ hk]

theorem ctlLaneRetired_raised : (ctlLaneRetired m link lane).raised = m.raised := by
  rw [(ctlLaneRetired_onlyBookkeeping ..).frame]

theorem ctlLaneRetired_engineKept : EngineKept m (ctlLaneRetired m link lane) :=
  (ctlLanes_engineKept ..).trans (ctlLaneRetired_onlyBookkeeping m link lane).engineKept

end

/-- The fatal fault of a link that has lost both lanes. -/
def ctlLinkFault (m : Mach) (link : Nat) : Mach :=
  let node := linkNode link
  raiseFault m 0x701 (node / 64 % 4) (if node % 64 < 48 then node % 64 else 63) 127 0 (beatHere m) 0

theorem ctlLinkFault_faultRaised (m : Mach) (link : Nat) : FaultRaised m (ctlLinkFault m link) 0x701 :=
  raiseFault_faultRaised ..

section
variable {s : State} (link : Nat) (lane : Fin 2)

/-- A word that passes the second time counts as sent again (R472). -/
theorem execControlParityError_once (hpowered : powered s.m = true) :
    execControlParityError link lane false s = .next { s with m := count s.m 0x6020 8 1 } := by
  simp [execControlParityError, nextM, hpowered]

/-- A lane on which a word fails twice is retired, the second lane of a link with a fault. -/
theorem execControlParityError_twice (hpowered : powered s.m = true)
    (hlane : sget 0 s.m.ctlLanes link / 2 ^ lane.val % 2 = 0) :
    let n := ctlLaneRetired (count s.m 0x6020 8 1) link lane
    execControlParityError link lane true s =
      .next { s with m := if sget 0 s.m.ctlLanes link = 0 then n else ctlLinkFault n link } := by
  have hcounted : powered (count s.m 0x6020 8 1) = true := hpowered
  simp only [execControlParityError, nextM, hpowered, hcounted, hlane, Bool.not_true, Bool.false_eq_true, Nat.zero_ne_one,
    or_self, if_true, if_false]
  rfl

end

/-! ## CONTROL_MESSAGE_DISCARD (R211) -/

theorem execControlMessageDiscard_bad {s : State} {msg : MeshMsg} (h : msgBad msg = true) (node : BitVec 8) :
    execControlMessageDiscard node msg s = .next { s with m := countDiscard s.m node.toNat } := by
  simp [execControlMessageDiscard, nextM, h]

/-- Settles O34: a dune goes off as `duneGoesOff_wentOff` says; the tables of an erg come up to date
(`ergStale_tablesRewritten`); a lane lost is `ctlLaneRetired`, the second one with `raiseFault_faultRaised`. -/
theorem dunesGoOffAndMeshUpkeep : Obligations.DunesGoOffAndMeshUpkeep := by
  refine ⟨fun s d husable hjob => ?off, fun s => ⟨fun e hstale hheld => ?tables, fun link lane hpowered => ⟨?once, ?twice⟩,
    fun node msg hbad => ⟨_, execControlMessageDiscard_bad hbad node, rfl⟩⟩⟩
  case off =>
    have hoff : WentOff s.m (duneGoesOff s.m d .off) d .off := duneGoesOff_wentOff husable hjob .off
    refine ⟨_, execDuneOff_of_no_job hjob d, ?_, ?_, ?_, hoff.others, hoff.packets, hoff.loads, hoff.sram, hoff.hbm,
      hoff.threads⟩
    · rw [hoff.dune]
    · rw [hoff.dune]
    · rw [hoff.dune]
  case tables =>
    refine ⟨_, execRouteTableRewrite_of_none_held hstale hheld, ?_, fun k hk => ?_, tablesRewritten_engineKept ..⟩
    · simp [ergStale_tablesRewritten]
    · simp [ergStale_tablesRewritten, hk]
  case once =>
    exact ⟨_, execControlParityError_once link lane hpowered, rfl, (count_onlyBookkeeping ..).engineKept, rfl⟩
  case twice =>
    intro hlane
    let counted := count s.m 0x6020 8 1
    let retired := ctlLaneRetired counted link lane
    have hlost : sget 0 retired.ctlLanes link = sget 0 s.m.ctlLanes link + 2 ^ lane.val :=
      sget_ctlLaneRetired_same counted link lane
    have hothers : ∀ k, k ≠ link → sget 0 retired.ctlLanes k = sget 0 s.m.ctlLanes k :=
      fun _ => sget_ctlLaneRetired_ne counted link lane
    have hraised : retired.raised = s.m.raised := ctlLaneRetired_raised counted link lane
    have hkept : EngineKept s.m retired := (count_onlyBookkeeping ..).engineKept.trans (ctlLaneRetired_engineKept ..)
    have hexec : execControlParityError link lane true s =
        .next { s with m := if sget 0 s.m.ctlLanes link = 0 then retired else ctlLinkFault retired link } :=
      execControlParityError_twice link lane hpowered hlane
    by_cases hfirst : sget 0 s.m.ctlLanes link = 0
    · rw [if_pos hfirst] at hexec
      exact ⟨retired, hexec, hlost, hothers, fun _ => ⟨hkept, hraised⟩, fun hsecond => absurd hfirst hsecond⟩
    · rw [if_neg hfirst] at hexec
      have hfault : FaultRaised retired (ctlLinkFault retired link) 0x701 := ctlLinkFault_faultRaised retired link
      rw [← hfault.ctlLanes] at hlost hothers
      obtain ⟨x, hx, hcode⟩ := hfault.raised
      exact ⟨_, hexec, hlost, hothers, fun hzero => absurd hzero hfirst,
        fun _ => ⟨hfault.threads.trans hkept.threads, hfault.hbm.trans hkept.hbm, x, by rw [hx, hraised], hcode⟩⟩

end Sys2Proof.Machine

/-! SUPPORT. STRETCH (R237) and the fault with which a dune stops its rows (R207, R246); the place of the fault's detail is the
model's choice (assumptions 121 and 142). -/

namespace Sys2Proof.Machine

/-! ## A fault that a dune raises (R207, R246, R477) -/

/-- Rows of a dune stopped one after another are stopped, and a row stopped before stays so. -/
theorem stopped_foldl_stopRow (d : DuneId) (l : List Nat) (m : Mach) (q : RowId)
    (h : (getRow m q).stopped = true ∨ ∃ k ∈ l, q = ⟨d, Fin.ofNat 96 k⟩) :
    (getRow (l.foldl (fun m k => stopRow m ⟨d, Fin.ofNat 96 k⟩) m) q).stopped = true := by
  induction l generalizing m with
  | nil => simpa using h
  | cons j rest ih =>
    apply ih
    by_cases hq : q = ⟨d, Fin.ofNat 96 j⟩
    · exact .inl (by rw [hq, getRow_stopRow_same])
    · rw [getRow_stopRow_ne m hq]
      exact h.imp_right fun ⟨k, hk, hqk⟩ => ⟨k, (List.mem_cons.mp hk).resolve_left fun hkj => hq (hkj ▸ hqk), hqk⟩

theorem foldl_stopRow_eq (d : DuneId) (l : List Nat) (m : Mach) :
    ∃ rows, l.foldl (fun m k => stopRow m ⟨d, Fin.ofNat 96 k⟩) m = { m with rows } := by
  induction l generalizing m with
  | nil => exact ⟨_, rfl⟩
  | cons j rest ih =>
    obtain ⟨rows, h⟩ := ih (stopRow m ⟨d, Fin.ofNat 96 j⟩)
    exact ⟨rows, h⟩

/-- The detail of a fault that a dune raises is stored at its place. -/
theorem raiseFault_sram (m : Mach) (code erg : Nat) {dune : Nat} (hdune : dune < 48) (row thread beat detail : Nat) :
    (raiseFault m code erg dune row thread beat detail).sram =
      writeBytes m.sram (detailPlace m erg dune) (leBytes 8 (detail % 2 ^ 64)) := by
  unfold raiseFault
  extract_lets sev rec_ src m1 m2 m3
  have h1 : m1.sram = writeBytes m.sram (detailPlace m erg dune) (leBytes 8 (detail % 2 ^ 64)) := by
    unfold m1
    rw [keepDetail_eq _ _ hdune, openFault_eq, detailPlace_congr (m := m) rfl]
    rfl
  have h2 : OnlyBookkeeping m1 m2 := .ite (countDune_onlyBookkeeping ..) (.refl m1)
  have h3 : OnlyBookkeeping m1 m3 :=
    .ite (h2.trans (count_onlyBookkeeping ..)) (.ite (h2.trans (count_onlyBookkeeping ..)) h2)
  exact h3.sram.trans h1

/-- From `a` to `n` the dune has raised a fault of the code: all its rows have stopped, one fault is recorded, the detail stands
at its place in the firmware scratch, and no thread has changed. -/
structure DuneFaulted (a n : Mach) (d : DuneId) (code detail : Nat) : Prop where
  stopped : ∀ k : Fin 96, (getRow n ⟨d, k⟩).stopped = true
  raised : ∃ f, n.raised = a.raised ++ [f] ∧ f.code = BitVec.ofNat 16 code
  threads : n.threads = a.threads
  detail : Stored a n (detailPlace a d.erg.val d.num.val) (leBytes 8 (detail % 2 ^ 64))

theorem duneFault_duneFaulted (m : Mach) (d : DuneId) (code row detail : Nat) :
    DuneFaulted m (duneFault m d code row detail) d code detail := by
  unfold duneFault
  extract_lets m1
  obtain ⟨rows, hm1⟩ : ∃ rows, m1 = { m with rows } := foldl_stopRow_eq d _ m
  have hfault : FaultRaised m1 _ code :=
    raiseFault_faultRaised m1 code d.erg.val d.num.val row 0 (beatOfNow m1 d) detail
  have hsram := raiseFault_sram m1 code d.erg.val d.num.isLt row 0 (beatOfNow m1 d) detail
  have hrows (q : RowId) : getRow (raiseFault m1 code d.erg.val d.num.val row 0 (beatOfNow m1 d) detail) q = getRow m1 q := by
    rw [getRow, hfault.frame, getRow]
  have hstopped (k : Fin 96) : (getRow m1 ⟨d, k⟩).stopped = true :=
    stopped_foldl_stopRow d _ m ⟨d, k⟩ (.inr ⟨k.val, List.mem_range.mpr k.isLt, by simp⟩)
  have hplace : detailPlace m1 d.erg.val d.num.val = detailPlace m d.erg.val d.num.val := detailPlace_congr (by rw [hm1]) ..
  have hold : m1.sram = m.sram := by rw [hm1]
  rw [hplace, hold] at hsram
  exact {
    stopped := fun k => by rw [hrows, hstopped]
    raised := by
      have hlog : m1.raised = m.raised := by rw [hm1]
      rw [← hlog]
      exact hfault.raised
    threads := hfault.threads.trans (by rw [hm1])
    detail := {
      written := by rw [hsram]; exact readBytes_writeBytes ..
      others := fun x hx => by rw [hsram]; exact readByte_writeBytes_out _ _ _ x hx } }

/-! ## A stretch (R237) -/

/-- The state of an island whose beat `b` has been stretched at segment `k` by `p`: the next beat starts a period and `p` after
it. -/
def stretchedAt (x : DuneState) (b : Beat) (k p : Nat) : DuneState :=
  { x with beat := some { b with stretched := some k }, anchor := beatInstant x b.n + x.period + p, anchorBeat := b.n + 1 }

/-- A stretch changes the island's state; besides, the first island to stretch the beat is counted. -/
theorem stretchBeat_onlyBookkeeping (m : Mach) (d : DuneId) (x : DuneState) (b : Beat) (k : Nat) :
    OnlyBookkeeping (setDune m d (stretchedAt x b k (basePeriod m))) (stretchBeat m d x b k) := by
  unfold stretchBeat
  extract_lets first m1
  exact .ite (count_onlyBookkeeping ..) (.refl m1)

section
variable (m : Mach) (d : DuneId) (x : DuneState) (b : Beat) (k : Nat)

theorem getDune_stretchBeat_same : getDune (stretchBeat m d x b k) d = stretchedAt x b k (basePeriod m) := by
  rw [(stretchBeat_onlyBookkeeping ..).getDune_eq, getDune_setDune_same]

theorem getDune_stretchBeat_ne {e : DuneId} (he : e ≠ d) : getDune (stretchBeat m d x b k) e = getDune m e := by
  rw [(stretchBeat_onlyBookkeeping ..).getDune_eq, getDune_setDune_ne m _ he]

theorem stretchBeat_engineKept : EngineKept m (stretchBeat m d x b k) :=
  (setDune_engineKept ..).trans (stretchBeat_onlyBookkeeping ..).engineKept

end

/-! ## STRETCH received (R237, R246) -/

section
variable (m : Mach) (node : Nat) (x : MeshMsg)

@[simp] theorem isJobDune_hears (d : DuneId) : isJobDune (hears m node x) d = isJobDune m d := rfl
@[simp] theorem beatsRun_hears : beatsRun (hears m node x) = beatsRun m := rfl
@[simp] theorem cycleStart_hears (b : Beat) (c : Nat) : cycleStart (hears m node x) b c = cycleStart m b c := rfl
@[simp] theorem markCycle_hears (k : Nat) : markCycle (hears m node x) k = markCycle m k := rfl
@[simp] theorem hears_now : (hears m node x).now = m.now := rfl

end

/-- The island runs beat `b` of the job and acts on the STRETCH that has reached it. -/
structure TakesStretch (m : Mach) (d : DuneId) (msg : MeshMsg) (b : Beat) : Prop where
  addressed : Addressed m (duneNode d) 2 msg
  inJob : isJobDune m d = true
  runs : (getDune m d).frozen = false
  usable : (getDune m d).power = .usable
  beats : beatsRun m = true
  beat : (getDune m d).beat = some b

section
variable {s : State} {d : DuneId} {msg : MeshMsg} {b : Beat} (h : TakesStretch s.m d msg b)
include h

/-- A STRETCH of the beat that the island runs, not stretched yet, at a segment that is not over. -/
theorem execStretch_in_time {k : Nat} (hk : msg.w2.toNat / 2 ^ 28 = k) (hn : b.n % 2 ^ 32 = msg.w1.toNat)
    (hfirst : b.stretched = none) (hsegment : b.segment ≤ k) (htime : s.m.now ≤ cycleStart s.m b (markCycle s.m k)) :
    execStretch d msg s = .next { s with m := stretchBeat (hears s.m (duneNode d) msg) d (getDune s.m d) b k } := by
  simp [-Nat.reducePow, execStretch, nextM, onMessage_addressed h.addressed, h.inJob, h.runs, h.usable, h.beats, h.beat, hk, hn,
    hfirst, Nat.not_lt.mpr hsegment, Nat.not_lt.mpr htime]

/-- A STRETCH that names another beat. -/
theorem execStretch_diverges (hn : b.n % 2 ^ 32 ≠ msg.w1.toNat) :
    execStretch d msg s = .next { s with m := duneFault (hears s.m (duneNode d) msg) d 0x202 127 0 } := by
  simp [-Nat.reducePow, execStretch, nextM, onMessage_addressed h.addressed, h.inJob, h.runs, h.usable, h.beats, h.beat, hn]

end

/-- Settles O31: a STRETCH in time is `stretchBeat`, which moves the anchor (`getDune_stretchBeat_same`); one that names another
beat is a fault of the dune (`duneFault_duneFaulted`). -/
theorem stretchMovesTheAnchor : Obligations.StretchMovesTheAnchor := by
  intro s d msg b hmsg hjob hruns husable hbeats hbeat k x
  have htakes : TakesStretch s.m d msg b := ⟨hmsg, hjob, hruns, husable, hbeats, hbeat⟩
  refine ⟨fun hn hfirst hsegment htime => ?stretched, fun hn => ?diverges⟩
  case stretched =>
    exact ⟨_, execStretch_in_time htakes rfl hn hfirst hsegment htime, getDune_stretchBeat_same ..,
      fun e he => getDune_stretchBeat_ne _ d x b k he,
      (hears_onlyBookkeeping ..).engineKept.trans (stretchBeat_engineKept ..)⟩
  case diverges =>
    obtain ⟨hstopped, hraised, hthreads, hwritten, hothers⟩ :=
      duneFault_duneFaulted (hears s.m (duneNode d) msg) d 0x202 127 0
    exact ⟨_, execStretch_diverges htakes hn, hstopped, hraised, hthreads, hwritten, hothers⟩

end Sys2Proof.Machine

/-! SUPPORT. DRAIN (R529) and the pause by which a job unloads (R240, R241, R530): what ending requests, posting events and
announcing leave as they were. That the pause is announced for the first beat that can still be announced is the model's choice
(assumption 35). -/

namespace Sys2Proof.Machine

/-! ## Effects on the host's side: records, ends of requests, events (R312–R323, R491) -/

/-- From `a` to `n` only objects, events, functions, contexts with their chains and the energy ledger, sessions and outputs may
have changed. -/
structure OnlyHostSide (a n : Mach) : Prop where
  frame : n = { a with od := n.od, events := n.events, fns := n.fns, ctxs := n.ctxs, chains := n.chains, ledger := n.ledger,
                       sessions := n.sessions, out := n.out }

namespace OnlyHostSide

variable {a m n : Mach}

theorem refl (a : Mach) : OnlyHostSide a a := ⟨rfl⟩

theorem trans (h : OnlyHostSide a m) (h' : OnlyHostSide m n) : OnlyHostSide a n := ⟨h'.frame.trans (by rw [h.frame])⟩

/-- `trans` with the later step first, so that its statement says which machine stands between. -/
theorem after (h' : OnlyHostSide m n) (h : OnlyHostSide a m) : OnlyHostSide a n := h.trans h'

theorem ite {p : Prop} [Decidable p] (h : OnlyHostSide a m) (h' : OnlyHostSide a n) : OnlyHostSide a (if p then m else n) := by
  split
  · exact h
  · exact h'

theorem foldl {α : Type} {g : Mach → α → Mach} (hg : ∀ m x, OnlyHostSide m (g m x)) (l : List α) (a : Mach) :
    OnlyHostSide a (l.foldl g a) :=
  List.foldlRecOn l g (.refl a) fun m hm x _ => hm.trans (hg m x)

theorem engineKept (h : OnlyHostSide a n) : EngineKept a n := by constructor <;> rw [h.frame]

theorem mode (h : OnlyHostSide a n) : n.mode = a.mode := by rw [h.frame]
theorem draining (h : OnlyHostSide a n) : n.draining = a.draining := by rw [h.frame]
theorem drainSince (h : OnlyHostSide a n) : n.drainSince = a.drainSince := by rw [h.frame]

end OnlyHostSide

theorem emit_onlyHostSide (m : Mach) (o : Output) : OnlyHostSide m (emit m o) := ⟨rfl⟩

theorem count_onlyHostSide (m : Mach) (idx sub n : Nat) : OnlyHostSide m (count m idx sub n) := ⟨rfl⟩

theorem events_onlyHostSide (m : Mach) (es : List Event) : OnlyHostSide m { m with events := es } := ⟨rfl⟩

theorem odSet_onlyHostSide (m : Mach) (idx sub v : Nat) : OnlyHostSide m (odSet m idx sub v) := ⟨rfl⟩

theorem setFn_onlyHostSide (m : Mach) (f : Nat) (v : Fn) : OnlyHostSide m (setFn m f v) := ⟨rfl⟩

theorem setCtx_onlyHostSide (m : Mach) (c : Nat) (v : Context) : OnlyHostSide m (setCtx m c v) := ⟨rfl⟩

theorem hostWrite_onlyHostSide (m : Mach) (fn addr : Nat) (bytes : List Byte) : OnlyHostSide m (hostWrite m fn addr bytes) := by
  unfold hostWrite
  exact .ite (.refl m) (.foldl (fun m _ => emit_onlyHostSide m _) _ m)

theorem hostRead_onlyHostSide (m : Mach) (fn addr n : Nat) : OnlyHostSide m (hostRead m fn addr n) :=
  .foldl (fun m _ => emit_onlyHostSide m _) _ m

/-! ### Interrupts and events (R393, R401, R491) -/

theorem msixGenerate_onlyHostSide (m : Mach) (f v : Nat) : OnlyHostSide m (msixGenerate m f v) := by
  unfold msixGenerate
  exact .ite (.refl m) (.ite (setFn_onlyHostSide ..) (emit_onlyHostSide ..))

theorem msixHeld_onlyHostSide (m : Mach) (f v : Nat) : OnlyHostSide m (msixHeld m f v) := by
  unfold msixHeld
  exact .ite (setFn_onlyHostSide ..) (.after (msixGenerate_onlyHostSide ..) (setFn_onlyHostSide ..))

theorem setCauses_onlyHostSide (m : Mach) (bits : Nat) : OnlyHostSide m (setCauses m bits) := by
  unfold setCauses
  refine .ite (.refl m) ?_
  extract_lets m1
  have h1 : OnlyHostSide m m1 :=
    .foldl (fun m f => .ite (.refl m) (.after (msixGenerate_onlyHostSide ..) (setFn_onlyHostSide ..))) _ m
  exact h1.trans ⟨rfl⟩

theorem postEventAt_onlyHostSide (m : Mach) (code erg dune beat value : Nat) :
    OnlyHostSide m (postEventAt m code erg dune beat value) := by
  unfold postEventAt
  extract_lets e log
  exact ((events_onlyHostSide m _).trans (count_onlyHostSide ..)).trans (setCauses_onlyHostSide ..)

/-! ### Records on their way out (R315–R318, R554) -/

theorem flushOne_onlyHostSide {m n : Mach} {c : Nat} (h : flushOne m c = some n) : OnlyHostSide m n := by
  unfold flushOne at h
  extract_lets x at h
  split at h
  next d b r rest _ _ =>
    split at h
    · cases h
    · split at h
      · split at h
        · cases h
        · cases h
          exact (setFn_onlyHostSide ..).trans (setCtx_onlyHostSide ..)
      · split at h
        · cases h
          exact ((hostWrite_onlyHostSide ..).trans (count_onlyHostSide ..)).trans (setCtx_onlyHostSide ..)
        · cases h
  next => cases h

theorem flushLoop_onlyHostSide (fuel : Nat) (m : Mach) (c : Nat) : OnlyHostSide m (flushLoop fuel m c) := by
  induction fuel generalizing m with
  | zero => exact .refl m
  | succ fuel ih =>
    unfold flushLoop
    split
    next n hn => exact (flushOne_onlyHostSide hn).trans (ih n)
    next => exact .refl m

theorem pollTail_onlyHostSide (m : Mach) (c : Nat) : OnlyHostSide m (pollTail m c) := by
  unfold pollTail
  extract_lets x
  split
  · exact .refl m
  · exact .ite (.refl m) (.after (hostRead_onlyHostSide ..) (setCtx_onlyHostSide ..))

theorem flushCtx_onlyHostSide (m : Mach) (c : Nat) : OnlyHostSide m (flushCtx m c) :=
  (flushLoop_onlyHostSide ..).trans (pollTail_onlyHostSide ..)

theorem writeBlock_onlyHostSide {m n : Mach} {f : Nat} (h : writeBlock m f = some n) : OnlyHostSide m n := by
  unfold writeBlock at h
  extract_lets fn size at h
  split at h
  · cases h
  next b _ r0 _ _ =>
    split at h
    extract_lets at h
    split at h
    · cases h
    · cases h
      exact .after (setFn_onlyHostSide ..) (.after (count_onlyHostSide ..)
        (.after (.foldl (fun m e => hostWrite_onlyHostSide ..) _ _) (hostWrite_onlyHostSide ..)))

theorem blockLoop_onlyHostSide (fuel : Nat) (m : Mach) (f : Nat) : OnlyHostSide m (blockLoop fuel m f) := by
  induction fuel generalizing m with
  | zero => exact .refl m
  | succ fuel ih =>
    unfold blockLoop
    split
    next n hn => exact (writeBlock_onlyHostSide hn).trans (ih n)
    next => exact .refl m

theorem pollStep_onlyHostSide (m : Mach) (f : Nat) : OnlyHostSide m (pollStep m f) := by
  unfold pollStep
  exact .ite (.refl m) (.after (hostRead_onlyHostSide ..) (setFn_onlyHostSide ..))

theorem flushFn_onlyHostSide (m : Mach) (f : Nat) : OnlyHostSide m (flushFn m f) := by
  unfold flushFn
  extract_lets before m1 m2
  have h1 : OnlyHostSide m m1 := .foldl flushCtx_onlyHostSide _ m
  have h2 : OnlyHostSide m m2 := (h1.trans (blockLoop_onlyHostSide ..)).trans (pollStep_onlyHostSide ..)
  exact .ite (h2.trans (msixHeld_onlyHostSide ..)) h2

/-! ### Ends of requests (R295, R297, R320–R323) -/

theorem endChain_onlyHostSide (m : Mach) (c : Nat) : OnlyHostSide m (endChain m c) := by
  unfold endChain
  split
  · exact .after (.foldl (fun m p => ⟨rfl⟩) _ _) ⟨rfl⟩
  · exact .refl m

theorem toEnding_onlyHostSide (m : Mach) (c : Nat) : OnlyHostSide m (toEnding m c) :=
  (endChain_onlyHostSide m c).trans (setCtx_onlyHostSide ..)

theorem lastRefusal_onlyHostSide (m : Mach) (f tag code position : Nat) : OnlyHostSide m (lastRefusal m f tag code position) :=
  (count_onlyHostSide ..).trans (odSet_onlyHostSide ..)

theorem endStatus_onlyHostSide (m : Mach) (c code flags : Nat) (toStep : Bool) :
    OnlyHostSide m (endStatus m c code flags toStep) := by
  unfold endStatus
  extract_lets m1 x
  have h1 : OnlyHostSide m m1 := toEnding_onlyHostSide m c
  split
  · exact h1
  · exact .ite (h1.trans ((lastRefusal_onlyHostSide ..).trans (setCtx_onlyHostSide ..)))
      (h1.trans ((setCtx_onlyHostSide ..).trans (flushFn_onlyHostSide ..)))

theorem endUnloaded_onlyHostSide (m : Mach) (cs : List Nat) : OnlyHostSide m (endUnloaded m cs) :=
  .foldl (fun m c => endStatus_onlyHostSide m c 9 0 false) cs m

/-! ## DRAINING begins (R459, R523, R529) -/

/-- From `a` to `n` only bask has been stopped. -/
structure OnlyBaskStopped (a n : Mach) : Prop where
  frame : n = { a with rows := n.rows, dunes := n.dunes, baskFired := n.baskFired }

theorem leaveBask_onlyBaskStopped (m : Mach) : OnlyBaskStopped m (leaveBask m) := by
  unfold leaveBask
  split <;> exact ⟨rfl⟩

/-- Leaving bask rests on the dunes alone and carries over what is kept besides. -/
theorem leaveBask_engineKept {a n : Mach} (hdunes : n.dunes = a.dunes) (h : EngineKept a n) :
    EngineKept (leaveBask a) (leaveBask n) := by
  unfold leaveBask
  rw [hdunes]
  split
  · exact { h with rows := by simp only [stopBask, h.rows] }
  · exact h

theorem holdAnswer_engineKept (m : Mach) (v : Via) (key : Nat) (reply : Option Reply) :
    EngineKept m (holdAnswer m v key reply) :=
  ⟨rfl, rfl, rfl, rfl, rfl, rfl, rfl, rfl, rfl, rfl⟩

/-- The machine that goes to DRAINING, before bask is left and the event posted. -/
def enterDraining (m : Mach) : Mach :=
  { m with drainSince := m.now, draining := false, mode := .draining, power := { m.power with faultN := false } }

theorem enterDraining_engineKept (m : Mach) : EngineKept m (enterDraining m) :=
  ⟨rfl, rfl, rfl, rfl, rfl, rfl, rfl, rfl, rfl, rfl⟩

theorem beginDrain_onlyHostSide {m : Mach} (h : m.mode ≠ .draining) :
    OnlyHostSide (leaveBask (enterDraining m)) (beginDrain m) := by
  unfold beginDrain
  extract_lets m1 queued
  have h1 : OnlyHostSide (leaveBask (enterDraining m)) m1 := by
    unfold m1 setState
    rw [if_neg h]
    exact postEventAt_onlyHostSide ..
  exact h1.trans (endUnloaded_onlyHostSide ..)

/-- DRAINING begins now; of the engine only bask stops. -/
theorem beginDrain_drains {m : Mach} (h : m.mode ≠ .draining) :
    (beginDrain m).mode = .draining ∧ (beginDrain m).drainSince = m.now ∧ (beginDrain m).draining = false ∧
      EngineKept (leaveBask m) (beginDrain m) := by
  have hkept : OnlyHostSide (leaveBask (enterDraining m)) (beginDrain m) := beginDrain_onlyHostSide h
  have hbask : OnlyBaskStopped (enterDraining m) (leaveBask (enterDraining m)) := leaveBask_onlyBaskStopped _
  have hleft : EngineKept (leaveBask m) (leaveBask (enterDraining m)) :=
    leaveBask_engineKept rfl (enterDraining_engineKept m)
  refine ⟨hkept.mode.trans ?_, hkept.drainSince.trans ?_, hkept.draining.trans ?_, hleft.trans hkept.engineKept⟩
  all_goals
    rw [hbask.frame]
    rfl

/-! ## Announcements to the job's modules (R240, R241, R369) -/

/-- From `a` to `n` only the links, the frames sent on them, control messages and outputs may have changed. -/
structure OnlyAnnounced (a n : Mach) : Prop where
  frame : n = { a with bundles := n.bundles, ctrl := n.ctrl, ctrlSeq := n.ctrlSeq, ctrlSeen := n.ctrlSeen, out := n.out }

namespace OnlyAnnounced

variable {a m n : Mach}

theorem refl (a : Mach) : OnlyAnnounced a a := ⟨rfl⟩

theorem trans (h : OnlyAnnounced a m) (h' : OnlyAnnounced m n) : OnlyAnnounced a n := ⟨h'.frame.trans (by rw [h.frame])⟩

/-- `trans` with the later step first, so that its statement says which machine stands between. -/
theorem after (h' : OnlyAnnounced m n) (h : OnlyAnnounced a m) : OnlyAnnounced a n := h.trans h'

theorem ite {p : Prop} [Decidable p] (h : OnlyAnnounced a m) (h' : OnlyAnnounced a n) :
    OnlyAnnounced a (if p then m else n) := by
  split
  · exact h
  · exact h'

theorem engineKept (h : OnlyAnnounced a n) : EngineKept a n := by constructor <;> rw [h.frame]

theorem mode (h : OnlyAnnounced a n) : n.mode = a.mode := by rw [h.frame]
theorem job (h : OnlyAnnounced a n) : n.job = a.job := by rw [h.frame]
theorem unloading (h : OnlyAnnounced a n) : n.unloading = a.unloading := by rw [h.frame]

end OnlyAnnounced

theorem bundleSends_onlyAnnounced (b since t fuel : Nat) (m : Mach) : OnlyAnnounced m (bundleSends b since t fuel m) := by
  induction fuel generalizing m with
  | zero => exact .refl m
  | succ fuel ih =>
    unfold bundleSends
    split
    · exact .refl m
    · split
      · exact .after (ih _) ⟨rfl⟩
      · exact .refl m

theorem hellosDue_onlyAnnounced (b t fuel : Nat) (m : Mach) : OnlyAnnounced m (hellosDue b t fuel m) := by
  induction fuel generalizing m with
  | zero => exact .refl m
  | succ fuel ih =>
    unfold hellosDue
    exact .ite (.refl m) (.after (ih _) ⟨rfl⟩)

theorem bundleRun_onlyAnnounced (since t : Nat) (m : Mach) (b : Nat) : OnlyAnnounced m (bundleRun since t m b) :=
  (hellosDue_onlyAnnounced ..).trans (bundleSends_onlyAnnounced ..)

theorem sendClass_onlyAnnounced (m : Mach) (t b c : Nat) (frame : Nat → List Byte) :
    OnlyAnnounced m (sendClass m t b c frame) :=
  .after (bundleRun_onlyAnnounced ..) ⟨rfl⟩

theorem relayCtrl_onlyAnnounced (m : Mach) (except : Option Nat) (hops origin seq : Nat) (x : MeshMsg) :
    OnlyAnnounced m (relayCtrl m except hops origin seq x) :=
  List.foldlRecOn (motive := OnlyAnnounced m) _ _ (.refl m) fun _ hm _ _ => hm.trans (sendClass_onlyAnnounced ..)

theorem originate_onlyAnnounced (m : Mach) (x : MeshMsg) : OnlyAnnounced m (originate m x) := by
  unfold originate
  exact .ite (.refl m) (.after (relayCtrl_onlyAnnounced ..) ⟨rfl⟩)

theorem broadcastJob_onlyAnnounced (m : Mach) (type words : Nat) (w1 w2 w3 : W32) :
    OnlyAnnounced m (broadcastJob m type words w1 w2 w3) :=
  .after (originate_onlyAnnounced ..) ⟨rfl⟩

theorem announcePause_onlyAnnounced (m : Mach) (n : Nat) : OnlyAnnounced (noteBeat m n) (announcePause m n) :=
  broadcastJob_onlyAnnounced ..

/-! ## The pause by which a job unloads (R241, R530) -/

/-- From `a` to `n` the unload of the job has begun: the pause has been announced for beat `p`, and the engine is as it was. -/
structure UnloadBegun (a n : Mach) (p : Nat) : Prop where
  unloading : n.unloading = true
  mode : n.mode = a.mode
  job : ∃ k, n.job = some k ∧ k.unloadAt = some p ∧ p ≤ k.announcedTo
  engine : EngineKept a n

theorem unloading_engineKept (m : Mach) : EngineKept m { m with unloading := true } :=
  ⟨rfl, rfl, rfl, rfl, rfl, rfl, rfl, rfl, rfl, rfl⟩

theorem job_onlyBookkeeping (m : Mach) (j : Option Job) : OnlyBookkeeping m { m with job := j } := ⟨rfl⟩

/-- The module that announces chooses the first beat that can still be announced. -/
theorem beginUnload_begun {m : Mach} {j : Job} (hjob : m.job = some j) (hnone : j.unloadAt = none)
    (hannounces : announces m = true) : UnloadBegun m (beginUnload m) (firstAnnounceable m) := by
  have hpending : ((m.job.map fun j => j.unloadAt.isSome).getD true) = false := by simp [hjob, hnone]
  unfold beginUnload
  extract_lets m1 n m2
  have hfirst : n = firstAnnounceable m := rfl
  have hann : announces m1 = true := hannounces
  have h2 : OnlyAnnounced (noteBeat m1 n) m2 := announcePause_onlyAnnounced ..
  have hjob2 : m2.job = some { j with announcedTo := max j.announcedTo n } := by
    rw [h2.job, noteBeat, show m1.job = some j from hjob]
    rfl
  have hnoted : EngineKept m (noteBeat m1 n) := (unloading_engineKept m).trans (job_onlyBookkeeping ..).engineKept
  rw [if_neg (by simp [m1, hpending]), if_pos hann, ← hfirst]
  exact {
    unloading := h2.unloading
    mode := h2.mode
    job := by
      rw [hjob2]
      exact ⟨_, rfl, rfl, Nat.le_max_right ..⟩
    engine := (hnoted.trans h2.engineKept).trans (job_onlyBookkeeping ..).engineKept }

/-! ## The commands (R432, R529, R530) -/

section
variable {s : State} {v : Via} {bytes : List Byte}

/-- A DRAIN that passes its checks with no replacement on its way begins at once; its answer waits. -/
theorem execJobDrain_accepted (hcheck : jobCheck s.m v bytes = none) (hop : field bytes 0 1 = 2) (hrepl : s.m.repl = none) :
    execJobDrain v bytes s = .next { s with m := beginDrain (holdAnswer s.m v (objKey 0x3000 1) none) } := by
  simp [execJobDrain, nextM, commandRow, jobRun, drainRun, meetReplacement, hcheck, hop, holdAnswer, hrepl]

/-- An UNLOAD that passes its checks with no replacement on its way begins at once; its answer waits. -/
theorem execJobUnload_accepted (hcheck : jobCheck s.m v bytes = none) (hop : field bytes 0 1 = 3) (hrepl : s.m.repl = none) :
    execJobUnload v bytes s = .next { s with m := beginUnload (holdAnswer s.m v (objKey 0x3000 1) none) } := by
  simp [execJobUnload, nextM, commandRow, jobRun, unloadRun, meetReplacement, hcheck, hop, holdAnswer, hrepl]

/-- DRAIN_COMPLETE with no live context begins the unload. -/
theorem execDrainComplete_of_all_free (hmode : s.m.mode = .draining) (hunloading : s.m.unloading = false)
    (hfree : ∀ e ∈ s.m.ctxs, e.2.state = .free) :
    execDrainComplete s = .next { s with m := beginUnload s.m } := by
  have hlive : (s.m.ctxs.any fun e => e.2.state != .free) = false :=
    List.any_eq_false.mpr fun e he => by simp [hfree e he]
  simp only [execDrainComplete, nextM, hmode, hunloading, hlive, ne_eq, not_true_eq_false, Bool.false_eq_true, or_self,
    if_false]

end

/-- Settles O37: DRAIN is `beginDrain_drains`; DRAIN_COMPLETE and UNLOAD begin the unload (`beginUnload_begun`). -/
theorem jobsDrainAndUnload : Obligations.JobsDrainAndUnload := by
  intro s j hjob hrepl hnone hannounces at_
  refine ⟨fun v bytes hcheck hop hmode => ?drain, fun hmode hunloading hfree => ?complete,
    fun v bytes hcheck hop => ?unload⟩
  case drain =>
    let held := holdAnswer s.m v (objKey 0x3000 1) none
    have hother : held.mode ≠ .draining := by
      rw [show held.mode = s.m.mode from rfl, hmode]
      decide
    obtain ⟨hdraining, hsince, hpending, hengine⟩ := beginDrain_drains hother
    have hheld : EngineKept (leaveBask s.m) (leaveBask held) := leaveBask_engineKept rfl (holdAnswer_engineKept ..)
    exact ⟨_, execJobDrain_accepted hcheck hop hrepl, hdraining, hsince, hpending, hheld.trans hengine⟩
  case complete =>
    obtain ⟨hbegun, hsame, hpause, hengine⟩ := beginUnload_begun hjob hnone hannounces
    exact ⟨_, execDrainComplete_of_all_free hmode hunloading hfree, hbegun, hsame.trans hmode, hpause, hengine⟩
  case unload =>
    let held := holdAnswer s.m v (objKey 0x3000 1) none
    obtain ⟨hbegun, hsame, hpause, hengine⟩ := beginUnload_begun (m := held) hjob hnone hannounces
    exact ⟨_, execJobUnload_accepted hcheck hop hrepl, hbegun, hsame, hpause,
      (holdAnswer_engineKept ..).trans hengine⟩

end Sys2Proof.Machine

/-! SUPPORT. Time that passes before the beats of a job run (R4, R131, R149, R168, R195–R208): of all that the fabric, the loads and
the links do in it, nothing changes the module state or the job. -/

namespace Sys2Proof.Machine

/-! ## Module state, job and clock -/

/-- From `a` to `n` the module keeps its state and, while no beats run, its job: a fault notes the first beat after it in the job only
of beats that run (R225). The clock does not run back. -/
structure JobKept (a n : Mach) : Prop where
  mode : n.mode = a.mode
  job : beatsRun a = false → n.job = a.job
  now : a.now ≤ n.now

namespace JobKept

variable {a m n : Mach}

theorem of_eq (hmode : n.mode = a.mode) (hjob : n.job = a.job) (hnow : n.now = a.now) : JobKept a n :=
  ⟨hmode, fun _ => hjob, hnow ▸ Nat.le_refl _⟩

theorem refl (a : Mach) : JobKept a a := .of_eq rfl rfl rfl

theorem beatsRun_eq (h : JobKept a n) : beatsRun n = beatsRun a := by simp only [beatsRun, h.mode]

theorem trans (h : JobKept a m) (h' : JobKept m n) : JobKept a n where
  mode := h'.mode.trans h.mode
  job hidle := (h'.job (h.beatsRun_eq.trans hidle)).trans (h.job hidle)
  now := Nat.le_trans h.now h'.now

/-- `trans` with the later step first, so that its statement says which machine stands between. -/
theorem after (h' : JobKept m n) (h : JobKept a m) : JobKept a n := h.trans h'

theorem ite {p : Prop} [Decidable p] (h : JobKept a m) (h' : JobKept a n) : JobKept a (if p then m else n) := by
  split
  · exact h
  · exact h'

theorem foldl {α : Type} {g : Mach → α → Mach} (hg : ∀ m x, JobKept m (g m x)) (l : List α) (a : Mach) :
    JobKept a (l.foldl g a) :=
  List.foldlRecOn l g (.refl a) fun m hm x _ => hm.trans (hg m x)

end JobKept

theorem OnlyHostSide.job {a n : Mach} (h : OnlyHostSide a n) : n.job = a.job := by rw [h.frame]

theorem OnlyHostSide.now {a n : Mach} (h : OnlyHostSide a n) : n.now = a.now := h.engineKept.now

theorem OnlyHostSide.jobKept {a n : Mach} (h : OnlyHostSide a n) : JobKept a n := .of_eq h.mode h.job h.now

theorem OnlyAnnounced.jobKept {a n : Mach} (h : OnlyAnnounced a n) : JobKept a n := .of_eq h.mode h.job h.engineKept.now

/-! ## Time passes for a job that is being loaded (R131, R149, R168, R195–R208) -/

theorem countDune_onlyHostSide (m : Mach) (erg num idx sub n : Nat) : OnlyHostSide m (countDune m erg num idx sub n) := by
  obtain ⟨od, h⟩ := countDune_eq m erg num idx sub n
  rw [h]
  exact ⟨rfl⟩

theorem countDune_jobKept (m : Mach) (erg num idx sub n : Nat) : JobKept m (countDune m erg num idx sub n) :=
  (countDune_onlyHostSide ..).jobKept

theorem openFault_jobKept (m : Mach) : JobKept m (openFault m) where
  mode := by rw [openFault_eq]
  job hidle := by simp [openFault, hidle]
  now := Nat.le_of_eq (congrArg Mach.now (openFault_eq m)).symm

theorem keepDetail_jobKept (m : Mach) (erg dune detail : Nat) : JobKept m (keepDetail m erg dune detail) :=
  .ite (.of_eq rfl rfl rfl) (.refl m)

theorem raiseFault_jobKept (m : Mach) (code erg dune row thread beat detail : Nat) :
    JobKept m (raiseFault m code erg dune row thread beat detail) := by
  unfold raiseFault
  extract_lets sev rec_ src m1 m2 m3
  have h0 : JobKept m { m with raised := m.raised ++ [rec_] } := .of_eq rfl rfl rfl
  have h1 : JobKept m m1 := (h0.trans (openFault_jobKept _)).trans (keepDetail_jobKept ..)
  have h2 : JobKept m m2 := .ite (h1.trans (countDune_jobKept ..)) h1
  have h3 : JobKept m m3 := .ite (h2.trans (.of_eq rfl rfl rfl)) (.ite (h2.trans (.of_eq rfl rfl rfl)) h2)
  exact h3.trans (.of_eq rfl rfl rfl)

theorem rowFault_jobKept (m : Mach) (r : RowId) (code thread detail : Nat) : JobKept m (rowFault m r code thread detail) :=
  .after (raiseFault_jobKept ..) (.of_eq rfl rfl rfl)

theorem stopRow_jobKept (m : Mach) (r : RowId) : JobKept m (stopRow m r) := .of_eq rfl rfl rfl

theorem duneFault_jobKept (m : Mach) (d : DuneId) (code row detail : Nat) : JobKept m (duneFault m d code row detail) :=
  .after (raiseFault_jobKept ..) (.foldl (fun m k => stopRow_jobKept m ⟨d, Fin.ofNat 96 k⟩) _ m)

theorem landOne_jobKept (m : Mach) (l : Landing) : JobKept m (landOne m l) := by
  have hrace : JobKept m (raceLocal m l.addr l.bytes l.due) := .ite (.of_eq rfl rfl rfl) (.refl m)
  exact hrace.trans (.of_eq rfl rfl rfl)

theorem landUpTo_jobKept (m : Mach) (t : Nat) : JobKept m (landUpTo m t) :=
  .after (.foldl landOne_jobKept _ _) (.of_eq rfl rfl rfl)

theorem readSram_jobKept (m : Mach) (addr n : Nat) : JobKept m (readSram m addr n).2 :=
  List.foldlRecOn (motive := fun (x : List Byte × Mach) => JobKept m x.2) _ _ (.refl m)
    fun _ hx _ _ => hx.trans (.of_eq rfl rfl rfl)

theorem serveLoad_jobKept (m : Mach) (l : LoadReq) : JobKept m (serveLoad m l) := by
  unfold serveLoad
  extract_lets m1 x m2 m3 k m4
  have h2 : JobKept m m2 := (landUpTo_jobKept m l.service).trans (readSram_jobKept ..)
  have h4 : JobKept m m4 := .after (countDune_jobKept ..) (h2.trans (.of_eq rfl rfl rfl))
  split
  · exact h4
  · exact h4.trans (.of_eq rfl rfl rfl)

theorem settle_jobKept (m : Mach) (t : Nat) : JobKept m (settle m t) := by
  unfold settle
  extract_lets t' due m1
  have hclock : JobKept m { m with now := t', loads := m.loads.filter fun l => t' < l.service } :=
    ⟨rfl, fun _ => rfl, Nat.le_max_left ..⟩
  exact (hclock.trans (.foldl serveLoad_jobKept _ _)).trans (landUpTo_jobKept ..)

theorem linksRun_jobKept (since t : Nat) (m : Mach) : JobKept m (linksRun since t m) :=
  .foldl (fun m b => (bundleRun_onlyAnnounced since t m b).jobKept) _ m

theorem slotOut_jobKept (m : Mach) (t k i : Nat) (bytes : List Byte) : JobKept m (slotOut m t k i bytes) := by
  unfold slotOut
  split
  · exact .refl m
  next e _ =>
    extract_lets last b m1
    have hsent : JobKept m m1 := (sendClass_onlyAnnounced ..).jobKept
    exact .ite (hsent.trans (.of_eq rfl rfl rfl)) hsent

theorem discardAt_jobKept (m : Mach) (router id : Nat) : JobKept m (discardAt m router id) :=
  .after (countDune_jobKept ..) (.of_eq rfl rfl rfl)

theorem steerPacket_jobKept (m : Mach) (f : Flit) : JobKept m (steerPacket m f) := by
  unfold steerPacket
  split
  · exact .refl m
  next p _ =>
    extract_lets here target held
    split
    · exact .refl m
    · extract_lets d way
      refine .ite (.refl m) (.ite (.ite (discardAt_jobKept ..) (.refl m)) ?_)
      clear_value way
      cases way with
      | some l => exact .of_eq rfl rfl rfl
      | none => exact .ite (.of_eq rfl rfl rfl) (discardAt_jobKept ..)

theorem judgePacket_jobKept (m : Mach) (p : Packet) : JobKept m (judgePacket m p) := by
  unfold judgePacket
  split
  · exact .refl m
  · exact .ite (.of_eq rfl rfl rfl) (.after (rowFault_jobKept ..) (.of_eq rfl rfl rfl))

theorem reachPort_jobKept (m : Mach) (u : PortUnit) : JobKept m (reachPort m u) := by
  unfold reachPort
  split
  · exact .refl m
  · exact .ite ((countDune_jobKept ..).trans (judgePacket_jobKept ..)) (countDune_jobKept ..)

theorem scratchArrives_jobKept (m : Mach) (c : Cargo) : JobKept m (scratchArrives m c) := by
  unfold scratchArrives
  split
  · exact .ite (.of_eq rfl rfl rfl) (.refl m)
  · exact .of_eq rfl rfl rfl
  · exact .refl m

theorem answerSlot_jobKept (m : Mach) (t : Nat) (p : Packet) (k : Nat) : JobKept m (answerSlot m t p k) := by
  unfold answerSlot
  split
  · extract_lets bytes
    refine .foldl (fun m i => ?_) _ m
    exact .of_eq rfl rfl rfl
  · exact .refl m

theorem slotWritten_jobKept (m : Mach) (k n t : Nat) : JobKept m (slotWritten m k n t) := by
  unfold slotWritten
  split
  · exact .refl m
  · split
    · exact .refl m
    · extract_lets x m1 beat late m2
      have h1 : JobKept m m1 := .of_eq rfl rfl rfl
      have h2 : JobKept m m2 := h1.trans (.of_eq rfl rfl rfl)
      exact .ite h1 (.ite (h2.trans (.of_eq rfl rfl rfl)) h2)

theorem writeUnit_jobKept (m : Mach) (T : Nat) (u : PortUnit) : JobKept m (writeUnit m T u) := by
  unfold writeUnit
  split
  · exact .refl m
  next p _ =>
    extract_lets done written m1 m2
    have h1 : JobKept m m1 := .ite (.of_eq rfl rfl rfl) (.refl m)
    have h2 : JobKept m m2 := .after (scratchArrives_jobKept ..) (h1.trans (.of_eq rfl rfl rfl))
    refine .ite h1 ?_
    split
    · exact h2.trans (answerSlot_jobKept ..)
    · exact .ite (h2.trans (slotWritten_jobKept ..)) h2
    · exact h2

theorem portCycle_jobKept (T : Nat) (m : Mach) (row : Nat) : JobKept m (portCycle T m row) := by
  unfold portCycle
  extract_lets m1
  have h1 : JobKept m m1 := .foldl reachPort_jobKept _ m
  split
  · exact h1
  · exact .ite (.after (writeUnit_jobKept ..) (h1.trans (.of_eq rfl rfl rfl))) h1

theorem leavePacket_jobKept (m : Mach) (t : Nat) (p : Packet) : JobKept m (leavePacket m t p) := by
  have hgone : JobKept m (removePacket m p.id) := .of_eq rfl rfl rfl
  unfold leavePacket
  split
  · exact hgone.trans (slotOut_jobKept ..)
  · exact hgone.trans (postEventAt_onlyHostSide ..).jobKept
  · exact hgone

theorem pushFlit_jobKept (m : Mach) (w : Want) (T cycles : Nat) : JobKept m (pushFlit m w T cycles) := by
  unfold pushFlit
  split
  · exact .refl m
  · exact .of_eq rfl rfl rfl

theorem spendInjection_jobKept (m : Mach) (a : Armed) (n : Nat) : JobKept m (spendInjection m a n) := by
  have hcounted : JobKept m (if a.left == armedBits a 191 160 then count m 0x61A0 6 1 else m) :=
    .ite (.of_eq rfl rfl rfl) (.refl m)
  exact hcounted.trans (.of_eq rfl rfl rfl)

theorem crossBridge_jobKept (m : Mach) (erg e b cls flits target beat : Nat) :
    JobKept m (crossBridge m erg e b cls flits target beat).1 := by
  unfold crossBridge
  split
  · exact .refl m
  · split
    · exact (spendInjection_jobKept ..).trans (raiseFault_jobKept ..)
    · extract_lets n m1
      have h1 : JobKept m m1 := spendInjection_jobKept ..
      split
      · exact h1.trans (.of_eq rfl rfl rfl)
      · exact h1.trans (raiseFault_jobKept ..)

theorem sendFlit_jobKept (m : Mach) (T : Nat) (w : Want) : JobKept m (sendFlit m T w) := by
  unfold sendFlit
  extract_lets +onlyGivenNames m1 vc m2
  have h1 : JobKept m m1 := .ite (countDune_jobKept ..) (.refl m)
  have h2 : JobKept m m2 := h1.trans (.of_eq rfl rfl rfl)
  clear_value m2
  split
  case h_1 => exact h2.trans (pushFlit_jobKept ..)
  case h_2 => exact .after (pushFlit_jobKept ..) (h2.trans (.of_eq rfl rfl rfl))
  case h_3 e b _ =>
    extract_lets router erg d m3 x
    have h3 : JobKept m m3 := .after (countDune_jobKept ..) (h2.trans (.of_eq rfl rfl rfl))
    have hx : JobKept m x.1 := by
      unfold x
      split
      · exact h3.trans (crossBridge_jobKept ..)
      · exact h3
    exact .ite (hx.trans (pushFlit_jobKept ..)) (hx.trans (.of_eq rfl rfl rfl))
  case h_4 => exact .ite (.ite h2 (h2.trans (leavePacket_jobKept ..))) (h2.trans (.of_eq rfl rfl rfl))

theorem collide_jobKept (T link : Nat) (sent : List Nat) (m : Mach) : JobKept m (collide T link sent m) := by
  unfold collide
  extract_lets holder waits
  clear_value waits
  cases waits with
  | none => exact .refl m
  | some w => exact .after (duneFault_jobKept ..) (.after (countDune_jobKept ..) (.of_eq rfl rfl rfl))

theorem sendOn_jobKept (T link n : Nat) (x : Mach × List Nat) : JobKept x.1 (sendOn T link n x).1 := by
  induction n generalizing x with
  | zero => exact .refl _
  | succ n ih =>
    unfold sendOn
    split
    · exact .refl _
    · exact .after (ih _) (sendFlit_jobKept ..)

theorem portSends_jobKept (T : Nat) (m : Mach) (link : Nat) : JobKept m (portSends T m link) :=
  (sendOn_jobKept T link _ (m, [])).trans (collide_jobKept ..)

theorem fabricCycle_jobKept (m : Mach) : JobKept m (fabricCycle m) := by
  unfold fabricCycle
  extract_lets T m1 m2 m3
  have h1 : JobKept m m1 := .after (.foldl (portCycle_jobKept T) _ _) (.of_eq rfl rfl rfl)
  have h2 : JobKept m m2 := h1.trans (.foldl (fun m (e : Nat × Flit) => steerPacket_jobKept m e.2) _ _)
  have h3 : JobKept m m3 := h2.trans (.foldl (portSends_jobKept T) _ _)
  exact h3.trans (linksRun_jobKept ..)

theorem fabricRun_jobKept (fuel : Nat) (m : Mach) (t : Nat) : JobKept m (fabricRun fuel m t) := by
  induction fuel generalizing m with
  | zero => exact .refl m
  | succ fuel ih =>
    unfold fabricRun
    exact .ite (.refl m) (((settle_jobKept ..).trans (fabricCycle_jobKept _)).trans (ih _))

/-- Time that passes before the beats of a job run leaves the job as it is. -/
theorem advance_jobKept (m : Mach) (t : Nat) : JobKept m (advance m t) := by
  unfold advance
  extract_lets since m1
  have h1 : JobKept m m1 := .ite (fabricRun_jobKept ..) (.refl m)
  have hlinks : JobKept m (if since < t then linksRun since t m1 else m1) := .ite (h1.trans (linksRun_jobKept ..)) h1
  exact hlinks.trans (settle_jobKept ..)

end Sys2Proof.Machine

/-! SUPPORT. LOAD (R256, R257, R261, R330): what entering LOADING, binding a job and entering STANDBY leave as they were, and a LOAD
refused or bound. The order of the checks within a group is the model's choice (assumption 25). -/

namespace Sys2Proof.Machine

/-! ## What the answer to a LOAD speaks of -/

/-- From `a` to `n` what the answer to a LOAD speaks of is as it was: module state, job, HBM, clock, and the answers owed. -/
structure LoadKept (a n : Mach) : Prop where
  mode : n.mode = a.mode
  job : n.job = a.job
  hbm : n.hbm = a.hbm
  now : n.now = a.now
  answers : n.answers = a.answers

namespace LoadKept

variable {a m n : Mach}

theorem refl (a : Mach) : LoadKept a a := ⟨rfl, rfl, rfl, rfl, rfl⟩

theorem trans (h : LoadKept a m) (h' : LoadKept m n) : LoadKept a n :=
  ⟨h'.mode.trans h.mode, h'.job.trans h.job, h'.hbm.trans h.hbm, h'.now.trans h.now, h'.answers.trans h.answers⟩

/-- `trans` with the later step first, so that its statement says which machine stands between. -/
theorem after (h' : LoadKept m n) (h : LoadKept a m) : LoadKept a n := h.trans h'

theorem ite {p : Prop} [Decidable p] (h : LoadKept a m) (h' : LoadKept a n) : LoadKept a (if p then m else n) := by
  split
  · exact h
  · exact h'

theorem foldl {α : Type} {g : Mach → α → Mach} (hg : ∀ m x, LoadKept m (g m x)) (l : List α) (a : Mach) :
    LoadKept a (l.foldl g a) :=
  List.foldlRecOn l g (.refl a) fun m hm x _ => hm.trans (hg m x)

theorem jobKept (h : LoadKept a n) : JobKept a n := .of_eq h.mode h.job h.now

end LoadKept

theorem OnlyHostSide.loadKept {a n : Mach} (h : OnlyHostSide a n) : LoadKept a n := by
  constructor <;> rw [h.frame]

theorem OnlyBaskStopped.loadKept {a n : Mach} (h : OnlyBaskStopped a n) : LoadKept a n := by
  constructor <;> rw [h.frame]

/-! ## Module states (R491, R523) -/

/-- The module goes over into a state. -/
theorem setState_loadKept (m : Mach) (st : ModState) : LoadKept { m with mode := st } (setState m st) := by
  unfold setState
  split
  next hsame => exact ⟨hsame, rfl, rfl, rfl, rfl⟩
  next =>
    extract_lets power m1 m2
    have h1 : LoadKept { m with mode := st } m1 := .after (leaveBask_onlyBaskStopped _).loadKept ⟨rfl, rfl, rfl, rfl, rfl⟩
    have h2 : LoadKept { m with mode := st } m2 := .ite (h1.trans ⟨rfl, rfl, rfl, rfl, rfl⟩) h1
    exact h2.trans (postEventAt_onlyHostSide ..).loadKept

/-! ## Route tables and packets (R200, R220, R221, R478) -/

theorem removePacket_loadKept (m : Mach) (id : Nat) : LoadKept m (removePacket m id) := ⟨rfl, rfl, rfl, rfl, rfl⟩

theorem dropPackets_loadKept (m : Mach) : LoadKept m (dropPackets m) :=
  .foldl (fun m (p : Packet) => removePacket_loadKept m p.id) _ m

theorem clearRows_loadKept (m : Mach) : LoadKept m (clearRows m) := by
  unfold clearRows
  extract_lets m1
  have h1 : LoadKept m m1 := .after (dropPackets_loadKept _) ⟨rfl, rfl, rfl, rfl, rfl⟩
  exact h1.trans ⟨rfl, rfl, rfl, rfl, rfl⟩

theorem releaseHeld_loadKept (m : Mach) (p : Packet) : LoadKept m (releaseHeld m p) := by
  unfold releaseHeld
  extract_lets here target way m'
  clear_value way
  cases way with
  | none => exact .after (countDune_onlyHostSide ..).loadKept ⟨rfl, rfl, rfl, rfl, rfl⟩
  | some l => exact .ite (.refl m) ⟨rfl, rfl, rfl, rfl, rfl⟩

theorem writeTables_loadKept (m : Mach) (bad : List Nat) : LoadKept m (writeTables m bad) :=
  .after (.foldl releaseHeld_loadKept _ _) ⟨rfl, rfl, rfl, rfl, rfl⟩

/-! ## LOADING begins (R180, R221, R249, R455) -/

theorem enterLoading_loadKept (m : Mach) : LoadKept { m with mode := .loading } (enterLoading m) := by
  unfold enterLoading
  extract_lets m1 k m2 m3
  have h1 : LoadKept { m with mode := .loading } m1 :=
    LoadKept.trans (.after (setState_loadKept (reviveDunes m) .loading) ⟨rfl, rfl, rfl, rfl, rfl⟩) ⟨rfl, rfl, rfl, rfl, rfl⟩
  clear_value m1
  have h3 : LoadKept { m with mode := .loading } m3 := h1.trans ⟨rfl, rfl, rfl, rfl, rfl⟩
  exact .after (writeTables_loadKept ..) (h3.trans (clearRows_loadKept _))

/-! ## Binding (R256, R260, R261) -/

theorem mapAllSites_loadKept (m : Mach) (img : Image) (mp : List (Nat × Nat)) (st : SiteState) :
    LoadKept m (mapAllSites m img mp st) := by
  unfold mapAllSites
  refine .foldl (fun m k => .foldl (fun m r => ?_) _ m) _ m
  exact .ite ⟨rfl, rfl, rfl, rfl, rfl⟩ (.ite (.refl m) ⟨rfl, rfl, rfl, rfl, rfl⟩)

theorem stampDunes_loadKept (m : Mach) (mp : List (Nat × Nat)) : LoadKept m (stampDunes m mp) := by
  unfold stampDunes
  refine .foldl (fun m d => ?_) _ m
  exact .ite (.refl m) ⟨rfl, rfl, rfl, rfl, rfl⟩

/-- The job bound to the mapping found for it. -/
theorem placeJob_loadKept (m : Mach) (j : Job) (mp : List (Nat × Nat)) (g : Nat) :
    LoadKept { m with job := some { j with map := mp, ergMap := g } } (placeJob m j mp g) := by
  unfold placeJob
  extract_lets m1 size m2
  have h2 : LoadKept { m with job := some { j with map := mp, ergMap := g } } m2 := ⟨rfl, rfl, rfl, rfl, rfl⟩
  exact h2.trans (.after (stampDunes_loadKept ..) (mapAllSites_loadKept ..))

/-! ## The result of a load (R256, R257, R413) -/

theorem odGet_odSet_same (m : Mach) (idx sub v : Nat) : odGet (odSet m idx sub v) idx sub = v := by
  have hentry : sget 0 (odSet m idx sub v).od (objKey idx sub) = if v = objDefault m (objKey idx sub) then 0 else v + 1 :=
    sget_sset_same ..
  have hdefault : objDefault (odSet m idx sub v) (objKey idx sub) = objDefault m (objKey idx sub) := rfl
  unfold odGet
  rw [hentry, hdefault]
  split
  next hzero =>
    split at hzero
    next hv => exact hv.symm
    next => cases hzero
  next w hw =>
    split at hw
    next => cases hw
    next => exact (Nat.succ.inj hw).symm

theorem sget_od_odSet_ne (m : Mach) {key idx sub : Nat} (h : key ≠ objKey idx sub) (v : Nat) :
    sget 0 (odSet m idx sub v).od key = sget 0 m.od key := sget_sset_ne _ _ _ h

theorem msixGenerate_od (m : Mach) (f v : Nat) : (msixGenerate m f v).od = m.od := by
  unfold msixGenerate
  extract_lets fn
  split
  · rfl
  · split <;> rfl

theorem setCauses_od (m : Mach) (bits : Nat) : (setCauses m bits).od = m.od := by
  unfold setCauses
  split
  · rfl
  · refine List.foldlRecOn (motive := fun n : Mach => n.od = m.od) _ _ rfl fun n hn f _ => ?_
    dsimp only
    split
    · exact hn
    · exact (msixGenerate_od ..).trans hn

/-- An event posted counts, and changes no other object. -/
theorem sget_od_postEvent_ne (m : Mach) {key : Nat} (h : key ≠ objKey 0x6030 8) (code erg dune value : Nat) :
    sget 0 (postEvent m code erg dune value).od key = sget 0 m.od key := by
  unfold postEvent postEventAt
  rw [setCauses_od]
  exact sget_od_odSet_ne _ h _

theorem sget_od_setState_ne (m : Mach) {key : Nat} (h : key ≠ objKey 0x6030 8) (st : ModState) :
    sget 0 (setState m st).od key = sget 0 m.od key := by
  unfold setState
  split
  · rfl
  · extract_lets power m1 m2
    have h1 : m1.od = m.od := by
      unfold m1
      rw [(leaveBask_onlyBaskStopped _).frame]
    have h2 : m2.od = m1.od := by
      unfold m2
      split <;> rfl
    rw [sget_od_postEvent_ne _ h, h2, h1]

/-! ## STANDBY again (R375, R378, R455, R525) -/

/-- From `a` to `n` only clocks have changed. -/
structure OnlyClocks (a n : Mach) : Prop where
  frame : n = { a with dunes := n.dunes, islands := n.islands, htcOffset := n.htcOffset }

theorem OnlyClocks.trans {a m n : Mach} (h : OnlyClocks a m) (h' : OnlyClocks m n) : OnlyClocks a n :=
  ⟨h'.frame.trans (by rw [h.frame])⟩

theorem OnlyClocks.loadKept {a n : Mach} (h : OnlyClocks a n) : LoadKept a n := by
  constructor <;> rw [h.frame]

theorem setIsland_onlyClocks (m : Mach) (i : Island) (x : IslandState) : OnlyClocks m (setIsland m i x) := by
  unfold setIsland
  split
  · exact ⟨rfl⟩
  · exact ⟨rfl⟩

theorem moveRoot_onlyClocks (m : Mach) (ns : Int) : OnlyClocks m (moveRoot m ns) := by
  unfold moveRoot
  refine List.foldlRecOn (motive := OnlyClocks m) _ _ ⟨rfl⟩ fun n hn i _ => ?_
  dsimp only
  split
  · exact hn
  · exact hn.trans (setIsland_onlyClocks ..)

/-- STANDBY is entered, and of the objects only the pending step and the events counted change. -/
theorem enterStandby_standby (m : Mach) :
    LoadKept { m with mode := .standby } (enterStandby m) ∧
      ∀ key, key ≠ objKey 0x5300 8 → key ≠ objKey 0x6030 8 → sget 0 (enterStandby m).od key = sget 0 m.od key := by
  unfold enterStandby
  extract_lets moved m1 k x m2
  have hmoved : OnlyClocks m moved := moveRoot_onlyClocks ..
  clear_value moved
  have h1 : LoadKept m m1 := .ite (hmoved.loadKept.trans ⟨rfl, rfl, rfl, rfl, rfl⟩) (.refl m)
  have h2 : LoadKept m m2 := .ite (h1.trans ⟨rfl, rfl, rfl, rfl, rfl⟩) h1
  have hmode : LoadKept { m with mode := .standby } { reviveDunes m2 with mode := .standby } :=
    ⟨rfl, h2.job, h2.hbm, h2.now, h2.answers⟩
  refine ⟨hmode.trans (setState_loadKept ..), fun key hstep hevents => ?_⟩
  have hod1 : sget 0 m1.od key = sget 0 m.od key := by
    unfold m1
    split
    · rw [sget_od_odSet_ne _ hstep, hmoved.frame]
    · rfl
  have hod2 : m2.od = m1.od := by
    unfold m2
    split <;> rfl
  rw [sget_od_setState_ne _ hevents, show (reviveDunes m2).od = m2.od from rfl, hod2, hod1]

/-! ## The answer of a load (R422–R425) -/

/-- From `a` to `n` only answers have been given: what is owed, what has been sent, and the sessions closed by it. -/
structure OnlyAnswered (a n : Mach) : Prop where
  frame : n = { a with answers := n.answers, out := n.out, bar0 := n.bar0, port := n.port, fns := n.fns,
                       sessions := n.sessions }

namespace OnlyAnswered

variable {a m n : Mach}

theorem refl (a : Mach) : OnlyAnswered a a := ⟨rfl⟩

theorem trans (h : OnlyAnswered a m) (h' : OnlyAnswered m n) : OnlyAnswered a n := ⟨h'.frame.trans (by rw [h.frame])⟩

/-- `trans` with the later step first, so that its statement says which machine stands between. -/
theorem after (h' : OnlyAnswered m n) (h : OnlyAnswered a m) : OnlyAnswered a n := h.trans h'

theorem mode (h : OnlyAnswered a n) : n.mode = a.mode := by rw [h.frame]
theorem job (h : OnlyAnswered a n) : n.job = a.job := by rw [h.frame]
theorem hbm (h : OnlyAnswered a n) : n.hbm = a.hbm := by rw [h.frame]
theorem now (h : OnlyAnswered a n) : n.now = a.now := by rw [h.frame]

theorem odGet_eq (h : OnlyAnswered a n) (idx sub : Nat) : odGet n idx sub = odGet a idx sub := by
  rw [h.frame]
  rfl

end OnlyAnswered

theorem msixGenerate_onlyAnswered (m : Mach) (f v : Nat) : OnlyAnswered m (msixGenerate m f v) := by
  unfold msixGenerate
  extract_lets fn
  split
  · exact .refl m
  · split
    · exact ⟨rfl⟩
    · exact ⟨rfl⟩

theorem sendBack_onlyAnswered (m : Mach) (src : KoaSrc) (msg : List Byte) : OnlyAnswered m (sendBack m src msg) := by
  cases src with
  | mailbox => exact .after (msixGenerate_onlyAnswered ..) ⟨rfl⟩
  | port k => exact ⟨rfl⟩

theorem closeWaiting_onlyAnswered (m : Mach) (n : Nat) : OnlyAnswered m (closeWaiting m n) := by
  unfold closeWaiting
  split
  · exact .refl m
  · exact ⟨rfl⟩

theorem sendResponse_onlyAnswered (m : Mach) (v : Via) (src : KoaSrc) (seq : Nat) (body : List Byte) :
    OnlyAnswered m (sendResponse m v src seq body) := by
  unfold sendResponse
  split
  · exact sendBack_onlyAnswered ..
  · split
    · exact .refl m
    · extract_lets keep m1
      have h1 : OnlyAnswered m m1 := ⟨rfl⟩
      exact .after (closeWaiting_onlyAnswered ..) (.after (sendBack_onlyAnswered ..) (h1.trans ⟨rfl⟩))

theorem answer_onlyAnswered (m : Mach) (v : Via) (reply : Option Reply) (code : Nat) :
    OnlyAnswered m (answer m v reply code) := by
  unfold answer answerWith
  split
  · exact ⟨rfl⟩
  · split
    · exact .refl m
    · exact sendResponse_onlyAnswered ..

theorem giveAnswers_onlyAnswered (m : Mach) (key code : Nat) : OnlyAnswered m (giveAnswers m key code) :=
  List.foldlRecOn (motive := OnlyAnswered m) _ _ ⟨rfl⟩ fun _ hn _ _ => hn.trans (answer_onlyAnswered ..)

/-! ## A refused load (R256) -/

/-- From `a` to `n` a load has been refused: STANDBY without a job, with the code and the detail; HBM and the clock are as they were. -/
structure LoadRefused (a n : Mach) (code detail : Nat) : Prop where
  mode : n.mode = .standby
  job : n.job = none
  code : odGet n 0x3010 3 = code
  detail : odGet n 0x3010 4 = detail
  hbm : n.hbm = a.hbm
  now : n.now = a.now

/-- The default of the result of a load and of its detail is no machine's own. -/
theorem odGet_result_congr {a n : Mach} {sub : Nat} (hsub : sub = 3 ∨ sub = 4)
    (h : sget 0 n.od (objKey 0x3010 sub) = sget 0 a.od (objKey 0x3010 sub)) : odGet n 0x3010 sub = odGet a 0x3010 sub := by
  have hdefault : objDefault n (objKey 0x3010 sub) = objDefault a (objKey 0x3010 sub) := by
    rcases hsub with rfl | rfl <;> rfl
  unfold odGet
  rw [h, hdefault]

theorem odGet_setLoadResult_code (m : Mach) (code detail : Nat) : odGet (setLoadResult m code detail) 0x3010 3 = code := by
  unfold setLoadResult
  rw [odGet_result_congr (.inl rfl) (sget_od_odSet_ne _ (by decide) _), odGet_odSet_same]

theorem odGet_setLoadResult_detail (m : Mach) (code detail : Nat) : odGet (setLoadResult m code detail) 0x3010 4 = detail :=
  odGet_odSet_same ..

theorem refuseLoad_refused (m : Mach) (code detail : Nat) : LoadRefused m (refuseLoad m code detail) code detail := by
  unfold refuseLoad
  extract_lets m1
  obtain ⟨hkept, hentries⟩ := enterStandby_standby (setLoadResult m1 code detail)
  have hanswered := giveAnswers_onlyAnswered (enterStandby (setLoadResult m1 code detail)) (objKey 0x3000 1) (loadRefused code)
  exact {
    mode := hanswered.mode.trans hkept.mode
    job := hanswered.job.trans hkept.job
    code := by
      rw [hanswered.odGet_eq, odGet_result_congr (.inl rfl) (hentries _ (by decide) (by decide)), odGet_setLoadResult_code]
    detail := by
      rw [hanswered.odGet_eq, odGet_result_congr (.inr rfl) (hentries _ (by decide) (by decide)), odGet_setLoadResult_detail]
    hbm := hanswered.hbm.trans hkept.hbm
    now := hanswered.now.trans hkept.now }

/-! ## LOAD (R256, R261, R330) -/

/-- The machine in LOADING, with its job, that checks the image of a LOAD (`loadRun_eq`). -/
def checkingLoad (m : Mach) (v : Via) (data : List Byte) (j : Job) : Mach :=
  let e := enterLoading (holdAnswer { m with imageRetries := [] } v (objKey 0x3000 1) none)
  let stager := odGet e 0x3140 4 == 1
  { (if stager ∧ odGet e 0x5400 1 = 0 then e else readImage e data stager) with job := some j }

/-- The job that a LOAD asks for, not bound yet. -/
def askedJob (m : Mach) (data : List Byte) (img : Image) : Job :=
  { id := lo32 (field data 4 4), image := img, proof := odGet m 0x3010 1 == 1, map := [], ergMap := 0 }

/-- From `a` to `n` a LOAD is under way: LOADING with that job, HBM and clock as they were, and the answer owed. -/
structure Loading (a n : Mach) (j : Job) (v : Via) : Prop where
  mode : n.mode = .loading
  job : n.job = some j
  hbm : n.hbm = a.hbm
  now : n.now = a.now
  answers : n.answers = a.answers ++ [⟨v, objKey 0x3000 1, none⟩]

theorem checkingLoad_loading (m : Mach) (v : Via) (data : List Byte) (j : Job) :
    Loading m (checkingLoad m v data j) j v := by
  unfold checkingLoad
  extract_lets e stager
  have hentered := enterLoading_loadKept (holdAnswer { m with imageRetries := [] } v (objKey 0x3000 1) none)
  have hread : LoadKept _ (if stager ∧ odGet e 0x5400 1 = 0 then e else readImage e data stager) :=
    .ite hentered (hentered.trans (emit_onlyHostSide ..).loadKept)
  exact ⟨hread.mode, rfl, hread.hbm, hread.now, hread.answers⟩

/-- What the checks and the search for dunes make of a LOAD under way (`loadRun_eq`). -/
def decideLoad (m : Mach) (data : List Byte) (img : Image) (j : Job) : Mach :=
  match loadFault m data img j.proof with
  | some (code, detail) => refuseLoad (if code = 0x406 then count m 0x5401 4 2 else m) code detail
  | none =>
    match findMapping m img j.proof [] with
    | .inr (code, detail) => refuseLoad m code detail
    | .inl (mp, g) => placeJob (extendMeas m 4 img.digest) j mp g

theorem loadRun_eq (m : Mach) (v : Via) (data : List Byte) (img : Image) :
    loadRun m v data (some img) none =
      decideLoad (checkingLoad m v data (askedJob m data img)) data img (askedJob m data img) := rfl

theorem LoadRefused.of_kept {a m n : Mach} {code detail : Nat} (hhbm : m.hbm = a.hbm) (hnow : m.now = a.now)
    (h : LoadRefused m n code detail) : LoadRefused a n code detail :=
  { h with hbm := h.hbm.trans hhbm, now := h.now.trans hnow }

/-- The module after a refused load, without what it kept. -/
theorem LoadRefused.standby {a n : Mach} {code detail : Nat} (h : LoadRefused a n code detail) :
    n.mode = .standby ∧ n.job = none ∧ odGet n 0x3010 3 = code ∧ odGet n 0x3010 4 = detail :=
  ⟨h.mode, h.job, h.code, h.detail⟩

section
variable {m : Mach} {data : List Byte} {img : Image} {j : Job} {code detail : Nat}

/-- A check refuses the load; an image beyond the stager's BAR counts its failed reads besides. -/
theorem decideLoad_of_fault (h : loadFault m data img j.proof = some (code, detail)) :
    LoadRefused m (decideLoad m data img j) code detail := by
  have hcounted : LoadKept m (if code = 0x406 then count m 0x5401 4 2 else m) := .ite ⟨rfl, rfl, rfl, rfl, rfl⟩ (.refl m)
  unfold decideLoad
  rw [h]
  exact (refuseLoad_refused ..).of_kept hcounted.hbm hcounted.now

theorem decideLoad_of_unmapped (h : loadFault m data img j.proof = none)
    (hmap : findMapping m img j.proof [] = .inr (code, detail)) :
    LoadRefused m (decideLoad m data img j) code detail := by
  unfold decideLoad
  rw [h]
  dsimp only
  rw [hmap]
  exact refuseLoad_refused ..

theorem decideLoad_of_mapped {a : Mach} {v : Via} {mp : List (Nat × Nat)} {g : Nat} (hloading : Loading a m j v)
    (h : loadFault m data img j.proof = none) (hmap : findMapping m img j.proof [] = .inl (mp, g)) :
    Loading a (decideLoad m data img j) { j with map := mp, ergMap := g } v := by
  have hplaced := placeJob_loadKept (extendMeas m 4 img.digest) j mp g
  unfold decideLoad
  rw [h]
  dsimp only
  rw [hmap]
  exact ⟨hplaced.mode.trans hloading.mode, hplaced.job, hplaced.hbm.trans hloading.hbm, hplaced.now.trans hloading.now,
    hplaced.answers.trans hloading.answers⟩

end

theorem execJobLoad_accepted {s : State} {v : Via} {bytes : List Byte} (img : Image) (hcheck : jobCheck s.m v bytes = none)
    (hop : field bytes 0 1 = 1) :
    execJobLoad v bytes img s = .next { s with
      m := decideLoad (checkingLoad s.m v bytes (askedJob s.m bytes img)) bytes img (askedJob s.m bytes img) } := by
  simp [execJobLoad, nextM, commandRow, jobRun, hcheck, hop, loadRun_eq]

end Sys2Proof.Machine

/-! SUPPORT. LOAD_COMPLETE (R256, R270, R271, R330) and the start of a job of one module. The model's choices: the command makes the
checks of groups 4 and 6 (assumption 25), carries the effect of the plates' loads (assumption 30) and the trials of their banks
(assumption 42), and the job starts at the next whole microsecond of HTC (assumption 35). -/

namespace Sys2Proof.Machine

/-! ## Records placed (R177, R330, R331) -/

theorem serveHbm_jobKept (m : Mach) (a n : Nat) : JobKept m (serveHbm m a n) := by
  unfold serveHbm
  refine .after (.foldl (fun m i => ?_) _ _) (.of_eq rfl rfl rfl)
  exact .of_eq rfl rfl rfl

theorem storeBytes_jobKept (m : Mach) (a : Nat) (bytes : List Byte) : JobKept m (storeBytes m a bytes) := by
  induction bytes generalizing m a with
  | nil => exact .refl m
  | cons b bs ih =>
    have hbyte : JobKept m (storeByte m a b) := .ite (.of_eq rfl rfl rfl) (.of_eq rfl rfl rfl)
    exact hbyte.trans (ih _ _)

theorem dmaHbm_jobKept (m : Mach) (a : Nat) (bytes : List Byte) : JobKept m (dmaHbm m a bytes) := by
  have hrace : JobKept m (raceRemote m a bytes) := .ite (.refl m) (.of_eq rfl rfl rfl)
  exact (hrace.trans (storeBytes_jobKept ..)).trans (serveHbm_jobKept ..)

theorem clearPatch_jobKept (m : Mach) (a n : Nat) : JobKept m (clearPatch m a n) := .of_eq rfl rfl rfl

theorem golden_jobKept (m : Mach) (t : SMap (Option BankData)) : JobKept m { m with golden := t } := .of_eq rfl rfl rfl

theorem staging_jobKept (m : Mach) (t : SMap (Option BankData)) : JobKept m { m with staging := t } := .of_eq rfl rfl rfl

theorem goldenSet_jobKept (m : Mach) (v half : Nat) (r : Option BankData) : JobKept m (goldenSet m v half r) :=
  .after (golden_jobKept ..) (.after (serveHbm_jobKept ..) (clearPatch_jobKept ..))

theorem stagedSet_jobKept (m : Mach) (v g : Nat) (r : Option BankData) : JobKept m (stagedSet m v g r) :=
  .after (staging_jobKept ..) (.after (serveHbm_jobKept ..) (clearPatch_jobKept ..))

theorem placeRecord_jobKept (m : Mach) (d : MemDecl) (e : WeightEntry) (gen : Nat) :
    JobKept m (placeRecord m d e gen) := by
  unfold placeRecord
  extract_lets r
  split
  · exact goldenSet_jobKept ..
  · exact goldenSet_jobKept ..
  · exact .ite (goldenSet_jobKept ..) (stagedSet_jobKept ..)

theorem placeRecords_jobKept (m : Mach) (j : Job) : JobKept m (placeRecords m j) := by
  have hbuffer : JobKept m (fillLoadBuffer m j.image) := .foldl (fun m i => dmaHbm_jobKept ..) _ m
  exact hbuffer.trans (.foldl (fun m e => placeRecord_jobKept m j.image.mem e 1) _ _)

/-! ## Programs and plates written (R90, R106, R110, R124, R330) -/

theorem setThread_jobKept (m : Mach) (t : Thread) (v : ThreadState) : JobKept m (setThread m t v) := .of_eq rfl rfl rfl

theorem writePrograms_jobKept (m : Mach) (img : Image) (mp : List (Nat × Nat)) (va : Variant) :
    JobKept m (writePrograms m img mp va) := by
  unfold writePrograms
  refine .after (.foldl (fun m p => ?_) _ _) (.of_eq rfl rfl rfl)
  unfold writeCore
  split
  · exact .refl m
  next r _ =>
    extract_lets c ws m1
    have h1 : JobKept m m1 := .of_eq rfl rfl rfl
    exact h1.trans (.foldl (fun m (t : ThreadProg) => setThread_jobKept m ⟨c, t.num⟩ _) _ _)

theorem countRow_jobKept (m : Mach) (r : RowId) (idx sub n : Nat) : JobKept m (countRow m r idx sub n) :=
  countDune_jobKept ..

theorem countStripFirings_jobKept (m : Mach) (r : RowId) (n : Nat) : JobKept m (countStripFirings m r n) :=
  (countRow_jobKept ..).trans (countRow_jobKept ..)

theorem countTrial_jobKept (m : Mach) (r : RowId) (e : TrialEnd) : JobKept m (countTrial m r e) := by
  unfold countTrial
  extract_lets m1
  have h1 : JobKept m m1 := .of_eq rfl rfl rfl
  refine .ite h1 (.after (countStripFirings_jobKept ..) (.after (countRow_jobKept ..) ?_))
  exact ((h1.trans (countRow_jobKept ..)).trans (countRow_jobKept ..)).trans (countRow_jobKept ..)

theorem retireSite_jobKept (m : Mach) (r : RowId) (s : Nat) : JobKept m (retireSite m r s) :=
  .after (countRow_jobKept ..) (.of_eq rfl rfl rfl)

theorem serveRecord_jobKept (m : Mach) (d : BankData) (o n : Nat) : JobKept m (serveRecord m d o n) := by
  unfold serveRecord
  split
  · exact serveHbm_jobKept ..
  · exact .refl m

theorem loadBanks_jobKept (m : Mach) (ts : List SiteTrial) (r : RowId) (s plate : Nat) (d : MemDecl) (n : Nat) :
    JobKept m (loadBanks m ts r s plate d n) := by
  unfold loadBanks
  extract_lets fixedB w x serve ea eb k m1 m2 m3
  have hserve (bank : Bank) (a : Mach) : JobKept a (serve bank a) := by
    unfold serve
    split
    · exact serveRecord_jobKept ..
    · exact .refl a
  have h1 : JobKept m m1 := .of_eq rfl rfl rfl
  have h2 : JobKept m m2 := (h1.trans (hserve .a m1)).trans (hserve .b _)
  have h3 : JobKept m m3 := .after (countTrial_jobKept ..) (.after (countTrial_jobKept ..)
    (.after (countStripFirings_jobKept ..) (h2.trans (countRow_jobKept ..))))
  exact .ite (h3.trans (retireSite_jobKept ..)) h3

theorem loadRow_jobKept (m : Mach) (ts : List SiteTrial) (r : RowId) (d : MemDecl) (n : Nat) (st : SiteState) :
    JobKept m (loadRow m ts r d n st) := by
  unfold loadRow
  refine .foldl (fun m e => ?_) _ m
  extract_lets m1 w
  have h1 : JobKept m m1 := loadBanks_jobKept ..
  exact .ite h1 (h1.trans (.of_eq rfl rfl rfl))

theorem loadAllRows_jobKept (m : Mach) (ts : List SiteTrial) (d : MemDecl) (n : Nat) (st : SiteState) :
    JobKept m (loadAllRows m ts d n st) :=
  .foldl (fun m _ => .foldl (fun m r => loadRow_jobKept m ts r d n st) _ m) _ m

/-! ## The load ends and the job starts (R225, R281, R330, R454) -/

/-- The module loads the job `j`, and the clock has not run back from `t`. -/
structure LoadsJob (j : Job) (t : Nat) (m : Mach) : Prop where
  mode : m.mode = .loading
  job : m.job = some j
  now : t ≤ m.now

theorem LoadsJob.keep {j : Job} {t : Nat} {m n : Mach} (h : LoadsJob j t m) (h' : JobKept m n) : LoadsJob j t n where
  mode := h'.mode.trans h.mode
  job := (h'.job (by simp [beatsRun, h.mode])).trans h.job
  now := Nat.le_trans h.now h'.now

theorem finishLoad_loadsJob {j : Job} {t : Nat} {m : Mach} (h : LoadsJob j t m) (ts : List SiteTrial) :
    LoadsJob { j with loaded := true } t (finishLoad m ts j) := by
  unfold finishLoad
  extract_lets d m1 m2 m3
  have hset : JobKept m m1 := .of_eq rfl rfl rfl
  have hwritten : JobKept m m2 := .after (loadAllRows_jobKept ..) (.after (clearRows_loadKept _).jobKept
    (hset.trans (writePrograms_jobKept ..)))
  have h2 : LoadsJob j t m2 := h.keep hwritten
  have h3 : LoadsJob { j with loaded := true } t m3 := ⟨h2.mode, by simp [m3, h2.job], h2.now⟩
  exact h3.keep (OnlyHostSide.after (count_onlyHostSide ..)
    (.after (odSet_onlyHostSide ..) (odSet_onlyHostSide ..))).jobKept

/-- A job on its anchor, with no beat started. -/
def jobAtFirstBeat (j : Job) : Job :=
  { j with announcedTo := 0, levelAnnounced := 0, planHeld := none, startAt := none, nextClose := 0, sampledTo := 0
           lastStarted := none, faultBeat := none, faultNext := none, slotBase := 0 }

theorem setDune_loadKept (m : Mach) (d : DuneId) (x : DuneState) : LoadKept m (setDune m d x) := ⟨rfl, rfl, rfl, rfl, rfl⟩

theorem setAnchor_loadKept (m : Mach) (anchor n level : Nat) :
    LoadKept { m with job := m.job.map fun j =>
      { j with announcedTo := 0, levelAnnounced := level, planHeld := none, startAt := none } } (setAnchor m anchor n level) := by
  unfold setAnchor
  extract_lets p
  have hdunes : LoadKept m ((jobDunes m).foldl (fun m d => setDune m d { getDune m d with
      anchor, anchorBeat := n, period := p, level, nextBeat := n, beat := none, pausedFrom := none, changes := [], fixes := []
      frozen := false }) (writeTables m ((m.job.map fun j => unusableDunes m j.lost).getD []))) :=
    .after (.foldl (fun m d => setDune_loadKept m d _) _ _) (writeTables_loadKept ..)
  exact ⟨hdunes.mode, rfl, hdunes.hbm, hdunes.now, hdunes.answers⟩

theorem resetWindows_loadKept (m : Mach) : LoadKept m (resetWindows m) := by
  unfold resetWindows
  refine .foldl (fun m f => ?_) _ m
  extract_lets fn m1
  have h1 : LoadKept m m1 := ⟨rfl, rfl, rfl, rfl, rfl⟩
  refine .ite (.after ?_ h1) h1
  unfold resetWindow writeCredit
  exact .after (OnlyHostSide.after (msixHeld_onlyHostSide ..) (hostWrite_onlyHostSide ..)).loadKept ⟨rfl, rfl, rfl, rfl, rfl⟩

/-- From `a` to `n` a level may have been announced: of the job only what has been announced or sent has changed. -/
structure LevelAnnounced (a n : Mach) : Prop where
  mode : n.mode = a.mode
  now : n.now = a.now
  job : ∀ j, a.job = some j → ∃ sent named level,
    n.job = some { j with levelSent := sent, announcedTo := named, levelAnnounced := level }

theorem LevelAnnounced.refl (a : Mach) : LevelAnnounced a a := ⟨rfl, rfl, fun _ h => ⟨_, _, _, h⟩⟩

theorem announcePeriod_levelAnnounced (m : Mach) (n level period : Nat) :
    LevelAnnounced m (announcePeriod m n level period) := by
  unfold announcePeriod
  extract_lets m1 m2
  have hsent : OnlyAnnounced m2 (broadcastJob m2 3 3 (lo32 n) (hi32 n) (changeWord 0 level period)) :=
    broadcastJob_onlyAnnounced ..
  refine ⟨hsent.mode, hsent.engineKept.now, fun j hjob =>
    ⟨j.levelSent, max j.announcedTo n, level, hsent.job.trans ?_⟩⟩
  simp only [m2, m1, noteBeat, hjob, Option.map_some]

theorem announceLevel_levelAnnounced (m : Mach) : LevelAnnounced m (announceLevel m) := by
  unfold announceLevel
  split
  · exact .refl m
  · split
    · extract_lets own
      split
      · exact .refl m
      · exact ⟨rfl, rfl, fun j hjob => ⟨some own, _, _, congrArg (Option.map _) hjob⟩⟩
    · extract_lets d own level m1
      have hdrawn : m1.mode = m.mode ∧ m1.now = m.now ∧ m1.job = m.job := by
        unfold m1
        split <;> exact ⟨rfl, rfl, rfl⟩
      obtain ⟨hmode, hnow, hjob⟩ := hdrawn
      split
      · exact ⟨hmode, hnow, fun _ h => ⟨_, _, _, hjob.trans h⟩⟩
      · have hperiod := announcePeriod_levelAnnounced m1 (firstAnnounceable m1) level (periodOf m1 level)
        exact ⟨hperiod.mode.trans hmode, hperiod.now.trans hnow, fun j h => hperiod.job j (hjob.trans h)⟩

/-- The job runs, and no beat of it has started. -/
structure RunsFromFirstBeat (j : Job) (t : Nat) (n : Mach) : Prop where
  mode : n.mode = .running
  now : t ≤ n.now
  job : ∃ sent named level,
    n.job = some { jobAtFirstBeat j with levelSent := sent, announcedTo := named, levelAnnounced := level }

theorem RunsFromFirstBeat.answered {j : Job} {t : Nat} {m n : Mach} (h : RunsFromFirstBeat j t m) (h' : OnlyAnswered m n) :
    RunsFromFirstBeat j t n where
  mode := h'.mode.trans h.mode
  now := h'.now ▸ h.now
  job := h'.job ▸ h.job

theorem startJob_runsFromFirstBeat {j : Job} {t : Nat} {m : Mach} (h : LoadsJob j t m) (t0 : Nat) :
    RunsFromFirstBeat j t (startJob m t0) := by
  unfold startJob
  extract_lets m1 m2 m3 base m4
  have h1 : LoadsJob j t m1 := h.keep (advance_jobKept ..)
  have hanchor := setAnchor_loadKept m1 t0 0 0
  have hjob : m4.job = some (jobAtFirstBeat j) := by
    simp only [m4, m3, show m2.job = _ from hanchor.job, h1.job, Option.map_some]
    rfl
  have hrunning : LoadKept { m4 with mode := .running } (resetWindows (setState m4 .running)) :=
    (setState_loadKept ..).trans (resetWindows_loadKept _)
  have hlevel := announceLevel_levelAnnounced (resetWindows (setState m4 .running))
  exact {
    mode := hlevel.mode.trans hrunning.mode
    now := by
      rw [hlevel.now, hrunning.now, show m4.now = m1.now from hanchor.now]
      exact h1.now
    job := hlevel.job _ (hrunning.job.trans hjob) }

/-- The job started at the next whole microsecond of HTC, as that of one module is (assumption 35). -/
def startNow (m : Mach) : Mach := startJob m ((htcNow m / 1000 + 1) * 1000)

section
variable {s : State} {j : Job} (trials : List SiteTrial) (hjob : s.m.job = some j) (hmode : s.m.mode = .loading)
  (hloaded : j.loaded = false)
include hjob hmode hloaded

theorem execLoadComplete_of_late_fault {code detail : Nat} (hlate : lateChecks j.image = some (code, detail)) :
    execLoadComplete trials s = .next { s with m := refuseLoad s.m code detail } := by
  simp [execLoadComplete, nextM, hjob, hmode, hloaded, hlate]

theorem execLoadComplete_of_sound (hlate : lateChecks j.image = none) (hmodules : j.image.modules ≤ 1)
    (hlost : lostTrials (placeRecords s.m j) j.image.mem trials = []) :
    execLoadComplete trials s =
      .next { s with m := giveAnswers (startNow (finishLoad (placeRecords s.m j) trials j)) (objKey 0x3000 1) 0 } := by
  simp only [execLoadComplete, nextM, hjob, hmode, hloaded, hlate, hlost, Nat.not_lt.mpr hmodules, ne_eq, not_true_eq_false,
    Bool.false_eq_true, or_self, if_false, List.isEmpty_nil, Bool.not_true, startNow]

end

/-- Settles O36: a LOAD under way (`checkingLoad_loading`) is refused by a check (`decideLoad_of_fault`) or by the search for dunes
(`decideLoad_of_unmapped`), or bound (`decideLoad_of_mapped`); LOAD_COMPLETE refuses (`refuseLoad_refused`) or finishes the load and
starts the job (`startJob_runsFromFirstBeat`). -/
theorem jobsLoad : Obligations.JobsLoad := by
  intro s
  refine ⟨fun v bytes img hcheck hop => ?load, fun j trials hjob hmode hloaded =>
    ⟨fun code detail hlate => ?late, fun hlate hmodules hlost => ?start⟩⟩
  case load =>
    intro j e stager m
    have hm : m = checkingLoad s.m v bytes j := rfl
    have hloading : Loading s.m m j v := hm ▸ checkingLoad_loading ..
    have hexec : exec (.jobLoad v bytes img) s = .next { s with m := decideLoad m bytes img j } :=
      execJobLoad_accepted img hcheck hop
    clear_value m j
    match hfault : loadFault m bytes img j.proof, hmap : findMapping m img j.proof [] with
    | some (code, detail), _ =>
      have hrefused := (decideLoad_of_fault hfault).of_kept hloading.hbm hloading.now
      exact ⟨_, hexec, hrefused.hbm, hrefused.now, by rintro _ _ ⟨⟩; exact hrefused.standby, nofun, nofun⟩
    | none, .inr (code, detail) =>
      have hrefused := (decideLoad_of_unmapped hfault hmap).of_kept hloading.hbm hloading.now
      exact ⟨_, hexec, hrefused.hbm, hrefused.now, nofun, by rintro _ _ - ⟨⟩; exact hrefused.standby, nofun⟩
    | none, .inl (mp, g) =>
      have hbound := decideLoad_of_mapped hloading hfault hmap
      exact ⟨_, hexec, hbound.hbm, hbound.now, nofun, nofun,
        by rintro _ _ - ⟨⟩; exact ⟨hbound.mode, hbound.job, hbound.answers⟩⟩
  case late =>
    exact ⟨_, execLoadComplete_of_late_fault trials hjob hmode hloaded hlate, (refuseLoad_refused s.m code detail).standby⟩
  case start =>
    have hexec := execLoadComplete_of_sound trials hjob hmode hloaded hlate hmodules hlost
    have hloads : LoadsJob j s.m.now s.m := ⟨hmode, hjob, Nat.le_refl _⟩
    have hfinished := finishLoad_loadsJob (hloads.keep (placeRecords_jobKept s.m j)) trials
    have hruns : RunsFromFirstBeat { j with loaded := true } s.m.now (startNow (finishLoad (placeRecords s.m j) trials j)) :=
      startJob_runsFromFirstBeat hfinished _
    have hanswered := hruns.answered (giveAnswers_onlyAnswered _ (objKey 0x3000 1) 0)
    obtain ⟨sent, named, level, hstarted⟩ := hanswered.job
    exact ⟨_, hexec, hanswered.mode, ⟨_, hstarted, rfl, rfl, rfl, rfl, rfl, rfl⟩, hanswered.now⟩

end Sys2Proof.Machine

/-! SUPPORT. The intake windows (R275–R280): the bytes of a write in its slot, the slot armed by its final byte, and the slot taken
in turn with its credit. -/

namespace Sys2Proof.Machine

/-! ## Signals of a function: host writes and interrupts (R397, R401) -/

/-- From `a` to `n` only outputs and the interrupt state of function `f` may have changed. -/
structure OnlySignals (f : Nat) (a n : Mach) : Prop where
  frame : n = { a with fns := n.fns, out := n.out }
  fn : getFn n f = { getFn a f with
    pba := (getFn n f).pba, heldOff := (getFn n f).heldOff, lastMsix := (getFn n f).lastMsix }
  others : ∀ e, e ≠ f → getFn n e = getFn a e

namespace OnlySignals

variable {f : Nat} {a m n : Mach}

theorem refl (f : Nat) (a : Mach) : OnlySignals f a a := ⟨rfl, rfl, fun _ _ => rfl⟩

theorem trans (h : OnlySignals f a m) (h' : OnlySignals f m n) : OnlySignals f a n where
  frame := h'.frame.trans (by rw [h.frame])
  fn := h'.fn.trans (by rw [h.fn])
  others e he := (h'.others e he).trans (h.others e he)

theorem ite {p : Prop} [Decidable p] (h : OnlySignals f a m) (h' : OnlySignals f a n) : OnlySignals f a (if p then m else n) := by
  split
  · exact h
  · exact h'

theorem engineKept (h : OnlySignals f a n) : EngineKept a n := by constructor <;> rw [h.frame]

theorem orderCount (h : OnlySignals f a n) : n.orderCount = a.orderCount := by rw [h.frame]

theorem armed (h : OnlySignals f a n) : (getFn n f).armed = (getFn a f).armed := by rw [h.fn]
theorem next (h : OnlySignals f a n) : (getFn n f).next = (getFn a f).next := by rw [h.fn]
theorem consumed (h : OnlySignals f a n) : (getFn n f).consumed = (getFn a f).consumed := by rw [h.fn]
theorem taken (h : OnlySignals f a n) : (getFn n f).taken = (getFn a f).taken := by rw [h.fn]

theorem odGet_eq (h : OnlySignals f a n) (idx sub : Nat) : odGet n idx sub = odGet a idx sub := by
  rw [h.frame]
  rfl

end OnlySignals

theorem emit_onlySignals (f : Nat) (m : Mach) (o : Output) : OnlySignals f m (emit m o) := ⟨rfl, rfl, fun _ _ => rfl⟩

/-- A change of the interrupt state of a function. -/
theorem setFn_onlySignals {f : Nat} {m : Mach} {v : Fn}
    (h : v = { getFn m f with pba := v.pba, heldOff := v.heldOff, lastMsix := v.lastMsix }) : OnlySignals f m (setFn m f v) where
  frame := rfl
  fn := by
    rw [getFn_setFn_same]
    exact h
  others _ he := getFn_setFn_ne m v he

theorem hostWrite_onlySignals (f : Nat) (m : Mach) (fn addr : Nat) (bytes : List Byte) :
    OnlySignals f m (hostWrite m fn addr bytes) := by
  unfold hostWrite
  exact .ite (.refl f m) (List.foldlRecOn _ _ (.refl f m) fun n hn p _ => hn.trans (emit_onlySignals f n _))

theorem msixGenerate_onlySignals (m : Mach) (f v : Nat) : OnlySignals f m (msixGenerate m f v) := by
  unfold msixGenerate
  exact .ite (.refl f m) (.ite (setFn_onlySignals rfl) (emit_onlySignals f m _))

theorem msixHeld_onlySignals (m : Mach) (f v : Nat) : OnlySignals f m (msixHeld m f v) := by
  unfold msixHeld
  exact .ite (setFn_onlySignals rfl) ((setFn_onlySignals rfl).trans (msixGenerate_onlySignals ..))

theorem writeCredit_onlySignals (m : Mach) (f : Nat) : OnlySignals f m (writeCredit m f) :=
  (hostWrite_onlySignals ..).trans (msixHeld_onlySignals ..)

/-! ## The bytes of a write (R278) -/

/-- Bytes stored one by one at their places in a map are bytes written from the first place on. -/
theorem foldl_sset_eq_writeBytes (data : List Byte) : ∀ (mem : List Host.Cell) (a k : Nat),
    (data.zipIdx k).foldl (fun s e => sset 0 s (a + e.2) e.1) mem = writeBytes mem (a + k) data := by
  induction data with
  | nil => intro _ _ _; rfl
  | cons b rest ih =>
    intro mem a k
    exact ih _ a (k + 1)

section
variable {offset : Nat} {data : List Byte}

/-- A write that stays in one slot has all its bytes there. -/
theorem slotBytes_eq_all (hfits : offset % 128 + data.length ≤ 128) (hwindow : offset < 4096) :
    slotBytes offset data (offset / 128) = data.zipIdx.map fun e => (offset + e.2, e.1) := by
  refine List.filter_eq_self.mpr fun e he => ?_
  obtain ⟨⟨b, i⟩, hi, rfl⟩ := List.mem_map.mp he
  have hlt : i < data.length := by simpa using (List.mem_zipIdx hi).2.1
  have hslot : (offset + i) / 128 = offset / 128 := by omega
  have hbyte : offset + i < 4096 := by omega
  simp [hslot, hbyte]

/-- A write that stays in one slot has no byte in another. -/
theorem slotBytes_eq_nil (hfits : offset % 128 + data.length ≤ 128) {k : Nat} (hk : k ≠ offset / 128) :
    slotBytes offset data k = [] := by
  refine List.filter_eq_nil_iff.mpr fun e he => ?_
  obtain ⟨⟨b, i⟩, hi, rfl⟩ := List.mem_map.mp he
  have hlt : i < data.length := by simpa using (List.mem_zipIdx hi).2.1
  have hslot : (offset + i) / 128 ≠ k := by omega
  simp [hslot]

end

theorem foldl_eq_self {α β : Type} {g : β → α → β} {l : List α} (h : ∀ x ∈ l, ∀ b, g b x = b) (b : β) :
    l.foldl g b = b :=
  List.foldlRecOn (motive := (· = b)) l g rfl fun c hc x hx => (h x hx c).trans hc

theorem writeSlot_nil (m : Mach) (f k : Nat) : writeSlot m f k [] = m := rfl

theorem writeIntake_one_slot (m : Mach) (f : Nat) {offset : Nat} {data : List Byte} (hfits : offset % 128 + data.length ≤ 128)
    (hwindow : offset < 4096) :
    writeIntake m f offset data = writeSlot m f (offset / 128) (data.zipIdx.map fun e => (offset + e.2, e.1)) := by
  have hmem : offset / 128 ∈ List.range 32 := List.mem_range.mpr (by omega)
  obtain ⟨before, after, hsplit⟩ := List.append_of_mem hmem
  obtain ⟨-, htail, hapart⟩ := List.nodup_append.mp (hsplit ▸ List.nodup_range (n := 32))
  have hskips {k : Nat} (hne : k ≠ offset / 128) (n : Mach) : writeSlot n f k (slotBytes offset data k) = n := by
    rw [slotBytes_eq_nil hfits hne, writeSlot_nil]
  have hbefore : ∀ k ∈ before, k ≠ offset / 128 := fun k hk => hapart k hk _ List.mem_cons_self
  have hafter : ∀ k ∈ after, k ≠ offset / 128 := fun k hk heq => (List.nodup_cons.mp htail).1 (heq ▸ hk)
  unfold writeIntake
  rw [hsplit, List.foldl_append, List.foldl_cons, foldl_eq_self fun k hk => hskips (hbefore k hk),
    foldl_eq_self fun k hk => hskips (hafter k hk), slotBytes_eq_all hfits hwindow]

/-! ## A slot written (R276) -/

/-- The bytes of a write with their offsets in the window, as `writeSlot` takes them. -/
def placed (offset : Nat) (data : List Byte) : List (Nat × Byte) := data.zipIdx.map fun e => (offset + e.2, e.1)

/-- The byte at which a slot is armed: its last one. -/
def isFinal (e : Nat × Byte) : Bool := e.1 % 128 == 127

section
variable {m : Mach} {f k offset : Nat} {data : List Byte} {e : Nat × Byte}

/-- A slot's final byte is the last one of a write that fills the slot to its end. -/
theorem final_of_find_some (hfits : offset % 128 + data.length ≤ 128) (h : (placed offset data).find? isFinal = some e) :
    offset % 128 + data.length = 128 ∧ e.2 = data.getD (data.length - 1) 0 := by
  obtain ⟨⟨b, i⟩, hi, rfl⟩ := List.mem_map.mp (List.mem_of_find?_eq_some h)
  have hfinal : (offset + i) % 128 = 127 := by simpa [isFinal] using List.find?_some h
  have hbyte : data[i]? = some b := List.mem_zipIdx_iff_getElem?.mp hi
  have hlt : i < data.length := (List.getElem?_eq_some_iff.mp hbyte).1
  have hlast : data.length - 1 = i := by omega
  refine ⟨by omega, ?_⟩
  rw [hlast, List.getD_eq_getElem?_getD, hbyte, Option.getD_some]

theorem not_final_of_find_none (hdata : 0 < data.length) (h : (placed offset data).find? isFinal = none) :
    offset % 128 + data.length ≠ 128 := by
  intro hfull
  have hlt : data.length - 1 < data.length := by omega
  have hmem : (offset + (data.length - 1), data[data.length - 1]) ∈ placed offset data :=
    List.mem_map.mpr ⟨(data[data.length - 1], data.length - 1),
      List.mem_zipIdx_iff_getElem?.mpr (List.getElem?_eq_getElem hlt), rfl⟩
  have hnot := List.find?_eq_none.mp h _ hmem
  have hfinal : (offset + (data.length - 1)) % 128 = 127 := by omega
  simp [isFinal, hfinal] at hnot

/-- The machine with bytes standing in intake window `f` from an offset on. -/
def withIntake (m : Mach) (f offset : Nat) (data : List Byte) : Mach :=
  { m with intake := writeBytes m.intake (4096 * f + offset) data }

/-- The function with slot `k` armed and its next phase expected. -/
def armedAt (fn : Fn) (k : Nat) : Fn :=
  { fn with armed := fn.armed ||| BitVec.ofNat 32 (2 ^ k), expected := fn.expected ^^^ BitVec.ofNat 32 (2 ^ k) }

theorem foldl_placed (mem : List Host.Cell) (f offset : Nat) (data : List Byte) :
    (placed offset data).foldl (fun s e => sset 0 s (4096 * f + e.1) e.2) mem = writeBytes mem (4096 * f + offset) data := by
  simp only [placed, List.foldl_map, ← Nat.add_assoc]
  exact foldl_sset_eq_writeBytes data mem (4096 * f + offset) 0

section
variable (harmed : (getFn m f).armed = 0) (hdata : 0 < data.length)
include harmed hdata

theorem writeSlot_of_no_final (h : (placed offset data).find? isFinal = none) :
    writeSlot m f k (placed offset data) = withIntake m f offset data := by
  have hsome : (placed offset data).isEmpty = false := by simpa [placed, ← List.length_pos_iff] using hdata
  have hfree : (getFn m f).armed.getLsbD k = false := by simp [harmed]
  have hfind : (placed offset data).find? (fun e => e.1 % 128 == 127) = none := h
  simp only [writeSlot, hsome, hfree, hfind, Bool.false_eq_true, if_false, foldl_placed]
  rfl

theorem writeSlot_of_final (h : (placed offset data).find? isFinal = some e) :
    writeSlot m f k (placed offset data) =
      if e.2.getLsbD 0 = (getFn m f).expected.getLsbD k then
        setFn (withIntake m f offset data) f (armedAt (getFn m f) k)
      else withIntake m f offset data := by
  have hsome : (placed offset data).isEmpty = false := by simpa [placed, ← List.length_pos_iff] using hdata
  have hfree : (getFn m f).armed.getLsbD k = false := by simp [harmed]
  have hfind : (placed offset data).find? (fun e => e.1 % 128 == 127) = some e := h
  simp only [writeSlot, hsome, hfree, hfind, Bool.false_eq_true, if_false, foldl_placed]
  rfl

end

theorem getLsbD_slotBit (hk : k < 32) : (BitVec.ofNat 32 (2 ^ k)).getLsbD k = true := by
  rw [BitVec.getLsbD_ofNat, Nat.testBit_two_pow_self, decide_eq_true hk, Bool.true_and]

theorem armedAt_armed_same (fn : Fn) (hk : k < 32) : (armedAt fn k).armed.getLsbD k = true := by
  rw [armedAt, BitVec.getLsbD_or, getLsbD_slotBit hk, Bool.or_true]

/-- From `m` to `n` the bytes have come to stand in window `f`, and nothing of the engine or of another function has changed. -/
structure SlotWritten (m n : Mach) (f offset : Nat) (data : List Byte) (armed : Bool) : Prop where
  intake : n.intake = writeBytes m.intake (4096 * f + offset) data
  armed : (getFn n f).armed.getLsbD (offset / 128) = armed
  others : ∀ e, e ≠ f → getFn n e = getFn m e
  engine : EngineKept m n

theorem withIntake_engineKept (m : Mach) (f offset : Nat) (data : List Byte) : EngineKept m (withIntake m f offset data) :=
  ⟨rfl, rfl, rfl, rfl, rfl, rfl, rfl, rfl, rfl, rfl⟩

theorem writeIntake_slotWritten (harmed : (getFn m f).armed = 0) (hdata : 0 < data.length)
    (hfits : offset % 128 + data.length ≤ 128) (hwindow : offset < 4096) :
    SlotWritten m (writeIntake m f offset data) f offset data (offset % 128 + data.length == 128 &&
      (data.getD (data.length - 1) 0).getLsbD 0 == (getFn m f).expected.getLsbD (offset / 128)) := by
  have hunarmed : SlotWritten m (withIntake m f offset data) f offset data false := {
    intake := rfl
    armed := by simp [show getFn (withIntake m f offset data) f = getFn m f from rfl, harmed]
    others := fun _ _ => rfl
    engine := withIntake_engineKept .. }
  have harm : SlotWritten m (setFn (withIntake m f offset data) f (armedAt (getFn m f) (offset / 128))) f offset data true := {
    intake := rfl
    armed := by rw [getFn_setFn_same, armedAt_armed_same _ (by omega)]
    others := fun e he => getFn_setFn_ne _ _ he
    engine := (withIntake_engineKept ..).trans (setFn_onlyHostSide ..).engineKept }
  rw [writeIntake_one_slot m f hfits hwindow]
  change SlotWritten m (writeSlot m f (offset / 128) (placed offset data)) ..
  cases hfind : (placed offset data).find? isFinal with
  | none =>
    rw [writeSlot_of_no_final harmed hdata hfind]
    rw [beq_false_of_ne (not_final_of_find_none hdata hfind), Bool.false_and]
    exact hunarmed
  | some e =>
    obtain ⟨hfull, hlast⟩ := final_of_find_some hfits hfind
    rw [writeSlot_of_final harmed hdata hfind, hfull, ← hlast, beq_self_eq_true, Bool.true_and]
    split
    next hphase =>
      rw [hphase, beq_self_eq_true]
      exact harm
    next hphase =>
      rw [beq_false_of_ne hphase]
      exact hunarmed

end

theorem execIntakeSlotWrite_powered {s : State} (hpowered : powered s.m = true) (f : Fin 16) (offset : Fin 4096)
    (data : List Byte) :
    execIntakeSlotWrite f offset data s = .next { s with m := writeIntake s.m f.val offset.val data } := by
  simp only [execIntakeSlotWrite, nextM, hpowered, if_true]

/-! ## A slot taken in turn (R277, R279, R280) -/

/-- The function once its slot in turn has been taken with its descriptor, as number `k` in the order of consumption. -/
def slotTaken (fn : Fn) (k : Nat) (d : Descriptor) : Fn :=
  { fn with armed := fn.armed &&& ~~~ BitVec.ofNat 32 (2 ^ fn.next), next := (fn.next + 1) % 32, consumed := fn.consumed + 1,
            taken := fn.taken ++ [(k, d)] }

theorem slotTaken_armed_next (fn : Fn) (k : Nat) (d : Descriptor) (hnext : fn.next < 32) :
    (slotTaken fn k d).armed.getLsbD fn.next = false := by
  rw [slotTaken, BitVec.getLsbD_and, BitVec.getLsbD_not, getLsbD_slotBit hnext, Bool.not_true, Bool.and_false, Bool.and_false]

/-- A context is free for one more SUBMIT of function `f` (R277, R285). -/
def roomFor (m : Mach) (f : Nat) : Prop :=
  contextsTaken m < 16384 ∧ (liveOf m f).length + submitsTaken (getFn m f) < odGet m (0x3110 + f) 2

/-- The machine that has taken the descriptor of the slot in turn, before the credit goes out. -/
def withTaken (m : Mach) (f : Nat) (d : Descriptor) : Mach :=
  let m := { setFn m f (slotTaken (getFn m f) m.orderCount d) with orderCount := m.orderCount + 1 }
  if d.opcode = 1 then serves m 1 else m

section
variable (m : Mach) (f : Nat) (d : Descriptor)

theorem withTaken_orderCount : (withTaken m f d).orderCount = m.orderCount + 1 := by
  unfold withTaken
  split <;> rfl

theorem getFn_withTaken_same : getFn (withTaken m f d) f = slotTaken (getFn m f) m.orderCount d := by
  unfold withTaken
  split <;> exact getFn_setFn_same ..

theorem getFn_withTaken_ne {e : Nat} (he : e ≠ f) : getFn (withTaken m f d) e = getFn m e := by
  unfold withTaken
  split <;> exact getFn_setFn_ne m _ he

theorem withTaken_engineKept : EngineKept m (withTaken m f d) := by
  unfold withTaken
  split <;> exact ⟨rfl, rfl, rfl, rfl, rfl, rfl, rfl, rfl, rfl, rfl⟩

end

section
variable {s : State} {f : Fin 16} (hserved : served s.m f.val = true)
  (harmed : (getFn s.m f.val).armed.getLsbD (getFn s.m f.val).next = true)
include hserved harmed

theorem execSlotConsume_takes {d : Descriptor} (hd : slotDescriptor s.m f.val (getFn s.m f.val).next = d)
    (hroom : d.opcode ≠ 1 ∨ roomFor s.m f.val) :
    execSlotConsume f s = .next { s with m := writeCredit (withTaken s.m f.val d) f.val } := by
  subst hd
  rcases hroom with hother | ⟨hall, hown⟩
  · simp only [execSlotConsume, nextM, hserved, harmed, hother, Bool.not_true, Bool.false_eq_true, false_and, or_self, if_false]
    rw [withTaken, if_neg hother]
    rfl
  · simp only [execSlotConsume, nextM, hserved, harmed, hall, hown, and_self, decide_true, Bool.not_true, Bool.false_eq_true,
      and_false, or_self, if_false]
    rfl

theorem execSlotConsume_waits (hsubmit : (slotDescriptor s.m f.val (getFn s.m f.val).next).opcode = 1)
    (hfull : ¬ roomFor s.m f.val) : execSlotConsume f s = .next s := by
  unfold roomFor at hfull
  simp only [execSlotConsume, nextM, hserved, harmed, hsubmit, hfull, Bool.not_true, Bool.false_eq_true, or_self, if_false,
    decide_false, Bool.not_false, and_self, if_true]

end

/-- Settles O38: a write is `writeIntake_slotWritten`, whose bytes read back as `writeBytes` has them; the slot in turn is taken
(`execSlotConsume_takes`), and writing the credit only signals (`writeCredit_onlySignals`), or it waits (`execSlotConsume_waits`). -/
theorem intakeSlotsAreWrittenAndConsumed : Obligations.IntakeSlotsAreWrittenAndConsumed := by
  refine ⟨fun s f offset bytes hpowered harmed hfits hdata => ?write, fun s f hserved harmed hnext => ?consume⟩
  case write =>
    have hwritten := writeIntake_slotWritten harmed hdata hfits offset.isLt
    refine ⟨_, execIntakeSlotWrite_powered hpowered .., fun i hi => ?_, fun a ha => ?_, hwritten.armed, hwritten.others,
      hwritten.engine⟩
    · rw [hwritten.intake]
      exact (readByte_writeBytes_in bytes _ _ i hi).trans (by simp [hi])
    · rw [hwritten.intake]
      exact readByte_writeBytes_out bytes _ _ a ha
  case consume =>
    intro fn d room
    refine ⟨fun hroom => ?takes, fun hsubmit hfull => ⟨_, execSlotConsume_waits hserved harmed hsubmit hfull, rfl⟩⟩
    have hsignals := writeCredit_onlySignals (withTaken s.m f.val d) f.val
    have htaken := getFn_withTaken_same s.m f.val d
    have hfreed : (getFn (writeCredit (withTaken s.m f.val d) f.val) f.val).armed.getLsbD fn.next = false := by
      rw [hsignals.armed, htaken]
      exact slotTaken_armed_next _ _ _ hnext
    exact ⟨_, execSlotConsume_takes hserved harmed rfl hroom, hfreed, hsignals.next.trans (by rw [htaken, slotTaken]),
      hsignals.consumed.trans (by rw [htaken, slotTaken]), hsignals.taken.trans (by rw [htaken, slotTaken]),
      hsignals.orderCount.trans (withTaken_orderCount ..), fun e he => (hsignals.others e he).trans (getFn_withTaken_ne _ _ _ he),
      (withTaken_engineKept ..).trans hsignals.engineKept⟩

end Sys2Proof.Machine

/-! SUPPORT. Descriptors carried out by a function's steward (R279, R283, R301–R303, R322), and a SUBMIT accepted (R285). That a
request goes to the lowest FREE context is the model's choice (assumption 29). -/

namespace Sys2Proof.Machine

/-! ## The descriptor in front (R276, R279) -/

/-- The machine whose function `f` has no longer the descriptor in front. -/
def withoutFront (m : Mach) (f : Nat) (rest : List (Nat × Descriptor)) : Mach := setFn m f { getFn m f with taken := rest }

theorem withoutFront_engineKept (m : Mach) (f : Nat) (rest : List (Nat × Descriptor)) : EngineKept m (withoutFront m f rest) :=
  (setFn_onlyHostSide ..).engineKept

/-- A descriptor of the opcode, with no reserved bit of its phase byte set where that matters, is carried out. -/
theorem carryOut_front {m : Mach} {f k : Nat} {d : Descriptor} {rest : List (Nat × Descriptor)} {op : Nat → Bool}
    (hfront : (getFn m f).taken = (k, d) :: rest) (hop : op d.opcode = true) (hphase : d.opcode = 1 ∨ d.phaseByte.toNat < 2)
    (act : Mach → Nat → Descriptor → Mach) : carryOut m f op act = act (withoutFront m f rest) k d := by
  have hacts : ¬ (d.opcode ≠ 1 ∧ d.phaseByte.toNat / 2 ≠ 0) := by omega
  simp only [carryOut, hfront, hop, hacts, Bool.not_true, Bool.false_eq_true, if_false]
  rfl

/-! ## What a read from the host leaves (R397) -/

theorem foldl_emit_eq {α : Type} (g : α → Output) (l : List α) : ∀ m : Mach,
    l.foldl (fun m p => emit m (g p)) m = { m with out := m.out ++ l.map g } := by
  induction l with
  | nil => intro m; simp
  | cons p rest ih =>
    intro m
    rw [List.foldl_cons, ih]
    simp [emit]

/-- The memory reads by which a function fetches `n` bytes. -/
def readsOf (m : Mach) (f addr n : Nat) : List Output :=
  (hostParts (128 * 2 ^ m.port.readCode) n addr n).map fun p => .hostRead f p.1 p.2

theorem hostRead_eq (m : Mach) (f addr n : Nat) : hostRead m f addr n = { m with out := m.out ++ readsOf m f addr n } :=
  foldl_emit_eq ..

theorem hostRead_out (m : Mach) (f addr n : Nat) : (hostRead m f addr n).out = m.out ++ readsOf m f addr n := by rw [hostRead_eq]

theorem getCtx_hostRead (m : Mach) (f addr n c : Nat) : getCtx (hostRead m f addr n) c = getCtx m c := by
  rw [hostRead_eq]
  rfl

theorem getFn_hostRead (m : Mach) (f addr n g : Nat) : getFn (hostRead m f addr n) g = getFn m g := by
  rw [hostRead_eq]
  rfl

/-! ## SUBMIT (R285) -/

/-- The context of a request accepted: QUEUED, its prompt on its way. -/
def queuedContext (m : Mach) (f k : Nat) (d : Descriptor) : Context :=
  { state := .queued, fn := f, desc := some d, fetching := true, fetchAt := m.now, depth := d.specDepth, order := k }

/-- The machine whose context `c` holds a request accepted, its prompt being read. -/
def withRequest (m : Mach) (f k c : Nat) (d : Descriptor) : Mach :=
  hostRead (setCtx m c (queuedContext m f k d)) f d.promptAddr.toNat (4 * d.promptLen)

section
variable (m : Mach) (f k c : Nat) (d : Descriptor)

theorem getCtx_withRequest_same : getCtx (withRequest m f k c d) c = queuedContext m f k d :=
  (getCtx_hostRead ..).trans (getCtx_setCtx_same ..)

theorem getCtx_withRequest_ne {e : Nat} (he : e ≠ c) : getCtx (withRequest m f k c d) e = getCtx m e :=
  (getCtx_hostRead ..).trans (getCtx_setCtx_ne m _ he)

theorem getFn_withRequest (g : Nat) : getFn (withRequest m f k c d) g = getFn m g := getFn_hostRead ..

theorem withRequest_out : (withRequest m f k c d).out = m.out ++ readsOf m f d.promptAddr.toNat (4 * d.promptLen) := hostRead_out ..

theorem withRequest_engineKept : EngineKept m (withRequest m f k c d) :=
  ((setCtx_onlyHostSide ..).trans (hostRead_onlyHostSide ..)).engineKept

end

theorem submitRequest_accepted {m : Mach} {f k c : Nat} {d : Descriptor} (hcheck : submitCheck m f d = none)
    (hfree : freeCtx m = some c) : submitRequest m f k d = withRequest m f k c d := by
  unfold submitRequest
  simp only [hcheck, hfree]
  rfl

/-! ## The commands (R279, R285, R301–R303, R322) -/

section
variable {s : State} {f : Fin 16} {k : Nat} {d : Descriptor} {rest : List (Nat × Descriptor)}
  (hfront : (getFn s.m f.val).taken = (k, d) :: rest)
include hfront

theorem execDescriptorNop_front (hop : d.opcode = 0) (hphase : d.phaseByte.toNat < 2) :
    execDescriptorNop f s = .next { s with m := withoutFront s.m f.val rest } := by
  rw [execDescriptorNop, nextM, carryOut_front hfront (by simp [hop]) (.inr hphase)]

theorem execUnknownOpcode_front (hop : 5 ≤ d.opcode) (hphase : d.phaseByte.toNat < 2) :
    execUnknownOpcode f s = .next { s with m := count (withoutFront s.m f.val rest) 0x6180 13 1 } := by
  rw [execUnknownOpcode, nextM, carryOut_front hfront (by simp [hop]) (.inr hphase), serves]

theorem execSubmit_accepted {c : Nat} (hop : d.opcode = 1) (hcheck : submitCheck (withoutFront s.m f.val rest) f.val d = none)
    (hfree : freeCtx (withoutFront s.m f.val rest) = some c) :
    execSubmit f s = .next { s with m := withRequest (withoutFront s.m f.val rest) f.val k c d } := by
  rw [execSubmit, nextM, carryOut_front hfront (by simp [hop]) (.inl hop), submitRequest_accepted hcheck hfree]

section
variable {c : Nat} (hphase : d.phaseByte.toNat < 2)
  (htag : ctxByTag (withoutFront s.m f.val rest) f.val d.hostTag = some c)
include hphase htag

theorem execCancel_live (hop : d.opcode = 2) (hlive : (getCtx s.m c).state ≠ .ending) :
    execCancel f s = .next { s with m := endStatus (count (withoutFront s.m f.val rest) 0x6180 4 1) c 1 0 false } := by
  rw [execCancel, nextM, carryOut_front hfront (by simp [hop]) (.inr hphase)]
  simp only [htag, if_neg (show (getCtx (withoutFront s.m f.val rest) c).state ≠ .ending from hlive)]
  rfl

theorem execPause_undecoded (hop : d.opcode = 3) (hstate : (getCtx s.m c).state = .queued ∨ (getCtx s.m c).state = .prefill) :
    execPause f s = .next { s with m := setCtx (withoutFront s.m f.val rest) c { getCtx s.m c with pauseHeld := true } } := by
  have hsame : getCtx (withoutFront s.m f.val rest) c = getCtx s.m c := rfl
  rw [execPause, nextM, carryOut_front hfront (by simp [hop]) (.inr hphase)]
  rcases hstate with hstate | hstate <;> simp only [htag, hsame, hstate]

theorem execResume_paused (hop : d.opcode = 4) (hstate : (getCtx s.m c).state = .paused) :
    execResume f s = .next { s with m := setCtx (withoutFront s.m f.val rest) c { getCtx s.m c with resumeAsked := true } } := by
  rw [execResume, nextM, carryOut_front hfront (by simp [hop]) (.inr hphase)]
  simp only [htag, if_pos (show (getCtx (withoutFront s.m f.val rest) c).state = .paused from hstate)]
  rfl

end

end

/-- The context of a request changes, and of the engine nothing. -/
theorem setCtx_withoutFront_kept (m : Mach) (f : Nat) (rest : List (Nat × Descriptor)) (c : Nat) (x : Context) :
    getCtx (setCtx (withoutFront m f rest) c x) c = x ∧
      (∀ e, e ≠ c → getCtx (setCtx (withoutFront m f rest) c x) e = getCtx m e) ∧ EngineKept m (setCtx (withoutFront m f rest) c x) :=
  ⟨getCtx_setCtx_same .., fun _ he => getCtx_setCtx_ne _ x he,
    (withoutFront_engineKept ..).trans (setCtx_onlyHostSide ..).engineKept⟩

/-- Settles O39: each descriptor in front is carried out by its command's own lemma; SUBMIT gives one context its request and reads
the prompt (`withRequest`), CANCEL ends the request on the host's side alone, PAUSE and RESUME change one context. -/
theorem descriptorsAreCarriedOut : Obligations.DescriptorsAreCarriedOut := by
  refine ⟨fun s f k d rest hfront => ?unnamed, fun s f k c d rest hfront hphase => ?named⟩
  case unnamed =>
    intro m
    refine ⟨fun hop hphase => ⟨_, execDescriptorNop_front hfront hop hphase, rfl⟩,
      fun hop hphase => ⟨_, execUnknownOpcode_front hfront hop hphase, rfl⟩, fun c hop hcheck hfree => ?_⟩
    have hother : ∀ e, e ≠ c → getCtx (withRequest m f.val k c d) e = getCtx s.m e :=
      fun e he => getCtx_withRequest_ne _ _ _ _ _ he
    exact ⟨_, execSubmit_accepted hfront hop hcheck hfree, getCtx_withRequest_same m f.val k c d, hother,
      (getFn_withRequest m f.val k c d f.val).trans (getFn_setFn_same ..), withRequest_out m f.val k c d,
      (withoutFront_engineKept ..).trans (withRequest_engineKept m f.val k c d)⟩
  case named =>
    intro m x htag
    refine ⟨fun hop hlive => ⟨_, execCancel_live hfront hphase htag hop hlive, rfl, ?_⟩,
      fun hop hstate => ⟨_, execPause_undecoded hfront hphase htag hop hstate, setCtx_withoutFront_kept ..⟩,
      fun hop hstate => ⟨_, execResume_paused hfront hphase htag hop hstate, setCtx_withoutFront_kept ..⟩⟩
    exact (withoutFront_engineKept ..).trans ((count_onlyHostSide ..).trans (endStatus_onlyHostSide ..)).engineKept

end Sys2Proof.Machine

/-! SUPPORT. Bytes that a DMA engine delivers to HBM (R184, R185, R187): they read back, also where a record or a sheet stood, and
every other byte reads as before. -/

namespace Sys2Proof.Machine

/-! ## Bytes of HBM that nothing has written (R94, R177, R178) -/

/-- What stands in HBM as records and sheets rests on these, the allotment's end among them. -/
theorem laidByte_congr {a n : Mach} (hsheet : n.sheet = a.sheet) (hgolden : n.golden = a.golden) (hstaging : n.staging = a.staging)
    (hjob : n.job = a.job) (hbase : odGet n 0x2230 2 = odGet a 0x2230 2) (y : Nat) : laidByte n y = laidByte a y := by
  simp only [laidByte, recordAt, hsheet, hgolden, hstaging, hjob, hbase]

theorem hbmByte_congr {a n : Mach} (hhbm : n.hbm = a.hbm) (hpatch : n.hbmPatch = a.hbmPatch) {y : Nat}
    (hlaid : laidByte n y = laidByte a y) : hbmByte n y = hbmByte a y := by
  simp only [hbmByte, hhbm, hpatch, hlaid]

theorem hbmBytes_congr {a n : Mach} (h : ∀ y, hbmByte n y = hbmByte a y) (addr k : Nat) :
    hbmBytes n addr k = hbmBytes a addr k := by
  simp only [hbmBytes, h]

/-! ## Bytes stored -/

theorem laidByte_storeByte (m : Mach) (a : Nat) (b : Byte) (y : Nat) : laidByte (storeByte m a b) y = laidByte m y := by
  unfold storeByte
  split <;> rfl

theorem hbmByte_storeByte_same (m : Mach) (a : Nat) (b : Byte) : hbmByte (storeByte m a b) a = b := by
  rw [hbmByte, laidByte_storeByte]
  cases hlaid : laidByte m a <;> simp [storeByte, hlaid]

theorem hbmByte_storeByte_ne (m : Mach) {a y : Nat} (b : Byte) (h : y ≠ a) : hbmByte (storeByte m a b) y = hbmByte m y := by
  rw [hbmByte, hbmByte, laidByte_storeByte]
  cases hlaid : laidByte m a <;> simp [storeByte, hlaid, h]

theorem hbmByte_storeBytes_out (bytes : List Byte) : ∀ (m : Mach) (a y : Nat), (y < a ∨ a + bytes.length ≤ y) →
    hbmByte (storeBytes m a bytes) y = hbmByte m y := by
  induction bytes with
  | nil => intro _ _ _ _; rfl
  | cons b rest ih =>
    intro m a y h
    rw [List.length_cons] at h
    rw [storeBytes, ih _ _ _ (by omega), hbmByte_storeByte_ne _ _ (by omega)]

theorem hbmByte_storeBytes_in (bytes : List Byte) : ∀ (m : Mach) (a i : Nat) (h : i < bytes.length),
    hbmByte (storeBytes m a bytes) (a + i) = bytes[i] := by
  induction bytes with
  | nil => intro _ _ _ h; cases h
  | cons b rest ih =>
    intro m a i h
    cases i with
    | zero =>
      rw [storeBytes, hbmByte_storeBytes_out _ _ _ _ (by omega)]
      exact hbmByte_storeByte_same m a b
    | succ j =>
      rw [storeBytes, show a + (j + 1) = a + 1 + j from by omega, ih _ _ _ (by simpa using h), List.getElem_cons_succ]

/-! ## Transfers (R181, R185, R187) -/

/-- From `a` to `n` only HBM, the transfers that race with what is written there, and the measure of its service may have changed. -/
structure OnlyHbm (a n : Mach) : Prop where
  frame : n = { a with hbm := n.hbm, hbmPatch := n.hbmPatch, queues := n.queues, fresh := n.fresh, hbmServed := n.hbmServed,
                       hbmMoved := n.hbmMoved }

namespace OnlyHbm

variable {a m n : Mach}

theorem refl (a : Mach) : OnlyHbm a a := ⟨rfl⟩

theorem trans (h : OnlyHbm a m) (h' : OnlyHbm m n) : OnlyHbm a n := ⟨h'.frame.trans (by rw [h.frame])⟩

theorem sram (h : OnlyHbm a n) : n.sram = a.sram := by rw [h.frame]
theorem threads (h : OnlyHbm a n) : n.threads = a.threads := by rw [h.frame]
theorem now (h : OnlyHbm a n) : n.now = a.now := by rw [h.frame]
theorem ctxs (h : OnlyHbm a n) : n.ctxs = a.ctxs := by rw [h.frame]
theorem adapters (h : OnlyHbm a n) : n.adapters = a.adapters := by rw [h.frame]
theorem adapterWait (h : OnlyHbm a n) : n.adapterWait = a.adapterWait := by rw [h.frame]

theorem laidByte_eq (h : OnlyHbm a n) (y : Nat) : laidByte n y = laidByte a y := by
  rw [h.frame]
  rfl

end OnlyHbm

/-- From `a` to `n` only the measure of HBM's service has changed. -/
structure OnlyServed (a n : Mach) : Prop where
  frame : n = { a with hbmServed := n.hbmServed, hbmMoved := n.hbmMoved }

theorem serveHbm_onlyServed (m : Mach) (a n : Nat) : OnlyServed m (serveHbm m a n) :=
  List.foldlRecOn (motive := OnlyServed m) _ _ ⟨rfl⟩ fun x hx _ _ => ⟨by rw [hx.frame]⟩

theorem OnlyServed.onlyHbm {a n : Mach} (h : OnlyServed a n) : OnlyHbm a n := ⟨by rw [h.frame]⟩

theorem OnlyServed.hbmByte_eq {a n : Mach} (h : OnlyServed a n) (y : Nat) : hbmByte n y = hbmByte a y :=
  hbmByte_congr (by rw [h.frame]) (by rw [h.frame]) (h.onlyHbm.laidByte_eq y)

theorem storeBytes_onlyHbm (bytes : List Byte) : ∀ (m : Mach) (a : Nat), OnlyHbm m (storeBytes m a bytes) := by
  induction bytes with
  | nil => exact fun m _ => .refl m
  | cons b rest ih =>
    intro m a
    have hone : OnlyHbm m (storeByte m a b) := by
      unfold storeByte
      split <;> exact ⟨rfl⟩
    exact hone.trans (ih _ _)

/-- A write to HBM puts only outstanding transfers in doubt before its bytes are stored. -/
theorem raceRemote_eq (m : Mach) (a : Nat) (bytes : List Byte) :
    ∃ queues fresh, raceRemote m a bytes = { m with queues, fresh } := by
  unfold raceRemote
  extract_lets hit any
  split
  · exact ⟨_, _, rfl⟩
  · exact ⟨_, _, rfl⟩

/-- From `a` to `n` the bytes have been stored in HBM from the address on, and nothing else of it has changed. -/
structure HbmStored (a n : Mach) (addr : Nat) (bytes : List Byte) : Prop extends OnlyHbm a n where
  written : hbmBytes n addr bytes.length = bytes
  others : ∀ y, y < addr ∨ addr + bytes.length ≤ y → hbmByte n y = hbmByte a y

theorem dmaHbm_stored (m : Mach) (a : Nat) (bytes : List Byte) : HbmStored m (dmaHbm m a bytes) a bytes := by
  obtain ⟨queues, fresh, hrace⟩ := raceRemote_eq m a bytes
  have hstored : OnlyHbm m (writeHbm m a bytes) := by
    rw [writeHbm, hrace]
    exact OnlyHbm.trans ⟨rfl⟩ (storeBytes_onlyHbm ..)
  have hserved := serveHbm_onlyServed (writeHbm m a bytes) a bytes.length
  exact {
    toOnlyHbm := hstored.trans hserved.onlyHbm
    written := by
      refine (hbmBytes_congr hserved.hbmByte_eq a _).trans (List.ext_getElem (by simp [hbmBytes]) fun i _ hi => ?_)
      simp only [hbmBytes, List.getElem_map, List.getElem_range]
      exact hbmByte_storeBytes_in bytes _ a i hi
    others := fun y hy => by
      rw [dmaHbm, hserved.hbmByte_eq, writeHbm, hbmByte_storeBytes_out _ _ _ _ hy, hrace]
      rfl }

end Sys2Proof.Machine

/-! SUPPORT. A prompt that has arrived (R187, R285, R291), a request that ends (R287, R320), and the two objects of the intake (R281,
R282, R299, R410). -/

namespace Sys2Proof.Machine

/-! ## The prompt in the firmware area (R187, R285) -/

/-- The ids of a prompt as they stand in HBM. -/
def promptBytes (tokens : List W32) : List Byte := tokens.flatMap fun t => leBytes 4 t.toNat

/-- Where the model puts the next prompt of `k` bytes: its own free choice within the firmware area (assumption 7). -/
def nextPromptPlace (m : Mach) (k : Nat) : Nat := firmwareBase + Config.promptPlace m.fresh % (hbmEnd - firmwareBase - k + 1)

theorem nextPromptPlace_in_firmware (m : Mach) {k : Nat} (hk : k ≤ hbmEnd - firmwareBase) :
    firmwareBase ≤ nextPromptPlace m k ∧ nextPromptPlace m k + k ≤ hbmEnd := by
  have hbound := Nat.mod_lt (Config.promptPlace m.fresh) (show 0 < hbmEnd - firmwareBase - k + 1 by omega)
  have harea : firmwareBase ≤ hbmEnd := by decide
  unfold nextPromptPlace
  omega

/-- The machine once the next prompt has been stored. -/
def withPromptStored (m : Mach) (tokens : List W32) : Mach :=
  dmaHbm (draw m).2 (nextPromptPlace m (promptBytes tokens).length) (promptBytes tokens)

theorem withPromptStored_stored (m : Mach) (tokens : List W32) :
    HbmStored (draw m).2 (withPromptStored m tokens) (nextPromptPlace m (promptBytes tokens).length) (promptBytes tokens) :=
  dmaHbm_stored ..

theorem getCtx_withPromptStored (m : Mach) (tokens : List W32) (c : Nat) : getCtx (withPromptStored m tokens) c = getCtx m c := by
  rw [getCtx, (withPromptStored_stored m tokens).ctxs]
  rfl

/-- The machine whose context `c` has its prompt. -/
def promptArrived (m : Mach) (c : Nat) (tokens : List W32) : Mach :=
  setCtx (withPromptStored m tokens) c
    { getCtx m c with fetching := false, prompt := tokens, promptAt := nextPromptPlace m (promptBytes tokens).length }

section
variable {s : State} {c : Fin 16384} {d : Descriptor} {j : Job} {tokens : List W32}
  (hdesc : (getCtx s.m c.val).desc = some d) (hjob : s.m.job = some j) (hfetching : (getCtx s.m c.val).fetching = true)
  (hlength : tokens.length = d.promptLen)
include hdesc hjob hfetching hlength

theorem execPromptFetchComplete_good (hvocab : ∀ t ∈ tokens, t.toNat < j.image.stageMap.vocab) :
    execPromptFetchComplete c tokens s = .next { s with m := promptArrived s.m c.val tokens } := by
  have hgood : (tokens.any fun t => decide (j.image.stageMap.vocab ≤ t.toNat)) = false :=
    List.any_eq_false.mpr fun t ht => by simpa using hvocab t ht
  simp only [execPromptFetchComplete, nextM, hdesc, hjob, hfetching, hlength, hgood, Bool.not_true, Bool.false_eq_true, ne_eq,
    not_true_eq_false, or_self, if_false]
  rw [← hdesc]
  rfl

theorem execPromptFetchComplete_bad (hvocab : ∃ t ∈ tokens, j.image.stageMap.vocab ≤ t.toNat) :
    execPromptFetchComplete c tokens s = .next { s with m := endStatus (count s.m 0x6180 2 1) c.val 6 0 false } := by
  have hbad : (tokens.any fun t => decide (j.image.stageMap.vocab ≤ t.toNat)) = true := by simpa using hvocab
  simp only [execPromptFetchComplete, nextM, hdesc, hjob, hfetching, hlength, hbad, Bool.not_true, Bool.false_eq_true, ne_eq,
    not_true_eq_false, or_self, if_false, if_true]
  rfl

end

/-! ## END_RECORD_SENT (R287, R320) -/

theorem execEndRecordSent_written {s : State} {c : Fin 16384} (h : endWritten s.m c.val = true) :
    execEndRecordSent c s = .next { s with m := setCtx s.m c.val {} } := by
  simp only [execEndRecordSent, nextM, h, if_true]

/-! ## Objects written (R410, R424) -/

theorem odResult_mem_answer (m : Mach) (v : Via) : .odResult v 0 0 [] ∈ (answer m v none 0).out :=
  List.mem_append_right _ (List.mem_singleton.mpr rfl)

/-- From `a` to `n` the object holds the value, and nothing of the engine has changed. -/
structure ObjectSet (a n : Mach) (idx sub v : Nat) : Prop where
  value : odGet n idx sub = v
  engine : EngineKept a n

theorem odSet_objectSet (m : Mach) (idx sub v : Nat) : ObjectSet m (odSet m idx sub v) idx sub v :=
  ⟨odGet_odSet_same .., (odSet_onlyHostSide ..).engineKept⟩

theorem ObjectSet.answered {a n : Mach} {idx sub x : Nat} (h : ObjectSet a n idx sub x) (v : Via) :
    ObjectSet a (answer n v none 0) idx sub x :=
  ⟨h.value, h.engine.trans (emit_onlyHostSide ..).engineKept⟩

/-! ### IntakeEnable (R281, R282) -/

theorem ObjectSet.writeCredit {a n : Mach} {idx sub v : Nat} (h : ObjectSet a n idx sub v) (f : Nat) :
    ObjectSet a (writeCredit n f) idx sub v :=
  ⟨((writeCredit_onlySignals n f).odGet_eq idx sub).trans h.value, h.engine.trans (writeCredit_onlySignals n f).engineKept⟩

theorem ObjectSet.resetWindow {a n : Mach} {idx sub v : Nat} (h : ObjectSet a n idx sub v) (f : Nat) :
    ObjectSet a (resetWindow n f) idx sub v := by
  have hcleared : ObjectSet a { n with intake := n.intake.filter fun e => e.1 / 4096 != f } idx sub v :=
    ⟨h.value, h.engine.trans ⟨rfl, rfl, rfl, rfl, rfl, rfl, rfl, rfl, rfl, rfl⟩⟩
  have hreset (fn : Fn) : ObjectSet a (setFn { n with intake := n.intake.filter fun e => e.1 / 4096 != f } f fn) idx sub v :=
    ⟨hcleared.value, hcleared.engine.trans (setFn_onlyHostSide ..).engineKept⟩
  exact (hreset _).writeCredit f

theorem setIntakeEnable_objectSet (m : Mach) (f v : Nat) : ObjectSet m (setIntakeEnable m f v) (0x3110 + f) 1 v := by
  have hset := odSet_objectSet m (0x3110 + f) 1 v
  unfold setIntakeEnable
  extract_lets old was m1
  split
  · exact hset.resetWindow f
  · split
    · exact hset.writeCredit f
    · exact hset

theorem execIntakeEnableWrite_accepted {s : State} {v : Via} {f : Fin 16} {bytes : List Byte}
    (hcheck : checkWrite s.m v (0x3110 + f.val) 1 bytes none none = none) :
    execIntakeEnableWrite v f bytes s = .next { s with m := answer (setIntakeEnable s.m f.val (leNat bytes)) v none 0 } := by
  simp only [execIntakeEnableWrite, nextM, commandRow, hcheck]

/-! ### TokenEnvelope (R299, R410) -/

/-- A value of the token envelope is stored and has no effect of its own; where the old one stays in force, it is kept beside it. -/
theorem accept_envelope (m : Mach) {o : ObjInfo} (hidx : o.idx = 0x3101) (hsub : o.sub = 1) (v : Nat) :
    ObjectSet m (accept m o v) 0x3101 1 v := by
  have hwaits (waits : List (Nat × Nat)) : ObjectSet m (odSet { m with waitingB := waits } 0x3101 1 v) 0x3101 1 v :=
    ⟨odGet_odSet_same .., ⟨rfl, rfl, rfl, rfl, rfl, rfl, rfl, rfl, rfl, rfl⟩⟩
  have heffect (n : Mach) (old : Nat) : objEffect n (objKey 0x3101 1) old = n := rfl
  unfold accept
  extract_lets key old waits m1
  rw [show key = objKey 0x3101 1 from by simp only [key, hidx, hsub], hidx, hsub, heffect]
  unfold m1
  split
  · exact hwaits _
  · exact hwaits m.waitingB

theorem execTokenEnvelopeWrite_accepted {s : State} {v : Via} {bytes : List Byte}
    (hcheck : checkWrite s.m v 0x3101 1 bytes none none = none) :
    ∃ o, o.idx = 0x3101 ∧ o.sub = 1 ∧
      execTokenEnvelopeWrite v bytes s = .next { s with m := answer (accept s.m o (leNat bytes)) v none 0 } := by
  obtain ⟨o, hfind, hidx, hsub⟩ : ∃ o, findObj 0x3101 1 = .inl o ∧ o.idx = 0x3101 ∧ o.sub = 1 := ⟨_, rfl, rfl, rfl⟩
  exact ⟨o, hidx, hsub, by simp only [execTokenEnvelopeWrite, nextM, commandRow, hcheck, hfind]⟩

/-- Settles O40: the prompt is stored where `nextPromptPlace_in_firmware` says (`withPromptStored_stored`), or its request ends on the
host's side alone; END_RECORD_SENT frees one context; the objects are `setIntakeEnable_objectSet` and `accept_envelope`. -/
theorem requestsAndTheirObjects : Obligations.RequestsAndTheirObjects := by
  intro s
  refine ⟨fun c d j tokens hdesc hjob hfetching hlength hvocab => ?good,
    fun c d j tokens hdesc hjob hfetching hlength hvocab => ?bad,
    fun c hwritten => ?freed, fun v f bytes hcheck => ?intake, fun v bytes hcheck => ?envelope⟩
  case good =>
    have hstored := withPromptStored_stored s.m tokens
    refine ⟨_, execPromptFetchComplete_good hdesc hjob hfetching hlength hvocab, ?_, fun e he => ?_, hstored.sram, hstored.threads,
      hstored.now⟩
    · exact ⟨nextPromptPlace s.m (promptBytes tokens).length, getCtx_setCtx_same .., nextPromptPlace_in_firmware s.m,
        hstored.written, hstored.others⟩
    · exact (getCtx_setCtx_ne _ _ he).trans (getCtx_withPromptStored ..)
  case bad =>
    exact ⟨_, execPromptFetchComplete_bad hdesc hjob hfetching hlength hvocab, rfl,
      ((count_onlyHostSide ..).trans (endStatus_onlyHostSide ..)).engineKept⟩
  case freed =>
    exact ⟨_, execEndRecordSent_written hwritten, getCtx_setCtx_same .., fun e he => getCtx_setCtx_ne _ _ he,
      (setCtx_onlyHostSide ..).engineKept⟩
  case intake =>
    have hset := (setIntakeEnable_objectSet s.m f.val (leNat bytes)).answered v
    exact ⟨_, execIntakeEnableWrite_accepted hcheck, hset.value, hset.engine, odResult_mem_answer ..⟩
  case envelope =>
    obtain ⟨o, hidx, hsub, hexec⟩ := execTokenEnvelopeWrite_accepted hcheck
    have hset := (accept_envelope s.m hidx hsub (leNat bytes)).answered v
    exact ⟨_, hexec, hset.value, hset.engine, odResult_mem_answer ..⟩

end Sys2Proof.Machine

/-! SUPPORT. Adapters: asked for, put into their slot of HBM or refused, removed, and copied into the hot region (R309–R311). The
lowest free place of the hot region is the model's choice (assumption 140), the order of several installs too (assumption 82). -/

namespace Sys2Proof.Machine

/-! ## One adapter changed -/

theorem getAdapter_setAdapter_same (m : Mach) (k : Nat) (x : Adapter) : getAdapter (setAdapter m k x) k = x := sget_sset_same ..

theorem getAdapter_setAdapter_ne (m : Mach) {k i : Nat} (x : Adapter) (h : i ≠ k) :
    getAdapter (setAdapter m k x) i = getAdapter m i := sget_sset_ne _ _ _ h

theorem setAdapter_engineKept (m : Mach) (k : Nat) (x : Adapter) : EngineKept m (setAdapter m k x) :=
  ⟨rfl, rfl, rfl, rfl, rfl, rfl, rfl, rfl, rfl, rfl⟩

/-- From `a` to `n` adapter `k` has become `x`, and no other adapter has changed. -/
structure AdapterSet (a n : Mach) (k : Nat) (x : Adapter) : Prop where
  same : getAdapter n k = x
  others : ∀ i, i ≠ k → getAdapter n i = getAdapter a i

theorem setAdapter_adapterSet (m : Mach) (k : Nat) (x : Adapter) : AdapterSet m (setAdapter m k x) k x :=
  ⟨getAdapter_setAdapter_same .., fun _ hi => getAdapter_setAdapter_ne m x hi⟩

theorem AdapterSet.congr {a b m n : Mach} {k : Nat} {x : Adapter} (h : AdapterSet a m k x) (hbefore : a.adapters = b.adapters)
    (hafter : n.adapters = m.adapters) : AdapterSet b n k x := by
  have hread (i : Nat) : getAdapter n i = getAdapter m i := by rw [getAdapter, getAdapter, hafter]
  have hread' (i : Nat) : getAdapter a i = getAdapter b i := by rw [getAdapter, getAdapter, hbefore]
  exact ⟨(hread k).trans h.same, fun i hi => ((hread i).trans (h.others i hi)).trans (hread' i)⟩

/-! ## The result of an adapter command (R310, R425) -/

/-- From `a` to `n` only LastAdapterResult has been set and a command answered. -/
structure OnlyResult (a n : Mach) (code : Nat) : Prop where
  frame : n = { a with od := n.od, answers := n.answers, out := n.out, bar0 := n.bar0, port := n.port, fns := n.fns,
                       sessions := n.sessions }
  result : odGet n 0x3130 2 = code
  base : odGet n 0x2230 2 = odGet a 0x2230 2

theorem odGet_odSet_ne (m : Mach) {idx sub idx' sub' : Nat} (h : objKey idx' sub' ≠ objKey idx sub) (v : Nat) :
    odGet (odSet m idx sub v) idx' sub' = odGet m idx' sub' := by
  have hdefault : objDefault (odSet m idx sub v) (objKey idx' sub') = objDefault m (objKey idx' sub') := rfl
  rw [odGet, sget_od_odSet_ne m h, hdefault]
  rfl

theorem giveFirst_onlyAnswered (m : Mach) (key code : Nat) : OnlyAnswered m (giveFirst m key code) := by
  unfold giveFirst
  split
  · exact .refl m
  · exact .after (answer_onlyAnswered ..) ⟨rfl⟩

theorem adapterResult_onlyResult (m : Mach) (code : Nat) : OnlyResult m (adapterResult m code) code := by
  have hanswered : OnlyAnswered (odSet m 0x3130 2 code) (adapterResult m code) := giveFirst_onlyAnswered ..
  have hod : (adapterResult m code).od = (odSet m 0x3130 2 code).od := by rw [hanswered.frame]
  exact {
    frame := by
      rw [hod]
      exact hanswered.frame
    result := (hanswered.odGet_eq ..).trans (odGet_odSet_same ..)
    base := (hanswered.odGet_eq ..).trans (odGet_odSet_ne m (by decide) code) }

namespace OnlyResult

variable {a n : Mach} {code : Nat}

theorem engineKept (h : OnlyResult a n code) : EngineKept a n := by constructor <;> rw [h.frame]
theorem adapters (h : OnlyResult a n code) : n.adapters = a.adapters := by rw [h.frame]
theorem adapterWait (h : OnlyResult a n code) : n.adapterWait = a.adapterWait := by rw [h.frame]

theorem hbmByte_eq (h : OnlyResult a n code) (y : Nat) : hbmByte n y = hbmByte a y :=
  hbmByte_congr (by rw [h.frame]) (by rw [h.frame])
    (laidByte_congr (by rw [h.frame]) (by rw [h.frame]) (by rw [h.frame]) (by rw [h.frame]) h.base y)

end OnlyResult

/-! ## ADAPTER_INSTALL and ADAPTER_REMOVE (R310) -/

/-- The machine that reads the container of an install. -/
def adapterAskedFor (m : Mach) (v : Via) (bytes : List Byte) : Mach :=
  let m := holdAnswer m v (objKey 0x3130 1) none
  hostRead { m with adapterWait := m.adapterWait ++ [(field bytes 2 2, field bytes 16 8, m.now)] } 0 (field bytes 8 8)
    (field bytes 16 8)

/-- The machine without an adapter, its command answered. -/
def adapterRemoved (m : Mach) (v : Via) (id : Nat) : Mach :=
  adapterResult (setAdapter (holdAnswer m v (objKey 0x3130 1) none) id {}) 0

section
variable {s : State} {v : Via} {bytes : List Byte} (hcheck : adapterCheck s.m v bytes = none) (hid : field bytes 2 2 ≤ 4095)
include hcheck hid

theorem execAdapterInstall_asks (hop : field bytes 0 1 = 1) (hnew : (getAdapter s.m (field bytes 2 2)).installed = false) :
    execAdapterInstall v bytes s = .next { s with m := adapterAskedFor s.m v bytes } := by
  have hfree : (getAdapter (holdAnswer s.m v (objKey 0x3130 1) none) (field bytes 2 2)).installed = false := hnew
  simp only [execAdapterInstall, nextM, commandRow, hcheck, adapterRun, Nat.not_lt.mpr hid, hop, hfree, Bool.false_eq_true, if_true,
    if_false]
  rfl

theorem execAdapterRemove_removes (hop : field bytes 0 1 = 2) (hunnamed : adapterNamed s.m (field bytes 2 2) = false) :
    execAdapterRemove v bytes s = .next { s with m := adapterRemoved s.m v (field bytes 2 2) } := by
  have hfree : adapterNamed (holdAnswer s.m v (objKey 0x3130 1) none) (field bytes 2 2) = false := hunnamed
  have hremove : ¬ field bytes 0 1 = 1 := by omega
  simp only [execAdapterRemove, nextM, commandRow, hcheck, adapterRun, Nat.not_lt.mpr hid, hremove, hfree, Bool.false_eq_true,
    if_false]
  rfl

end

theorem adapterAskedFor_adapterWait (m : Mach) (v : Via) (bytes : List Byte) :
    (adapterAskedFor m v bytes).adapterWait = m.adapterWait ++ [(field bytes 2 2, field bytes 16 8, m.now)] := by
  rw [adapterAskedFor, hostRead_eq]
  rfl

theorem adapterAskedFor_adapters (m : Mach) (v : Via) (bytes : List Byte) : (adapterAskedFor m v bytes).adapters = m.adapters := by
  rw [adapterAskedFor, hostRead_eq]
  rfl

theorem adapterAskedFor_out (m : Mach) (v : Via) (bytes : List Byte) :
    (adapterAskedFor m v bytes).out = m.out ++ readsOf m 0 (field bytes 8 8) (field bytes 16 8) := hostRead_out ..

theorem adapterAskedFor_engineKept (m : Mach) (v : Via) (bytes : List Byte) : EngineKept m (adapterAskedFor m v bytes) := by
  rw [adapterAskedFor, hostRead_eq]
  exact ⟨rfl, rfl, rfl, rfl, rfl, rfl, rfl, rfl, rfl, rfl⟩

theorem adapterRemoved_adapterSet (m : Mach) (v : Via) (id : Nat) : AdapterSet m (adapterRemoved m v id) id {} :=
  (setAdapter_adapterSet (holdAnswer m v (objKey 0x3130 1) none) id {}).congr rfl (adapterResult_onlyResult ..).adapters

theorem adapterRemoved_engineKept (m : Mach) (v : Via) (id : Nat) : EngineKept m (adapterRemoved m v id) :=
  ((holdAnswer_engineKept ..).trans (setAdapter_engineKept ..)).trans (adapterResult_onlyResult ..).engineKept

/-! ## ADAPTER_CONTAINER_READ (R309, R310) -/

/-- A good container holds the payload whose length it names. -/
theorem payload_of_containerOk {m : Mach} {bytes : List Byte} (h : containerOk m bytes = true) :
    64 + field bytes 24 8 ≤ bytes.length := by
  unfold containerOk at h
  split at h
  · cases h
  · simp only [Bool.and_eq_true, decide_eq_true_eq] at h
    obtain ⟨⟨⟨-, hpayload⟩, -⟩, -⟩ := h
    exact hpayload

/-- The adapter that a container describes. -/
def containerAdapter (bytes : List Byte) : Adapter := { installed := true, rank := field bytes 16 2, bytes := field bytes 24 8 }

/-- The machine with a container stored in its adapter's slot of HBM. -/
def containerStored (m : Mach) (j : Job) (id : Nat) (bytes : List Byte) : Mach :=
  dmaHbm m (adapterAddr j id) (bytes.take (64 + field bytes 24 8))

theorem containerStored_of_job {m : Mach} {j : Job} (hjob : m.job = some j) (id : Nat) (bytes : List Byte) :
    (m.job.map fun j => dmaHbm m (adapterAddr j id) (bytes.take (64 + field bytes 24 8))).getD m =
      containerStored m j id bytes := by
  rw [hjob]
  rfl

/-- The machine with the adapter of a good container installed, its command answered. -/
def adapterInstalled (m : Mach) (j : Job) (id : Nat) (bytes : List Byte) : Mach :=
  adapterResult (setAdapter (containerStored m j id bytes) id (containerAdapter bytes)) 0

theorem adapterWait_engineKept (m : Mach) (rest : List (Nat × Nat × Nat)) : EngineKept m { m with adapterWait := rest } :=
  ⟨rfl, rfl, rfl, rfl, rfl, rfl, rfl, rfl, rfl, rfl⟩

section
variable (m : Mach) (j : Job) (id : Nat) (bytes : List Byte)

theorem containerStored_stored :
    HbmStored m (containerStored m j id bytes) (adapterAddr j id) (bytes.take (64 + field bytes 24 8)) := dmaHbm_stored ..

theorem adapterInstalled_onlyResult :
    OnlyResult (setAdapter (containerStored m j id bytes) id (containerAdapter bytes)) (adapterInstalled m j id bytes) 0 :=
  adapterResult_onlyResult ..

theorem adapterInstalled_adapterWait : (adapterInstalled m j id bytes).adapterWait = m.adapterWait :=
  (adapterInstalled_onlyResult ..).adapterWait.trans (containerStored_stored ..).adapterWait

theorem adapterInstalled_adapterSet : AdapterSet m (adapterInstalled m j id bytes) id (containerAdapter bytes) :=
  (setAdapter_adapterSet ..).congr (containerStored_stored m j id bytes).adapters (adapterInstalled_onlyResult ..).adapters

/-- A good container stands whole in its adapter's slot, and nothing else of HBM has changed. -/
theorem adapterInstalled_hbm (hok : containerOk m bytes = true) :
    hbmBytes (adapterInstalled m j id bytes) (adapterAddr j id) (64 + field bytes 24 8) = bytes.take (64 + field bytes 24 8) ∧
      ∀ y, y < adapterAddr j id ∨ adapterAddr j id + (64 + field bytes 24 8) ≤ y →
        hbmByte (adapterInstalled m j id bytes) y = hbmByte m y := by
  have hfull : (bytes.take (64 + field bytes 24 8)).length = 64 + field bytes 24 8 :=
    List.length_take_of_le (payload_of_containerOk hok)
  have hsame (y : Nat) : hbmByte (adapterInstalled m j id bytes) y = hbmByte (containerStored m j id bytes) y :=
    (adapterInstalled_onlyResult ..).hbmByte_eq y
  obtain ⟨-, hwritten, hothers⟩ := containerStored_stored m j id bytes
  rw [hfull] at hwritten hothers
  exact ⟨(hbmBytes_congr hsame ..).trans hwritten, fun y hy => (hsame y).trans (hothers y hy)⟩

theorem adapterInstalled_engine : (adapterInstalled m j id bytes).sram = m.sram ∧
    (adapterInstalled m j id bytes).threads = m.threads ∧ (adapterInstalled m j id bytes).now = m.now := by
  have hkept := (setAdapter_engineKept ..).trans (adapterInstalled_onlyResult m j id bytes).engineKept
  have hstored := containerStored_stored m j id bytes
  exact ⟨hkept.sram.trans hstored.sram, hkept.threads.trans hstored.threads, hkept.now.trans hstored.now⟩

end

section
variable {s : State} {bytes : List Byte} {id len issued : Nat} {rest : List (Nat × Nat × Nat)}
  (hwait : s.m.adapterWait = (id, len, issued) :: rest) (hlen : bytes.length = len)
include hwait hlen

theorem execAdapterContainerRead_good {j : Job} (hjob : s.m.job = some j)
    (hok : containerOk { s.m with adapterWait := rest } bytes = true) :
    execAdapterContainerRead bytes s = .next { s with m := adapterInstalled { s.m with adapterWait := rest } j id bytes } := by
  simp only [execAdapterContainerRead, nextM, hwait, hlen, hok, ne_eq, not_true_eq_false, if_true, if_false]
  rw [adapterInstalled, ← containerStored_of_job (m := { s.m with adapterWait := rest }) hjob]
  rfl

theorem execAdapterContainerRead_bad (hok : containerOk { s.m with adapterWait := rest } bytes = false) :
    execAdapterContainerRead bytes s = .next { s with m := adapterResult { s.m with adapterWait := rest } 3 } := by
  simp only [execAdapterContainerRead, nextM, hwait, hlen, hok, ne_eq, not_true_eq_false, Bool.false_eq_true, if_false]

end

/-! ## The hot region (R311) -/

/-- From `a` to `n` only fabric SRAM, what races with it, and the measure of HBM's service may have changed. -/
structure OnlyCopied (a n : Mach) : Prop where
  frame : n = { a with sram := n.sram, fresh := n.fresh, packets := n.packets, queues := n.queues, hbmServed := n.hbmServed,
                       hbmMoved := n.hbmMoved }

theorem OnlyCopied.trans {a m n : Mach} (h : OnlyCopied a m) (h' : OnlyCopied m n) : OnlyCopied a n :=
  ⟨h'.frame.trans (by rw [h.frame])⟩

/-- A write to fabric SRAM puts only packets and transfers that still read there in doubt. -/
theorem raceLocal_eq (m : Mach) (na : Nat) (new : List Byte) (due : Nat) :
    ∃ fresh packets queues, raceLocal m na new due = { m with fresh, packets, queues } := by
  unfold raceLocal
  extract_lets hitP hitT anyT k
  split
  · exact ⟨_, _, _, rfl⟩
  · exact ⟨_, _, _, rfl⟩

theorem landOne_onlyCopied (m : Mach) (l : Landing) : OnlyCopied m (landOne m l) := by
  obtain ⟨fresh, packets, queues, hrace⟩ := raceLocal_eq m l.addr l.bytes l.due
  rw [landOne, hrace]
  exact ⟨rfl⟩

theorem landOne_stored (m : Mach) (l : Landing) : Stored m (landOne m l) l.addr l.bytes := by
  obtain ⟨fresh, packets, queues, hrace⟩ := raceLocal_eq m l.addr l.bytes l.due
  have hsram : (landOne m l).sram = writeBytes m.sram l.addr l.bytes := by rw [landOne, hrace]
  exact {
    written := by
      rw [hsram]
      exact readBytes_writeBytes ..
    others := fun x hx => by
      rw [hsram]
      exact readByte_writeBytes_out _ _ _ _ hx }

/-- One part of an adapter's payload landed in its row. -/
def copyPart (m : Mach) (j : Job) (id slot : Nat) (h : HotPart) : Mach :=
  match placeRow j h.place with
  | some r => landOne (serveHbm m (adapterAddr j id + 64 + h.first) h.bytes)
      ⟨m.now, 1, sramOf r false (h.base + h.bytes * slot), hbmBytes m (adapterAddr j id + 64 + h.first) h.bytes⟩
  | none => m

theorem copyHot_eq_foldl (m : Mach) (j : Job) (id slot : Nat) :
    copyHot m j id slot = j.image.mem.hot.foldl (fun m h => copyPart m j id slot h) m := rfl

theorem OnlyServed.onlyCopied {a n : Mach} (h : OnlyServed a n) : OnlyCopied a n := ⟨by rw [h.frame]⟩

theorem copyPart_onlyCopied (m : Mach) (j : Job) (id slot : Nat) (h : HotPart) : OnlyCopied m (copyPart m j id slot h) := by
  unfold copyPart
  split
  · exact (serveHbm_onlyServed ..).onlyCopied.trans (landOne_onlyCopied ..)
  · exact ⟨rfl⟩

theorem copyHot_onlyCopied (m : Mach) (j : Job) (id slot : Nat) : OnlyCopied m (copyHot m j id slot) := by
  rw [copyHot_eq_foldl]
  exact List.foldlRecOn _ _ ⟨rfl⟩ fun n hn h _ => hn.trans (copyPart_onlyCopied ..)

theorem copyHot_stored {m : Mach} {j : Job} {h : HotPart} {r : RowId} (hhot : j.image.mem.hot = [h])
    (hrow : placeRow j h.place = some r) (id slot : Nat) :
    Stored m (copyHot m j id slot) (sramOf r false (h.base + h.bytes * slot))
      (hbmBytes m (adapterAddr j id + 64 + h.first) h.bytes) := by
  have hserved := serveHbm_onlyServed m (adapterAddr j id + 64 + h.first) h.bytes
  have hlanded := landOne_stored (serveHbm m (adapterAddr j id + 64 + h.first) h.bytes)
    ⟨m.now, 1, sramOf r false (h.base + h.bytes * slot), hbmBytes m (adapterAddr j id + 64 + h.first) h.bytes⟩
  have hcopy : copyHot m j id slot = copyPart m j id slot h := by rw [copyHot_eq_foldl, hhot, List.foldl_cons, List.foldl_nil]
  rw [hcopy, copyPart, hrow]
  exact ⟨hlanded.written, fun x hx => (hlanded.others x hx).trans (by rw [hserved.frame])⟩

/-- The places of the hot region that adapters have. -/
def hotPlaces (m : Mach) : List Nat := m.adapters.filterMap fun e => if e.2.hot then some e.2.hotSlot else none

theorem mem_hotPlaces {m : Mach} {k : Nat} : k ∈ hotPlaces m ↔ ∃ e ∈ m.adapters, e.2.hot = true ∧ e.2.hotSlot = k := by
  simp only [hotPlaces, List.mem_filterMap, Option.ite_none_right_eq_some, Option.some.injEq]

theorem find_free_place {m : Mach} {slot : Nat} (hslot : slot < 256) (hfree : slot ∉ hotPlaces m)
    (hlower : ∀ k, k < slot → k ∈ hotPlaces m) :
    ((List.range 256).find? fun k => !(hotPlaces m).contains k) = some slot := by
  rw [List.find?_range_eq_some]
  simpa [hslot, hfree] using hlower

/-- The copied adapter in its place of the hot region. -/
def madeHot (m : Mach) (j : Job) (id slot : Nat) : Mach :=
  setAdapter (copyHot m j id slot) id { getAdapter m id with hot := true, lastUse := m.now, hotSlot := slot }

theorem madeHot_adapterSet (m : Mach) (j : Job) (id slot : Nat) :
    AdapterSet m (madeHot m j id slot) id { getAdapter m id with hot := true, lastUse := m.now, hotSlot := slot } :=
  (setAdapter_adapterSet ..).congr (by rw [(copyHot_onlyCopied m j id slot).frame]) rfl

theorem madeHot_kept (m : Mach) (j : Job) (id slot : Nat) : (madeHot m j id slot).hbm = m.hbm ∧
    (madeHot m j id slot).threads = m.threads ∧ (madeHot m j id slot).now = m.now := by
  rw [madeHot, (copyHot_onlyCopied m j id slot).frame]
  exact ⟨rfl, rfl, rfl⟩

theorem madeHot_stored {m : Mach} {j : Job} {h : HotPart} {r : RowId} (hhot : j.image.mem.hot = [h])
    (hrow : placeRow j h.place = some r) (id slot : Nat) :
    Stored m (madeHot m j id slot) (sramOf r false (h.base + h.bytes * slot))
      (hbmBytes m (adapterAddr j id + 64 + h.first) h.bytes) := by
  obtain ⟨hwritten, hothers⟩ := copyHot_stored (m := m) hhot hrow id slot
  exact ⟨hwritten, hothers⟩

theorem makeHot_eq {m : Mach} {j : Job} (hjob : m.job = some j) (id slot : Nat) : makeHot m id slot = madeHot m j id slot := by
  have hcopied := copyHot_onlyCopied m j id slot
  have hadapters : (copyHot m j id slot).adapters = m.adapters := by rw [hcopied.frame]
  have hnow : (copyHot m j id slot).now = m.now := by rw [hcopied.frame]
  simp only [makeHot, hjob, Option.map_some, Option.getD_some, madeHot, getAdapter, hadapters, hnow]

theorem execAdapterHotCopyComplete_free {s : State} {id slot : Nat} {j : Job} (hjob : s.m.job = some j)
    (hinstalled : (getAdapter s.m id).installed = true) (hcold : (getAdapter s.m id).hot = false) (hslot : slot < 256)
    (hfree : slot ∉ hotPlaces s.m) (hlower : ∀ k, k < slot → k ∈ hotPlaces s.m) :
    execAdapterHotCopyComplete id s = .next { s with m := madeHot s.m j id slot } := by
  have hfind := find_free_place hslot hfree hlower
  simp only [hotPlaces] at hfind
  simp only [execAdapterHotCopyComplete, nextM, hinstalled, hcold, hfind, Bool.not_true, Bool.false_eq_true, or_self, if_false]
  rw [makeHot_eq hjob]

/-- Settles O43: an install asks for its container (`adapterAskedFor`), a remove clears the adapter (`adapterRemoved`), a good
container is stored (`adapterInstalled_hbm`) and a bad one only answered, and a copy lands its parts in the hot region
(`madeHot_stored`). -/
theorem adaptersComeAndGo : Obligations.AdaptersComeAndGo := by
  intro s
  refine ⟨fun v bytes hcheck hid => ⟨fun hop hnew => ?install, fun hop hunnamed => ?remove⟩,
    fun id len issued rest bytes j hwait hlen hjob => ⟨fun hok => ?good, fun hok => ?bad⟩,
    fun id slot j hjob hinstalled hcold hslot hfree hlower => ?hot⟩
  case install =>
    exact ⟨_, execAdapterInstall_asks hcheck hid hop hnew, adapterAskedFor_adapterWait .., adapterAskedFor_out ..,
      adapterAskedFor_adapters .., adapterAskedFor_engineKept ..⟩
  case remove =>
    have hset := adapterRemoved_adapterSet s.m v (field bytes 2 2)
    exact ⟨_, execAdapterRemove_removes hcheck hid hop hunnamed, hset.same, (adapterResult_onlyResult ..).result, hset.others,
      adapterRemoved_engineKept ..⟩
  case good =>
    let m := { s.m with adapterWait := rest }
    have hset := adapterInstalled_adapterSet m j id bytes
    obtain ⟨hwritten, hothers⟩ := adapterInstalled_hbm m j id bytes hok
    exact ⟨_, execAdapterContainerRead_good hwait hlen hjob hok, adapterInstalled_adapterWait m j id bytes,
      (adapterInstalled_onlyResult m j id bytes).result, hset.same, hset.others, hwritten, hothers,
      adapterInstalled_engine m j id bytes⟩
  case bad =>
    have hresult := adapterResult_onlyResult { s.m with adapterWait := rest } 3
    exact ⟨_, execAdapterContainerRead_bad hwait hlen hok, hresult.adapterWait, hresult.result, hresult.adapters,
      (adapterWait_engineKept s.m rest).trans hresult.engineKept⟩
  case hot =>
    have hnone : slot ∉ hotPlaces s.m := fun hmem => by
      obtain ⟨e, he, hhot, hplace⟩ := mem_hotPlaces.mp hmem
      exact hfree e he hhot hplace
    have hset := madeHot_adapterSet s.m j id slot
    exact ⟨_, execAdapterHotCopyComplete_free hjob hinstalled hcold hslot hnone fun k hk => mem_hotPlaces.mpr (hlower k hk),
      hset.same, hset.others, fun h r hhot hrow => madeHot_stored hhot hrow id slot, madeHot_kept s.m j id slot⟩

end Sys2Proof.Machine

/-! SUPPORT. ReplaceCommand (R337, R339, R346, R347): a replacement that begins, its image being read and its answer owed (R425), and
one that is abandoned. -/

namespace Sys2Proof.Machine

/-! ## A replacement begins (R337, R347, R425) -/

/-- The replacement that a command asks for, its image as it is read. -/
def askedReplacement (m : Mach) (bytes : List Byte) (img : Image) : Replacement :=
  { method := field bytes 0 1, image := img, length := field bytes 16 8, unread := replBeyond m bytes (some img) }

/-- From `a` to `n` a replacement has begun: it is CHECKING, its command's answer is owed, and job and engine are as they were. -/
structure ReplacementBegun (a n : Mach) (v : Via) (r : Replacement) : Prop where
  repl : n.repl = some r
  state : odGet n 0x3140 2 = 1
  answers : n.answers = a.answers ++ [⟨v, objKey 0x3140 1, none⟩]
  job : n.job = a.job
  engine : EngineKept a n

theorem countBeyond_onlyHostSide (m : Mach) (bytes : List Byte) (img : Option Image) :
    OnlyHostSide m (countBeyond m bytes img) :=
  .ite (count_onlyHostSide ..) (.refl m)

/-- The image asked for is read, on the host's side alone. -/
theorem readImage_countBeyond_onlyHostSide (m : Mach) (bytes : List Byte) (img : Option Image) (stager : Bool) :
    OnlyHostSide m (readImage (countBeyond m bytes img) bytes stager) :=
  (countBeyond_onlyHostSide ..).trans (emit_onlyHostSide ..)

theorem odGet_setReplState (m : Mach) (n : Nat) : odGet (setReplState m n) 0x3140 2 = n := odGet_odSet_same ..

theorem odGet_holdAnswer (m : Mach) (v : Via) (key : Nat) (reply : Option Reply) (idx sub : Nat) :
    odGet (holdAnswer m v key reply) idx sub = odGet m idx sub := rfl

/-- The machine `m`, by whose reads of the image nothing but the host's side has changed, with the replacement in CHECKING. -/
theorem beginChecking_begun {a m : Mach} (h : OnlyHostSide a m) (v : Via) (r : Replacement) :
    ReplacementBegun a (holdAnswer (setReplState { m with repl := some r, imageRetries := [] } 1) v (objKey 0x3140 1) none) v r where
  repl := rfl
  state := by rw [odGet_holdAnswer, odGet_setReplState]
  answers := by
    rw [h.frame]
    rfl
  job := h.job
  engine := h.engineKept.trans ⟨rfl, rfl, rfl, rfl, rfl, rfl, rfl, rfl, rfl, rfl⟩

section
variable {m : Mach} {bytes : List Byte} {j : Job} (hmode : m.mode = .running)
include hmode

/-- A method that nothing refuses begins its replacement. -/
theorem replaceRun_begins (hjob : m.job = some j) (hidle : odGet m 0x3140 2 = 0)
    (hsource : ¬ (field bytes 1 1 = 1 ∧ odGet m 0x5400 1 = 0)) (hmethod : field bytes 0 1 ≠ 0)
    (hallowed : methodRefused m (field bytes 0 1) = none) (v : Via) (img : Image) :
    ReplacementBegun m (replaceRun m v bytes (some img) none) v (askedReplacement m bytes img) := by
  have hread := readImage_countBeyond_onlyHostSide m bytes (some img) (field bytes 1 1 == 1)
  simp only [replaceRun, hmode, hmethod, hidle, hsource, hallowed, hjob, ne_eq, not_true_eq_false, if_false]
  exact beginChecking_begun hread v (askedReplacement m bytes img)

/-- ABANDON ends a replacement that is on its way and not announced yet; a command still in CHECKING ends refused. -/
theorem replaceRun_abandons (hop : field bytes 0 1 = 0) (hunder : 1 ≤ odGet m 0x3140 2) (hquiet : odGet m 0x3140 2 < 5)
    (v : Via) (img : Option Image) :
    replaceRun m v bytes img none =
      answer (giveFirst (abandonRepl m) (objKey 0x3140 1) (loadRefused 0x0707)) v none 0 := by
  have hstate : ¬ (odGet m 0x3140 2 = 0 ∨ 5 ≤ odGet m 0x3140 2) := by omega
  simp only [replaceRun, hmode, hop, hstate, ne_eq, not_true_eq_false, if_true, if_false]

end

/-! ## A replacement abandoned (R337, R346) -/

theorem dropLatent_hbm (m : Mach) : (dropLatent m).hbm = m.hbm := by
  unfold dropLatent
  split <;> rfl

theorem dropLatent_threads (m : Mach) : (dropLatent m).threads = m.threads := by
  unfold dropLatent
  split <;> rfl

theorem endRepl_engineKept (m : Mach) (code : Nat) : EngineKept m (endRepl m code) := by
  have hgone : EngineKept m { m with repl := none } := ⟨rfl, rfl, rfl, rfl, rfl, rfl, rfl, rfl, rfl, rfl⟩
  have hresult : OnlyHostSide { m with repl := none } (endRepl m code) :=
    .after (count_onlyHostSide ..) (.after (odSet_onlyHostSide ..) (odSet_onlyHostSide ..))
  exact hgone.trans hresult.engineKept

theorem abandonRepl_kept (m : Mach) : (abandonRepl m).hbm = m.hbm ∧ (abandonRepl m).threads = m.threads := by
  unfold abandonRepl
  split
  · exact ⟨rfl, rfl⟩
  next r _ =>
    have hended := endRepl_engineKept (if r.method ≤ 2 ∧ r.buffered then dropLatent m else m) 0x0707
    rw [hended.hbm, hended.threads]
    split
    · exact ⟨dropLatent_hbm m, dropLatent_threads m⟩
    · exact ⟨rfl, rfl⟩

theorem OnlyAnswered.threads {a n : Mach} (h : OnlyAnswered a n) : n.threads = a.threads := by rw [h.frame]

/-! ## The commands (R337, R425) -/

section
variable {s : State} {v : Via} {bytes : List Byte} (hcheck : replaceCheck s.m v bytes = none)
include hcheck

theorem execReplaceFixNow_accepted (img : Image) :
    execReplaceFixNow v bytes img s = .next { s with m := replaceRun s.m v bytes (some img) none } := by
  simp only [execReplaceFixNow, nextM, commandRow, hcheck]

theorem execReplaceFixAfterDrain_accepted (img : Image) :
    execReplaceFixAfterDrain v bytes img s = .next { s with m := replaceRun s.m v bytes (some img) none } := by
  simp only [execReplaceFixAfterDrain, nextM, commandRow, hcheck]

theorem execReplaceInPlace_accepted (img : Image) :
    execReplaceInPlace v bytes img s = .next { s with m := replaceRun s.m v bytes (some img) none } := by
  simp only [execReplaceInPlace, nextM, commandRow, hcheck]

theorem execReplaceAbandon_accepted :
    execReplaceAbandon v bytes s = .next { s with m := replaceRun s.m v bytes none none } := by
  simp only [execReplaceAbandon, nextM, commandRow, hcheck]

end

/-- Settles O44: each method that nothing refuses begins its replacement (`replaceRun_begins`), and ABANDON is `abandonRepl` with its
answers (`replaceRun_abandons`), none of which touches HBM or a thread. -/
theorem replacementsBegin : Obligations.ReplacementsBegin := by
  intro s v bytes img j hcheck hmode hjob start free
  have hbegins (k : Nat) (hk : k ≠ 0) (hfree : free) (hop : field bytes 0 1 = k) (hallowed : methodRefused s.m k = none) :
      start k (replaceRun s.m v bytes (some img) none) := by
    subst hop
    have hbegun := replaceRun_begins hmode hjob hfree.1 hfree.2 hk hallowed v img
    exact ⟨⟨_, hbegun.repl, rfl, rfl, rfl⟩, hbegun.state, hbegun.answers, hbegun.job, hbegun.engine⟩
  refine ⟨fun hfree hop hallowed => ?fixNow, fun hfree hop hallowed => ?afterDrain, fun hfree hop hallowed => ?inPlace,
    fun hop hunder hquiet => ?abandon⟩
  case fixNow => exact ⟨_, execReplaceFixNow_accepted hcheck img, hbegins 1 (by decide) hfree hop hallowed⟩
  case afterDrain => exact ⟨_, execReplaceFixAfterDrain_accepted hcheck img, hbegins 2 (by decide) hfree hop hallowed⟩
  case inPlace => exact ⟨_, execReplaceInPlace_accepted hcheck img, hbegins 3 (by decide) hfree hop hallowed⟩
  case abandon =>
    have hrun := replaceRun_abandons hmode hop hunder hquiet v none
    have hanswered := (giveFirst_onlyAnswered (abandonRepl s.m) (objKey 0x3140 1) (loadRefused 0x0707)).trans
      (answer_onlyAnswered _ v none 0)
    obtain ⟨hhbm, hthreads⟩ := abandonRepl_kept s.m
    refine ⟨_, execReplaceAbandon_accepted hcheck, hrun, ?_⟩
    rw [hrun]
    exact ⟨hanswered.hbm.trans hhbm, hanswered.threads.trans hthreads⟩

end Sys2Proof.Machine

/-! SUPPORT. Time that passes while the beats of a job run (R4, R131, R149, R168, R195–R208): of all that the fabric, the loads and
the links do in it, only a fault changes the job, which then knows the first beat after it (R225). -/

namespace Sys2Proof.Machine

/-- The job but for what an open fault notes in it. -/
def jobButFault (m : Mach) : Option Job := m.job.map fun j => { j with faultNext := none }

/-- From `a` to `n` the job has changed by open faults at most. -/
structure FaultsNoted (a n : Mach) : Prop where
  job : jobButFault n = jobButFault a

namespace FaultsNoted

variable {a m n : Mach}

theorem of_eq (h : n.job = a.job) : FaultsNoted a n := ⟨by rw [jobButFault, jobButFault, h]⟩

theorem refl (a : Mach) : FaultsNoted a a := .of_eq rfl

theorem trans (h : FaultsNoted a m) (h' : FaultsNoted m n) : FaultsNoted a n := ⟨h'.job.trans h.job⟩

/-- `trans` with the later step first, so that its statement says which machine stands between. -/
theorem after (h' : FaultsNoted m n) (h : FaultsNoted a m) : FaultsNoted a n := h.trans h'

theorem ite {p : Prop} [Decidable p] (h : FaultsNoted a m) (h' : FaultsNoted a n) : FaultsNoted a (if p then m else n) := by
  split
  · exact h
  · exact h'

theorem foldl {α : Type} {g : Mach → α → Mach} (hg : ∀ m x, FaultsNoted m (g m x)) (l : List α) (a : Mach) :
    FaultsNoted a (l.foldl g a) :=
  List.foldlRecOn l g (.refl a) fun m hm x _ => hm.trans (hg m x)

/-- A job stays a job, with the image it had. -/
theorem exists_job (h : FaultsNoted a n) {j : Job} (hjob : a.job = some j) : ∃ k, n.job = some k ∧ k.image = j.image := by
  have hcore := h.job
  rw [jobButFault, jobButFault, hjob, Option.map_some, Option.map_eq_some_iff] at hcore
  obtain ⟨k, hk, hsame⟩ := hcore
  have himage := congrArg Job.image hsame
  exact ⟨k, hk, himage⟩

end FaultsNoted

theorem OnlyHostSide.faultsNoted {a n : Mach} (h : OnlyHostSide a n) : FaultsNoted a n := .of_eq h.job

theorem OnlyAnnounced.faultsNoted {a n : Mach} (h : OnlyAnnounced a n) : FaultsNoted a n := .of_eq h.job

/-! ## Faults (R225, R477) -/

theorem openFault_faultsNoted (m : Mach) : FaultsNoted m (openFault m) := by
  unfold openFault
  refine .ite ⟨?_⟩ (.refl m)
  rw [jobButFault, jobButFault, Option.map_map]
  rfl

theorem keepDetail_faultsNoted (m : Mach) (erg dune detail : Nat) : FaultsNoted m (keepDetail m erg dune detail) :=
  .ite (.of_eq rfl) (.refl m)

theorem countDune_faultsNoted (m : Mach) (erg num idx sub n : Nat) : FaultsNoted m (countDune m erg num idx sub n) :=
  (countDune_onlyHostSide ..).faultsNoted

theorem raiseFault_faultsNoted (m : Mach) (code erg dune row thread beat detail : Nat) :
    FaultsNoted m (raiseFault m code erg dune row thread beat detail) := by
  unfold raiseFault
  extract_lets sev rec_ src m1 m2 m3
  have h0 : FaultsNoted m { m with raised := m.raised ++ [rec_] } := .of_eq rfl
  have h1 : FaultsNoted m m1 := (h0.trans (openFault_faultsNoted _)).trans (keepDetail_faultsNoted ..)
  have h2 : FaultsNoted m m2 := .ite (h1.trans (countDune_faultsNoted ..)) h1
  have h3 : FaultsNoted m m3 := .ite (h2.trans (.of_eq rfl)) (.ite (h2.trans (.of_eq rfl)) h2)
  exact h3.trans (.of_eq rfl)

theorem stopRow_faultsNoted (m : Mach) (r : RowId) : FaultsNoted m (stopRow m r) := .of_eq rfl

theorem rowFault_faultsNoted (m : Mach) (r : RowId) (code thread detail : Nat) :
    FaultsNoted m (rowFault m r code thread detail) :=
  .after (raiseFault_faultsNoted ..) (.of_eq rfl)

theorem duneFault_faultsNoted (m : Mach) (d : DuneId) (code row detail : Nat) :
    FaultsNoted m (duneFault m d code row detail) :=
  .after (raiseFault_faultsNoted ..) (.foldl (fun m k => stopRow_faultsNoted m ⟨d, Fin.ofNat 96 k⟩) _ m)

/-! ## What lands, and loads (R131, R168) -/

theorem landUpTo_faultsNoted (m : Mach) (t : Nat) : FaultsNoted m (landUpTo m t) :=
  .after (.foldl (fun m l => .of_eq (by rw [(landOne_onlyCopied m l).frame])) _ _) (.of_eq rfl)

theorem readSram_faultsNoted (m : Mach) (addr n : Nat) : FaultsNoted m (readSram m addr n).2 :=
  List.foldlRecOn (motive := fun (x : List Byte × Mach) => FaultsNoted m x.2) _ _ (.refl m)
    fun _ hx _ _ => hx.trans (.of_eq rfl)

theorem serveLoad_faultsNoted (m : Mach) (l : LoadReq) : FaultsNoted m (serveLoad m l) := by
  unfold serveLoad
  extract_lets m1 x m2 m3 k m4
  have h2 : FaultsNoted m m2 := (landUpTo_faultsNoted m l.service).trans (readSram_faultsNoted ..)
  have h4 : FaultsNoted m m4 := .after (countDune_faultsNoted ..) (h2.trans (.of_eq rfl))
  split
  · exact h4
  · exact h4.trans (.of_eq rfl)

theorem settle_faultsNoted (m : Mach) (t : Nat) : FaultsNoted m (settle m t) :=
  .after (landUpTo_faultsNoted ..) (.after (.foldl serveLoad_faultsNoted _ _) (.of_eq rfl))

/-! ## The fabric, cycle by cycle (R149, R195–R208) -/

theorem linksRun_faultsNoted (since t : Nat) (m : Mach) : FaultsNoted m (linksRun since t m) :=
  .foldl (fun m b => (bundleRun_onlyAnnounced since t m b).faultsNoted) _ m

theorem slotOut_faultsNoted (m : Mach) (t k i : Nat) (bytes : List Byte) : FaultsNoted m (slotOut m t k i bytes) := by
  unfold slotOut
  split
  · exact .refl m
  next e _ =>
    extract_lets last b m1
    have hsent : FaultsNoted m m1 := (sendClass_onlyAnnounced ..).faultsNoted
    exact .ite (hsent.trans (.of_eq rfl)) hsent

theorem discardAt_faultsNoted (m : Mach) (router id : Nat) : FaultsNoted m (discardAt m router id) :=
  .after (countDune_faultsNoted ..) (.of_eq rfl)

theorem steerPacket_faultsNoted (m : Mach) (f : Flit) : FaultsNoted m (steerPacket m f) := by
  unfold steerPacket
  split
  · exact .refl m
  next p _ =>
    extract_lets here target held
    split
    · exact .refl m
    · extract_lets d way
      refine .ite (.refl m) (.ite (.ite (discardAt_faultsNoted ..) (.refl m)) ?_)
      clear_value way
      cases way with
      | some l => exact .of_eq rfl
      | none => exact .ite (.of_eq rfl) (discardAt_faultsNoted ..)

theorem judgePacket_faultsNoted (m : Mach) (p : Packet) : FaultsNoted m (judgePacket m p) := by
  unfold judgePacket
  split
  · exact .refl m
  · exact .ite (.of_eq rfl) (.after (rowFault_faultsNoted ..) (.of_eq rfl))

theorem reachPort_faultsNoted (m : Mach) (u : PortUnit) : FaultsNoted m (reachPort m u) := by
  unfold reachPort
  split
  · exact .refl m
  · exact .ite ((countDune_faultsNoted ..).trans (judgePacket_faultsNoted ..)) (countDune_faultsNoted ..)

theorem scratchArrives_faultsNoted (m : Mach) (c : Cargo) : FaultsNoted m (scratchArrives m c) := by
  unfold scratchArrives
  split
  · exact .ite (.of_eq rfl) (.refl m)
  · exact .of_eq rfl
  · exact .refl m

theorem answerSlot_faultsNoted (m : Mach) (t : Nat) (p : Packet) (k : Nat) : FaultsNoted m (answerSlot m t p k) := by
  unfold answerSlot
  split
  · extract_lets bytes
    refine .foldl (fun m i => ?_) _ m
    exact .of_eq rfl
  · exact .refl m

theorem slotWritten_faultsNoted (m : Mach) (k n t : Nat) : FaultsNoted m (slotWritten m k n t) := by
  unfold slotWritten
  split
  · exact .refl m
  · split
    · exact .refl m
    · exact .ite (.of_eq rfl) (.ite (.of_eq rfl) (.of_eq rfl))

theorem writeUnit_faultsNoted (m : Mach) (T : Nat) (u : PortUnit) : FaultsNoted m (writeUnit m T u) := by
  unfold writeUnit
  split
  · exact .refl m
  next p _ =>
    extract_lets done written m1 m2
    have h1 : FaultsNoted m m1 := .ite (.of_eq rfl) (.refl m)
    have h2 : FaultsNoted m m2 := .after (scratchArrives_faultsNoted ..) (h1.trans (.of_eq rfl))
    refine .ite h1 ?_
    split
    · exact h2.trans (answerSlot_faultsNoted ..)
    · exact .ite (h2.trans (slotWritten_faultsNoted ..)) h2
    · exact h2

theorem portCycle_faultsNoted (T : Nat) (m : Mach) (row : Nat) : FaultsNoted m (portCycle T m row) := by
  unfold portCycle
  extract_lets m1
  have h1 : FaultsNoted m m1 := .foldl reachPort_faultsNoted _ m
  split
  · exact h1
  · exact .ite (.after (writeUnit_faultsNoted ..) (h1.trans (.of_eq rfl))) h1

theorem leavePacket_faultsNoted (m : Mach) (t : Nat) (p : Packet) : FaultsNoted m (leavePacket m t p) := by
  have hgone : FaultsNoted m (removePacket m p.id) := .of_eq rfl
  unfold leavePacket
  split
  · exact hgone.trans (slotOut_faultsNoted ..)
  · exact hgone.trans (postEventAt_onlyHostSide ..).faultsNoted
  · exact hgone

theorem pushFlit_faultsNoted (m : Mach) (w : Want) (T cycles : Nat) : FaultsNoted m (pushFlit m w T cycles) := by
  unfold pushFlit
  split
  · exact .refl m
  · exact .of_eq rfl

theorem spendInjection_faultsNoted (m : Mach) (a : Armed) (n : Nat) : FaultsNoted m (spendInjection m a n) := by
  have hcounted : FaultsNoted m (if a.left == armedBits a 191 160 then count m 0x61A0 6 1 else m) :=
    .ite (.of_eq rfl) (.refl m)
  exact hcounted.trans (.of_eq rfl)

theorem crossBridge_faultsNoted (m : Mach) (erg e b cls flits target beat : Nat) :
    FaultsNoted m (crossBridge m erg e b cls flits target beat).1 := by
  unfold crossBridge
  split
  · exact .refl m
  · split
    · exact (spendInjection_faultsNoted ..).trans (raiseFault_faultsNoted ..)
    · extract_lets n m1
      have h1 : FaultsNoted m m1 := spendInjection_faultsNoted ..
      split
      · exact h1.trans (.of_eq rfl)
      · exact h1.trans (raiseFault_faultsNoted ..)

theorem sendFlit_faultsNoted (m : Mach) (T : Nat) (w : Want) : FaultsNoted m (sendFlit m T w) := by
  unfold sendFlit
  extract_lets +onlyGivenNames m1 vc m2
  have h1 : FaultsNoted m m1 := .ite (countDune_faultsNoted ..) (.refl m)
  have h2 : FaultsNoted m m2 := h1.trans (.of_eq rfl)
  clear_value m2
  split
  case h_1 => exact h2.trans (pushFlit_faultsNoted ..)
  case h_2 => exact .after (pushFlit_faultsNoted ..) (h2.trans (.of_eq rfl))
  case h_3 e b _ =>
    extract_lets router erg d m3 x
    have h3 : FaultsNoted m m3 := .after (countDune_faultsNoted ..) (h2.trans (.of_eq rfl))
    have hx : FaultsNoted m x.1 := by
      unfold x
      split
      · exact h3.trans (crossBridge_faultsNoted ..)
      · exact h3
    exact .ite (hx.trans (pushFlit_faultsNoted ..)) (hx.trans (.of_eq rfl))
  case h_4 => exact .ite (.ite h2 (h2.trans (leavePacket_faultsNoted ..))) (h2.trans (.of_eq rfl))

theorem collide_faultsNoted (T link : Nat) (sent : List Nat) (m : Mach) : FaultsNoted m (collide T link sent m) := by
  unfold collide
  extract_lets holder waits
  clear_value waits
  cases waits with
  | none => exact .refl m
  | some w => exact .after (duneFault_faultsNoted ..) (.after (countDune_faultsNoted ..) (.of_eq rfl))

theorem sendOn_faultsNoted (T link n : Nat) (x : Mach × List Nat) : FaultsNoted x.1 (sendOn T link n x).1 := by
  induction n generalizing x with
  | zero => exact .refl _
  | succ n ih =>
    unfold sendOn
    split
    · exact .refl _
    · exact .after (ih _) (sendFlit_faultsNoted ..)

theorem portSends_faultsNoted (T : Nat) (m : Mach) (link : Nat) : FaultsNoted m (portSends T m link) :=
  (sendOn_faultsNoted T link _ (m, [])).trans (collide_faultsNoted ..)

theorem fabricCycle_faultsNoted (m : Mach) : FaultsNoted m (fabricCycle m) := by
  unfold fabricCycle
  extract_lets T m1 m2 m3
  have h1 : FaultsNoted m m1 := .after (.foldl (portCycle_faultsNoted T) _ _) (.of_eq rfl)
  have h2 : FaultsNoted m m2 := h1.trans (.foldl (fun m (e : Nat × Flit) => steerPacket_faultsNoted m e.2) _ _)
  have h3 : FaultsNoted m m3 := h2.trans (.foldl (portSends_faultsNoted T) _ _)
  exact h3.trans (linksRun_faultsNoted ..)

theorem fabricRun_faultsNoted (fuel : Nat) (m : Mach) (t : Nat) : FaultsNoted m (fabricRun fuel m t) := by
  induction fuel generalizing m with
  | zero => exact .refl m
  | succ fuel ih =>
    unfold fabricRun
    exact .ite (.refl m) (((settle_faultsNoted ..).trans (fabricCycle_faultsNoted _)).trans (ih _))

/-- Time that passes leaves a job as it is but for the faults that it notes. -/
theorem advance_faultsNoted (m : Mach) (t : Nat) : FaultsNoted m (advance m t) := by
  unfold advance
  extract_lets since m1
  have h1 : FaultsNoted m m1 := .ite (fabricRun_faultsNoted ..) (.refl m)
  have hlinks : FaultsNoted m (if since < t then linksRun since t m1 else m1) := .ite (h1.trans (linksRun_faultsNoted ..)) h1
  exact hlinks.trans (settle_faultsNoted ..)

end Sys2Proof.Machine

/-! SUPPORT. Streamed bank plans (R334, R335): the check before a boundary, and the end of a hold, in which the latent banks are built.
That the RESUME is announced as early as its lead allows is the model's choice (assumption 35). -/

namespace Sys2Proof.Machine

/-! ## The check before a boundary (R335) -/

/-- The machine whose beats are held at boundary `b`, the pause announced. -/
def heldAt (m : Mach) (b : Nat) : Mach :=
  announcePause { m with job := m.job.map fun j => { j with planHeld := some b } } b

theorem heldAt_onlyAnnounced (m : Mach) (b : Nat) :
    OnlyAnnounced (noteBeat { m with job := m.job.map fun j => { j with planHeld := some b } } b) (heldAt m b) :=
  announcePause_onlyAnnounced ..

theorem heldAt_engineKept (m : Mach) (b : Nat) : EngineKept m (heldAt m b) :=
  (job_onlyBookkeeping ..).engineKept.trans (heldAt_onlyAnnounced ..).engineKept

/-- The job knows the boundary and counts it among the beats announced. -/
theorem heldAt_job {m : Mach} {j : Job} (hjob : m.job = some j) (b : Nat) :
    ∃ k, (heldAt m b).job = some k ∧ k.planHeld = some b ∧ b ≤ k.announcedTo := by
  rw [(heldAt_onlyAnnounced m b).job, noteBeat, hjob]
  exact ⟨_, rfl, rfl, Nat.le_max_right ..⟩

theorem multiModule_of_job {m : Mach} {j : Job} (hjob : m.job = some j) : multiModule m = decide (1 < j.image.modules) := by
  rw [multiModule, hjob]
  rfl

/-- Time that passes adds no module to a job. -/
theorem multiModule_advance {m : Mach} {j : Job} (hjob : m.job = some j) (t : Nat) : multiModule (advance m t) = multiModule m := by
  obtain ⟨k, hk, himage⟩ := (advance_faultsNoted m t).exists_job hjob
  rw [multiModule_of_job hk, multiModule_of_job hjob, himage]

section
variable {s : State} {j : Job} (hjob : s.m.job = some j) (huse : j.image.mem.bankUse = .streamed)
  (hperiod : j.image.mem.bankPeriod ≠ 0) (hruns : beatsRun s.m = true) (hheld : j.planHeld = none)
  (hsingle : multiModule s.m = false) {b at_ : Nat} (hb : b = nextBoundary s.m j.image.mem)
  (hat : at_ = instantAt s.m b - max (4 * periodAt s.m b) 10000) (hahead : htcNow s.m ≤ at_)
include hjob huse hperiod hruns hheld hsingle hb hat hahead

/-- A check whose instant has not passed waits for it and holds the beats only where a latent bank is not ready. -/
theorem execStreamReadinessCheck_due {m : Mach} (hm : m = advance s.m (tuAt s.m at_)) :
    execStreamReadinessCheck s = .next { s with m := if latentReady m then m else heldAt m b } := by
  have hlate : ¬ at_ < htcNow s.m := Nat.not_lt.mpr hahead
  have hannounces : announces m = true := by
    rw [announces, hm, multiModule_advance hjob, hsingle]
    rfl
  simp only [execStreamReadinessCheck, nextM, hjob, ← hb, huse, hperiod, hruns, hheld, hsingle, ← hat, hlate, ← hm, hannounces,
    ne_eq, not_true_eq_false, Bool.not_true, Bool.false_eq_true, Option.isSome_none, or_self, or_false, if_false]
  rfl

end

/-! ## Counters that a build leaves (R413, R434) -/

/-- A counter of a dune adds to its own entry and to copies of it, which stand behind every other object. -/
theorem odGet_countDune_ne (m : Mach) {idx sub i k : Nat} (h : objKey i k ≠ objKey idx sub) (hplain : objKey i k < objKey 0x8000 0)
    (erg num n : Nat) : odGet (countDune m erg num idx sub n) i k = odGet m i k := by
  have hcopy (f e : Nat) : objKey i k ≠ objKey (arrayIndex f erg e) sub := by
    simp only [objKey, arrayIndex] at hplain ⊢
    omega
  have hone : odGet (count m idx sub n) i k = odGet m i k := odGet_odSet_ne m h _
  unfold countDune
  split
  · rfl
  · split
    · split
      · rw [count, odGet_odSet_ne _ (hcopy _ _), count, odGet_odSet_ne _ (hcopy _ _), hone]
      · exact hone
    · exact hone

/-! ## Latent banks built (R102, R335) -/

/-- From `a` to `n` latent banks have been built: only rows, objects and the measure of HBM's service may have changed, and not the
count of streamed pauses. -/
structure OnlyBuilt (a n : Mach) : Prop where
  frame : n = { a with rows := n.rows, od := n.od, hbmServed := n.hbmServed, hbmMoved := n.hbmMoved }
  pauses : odGet n 0x6190 4 = odGet a 0x6190 4

namespace OnlyBuilt

variable {a m n : Mach}

theorem refl (a : Mach) : OnlyBuilt a a := ⟨rfl, rfl⟩

theorem trans (h : OnlyBuilt a m) (h' : OnlyBuilt m n) : OnlyBuilt a n :=
  ⟨h'.frame.trans (by rw [h.frame]), h'.pauses.trans h.pauses⟩

theorem foldl {α : Type} {g : Mach → α → Mach} (hg : ∀ m x, OnlyBuilt m (g m x)) (l : List α) (a : Mach) :
    OnlyBuilt a (l.foldl g a) :=
  List.foldlRecOn l g (.refl a) fun m hm x _ => hm.trans (hg m x)

theorem job (h : OnlyBuilt a n) : n.job = a.job := by rw [h.frame]
theorem threads (h : OnlyBuilt a n) : n.threads = a.threads := by rw [h.frame]
theorem hbm (h : OnlyBuilt a n) : n.hbm = a.hbm := by rw [h.frame]

end OnlyBuilt

theorem serveRecord_onlyBuilt (m : Mach) (d : BankData) (o n : Nat) : OnlyBuilt m (serveRecord m d o n) := by
  unfold serveRecord
  split
  next a _ =>
    have hserved := serveHbm_onlyServed m (a + o) n
    exact ⟨by rw [hserved.frame], by rw [hserved.frame]; rfl⟩
  next => exact .refl m

theorem setRow_onlyBuilt (m : Mach) (r : RowId) (w : RowState) : OnlyBuilt m (setRow m r w) := ⟨rfl, rfl⟩

theorem countRow_onlyBuilt (m : Mach) (r : RowId) {idx sub : Nat} (h : objKey 0x6190 4 ≠ objKey idx sub) (n : Nat) :
    OnlyBuilt m (countRow m r idx sub n) := by
  obtain ⟨od, heq⟩ := countDune_eq m r.dune.erg.val r.dune.num.val idx sub n
  exact ⟨by rw [countRow, heq], odGet_countDune_ne m h (by decide) ..⟩

theorem countStripFirings_onlyBuilt (m : Mach) (r : RowId) (n : Nat) : OnlyBuilt m (countStripFirings m r n) :=
  (countRow_onlyBuilt m r (by decide) _).trans (countRow_onlyBuilt _ r (by decide) _)

theorem buildLatentSite_onlyBuilt (m : Mach) (r : RowId) (k : Nat) : OnlyBuilt m (buildLatentSite m r k) := by
  unfold buildLatentSite
  extract_lets w x tj
  split
  · exact .refl m
  next =>
    extract_lets old w' n m1
    split
    · exact .refl m
    · have hserved : OnlyBuilt m m1 := serveRecord_onlyBuilt ..
      exact ((hserved.trans (setRow_onlyBuilt ..)).trans (countRow_onlyBuilt _ r (by decide) n)).trans
        (countStripFirings_onlyBuilt ..)

theorem buildLatent_onlyBuilt (m : Mach) : OnlyBuilt m (buildLatent m) :=
  .foldl (fun m _ => .foldl (fun m r => .foldl (fun m k => buildLatentSite_onlyBuilt m r k) _ m) _ m) _ m

/-! ## The end of a hold (R335) -/

/-- The machine whose plan is no longer held, the pause counted. -/
def planGoesOn (m : Mach) : Mach :=
  count { buildLatent m with job := (buildLatent m).job.map fun j => { j with planHeld := none } } 0x6190 4 1

/-- STREAM_READY ends the hold; the module that announces sends RESUME. -/
def streamResumed (m : Mach) : Mach :=
  if announces (planGoesOn m) then announceResume (planGoesOn m) (resumeAnchor (planGoesOn m)) else planGoesOn m

theorem streamResumed_onlyAnnounced (m : Mach) : OnlyAnnounced (planGoesOn m) (streamResumed m) :=
  .ite (broadcastJob_onlyAnnounced ..) (.refl _)

theorem OnlyAnnounced.odGet_eq {a n : Mach} (h : OnlyAnnounced a n) (idx sub : Nat) : odGet n idx sub = odGet a idx sub := by
  rw [h.frame]
  rfl

theorem streamResumed_job {m : Mach} {j : Job} (hjob : m.job = some j) :
    ∃ k, (streamResumed m).job = some k ∧ k.planHeld = none := by
  have hsame : (streamResumed m).job = m.job.map fun j => { j with planHeld := none } := by
    rw [(streamResumed_onlyAnnounced m).job, ← (buildLatent_onlyBuilt m).job]
    rfl
  rw [hsame, hjob]
  exact ⟨_, rfl, rfl⟩

theorem streamResumed_counts (m : Mach) : odGet (streamResumed m) 0x6190 4 = odGet m 0x6190 4 + 1 := by
  rw [(streamResumed_onlyAnnounced m).odGet_eq, planGoesOn, count, odGet_odSet_same, ← (buildLatent_onlyBuilt m).pauses]
  rfl

theorem streamResumed_kept (m : Mach) : (streamResumed m).threads = m.threads ∧ (streamResumed m).hbm = m.hbm := by
  have hbuilt := buildLatent_onlyBuilt m
  have hkept : EngineKept (buildLatent m) (streamResumed m) :=
    ((job_onlyBookkeeping ..).engineKept.trans (count_onlyHostSide ..).engineKept).trans (streamResumed_onlyAnnounced m).engineKept
  exact ⟨hkept.threads.trans hbuilt.threads, hkept.hbm.trans hbuilt.hbm⟩

theorem execStreamReady_held {s : State} {j : Job} {b : Nat} (hjob : s.m.job = some j) (hheld : j.planHeld = some b)
    (hpaused : (jobDuneState s.m).pausedFrom = some b) (hbeat : (jobDuneState s.m).beat = none) :
    execStreamReady s = .next { s with m := streamResumed s.m } := by
  simp only [execStreamReady, nextM, hjob, hheld, hpaused, hbeat, ne_eq, not_true_eq_false, Option.isSome_none,
    Bool.false_eq_true, or_self, if_false]
  rfl

/-- Settles O46: the check is `execStreamReadinessCheck_due`, after time that leaves the job's image and HBM (`advance_faultsNoted`,
`advance_driversKept`), and STREAM_READY is `streamResumed`. -/
theorem streamedPlans : Obligations.StreamedPlans := by
  intro s j hjob
  refine ⟨?check, fun b hheld hpaused hbeat => ?ready⟩
  case check =>
    intro at_ huse hperiod hruns hheld hsingle b hat hahead m
    have hexec := execStreamReadinessCheck_due hjob huse hperiod hruns hheld hsingle rfl hat hahead (m := m) rfl
    refine ⟨fun hready => ?goesOn, fun hunready => ?held⟩
    case goesOn => exact ⟨_, hexec, if_pos hready⟩
    case held =>
      obtain ⟨k, hk, -⟩ := (advance_faultsNoted s.m (tuAt s.m at_)).exists_job hjob
      have hkept := heldAt_engineKept m b
      rw [if_neg (by simp [hunready])] at hexec
      exact ⟨_, hexec, heldAt_job hk b, hkept.now, hkept.hbm.trans (advance_driversKept ..).hbm⟩
  case ready =>
    exact ⟨_, execStreamReady_held hjob hheld hpaused hbeat, streamResumed_job hjob, streamResumed_counts s.m,
      streamResumed_kept s.m⟩

end Sys2Proof.Machine

/-! SUPPORT. What a bundle sends (R353–R356, R361): of a bundle that frames go out on, what changes and what stays, and that a frame
handed to a bundle has gone out or still waits. -/

namespace Sys2Proof.Machine

/-! ## Classes of a bundle (R355) -/

@[simp] theorem getClass_setClass_same (x : Bundle) (c : Nat) (k : KlClass) : getClass (setClass x c k) c = k := sget_sset_same ..

@[simp] theorem getClass_setClass_ne (x : Bundle) {c e : Nat} (k : KlClass) (h : e ≠ c) : getClass (setClass x c k) e = getClass x e :=
  sget_sset_ne _ _ _ h

/-! ## A bundle that has sent -/

/-- From `x` to `y` a bundle has sent frames: its state, its lanes and what its peer has told are as they were, and of a class only
what goes out and waits for acknowledgement has changed. -/
structure SentOn (x y : Bundle) : Prop where
  frame : y = { x with classes := y.classes, waiting := y.waiting, nextLane := y.nextLane, laneFree := y.laneFree
                       sinceTc3 := y.sinceTc3, helloAt := y.helloAt }
  cls : ∀ c, getClass y c = { getClass x c with
    txNext := (getClass y c).txNext, unacked := (getClass y c).unacked, sentAt := (getClass y c).sentAt }

namespace SentOn

variable {x y z : Bundle}

theorem of_classes (h : y.classes = x.classes)
    (hframe : y = { x with classes := y.classes, waiting := y.waiting, nextLane := y.nextLane, laneFree := y.laneFree
                           sinceTc3 := y.sinceTc3, helloAt := y.helloAt }) : SentOn x y :=
  ⟨hframe, fun c => by simp only [getClass, h]⟩

theorem refl (x : Bundle) : SentOn x x := .of_classes rfl rfl

theorem trans (h : SentOn x y) (h' : SentOn y z) : SentOn x z :=
  ⟨h'.frame.trans (by rw [h.frame]), fun c => (h'.cls c).trans (by rw [h.cls c])⟩

theorem setClass {c : Nat} {k : KlClass}
    (h : k = { getClass x c with txNext := k.txNext, unacked := k.unacked, sentAt := k.sentAt }) : SentOn x (setClass x c k) where
  frame := rfl
  cls e := by
    by_cases he : e = c
    · rw [he, getClass_setClass_same]
      exact h
    · rw [getClass_setClass_ne x k he]

theorem state (h : SentOn x y) : y.state = x.state := by rw [h.frame]
theorem rxNext (h : SentOn x y) (c : Nat) : (getClass y c).rxNext = (getClass x c).rxNext := by rw [h.cls]
theorem rxHeld (h : SentOn x y) (c : Nat) : (getClass y c).rxHeld = (getClass x c).rxHeld := by rw [h.cls]
theorem reordered (h : SentOn x y) (c : Nat) : (getClass y c).reordered = (getClass x c).reordered := by rw [h.cls]

end SentOn

/-- From `a` to `n` bundle `b` has sent frames, and nothing else has happened. -/
structure FramesSent (b : Nat) (a n : Mach) : Prop where
  frame : n = { a with bundles := n.bundles, out := n.out }
  bundle : SentOn (getBundle a b) (getBundle n b)
  others : ∀ e, e ≠ b → getBundle n e = getBundle a e
  out : a.out <+: n.out

namespace FramesSent

variable {b : Nat} {a m n : Mach}

theorem refl (b : Nat) (a : Mach) : FramesSent b a a := ⟨rfl, .refl _, fun _ _ => rfl, List.prefix_refl _⟩

theorem trans (h : FramesSent b a m) (h' : FramesSent b m n) : FramesSent b a n where
  frame := h'.frame.trans (by rw [h.frame])
  bundle := h.bundle.trans h'.bundle
  others e he := (h'.others e he).trans (h.others e he)
  out := h.out.trans h'.out

/-- `trans` with the later step first, so that its statement says which machine stands between. -/
theorem after (h' : FramesSent b m n) (h : FramesSent b a m) : FramesSent b a n := h.trans h'

theorem setBundle {x : Bundle} (h : SentOn (getBundle a b) x) : FramesSent b a (setBundle a b x) where
  frame := rfl
  bundle := by rwa [getBundle_setBundle_same]
  others e he := getBundle_setBundle_ne (m := a) x he
  out := List.prefix_refl _

/-- Every bundle is in the state it was in. -/
theorem state (h : FramesSent b a n) (e : Nat) : (getBundle n e).state = (getBundle a e).state := by
  by_cases he : e = b
  · rw [he, h.bundle.state]
  · rw [h.others e he]

theorem odGet_eq (h : FramesSent b a n) (idx sub : Nat) : odGet n idx sub = odGet a idx sub := by
  rw [h.frame]
  rfl

end FramesSent

/-- A bundle that keeps a frame of a class for acknowledgement as it goes out on a lane (R355). -/
def keptForAck (x : Bundle) (since lane : Nat) (w : KlWait) : Bundle :=
  match w.cls with
  | none => x
  | some c =>
    let cl := getClass x c
    let moved := fun (e : Nat × Nat × Nat × List Byte) => if e.1 = w.seq then (e.1, lane, e.2.2.1, relane w.bytes lane) else e
    setClass x c { cl with
      unacked := if w.again then cl.unacked.map moved else cl.unacked ++ [(w.seq, lane, 0, relane w.bytes lane)]
      sentAt := sset 0 cl.sentAt w.seq (laneFreeAt x since lane / 10000) }

/-- A bundle once a frame has left on a lane. -/
def afterFrame (m : Mach) (x : Bundle) (since lane : Nat) (w : KlWait) : Bundle :=
  let y := keptForAck x since lane w
  { y with
    waiting := y.waiting.erase w, nextLane := (lane + 1) % 24
    laneFree := sset 0 y.laneFree lane (laneFreeAt y since lane + frameSpan m (relane w.bytes lane))
    sinceTc3 := if w.rank = 7 then 0 else y.sinceTc3 + 1 }

theorem frameGoes_eq (m : Mach) (b since lane : Nat) (w : KlWait) : frameGoes m b since lane w =
    emit (setBundle m b (afterFrame m (getBundle m b) since lane w)) (.kl b lane (relane w.bytes lane)) := by
  unfold frameGoes afterFrame keptForAck
  cases w.cls <;> rfl

theorem keptForAck_sentOn (x : Bundle) (since lane : Nat) (w : KlWait) : SentOn x (keptForAck x since lane w) := by
  unfold keptForAck
  split
  · exact .refl x
  · exact .setClass rfl

theorem keptForAck_waiting (x : Bundle) (since lane : Nat) (w : KlWait) : (keptForAck x since lane w).waiting = x.waiting := by
  unfold keptForAck
  split <;> rfl

theorem frameGoes_framesSent (m : Mach) (b since lane : Nat) (w : KlWait) : FramesSent b m (frameGoes m b since lane w) := by
  rw [frameGoes_eq]
  have hset : FramesSent b m (setBundle m b (afterFrame m (getBundle m b) since lane w)) :=
    .setBundle ((keptForAck_sentOn ..).trans (.of_classes rfl rfl))
  exact { hset with frame := rfl, out := List.prefix_append .. }

theorem bundleSends_framesSent (b since t fuel : Nat) (m : Mach) : FramesSent b m (bundleSends b since t fuel m) := by
  induction fuel generalizing m with
  | zero => exact .refl b m
  | succ fuel ih =>
    unfold bundleSends
    split
    · exact .refl b m
    · split
      · exact (frameGoes_framesSent ..).trans (ih _)
      · exact .refl b m

theorem hellosDue_framesSent (b t fuel : Nat) (m : Mach) : FramesSent b m (hellosDue b t fuel m) := by
  induction fuel generalizing m with
  | zero => exact .refl b m
  | succ fuel ih =>
    unfold hellosDue
    extract_lets x
    split
    · exact .refl b m
    · exact .after (ih _) (.setBundle (.of_classes rfl rfl))

theorem bundleRun_framesSent (since t : Nat) (m : Mach) (b : Nat) : FramesSent b m (bundleRun since t m b) :=
  (hellosDue_framesSent ..).trans (bundleSends_framesSent ..)

theorem sendFrame_framesSent (m : Mach) (t b rank : Nat) (bytes : List Byte) : FramesSent b m (sendFrame m t b rank bytes) :=
  .after (bundleRun_framesSent ..) (.setBundle (.of_classes rfl rfl))

theorem sendClass_framesSent (m : Mach) (t b c : Nat) (frame : Nat → List Byte) : FramesSent b m (sendClass m t b c frame) :=
  .after (bundleRun_framesSent ..) (.setBundle ((SentOn.setClass (c := c) rfl).trans (.of_classes rfl rfl)))

/-! ## A frame handed to a bundle (R353, R356) -/

/-- The frame has gone out on a lane of the bundle, or waits for one. -/
def HandedTo (b : Nat) (w : KlWait) (n : Mach) : Prop :=
  (∃ k, .kl b k (relane w.bytes k) ∈ n.out) ∨ w ∈ (getBundle n b).waiting

theorem HandedTo.frameGoes {m : Mach} {b : Nat} {w : KlWait} (h : HandedTo b w m) (since lane : Nat) (v : KlWait) :
    HandedTo b w (frameGoes m b since lane v) := by
  have hwaiting : (getBundle (Machine.frameGoes m b since lane v) b).waiting = (getBundle m b).waiting.erase v := by
    rw [frameGoes_eq, getBundle_emit, getBundle_setBundle_same]
    exact congrArg (List.erase · v) (keptForAck_waiting ..)
  rcases h with ⟨k, hout⟩ | hwaits
  · exact .inl ⟨k, (frameGoes_framesSent ..).out.subset hout⟩
  · by_cases hv : v = w
    · exact .inl ⟨lane, frameGoes_eq m b since lane v ▸ List.mem_append_right _ (by simp [hv])⟩
    · exact .inr (hwaiting ▸ (List.mem_erase_of_ne (Ne.symm hv)).mpr hwaits)

theorem HandedTo.bundleSends {b : Nat} {w : KlWait} (since t fuel : Nat) {m : Mach} (h : HandedTo b w m) :
    HandedTo b w (bundleSends b since t fuel m) := by
  induction fuel generalizing m with
  | zero => exact h
  | succ fuel ih =>
    unfold Machine.bundleSends
    split
    · exact h
    · split
      · exact ih (h.frameGoes ..)
      · exact h

theorem HandedTo.hellosDue {b : Nat} {w : KlWait} (t fuel : Nat) {m : Mach} (h : HandedTo b w m) :
    HandedTo b w (hellosDue b t fuel m) := by
  induction fuel generalizing m with
  | zero => exact h
  | succ fuel ih =>
    unfold Machine.hellosDue
    extract_lets x
    split
    · exact h
    · refine ih (h.imp_right fun hwaits => ?_)
      rw [getBundle_setBundle_same]
      exact List.mem_append_left _ hwaits

theorem sendFrame_handed (m : Mach) (t b rank : Nat) (bytes : List Byte) : HandedTo b { rank, bytes } (sendFrame m t b rank bytes) :=
  HandedTo.bundleSends _ _ _ (HandedTo.hellosDue _ _ (.inr (by simp)))

/-! ## Frames of 32 bytes (R353, R354) -/

theorem smallFrame_length (body : List Byte) : (smallFrame body).length = 32 := by
  simp [smallFrame, padTo, leBytes_length]
  omega

end Sys2Proof.Machine

/-! SUPPORT. Lanes of a bundle (R361, R371, R372, R542): what a change of its live lanes brings about, its faults and replays
included, leaves the engine, the other bundles and the lanes as they were. -/

namespace Sys2Proof.Machine

/-! ## Faults of no dune (R372, R477) -/

/-- A fault that no dune raises is recorded and sent; no detail is kept in a firmware scratch. -/
theorem raiseFault_of_no_dune (m : Mach) (code erg : Nat) {dune : Nat} (hdune : 48 ≤ dune) (row thread beat detail : Nat) :
    ∃ q job od ctrl out, raiseFault m code erg dune row thread beat detail = { m with raised := m.raised ++ [q], job, od, ctrl, out } ∧
      q.code = BitVec.ofNat 16 code ∧ q.detail = BitVec.ofNat 64 detail := by
  have hnone : ¬ dune < 48 := Nat.not_lt.mpr hdune
  unfold raiseFault
  extract_lets sev rec_ src m1 m2 m3
  have h1 : ∃ job, m1 = { m with raised := m.raised ++ [rec_], job } := by
    unfold m1 keepDetail
    rw [if_neg hnone, openFault_eq]
    exact ⟨_, rfl⟩
  have h2 : m2 = m1 := if_neg fun h => hnone h.2
  have h3 : ∃ od, m3 = { m2 with od } := by
    unfold m3
    split
    · exact ⟨_, rfl⟩
    · split <;> exact ⟨_, rfl⟩
  obtain ⟨job, h1⟩ := h1
  obtain ⟨od, h3⟩ := h3
  rw [h3, h2, h1]
  exact ⟨rec_, job, od, _, _, rfl, rfl, rfl⟩

/-- A bundle's fault is one of no dune. -/
theorem bundleFault_eq (m : Mach) (b code detail : Nat) :
    ∃ q job od ctrl out, bundleFault m b code detail = { m with raised := m.raised ++ [q], job, od, ctrl, out } ∧
      q.code = BitVec.ofNat 16 code ∧ q.detail = BitVec.ofNat 64 detail :=
  raiseFault_of_no_dune m code (b / 2) (by decide) ..

/-! ## One bundle changes -/

/-- From `a` to `n` nothing of the engine has changed, nor any bundle but `b`. -/
structure OnlyLink (b : Nat) (a n : Mach) : Prop where
  engine : EngineKept a n
  others : ∀ e, e ≠ b → getBundle n e = getBundle a e

namespace OnlyLink

variable {b : Nat} {a m n : Mach}

/-- No bundle has changed. -/
theorem of_engine (h : EngineKept a n) (hbundles : n.bundles = a.bundles) : OnlyLink b a n :=
  ⟨h, fun e _ => by simp only [getBundle, hbundles]⟩

theorem refl (b : Nat) (a : Mach) : OnlyLink b a a := .of_engine (.refl a) rfl

theorem trans (h : OnlyLink b a m) (h' : OnlyLink b m n) : OnlyLink b a n :=
  ⟨h.engine.trans h'.engine, fun e he => (h'.others e he).trans (h.others e he)⟩

theorem foldl {α : Type} {g : Mach → α → Mach} (hg : ∀ m x, OnlyLink b m (g m x)) (l : List α) (a : Mach) :
    OnlyLink b a (l.foldl g a) :=
  List.foldlRecOn l g (.refl b a) fun m hm x _ => hm.trans (hg m x)

end OnlyLink

theorem setBundle_onlyLink (m : Mach) (b : Nat) (x : Bundle) : OnlyLink b m (setBundle m b x) :=
  ⟨⟨rfl, rfl, rfl, rfl, rfl, rfl, rfl, rfl, rfl, rfl⟩, fun _ he => getBundle_setBundle_ne (m := m) x he⟩

theorem FramesSent.onlyLink {b : Nat} {a n : Mach} (h : FramesSent b a n) : OnlyLink b a n where
  engine := by constructor <;> rw [h.frame]
  others := h.others

theorem count_onlyLink (m : Mach) (b idx sub n : Nat) : OnlyLink b m (count m idx sub n) :=
  .of_engine (count_onlyHostSide ..).engineKept rfl

/-- From `a` to `n` nothing of the engine nor any other bundle has changed, and bundle `b` has the lanes and the cable it had. -/
structure LanesKept (b : Nat) (a n : Mach) : Prop extends OnlyLink b a n where
  live : (getBundle n b).live = (getBundle a b).live
  trained : (getBundle n b).trained = (getBundle a b).trained
  dropped : (getBundle n b).dropped = (getBundle a b).dropped
  cable : (getBundle n b).cable = (getBundle a b).cable
  supply : (getBundle n b).supply = (getBundle a b).supply

namespace LanesKept

variable {b : Nat} {a m n : Mach}

/-- No bundle has changed. -/
theorem of_engine (h : EngineKept a n) (hbundles : n.bundles = a.bundles) : LanesKept b a n := by
  have hsame : getBundle n b = getBundle a b := by simp only [getBundle, hbundles]
  exact { toOnlyLink := .of_engine h hbundles, live := by rw [hsame], trained := by rw [hsame], dropped := by rw [hsame]
          cable := by rw [hsame], supply := by rw [hsame] }

theorem refl (b : Nat) (a : Mach) : LanesKept b a a := .of_engine (.refl a) rfl

theorem trans (h : LanesKept b a m) (h' : LanesKept b m n) : LanesKept b a n where
  toOnlyLink := h.toOnlyLink.trans h'.toOnlyLink
  live := h'.live.trans h.live
  trained := h'.trained.trans h.trained
  dropped := h'.dropped.trans h.dropped
  cable := h'.cable.trans h.cable
  supply := h'.supply.trans h.supply

/-- `trans` with the later step first, so that its statement says which machine stands between. -/
theorem after (h' : LanesKept b m n) (h : LanesKept b a m) : LanesKept b a n := h.trans h'

theorem ite {p : Prop} [Decidable p] (h : LanesKept b a m) (h' : LanesKept b a n) : LanesKept b a (if p then m else n) := by
  split
  · exact h
  · exact h'

theorem foldl {α : Type} {g : Mach → α → Mach} (hg : ∀ m x, LanesKept b m (g m x)) (l : List α) (a : Mach) :
    LanesKept b a (l.foldl g a) :=
  List.foldlRecOn l g (.refl b a) fun m hm x _ => hm.trans (hg m x)

theorem setBundle {x : Bundle} (hlive : x.live = (getBundle a b).live) (htrained : x.trained = (getBundle a b).trained)
    (hdropped : x.dropped = (getBundle a b).dropped) (hcable : x.cable = (getBundle a b).cable)
    (hsupply : x.supply = (getBundle a b).supply) : LanesKept b a (setBundle a b x) where
  toOnlyLink := setBundle_onlyLink ..
  live := by rw [getBundle_setBundle_same, hlive]
  trained := by rw [getBundle_setBundle_same, htrained]
  dropped := by rw [getBundle_setBundle_same, hdropped]
  cable := by rw [getBundle_setBundle_same, hcable]
  supply := by rw [getBundle_setBundle_same, hsupply]

end LanesKept

theorem FramesSent.lanesKept {b : Nat} {a n : Mach} (h : FramesSent b a n) : LanesKept b a n where
  toOnlyLink := h.onlyLink
  live := by rw [h.bundle.frame]
  trained := by rw [h.bundle.frame]
  dropped := by rw [h.bundle.frame]
  cable := by rw [h.bundle.frame]
  supply := by rw [h.bundle.frame]

theorem count_lanesKept (m : Mach) (b idx sub n : Nat) : LanesKept b m (count m idx sub n) :=
  .of_engine (count_onlyHostSide ..).engineKept rfl

theorem bundleFault_lanesKept (m : Mach) (b b' code detail : Nat) : LanesKept b m (bundleFault m b' code detail) := by
  obtain ⟨q, job, od, ctrl, out, h, -, -⟩ := bundleFault_eq m b' code detail
  rw [h]
  exact .of_engine ⟨rfl, rfl, rfl, rfl, rfl, rfl, rfl, rfl, rfl, rfl⟩ rfl

/-! ## Live lanes change (R355, R361, R371, R372) -/

theorem replayWhere_lanesKept (m : Mach) (b c : Nat) (p : Nat × Nat × Nat × List Byte → Bool) (fresh : Bool) :
    LanesKept b m (replayWhere m b c p fresh) := by
  unfold replayWhere
  extract_lets x cl again cl' ws old
  refine .ite (.refl b m) (.after (bundleRun_framesSent ..).lanesKept (.after (count_lanesKept ..) ?_))
  exact .setBundle rfl rfl rfl rfl rfl

theorem lanesChanged_lanesKept (m : Mach) (b before : Nat) : LanesKept b m (lanesChanged m b before) := by
  unfold lanesChanged
  extract_lets x st m1 y m2 n
  have h1 : LanesKept b m m1 := .setBundle rfl rfl rfl rfl rfl
  have h2 : LanesKept b m m2 :=
    .ite (.after (sendFrame_framesSent ..).lanesKept (h1.trans (.setBundle rfl rfl rfl rfl rfl))) h1
  split
  · exact h2
  · refine .ite h2 (.ite (h2.trans (bundleFault_lanesKept ..)) (.ite ?_ h2))
    exact h2.trans ((count_lanesKept ..).trans (bundleFault_lanesKept ..))

/-- A bundle without one of its lanes, at the instant `t`. -/
def withoutLane (x : Bundle) (lane t : Nat) : Bundle :=
  let bit := BitVec.ofNat 24 (2 ^ lane)
  { x with live := x.live &&& ~~~bit, trained := x.trained &&& ~~~bit, dropped := sset 0 x.dropped lane (t + 1) }

/-- A live lane that is lost leaves rotation; its frames and what its loss brings about change no other lane. -/
theorem laneLost_lanesKept {m : Mach} {b lane : Nat} (hlive : (getBundle m b).live.getLsbD lane = true) :
    LanesKept b (setBundle m b (withoutLane (getBundle m b) lane m.now)) (laneLost m b lane) := by
  unfold laneLost
  extract_lets x before bit m1 m2 m3
  have h1 : LanesKept b m1 m2 := count_lanesKept ..
  have h2 : LanesKept b m1 m3 := h1.trans (.foldl (fun m c => replayWhere_lanesKept m b c _ true) _ m2)
  rw [if_neg (by simp [x, hlive])]
  exact h2.trans (lanesChanged_lanesKept ..)

theorem laneLost_of_not_live {m : Mach} {b lane : Nat} (h : (getBundle m b).live.getLsbD lane = false) : laneLost m b lane = m :=
  if_pos (by simp [h])

theorem laneLost_onlyLink (m : Mach) (b lane : Nat) : OnlyLink b m (laneLost m b lane) := by
  cases hlive : (getBundle m b).live.getLsbD lane with
  | false => rw [laneLost_of_not_live hlive]; exact .refl b m
  | true => exact (setBundle_onlyLink ..).trans (laneLost_lanesKept hlive).toOnlyLink

/-! ## Every lane is lost (R542) -/

theorem getLsbD_and_not_laneBit (x : BitVec 24) (k j : Nat) :
    (x &&& ~~~BitVec.ofNat 24 (2 ^ k)).getLsbD j = (x.getLsbD j && decide (j ≠ k)) := by
  by_cases hj : j < 24
  · have htwo : (BitVec.ofNat 24 (2 ^ k)).getLsbD j = decide (k = j) := by
      rw [BitVec.getLsbD_ofNat, Nat.testBit_two_pow]
      simp [hj]
    rw [BitVec.getLsbD_and, BitVec.getLsbD_not, htwo]
    simp [hj, eq_comm]
  · simp [BitVec.getLsbD_of_ge x j (Nat.not_lt.mp hj)]

theorem laneLost_live (m : Mach) (b j k : Nat) :
    (getBundle (laneLost m b k) b).live.getLsbD j = ((getBundle m b).live.getLsbD j && decide (j ≠ k)) := by
  cases hlive : (getBundle m b).live.getLsbD k with
  | false =>
    rw [laneLost_of_not_live hlive]
    by_cases hjk : j = k <;> simp [hjk, hlive]
  | true =>
    rw [(laneLost_lanesKept hlive).live, getBundle_setBundle_same]
    exact getLsbD_and_not_laneBit ..

theorem laneLost_cable (m : Mach) (b k : Nat) : (getBundle (laneLost m b k) b).cable = (getBundle m b).cable ∧
    (getBundle (laneLost m b k) b).supply = (getBundle m b).supply := by
  cases hlive : (getBundle m b).live.getLsbD k with
  | false => rw [laneLost_of_not_live hlive]; exact ⟨rfl, rfl⟩
  | true =>
    have hkept := laneLost_lanesKept hlive
    rw [hkept.cable, hkept.supply, getBundle_setBundle_same]
    exact ⟨rfl, rfl⟩

theorem foldl_laneLost_live (b j : Nat) (l : List Nat) (m : Mach) :
    (getBundle (l.foldl (fun m k => laneLost m b k) m) b).live.getLsbD j = ((getBundle m b).live.getLsbD j && decide (j ∉ l)) := by
  induction l generalizing m with
  | nil => simp
  | cons k rest ih =>
    rw [List.foldl_cons, ih, laneLost_live]
    simp [Bool.and_assoc]

/-- A bundle that is lost has no live lane; its cable is as it was. -/
theorem bundleLost_lanes (m : Mach) (b : Nat) : OnlyLink b m (bundleLost m b) ∧ (getBundle (bundleLost m b) b).live = 0 ∧
    (getBundle (bundleLost m b) b).cable = (getBundle m b).cable ∧
    (getBundle (bundleLost m b) b).supply = (getBundle m b).supply := by
  refine ⟨.foldl (fun m k => laneLost_onlyLink m b k) _ m, BitVec.eq_of_getLsbD_eq fun j hj => ?_, ?_⟩
  · rw [bundleLost, foldl_laneLost_live]
    simp [hj]
  · refine List.foldlRecOn (motive := fun n => (getBundle n b).cable = (getBundle m b).cable ∧
      (getBundle n b).supply = (getBundle m b).supply) _ _ ⟨rfl, rfl⟩ fun n hn k _ => ?_
    obtain ⟨hcable, hsupply⟩ := laneLost_cable n b k
    exact ⟨hcable.trans hn.1, hsupply.trans hn.2⟩

/-! ## The commands (R361, R371, R542) -/

section
variable {s : State} {b : Fin 8} {k : Fin 24}

/-- A bundle with one lane more. -/
def withLane (x : Bundle) (lane : Nat) (dropped : SMap Nat) : Bundle :=
  let bit := BitVec.ofNat 24 (2 ^ lane)
  { x with live := x.live ||| bit, trained := x.trained ||| bit, dropped }

theorem execLaneTrainingComplete_live (hruns : bundleRuns s.m b.val = true) (hkept : sget 0 (getBundle s.m b.val).dropped k.val = 0) :
    ∃ n, exec (.laneTrainingComplete b k) s = .next { s with m := n } ∧
      LanesKept b.val (setBundle s.m b.val (withLane (getBundle s.m b.val) k.val (getBundle s.m b.val).dropped)) n :=
  ⟨_, by simp only [exec, execLaneTrainingComplete, nextM, hruns, hkept, Bool.not_true, Bool.false_eq_true, if_false, if_true]; rfl,
    lanesChanged_lanesKept ..⟩

theorem execLaneRejoin_clean {t : Nat} (hruns : bundleRuns s.m b.val = true)
    (hdropped : sget 0 (getBundle s.m b.val).dropped k.val = t + 1) {a : Mach} (ha : a = advance s.m (t + 217000000000)) :
    ∃ n, exec (.laneRejoin b k) s = .next { s with m := n } ∧
      LanesKept b.val (setBundle a b.val (withLane (getBundle a b.val) k.val (sset 0 (getBundle a b.val).dropped k.val 0))) n :=
  ⟨_, by
      simp only [exec, execLaneRejoin, nextM, hruns, hdropped, ← ha, Bool.not_true, Bool.false_eq_true, Nat.succ_ne_zero, or_self,
        if_false, Nat.add_sub_cancel]
      rfl,
    lanesChanged_lanesKept ..⟩

end

end Sys2Proof.Machine

/-! SUPPORT. How far time that passes moves the clock, and what it leaves of the clocks and the links (R4, R131, R149, R168, R195–R208,
R214, R361): of all that the fabric, the loads and the links do in it, nothing moves the root or an island's copy, or changes a
bundle's state. -/

namespace Sys2Proof.Machine

/-- From `a` to `n` the clock has moved to the instant `t` at most; the root, the clocks of the islands that are no dune and the state of
every bundle are as they were. -/
structure TimePasses (t : Nat) (a n : Mach) : Prop where
  now : n.now ≤ max a.now t
  htcOffset : n.htcOffset = a.htcOffset
  islands : n.islands = a.islands
  state : ∀ b, (getBundle n b).state = (getBundle a b).state

namespace TimePasses

variable {t : Nat} {a m n : Mach}

theorem of_eq (hnow : n.now = a.now) (hoffset : n.htcOffset = a.htcOffset) (hislands : n.islands = a.islands)
    (hbundles : n.bundles = a.bundles) : TimePasses t a n :=
  ⟨hnow ▸ Nat.le_max_left .., hoffset, hislands, fun b => by simp only [getBundle, hbundles]⟩

theorem refl (a : Mach) : TimePasses t a a := .of_eq rfl rfl rfl rfl

theorem trans (h : TimePasses t a m) (h' : TimePasses t m n) : TimePasses t a n where
  now := Nat.le_trans h'.now (Nat.max_le.mpr ⟨h.now, Nat.le_max_right ..⟩)
  htcOffset := h'.htcOffset.trans h.htcOffset
  islands := h'.islands.trans h.islands
  state b := (h'.state b).trans (h.state b)

/-- `trans` with the later step first, so that its statement says which machine stands between. -/
theorem after (h' : TimePasses t m n) (h : TimePasses t a m) : TimePasses t a n := h.trans h'

theorem ite {p : Prop} [Decidable p] (h : TimePasses t a m) (h' : TimePasses t a n) : TimePasses t a (if p then m else n) := by
  split
  · exact h
  · exact h'

theorem foldl {α : Type} {g : Mach → α → Mach} (hg : ∀ m x, TimePasses t m (g m x)) (l : List α) (a : Mach) :
    TimePasses t a (l.foldl g a) :=
  List.foldlRecOn l g (.refl a) fun m hm x _ => hm.trans (hg m x)

end TimePasses

theorem OnlyHostSide.timePasses {t : Nat} {a n : Mach} (h : OnlyHostSide a n) : TimePasses t a n := by
  refine .of_eq ?_ ?_ ?_ ?_ <;> rw [h.frame]

theorem FramesSent.timePasses {t b : Nat} {a n : Mach} (h : FramesSent b a n) : TimePasses t a n where
  now := h.onlyLink.engine.now ▸ Nat.le_max_left ..
  htcOffset := by rw [h.frame]
  islands := by rw [h.frame]
  state := h.state

section
variable {t : Nat}

theorem openFault_timePasses (m : Mach) : TimePasses t m (openFault m) := by
  rw [openFault_eq]
  exact .of_eq rfl rfl rfl rfl

theorem keepDetail_timePasses (m : Mach) (erg dune detail : Nat) : TimePasses t m (keepDetail m erg dune detail) :=
  .ite (.of_eq rfl rfl rfl rfl) (.refl m)

theorem countDune_timePasses (m : Mach) (erg num idx sub n : Nat) : TimePasses t m (countDune m erg num idx sub n) :=
  (countDune_onlyHostSide ..).timePasses

theorem raiseFault_timePasses (m : Mach) (code erg dune row thread beat detail : Nat) :
    TimePasses t m (raiseFault m code erg dune row thread beat detail) := by
  unfold raiseFault
  extract_lets sev rec_ src m1 m2 m3
  have h0 : TimePasses t m { m with raised := m.raised ++ [rec_] } := .of_eq rfl rfl rfl rfl
  have h1 : TimePasses t m m1 := (h0.trans (openFault_timePasses _)).trans (keepDetail_timePasses ..)
  have h2 : TimePasses t m m2 := .ite (h1.trans (countDune_timePasses ..)) h1
  have h3 : TimePasses t m m3 := .ite (h2.trans (.of_eq rfl rfl rfl rfl)) (.ite (h2.trans (.of_eq rfl rfl rfl rfl)) h2)
  exact h3.trans (.of_eq rfl rfl rfl rfl)

theorem stopRow_timePasses (m : Mach) (r : RowId) : TimePasses t m (stopRow m r) := .of_eq rfl rfl rfl rfl

theorem rowFault_timePasses (m : Mach) (r : RowId) (code thread detail : Nat) :
    TimePasses t m (rowFault m r code thread detail) :=
  .after (raiseFault_timePasses ..) (.of_eq rfl rfl rfl rfl)

theorem duneFault_timePasses (m : Mach) (d : DuneId) (code row detail : Nat) :
    TimePasses t m (duneFault m d code row detail) :=
  .after (raiseFault_timePasses ..) (.foldl (fun m k => stopRow_timePasses m ⟨d, Fin.ofNat 96 k⟩) _ m)

/-! ## What lands, and loads (R131, R168) -/

theorem landOne_timePasses (m : Mach) (l : Landing) : TimePasses t m (landOne m l) := by
  refine .of_eq ?_ ?_ ?_ ?_ <;> rw [(landOne_onlyCopied m l).frame]

theorem landUpTo_timePasses (m : Mach) (u : Nat) : TimePasses t m (landUpTo m u) :=
  .after (.foldl landOne_timePasses _ _) (.of_eq rfl rfl rfl rfl)

theorem readSram_timePasses (m : Mach) (addr n : Nat) : TimePasses t m (readSram m addr n).2 :=
  List.foldlRecOn (motive := fun (x : List Byte × Mach) => TimePasses t m x.2) _ _ (.refl m)
    fun _ hx _ _ => hx.trans (.of_eq rfl rfl rfl rfl)

theorem serveLoad_timePasses (m : Mach) (l : LoadReq) : TimePasses t m (serveLoad m l) := by
  unfold serveLoad
  extract_lets m1 x m2 m3 k m4
  have h2 : TimePasses t m m2 := (landUpTo_timePasses m l.service).trans (readSram_timePasses ..)
  have h4 : TimePasses t m m4 := .after (countDune_timePasses ..) (h2.trans (.of_eq rfl rfl rfl rfl))
  split
  · exact h4
  · exact h4.trans (.of_eq rfl rfl rfl rfl)

theorem settle_timePasses (m : Mach) {u : Nat} (hu : u ≤ t) : TimePasses t m (settle m u) := by
  unfold settle
  extract_lets t' due m1
  have hclock : TimePasses t m { m with now := t', loads := m.loads.filter fun l => t' < l.service } :=
    ⟨Nat.max_le.mpr ⟨Nat.le_max_left .., Nat.le_trans hu (Nat.le_max_right ..)⟩, rfl, rfl, fun _ => rfl⟩
  exact (hclock.trans (.foldl serveLoad_timePasses _ _)).trans (landUpTo_timePasses ..)

/-! ## The fabric, cycle by cycle (R149, R195–R208) -/

theorem linksRun_timePasses (since u : Nat) (m : Mach) : TimePasses t m (linksRun since u m) :=
  .foldl (fun m b => (bundleRun_framesSent since u m b).timePasses) _ m

theorem slotOut_timePasses (m : Mach) (u k i : Nat) (bytes : List Byte) : TimePasses t m (slotOut m u k i bytes) := by
  unfold slotOut
  split
  · exact .refl m
  next e _ =>
    extract_lets last b m1
    have hsent : TimePasses t m m1 := (sendClass_framesSent ..).timePasses
    exact .ite (hsent.trans (.of_eq rfl rfl rfl rfl)) hsent

theorem discardAt_timePasses (m : Mach) (router id : Nat) : TimePasses t m (discardAt m router id) :=
  .after (countDune_timePasses ..) (.of_eq rfl rfl rfl rfl)

theorem steerPacket_timePasses (m : Mach) (f : Flit) : TimePasses t m (steerPacket m f) := by
  unfold steerPacket
  split
  · exact .refl m
  next p _ =>
    extract_lets here target held
    split
    · exact .refl m
    · extract_lets d way
      refine .ite (.refl m) (.ite (.ite (discardAt_timePasses ..) (.refl m)) ?_)
      clear_value way
      cases way with
      | some l => exact .of_eq rfl rfl rfl rfl
      | none => exact .ite (.of_eq rfl rfl rfl rfl) (discardAt_timePasses ..)

theorem judgePacket_timePasses (m : Mach) (p : Packet) : TimePasses t m (judgePacket m p) := by
  unfold judgePacket
  split
  · exact .refl m
  · exact .ite (.of_eq rfl rfl rfl rfl) (.after (rowFault_timePasses ..) (.of_eq rfl rfl rfl rfl))

theorem reachPort_timePasses (m : Mach) (u : PortUnit) : TimePasses t m (reachPort m u) := by
  unfold reachPort
  split
  · exact .refl m
  · exact .ite ((countDune_timePasses ..).trans (judgePacket_timePasses ..)) (countDune_timePasses ..)

theorem scratchArrives_timePasses (m : Mach) (c : Cargo) : TimePasses t m (scratchArrives m c) := by
  unfold scratchArrives
  split
  · exact .ite (.of_eq rfl rfl rfl rfl) (.refl m)
  · exact .of_eq rfl rfl rfl rfl
  · exact .refl m

theorem answerSlot_timePasses (m : Mach) (u : Nat) (p : Packet) (k : Nat) : TimePasses t m (answerSlot m u p k) := by
  unfold answerSlot
  split
  · extract_lets bytes
    refine .foldl (fun m i => ?_) _ m
    exact .of_eq rfl rfl rfl rfl
  · exact .refl m

theorem slotWritten_timePasses (m : Mach) (k n u : Nat) : TimePasses t m (slotWritten m k n u) := by
  unfold slotWritten
  split
  · exact .refl m
  · split
    · exact .refl m
    · extract_lets x m1 beat late m2
      have h1 : TimePasses t m m1 := .of_eq rfl rfl rfl rfl
      have h2 : TimePasses t m m2 := h1.trans (.of_eq rfl rfl rfl rfl)
      exact .ite h1 (.ite (h2.trans (.of_eq rfl rfl rfl rfl)) h2)

theorem writeUnit_timePasses (m : Mach) (T : Nat) (u : PortUnit) : TimePasses t m (writeUnit m T u) := by
  unfold writeUnit
  split
  · exact .refl m
  next p _ =>
    extract_lets done written m1 m2
    have h1 : TimePasses t m m1 := .ite (.of_eq rfl rfl rfl rfl) (.refl m)
    have h2 : TimePasses t m m2 := .after (scratchArrives_timePasses ..) (h1.trans (.of_eq rfl rfl rfl rfl))
    refine .ite h1 ?_
    split
    · exact h2.trans (answerSlot_timePasses ..)
    · exact .ite (h2.trans (slotWritten_timePasses ..)) h2
    · exact h2

theorem portCycle_timePasses (T : Nat) (m : Mach) (row : Nat) : TimePasses t m (portCycle T m row) := by
  unfold portCycle
  extract_lets m1
  have h1 : TimePasses t m m1 := .foldl reachPort_timePasses _ m
  split
  · exact h1
  · exact .ite (.after (writeUnit_timePasses ..) (h1.trans (.of_eq rfl rfl rfl rfl))) h1

theorem leavePacket_timePasses (m : Mach) (u : Nat) (p : Packet) : TimePasses t m (leavePacket m u p) := by
  have hgone : TimePasses t m (removePacket m p.id) := .of_eq rfl rfl rfl rfl
  unfold leavePacket
  split
  · exact hgone.trans (slotOut_timePasses ..)
  · exact hgone.trans (postEventAt_onlyHostSide ..).timePasses
  · exact hgone

theorem pushFlit_timePasses (m : Mach) (w : Want) (T cycles : Nat) : TimePasses t m (pushFlit m w T cycles) := by
  unfold pushFlit
  split
  · exact .refl m
  · exact .of_eq rfl rfl rfl rfl

theorem spendInjection_timePasses (m : Mach) (a : Armed) (n : Nat) : TimePasses t m (spendInjection m a n) := by
  have hcounted : TimePasses t m (if a.left == armedBits a 191 160 then count m 0x61A0 6 1 else m) :=
    .ite (.of_eq rfl rfl rfl rfl) (.refl m)
  exact hcounted.trans (.of_eq rfl rfl rfl rfl)

theorem crossBridge_timePasses (m : Mach) (erg e b cls flits target beat : Nat) :
    TimePasses t m (crossBridge m erg e b cls flits target beat).1 := by
  unfold crossBridge
  split
  · exact .refl m
  · split
    · exact (spendInjection_timePasses ..).trans (raiseFault_timePasses ..)
    · extract_lets n m1
      have h1 : TimePasses t m m1 := spendInjection_timePasses ..
      split
      · exact h1.trans (.of_eq rfl rfl rfl rfl)
      · exact h1.trans (raiseFault_timePasses ..)

theorem sendFlit_timePasses (m : Mach) (T : Nat) (w : Want) : TimePasses t m (sendFlit m T w) := by
  unfold sendFlit
  extract_lets +onlyGivenNames m1 vc m2
  have h1 : TimePasses t m m1 := .ite (countDune_timePasses ..) (.refl m)
  have h2 : TimePasses t m m2 := h1.trans (.of_eq rfl rfl rfl rfl)
  clear_value m2
  split
  case h_1 => exact h2.trans (pushFlit_timePasses ..)
  case h_2 => exact .after (pushFlit_timePasses ..) (h2.trans (.of_eq rfl rfl rfl rfl))
  case h_3 e b _ =>
    extract_lets router erg d m3 x
    have h3 : TimePasses t m m3 := .after (countDune_timePasses ..) (h2.trans (.of_eq rfl rfl rfl rfl))
    have hx : TimePasses t m x.1 := by
      unfold x
      split
      · exact h3.trans (crossBridge_timePasses ..)
      · exact h3
    exact .ite (hx.trans (pushFlit_timePasses ..)) (hx.trans (.of_eq rfl rfl rfl rfl))
  case h_4 => exact .ite (.ite h2 (h2.trans (leavePacket_timePasses ..))) (h2.trans (.of_eq rfl rfl rfl rfl))

theorem collide_timePasses (T link : Nat) (sent : List Nat) (m : Mach) : TimePasses t m (collide T link sent m) := by
  unfold collide
  extract_lets holder waits
  clear_value waits
  cases waits with
  | none => exact .refl m
  | some w => exact .after (duneFault_timePasses ..) (.after (countDune_timePasses ..) (.of_eq rfl rfl rfl rfl))

theorem sendOn_timePasses (T link n : Nat) (x : Mach × List Nat) : TimePasses t x.1 (sendOn T link n x).1 := by
  induction n generalizing x with
  | zero => exact .refl _
  | succ n ih =>
    unfold sendOn
    split
    · exact .refl _
    · exact .after (ih _) (sendFlit_timePasses ..)

theorem portSends_timePasses (T : Nat) (m : Mach) (link : Nat) : TimePasses t m (portSends T m link) :=
  (sendOn_timePasses T link _ (m, [])).trans (collide_timePasses ..)

theorem fabricCycle_timePasses (m : Mach) : TimePasses t m (fabricCycle m) := by
  unfold fabricCycle
  extract_lets T m1 m2 m3
  have h1 : TimePasses t m m1 := .after (.foldl (portCycle_timePasses T) _ _) (.of_eq rfl rfl rfl rfl)
  have h2 : TimePasses t m m2 := h1.trans (.foldl (fun m (e : Nat × Flit) => steerPacket_timePasses m e.2) _ _)
  have h3 : TimePasses t m m3 := h2.trans (.foldl (portSends_timePasses T) _ _)
  exact h3.trans (linksRun_timePasses ..)

/-- Every cycle that the fabric runs has ended by the instant. -/
theorem fabricRun_timePasses (fuel : Nat) (m : Mach) : TimePasses t m (fabricRun fuel m t) := by
  induction fuel generalizing m with
  | zero => exact .refl m
  | succ fuel ih =>
    unfold fabricRun
    split
    · exact .refl m
    next hcycle =>
      have hstart : m.fabricAt ≤ t := by
        rw [not_or, Nat.not_lt] at hcycle
        exact Nat.le_trans (Nat.le_add_right ..) hcycle.2
      exact ((settle_timePasses m hstart).trans (fabricCycle_timePasses _)).trans (ih _)

theorem advance_timePasses (m : Mach) (t : Nat) : TimePasses t m (advance m t) := by
  unfold advance
  extract_lets since m1
  have h1 : TimePasses t m m1 := .ite (fabricRun_timePasses ..) (.refl m)
  have hlinks : TimePasses t m (if since < t then linksRun since t m1 else m1) := .ite (h1.trans (linksRun_timePasses ..)) h1
  exact hlinks.trans (settle_timePasses _ (Nat.le_refl t))

/-- The clock stands at the instant asked for, or where it stood if that was later. -/
theorem advance_now (m : Mach) (t : Nat) : (advance m t).now = max m.now t :=
  Nat.le_antisymm (advance_timePasses m t).now (Nat.max_le.mpr ⟨(advance_driversKept m t).now, le_advance_now m t⟩)

end

end Sys2Proof.Machine

namespace Sys2Proof.Machine

/-- Settles O47: each command is one change of the bundle's lanes, and what follows from it keeps them (`laneLost_lanesKept`,
`lanesChanged_lanesKept`, `bundleLost_lanes`); the rejoin waits for its second (`advance_now`). -/
theorem lanesComeAndGo : Obligations.LanesComeAndGo := by
  intro s b k x bit P
  refine ⟨fun hlive => ?drop, fun hruns hkept => ?trains, fun t hruns hdropped => ?rejoins, ?mates, fun hcable => ?unmates⟩
  case drop =>
    have hlost := laneLost_lanesKept hlive
    have hset := (setBundle_onlyLink s.m b.val (withoutLane x k.val s.m.now)).trans hlost.toOnlyLink
    refine ⟨_, rfl, hset.others, hset.engine, ?_, ?_, ?_⟩
    · rw [hlost.live, getBundle_setBundle_same]
      rfl
    · rw [hlost.trained, getBundle_setBundle_same]
      rfl
    · rw [hlost.dropped, getBundle_setBundle_same]
      exact sget_sset_same 0 x.dropped k.val (s.m.now + 1)
  case trains =>
    obtain ⟨n, hexec, hlanes⟩ := execLaneTrainingComplete_live hruns hkept
    have hset := (setBundle_onlyLink s.m b.val (withLane x k.val x.dropped)).trans hlanes.toOnlyLink
    refine ⟨n, hexec, hset.others, hset.engine, ?_, ?_, ?_⟩
    · rw [hlanes.live, getBundle_setBundle_same]
      rfl
    · rw [hlanes.trained, getBundle_setBundle_same]
      rfl
    · rw [hlanes.dropped, getBundle_setBundle_same]
      rfl
  case rejoins =>
    intro a
    obtain ⟨n, hexec, hlanes⟩ := execLaneRejoin_clean hruns hdropped (a := a) rfl
    have hset := (setBundle_onlyLink a b.val _).trans hlanes.toOnlyLink
    refine ⟨n, hexec, hset.others, ?_, ?_, hset.engine.now.trans (advance_now ..),
      hset.engine.hbm.trans (advance_driversKept ..).hbm⟩
    · rw [hlanes.live, getBundle_setBundle_same]
      rfl
    · rw [hlanes.dropped, getBundle_setBundle_same]
      exact sget_sset_same 0 (getBundle a b.val).dropped k.val 0
  case mates =>
    have hset := setBundle_onlyLink s.m b.val { x with
      cable := true, supply := powered s.m && sget 0 s.m.power.efuse (240 + b.val) == 0 }
    exact ⟨_, by simp [exec, execCablePresent, nextM]; rfl, hset.others, hset.engine, getBundle_setBundle_same ..⟩
  case unmates =>
    let unmated := setBundle s.m b.val { x with cable := false, supply := false }
    obtain ⟨hlink, hlive, hcable', hsupply⟩ := bundleLost_lanes unmated b.val
    have hset := (setBundle_onlyLink s.m b.val _).trans hlink
    exact ⟨bundleLost unmated b.val, by simp [exec, execCablePresent, nextM, hcable, unmated, x], hset.others, hset.engine,
      hcable'.trans (by simp [unmated]), hsupply.trans (by simp [unmated]), hlive⟩

end Sys2Proof.Machine

/-! SUPPORT. Frames as a bundle takes them (R353–R356, R361, R366, R369, R374). That an ACK frame has its class and sequence where a DATA
frame has them is the model's reading (assumption 40). -/

namespace Sys2Proof.Machine

/-! ## No injection is armed (R380) -/

theorem killLanes_of_no_injections {m : Mach} (h : m.injections = []) (b : Nat) : killLanes m b = m := by
  simp [killLanes, h]

theorem injectedAction_of_no_injections {m : Mach} (h : m.injections = []) (b c : Nat) : injectedAction m b c = (m, 0, 0) := by
  simp [injectedAction, injectionFor, h]

/-! ## Every frame (R353, R358) -/

/-- A frame of a kind: no protocol error, of the kind's type and length, its CRC right. -/
structure SoundFrame (m : Mach) (b type len : Nat) (f : List Byte) : Prop where
  known : protocolError m b f = false
  type : frameType f = type
  length : f.length = len
  crc : frameCrcOk f = true

section
variable {m : Mach} {b : Nat} {f : List Byte} (hruns : bundleRuns m b = true) (hnone : m.injections = [])
include hruns hnone

theorem onFrame_error (herror : protocolError m b f = true) (type len : Nat) (act : Mach → Mach) :
    onFrame m b type len f act = count m (bundleObj b) 5 1 := by
  simp [onFrame, hruns, killLanes_of_no_injections hnone, herror]

theorem onFrame_sound {type len : Nat} (h : SoundFrame m b type len f) (act : Mach → Mach) : onFrame m b type len f act = act m := by
  simp [onFrame, hruns, killLanes_of_no_injections hnone, h.known, h.type, h.length]

end

/-! ## What the links send -/

/-- From `a` to `n` bundles have sent frames, and nothing else has happened. -/
structure LinksSent (a n : Mach) : Prop where
  frame : n = { a with bundles := n.bundles, out := n.out }
  bundle : ∀ e, SentOn (getBundle a e) (getBundle n e)
  out : a.out <+: n.out

namespace LinksSent

variable {a m n : Mach}

theorem refl (a : Mach) : LinksSent a a := ⟨rfl, fun _ => .refl _, List.prefix_refl _⟩

theorem trans (h : LinksSent a m) (h' : LinksSent m n) : LinksSent a n :=
  ⟨h'.frame.trans (by rw [h.frame]), fun e => (h.bundle e).trans (h'.bundle e), h.out.trans h'.out⟩

end LinksSent

theorem FramesSent.linksSent {b : Nat} {a n : Mach} (h : FramesSent b a n) : LinksSent a n where
  frame := h.frame
  bundle e := by
    by_cases he : e = b
    · exact he ▸ h.bundle
    · rw [h.others e he]
      exact .refl _
  out := h.out

theorem relayCtrl_linksSent (m : Mach) (except : Option Nat) (hops origin seq : Nat) (x : MeshMsg) :
    LinksSent m (relayCtrl m except hops origin seq x) :=
  List.foldlRecOn (motive := LinksSent m) _ _ (.refl m) fun _ hn _ _ => hn.trans (sendClass_framesSent ..).linksSent

theorem sendAck_framesSent (m : Mach) (b c : Nat) (nak : Bool) : FramesSent b m (sendAck m b c nak) := sendFrame_framesSent ..

/-- An acknowledgement takes frames out of the replay buffer of one class. -/
theorem ackUpTo_framesSent (m : Mach) (b c seq : Nat) : FramesSent b m (ackUpTo m b c seq) := .setBundle (.setClass rfl)

/-! ## HELLO (R361) -/

theorem liveLanes_congr {m n : Mach} {b : Nat} (h : (getBundle n b).live = (getBundle m b).live) : liveLanes n b = liveLanes m b := by
  simp only [liveLanes, h]

theorem helloAgrees_congr {m n : Mach} (hmode : odGet n 0x5200 1 = odGet m 0x5200 1) (hpaths : odGet n 0x5200 3 = odGet m 0x5200 3)
    (b : Nat) (f : List Byte) : helloAgrees n b f = helloAgrees m b f := by
  simp only [helloAgrees, pathPeer, pathField, hmode, hpaths]

/-- The objects of a bundle are not those of the links' configuration. -/
theorem objKey_configuration_ne_bundleObj (b : Fin 8) {sub : Nat} (hsub : sub < 256) (sub' : Nat) (hsub' : sub' < 256) :
    objKey 0x5200 sub ≠ objKey (bundleObj b.val) sub' := by
  simp only [objKey, bundleObj]
  omega

/-- The machine that has noted what a HELLO says of the peer. -/
def peerNoted (m : Mach) (b : Nat) (f : List Byte) : Mach :=
  odSet (setBundle m b { getBundle m b with peerVersion := min (field f 5 1) 1 }) (bundleObj b) 3 (field f 2 2)

/-- The state of a bundle after a HELLO. -/
def helloState (m : Mach) (b : Nat) (f : List Byte) : BundleState :=
  if helloAgrees m b f then if liveLanes m b = 24 then .up else .degraded else .mismatch

/-- A bundle that trains answers a HELLO that agrees with its own, and takes the state that the HELLO calls for. -/
theorem takeHello_training {m : Mach} {b : Fin 8} {f : List Byte} (hcrc : frameCrcOk f = true)
    (htrains : (getBundle m b.val).state = .training) :
    ∃ n x, FramesSent b.val (peerNoted m b.val f) n ∧ takeHello m b.val f = setBundle n b.val x ∧
      x.peerVersion = (getBundle n b.val).peerVersion ∧ x.state = helloState m b.val f := by
  have hnoted : getBundle (peerNoted m b.val f) b.val = { getBundle m b.val with peerVersion := min (field f 5 1) 1 } :=
    getBundle_setBundle_same (m := m) ..
  have hconfig (sub : Nat) (hsub : sub < 256) : odGet (peerNoted m b.val f) 0x5200 sub = odGet m 0x5200 sub :=
    odGet_odSet_ne _ (objKey_configuration_ne_bundleObj b hsub 3 (by decide)) _
  have hagrees : helloAgrees (peerNoted m b.val f) b.val f = helloAgrees m b.val f :=
    helloAgrees_congr (hconfig 1 (by decide)) (hconfig 3 (by decide)) ..
  have hlanes : liveLanes (peerNoted m b.val f) b.val = liveLanes m b.val := liveLanes_congr (by rw [hnoted])
  have hdown : bundleUp (peerNoted m b.val f) b.val = false := by simp [bundleUp, hnoted, htrains]
  unfold takeHello
  extract_lets x m1 st m2
  have hm1 : m1 = peerNoted m b.val f := rfl
  rw [if_neg (by simp [hcrc, x, htrains]), hm1, hagrees]
  cases hdecided : helloAgrees m b.val f with
  | true =>
    have hm2 : m2 = sendFrame (peerNoted m b.val f) (peerNoted m b.val f).now b.val 0 (helloFrame (peerNoted m b.val f) b.val) := by
      simp only [m2, hm1, hdown, Bool.false_eq_true, if_false]
    exact ⟨m2, { getBundle m2 b.val with state := st }, hm2 ▸ sendFrame_framesSent .., rfl, rfl,
      by simp [st, hm1, hlanes, helloState, hdecided]⟩
  | false =>
    exact ⟨_, _, .refl _ _, rfl, rfl, by simp [helloState, hdecided]⟩

theorem peerNoted_onlyLink (m : Mach) (b : Nat) (f : List Byte) : OnlyLink b m (peerNoted m b f) :=
  (setBundle_onlyLink ..).trans (.of_engine (odSet_onlyHostSide ..).engineKept rfl)

/-! ## DATA (R354–R356, R366) -/

/-- With nothing held back by an injection, a frame that has passed releases none. -/
theorem releaseReordered_of_none {m : Mach} {b c : Nat} (h : (getClass (getBundle m b) c).reordered = []) :
    releaseReordered m b c =
      setBundle m b (setClass (getBundle m b) c { getClass (getBundle m b) c with reordered := [] }) := by
  simp [releaseReordered, h]

theorem releaseReordered_framesSent {m : Mach} {b c : Nat} (h : (getClass (getBundle m b) c).reordered = []) :
    FramesSent b m (releaseReordered m b c) := by
  rw [releaseReordered_of_none h]
  exact .setBundle (.setClass (by rw [← h]))

theorem takeData_sound {m : Mach} {f : List Byte} (hnone : m.injections = []) (hcrc : frameCrcOk f = true) (b : Nat) :
    takeData m b f = releaseReordered (sequenceData m b f) b (field f 1 1 % 4) := by
  simp [takeData, injectedAction_of_no_injections hnone, hcrc]

theorem deliverHeld_of_none {m : Mach} {b c : Nat} (h : (getClass (getBundle m b) c).rxHeld = []) (fuel : Nat) :
    deliverHeld b c fuel m = m := by
  cases fuel with
  | zero => rfl
  | succ fuel => simp [deliverHeld, h]

/-- The machine that has taken the acknowledgement in a DATA frame. -/
def acked (m : Mach) (b : Nat) (f : List Byte) : Mach := ackUpTo m b (field f 6 1 % 4) (field f 4 2)

section
variable {m : Mach} {b c : Nat} {f : List Byte} (hc : c = field f 1 1 % 4)
include hc

theorem sequenceData_ahead {ahead : Nat} (hahead : ahead = (field f 2 2 + 65536 - (getClass (getBundle m b) c).rxNext) % 65536)
    (hfirst : 1 ≤ ahead) (hlast : ahead ≤ 16) (hheld : (getClass (getBundle m b) c).rxHeld = []) :
    ∃ heldAt, sequenceData m b f = setBundle (acked m b f) b (setClass (getBundle (acked m b f) b) c
      { getClass (getBundle (acked m b f) b) c with rxHeld := [(field f 2 2, f)], heldAt }) := by
  have hacked : FramesSent b m (acked m b f) := ackUpTo_framesSent ..
  have hnext := hacked.bundle.rxNext c
  have hheld' := (hacked.bundle.rxHeld c).trans hheld
  have hlate : ¬ ahead = 0 := by omega
  unfold sequenceData
  extract_lets c' m1 x cl ahead'
  obtain rfl : c' = c := hc.symm
  have hsame : ahead' = ahead := by simp only [ahead', cl, x, m1, hahead, ← hnext]; rfl
  have hempty : cl.rxHeld = [] := hheld'
  rw [hsame, if_neg hlate, if_pos hlast, hempty]
  exact ⟨_, rfl⟩

/-- The machine in which a class expects the frame after the one that has come. -/
def nextExpected (m : Mach) (b c : Nat) : Mach :=
  setBundle m b (setClass (getBundle m b) c { getClass (getBundle m b) c with
    rxNext := ((getClass (getBundle m b) c).rxNext + 1) % 65536 })

theorem sequenceData_in_turn (hturn : (field f 2 2 + 65536 - (getClass (getBundle m b) c).rxNext) % 65536 = 0) :
    sequenceData m b f = sendAck (deliverHeld b c 16 (deliverFrame (nextExpected (acked m b f) b c) b c f)) b c false := by
  have hnext := (ackUpTo_framesSent m b (field f 6 1 % 4) (field f 4 2)).bundle.rxNext c
  unfold sequenceData
  extract_lets c' m1 x cl ahead' m2
  obtain rfl : c' = c := hc.symm
  have hsame : ahead' = 0 := by simp only [ahead', cl, x, m1, hnext, hturn]
  rw [if_pos hsame]
  rfl

end

end Sys2Proof.Machine

/-! SUPPORT. What a bundle hands on: packets into the data mesh (R366), the root's time (R373–R375), and relayed messages (R369). -/

namespace Sys2Proof.Machine

/-! ## A packet enters the data mesh (R196, R366) -/

/-- From `a` to `n` one packet has entered the data mesh. -/
structure PacketEntered (a n : Mach) (p : Packet) : Prop where
  frame : n = { a with packets := a.packets ++ [p], flits := n.flits, fabricAt := n.fabricAt, fresh := n.fresh }

theorem enterPacket_entered (m : Mach) (src dst : RowId) (p : Packet) :
    ∃ units route, PacketEntered m (enterPacket m src dst p) { p with units, route, entry := edgePort } := ⟨_, _, ⟨rfl⟩⟩

theorem PacketEntered.after_draw {m n : Mach} {p : Packet} (h : PacketEntered (draw m).2 n p) : PacketEntered m n p := ⟨h.frame⟩

/-- A packet carries the payload of a DATA frame to a target. -/
structure CarriesFrame (p : Packet) (f : List Byte) (target : W64) (c : Nat) (slot : Option Nat) : Prop where
  bytes : p.bytes = (f.drop 28).take (64 * field f 25 1)
  viaLink : p.viaLink = true
  target : p.target = target
  slot : p.slot = slot
  cls : p.cls = c

/-- The payload of a frame enters toward the row that the relocated target names. -/
theorem injectPacket_entered {m : Mach} {j : Job} {f : List Byte} {r : RowId} {buf : Bool} {off : Nat}
    (htarget : sramAddr (w64 (relocateAddr j.map (field f 12 8))) = some (r, buf, off)) (b c : Nat) (slot : Option Nat) :
    ∃ p, PacketEntered m (injectPacket m j b c f slot) p ∧
      CarriesFrame p f (w64 (relocateAddr j.map (field f 12 8))) c slot := by
  unfold injectPacket
  extract_lets phys d tag
  rw [show sramAddr (w64 phys) = some (r, buf, off) from htarget]
  obtain ⟨units, route, h⟩ := enterPacket_entered d.2 (rowOf (Config.edgeRow b)) r
    { id := d.1, src := none, sender := none, target := w64 phys, bytes := (f.drop 28).take (64 * field f 25 1), cls := c
      tag := w64 tag, vdune := 0, viaLink := true, privF := false, source := 0, readUntil := 0, word := 0, slot }
  exact ⟨_, h.after_draw, rfl, rfl, rfl, rfl, rfl⟩

/-- The machine that has taken the payload of a frame for its slot. -/
def payloadTaken (m : Mach) (f : List Byte) : Mach :=
  setSlot m (field f 26 2) { getSlot m (field f 26 2) with taken := (getSlot m (field f 26 2)).taken + 64 * field f 25 1 }

/-- A frame that fits a receive slot whose deadline has not passed counts as taken there and enters the data mesh. -/
theorem slotFrame_entered {m : Mach} {b : Nat} {f : List Byte} {j : Job} {e : Slot} {r : RowId} {buf : Bool} {off : Nat}
    (hjob : m.job = some j) (hslot : j.image.slots[field f 26 2]? = some e) (hmine : field f 8 4 = j.id.toNat)
    (hfits : slotFits b f e = true) (hopen : (getSlot m (field f 26 2)).deadlines ≤ (getSlot m (field f 26 2)).taken / e.length)
    (htarget : sramAddr (w64 (relocateAddr j.map (field f 12 8))) = some (r, buf, off)) :
    ∃ p, PacketEntered (payloadTaken m f) (slotFrame m b f) p ∧
      CarriesFrame p f (w64 (relocateAddr j.map (field f 12 8))) 0 (some (field f 26 2)) := by
  have hsent : slotFrame m b f = injectPacket (payloadTaken m f) j b 0 f (some (field f 26 2)) := by
    simp only [slotFrame, hjob, hslot, hmine, hfits, Nat.not_lt.mpr hopen, ne_eq, not_true_eq_false, Bool.not_true,
      Bool.false_eq_true, or_self, if_false]
    rfl
  rw [hsent]
  exact injectPacket_entered htarget ..

@[simp] theorem getSlot_setSlot_same (m : Mach) (k : Nat) (x : SlotRun) : getSlot (setSlot m k x) k = x := sget_sset_same ..

@[simp] theorem getSlot_setSlot_ne (m : Mach) {k i : Nat} (x : SlotRun) (h : i ≠ k) : getSlot (setSlot m k x) i = getSlot m i :=
  sget_sset_ne _ _ _ h

/-! ## The root (R373–R375, R377, R378) -/

/-- From `a` to `n` only clocks, the root's sources and objects have changed. -/
structure OnlyRoot (a n : Mach) : Prop where
  frame : n = { a with od := n.od, dunes := n.dunes, islands := n.islands, htcOffset := n.htcOffset, pendingStep := n.pendingStep
                       timeParent := n.timeParent, ptpHeard := n.ptpHeard }

namespace OnlyRoot

variable {a m n : Mach}

theorem refl (a : Mach) : OnlyRoot a a := ⟨rfl⟩

theorem trans (h : OnlyRoot a m) (h' : OnlyRoot m n) : OnlyRoot a n := ⟨h'.frame.trans (by rw [h.frame])⟩

/-- `trans` with the later step first, so that its statement says which machine stands between. -/
theorem after (h' : OnlyRoot m n) (h : OnlyRoot a m) : OnlyRoot a n := h.trans h'

theorem ite {p : Prop} [Decidable p] (h : OnlyRoot a m) (h' : OnlyRoot a n) : OnlyRoot a (if p then m else n) := by
  split
  · exact h
  · exact h'

theorem engine (h : OnlyRoot a n) : EngineKept a n := by constructor <;> rw [h.frame]

theorem getBundle_eq (h : OnlyRoot a n) (b : Nat) : getBundle n b = getBundle a b := by
  rw [h.frame]
  rfl

end OnlyRoot

theorem odSet_onlyRoot (m : Mach) (idx sub v : Nat) : OnlyRoot m (odSet m idx sub v) := ⟨rfl⟩

theorem OnlyClocks.onlyRoot {a n : Mach} (h : OnlyClocks a n) : OnlyRoot a n := ⟨by rw [h.frame]⟩

theorem setRoot_onlyRoot (m : Mach) (x : IslandState) : OnlyRoot m (setRoot m x) := (setIsland_onlyClocks ..).onlyRoot

theorem moveRoot_onlyRoot (m : Mach) (ns : Int) : OnlyRoot m (moveRoot m ns) := (moveRoot_onlyClocks ..).onlyRoot

theorem noteHoldover_onlyRoot (m : Mach) (t : Nat) : OnlyRoot m (noteHoldover m t) := odSet_onlyRoot ..

theorem followSource_onlyRoot (m : Mach) (ns : Int) : OnlyRoot m (followSource m ns) := by
  unfold followSource
  extract_lets x far wait
  have hwait (n : Mach) (h : OnlyRoot m n) : OnlyRoot m (wait n) := .ite (h.trans ⟨rfl⟩) h
  have hroot (n : Mach) (h : OnlyRoot m n) :
      OnlyRoot m (if !hallRoot n then n else if n.job.isSome then wait n else if far then moveRoot n ns else n) :=
    .ite h (.ite (hwait n h) (.ite (h.trans (moveRoot_onlyRoot ..)) h))
  split
  · exact .after (setRoot_onlyRoot ..) (.ite (moveRoot_onlyRoot ..) (hwait m (.refl m)))
  · exact .ite (hwait m (.refl m)) ((moveRoot_onlyRoot ..).trans (setRoot_onlyRoot ..))
  · exact hroot _ (setRoot_onlyRoot ..)
  · exact hroot _ ((setRoot_onlyRoot ..).trans (noteHoldover_onlyRoot ..))

/-- What a TIME frame says of its sender, at the instant `t`. -/
def timeTaken (m : Mach) (x : Bundle) (f : List Byte) : Bundle :=
  { x with
    peerTx := BitVec.ofNat 64 (field f 4 8), peerTxAt := timeField m, peerRoot := timeState (field f 1 1 % 4)
    peerDepth := field f 1 1 / 4, peerRootModule := BitVec.ofNat 16 (field f 2 2), timeHeard := true, timeAt := m.now }

/-- A sound TIME frame tells of the peer; besides it may move the root. -/
theorem takeTime_taken {m : Mach} {b : Nat} {f : List Byte} (hcrc : frameCrcOk f = true) (hup : bundleUp m b = true) :
    OnlyRoot (setBundle m b (timeTaken m (getBundle m b) f)) (takeTime m b f) := by
  unfold takeTime
  rw [if_neg (by simp [hcrc, hup])]
  extract_lets t4 flags src m1 p m2 m3 off
  have h2 : OnlyRoot m1 m2 := ⟨rfl⟩
  have h3 : OnlyRoot m1 m3 := h2.trans ((odSet_onlyRoot ..).trans (odSet_onlyRoot ..))
  exact .ite h2 (.ite (h3.trans (setRoot_onlyRoot ..)) (h3.trans (.after (followSource_onlyRoot ..) (odSet_onlyRoot ..))))

/-! ## CTRL (R369) -/

/-- The machine that has taken a CTRL frame in sequence and noted which message it carries. -/
def ctrlNoted (m : Mach) (b : Nat) (f : List Byte) : Mach :=
  let n := sendAck (nextExpected m b ctrlClass) b ctrlClass false
  { n with ctrlSeen := n.ctrlSeen ++ [(field f 2 2, field f 4 4)] }

/-- A CTRL frame of the job not seen before is broadcast, sent on and acted on. -/
theorem takeCtrl_new {m : Mach} {b : Nat} {f : List Byte} {j : Job} (hcrc : frameCrcOk f = true) (hjob : m.job = some j)
    (hmine : field f 8 4 = j.id.toNat) (hnew : (field f 2 2, field f 4 4) ∉ m.ctrlSeen) :
    takeCtrl m b f = relayedMessage (relayCtrl (postMesh (ctrlNoted m b f) (ctrlMessage f)) (some b) (field f 1 1 + 1)
      (field f 2 2) (field f 4 4) (ctrlMessage f)) (ctrlMessage f) := by
  have hsent : FramesSent b (nextExpected m b ctrlClass) (sendAck (nextExpected m b ctrlClass) b ctrlClass false) :=
    sendAck_framesSent ..
  unfold takeCtrl
  rw [if_neg (by simp [hcrc])]
  extract_lets x cl m1 id mine msg m2
  have hm1 : m1 = sendAck (nextExpected m b ctrlClass) b ctrlClass false := rfl
  have hmine' : mine = true := by
    simp only [mine, hm1]
    rw [hsent.frame]
    simp [nextExpected, hjob, hmine]
  have hnew' : id ∉ m1.ctrlSeen := by
    rw [hm1, hsent.frame]
    exact hnew
  rw [if_neg (by simp [hmine', hnew'])]
  rfl

theorem OnlyAnnounced.followsAnnouncement_eq {a n : Mach} (h : OnlyAnnounced a n) : followsAnnouncement n = followsAnnouncement a := by
  have hrepl : n.repl = a.repl := by rw [h.frame]
  simp only [followsAnnouncement, hrepl, h.odGet_eq]

theorem FramesSent.onlyAnnounced {b : Nat} {a n : Mach} (h : FramesSent b a n) : OnlyAnnounced a n := ⟨by rw [h.frame]⟩

theorem ctrlNoted_onlyAnnounced (m : Mach) (b : Nat) (f : List Byte) : OnlyAnnounced m (ctrlNoted m b f) :=
  have hexpected : OnlyAnnounced m (nextExpected m b ctrlClass) := ⟨rfl⟩
  (hexpected.trans (sendAck_framesSent ..).onlyAnnounced).trans ⟨rfl⟩

/-- The frame counts in sequence, and its message is among those seen. -/
theorem ctrlNoted_notes (m : Mach) (b : Nat) (f : List Byte) :
    (ctrlNoted m b f).ctrlSeen = m.ctrlSeen ++ [(field f 2 2, field f 4 4)] ∧
      (getClass (getBundle (ctrlNoted m b f) b) ctrlClass).rxNext = ((getClass (getBundle m b) ctrlClass).rxNext + 1) % 65536 := by
  have hsent : FramesSent b (nextExpected m b ctrlClass) (sendAck (nextExpected m b ctrlClass) b ctrlClass false) :=
    sendAck_framesSent ..
  have hseen : (sendAck (nextExpected m b ctrlClass) b ctrlClass false).ctrlSeen = m.ctrlSeen := by
    rw [hsent.frame]
    rfl
  refine ⟨congrArg (· ++ _) hseen, (hsent.bundle.rxNext ctrlClass).trans ?_⟩
  rw [nextExpected, getBundle_setBundle_same, getClass_setClass_same]

end Sys2Proof.Machine

namespace Sys2Proof.Machine

/-! ## The commands (R353–R356, R361, R366, R369, R374) -/

section
variable {s : State} {b : Fin 8} {f : List Byte}

theorem execKlProtocolError_error (hruns : bundleRuns s.m b.val = true) (herror : protocolError s.m b.val f = true) :
    exec (.klProtocolError b f) s = .next { s with m := count s.m (bundleObj b.val) 5 1 } := by
  simp [exec, execKlProtocolError, nextM, hruns, herror]

variable (hruns : bundleRuns s.m b.val = true) (hnone : s.m.injections = [])
include hruns hnone

theorem execHello_sound (h : SoundFrame s.m b.val 4 32 f) :
    exec (.hello b f) s = .next { s with m := takeHello s.m b.val f } := by
  simp only [exec, execHello, nextM, onFrame_sound hruns hnone h]

theorem execData_sound (h : SoundFrame s.m b.val 1 288 f) (hup : bundleUp s.m b.val = true) :
    exec (.data b f) s = .next { s with m := releaseReordered (sequenceData s.m b.val f) b.val (field f 1 1 % 4) } := by
  simp only [exec, execData, nextM, onFrame_sound hruns hnone h, hup, if_true, takeData_sound hnone h.crc]

theorem execAck_sound (h : SoundFrame s.m b.val 2 32 f) (hup : bundleUp s.m b.val = true) (hclass : field f 6 1 % 8 ≤ 4)
    (hack : field f 1 1 % 2 = 0) :
    exec (.ack b f) s = .next { s with m := ackUpTo s.m b.val (field f 6 1 % 8) (field f 4 2) } := by
  simp [exec, execAck, nextM, onFrame_sound hruns hnone h, ackFrame, h.crc, hup, hack, Nat.not_lt.mpr hclass]

theorem execTime_sound (h : SoundFrame s.m b.val 3 32 f) : exec (.time b f) s = .next { s with m := takeTime s.m b.val f } := by
  simp only [exec, execTime, nextM, onFrame_sound hruns hnone h]

theorem execCtrl_sound (h : SoundFrame s.m b.val 5 32 f) (hup : bundleUp s.m b.val = true) :
    exec (.ctrl b f) s = .next { s with m := takeCtrl s.m b.val f } := by
  simp only [exec, execCtrl, nextM, onFrame_sound hruns hnone h, hup, if_true]

end

/-! ## A frame taken in turn (R354–R356) -/

/-- Of a frame in its turn, with nothing held, only sending is left once it has been delivered. -/
theorem taken_in_turn {m : Mach} {b c : Nat} {f : List Byte} {n : Mach} (hc : c = field f 1 1 % 4)
    (hturn : (field f 2 2 + 65536 - (getClass (getBundle m b) c).rxNext) % 65536 = 0)
    (hreordered : (getClass (getBundle m b) c).reordered = []) (hheld : (getClass (getBundle m b) c).rxHeld = [])
    (hn : n = deliverFrame (nextExpected (acked m b f) b c) b c f)
    (hbundle : getBundle n b = getBundle (nextExpected (acked m b f) b c) b) :
    FramesSent b n (releaseReordered (sequenceData m b f) b c) := by
  have hacked : FramesSent b m (acked m b f) := ackUpTo_framesSent ..
  have hsame : getClass (getBundle n b) c = { getClass (getBundle (acked m b f) b) c with
      rxNext := ((getClass (getBundle (acked m b f) b) c).rxNext + 1) % 65536 } := by
    rw [hbundle, nextExpected, getBundle_setBundle_same, getClass_setClass_same]
  have hempty : (getClass (getBundle n b) c).rxHeld = [] := by
    rw [hsame]
    exact (hacked.bundle.rxHeld c).trans hheld
  have hfree : (getClass (getBundle n b) c).reordered = [] := by
    rw [hsame]
    exact (hacked.bundle.reordered c).trans hreordered
  have hack : FramesSent b n (sendAck n b c false) := sendAck_framesSent ..
  rw [sequenceData_in_turn hc hturn, ← hn, deliverHeld_of_none hempty]
  exact hack.trans (releaseReordered_framesSent ((hack.bundle.reordered c).trans hfree))

/-- Of a frame ahead of its turn only the frame itself is kept. -/
theorem taken_ahead {m : Mach} {b c ahead : Nat} {f : List Byte} (hc : c = field f 1 1 % 4)
    (hahead : ahead = (field f 2 2 + 65536 - (getClass (getBundle m b) c).rxNext) % 65536) (hfirst : 1 ≤ ahead) (hlast : ahead ≤ 16)
    (hreordered : (getClass (getBundle m b) c).reordered = []) (hheld : (getClass (getBundle m b) c).rxHeld = []) :
    ∃ n, releaseReordered (sequenceData m b f) b c = n ∧ OnlyLink b m n ∧
      (getClass (getBundle n b) c).rxHeld = [(field f 2 2, f)] ∧
      (getClass (getBundle n b) c).rxNext = (getClass (getBundle m b) c).rxNext ∧ n.out = m.out := by
  obtain ⟨heldAt, hsequenced⟩ := sequenceData_ahead hc hahead hfirst hlast hheld
  have hacked : FramesSent b m (acked m b f) := ackUpTo_framesSent ..
  have hout : (acked m b f).out = m.out := rfl
  rw [hsequenced]
  generalize acked m b f = m1 at hacked hout
  generalize hm2 : setBundle m1 b (setClass (getBundle m1 b) c
    { getClass (getBundle m1 b) c with rxHeld := [(field f 2 2, f)], heldAt }) = m2
  have hlink : OnlyLink b m1 m2 := hm2 ▸ setBundle_onlyLink ..
  have hclass : getClass (getBundle m2 b) c = { getClass (getBundle m1 b) c with rxHeld := [(field f 2 2, f)], heldAt } := by
    rw [← hm2, getBundle_setBundle_same, getClass_setClass_same]
  have hfree : (getClass (getBundle m2 b) c).reordered = [] := by
    rw [hclass]
    exact (hacked.bundle.reordered c).trans hreordered
  have hreleased : FramesSent b m2 (releaseReordered m2 b c) := releaseReordered_framesSent hfree
  refine ⟨_, rfl, (hacked.onlyLink.trans hlink).trans hreleased.onlyLink, ?_, ?_, ?_⟩
  · rw [hreleased.bundle.rxHeld, hclass]
  · rw [hreleased.bundle.rxNext, hclass]
    exact hacked.bundle.rxNext c
  · rw [releaseReordered_of_none hfree, ← hout, ← hm2]
    rfl

/-- A frame of TC0 in its turn that fits an open receive slot is taken there and enters the data mesh. -/
theorem taken_for_slot {m : Mach} {b : Nat} {f : List Byte} {j : Job} {e : Slot} {r : RowId} {buf : Bool} {off : Nat}
    (hc : 0 = field f 1 1 % 4) (hturn : (field f 2 2 + 65536 - (getClass (getBundle m b) 0).rxNext) % 65536 = 0)
    (hreordered : (getClass (getBundle m b) 0).reordered = []) (hheld : (getClass (getBundle m b) 0).rxHeld = [])
    (hjob : m.job = some j) (hslot : j.image.slots[field f 26 2]? = some e) (hmine : field f 8 4 = j.id.toNat)
    (hfits : slotFits b f e = true) (hopen : (getSlot m (field f 26 2)).deadlines ≤ (getSlot m (field f 26 2)).taken / e.length)
    (htarget : sramAddr (w64 (relocateAddr j.map (field f 12 8))) = some (r, buf, off)) :
    ∃ n, releaseReordered (sequenceData m b f) b 0 = n ∧
      (getClass (getBundle n b) 0).rxNext = ((getClass (getBundle m b) 0).rxNext + 1) % 65536 ∧
      (getSlot n (field f 26 2)).taken = (getSlot m (field f 26 2)).taken + 64 * field f 25 1 ∧
      (∃ p, n.packets = m.packets ++ [p] ∧ CarriesFrame p f (w64 (relocateAddr j.map (field f 12 8))) 0 (some (field f 26 2))) ∧
      n.sram = m.sram ∧ n.hbm = m.hbm ∧ n.threads = m.threads ∧ ∀ e, e ≠ b → getBundle n e = getBundle m e := by
  have hacked : FramesSent b m (acked m b f) := ackUpTo_framesSent ..
  have hclass : (getClass (getBundle (nextExpected (acked m b f) b 0) b) 0).rxNext =
      ((getClass (getBundle m b) 0).rxNext + 1) % 65536 := by
    rw [nextExpected, getBundle_setBundle_same, getClass_setClass_same, hacked.bundle.rxNext]
  have hlink : OnlyLink b m (nextExpected (acked m b f) b 0) := hacked.onlyLink.trans (setBundle_onlyLink ..)
  have hruns : (nextExpected (acked m b f) b 0).slotRuns = m.slotRuns := rfl
  have hsent := taken_in_turn (b := b) hc hturn hreordered hheld rfl
  obtain ⟨p, hentered, hcarries⟩ := slotFrame_entered (m := nextExpected (acked m b f) b 0) hjob hslot hmine hfits hopen htarget
  rw [show deliverFrame (nextExpected (acked m b f) b 0) b 0 f = slotFrame (nextExpected (acked m b f) b 0) b f from rfl] at hsent
  generalize nextExpected (acked m b f) b 0 = m1 at *
  generalize slotFrame m1 b f = m2 at *
  have hsame (e : Nat) : getBundle m2 e = getBundle m1 e := by
    rw [hentered.frame]
    rfl
  have hsent := hsent (hsame b)
  have hkept := hsent.onlyLink.engine
  refine ⟨_, rfl, ?_, ?_, ⟨p, ?_, hcarries⟩, ?_, ?_, ?_, fun e he => ?_⟩
  · rw [hsent.bundle.rxNext, hsame, hclass]
  · have hslots : getSlot m1 (field f 26 2) = getSlot m (field f 26 2) := by simp only [getSlot, hruns]
    rw [getSlot, hsent.frame, hentered.frame, ← hslots]
    exact congrArg SlotRun.taken (getSlot_setSlot_same m1 (field f 26 2) _)
  · rw [hkept.packets, hentered.frame, ← hlink.engine.packets]
    rfl
  · rw [hkept.sram, hentered.frame, ← hlink.engine.sram]
    rfl
  · rw [hkept.hbm, hentered.frame, ← hlink.engine.hbm]
    rfl
  · rw [hkept.threads, hentered.frame, ← hlink.engine.threads]
    rfl
  · rw [hsent.others e he, hsame, hlink.others e he]

/-- A CTRL frame of the job not seen before is noted, broadcast in the module and sent on; a FIX moves nothing on a module that follows
no announcement. -/
theorem takeCtrl_fix {m : Mach} {b : Nat} {f : List Byte} {j : Job} (hcrc : frameCrcOk f = true) (hjob : m.job = some j)
    (hmine : field f 8 4 = j.id.toNat) (hnew : (field f 2 2, field f 4 4) ∉ m.ctrlSeen) (htype : msgType (ctrlMessage f) = 6)
    (hfollows : followsAnnouncement m = false) :
    ∃ n, takeCtrl m b f = n ∧ EngineKept m n ∧ n.ctrlSeen = m.ctrlSeen ++ [(field f 2 2, field f 4 4)] ∧
      .mesh (ctrlMessage f) ∈ n.out ∧
      (getClass (getBundle n b) ctrlClass).rxNext = ((getClass (getBundle m b) ctrlClass).rxNext + 1) % 65536 := by
  have hann : OnlyAnnounced m (postMesh (ctrlNoted m b f) (ctrlMessage f)) := (ctrlNoted_onlyAnnounced m b f).trans ⟨rfl⟩
  have hrelayed := relayCtrl_linksSent (postMesh (ctrlNoted m b f) (ctrlMessage f)) (some b) (field f 1 1 + 1)
    (field f 2 2) (field f 4 4) (ctrlMessage f)
  have hall := hann.trans (relayCtrl_onlyAnnounced _ (some b) (field f 1 1 + 1) (field f 2 2) (field f 4 4) (ctrlMessage f))
  have hposted : .mesh (ctrlMessage f) ∈ (postMesh (ctrlNoted m b f) (ctrlMessage f)).out :=
    List.mem_append_right _ (List.mem_singleton.mpr rfl)
  obtain ⟨hseen, hnext⟩ := ctrlNoted_notes m b f
  have hbundle : getBundle (postMesh (ctrlNoted m b f) (ctrlMessage f)) b = getBundle (ctrlNoted m b f) b := rfl
  rw [takeCtrl_new hcrc hjob hmine hnew]
  refine ⟨_, ?_, hall.engineKept, ?_, hrelayed.out.subset hposted, ?_⟩
  · simp [relayedMessage, htype, relayedFix, hall.followsAnnouncement_eq, hfollows]
  · rw [hrelayed.frame]
    exact hseen
  · rw [(hrelayed.bundle b).rxNext, hbundle, hnext]

/-- Settles O48: what each kind of frame does is `takeHello_training`, `sequenceData_ahead`, `slotFrame_entered` with
`taken_in_turn`, `ackUpTo`, `takeTime_taken` and `takeCtrl_new`, and what a bundle sends with it changes only what goes out. -/
theorem framesAreTaken : Obligations.FramesAreTaken := by
  intro s b f hruns hnone x sound P
  have hsound {type len : Nat} (h : sound type len) : SoundFrame s.m b.val type len f :=
    ⟨h.1, h.2.1, h.2.2.1, h.2.2.2⟩
  refine ⟨fun herror => ?error, fun h htrains => ?hello, fun h hup => ?data, fun h hup hclass hack => ?ack, fun h hup => ?time,
    fun h hup j hjob hmine hnew htype hfollows => ?ctrl⟩
  case error =>
    have hcounts (type len : Nat) (act : Mach → Mach) : onFrame s.m b.val type len f act = count s.m (bundleObj b.val) 5 1 :=
      onFrame_error hruns hnone herror type len act
    exact ⟨⟨_, execKlProtocolError_error hruns herror, rfl⟩, ⟨_, rfl, hcounts ..⟩, ⟨_, rfl, hcounts ..⟩, ⟨_, rfl, hcounts ..⟩,
      ⟨_, rfl, hcounts ..⟩, ⟨_, rfl, hcounts ..⟩⟩
  case hello =>
    obtain ⟨n, y, hsent, htaken, hversion, hstate⟩ := takeHello_training (hsound h).crc htrains
    have hlink : OnlyLink b.val s.m (setBundle n b.val y) :=
      ((peerNoted_onlyLink ..).trans hsent.onlyLink).trans (setBundle_onlyLink ..)
    have hpeer : odGet n (bundleObj b.val) 3 = field f 2 2 := (hsent.odGet_eq ..).trans (odGet_odSet_same ..)
    refine ⟨_, (execHello_sound hruns hnone (hsound h)).trans (by rw [htaken]), ⟨hlink.engine, hlink.others⟩, hpeer, ?_, ?_⟩
    · rw [getBundle_setBundle_same, hversion, hsent.bundle.frame]
      exact congrArg Bundle.peerVersion (getBundle_setBundle_same (m := s.m) ..)
    · rw [getBundle_setBundle_same, hstate]
      rfl
  case data =>
    intro c cl ahead hreordered
    have hexec := execData_sound hruns hnone (hsound h) hup
    refine ⟨fun hfirst hlast hheld => ?ahead, fun j e r buf off hjob hc hturn hheld hslot hmine hfits _ hopen htarget => ?turn⟩
    case ahead =>
      obtain ⟨n, hn, hlink, htaken⟩ := taken_ahead rfl rfl hfirst hlast hreordered hheld
      exact ⟨n, hexec.trans (by rw [hn]), ⟨hlink.engine, hlink.others⟩, htaken⟩
    case turn =>
      have hturn : (field f 2 2 + 65536 - (getClass x 0).rxNext) % 65536 = 0 := hc ▸ hturn
      obtain ⟨n, hn, hnext, hslotTaken, ⟨p, hpackets, hcarries⟩, hkept⟩ :=
        taken_for_slot hc.symm hturn (hc ▸ hreordered) (hc ▸ hheld) hjob hslot hmine hfits hopen htarget
      exact ⟨n, hexec.trans (by rw [← hn, ← hc]), hc ▸ hnext, hslotTaken,
        ⟨p, hpackets, hcarries.bytes, hcarries.viaLink, hcarries.target, hcarries.slot, hcarries.cls⟩, hkept⟩
  case ack =>
    have hacked : FramesSent b.val s.m (ackUpTo s.m b.val (field f 6 1 % 8) (field f 4 2)) := ackUpTo_framesSent ..
    refine ⟨_, execAck_sound hruns hnone (hsound h) hup hclass hack, ⟨hacked.onlyLink.engine, hacked.others⟩, rfl, ?_⟩
    simp only [ackUpTo, getBundle_setBundle_same, getClass_setClass_same]
    rfl
  case time =>
    have htaken := takeTime_taken (hsound h).crc hup
    have hlink := setBundle_onlyLink s.m b.val (timeTaken s.m x f)
    refine ⟨_, execTime_sound hruns hnone (hsound h), ⟨hlink.engine.trans htaken.engine, fun e he => ?_⟩, ?_⟩
    · rw [htaken.getBundle_eq, hlink.others e he]
    · rw [htaken.getBundle_eq, getBundle_setBundle_same]
      exact ⟨rfl, rfl, rfl, rfl, rfl, rfl⟩
  case ctrl =>
    obtain ⟨n, hn, hkept⟩ := takeCtrl_fix (b := b.val) (hsound h).crc hjob hmine hnew htype hfollows
    exact ⟨n, (execCtrl_sound hruns hnone (hsound h) hup).trans (by rw [hn]), hkept⟩

end Sys2Proof.Machine

/-! SUPPORT. What a bundle does by its own timers (R355, R356, R374): the fields of the frames it builds, the lane that takes a lone
frame, and a frame replayed. That an ACK frame has its class and sequence where a DATA frame has them is the model's reading
(assumption 40), and so are the instants from which a gap and a timeout count (assumption 160). -/

namespace Sys2Proof.Machine

/-! ## Fields of a frame of 32 bytes (R353, R354) -/

theorem field_append_left {xs : List Byte} {o n : Nat} (h : o + n ≤ xs.length) (ys : List Byte) : field (xs ++ ys) o n = field xs o n := by
  have hdrop : (xs ++ ys).drop o = xs.drop o ++ ys := List.drop_append_of_le_length (by omega)
  rw [field, field, hdrop, List.take_append_of_le_length (by rw [List.length_drop]; omega)]

/-- A field laid out after `xs`. -/
theorem field_leBytes (xs ys : List Byte) (n v : Nat) : field (xs ++ (leBytes n v ++ ys)) xs.length n = v % 256 ^ n := by
  have hlength := leBytes_length n v
  rw [field, List.drop_left, List.take_append_of_le_length (Nat.le_of_eq hlength.symm),
    List.take_of_length_le (Nat.le_of_eq hlength), leNat_leBytes]

theorem smallFrame_eq {body : List Byte} (h : body.length ≤ 28) : ∃ rest, smallFrame body = body ++ rest := by
  refine ⟨List.replicate (28 - body.length) 0 ++ leBytes 4 (crc32c (padTo 28 body)), ?_⟩
  rw [smallFrame, show padTo 28 body = body ++ List.replicate (28 - body.length) 0 from by rw [padTo, List.take_of_length_le h],
    List.append_assoc]

theorem field_smallFrame {body : List Byte} {o n : Nat} (hbody : body.length ≤ 28) (h : o + n ≤ body.length) :
    field (smallFrame body) o n = field body o n := by
  obtain ⟨rest, hrest⟩ := smallFrame_eq hbody
  rw [hrest, field_append_left h]

theorem frameType_smallFrame {m : Mach} {b k : Nat} (hk : k < 16) {rest : List Byte} (h : rest.length ≤ 27) :
    frameType (smallFrame (typeVersion m b k :: rest)) = k := by
  rw [frameType, field_smallFrame (by rw [List.length_cons]; omega) (by simp)]
  simp [field, leNat, typeVersion]
  omega

/-- The body of an ACK frame. -/
def ackBody (m : Mach) (b c : Nat) (nak : Bool) : List Byte :=
  [typeVersion m b 2, if nak then 1 else 0, 0, 0] ++ leBytes 2 (lastInOrder (getClass (getBundle m b) c)) ++ leBytes 1 c

theorem ackBody_length (m : Mach) (b c : Nat) (nak : Bool) : (ackBody m b c nak).length = 7 := by simp [ackBody, leBytes_length]

/-- A frame that asks for a replay of a class. -/
theorem replayRequest_fields (m : Mach) (b : Nat) (c : Fin 5) :
    (smallFrame (ackBody m b c.val true)).length = 32 ∧ frameType (smallFrame (ackBody m b c.val true)) = 2 ∧
      field (smallFrame (ackBody m b c.val true)) 1 1 = 1 ∧ field (smallFrame (ackBody m b c.val true)) 6 1 = c.val := by
  have hfield {o : Nat} (h : o + 1 ≤ 7) : field (smallFrame (ackBody m b c.val true)) o 1 = field (ackBody m b c.val true) o 1 :=
    field_smallFrame (by rw [ackBody_length]; decide) (by rwa [ackBody_length])
  refine ⟨smallFrame_length _, frameType_smallFrame (by decide) (by simp [leBytes_length]), ?_, ?_⟩
  · rw [hfield (by decide)]
    simp [ackBody, field, leNat]
  · rw [hfield (by decide)]
    simp [ackBody, field, leNat, leBytes]
    omega

/-- The body of a TIME frame. -/
def timeBody (m : Mach) (b : Nat) : List Byte :=
  let own := if hallRoot m then odGet m 0x5200 2 else odGet m 0x5300 5
  [typeVersion m b 3] ++ leBytes 1 (timeCode (rootState m) + 4 * odGet m 0x5300 6) ++ leBytes 2 own
    ++ leBytes 8 (timeField m).toNat ++ leBytes 8 (getBundle m b).peerTx.toNat ++ leBytes 8 (getBundle m b).peerTxAt.toNat

theorem timeBody_length (m : Mach) (b : Nat) : (timeBody m b).length = 28 := by simp [timeBody, leBytes_length]

theorem timeFrame_fields (m : Mach) (b : Nat) :
    (smallFrame (timeBody m b)).length = 32 ∧ frameType (smallFrame (timeBody m b)) = 3 ∧
      field (smallFrame (timeBody m b)) 4 8 = (htcNow m * 65536 + m.now % 217 * 65536 / 217) % 2 ^ 64 := by
  refine ⟨smallFrame_length _, frameType_smallFrame (by decide) (by simp [leBytes_length]), ?_⟩
  rw [field_smallFrame (Nat.le_of_eq (timeBody_length m b)) (by rw [timeBody_length]; decide)]
  have hlaid := field_leBytes ([typeVersion m b 3] ++ leBytes 1 (timeCode (rootState m) + 4 * odGet m 0x5300 6) ++
    leBytes 2 (if hallRoot m then odGet m 0x5200 2 else odGet m 0x5300 5))
    (leBytes 8 (getBundle m b).peerTx.toNat ++ leBytes 8 (getBundle m b).peerTxAt.toNat) 8 (timeField m).toNat
  simp only [List.length_append, leBytes_length, List.length_singleton, Nat.reduceAdd] at hlaid
  simp only [timeBody, List.append_assoc] at hlaid ⊢
  rw [hlaid, timeField, BitVec.toNat_ofNat]
  omega

/-! ## The lane that takes a lone frame (R356) -/

theorem mem_of_pickFrame {x : Bundle} {lane : Nat} {w : KlWait} (h : pickFrame x lane = some w) : w ∈ x.waiting := by
  have hmem : ∀ v, pickFrame x lane = some v → v ∈ x.waiting := by
    refine List.foldlRecOn (motive := fun best => ∀ v, best = some v → v ∈ x.waiting) _ _ nofun fun best hbest u hu => ?_
    have hu : u ∈ x.waiting := (List.mem_filter.mp hu).1
    split
    next y =>
      split
      · rintro _ ⟨⟩
        exact hu
      · exact hbest
    next =>
      rintro _ ⟨⟩
      exact hu
  exact hmem w h

theorem pickFrame_isSome_of_nextLaneFor {x : Bundle} {since t k : Nat} (h : nextLaneFor x since t = some k) :
    (pickFrame x k).isSome = true := by
  have hpick : ∀ i, nextLaneFor x since t = some i → (pickFrame x i).isSome = true := by
    refine List.foldlRecOn (motive := fun best => ∀ i, best = some i → (pickFrame x i).isSome = true) _ _ nofun
      fun best hbest i hi => ?_
    have hi : (pickFrame x i).isSome = true := by
      have := (List.mem_filter.mp hi).2
      simp only [Bool.and_eq_true] at this
      exact this.2
    split
    next y =>
      split
      · rintro _ ⟨⟩
        exact hi
      · exact hbest
    next =>
      rintro _ ⟨⟩
      exact hi
  exact hpick k h

/-- A lane takes a bundle's only frame. -/
theorem pickFrame_lone {x : Bundle} {since t k : Nat} {w : KlWait} (hw : x.waiting = [w]) (h : nextLaneFor x since t = some k) :
    pickFrame x k = some w := by
  obtain ⟨v, hv⟩ := Option.isSome_iff_exists.mp (pickFrame_isSome_of_nextLaneFor h)
  have hmem := mem_of_pickFrame hv
  rw [hw, List.mem_singleton] at hmem
  rw [hv, hmem]

theorem bundleUp_congr {m n : Mach} {b : Nat} (h : (getBundle n b).state = (getBundle m b).state) : bundleUp n b = bundleUp m b := by
  simp only [bundleUp, h]

/-- A bundle that carries owes no HELLO. -/
theorem hellosDue_of_up {m : Mach} {b : Nat} (hup : bundleUp m b = true) (t fuel : Nat) : hellosDue b t fuel m = m := by
  have hstate : ((getBundle m b).state == .training || (getBundle m b).state == .mismatch) = false := by
    cases h : (getBundle m b).state <;> simp_all [bundleUp]
  cases fuel with
  | zero => rfl
  | succ fuel => simp [hellosDue, hstate]

section
variable {m : Mach} {b t : Nat} {w : KlWait} (hup : bundleUp m b = true) (hw : (getBundle m b).waiting = [w])
include hup hw

/-- The only frame of a bundle that carries goes on the lane whose frame slot comes. -/
theorem bundleRun_lone {k : Nat} (hlane : nextLaneFor (getBundle m b) t t = some k) : bundleRun t t m b = frameGoes m b t k w := by
  rw [bundleRun, hellosDue_of_up hup, hw]
  simp only [List.length_singleton, bundleSends, hlane, pickFrame_lone hw hlane]

/-- With no frame slot at the instant it waits on. -/
theorem bundleRun_lone_waits (hlane : nextLaneFor (getBundle m b) t t = none) : bundleRun t t m b = m := by
  rw [bundleRun, hellosDue_of_up hup, hw]
  simp only [List.length_singleton, bundleSends, hlane]

end

end Sys2Proof.Machine

/-! SUPPORT. A frame replayed (R355), and the slots at their times (R364, R365, R368). That the read request of a send slot is a packet
is the model's reading (assumption 76). -/

namespace Sys2Proof.Machine

/-! ## Replays (R355) -/

theorem odGet_count_same (m : Mach) (idx sub n : Nat) : odGet (count m idx sub n) idx sub = odGet m idx sub + n := odGet_odSet_same ..

/-- A frame of a class that waits to be sent again. -/
def waitsAgain (c seq : Nat) (bytes : List Byte) : KlWait := { rank := classRank c, cls := some c, seq, again := true, bytes }

/-- A bundle that keeps `kept` of a class for acknowledgement. -/
def withUnacked (x : Bundle) (c : Nat) (kept : List (Nat × Nat × Nat × List Byte)) : Bundle :=
  setClass x c { getClass x c with unacked := kept }

/-- A bundle in which a frame of `kept` waits to be sent again, and no other frame waits. -/
def withReplay (x : Bundle) (c seq : Nat) (bytes : List Byte) (kept : List (Nat × Nat × Nat × List Byte)) : Bundle :=
  { withUnacked x c kept with waiting := [waitsAgain c seq bytes] }

section
variable {seq lane tries : Nat} {bytes : List Byte} {pre post : List (Nat × Nat × Nat × List Byte)}
  (hothers : ∀ o ∈ pre ++ post, o.1 ≠ seq)
include hothers

/-- One frame of a sequence among others: what is chosen of it, and what changes with it. -/
theorem filter_seq (p : Nat × Nat × Nat × List Byte → Bool) :
    (pre ++ (seq, lane, tries, bytes) :: post).filter (fun e => e.1 == seq && p e) =
      if p (seq, lane, tries, bytes) then [(seq, lane, tries, bytes)] else [] := by
  have hnone (l : List (Nat × Nat × Nat × List Byte)) (hl : ∀ o ∈ l, o.1 ≠ seq) : l.filter (fun e => e.1 == seq && p e) = [] :=
    List.filter_eq_nil_iff.mpr fun o ho => by simp [hl o ho]
  rw [List.filter_append, List.filter_cons, hnone pre fun o ho => hothers o (List.mem_append_left _ ho),
    hnone post fun o ho => hothers o (List.mem_append_right _ ho)]
  simp

theorem map_seq (g : Nat × Nat × Nat × List Byte → Nat × Nat × Nat × List Byte) (p : Nat × Nat × Nat × List Byte → Prop)
    [DecidablePred p] (hp : ∀ o, p o → o.1 = seq) (hthis : p (seq, lane, tries, bytes)) :
    (pre ++ (seq, lane, tries, bytes) :: post).map (fun e => if p e then g e else e) = pre ++ g (seq, lane, tries, bytes) :: post := by
  have hsame (l : List (Nat × Nat × Nat × List Byte)) (hl : ∀ o ∈ l, o.1 ≠ seq) : l.map (fun e => if p e then g e else e) = l :=
    (List.map_congr_left (g := id) fun o ho => if_neg fun h => hl o ho (hp o h)).trans (List.map_id l)
  rw [List.map_append, List.map_cons, if_pos hthis, hsame pre fun o ho => hothers o (List.mem_append_left _ ho),
    hsame post fun o ho => hothers o (List.mem_append_right _ ho)]

end

section
variable {m : Mach} {b c seq lane tries : Nat} {bytes : List Byte} {pre post : List (Nat × Nat × Nat × List Byte)}
  (hunacked : (getClass (getBundle m b) c).unacked = pre ++ (seq, lane, tries, bytes) :: post)
  (hothers : ∀ o ∈ pre ++ post, o.1 ≠ seq) (htries : tries < 8) (hwaiting : (getBundle m b).waiting = [])
  (hlive : (getBundle m b).live ≠ 0)
include hunacked hothers htries hwaiting hlive

/-- The machine in which a frame waits to be sent again, and has counted. -/
def replayWaits (m : Mach) (b c seq : Nat) (bytes : List Byte) (kept : List (Nat × Nat × Nat × List Byte)) : Mach :=
  count (setBundle m b (withReplay (getBundle m b) c seq bytes kept)) (bundleObj b) 4 1

/-- A frame replayed less than eight times waits to go out again, and no lane is worn out. -/
theorem replayOrDrop_one : replayOrDrop m b c (fun e => e.1 == seq) =
    bundleRun m.now m.now (replayWaits m b c seq bytes (pre ++ (seq, lane, tries + 1, bytes) :: post)) b := by
  have hworn := filter_seq (lane := lane) (tries := tries) (bytes := bytes) hothers fun e => decide (8 ≤ e.2.2.1)
  have hagain := filter_seq (lane := lane) (tries := tries) (bytes := bytes) hothers fun e => decide (e.2.2.1 < 8)
  have hkept := map_seq (lane := lane) (tries := tries) (bytes := bytes) hothers
    (fun e => (e.1, e.2.1, e.2.2.1 + 1, e.2.2.2)) (fun e => (e.1 == seq && decide (e.2.2.1 < 8)) = true)
    (fun o ho => beq_iff_eq.mp (Bool.and_eq_true_iff.mp ho).1) (by simp [htries])
  rw [if_neg (by simpa using htries)] at hworn
  rw [if_pos (by simpa using htries)] at hagain
  simp only [replayOrDrop, hunacked, hworn, List.map_nil, List.eraseDups_nil, List.foldl_nil, replayWhere, hagain, hkept, hwaiting,
    List.isEmpty_cons, Bool.false_eq_true, hlive, or_self, if_false, List.map_cons, List.filter_nil, List.append_nil,
    List.length_singleton]
  rfl

end

/-- The bundle after the frame has gone out again on a lane. -/
theorem replayed_unacked {x : Bundle} {c seq lane tries since k : Nat} {bytes : List Byte}
    {pre post : List (Nat × Nat × Nat × List Byte)} (hothers : ∀ o ∈ pre ++ post, o.1 ≠ seq)
    (hunacked : (getClass x c).unacked = pre ++ (seq, lane, tries, bytes) :: post) :
    (getClass (keptForAck x since k (waitsAgain c seq bytes)) c).unacked = pre ++ (seq, k, tries, relane bytes k) :: post := by
  have hmoved := map_seq (lane := lane) (tries := tries) (bytes := bytes) hothers
    (fun e => (e.1, k, e.2.2.1, relane bytes k)) (fun e => e.1 = seq) (fun _ ho => ho) rfl
  simp only [keptForAck, waitsAgain, getClass_setClass_same, if_true, hunacked]
  exact hmoved

end Sys2Proof.Machine

namespace Sys2Proof.Machine

/-! ## A replay goes out or waits (R355, R356) -/

section
variable {m : Mach} {b c seq lane tries : Nat} {bytes : List Byte} {pre post kept : List (Nat × Nat × Nat × List Byte)}

theorem getBundle_replayWaits : getBundle (replayWaits m b c seq bytes kept) b =
    withReplay (getBundle m b) c seq bytes kept :=
  getBundle_setBundle_same (m := m) ..

theorem replayWaits_onlyLink : OnlyLink b m (replayWaits m b c seq bytes kept) :=
  (setBundle_onlyLink ..).trans (count_onlyLink ..)

theorem odGet_replayWaits : odGet (replayWaits m b c seq bytes kept) (bundleObj b) 4 = odGet m (bundleObj b) 4 + 1 :=
  odGet_count_same ..

theorem bundleUp_replayWaits (hup : bundleUp m b = true) : bundleUp (replayWaits m b c seq bytes kept) b = true := by
  refine (bundleUp_congr ?_).trans hup
  rw [getBundle_replayWaits]
  rfl

theorem waiting_replayWaits : (getBundle (replayWaits m b c seq bytes kept) b).waiting = [waitsAgain c seq bytes] := by
  rw [getBundle_replayWaits]
  rfl

theorem out_replayWaits : (replayWaits m b c seq bytes kept).out = m.out := rfl

/-- A replay that goes out leaves nothing waiting; the frame now stands with its new lane. -/
theorem replayGoes_facts (hothers : ∀ o ∈ pre ++ post, o.1 ≠ seq) (k : Nat)
    (hkept : kept = pre ++ (seq, lane, tries, bytes) :: post) {n : Mach}
    (hn : frameGoes (replayWaits m b c seq bytes kept) b m.now k (waitsAgain c seq bytes) = n) :
    n.out = m.out ++ [.kl b k (relane bytes k)] ∧ odGet n (bundleObj b) 4 = odGet m (bundleObj b) 4 + 1 ∧
      (getBundle n b).waiting = [] ∧
      (getClass (getBundle n b) c).unacked = pre ++ (seq, k, tries, relane bytes k) :: post ∧ OnlyLink b m n := by
  have hsent := frameGoes_framesSent (replayWaits m b c seq bytes kept) b m.now k (waitsAgain c seq bytes)
  have hbundle : getBundle (frameGoes (replayWaits m b c seq bytes kept) b m.now k (waitsAgain c seq bytes)) b =
      afterFrame (replayWaits m b c seq bytes kept) (withReplay (getBundle m b) c seq bytes kept)
        m.now k (waitsAgain c seq bytes) := by
    rw [frameGoes_eq, getBundle_emit, getBundle_setBundle_same, getBundle_replayWaits]
  rw [hn] at hsent hbundle
  refine ⟨?_, (hsent.odGet_eq ..).trans odGet_replayWaits, ?_, ?_, replayWaits_onlyLink.trans hsent.onlyLink⟩
  · rw [← hn, frameGoes_eq, emit_out, setBundle_out, out_replayWaits, waitsAgain]
  · rw [hbundle, afterFrame]
    simp only [keptForAck_waiting, withReplay, List.erase_cons_head]
  · rw [hbundle]
    exact replayed_unacked hothers ((congrArg KlClass.unacked (getClass_setClass_same ..)).trans hkept)

section
variable (hup : bundleUp m b = true) (hunacked : (getClass (getBundle m b) c).unacked = pre ++ (seq, lane, tries, bytes) :: post)
  (hothers : ∀ o ∈ pre ++ post, o.1 ≠ seq) (htries : tries < 8) (hwaiting : (getBundle m b).waiting = [])
  (hlive : (getBundle m b).live ≠ 0) (hkept : pre ++ (seq, lane, tries + 1, bytes) :: post = kept)
include hup hunacked hothers htries hwaiting hlive hkept

/-- A frame that was not acknowledged goes out on the lane whose frame slot comes. -/
theorem replayOrDrop_goes {k : Nat} (hlane : nextLaneFor (withReplay (getBundle m b) c seq bytes kept) m.now m.now = some k) :
    replayOrDrop m b c (fun e => e.1 == seq) = frameGoes (replayWaits m b c seq bytes kept) b m.now k (waitsAgain c seq bytes) := by
  rw [replayOrDrop_one hunacked hothers htries hwaiting hlive, hkept]
  exact bundleRun_lone (bundleUp_replayWaits hup) waiting_replayWaits (by rw [getBundle_replayWaits, hlane])

/-- With no frame slot at the instant it waits. -/
theorem replayOrDrop_waits (hlane : nextLaneFor (withReplay (getBundle m b) c seq bytes kept) m.now m.now = none) :
    replayOrDrop m b c (fun e => e.1 == seq) = replayWaits m b c seq bytes kept := by
  rw [replayOrDrop_one hunacked hothers htries hwaiting hlive, hkept]
  exact bundleRun_lone_waits (bundleUp_replayWaits hup) waiting_replayWaits (by rw [getBundle_replayWaits, hlane])

end

end

/-! ## A gap, and the bundle's own TIME frame (R355, R374) -/

/-- A class that asks for a replay lets go what it holds ahead. -/
theorem askReplay_asks (m : Mach) (b : Nat) (c : Fin 5) :
    (getClass (getBundle (askReplay m b c.val) b) c.val).rxHeld = [] ∧ OnlyLink b m (askReplay m b c.val) ∧
      ∃ f, HandedTo b { rank := 2, bytes := f } (askReplay m b c.val) ∧ f.length = 32 ∧ frameType f = 2 ∧ field f 1 1 = 1 ∧
        field f 6 1 = c.val := by
  unfold askReplay
  extract_lets x
  generalize hm1 : setBundle m b (setClass x c.val { getClass x c.val with rxHeld := [], heldAt := [] }) = m1
  have hlink : OnlyLink b m m1 := hm1 ▸ setBundle_onlyLink ..
  have hsent : FramesSent b m1 (sendAck m1 b c.val true) := sendAck_framesSent ..
  refine ⟨?_, hlink.trans hsent.onlyLink, smallFrame (ackBody m1 b c.val true), sendFrame_handed .., replayRequest_fields m1 b c⟩
  rw [hsent.bundle.rxHeld, ← hm1, getBundle_setBundle_same, getClass_setClass_same]

/-! ## Slots (R364, R365, R368) -/

theorem setSlot_engineKept (m : Mach) (k : Nat) (x : SlotRun) : EngineKept m (setSlot m k x) :=
  ⟨rfl, rfl, rfl, rfl, rfl, rfl, rfl, rfl, rfl, rfl⟩

/-- The machine whose slot `k` has been sent `n` times. -/
def sentTimes (m : Mach) (k n : Nat) : Mach := setSlot m k { getSlot m k with sent := n }

/-- The slot `i` stands sent `k` times, a packet has entered the data mesh, and no memory or bundle has changed. -/
structure SlotSent (a n : Mach) (i k : Nat) (p : Packet) : Prop where
  sent : (getSlot n i).sent = k
  now : n.now = a.now
  packets : n.packets = a.packets ++ [p]
  sram : n.sram = a.sram
  hbm : n.hbm = a.hbm
  threads : n.threads = a.threads
  others : ∀ q, q ≠ i → getSlot n q = getSlot a q
  bundles : n.bundles = a.bundles

theorem PacketEntered.slotSent {a n : Mach} {i k : Nat} {p : Packet} (h : PacketEntered (sentTimes a i k) n p) :
    SlotSent a n i k p := by
  obtain ⟨hframe⟩ := h
  rw [hframe]
  exact ⟨congrArg SlotRun.sent (getSlot_setSlot_same ..), rfl, rfl, rfl, rfl, rfl, fun _ hq => getSlot_setSlot_ne _ _ hq, rfl⟩

/-- A slot judged at its deadline: complete, or missed. -/
def slotJudged (m : Mach) (e : Slot) (k : Nat) : Mach :=
  if (getSlot m k).deadlines < (getSlot m k).written / e.length then
    setSlot m k { getSlot m k with deadlines := (getSlot m k).deadlines + 1 }
  else bundleFault (count (setSlot m k { getSlot m k with deadlines := (getSlot m k).deadlines + 1 }) 0x61A0 4 1) e.bundle.val 0x401 k

/-- A slot that is complete at its deadline only counts on; one that is missed raises its fault. -/
theorem slotJudged_facts (m : Mach) (e : Slot) (k : Nat) : ∃ n, slotJudged m e k = n ∧
    (getSlot n k).deadlines = (getSlot m k).deadlines + 1 ∧ n.now = m.now ∧ n.hbm = m.hbm ∧
    ((getSlot m k).deadlines < (getSlot m k).written / e.length →
      n = setSlot m k { getSlot m k with deadlines := (getSlot m k).deadlines + 1 }) ∧
    ((getSlot m k).written / e.length ≤ (getSlot m k).deadlines → ∃ q, n.raised = m.raised ++ [q] ∧ q.code = 0x0401 ∧
      q.detail = BitVec.ofNat 64 k) := by
  unfold slotJudged
  generalize hm1 : setSlot m k { getSlot m k with deadlines := (getSlot m k).deadlines + 1 } = m1
  have hdeadlines : (getSlot m1 k).deadlines = (getSlot m k).deadlines + 1 := by rw [← hm1, getSlot_setSlot_same]
  have hkept : EngineKept m m1 := hm1 ▸ setSlot_engineKept ..
  have hraised : m1.raised = m.raised := by
    rw [← hm1]
    rfl
  split
  next hcomplete => exact ⟨m1, rfl, hdeadlines, hkept.now, hkept.hbm, fun _ => rfl, fun h => absurd hcomplete (Nat.not_lt.mpr h)⟩
  next hmissed =>
    obtain ⟨q, job, od, ctrl, out, hfault, hcode, hdetail⟩ := bundleFault_eq (count m1 0x61A0 4 1) e.bundle.val 0x401 k
    rw [hfault]
    exact ⟨_, rfl, hdeadlines, hkept.now, hkept.hbm, fun h => absurd h hmissed, fun _ => ⟨q, congrArg (· ++ [q]) hraised, hcode, hdetail⟩⟩

section
variable {s : State} {i : Nat} {j : Job} {e : Slot} {l : Nat} (hjob : s.m.job = some j) (hslot : j.image.slots[i]? = some e)
  (hruns : beatsRun s.m = true) (hlast : j.lastStarted = some l)
include hjob hslot hruns hlast

/-- At a send slot's time the row of its source is asked for its bytes. -/
theorem execSlotSendStart_due (hsend : e.send = true) (hup : bundleUp s.m e.bundle.val = true)
    (hstarted : j.slotBase + (getSlot s.m i).sent ≤ l) {r : RowId} {buf : Bool} {off : Nat}
    (hsource : sramAddr (w64 (relocateAddr j.map e.source.toNat)) = some (r, buf, off)) {a : Mach}
    (ha : a = advance s.m (tuAt s.m (startOf s.m (j.slotBase + (getSlot s.m i).sent) + e.start))) (hnone : a.injections = []) :
    ∃ n p, exec (.slotSendStart i) s = .next { s with m := n } ∧ PacketEntered (sentTimes a i ((getSlot s.m i).sent + 1)) n p ∧
      p.cargo = .slotAsk i ∧ p.cls = 0 ∧ p.target = w64 (relocateAddr j.map e.source.toNat) := by
  obtain ⟨units, route, hentered⟩ := enterPacket_entered (draw (sentTimes a i ((getSlot s.m i).sent + 1))).2
    (rowOf (Config.edgeRow e.bundle.val)) r
    { id := (draw (sentTimes a i ((getSlot s.m i).sent + 1))).1, cargo := .slotAsk i, src := none, sender := none
      target := w64 (relocateAddr j.map e.source.toNat), bytes := [], cls := 0, tag := 0, vdune := 0, viaLink := false, privF := true
      source := 0, readUntil := 0, word := 0 }
  refine ⟨_, _, ?_, hentered.after_draw, rfl, rfl, rfl⟩
  simp only [exec, execSlotSendStart, nextM, hjob, hslot, hsend, hruns, hlast, Option.any_some, hstarted, decide_true, hup,
    Bool.not_true, Bool.false_eq_true, or_self, if_false, ← ha, killLanes_of_no_injections hnone, hsource]
  rfl

/-- At a receive slot's deadline the slot is judged. -/
theorem execSlotDeadline_due (hsend : e.send = false) (hstarted : j.slotBase + (getSlot s.m i).deadlines ≤ l) {a : Mach}
    (ha : a = advance s.m (tuAt s.m (startOf s.m (j.slotBase + (getSlot s.m i).deadlines) + e.deadline))) :
    exec (.slotDeadline i) s = .next { s with m := slotJudged a e i } := by
  simp only [exec, execSlotDeadline, nextM, hjob, hslot, hsend, hruns, hlast, Option.any_some, hstarted, decide_true,
    Bool.not_true, Bool.false_eq_true, or_self, if_false, ← ha]
  rfl

end

/-! ## The commands (R355, R374) -/

section
variable {s : State} {b : Fin 8}

theorem execReplayTimeout_due {c : Fin 5} {seq : Nat} (hup : bundleUp s.m b.val = true)
    (hany : ((getClass (getBundle s.m b.val) c.val).unacked.any fun e => e.1 == seq) = true) {a : Mach}
    (ha : a = advance s.m (sget 0 (getClass (getBundle s.m b.val) c.val).sentAt seq + 217000)) (hnone : a.injections = []) :
    exec (.replayTimeout b c seq) s = .next { s with m := replayOrDrop a b.val c.val fun e => e.1 == seq } := by
  simp only [exec, execReplayTimeout, nextM, hup, hany, Bool.not_true, Bool.false_eq_true, or_self, if_false, ← ha,
    killLanes_of_no_injections hnone]

theorem execReorderGapTimeout_due {c : Fin 5} (hup : bundleUp s.m b.val = true)
    (hheld : (getClass (getBundle s.m b.val) c.val).rxHeld ≠ []) {a : Mach}
    (ha : a = advance s.m (gapSince s.m (getClass (getBundle s.m b.val) c.val) + 43400)) :
    exec (.reorderGapTimeout b c) s = .next { s with m := askReplay a b.val c.val } := by
  simp [exec, execReorderGapTimeout, nextM, hup, hheld, ha]

theorem execTimeFrameDue_due (hruns : bundleRuns s.m b.val = true) (hup : bundleUp s.m b.val = true) :
    exec (.timeFrameDue b) s = .next { s with m := sendFrame s.m s.m.now b.val 1 (smallFrame (timeBody s.m b.val)) } := by
  simp only [exec, execTimeFrameDue, nextM, hruns, hup, Bool.not_true, Bool.false_eq_true, or_self, if_false]
  rfl

end

/-- Settles O49: a timeout is one frame that waits again and goes out (`replayOrDrop_goes`) or not (`replayOrDrop_waits`); a gap and
the TIME frame hand over a frame (`askReplay_asks`, `sendFrame_handed`); a slot is sent (`execSlotSendStart_due`) or judged
(`slotJudged_facts`). -/
theorem bundleTimersAndSlots : Obligations.BundleTimersAndSlots := by
  intro s b hup hnone x Q handed
  have hQ {a n : Mach} (h : OnlyLink b.val a n) : Q a n := ⟨h.engine, h.others⟩
  refine ⟨fun c seq lane tries bytes pre post hany => ?replay, fun c hheld => ?gap, fun hruns => ?time,
    fun i j e l hjob hslot hruns hlast => ?slots⟩
  case replay =>
    intro a y hinjections hunacked hothers htries hwaiting hlive w z
    have haup : bundleUp a b.val = true := (bundleUp_congr ((advance_timePasses ..).state b.val)).trans hup
    have hexec := execReplayTimeout_due hup hany (a := a) rfl hinjections
    clear_value a
    refine ⟨fun k hlane => ?_, fun hlane => ?_⟩
    · rw [replayOrDrop_goes haup hunacked hothers htries hwaiting hlive rfl hlane] at hexec
      obtain ⟨hout, hcount, hfree, hstands, hlink⟩ := replayGoes_facts hothers k rfl rfl
      exact ⟨_, hexec, hout, hcount, hfree, hstands, hQ hlink⟩
    · rw [replayOrDrop_waits haup hunacked hothers htries hwaiting hlive rfl hlane] at hexec
      exact ⟨_, hexec, out_replayWaits, odGet_replayWaits, getBundle_replayWaits, hQ replayWaits_onlyLink⟩
  case gap =>
    intro a
    obtain ⟨hempty, hlink, hasks⟩ := askReplay_asks a b.val c
    exact ⟨_, execReorderGapTimeout_due hup hheld rfl, hempty, hasks, hQ hlink⟩
  case time =>
    exact ⟨_, execTimeFrameDue_due hruns hup, ⟨_, sendFrame_handed .., timeFrame_fields s.m b.val⟩,
      hQ (sendFrame_framesSent ..).onlyLink⟩
  case slots =>
    intro y
    refine ⟨fun r buf off hsend hbundle hstarted hsource => ?send, fun hsend hstarted _ => ?deadline⟩
    case send =>
      intro a hinjections
      obtain ⟨n, p, hexec, hentered, hpacket⟩ := execSlotSendStart_due hjob hslot hruns hlast hsend (hbundle ▸ hup) hstarted hsource
        (a := a) rfl hinjections
      have hhbm : a.hbm = s.m.hbm := (advance_driversKept ..).hbm
      clear_value a
      obtain ⟨hsent, hnow, hpackets, hsram, hkept, hthreads, hslots, hbundles⟩ := hentered.slotSent
      exact ⟨n, hexec, hsent, hnow, ⟨p, hpackets, hpacket⟩, hsram, hkept.trans hhbm, hthreads, hslots, hbundles⟩
    case deadline =>
      intro m z
      have hexec := execSlotDeadline_due hjob hslot hruns hlast hsend hstarted (a := m) rfl
      have hhbm : m.hbm = s.m.hbm := (advance_driversKept ..).hbm
      clear_value m
      obtain ⟨n, hn, hdeadlines, hnow, hkept, hjudged⟩ := slotJudged_facts m e i
      rw [hn] at hexec
      exact ⟨n, hexec, hdeadlines, hnow, hkept.trans hhbm, hjudged⟩

end Sys2Proof.Machine

/-! SUPPORT. The module root (R373, R375, R377), reports of loads and T0 (R363), and injections (R379). -/

namespace Sys2Proof.Machine

/-! ## The root without a source (R375) -/

theorem getRoot_congr {m n : Mach} (h : n.islands = m.islands) : getRoot n = getRoot m := by
  simp only [getRoot, islandState, rootIsland, h]

@[simp] theorem getRoot_setRoot (m : Mach) (x : IslandState) : getRoot (setRoot m x) = x := sget_sset_same ..

@[simp] theorem getRoot_odSet (m : Mach) (idx sub v : Nat) : getRoot (odSet m idx sub v) = getRoot m := rfl

/-- The machine whose root has lost its source. -/
def rootFreed (m : Mach) : Mach :=
  odSet (odSet (setRoot { m with timeParent := none, ptpHeard := false } { getRoot m with time := .free }) 0x5300 5 0xFFFF) 0x5300 6 0

theorem rootFreed_onlyRoot (m : Mach) : OnlyRoot m (rootFreed m) :=
  have hsource : OnlyRoot m { m with timeParent := none, ptpHeard := false } := ⟨rfl⟩
  ((hsource.trans (setRoot_onlyRoot ..)).trans (odSet_onlyRoot ..)).trans (odSet_onlyRoot ..)

/-- A root that has lost its source is FREE, without a parent or a PTP master, and of no depth. -/
theorem rootFreed_free (m : Mach) : (getRoot (rootFreed m)).time = .free ∧ (rootFreed m).timeParent = none ∧
    (rootFreed m).ptpHeard = false ∧ odGet (rootFreed m) 0x5300 5 = 0xFFFF ∧ odGet (rootFreed m) 0x5300 6 = 0 ∧
    (rootFreed m).htcOffset = m.htcOffset := by
  refine ⟨?_, rfl, rfl, (odGet_odSet_ne _ (by decide) _).trans (odGet_odSet_same ..), odGet_odSet_same .., rfl⟩
  rw [rootFreed, getRoot_odSet, getRoot_odSet, getRoot_setRoot]

theorem noteHoldover_onlyHostSide (m : Mach) (t : Nat) : OnlyHostSide m (noteHoldover m t) := odSet_onlyHostSide ..

/-- The machine at the instant `t`, a holdover of the root noted. -/
def holdoverNoted (m : Mach) (t : Nat) : Mach :=
  if (getRoot m).time = .holdover then noteHoldover (advance m t) (getRoot m).holdSince else advance m t

theorem holdoverNoted_onlyHostSide (m : Mach) (t : Nat) : OnlyHostSide (advance m t) (holdoverNoted m t) :=
  .ite (noteHoldover_onlyHostSide ..) (.refl _)

/-- Time has passed for the root, and nothing else. -/
theorem holdoverNoted_facts (m : Mach) (t : Nat) : (holdoverNoted m t).now = max m.now t ∧
    (holdoverNoted m t).htcOffset = m.htcOffset ∧ getRoot (holdoverNoted m t) = getRoot m ∧ (holdoverNoted m t).hbm = m.hbm := by
  have hnoted := holdoverNoted_onlyHostSide m t
  have hpassed : TimePasses t m (holdoverNoted m t) := (advance_timePasses ..).trans hnoted.timePasses
  exact ⟨hnoted.engineKept.now.trans (advance_now ..), hpassed.htcOffset, getRoot_congr hpassed.islands,
    hnoted.engineKept.hbm.trans (advance_driversKept ..).hbm⟩

/-! ## A holdover beyond its limit (R217, R491) -/

theorem setCauses_events (m : Mach) (bits : Nat) : (setCauses m bits).events = m.events := by
  unfold setCauses
  split
  · rfl
  · refine List.foldlRecOn (motive := fun n : Mach => n.events = m.events) _ _ rfl fun n hn f _ => ?_
    dsimp only
    split
    · exact hn
    · unfold msixGenerate
      extract_lets fn
      split
      · exact hn
      · split <;> exact hn

theorem count_events (m : Mach) (idx sub n : Nat) : (count m idx sub n).events = m.events := rfl

/-- The last of a log cut to its end is the event appended. -/
theorem getLast?_drop_of_append {es log : List Event} {e : Event} (h : log = es ++ [e]) :
    (log.drop (log.length - 256)).getLast? = some e := by
  rw [h, List.getLast?_drop, if_neg (by rw [List.length_append, List.length_singleton]; omega), List.getLast?_concat]

/-- The event posted last stands last. -/
theorem postEvent_events (m : Mach) (code erg dune value : Nat) :
    ∃ e, (postEvent m code erg dune value).events.getLast? = some e ∧ e.code = BitVec.ofNat 16 code := by
  unfold postEvent postEventAt
  extract_lets e log
  have hlast : (log.drop (log.length - 256)).getLast? = some e := getLast?_drop_of_append (es := m.events) rfl
  refine ⟨e, ?_, rfl⟩
  rw [setCauses_events, count_events]
  dsimp only
  exact hlast

theorem FaultsNoted.job_none {a n : Mach} (h : FaultsNoted a n) (hnone : a.job = none) : n.job = none := by
  have hjob := h.job
  rw [jobButFault, jobButFault, hnone] at hjob
  exact Option.map_eq_none_iff.mp hjob

theorem holdoverNoted_job_none {m : Mach} (hnone : m.job = none) (t : Nat) : (holdoverNoted m t).job = none := by
  rw [(holdoverNoted_onlyHostSide m t).frame]
  exact (advance_faultsNoted m t).job_none hnone

/-! ## A PTP master seeds a free root (R377) -/

/-- The machine that has heard a PTP master. -/
def ptpMasterHeard (m : Mach) : Mach := { m with ptpHeard := true }

/-- How far the module's time lies behind a PTP master's. -/
def ptpDifference (m : Mach) (obs : PtpObs) : Int := ((obs.ptpTime : Int) - (odGet m 0x5300 3 : Int)) - (htcNow m : Int)

theorem moveRoot_htcOffset (m : Mach) (ns : Int) : (moveRoot m ns).htcOffset = m.htcOffset + ns := by
  unfold moveRoot
  refine List.foldlRecOn (motive := fun n : Mach => n.htcOffset = m.htcOffset + ns) _ _ rfl fun n hn i _ => ?_
  dsimp only
  split
  · exact hn
  · cases i <;> exact hn

theorem followSource_of_free {m : Mach} (hfree : (getRoot m).time = .free) (hbeats : beatsRun m = false) (hmode : m.mode ≠ .restarting)
    (ns : Int) : followSource m ns = setRoot (moveRoot m ns) { getRoot m with time := .acquire, exchanged := m.now } := by
  simp only [followSource, hfree, hbeats, hmode, Bool.false_eq_true, or_self, if_false]

/-! ## T0 (R363) -/

theorem mem_noteReport {m : Mach} {j : Job} (hjob : m.job = some j) (i : Nat) :
    ∃ k, (noteReport m i).job = some k ∧ i ∈ k.reports ∧ k.startAt = j.startAt ∧ k.loaded = j.loaded := by
  have hmem : i ∈ if j.reports.contains i then j.reports else j.reports ++ [i] := by
    split
    next h => exact List.contains_iff_mem.mp h
    next => exact List.mem_append_right _ (List.mem_singleton_self i)
  exact ⟨_, congrArg (Option.map _) hjob, hmem, rfl, rfl⟩

theorem chooseT0_of_not_loaded {m : Mach} {j : Job} (hjob : m.job = some j) (hloaded : j.loaded = false) : chooseT0 m = m := by
  simp [chooseT0, hjob, hloaded]

theorem announcePeriod_hbm (m : Mach) (n level period : Nat) : (announcePeriod m n level period).hbm = m.hbm :=
  (broadcastJob_onlyAnnounced ..).engineKept.hbm

theorem announceLevel_hbm (m : Mach) : (announceLevel m).hbm = m.hbm := by
  unfold announceLevel
  split
  · rfl
  · split
    · extract_lets own
      split <;> rfl
    · extract_lets d own level m1
      have hdrawn : m1.hbm = m.hbm := by
        unfold m1
        split <;> rfl
      split
      · exact hdrawn
      · exact (announcePeriod_hbm ..).trans hdrawn

/-- A job is started at its T0, or now if that is past, and no memory changes. -/
theorem startJob_at (m : Mach) (t0 : Nat) : (startJob m t0).now = max m.now (tuAt m t0) ∧ (startJob m t0).hbm = m.hbm := by
  unfold startJob
  extract_lets m1 m2 m3 base m4
  have hanchor := setAnchor_loadKept m1 t0 0 0
  have hrunning : LoadKept { m4 with mode := .running } (resetWindows (setState m4 .running)) :=
    (setState_loadKept ..).trans (resetWindows_loadKept _)
  have hnow : m4.now = m1.now := hanchor.now
  have hhbm : m4.hbm = m1.hbm := hanchor.hbm
  exact ⟨(announceLevel_levelAnnounced _).now.trans (hrunning.now.trans (hnow.trans (advance_now ..))),
    (announceLevel_hbm _).trans (hrunning.hbm.trans (hhbm.trans (advance_driversKept ..).hbm))⟩

/-! ## The commands -/

section
variable {s : State}

theorem execRootSourceTimeout_due (hruns : islandRuns s.m rootIsland = true)
    (hsource : (getRoot s.m).time = .acquire ∨ (getRoot s.m).time = .holdover) {t : Nat}
    (ht : t = (getRoot s.m).exchanged + 2 * 217000000000) :
    exec .rootSourceTimeout s = .next { s with m := rootFreed (holdoverNoted s.m t) } := by
  simp only [exec, execRootSourceTimeout, nextM, hruns, hsource, Bool.not_true, decide_true, Bool.false_eq_true, or_self, if_false, ← ht]
  rfl

theorem execRootHoldoverLimit_no_job (hruns : islandRuns s.m rootIsland = true) (hhold : (getRoot s.m).time = .holdover)
    (hnone : s.m.job = none) {t : Nat} (ht : t = (getRoot s.m).holdSince + 10 * 217000000 + 1) :
    exec .rootHoldoverLimit s = .next { s with m := postEvent (holdoverNoted s.m t) 0x8008 0 63 (islandNode rootIsland) } := by
  have hnoted : noteHoldover (advance s.m t) (getRoot s.m).holdSince = holdoverNoted s.m t := by rw [holdoverNoted, if_pos hhold]
  have hmodule : multiModule (holdoverNoted s.m t) = false := by simp [multiModule, holdoverNoted_job_none hnone]
  simp only [exec, execRootHoldoverLimit, nextM, hruns, hhold, Bool.not_true, Bool.false_eq_true, ne_eq, not_true_eq_false, or_self,
    if_false, ← ht, hnoted, hmodule, false_and]

theorem execPtpMessage_free {obs : PtpObs} (hruns : islandRuns s.m .mgmt = true) (hdomain : obs.domain = odGet s.m 0x5300 2)
    (hhall : hallRoot s.m = false) (hfree : (getRoot s.m).time = .free) :
    exec (.ptpMessage obs) s = .next { s with m := followSource (ptpMasterHeard s.m) (ptpDifference s.m obs) } := by
  have hhall' : hallRoot { s.m with ptpHeard := true } = false := hhall
  have hfree' : (getRoot { s.m with ptpHeard := true }).time = .free := hfree
  simp only [exec, execPtpMessage, nextM, hruns, hdomain, hhall', hfree', Bool.not_true, Bool.false_eq_true, ne_eq, not_true_eq_false,
    or_self, if_false, true_or, if_true]
  rfl

theorem execLoadCompleteReport_not_loaded {j : Job} {i : Nat} (hjob : s.m.job = some j) (hmode : s.m.mode = .loading)
    (hindex : i < j.image.modules) (hloaded : j.loaded = false) :
    exec (.loadCompleteReport i) s = .next { s with m := noteReport s.m i } := by
  obtain ⟨k, hk, -, -, hkept⟩ := mem_noteReport hjob i
  simp only [exec, execLoadCompleteReport, nextM, hjob, hmode, hindex, and_self, if_true,
    chooseT0_of_not_loaded hk (hkept.trans hloaded)]

theorem execJobStartT0_in_time {j : Job} {t0 : Nat} (hjob : s.m.job = some j) (hrestart : s.m.restart = none)
    (hmode : s.m.mode = .loading) (hloaded : j.loaded = true) (hmodules : 1 < j.image.modules) (htime : htcNow s.m + 100000 ≤ t0) :
    exec (.jobStartT0 t0) s = .next { s with m := giveAnswers (startJob s.m t0) (objKey 0x3000 1) 0 } := by
  simp only [exec, execJobStartT0, nextM, receiveT0, hjob, hrestart, Option.isSome_none, hmode, hloaded, hmodules, Nat.not_lt.mpr htime,
    ne_eq, not_true_eq_false, Bool.not_true, decide_true, Bool.false_eq_true, or_self, if_false]

/-- The machine with an injection armed. -/
def injectionArmed (m : Mach) (data : List Byte) : Mach :=
  { m with
    injections := m.injections ++ [⟨BitVec.ofNat 256 (leNat data), natBits (leNat data) 191 160⟩]
    sec := { m.sec with injectSeen := true } }

/-- An accepted injection of kind 2 is armed and answered. -/
theorem execFaultInject_armed {v : Via} {data : List Byte} (hcheck : injectCheck s.m v data = none)
    (hkind : natBits (leNat data) 87 80 = 2) :
    exec (.faultInject v data) s = .next { s with m := emit (injectionArmed s.m data) (.odResult v 0 0 []) } := by
  simp only [exec, execFaultInject, nextM, commandRow, hcheck, injectRun, hkind]
  rfl

end

/-- Settles O50: the root's time by `rootFreed_free`, `holdoverNoted_facts` and `followSource_of_free`, a report by `mem_noteReport`, T0 by
`startJob_runsFromFirstBeat` and `startJob_at`, the injection by `execFaultInject_armed`. -/
theorem hallTimeAndInjection : Obligations.HallTimeAndInjection := by
  intro s
  refine ⟨fun hruns hsource => ?source, fun hruns hhold hnone => ?holdover,
    fun obs hruns hdomain hhall hfree hbeats hmode => ?ptp, fun j i hjob hmode hindex hloaded => ?report,
    fun j t0 hjob hrestart hmode hloaded hmodules htime => ?start, fun v data hcheck hkind => ?inject⟩
  case source =>
    obtain ⟨hnow, hoffset, -, hhbm⟩ := holdoverNoted_facts s.m ((getRoot s.m).exchanged + 2 * 217000000000)
    have hexec := execRootSourceTimeout_due hruns hsource rfl
    generalize holdoverNoted s.m _ = a at hnow hoffset hhbm hexec
    obtain ⟨htime, hparent, hheard, hroot, hdepth, hkept⟩ := rootFreed_free a
    have hengine := (rootFreed_onlyRoot a).engine
    exact ⟨_, hexec, htime, hparent, hheard, hengine.now.trans hnow, hroot, hdepth, hkept.trans hoffset, hengine.hbm.trans hhbm⟩
  case holdover =>
    obtain ⟨hnow, -, hroot, hhbm⟩ := holdoverNoted_facts s.m ((getRoot s.m).holdSince + 10 * 217000000 + 1)
    have hexec := execRootHoldoverLimit_no_job hruns hhold hnone rfl
    generalize holdoverNoted s.m _ = a at hnow hroot hhbm hexec
    have hposted : OnlyHostSide a (postEvent a 0x8008 0 63 (islandNode rootIsland)) := postEventAt_onlyHostSide ..
    have hislands := (hposted.timePasses (t := 0)).islands
    exact ⟨_, hexec, hposted.engineKept.now.trans hnow, postEvent_events .., (getRoot_congr hislands).trans hroot,
      hposted.engineKept.hbm.trans hhbm⟩
  case ptp =>
    have hexec := execPtpMessage_free hruns hdomain hhall hfree
    rw [followSource_of_free (m := ptpMasterHeard s.m) hfree hbeats hmode] at hexec
    have hmoved := moveRoot_onlyClocks (ptpMasterHeard s.m) (ptpDifference s.m obs)
    have hheard : (moveRoot (ptpMasterHeard s.m) (ptpDifference s.m obs)).ptpHeard = true := by
      rw [hmoved.frame]
      rfl
    have hnoted : OnlyRoot s.m (ptpMasterHeard s.m) := ⟨rfl⟩
    have hoffset : (moveRoot (ptpMasterHeard s.m) (ptpDifference s.m obs)).htcOffset = s.m.htcOffset + ptpDifference s.m obs :=
      moveRoot_htcOffset ..
    generalize moveRoot (ptpMasterHeard s.m) (ptpDifference s.m obs) = n at hexec hmoved hheard hoffset
    exact ⟨_, hexec, hheard, congrArg IslandState.time (getRoot_setRoot ..), congrArg IslandState.exchanged (getRoot_setRoot ..),
      ((hnoted.trans hmoved.onlyRoot).trans (setRoot_onlyRoot ..)).engine, hoffset⟩
  case report =>
    obtain ⟨k, hk, hmem, hstart, -⟩ := mem_noteReport hjob i
    exact ⟨_, execLoadCompleteReport_not_loaded hjob hmode hindex hloaded, ⟨k, hk, hmem, hstart⟩,
      ⟨rfl, rfl, rfl, rfl, rfl, rfl, rfl, rfl, rfl, rfl⟩⟩
  case start =>
    have hloads : LoadsJob j s.m.now s.m := ⟨hmode, hjob, Nat.le_refl _⟩
    have hanswered := giveAnswers_onlyAnswered (startJob s.m t0) (objKey 0x3000 1) 0
    obtain ⟨hnow, hhbm⟩ := startJob_at s.m t0
    exact ⟨_, execJobStartT0_in_time hjob hrestart hmode hloaded hmodules htime,
      hanswered.mode.trans (startJob_runsFromFirstBeat hloads t0).mode, hanswered.now.trans hnow, hanswered.hbm.trans hhbm⟩
  case inject =>
    exact ⟨_, execFaultInject_armed hcheck hkind, rfl, rfl, rfl, ⟨rfl, rfl, rfl, rfl, rfl, rfl, rfl, rfl, rfl, rfl⟩⟩

end Sys2Proof.Machine

/-! SUPPORT. The state after reset, and commands that run in the order of their queue (assumption 4). -/

namespace Sys2Proof.Machine

/-! ## Reset (R442, R524) -/

/-- Settles O3: every field of the machine at reset is a literal, and an empty memory is in canonical form (`wf_nil`). That the
retirement list is empty is the model's choice (assumption 19). -/
theorem resetState : Obligations.ResetState :=
  ⟨rfl, rfl, rfl, rfl, ⟨wf_nil, wf_nil⟩, rfl, rfl⟩

/-! ## The queue of commands (assumption 4) -/

/-- No command reads the queue, changes it, or ends in a fault or a refusal: it is an operation on the machine. -/
theorem exec_eq_nextM (i : Instr) : ∃ act : Mach → Mach, ∀ s, exec i s = nextM s act := by
  cases i
  case telemetry =>
    dsimp only [exec, execTelemetry]
    exact ⟨_, fun _ => rfl⟩
  all_goals
    dsimp only [exec]
    exact ⟨_, fun _ => rfl⟩

/-- The machine that a command leaves. -/
def commandLeaves (m : Mach) (i : Instr) : Mach :=
  match exec i ⟨[], m⟩ with
  | .next t => t.m
  | _ => m

theorem exec_eq (i : Instr) (s : State) : exec i s = .next { s with m := commandLeaves s.m i } := by
  obtain ⟨act, hact⟩ := exec_eq_nextM i
  simp only [commandLeaves, hact, nextM]

/-- Commands in front of others run one after another, and the others wait. -/
theorem runSteps_front (front back : List Instr) (m : Mach) :
    runSteps front.length ⟨front ++ back, m⟩ = .next ⟨back, front.foldl commandLeaves m⟩ := by
  induction front generalizing m with
  | nil => rfl
  | cons i rest ih =>
    have hstep : step ⟨i :: rest ++ back, m⟩ = .next ⟨rest ++ back, commandLeaves m i⟩ := exec_eq i ⟨rest ++ back, m⟩
    simp only [List.length_cons, runSteps, hstep, ih, List.foldl_cons]

/-- Settles O2: the front commands leave what `runSteps_front` says, and each `exec` of the fold leaves the same (`exec_eq`). -/
theorem commandsRunInOrder : Obligations.CommandsRunInOrder := by
  intro front back s
  refine ⟨_, runSteps_front front back s.m, rfl, ?_⟩
  generalize s.m = m
  induction front generalizing m with
  | nil => rfl
  | cons i rest ih =>
    rw [List.foldl_cons, List.foldl_cons]
    simp only [exec_eq i]
    exact ih (commandLeaves m i)

end Sys2Proof.Machine

/-! SUPPORT. Functions of the host port that stop and start (R281, R386–R390, R401, R402). That a Function Level Reset, a lost VF
Enable and a lost link return MSI-X to masked and empty is the model's reading (assumptions 22 and 45). -/

namespace Sys2Proof.Machine

/-! ## Maps searched and thinned by their keys -/

theorem sget_filter_key {α : Type} (d : α) (p : Nat → Bool) (m : SMap α) (k : Nat) :
    sget d (m.filter fun e => p e.1) k = if p k then sget d m k else d := by
  induction m with
  | nil => simp [sget]
  | cons e rest ih =>
    by_cases hkey : e.1 = k
    · cases hp : p k <;> simp [sget, hkey, hp, ih]
    · cases hp : p e.1 <;> simp [sget, hkey, hp, ih]

/-- A key that does not read the default is listed with what it reads. -/
theorem mem_of_sget_ne {α : Type} {d : α} {m : SMap α} {k : Nat} (h : sget d m k ≠ d) : (k, sget d m k) ∈ m := by
  induction m with
  | nil => exact absurd rfl h
  | cons e rest ih =>
    by_cases hkey : e.1 = k
    · simp [sget, ← hkey]
    · simp only [sget, hkey, if_false] at h ⊢
      exact List.mem_cons_of_mem _ (ih h)

/-- The search for a function's live contexts finds each of them. -/
theorem mem_liveOf {m : Mach} {c : Nat} (hlive : (getCtx m c).state ≠ .free) : c ∈ liveOf m (getCtx m c).fn := by
  have hlisted : (c, getCtx m c) ∈ m.ctxs := mem_of_sget_ne fun h => hlive (congrArg Context.state h)
  exact List.mem_map.mpr ⟨_, List.mem_filter.mpr ⟨hlisted, by simpa using hlive⟩, rfl⟩

/-! ## Contexts dropped with their function (R390) -/

theorem endChain_eq (m : Mach) (c : Nat) :
    endChain m c = { m with chains := (endChain m c).chains, ledger := (endChain m c).ledger } := by
  unfold endChain
  split
  · refine List.foldlRecOn (motive := fun n : Mach => n = { m with chains := n.chains, ledger := n.ledger }) _ _ rfl ?_
    intro n hn p _
    rw [hn]
    rfl
  · rfl

/-- From `a` to `n` only contexts, with their chains and the energy ledger, and counters may have changed, and a free context has stayed
free. -/
structure ContextsDropped (a n : Mach) : Prop where
  frame : n = { a with ctxs := n.ctxs, chains := n.chains, ledger := n.ledger, od := n.od }
  free : ∀ c, (getCtx a c).state = .free → (getCtx n c).state = .free

theorem ContextsDropped.getFn_eq {a n : Mach} (h : ContextsDropped a n) (g : Nat) : getFn n g = getFn a g := by
  rw [h.frame]
  rfl

theorem ContextsDropped.trans {a m n : Mach} (h : ContextsDropped a m) (h' : ContextsDropped m n) : ContextsDropped a n :=
  ⟨h'.frame.trans (by rw [h.frame]), fun c hc => h'.free c (h.free c hc)⟩

theorem getCtx_dropContext_same (m : Mach) (c : Nat) : getCtx (dropContext m c) c = {} :=
  getCtx_setCtx_same (endChain m c) c {}

theorem getCtx_dropContext_ne (m : Mach) {c e : Nat} (h : e ≠ c) : getCtx (dropContext m c) e = getCtx m e := by
  have hchain : getCtx (endChain m c) e = getCtx m e := by
    rw [endChain_eq]
    rfl
  exact (getCtx_setCtx_ne (endChain m c) {} h).trans hchain

theorem dropContext_dropped (m : Mach) (c : Nat) : ContextsDropped m (dropContext m c) where
  frame := by
    unfold dropContext
    rw [endChain_eq]
    rfl
  free e he := by
    by_cases h : e = c
    · rw [h, getCtx_dropContext_same]
    · rw [getCtx_dropContext_ne m h, he]

theorem foldl_dropContext_dropped (l : List Nat) (m : Mach) :
    ContextsDropped m (l.foldl dropContext m) ∧ ∀ c ∈ l, (getCtx (l.foldl dropContext m) c).state = .free := by
  induction l generalizing m with
  | nil => exact ⟨⟨rfl, fun _ h => h⟩, nofun⟩
  | cons c rest ih =>
    have hfree : (getCtx (dropContext m c) c).state = .free := by rw [getCtx_dropContext_same]
    obtain ⟨hrest, hfrees⟩ := ih (dropContext m c)
    refine ⟨(dropContext_dropped m c).trans hrest, fun e he => ?_⟩
    rcases List.mem_cons.mp he with rfl | he
    · exact hrest.free _ hfree
    · exact hfrees e he

/-! ## A function ends (R390) -/

/-- From `a` to `n` only the host port has changed: functions, their contexts with chains and energy, host reads in flight, the
MSI-X and window tables, and counters. -/
structure OnlyHostPort (a n : Mach) : Prop where
  frame : n = { a with fns := n.fns, ctxs := n.ctxs, chains := n.chains, ledger := n.ledger, queues := n.queues,
                       bar0 := n.bar0, od := n.od }

namespace OnlyHostPort

variable {a m n : Mach}

theorem refl (a : Mach) : OnlyHostPort a a := ⟨rfl⟩

theorem trans (h : OnlyHostPort a m) (h' : OnlyHostPort m n) : OnlyHostPort a n := ⟨h'.frame.trans (by rw [h.frame])⟩

theorem sram (h : OnlyHostPort a n) : n.sram = a.sram := by rw [h.frame]
theorem hbm (h : OnlyHostPort a n) : n.hbm = a.hbm := by rw [h.frame]
theorem threads (h : OnlyHostPort a n) : n.threads = a.threads := by rw [h.frame]
theorem mode (h : OnlyHostPort a n) : n.mode = a.mode := by rw [h.frame]

end OnlyHostPort

theorem count_onlyHostPort (m : Mach) (idx sub n : Nat) : OnlyHostPort m (count m idx sub n) := ⟨rfl⟩

theorem ContextsDropped.onlyHostPort {a n : Mach} (h : ContextsDropped a n) : OnlyHostPort a n := ⟨by rw [h.frame]⟩

/-- A function that serves no more. -/
def endedFn (x : Fn) : Fn := { x with up := false, armed := 0, taken := [], stepHeld := [], stepTailRead := false, heldOff := 0 }

/-- Function `f` has ended between `a` and `n`: what it held and its contexts are gone, and the other functions are as they were. -/
structure FunctionEnded (f : Nat) (a n : Mach) : Prop extends OnlyHostPort a n where
  fn : getFn n f = endedFn (getFn a f)
  contexts : ∀ c, (getCtx a c).fn = f → (getCtx n c).state = .free
  others : ∀ g, g ≠ f → getFn n g = getFn a g

theorem endFunction_of_down {m : Mach} {f : Nat} (hdown : (getFn m f).up = false) : endFunction m f = m := by
  simp [endFunction, hdown]

/-- Function `f` ended, with its contexts still to be dropped. -/
def fnEnded (m : Mach) (f : Nat) : Mach := discardReads (setFn m f (endedFn (getFn m f))) f

theorem fnEnded_onlyHostPort (m : Mach) (f : Nat) : OnlyHostPort m (fnEnded m f) := ⟨rfl⟩

theorem endFunction_of_up {m : Mach} {f : Nat} (hup : (getFn m f).up = true) : endFunction m f =
    count (count ((liveOf m f).foldl dropContext (fnEnded m f)) 0x6180 14 (submitsTaken (getFn m f))) 0x5401 7 1 := by
  simp only [endFunction, hup]
  rfl

theorem endFunction_ended {m : Mach} {f : Nat} (hup : (getFn m f).up = true) : FunctionEnded f m (endFunction m f) := by
  obtain ⟨hdropped, hfree⟩ := foldl_dropContext_dropped (liveOf m f) (fnEnded m f)
  rw [endFunction_of_up hup]
  generalize (liveOf m f).foldl dropContext (fnEnded m f) = n at hdropped hfree
  exact {
    toOnlyHostPort := ((fnEnded_onlyHostPort m f).trans hdropped.onlyHostPort).trans
      ((count_onlyHostPort ..).trans (count_onlyHostPort ..))
    fn := (hdropped.getFn_eq f).trans (getFn_setFn_same m f _)
    contexts := fun c hc => by
      by_cases hlive : (getCtx m c).state = .free
      · exact hdropped.free c hlive
      · exact hfree c (hc ▸ mem_liveOf hlive)
    others := fun g hg => (hdropped.getFn_eq g).trans (getFn_setFn_ne m _ hg) }

theorem endFunction_onlyHostPort (m : Mach) (f : Nat) : OnlyHostPort m (endFunction m f) := by
  cases hup : (getFn m f).up
  · rw [endFunction_of_down hup]
    exact .refl m
  · exact (endFunction_ended hup).toOnlyHostPort

/-! ## MSI-X returns to its reset state (R401) -/

/-- MSI-X of a function as after reset. -/
def resetMsixFn (x : Fn) : Fn := { x with mask := 0xFF, pba := 0, lastMsix := [] }

theorem getFn_resetMsix_same (m : Mach) (f : Nat) : getFn (resetMsix m f) f = resetMsixFn (getFn m f) := getFn_setFn_same ..

theorem getFn_resetMsix_ne (m : Mach) {f g : Nat} (h : g ≠ f) : getFn (resetMsix m f) g = getFn m g := getFn_setFn_ne m _ h

theorem resetMsix_onlyHostPort (m : Mach) (f : Nat) : OnlyHostPort m (resetMsix m f) := ⟨rfl⟩

theorem FunctionEnded.resetMsix {f : Nat} {a n : Mach} (h : FunctionEnded f a n) :
    OnlyHostPort a (resetMsix n f) ∧ getFn (resetMsix n f) f = resetMsixFn (endedFn (getFn a f)) ∧
      (∀ c, (getCtx a c).fn = f → (getCtx (resetMsix n f) c).state = .free) ∧
      ∀ g, g ≠ f → getFn (resetMsix n f) g = getFn a g :=
  ⟨h.toOnlyHostPort.trans (resetMsix_onlyHostPort n f), (getFn_resetMsix_same n f).trans (congrArg resetMsixFn h.fn), h.contexts,
    fun g hg => (getFn_resetMsix_ne n hg).trans (h.others g hg)⟩

/-! ## Every function ends (R389, R390) -/

/-- A function that serves no more and whose MSI-X is as after reset. -/
def IsReset (x : Fn) : Prop := x.up = false ∧ x.mask = 0xFF ∧ x.pba = 0

theorem resetFunction_isReset (m : Mach) (f : Nat) : IsReset (getFn (resetMsix (endFunction m f) f) f) := by
  rw [getFn_resetMsix_same]
  refine ⟨?_, rfl, rfl⟩
  show (getFn (endFunction m f) f).up = false
  cases hup : (getFn m f).up
  · rw [endFunction_of_down hup, hup]
  · rw [(endFunction_ended hup).fn]
    rfl

theorem resetFunction_ne (m : Mach) {f g : Nat} (h : g ≠ f) : getFn (resetMsix (endFunction m f) f) g = getFn m g := by
  rw [getFn_resetMsix_ne _ h]
  cases hup : (getFn m f).up
  · rw [endFunction_of_down hup]
  · exact (endFunction_ended hup).others g h

theorem foldl_resetFunction (l : List Nat) (m : Mach) :
    let n := l.foldl (fun m f => resetMsix (endFunction m f) f) m
    OnlyHostPort m n ∧ ∀ g, g ∈ l ∨ IsReset (getFn m g) → IsReset (getFn n g) := by
  induction l generalizing m with
  | nil => exact ⟨.refl m, fun g h => h.resolve_left (List.not_mem_nil)⟩
  | cons f rest ih =>
    obtain ⟨hrest, hreset⟩ := ih (resetMsix (endFunction m f) f)
    refine ⟨((endFunction_onlyHostPort m f).trans (resetMsix_onlyHostPort _ f)).trans hrest, fun g hg => hreset g ?_⟩
    by_cases hgf : g = f
    · exact .inr (hgf ▸ resetFunction_isReset m f)
    · rw [resetFunction_ne m hgf]
      exact hg.imp_left fun h => (List.mem_cons.mp h).resolve_left hgf

/-- All functions have ended between `a` and `n`, and the window table is empty. -/
structure AllEnded (a n : Mach) : Prop where
  functions : ∀ g, g < 16 → IsReset (getFn n g)
  windows : ∀ o, o < 65536 → bar0Byte n (0x30000 + o) = 0
  sram : n.sram = a.sram
  hbm : n.hbm = a.hbm
  threads : n.threads = a.threads
  mode : n.mode = a.mode

theorem bar0Byte_clearWindowTable (m : Mach) {o : Nat} (ho : o < 65536) : bar0Byte (clearWindowTable m) (0x30000 + o) = 0 := by
  have hpage : (0x30000 + o) / 65536 = 3 := by omega
  have hcleared := sget_filter_key 0 (fun k => k / 65536 != 3) m.bar0 (0x30000 + o)
  rw [hpage] at hcleared
  exact hcleared

theorem endAllFunctions_ended (m : Mach) : AllEnded m (endAllFunctions m) := by
  obtain ⟨hport, hreset⟩ := foldl_resetFunction (List.range 16) m
  unfold endAllFunctions
  generalize (List.range 16).foldl (fun m f => resetMsix (endFunction m f) f) m = n at hport hreset
  exact {
    functions := fun g hg => hreset g (.inl (List.mem_range.mpr hg))
    windows := fun o ho => bar0Byte_clearWindowTable n ho
    sram := hport.sram
    hbm := hport.hbm
    threads := hport.threads
    mode := hport.mode }

theorem linkGone_ended (m : Mach) : AllEnded m (linkGone m) ∧ (linkGone m).port.linkUp = false := by
  have hended := endAllFunctions_ended m
  unfold linkGone
  generalize endAllFunctions m = n at hended
  exact ⟨⟨hended.functions, hended.windows, hended.sram, hended.hbm, hended.threads, hended.mode⟩, rfl⟩

/-! ## A function serves again (R281, R386, R390) -/

theorem trainLink_trained (m : Mach) :
    EngineKept m (trainLink m) ∧ (trainLink m).fns = m.fns ∧ (trainLink m).port.linkUp = true := by
  unfold trainLink
  split
  next hup => exact ⟨.refl m, rfl, hup⟩
  next =>
    extract_lets a b widths c d port p drawn trained
    have htrained : EngineKept m trained := ⟨rfl, rfl, rfl, rfl, rfl, rfl, rfl, rfl, rfl, rfl⟩
    have hfns : trained.fns = m.fns := rfl
    have hlink : trained.port.linkUp = true := rfl
    clear_value trained
    exact ⟨htrained.trans ((odSet_onlyHostSide ..).trans (odSet_onlyHostSide ..)).engineKept, hfns, hlink⟩

/-- A window that starts again, before its credit is written. -/
def windowFresh (m : Mach) (f : Nat) : Mach :=
  setFn { m with intake := m.intake.filter fun e => e.1 / 4096 != f } f
    { getFn m f with expected := 0xFFFFFFFF, armed := 0, next := 0, consumed := 0 }

/-- Of a window reset, what it leaves of the port and of the functions. -/
theorem resetWindow_kept (m : Mach) (f : Nat) : EngineKept m (resetWindow m f) ∧ (resetWindow m f).port = m.port ∧
    (getFn (resetWindow m f) f).up = (getFn m f).up ∧ ∀ g, g ≠ f → getFn (resetWindow m f) g = getFn m g := by
  have hcredit : OnlySignals f (windowFresh m f) (resetWindow m f) := writeCredit_onlySignals (windowFresh m f) f
  have hfresh : EngineKept m (windowFresh m f) := ⟨rfl, rfl, rfl, rfl, rfl, rfl, rfl, rfl, rfl, rfl⟩
  refine ⟨hfresh.trans hcredit.engineKept, ?_, ?_, fun g hg => (hcredit.others g hg).trans (getFn_setFn_ne _ _ hg)⟩
  · rw [hcredit.frame]
    rfl
  · rw [hcredit.fn]
    show (getFn (windowFresh m f) f).up = _
    rw [windowFresh, getFn_setFn_same]

/-- A function that serves again, on a link that has trained. -/
def enabled (m : Mach) (f : Nat) : Mach := setFn (trainLink m) f { getFn (trainLink m) f with up := true }

theorem enabled_serves (m : Mach) (f : Nat) : (getFn (enabled m f) f).up = true ∧ (enabled m f).port.linkUp = true ∧
    (∀ g, g ≠ f → getFn (enabled m f) g = getFn m g) ∧ EngineKept m (enabled m f) := by
  obtain ⟨hengine, hfns, hlink⟩ := trainLink_trained m
  refine ⟨?_, hlink, fun g hg => ?_, hengine.trans (setFn_onlyHostSide ..).engineKept⟩
  · rw [enabled, getFn_setFn_same]
  · rw [enabled, getFn_setFn_ne _ _ hg, getFn, hfns, getFn]

theorem execFunctionReenable_enables {s : State} {f : Fin 16} (hpowered : powered s.m = true) (hdown : (getFn s.m f.val).up = false) :
    Yields s (.functionReenable f) fun n => (getFn n f.val).up = true ∧ n.port.linkUp = true ∧
      (∀ g, g ≠ f.val → getFn n g = getFn s.m g) ∧ EngineKept s.m n := by
  obtain ⟨hup, hlink, hothers, hengine⟩ := enabled_serves s.m f.val
  have hexec (n : Mach) (hn : (if served (enabled s.m f.val) f.val then resetWindow (enabled s.m f.val) f.val
      else enabled s.m f.val) = n) : exec (.functionReenable f) s = .next { s with m := n } := by
    simp only [exec, execFunctionReenable, nextM, hpowered, hdown, Bool.not_true, Bool.false_eq_true, or_self, if_false]
    subst hn
    rfl
  by_cases hserved : served (enabled s.m f.val) f.val = true
  · obtain ⟨hkept, hport, hsame, hleft⟩ := resetWindow_kept (enabled s.m f.val) f.val
    exact ⟨_, hexec _ (if_pos hserved), hsame.trans hup, (congrArg Port.linkUp hport).trans hlink,
      fun g hg => (hleft g hg).trans (hothers g hg), hengine.trans hkept⟩
  · exact ⟨_, hexec _ (if_neg hserved), hup, hlink, hothers, hengine⟩

/-- A device on the stager port that can be used (R388). -/
def stagerGood (dev : StagerDevice) : Bool := dev.present && dev.headerOk && decide (2 ^ 36 ≤ dev.barBytes)

/-- The bytes of the stager's BAR noted. -/
def stagerNoted (m : Mach) (dev : StagerDevice) : Mach :=
  { m with port := { m.port with stagerBar := if stagerGood dev then dev.barBytes else 0 } }

theorem execStagerEnumeration_split {s : State} {dev : StagerDevice} (hpowered : powered s.m = true) (hsplit : odGet s.m 0x5400 1 = 1) :
    exec (.stagerEnumeration dev) s = .next { s with
      m := odSet (stagerNoted s.m dev) 0x5401 3 (if stagerGood dev then 2 else if dev.present then 3 else 0) } := by
  simp only [exec, execStagerEnumeration, nextM, hpowered, hsplit, Bool.not_true, Bool.false_eq_true, Nat.one_ne_zero, or_self, if_false]
  rfl

/-! ## The commands -/

/-- Settles O51: a function ends as `endFunction_ended` says, with its MSI-X reset where R401 has it (`FunctionEnded.resetMsix`); all of
them end as `endAllFunctions_ended` and `linkGone_ended` say. -/
theorem functionsStopAndStart : Obligations.FunctionsStopAndStart := by
  intro s f gone unset all
  refine ⟨fun hup => ?_, fun hport => ?_, fun hpowered => ?_, execFunctionReenable_enables, fun dev hpowered hsplit => ?_,
    fun v data hcheck => ?_⟩
  case refine_1 =>
    have hended := endFunction_ended hup
    have hgone : gone (endFunction s.m f.val) := by
      simp only [gone, hended.fn]
      exact ⟨rfl, rfl, rfl, rfl, hended.contexts, hended.others, hended.sram, hended.hbm, hended.threads, hended.mode⟩
    have hreset : gone (resetMsix (endFunction s.m f.val) f.val) ∧ unset (resetMsix (endFunction s.m f.val) f.val) := by
      obtain ⟨hkept, hfn, hcontexts, hothers⟩ := hended.resetMsix
      simp only [gone, unset, hfn]
      exact ⟨⟨rfl, rfl, rfl, rfl, hcontexts, hothers, hkept.sram, hkept.hbm, hkept.threads, hkept.mode⟩, rfl, rfl, rfl⟩
    refine ⟨⟨_, rfl, hgone⟩, ⟨_, rfl, hgone⟩, fun hvf => ⟨_, ?_, hreset⟩, fun hvf hport => ⟨_, ?_, hreset⟩⟩
    · simp [exec, execVfEnableClear, nextM, hvf]
    · simp [exec, execFunctionLevelReset, nextM, hvf, hport]
  case refine_2 =>
    obtain ⟨hfunctions, hwindows, hsram, hhbm, hthreads, hmode⟩ := endAllFunctions_ended s.m
    refine ⟨_, ?_, hfunctions, hwindows, hsram, hhbm, hthreads, hmode⟩
    simp [exec, execFunctionLevelReset, nextM, hport]
  case refine_3 =>
    obtain ⟨⟨hfunctions, hwindows, hsram, hhbm, hthreads, hmode⟩, hdown⟩ := linkGone_ended s.m
    refine ⟨_, ?_, ⟨hfunctions, hwindows, hsram, hhbm, hthreads, hmode⟩, hdown⟩
    simp [exec, execLinkDown, nextM, hpowered]
  case refine_4 =>
    exact ⟨_, execStagerEnumeration_split hpowered hsplit, rfl, odGet_odSet_same ..,
      ⟨rfl, rfl, rfl, rfl, rfl, rfl, rfl, rfl, rfl, rfl⟩⟩
  case refine_5 =>
    refine ⟨_, ?_, rfl⟩
    simp only [exec, execPcieBifurcationWrite, nextM, nvRow, hcheck]
    rfl

end Sys2Proof.Machine

/-! SUPPORT. Reads and writes of the BARs (R391–R395, R400): the part of a write that meets a register, the bytes of a table after it,
and the bits that a write of EventCause clears. -/

namespace Sys2Proof.Machine

/-! ## The part of a write that meets a register -/

section
variable {o base size : Nat} {data : List Byte}

theorem cutWrite_inside (hfrom : base ≤ o) (hto : o + data.length ≤ base + size) : cutWrite o data base size = (o - base, data) := by
  simp [cutWrite, Nat.max_eq_left hfrom, Nat.min_eq_left hto]

theorem cutWrite_outside (h : o + data.length ≤ base ∨ base + size ≤ o) : (cutWrite o data base size).2 = [] := by
  have hempty : min (o + data.length) (base + size) - max o base = 0 := by omega
  simp [cutWrite, hempty]

end

/-! ## Bytes of BAR0 -/

theorem writeBar0_eq (m : Mach) (o : Nat) (bytes : List Byte) : writeBar0 m o bytes = { m with bar0 := writeBytes m.bar0 o bytes } := by
  have h := foldl_sset_eq_writeBytes bytes m.bar0 o 0
  rw [writeBar0, h, Nat.add_zero]

theorem writeBar0_nil (m : Mach) (o : Nat) : writeBar0 m o [] = m := rfl

/-- Of BAR0, the bytes from `o` on read `bytes`, and every other byte reads as before. -/
theorem bar0Byte_writeBar0 (m : Mach) (o : Nat) (bytes : List Byte) :
    (∀ i, i < bytes.length → bar0Byte (writeBar0 m o bytes) (o + i) = bytes.getD i 0) ∧
      ∀ a, (a < o ∨ o + bytes.length ≤ a) → bar0Byte (writeBar0 m o bytes) a = bar0Byte m a := by
  rw [writeBar0_eq]
  refine ⟨fun i hi => ?_, fun a ha => readByte_writeBytes_out bytes m.bar0 o a ha⟩
  rw [List.getD_eq_getElem _ _ hi]
  exact readByte_writeBytes_in bytes m.bar0 o i hi

theorem bar0_engineKept (m : Mach) (b : SMap Byte) : EngineKept m { m with bar0 := b } :=
  ⟨rfl, rfl, rfl, rfl, rfl, rfl, rfl, rfl, rfl, rfl⟩

theorem writeBar0_engineKept (m : Mach) (o : Nat) (bytes : List Byte) : EngineKept m (writeBar0 m o bytes) := bar0_engineKept m _

/-! ## EventCause (R393) -/

/-- A byte at place `p` of a word sets the bits that it has there. -/
theorem testBit_byte_at (b : Byte) (p k : Nat) :
    (b.toNat * 2 ^ (8 * p)).testBit k = (decide (p = k / 8) && b.getLsbD (k % 8)) := by
  rw [Nat.testBit_mul_two_pow]
  by_cases hp : p = k / 8
  · have hfrom : 8 * p ≤ k := by omega
    have hbit : k - 8 * p = k % 8 := by omega
    simp [← hp, hfrom, hbit, BitVec.getLsbD]
  · by_cases hfrom : 8 * p ≤ k
    · have hhigh : 8 ≤ k - 8 * p := by omega
      have hzero : b.toNat.testBit (k - 8 * p) = false :=
        Nat.testBit_lt_two_pow (Nat.lt_of_lt_of_le b.isLt (Nat.pow_le_pow_right (by decide) hhigh))
      simp [hp, hzero]
    · simp [hp, hfrom]

/-- The word that bytes at their places make. -/
def bytesWord (l : List (Nat × Byte)) : Nat := l.foldl (fun n e => n ||| e.2.toNat * 2 ^ (8 * e.1)) 0

theorem testBit_bytesWord (l : List (Nat × Byte)) (k : Nat) :
    (bytesWord l).testBit k = l.any fun e => decide (e.1 = k / 8) && e.2.getLsbD (k % 8) := by
  suffices h : ∀ n : Nat, (l.foldl (fun n e => n ||| e.2.toNat * 2 ^ (8 * e.1)) n).testBit k =
      (n.testBit k || l.any fun e => decide (e.1 = k / 8) && e.2.getLsbD (k % 8)) by
    rw [bytesWord, h, Nat.zero_testBit, Bool.false_or]
  induction l with
  | nil => simp
  | cons e rest ih =>
    intro n
    rw [List.foldl_cons, ih, Nat.testBit_or, testBit_byte_at, List.any_cons, Bool.or_assoc]

/-- Of a write at `o` into a register of 8 bytes, the bits that it sets there. -/
theorem testBit_write (o : Nat) (data : List Byte) {k : Nat} (hk : k < 64) :
    (bytesWord (partBytes o data 8)).testBit k =
      (decide (o ≤ k / 8) && decide (k / 8 < o + data.length) && (data.getD (k / 8 - o) 0).getLsbD (k % 8)) := by
  rw [testBit_bytesWord, Bool.eq_iff_iff, List.any_eq_true]
  simp only [Bool.and_eq_true, decide_eq_true_eq]
  constructor
  · rintro ⟨⟨p, b⟩, hmem, rfl, hbit⟩
    obtain ⟨⟨c, i⟩, hi, heq⟩ := List.mem_map.mp (List.mem_filter.mp hmem).1
    obtain ⟨hplace, rfl⟩ := Prod.mk.inj heq
    obtain ⟨-, hlt, hbyte⟩ := List.mem_zipIdx hi
    have hlt' : i < data.length := by simpa using hlt
    refine ⟨⟨by omega, by omega⟩, ?_⟩
    have hindex : k / 8 - o = i := by omega
    rw [hindex, List.getD_eq_getElem _ _ hlt']
    simpa [hbyte] using hbit
  · rintro ⟨⟨hfrom, hto⟩, hbit⟩
    have hlt : k / 8 - o < data.length := by omega
    refine ⟨(k / 8, data[k / 8 - o]), List.mem_filter.mpr ⟨List.mem_map.mpr ⟨(data[k / 8 - o], k / 8 - o), ?_, ?_⟩, ?_⟩, rfl, ?_⟩
    · exact List.mem_zipIdx_iff_getElem?.mpr (List.getElem?_eq_getElem hlt)
    · simp only [Prod.mk.injEq, and_true]
      omega
    · simp only [decide_eq_true_eq]
      omega
    · rwa [List.getD_eq_getElem _ _ hlt] at hbit

theorem getLsbD_clearCause (m : Mach) (f o : Nat) (data : List Byte) {k : Nat} (hk : k < 64) :
    (getFn (clearCause m f o data) f).cause.getLsbD k = ((getFn m f).cause.getLsbD k && !(decide (o ≤ k / 8) &&
      decide (k / 8 < o + data.length) && (data.getD (k / 8 - o) 0).getLsbD (k % 8))) := by
  have hcause : (getFn (clearCause m f o data) f).cause = (getFn m f).cause &&& ~~~ BitVec.ofNat 64 (bytesWord (partBytes o data 8)) :=
    congrArg Fn.cause (getFn_setFn_same m f _)
  rw [hcause, ← testBit_write o data hk, BitVec.getLsbD_and, BitVec.getLsbD_not, BitVec.getLsbD_ofNat]
  simp [hk]

/-! ## The window table (R395) -/

/-- The places of a write within the window table are all its places. -/
theorem partBytes_inside {o size : Nat} {data : List Byte} (h : o + data.length ≤ size) :
    partBytes o data size = data.zipIdx.map fun e => (o + e.2, e.1) := by
  refine List.filter_eq_self.mpr fun e he => ?_
  obtain ⟨⟨b, i⟩, hi, rfl⟩ := List.mem_map.mp he
  have hlt : i < data.length := by simpa using (List.mem_zipIdx hi).2.1
  have hin : o + i < size := by omega
  simpa using hin

theorem windowEntry_eq (m : Mach) (i : Nat) : windowEntry m i = leNat (readBytes m.bar0 (0x30000 + 16 * i) 16) := by
  refine congrArg leNat (List.ext_getElem (by simp [readBytes_length]) fun k hk hk' => ?_)
  rw [readBytes_get]
  simp [bar0Byte, readByte]

/-- A byte written below leaves the bytes above. -/
theorem readBytes_writeByte_below (mem : List Host.Cell) (a n : Nat) (b : Byte) :
    readBytes (writeByte mem a b) (a + 1) n = readBytes mem (a + 1) n := by
  refine List.ext_getElem (by simp [readBytes_length]) fun k hk hk' => ?_
  rw [readBytes_get, readBytes_get, readByte_writeByte_ne _ _ (by omega)]

/-- An entry written is the number of its bytes. -/
theorem windowEntry_writeBar0 (m : Mach) (i : Nat) {data : List Byte} (hlen : data.length = 16) :
    windowEntry (writeBar0 m (0x30000 + 16 * i) data) i = leNat data := by
  rw [windowEntry_eq, writeBar0_eq, ← hlen, readBytes_writeBytes]

/-- An entry whose lowest byte is written again. -/
theorem windowEntry_writeBar0_low (m : Mach) (i : Nat) (b : Byte) :
    windowEntry (writeBar0 m (0x30000 + 16 * i) [b]) i = b.toNat + 256 * (windowEntry m i / 256) := by
  have hbytes (n : Mach) : windowEntry n i = (readByte n.bar0 (0x30000 + 16 * i)).toNat +
      256 * leNat (readBytes n.bar0 (0x30000 + 16 * i + 1) 15) := windowEntry_eq n i
  have hlow : readByte (writeBytes m.bar0 (0x30000 + 16 * i) [b]) (0x30000 + 16 * i) = b := readByte_writeByte_same ..
  have hhigh : readBytes (writeBytes m.bar0 (0x30000 + 16 * i) [b]) (0x30000 + 16 * i + 1) 15 =
      readBytes m.bar0 (0x30000 + 16 * i + 1) 15 := readBytes_writeByte_below ..
  rw [hbytes, hbytes, writeBar0_eq, hlow, hhigh]
  have hbyte := (readByte m.bar0 (0x30000 + 16 * i)).isLt
  omega

theorem foldl_sset_places (data : List Byte) (mem : List Host.Cell) (base o : Nat) :
    (data.zipIdx.map fun e => (o + e.2, e.1)).foldl (fun s e => sset 0 s (base + e.1) e.2) mem = writeBytes mem (base + o) data := by
  have h := foldl_sset_eq_writeBytes data mem (base + o) 0
  rw [List.foldl_map]
  simpa only [Nat.add_assoc, Nat.add_zero] using h

/-- The entries that the bytes of one entry touch: that one. -/
theorem eraseDups_entry (i : Nat) {data : List Byte} (hlen : data.length = 16) :
    ((data.zipIdx.map fun e => (16 * i + e.2, e.1)).map fun e => e.1 / 16).eraseDups = [i] := by
  have hall : ((data.zipIdx.map fun e => (16 * i + e.2, e.1)).map fun e => e.1 / 16) = List.replicate 16 i := by
    refine List.eq_replicate_iff.mpr ⟨by simp [hlen], fun k hk => ?_⟩
    obtain ⟨_, he, rfl⟩ := List.mem_map.mp hk
    obtain ⟨⟨b, j⟩, hj, rfl⟩ := List.mem_map.mp he
    have hlt : j < 16 := by simpa [hlen] using (List.mem_zipIdx hj).2.1
    show (16 * i + j) / 16 = i
    omega
  rw [hall]
  simp [List.replicate, List.eraseDups_cons]

/-- An entry written whole is then judged. -/
theorem writeWindowTable_entry (m : Mach) {i : Nat} (hi : 16 * i < 65536) {data : List Byte} (hlen : data.length = 16) :
    writeWindowTable m (16 * i) data = judgeEntry (writeBar0 m (0x30000 + 16 * i) data) i := by
  have hfits : 16 * i + data.length ≤ 65536 := by omega
  simp only [writeWindowTable, partBytes_inside hfits, foldl_sset_places, eraseDups_entry i hlen, writeBar0_eq, List.foldl_cons,
    List.foldl_nil]

/-- What judging an entry leaves of it, of the rest of BAR0 and of the engine. -/
theorem judgeEntry_judged (m : Mach) (i : Nat) :
    let v := windowEntry m i
    windowEntry (judgeEntry m i) i = (if natBits v 63 36 ≠ 0 ∨ natBits v 7 2 ≠ 0 ∨ natBits v 75 64 ≠ 0 then v / 2 * 2 else v) ∧
      (∀ o, (o < 0x30000 + 16 * i ∨ 0x30000 + 16 * i + 16 ≤ o) → bar0Byte (judgeEntry m i) o = bar0Byte m o) ∧
      EngineKept m (judgeEntry m i) := by
  intro v
  by_cases hbad : natBits v 63 36 ≠ 0 ∨ natBits v 7 2 ≠ 0 ∨ natBits v 75 64 ≠ 0
  · have hstored : judgeEntry m i = writeBar0 m (0x30000 + 16 * i) [BitVec.ofNat 8 (v / 2 * 2)] := if_pos hbad
    have hvalue : v / 2 * 2 % 2 ^ 8 + 256 * (v / 256) = v / 2 * 2 := by omega
    rw [hstored]
    refine ⟨?_, fun o ho => (bar0Byte_writeBar0 m _ _).2 o (by rw [List.length_singleton]; omega), writeBar0_engineKept ..⟩
    rw [windowEntry_writeBar0_low, if_pos hbad, BitVec.toNat_ofNat]
    exact hvalue
  · have hkept : judgeEntry m i = m := if_neg hbad
    rw [hkept]
    exact ⟨(if_neg hbad).symm, fun _ _ => rfl, .refl m⟩

/-! ## Writes of BAR0 (R391) -/

section
variable {o : Nat} {data : List Byte}

theorem writeCommon_outside (h1 : 4096 ≤ o) (h2 : 0x1018 ≤ o) (m : Mach) (f : Nat) : writeCommon m f o data = m := by
  simp [writeCommon, cutWrite_outside (.inr (show 0 + 4096 ≤ o by omega)), cutWrite_outside (.inr (show 0x1010 + 8 ≤ o by omega))]

/-- A write of the intake window meets no register. -/
theorem writeCommon_intake (hsome : 0 < data.length) (hto : o + data.length ≤ 4096) (m : Mach) (f : Nat) :
    writeCommon m f o data = writeIntake m f o data := by
  have hbytes : data.isEmpty = false := by
    cases data with
    | nil => cases hsome
    | cons => rfl
  simp only [writeCommon, cutWrite_inside (Nat.zero_le o) (show o + data.length ≤ 0 + 4096 by omega), hbytes, Nat.sub_zero,
    cutWrite_outside (size := 8) (.inl (show o + data.length ≤ 0x1010 by omega)), List.isEmpty_nil, Bool.false_eq_true, if_true, if_false]

theorem writeMsix_nil (m : Mach) (f : Nat) {part : Nat × List Byte} (h : part.2 = []) : writeMsix m f part = m := by
  simp [writeMsix, h]

end

/-- A write of the intake window is one to the slots. -/
theorem execBar0Write_intake {s : State} {f : Fin 16} {o : BitVec 20} {data : List Byte} (hup : portUp s.m = true)
    (hsome : 0 < data.length) (hto : o.toNat + data.length ≤ 4096) :
    exec (.bar0Write f o data) s = .next { s with m := writeIntake s.m f.val o.toNat data } := by
  have hcut {base size : Nat} (h : 4096 ≤ base) : (cutWrite o.toNat data base size).2 = [] := cutWrite_outside (.inl (by omega))
  have hmsix {n : Mach} {k base size : Nat} (h : 4096 ≤ base) : writeMsix n k (cutWrite o.toNat data base size) = n :=
    writeMsix_nil n k (hcut h)
  simp [exec, execBar0Write, nextM, hup, writeCommon_intake hsome hto, hcut, hmsix, writeBar0_nil]

/-- A write of the mailbox buffers is one to their bytes. -/
theorem execBar0Write_buffers {s : State} {o : BitVec 20} {data : List Byte} (hup : portUp s.m = true)
    (hfrom : 0x10000 ≤ o.toNat) (hto : o.toNat + data.length ≤ 0x30000) :
    exec (.bar0Write 0 o data) s = .next { s with m := writeBar0 s.m o.toNat data } := by
  have hbelow {base size : Nat} (h : base + size ≤ 0x10000) : (cutWrite o.toNat data base size).2 = [] :=
    cutWrite_outside (.inr (by omega))
  have habove {base size : Nat} (h : 0x30000 ≤ base) : (cutWrite o.toNat data base size).2 = [] := cutWrite_outside (.inl (by omega))
  have hbuffers : cutWrite o.toNat data 0x10000 0x20000 = (o.toNat - 0x10000, data) := cutWrite_inside hfrom hto
  have hplace : 0x10000 + (o.toNat - 0x10000) = o.toNat := by omega
  have hmsix (n : Mach) : writeMsix n 0 (cutWrite o.toNat data 0x40000 128) = n := writeMsix_nil n 0 (habove (by decide))
  simp [exec, execBar0Write, nextM, hup, writeCommon_outside (show 4096 ≤ o.toNat by omega) (by omega), hbelow, habove, hmsix, hbuffers,
    hplace]

/-! ## The fabric aperture (R400) -/

/-- The bytes of HBM that a read of the aperture answers while no sheet is being written. -/
def apertureBytes (m : Mach) (o k : Nat) : List Byte := (List.range k).map fun i => hbmByte m (m.port.apertureBase + o + i)

/-- The machine once the read has been served. -/
def apertureServed (m : Mach) (o k : Nat) : Mach := serveHbm { m with fresh := m.fresh + k + 1 } (m.port.apertureBase + o) k

theorem apertureServed_kept (m : Mach) (o k : Nat) : EngineKept m (apertureServed m o k) ∧ (apertureServed m o k).out = m.out := by
  have hserved : OnlyServed { m with fresh := m.fresh + k + 1 } (apertureServed m o k) := serveHbm_onlyServed ..
  refine ⟨?_, by rw [hserved.frame]⟩
  constructor <;> rw [hserved.frame]

theorem execBar2Read_enabled {s : State} {o : BitVec 32} {k : Nat} (hup : portUp s.m = true) (hsheet : s.m.sheetWriting = none)
    (henabled : odGet s.m 0x5400 4 ≠ 0) : exec (.bar2Read o k) s =
      .next { s with m := emit (apertureServed s.m o.toNat k) (.completion (some (apertureBytes s.m o.toNat k))) } := by
  have hrace (b : Nat) (p : Prop) : ¬ (b < sheetBase + 0 ∧ sheetBase ≤ b ∧ p) := by omega
  simp only [exec, execBar2Read, nextM, hup, hsheet, henabled, Bool.not_true, Bool.false_eq_true, Option.map_none, Option.getD_none,
    hrace, if_false, apertureServed, apertureBytes]

/-! ## HtcNow (R393) -/

/-- HtcNow as the PCIe port island's copy has it. -/
def portHtc (m : Mach) : Nat := copyHtc m (islandState m .pcie).copy

/-- Its high half latched. -/
def htcLatched (m : Mach) : Mach := { m with port := { m.port with htcLatch := hi32 (portHtc m) } }

theorem execHtcNowRead_latches {s : State} {f : Fin 16} (hup : portUp s.m = true) : exec (.htcNowRead f false 4) s =
    .next { s with m := emit (htcLatched s.m) (.completion (some (leBytes 4 (portHtc s.m)))) } := by
  simp [exec, execHtcNowRead, nextM, hup, htcLatched, portHtc, leBytes]

/-! ## The commands -/

/-- Settles O52: bit by bit EventCause is `getLsbD_clearCause`, an entry of the window table `judgeEntry_judged`, a read of the aperture
`execBar2Read_enabled`, and a write of BAR0 `execBar0Write_intake` or `execBar0Write_buffers`. -/
theorem hostRegisters : Obligations.HostRegisters := by
  intro s f hup
  refine ⟨fun o data => ?cause, fun k data hlen hbase => ?aperture, fun i hi data hlen => ?table, ?htcLow, ?htcHigh,
    fun o k hsheet => ?read, fun o data => ?write, fun o data hsome => ?bar0, fun v att hserves => ?mailbox⟩
  case cause =>
    refine ⟨_, ?_, fun k hk => getLsbD_clearCause s.m f.val o.val data hk, fun g hg => getFn_setFn_ne _ _ hg,
      (setFn_onlyHostSide ..).engineKept⟩
    simp only [exec, execEventCauseWrite, nextM, hup, if_true]
  case aperture =>
    have hplace : (0x01E000000000 + k * 2 ^ 32 - 0x01E000000000) / 2 ^ 32 = k := by omega
    refine ⟨fun hk => ⟨_, ?_, rfl⟩, fun hk => ⟨_, ?_, rfl⟩⟩
    · simp [exec, execApertureBaseWrite, nextM, hup, setAperture, hlen, hbase, hk]
    · simp [exec, execApertureBaseWrite, nextM, hup, setAperture, hlen, hbase, Nat.not_lt.mpr hk]
  case table =>
    have hentry := windowEntry_writeBar0 s.m i hlen
    obtain ⟨hjudged, hothers, hkept⟩ := judgeEntry_judged (writeBar0 s.m (0x30000 + 16 * i) data) i
    rw [hentry] at hjudged
    refine ⟨_, ?_, hjudged, fun o ho => (hothers o ho).trans ((bar0Byte_writeBar0 ..).2 o (by omega)),
      (writeBar0_engineKept ..).trans hkept⟩
    simp only [exec, execWindowTableWrite, nextM, hup, if_true, writeWindowTable_entry s.m hi hlen]
  case htcLow =>
    refine ⟨⟨_, ?_, rfl⟩, _, execHtcNowRead_latches hup, rfl, rfl, ⟨rfl, rfl, rfl, rfl, rfl, rfl, rfl, rfl, rfl, rfl⟩⟩
    simp [exec, execHtcNowRead, nextM, hup, List.take_of_length_le, leBytes_length]
  case htcHigh =>
    refine ⟨_, ?_, rfl⟩
    simp [exec, execHtcNowRead, nextM, hup, List.take_of_length_le, leBytes_length]
  case read =>
    by_cases henabled : odGet s.m 0x5400 4 = 0
    · refine ⟨_, ?_, (emit_onlyHostSide ..).engineKept, fun _ => rfl, fun h => absurd henabled h⟩
      simp only [exec, execBar2Read, nextM, hup, henabled, Bool.not_true, Bool.false_eq_true, if_true, if_false]
    · obtain ⟨hkept, hout⟩ := apertureServed_kept s.m o.toNat k
      refine ⟨_, execBar2Read_enabled hup hsheet henabled, hkept.trans (emit_onlyHostSide ..).engineKept,
        fun h => absurd h henabled, fun _ => ⟨_, congrArg (· ++ _) hout, by simp [apertureBytes], fun i hi => ?_⟩⟩
      simp [apertureBytes, hi]
  case write =>
    refine ⟨_, ?_, rfl⟩
    simp only [exec, execBar2Write, nextM, hup, if_true]
  case bar0 =>
    refine ⟨fun hto => ⟨_, execBar0Write_intake hup hsome hto, rfl⟩, fun hfrom hto => ⟨_, execBar0Write_buffers hup hfrom hto, ?_⟩⟩
    obtain ⟨hwritten, hothers⟩ := bar0Byte_writeBar0 s.m o.toNat data
    exact ⟨hwritten, hothers, writeBar0_engineKept .., rfl⟩
  case mailbox =>
    refine ⟨fun hfrom hto hfree => ⟨_, ?_, rfl⟩, fun hbusy => ⟨_, ?_, rfl⟩⟩
    · have hsize : ¬ (v.toNat % 2 ^ 17 = 0 ∨ 65536 < v.toNat % 2 ^ 17) := by omega
      simp only [exec, execMailboxDoorbell, nextM, hup, ringDoorbell, hserves, hfree, hsize, Bool.not_true, Bool.false_eq_true,
        false_or, if_true, if_false]
    · simp [exec, execMailboxDoorbell, nextM, hup, ringDoorbell, hserves, hbusy]

end Sys2Proof.Machine

/-! SUPPORT. KOA sessions and requests (R394, R415–R422). That a session's number is the next one, that a plain reply carries the
message's seq, and that a session closes exactly when its time has passed are the model's reading (assumptions 84, 86 and 123). -/

namespace Sys2Proof.Machine

/-! ## A message reaches its kind (R394, R415) -/

theorem inRecovery_of_booted {m : Mach} (hb : m.sec.booted.getLsbD 0 = true) : inRecovery m = false := by simp [inRecovery, hb]

theorem koaServes_of_booted {m : Mach} (hp : powered m = true) (hb : m.sec.booted.getLsbD 0 = true) : koaServes m = true := by
  simp [koaServes, hp, hb]

/-- A whole message to a steward that runs goes to session 0 or to the session it names. -/
theorem koaRow_of_booted {m : Mach} {src : KoaSrc} {msg : List Byte} {kind : Nat} (att : Attach) (hp : powered m = true)
    (hb : m.sec.booted.getLsbD 0 = true) (hok : headerOk msg = true) (hkind : field msg 3 1 = kind)
    (hlen : src = .mailbox ∨ msg.length ≤ 1232) :
    koaRow m kind src msg att = if field msg 4 4 = 0 then plainMessage m src msg att else sessionMessage m src msg att := by
  have hshort : (src != .mailbox && decide (1232 < msg.length)) = false := by
    rcases hlen with rfl | hlen
    · rfl
    · simp [hlen]
  rw [koaRow, if_pos hkind, koaMessage]
  simp [koaServes_of_booted hp hb, inRecovery_of_booted hb, hok, hshort]

/-! ## Messages laid out (R415) -/

theorem leNat_lt (l : List Byte) : leNat l < 256 ^ l.length := by
  induction l with
  | nil => simp [leNat]
  | cons b l ih =>
    have hb := b.isLt
    simp only [leNat, List.length_cons, Nat.pow_succ]
    omega

theorem field_lt (bs : List Byte) (o n : Nat) : field bs o n < 256 ^ n :=
  (leNat_lt _).trans_le (Nat.pow_le_pow_right (by omega) (by simp))

theorem plainMsg_kind (kind seq : Nat) (body : List Byte) : field (plainMsg kind seq body) 3 1 = kind % 256 := by
  simp [plainMsg, koaHeader, field, leNat]

theorem plainMsg_seq {seq : Nat} (h : seq < 256 ^ 8) (kind : Nat) (body : List Byte) : field (plainMsg kind seq body) 8 8 = seq := by
  have hat := field_leBytes ([0x4B, 0x4F, 1, BitVec.ofNat 8 kind] ++ leBytes 4 0)
    (leBytes 4 body.length ++ List.replicate 12 0 ++ body) 8 seq
  rw [show ([0x4B, 0x4F, 1, BitVec.ofNat 8 kind] ++ leBytes 4 0 : List Byte).length = 8 from by simp [leBytes_length],
    Nat.mod_eq_of_lt h] at hat
  simpa only [plainMsg, koaHeader, List.append_assoc] using hat

/-! ## HELLO (R416, R417) -/

section
variable {m : Mach} {seq : Nat} {flags : Byte} {body : List Byte} (k : Fin 2)
  (hflood : (helloFlood m).1 = false) (hlength : body.length = 129) (hpoint : byteAt body 0 = 4)
include hflood hlength hpoint

theorem takeHelloMsg_offCurve (hcurve : Config.onCurve (body.take 97) = false) :
    takeHelloMsg m (.port k) seq flags body = errorTo (helloFlood m).2 (.port k) seq sessionErr := by
  simp only [takeHelloMsg, hflood, hlength, hpoint, hcurve]
  rfl

/-- A HELLO on a UDP port that is let in opens a session with the next number, and its reply carries the HELLO's seq. -/
theorem takeHelloMsg_opens (hcurve : Config.onCurve (body.take 97) = true) (hserves : m.sec.serving.getLsbD 0 = true)
    (hroom : (m.sessions.filter fun y => !y.overMailbox).length < odGet m 0x1100 6) (hseq : seq < 256 ^ 8) :
    EngineKept m (takeHelloMsg m (.port k) seq flags body) ∧ ∃ x reply,
      (takeHelloMsg m (.port k) seq flags body).sessions = m.sessions ++ [x] ∧ x.num = m.sec.nextSession ∧ x.priv = none ∧
        x.overMailbox = false ∧ x.rxNext = 2 ∧
        (takeHelloMsg m (.port k) seq flags body).out = m.out ++ [.koa k.val reply] ∧ field reply 3 1 = 2 ∧ field reply 8 8 = seq := by
  have hserves' : (helloFlood m).2.sec.serving.getLsbD 0 = true := hserves
  have hroom' : decide (odGet (helloFlood m).2 0x1100 6 ≤ ((helloFlood m).2.sessions.filter fun s => !s.overMailbox).length) = false :=
    decide_eq_false (Nat.not_le.mpr hroom)
  simp only [takeHelloMsg, hflood, hlength, hpoint, hcurve, hserves', hroom']
  refine ⟨⟨rfl, rfl, rfl, rfl, rfl, rfl, rfl, rfl, rfl, rfl⟩, _, _, rfl, rfl, rfl, rfl, rfl, rfl, ?_, ?_⟩
  · exact plainMsg_kind ..
  · exact plainMsg_seq hseq ..

end

/-! ## AUTH and CLOSE (R418–R420) -/

/-- A session's message on a UDP port that cannot be opened has no effect but its count. -/
theorem sessionMessage_dropped {m : Mach} {k : Fin 2} {msg : List Byte} {att : Attach} {x : Session}
    (hfind : m.sessions.find? (fun s => s.num == field msg 4 4) = some x)
    (hopen : Config.gcmOpen (x.c2s.take 32) (gcmNonce (x.c2s.drop 32) (field msg 8 8)) (msg.take 32) (msg.drop 32) = none) :
    sessionMessage m (.port k) msg att = count m 0x1100 9 1 := by
  simp only [sessionMessage, hfind, hopen, reject]

theorem sessionMessage_auth {m : Mach} {src : KoaSrc} {msg body : List Byte} {att : Attach} {x : Session}
    (hfind : m.sessions.find? (fun s => s.num == field msg 4 4) = some x) (hreserved : headerReserved msg = false)
    (hopen : Config.gcmOpen (x.c2s.take 32) (gcmNonce (x.c2s.drop 32) (field msg 8 8)) (msg.take 32) (msg.drop 32) = some body)
    (hkind : field msg 3 1 = 3) (hseq : field msg 8 8 = 1) (hpriv : x.priv = none) :
    sessionMessage m src msg att = takeAuth m src x 1 body := by
  rw [hseq] at hopen
  simp [sessionMessage, hfind, hopen, hreserved, hkind, hseq, hpriv]

theorem sessionMessage_close {m : Mach} {src : KoaSrc} {msg body : List Byte} {att : Attach} {x : Session}
    (hfind : m.sessions.find? (fun s => s.num == field msg 4 4) = some x) (hreserved : headerReserved msg = false)
    (hopen : Config.gcmOpen (x.c2s.take 32) (gcmNonce (x.c2s.drop 32) (field msg 8 8)) (msg.take 32) (msg.drop 32) = some body)
    (hkind : field msg 3 1 = 8) : sessionMessage m src msg att = takeClose m src x (field msg 8 8) := by
  simp [sessionMessage, hfind, hopen, hreserved, hkind]

theorem takeClose_port {m : Mach} {k : Fin 2} {x : Session} {seq : Nat} (h : x.rxNext ≤ seq) :
    takeClose m (.port k) x seq = closeSessions m fun y => y.num == x.num := by
  rw [takeClose, if_neg (by omega)]
  rfl

theorem closeSessions_engineKept (m : Mach) (p : Session → Bool) : EngineKept m (closeSessions m p) :=
  ⟨rfl, rfl, rfl, rfl, rfl, rfl, rfl, rfl, rfl, rfl⟩

/-- An AUTH of another length than 148 bytes ends the session. -/
theorem takeAuth_badLength {m : Mach} {src : KoaSrc} {x : Session} {seq : Nat} {body : List Byte} (h : body.length ≠ 148) :
    takeAuth m src x seq body = errorTo (closeSessions m fun y => y.num == x.num) src seq authErr := by
  simp [takeAuth, h]

/-- An AUTH signed with an enrolled key gives the session the privilege it asks for, and that key. -/
theorem takeAuth_granted {m : Mach} {k : Fin 2} {x : Session} {seq : Nat} {body : List Byte} {e : KeyEntry} (hx : x ∈ m.sessions)
    (hkeys : m.sec.keys = [e]) (hlength : body.length = 148) (hzero : field body 49 3 = 0) (hid : e.keyId = be384 body)
    (hlevel : field body 48 1 ≤ e.level)
    (hsigned : Config.ecdsaVerify (be384 body) (Config.sha384 (bytes384 x.hash ++ leBytes 1 (field body 48 1)))
      (be384 (body.drop 52)) (be384 (body.drop 100)) = true) :
    ∃ y ∈ (takeAuth m (.port k) x seq body).sessions, y.num = x.num ∧ y.priv = some (field body 48 1) ∧ y.keyId = be384 body := by
  have hkey : keyLevel m (be384 body) = some (e.level, e.flags.getLsbD 0) := by simp [keyLevel, hkeys, hid]
  unfold takeAuth
  extract_lets id p good test s1 m1 sec1 m2
  have hgood : good = true := by simp [good, id, p, hkey, hlength, hzero, hlevel, hsigned]
  have hsessions : m2.sessions = m1.sessions := by
    simp only [m2]
    split <;> rfl
  rw [hgood, if_neg (by simp)]
  have hs1 : s1 ∈ m2.sessions := by
    rw [hsessions]
    exact List.mem_map.mpr ⟨x, hx, if_pos rfl⟩
  exact ⟨{ s1 with txNext := s1.txNext + 1 }, List.mem_map.mpr ⟨s1, hs1, if_pos rfl⟩, rfl, rfl, rfl⟩

/-! ## A REQUEST of READs on the mailbox (R394, R422) -/

theorem msixGenerate_frame (m : Mach) (f v : Nat) :
    msixGenerate m f v = { m with fns := (msixGenerate m f v).fns, out := (msixGenerate m f v).out } := by
  unfold msixGenerate
  extract_lets fn
  split
  · rfl
  · split <;> rfl

/-- A message put in the mailbox: it is not busy, the message stands there with its length, and neither objects nor sessions
have changed. -/
theorem mailboxPut_holds (m : Mach) (msg : List Byte) :
    (mailboxPut m msg).port.mailboxBusy = false ∧ (mailboxPut m msg).port.mailboxReady = true ∧
      (mailboxPut m msg).port.mailboxLength = msg.length ∧
      (∀ i, i < msg.length → bar0Byte (mailboxPut m msg) (0x20000 + i) = msg.getD i 0) ∧
      (mailboxPut m msg).od = m.od ∧ (mailboxPut m msg).sessions = m.sessions ∧ EngineKept m (mailboxPut m msg) := by
  have hbytes := (bar0Byte_writeBar0 m 0x20000 msg).1
  have hkept := (writeBar0_engineKept m 0x20000 msg)
  rw [writeBar0_eq] at hbytes hkept
  rw [mailboxPut, writeBar0_eq, msixGenerate_frame]
  exact ⟨rfl, rfl, rfl, hbytes, rfl, rfl, ⟨rfl, rfl, rfl, rfl, rfl, rfl, rfl, rfl, rfl, rfl⟩⟩

theorem answerWith_zero {m : Mach} {v : Via} {r : Reply} {hit : Op → Bool} {ops : List Op} (hparse : parseRequest r.body = some ops) :
    answerWith m v (some r) hit 0 0 = sendResponse m v r.src r.seq (responseBody m r.src v ops fun _ => 0) := by
  simp only [answerWith, hparse]
  congr 2
  funext i
  split
  · exact ite_self 0
  · rfl

section
variable {ops : List Op} (hreads : ∀ o ∈ ops, o.op = 1)
include hreads

theorem writeCodes_reads (m : Mach) (v : Via) : (writeCodes m v ops).any (· != 0) = false := by
  refine List.any_eq_false.mpr fun c hc => ?_
  obtain ⟨e, he, rfl⟩ := List.mem_map.mp hc
  have hop : e.1.op = 1 := hreads _ (List.fst_mem_of_mem_zipIdx he)
  simp [hop]

theorem find?_isCommand_reads : ops.find? isCommand = none :=
  List.find?_eq_none.mpr fun o ho => by simp [isCommand, hreads o ho]

/-- A REQUEST that only reads answers at once what its READs find. -/
theorem runRequest_reads {m : Mach} {src : KoaSrc} {v : Via} {seq : Nat} {body : List Byte} {att : Attach}
    (hparse : parseRequest body = some ops) :
    runRequest m src v seq body att = sendResponse m v src seq (responseBody m src v ops fun _ => 0) := by
  have hmasks : ops.foldl (fun m o => if o.op = 4 ∧ !o.bad then subscribe m v (w64 (leNat o.data)) else m) m = m :=
    foldl_eq_self (fun o ho m => if_neg (by simp [hreads o ho])) m
  have hwrites : ops.filter (fun o => o.op == 2 && !isCommand o) = [] :=
    List.filter_eq_nil_iff.mpr fun o ho => by simp [hreads o ho]
  simp only [runRequest, hparse, hmasks, writeCodes_reads hreads, hwrites, List.foldl_nil, List.filterMap_nil, List.isEmpty_nil,
    finishRequest, find?_isCommand_reads hreads, if_true]
  exact answerWith_zero hparse

end

/-! ## The statement -/

theorem plainMessage_hello {m : Mach} {src : KoaSrc} {msg : List Byte} {att : Attach} (hb : m.sec.booted.getLsbD 0 = true)
    (hreserved : headerReserved msg = false) (hkind : field msg 3 1 = 1) :
    plainMessage m src msg att = takeHelloMsg m src (field msg 8 8) (byteAt msg 20) (msg.drop 32) := by
  simp [plainMessage, hkind, inRecovery_of_booted hb, hreserved]

theorem plainMessage_request {m : Mach} {msg : List Byte} {att : Attach} (hreserved : headerReserved msg = false)
    (hkind : field msg 3 1 = 5) : plainMessage m .mailbox msg att = runRequest m .mailbox .mailbox (field msg 8 8) (msg.drop 32) att := by
  simp [plainMessage, hkind, hreserved]

theorem errorTo_port (m : Mach) (k : Fin 2) (seq code : Nat) :
    errorTo m (.port k) seq code = emit m (.koa k.val (plainMsg 9 seq (leBytes 4 code))) := rfl

theorem helloFlood_engineKept (m : Mach) : EngineKept m (helloFlood m).2 := ⟨rfl, rfl, rfl, rfl, rfl, rfl, rfl, rfl, rfl, rfl⟩

section
variable {s : State} {k : Fin 2} {msg : List Byte} (hp : powered s.m = true) (hb : s.m.sec.booted.getLsbD 0 = true)
  (hok : headerOk msg = true) (hreserved : headerReserved msg = false)
include hp hb hok hreserved

theorem execKoaHello_port (hkind : field msg 3 1 = 1) (hplain : field msg 4 4 = 0) (hlen : msg.length ≤ 1232) :
    execKoaHello (.port k) msg s =
      .next { s with m := takeHelloMsg s.m (.port k) (field msg 8 8) (byteAt msg 20) (msg.drop 32) } := by
  rw [execKoaHello, nextM, koaRow_of_booted .none hp hb hok hkind (.inr hlen), if_pos hplain, plainMessage_hello hb hreserved hkind]

theorem execKoaRequest_mailbox {att : Attach} {ops : List Op} (hkind : field msg 3 1 = 5) (hplain : field msg 4 4 = 0)
    (hparse : parseRequest (msg.drop 32) = some ops) (hreads : ∀ o ∈ ops, o.op = 1) :
    execKoaRequest .mailbox msg att s = .next { s with
      m := mailboxPut s.m (plainMsg 6 (field msg 8 8) (responseBody s.m .mailbox .mailbox ops fun _ => 0)) } := by
  rw [execKoaRequest, nextM, koaRow_of_booted att hp hb hok hkind (.inl rfl), if_pos hplain, plainMessage_request hreserved hkind,
    runRequest_reads hreads hparse]
  rfl

omit hreserved

theorem execKoaAuth_port (hkind : field msg 3 1 = 3) (hsession : field msg 4 4 ≠ 0) (hlen : msg.length ≤ 1232) :
    execKoaAuth (.port k) msg s = .next { s with m := sessionMessage s.m (.port k) msg .none } := by
  rw [execKoaAuth, nextM, koaRow_of_booted .none hp hb hok hkind (.inr hlen), if_neg hsession]

theorem execKoaClose_port (hkind : field msg 3 1 = 8) (hsession : field msg 4 4 ≠ 0) (hlen : msg.length ≤ 1232) :
    execKoaClose (.port k) msg s = .next { s with m := sessionMessage s.m (.port k) msg .none } := by
  rw [execKoaClose, nextM, koaRow_of_booted .none hp hb hok hkind (.inr hlen), if_neg hsession]

end

/-- Settles O54: a message reaches its kind (`koaRow_of_booted`), and each kind does what its lemma says. -/
theorem sessionsAndRequests : Obligations.SessionsAndRequests := by
  intro s k msg att hp hb hok hreserved
  refine ⟨fun hkind hplain hlength hpoint hflood hserves hroom => ?hello, fun x hfind hsession hlen =>
    ⟨fun hkind hseq hpriv => ?auth, fun hkind hseq => ?close⟩, fun ops hkind hplain hparse hreads => ?request,
    fun id => ⟨⟨_, rfl, ?idle⟩, ⟨_, rfl, ?unauthenticated⟩⟩⟩
  case hello =>
    have hbody : (msg.drop 32).length = 129 := by simp [hlength]
    refine ⟨_, execKoaHello_port hp hb hok hreserved hkind hplain (by omega), ?_⟩
    cases hcurve : Config.onCurve ((msg.drop 32).take 97) with
    | true =>
      obtain ⟨hkept, hopened⟩ := takeHelloMsg_opens k hflood hbody hpoint hcurve hserves hroom (flags := byteAt msg 20) (field_lt msg 8 8)
      exact ⟨hkept, fun _ => hopened, nofun⟩
    | false =>
      rw [takeHelloMsg_offCurve k hflood hbody hpoint hcurve, errorTo_port]
      exact ⟨(helloFlood_engineKept s.m).trans (emit_onlyHostSide ..).engineKept, nofun, fun _ => ⟨rfl, rfl⟩⟩
  case auth =>
    refine ⟨_, execKoaAuth_port hp hb hok hkind hsession hlen, ?_⟩
    dsimp only
    cases hopen : Config.gcmOpen (x.c2s.take 32) (gcmNonce (x.c2s.drop 32) (field msg 8 8)) (msg.take 32) (msg.drop 32) with
    | none => exact sessionMessage_dropped hfind hopen
    | some body =>
      rw [sessionMessage_auth hfind hreserved hopen hkind hseq hpriv]
      refine ⟨fun e hkeys hgranted => ?_, fun hbad => ?_⟩
      · obtain ⟨hlength, hzero, -, hid, hlevel, hsigned⟩ := hgranted
        exact takeAuth_granted (List.mem_of_find?_eq_some hfind) hkeys hlength hzero hid hlevel hsigned
      · rw [takeAuth_badLength hbad, hseq, errorTo_port]
        exact ⟨⟨rfl, (closeSessions_engineKept ..).trans (emit_onlyHostSide ..).engineKept⟩, rfl⟩
  case close =>
    refine ⟨_, execKoaClose_port hp hb hok hkind hsession hlen, ?_⟩
    dsimp only
    cases hopen : Config.gcmOpen (x.c2s.take 32) (gcmNonce (x.c2s.drop 32) (field msg 8 8)) (msg.take 32) (msg.drop 32) with
    | none => exact sessionMessage_dropped hfind hopen
    | some body =>
      rw [sessionMessage_close hfind hreserved hopen hkind, takeClose_port hseq]
      exact ⟨⟨rfl, closeSessions_engineKept ..⟩, rfl⟩
  case request => exact ⟨_, execKoaRequest_mailbox hp hb hok hreserved hkind hplain hparse hreads, mailboxPut_holds ..⟩
  all_goals
    simp only [sessionExpires]
    split <;> rfl

end Sys2Proof.Machine

/-! SUPPORT. Objects read, written, described and subscribed one at a time, stored writes, and the dictionary's traffic inside the
module (R405, R409, R410, R422–R424, R431, R438). That a remote READ takes the lowest free tag and that RestoreDefaults stores what
`restoreItems` lists are the model's reading (assumptions 90 and 65). -/

namespace Sys2Proof.Machine

/-! ## READ and DESCRIBE (R423) -/

theorem lookObj_of_booted {m : Mach} (hrecovery : inRecovery m = false) (idx sub : Nat) : lookObj m idx sub = findObj idx sub := by
  simp [lookObj, hrecovery]

theorem readObject_readable {m : Mach} {v : Via} {idx sub offset length p : Nat} {test : Bool} {o : ObjInfo}
    (hrecovery : inRecovery m = false) (hfind : findObj idx sub = .inl o) (hreadable : o.acc ≠ 2)
    (hrights : rightsOf m v = some (p, test)) (hpriv : o.acc = 0 → o.priv ≤ p) (hoffset : offset = 0 ∨ o.ty = 12 ∨ o.ty = 13) :
    readObject m v idx sub offset length = (0, (objBytes m v o).length, ((objBytes m v o).drop offset).take length) := by
  have hallowed : ¬p < if o.acc = 0 then o.priv else 0 := by split <;> simp_all
  have hat : ¬((!(o.ty == 12 || o.ty == 13)) = true ∧ offset ≠ 0) := by rcases hoffset with h | h | h <;> simp [h]
  simp only [readObject, lookObj_of_booted hrecovery, hfind, hreadable, hrights, Option.isNone_some, Option.map_some,
    Option.getD_some, hallowed, hat, if_false, or_false, Bool.false_eq_true]

theorem describeObject_writable {m : Mach} {idx sub : Nat} {o : ObjInfo} (hrecovery : inRecovery m = false)
    (hfind : findObj idx sub = .inl o) (hwritable : o.acc = 1) (hshort : o.len < 2 ^ 32) :
    describeObject m idx sub = (0, leBytes 1 o.ty ++ [1] ++ leBytes 1 o.cls ++ [0] ++ leBytes 1 o.priv ++
      leBytes 1 (if o.nv then 1 else 0) ++ [0, 0] ++ leBytes 4 o.len ++ [0, 0, 0, 0]) := by
  simp only [describeObject, lookObj_of_booted hrecovery, hfind, hwritable, hshort]
  rfl

/-! ## Values accepted and stored (R409, R410, R424) -/

/-- From `a` to `n` only bundles, the keeping of secrets and sessions have changed. -/
structure OnlyConfigured (a n : Mach) : Prop where
  frame : n = { a with bundles := n.bundles, sec := n.sec, sessions := n.sessions }

theorem OnlyConfigured.trans {a m n : Mach} (h : OnlyConfigured a m) (h' : OnlyConfigured m n) : OnlyConfigured a n :=
  ⟨h'.frame.trans (by rw [h.frame])⟩

theorem OnlyConfigured.ite {p : Prop} [Decidable p] {a m n : Mach} (h : OnlyConfigured a m) (h' : OnlyConfigured a n) :
    OnlyConfigured a (if p then m else n) := by
  split
  · exact h
  · exact h'

theorem extendMeas_onlyConfigured (m : Mach) (k : Fin 6) (d : BitVec 384) : OnlyConfigured m (extendMeas m k d) := ⟨rfl⟩

theorem closeSessions_onlyConfigured (m : Mach) (p : Session → Bool) : OnlyConfigured m (closeSessions m p) := ⟨rfl⟩

theorem rematchBundles_onlyConfigured (m : Mach) : OnlyConfigured m (rematchBundles m) :=
  List.foldlRecOn (motive := OnlyConfigured m) _ _ ⟨rfl⟩ fun _ hn _ _ => hn.trans (.ite ⟨rfl⟩ ⟨rfl⟩)

/-- What follows from a changed value leaves objects and engine. -/
theorem objEffect_onlyConfigured (m : Mach) (key old : Nat) : OnlyConfigured m (objEffect m key old) := by
  have hgated (n : Mach) : OnlyConfigured n (if odGet n 0x7100 4 = 0 then closeSessions n fun s => s.priv == some 3 else n) :=
    .ite (closeSessions_onlyConfigured ..) ⟨rfl⟩
  unfold objEffect
  refine .ite (rematchBundles_onlyConfigured m) (.ite (.ite ⟨rfl⟩ (extendMeas_onlyConfigured ..)) (.ite ?_ ⟨rfl⟩))
  exact .trans (.ite ⟨rfl⟩ (extendMeas_onlyConfigured ..)) (hgated _)

theorem objEffect_objectSet {a m : Mach} {idx sub v : Nat} (h : ObjectSet a m idx sub v) (key old : Nat) :
    ObjectSet a (objEffect m key old) idx sub v := by
  rw [(objEffect_onlyConfigured m key old).frame]
  exact ⟨h.value, h.engine.trans ⟨rfl, rfl, rfl, rfl, rfl, rfl, rfl, rfl, rfl, rfl⟩⟩

theorem accept_objectSet (m : Mach) (o : ObjInfo) (v : Nat) : ObjectSet m (accept m o v) o.idx o.sub v := by
  have hset (waits : List (Nat × Nat)) : ObjectSet m (odSet { m with waitingB := waits } o.idx o.sub v) o.idx o.sub v :=
    ⟨odGet_odSet_same .., ⟨rfl, rfl, rfl, rfl, rfl, rfl, rfl, rfl, rfl, rfl⟩⟩
  unfold accept
  extract_lets key old waits m1
  unfold m1
  split
  · exact objEffect_objectSet (hset _) ..
  · exact objEffect_objectSet (hset m.waitingB) ..

theorem applyWrite_stores {m : Mach} {idx sub : Nat} {o : ObjInfo} (hplain : ownRow (objKey idx sub) = false) (hsub : sub < 256)
    (hfind : findObj idx sub = .inl o) (data : List Byte) : applyWrite m idx sub data = accept m o (leNat data) := by
  have hkey : objKey idx sub / 256 = idx ∧ objKey idx sub % 256 = sub := by simp only [objKey]; omega
  have hintake : ¬(0x3110 ≤ idx ∧ idx ≤ 0x311F ∧ sub = 1) := by
    rintro ⟨hlo, hhi, rfl⟩
    simp [ownRow, hkey.1, hkey.2, hlo, hhi] at hplain
  simp only [applyWrite, hfind, hintake, if_false]

theorem storedValues_single {m : Mach} {w : NvWrite} {idx sub x : Nat} {o : ObjInfo} (hkeys : w.keys = none)
    (hitems : w.items = [(objKey idx sub, x)]) (hsub : sub < 256) (hfind : findObj idx sub = .inl o) :
    storedValues m w = accept m o x := by
  have hkey : objKey idx sub / 256 = idx ∧ objKey idx sub % 256 = sub := by simp only [objKey]; omega
  simp only [storedValues, hkeys, hitems, List.foldl_cons, List.foldl_nil, hkey, hfind]

theorem accept_nvQueue (m : Mach) (o : ObjInfo) (v : Nat) : (accept m o v).nvQueue = m.nvQueue := by
  unfold accept
  extract_lets key old waits m1
  rw [(objEffect_onlyConfigured _ key old).frame]
  unfold m1
  split <;> rfl

/-! ## After a stored write (R387, R431) -/

theorem odGet_count_ne (m : Mach) {idx sub i k : Nat} (h : objKey idx sub ≠ objKey i k) (n : Nat) :
    odGet (count m i k n) idx sub = odGet m idx sub := odGet_odSet_ne m h _

theorem odGet_fnEnded (m : Mach) (f idx sub : Nat) : odGet (fnEnded m f) idx sub = odGet m idx sub := rfl

section
variable {idx sub : Nat} (hserved : objKey idx sub ≠ objKey 0x6180 14) (hended : objKey idx sub ≠ objKey 0x5401 7)
include hserved

theorem odGet_dropContext (m : Mach) (c : Nat) : odGet (dropContext m c) idx sub = odGet m idx sub := by
  rw [dropContext, endChain_eq]
  exact odGet_count_ne _ hserved 1

theorem odGet_foldl_dropContext (l : List Nat) (m : Mach) : odGet (l.foldl dropContext m) idx sub = odGet m idx sub :=
  List.foldlRecOn (motive := fun n => odGet n idx sub = odGet m idx sub) l dropContext rfl fun n hn c _ =>
    (odGet_dropContext hserved n c).trans hn

include hended

theorem odGet_endFunction (m : Mach) (f : Nat) : odGet (endFunction m f) idx sub = odGet m idx sub := by
  cases hup : (getFn m f).up
  · rw [endFunction_of_down hup]
  · rw [endFunction_of_up hup]
    rw [odGet_count_ne _ hended, odGet_count_ne _ hserved, odGet_foldl_dropContext hserved, odGet_fnEnded]

theorem odGet_endAllFunctions (m : Mach) : odGet (endAllFunctions m) idx sub = odGet m idx sub := by
  have hfold : odGet ((List.range 16).foldl (fun m f => resetMsix (endFunction m f) f) m) idx sub = odGet m idx sub :=
    List.foldlRecOn (motive := fun n => odGet n idx sub = odGet m idx sub) _ _ rfl
      fun n hn f _ => (odGet_endFunction hserved hended n f).trans hn
  unfold endAllFunctions
  generalize (List.range 16).foldl (fun m f => resetMsix (endFunction m f) f) m = n at hfold
  exact hfold

end

/-- What stays when the port retrains or sessions close after a stored write. -/
structure StoreKept (a n : Mach) : Prop where
  nvQueue : n.nvQueue = a.nvQueue
  out : n.out = a.out
  sram : n.sram = a.sram
  hbm : n.hbm = a.hbm
  threads : n.threads = a.threads

theorem StoreKept.trans {a m n : Mach} (h : StoreKept a m) (h' : StoreKept m n) : StoreKept a n :=
  ⟨h'.nvQueue.trans h.nvQueue, h'.out.trans h.out, h'.sram.trans h.sram, h'.hbm.trans h.hbm, h'.threads.trans h.threads⟩

theorem endAllFunctions_kept (m : Mach) : StoreKept m (endAllFunctions m) := by
  obtain ⟨hport, -⟩ := foldl_resetFunction (List.range 16) m
  have hkept : ∀ n, OnlyHostPort m n → StoreKept m n := fun n hn => by
    rw [hn.frame]
    exact ⟨rfl, rfl, rfl, rfl, rfl⟩
  unfold endAllFunctions
  generalize (List.range 16).foldl (fun m f => resetMsix (endFunction m f) f) m = n at hport
  exact (hkept n hport).trans ⟨rfl, rfl, rfl, rfl, rfl⟩

/-- The port of a machine changed. -/
def withPort (m : Mach) (p : Port) : Mach := { m with port := p }

theorem withPort_kept (m : Mach) (p : Port) : StoreKept m (withPort m p) := ⟨rfl, rfl, rfl, rfl, rfl⟩

theorem odGet_withPort (m : Mach) (p : Port) (idx sub : Nat) : odGet (withPort m p) idx sub = odGet m idx sub := rfl

theorem odSet_storeKept (m : Mach) (idx sub v : Nat) : StoreKept m (odSet m idx sub v) := ⟨rfl, rfl, rfl, rfl, rfl⟩

theorem linkGone_eq (m : Mach) : linkGone m =
    odSet (odSet (withPort (endAllFunctions m) { (endAllFunctions m).port with linkUp := false }) 0x5401 1 0) 0x5401 2 0 := rfl

theorem bifurcate_eq (m : Mach) : ∃ p v, bifurcate m = odSet (withPort (linkGone m) p) 0x5401 3 v := ⟨_, _, rfl⟩

theorem linkGone_kept (m : Mach) : StoreKept m (linkGone m) ∧ odGet (linkGone m) 0x5400 1 = odGet m 0x5400 1 := by
  rw [linkGone_eq]
  refine ⟨(endAllFunctions_kept m).trans ((withPort_kept ..).trans ((odSet_storeKept ..).trans (odSet_storeKept ..))), ?_⟩
  rw [odGet_odSet_ne _ (by decide), odGet_odSet_ne _ (by decide), odGet_withPort]
  exact odGet_endAllFunctions (by decide) (by decide) m

theorem bifurcate_kept (m : Mach) : StoreKept m (bifurcate m) ∧ odGet (bifurcate m) 0x5400 1 = odGet m 0x5400 1 := by
  obtain ⟨p, v, h⟩ := bifurcate_eq m
  obtain ⟨hkept, hvalue⟩ := linkGone_kept m
  rw [h, odGet_odSet_ne _ (by decide), odGet_withPort]
  exact ⟨hkept.trans ((withPort_kept ..).trans (odSet_storeKept ..)), hvalue⟩

/-- After one value has been stored, it holds, and only sessions and the port may have changed. -/
theorem afterStore_single {m : Mach} {old : List KeyEntry} {w : NvWrite} {idx sub x : Nat} (hkeys : w.keys = none)
    (hitems : w.items = [(objKey idx sub, x)]) (hsub : sub < 256) :
    StoreKept m (afterStore m old w) ∧ odGet (afterStore m old w) idx sub = odGet m idx sub := by
  have hclosed (n : Mach) : StoreKept m n ∧ odGet n idx sub = odGet m idx sub →
      StoreKept m (if objKey idx sub == objKey 0x5400 1 then bifurcate n else n) ∧
        odGet (if objKey idx sub == objKey 0x5400 1 then bifurcate n else n) idx sub = odGet m idx sub := fun hn => by
    split
    next hbifurcation =>
      obtain ⟨rfl, rfl⟩ : idx = 0x5400 ∧ sub = 1 := by
        have := beq_iff_eq.mp hbifurcation
        simp only [objKey] at this
        omega
      obtain ⟨hkept, hvalue⟩ := bifurcate_kept n
      exact ⟨hn.1.trans hkept, hvalue.trans hn.2⟩
    next => exact hn
  simp only [afterStore, hkeys, hitems, List.any_cons, List.any_nil, Bool.or_false]
  refine hclosed _ ?_
  split
  · exact ⟨⟨rfl, rfl, rfl, rfl, rfl⟩, rfl⟩
  · exact ⟨⟨rfl, rfl, rfl, rfl, rfl⟩, rfl⟩

/-! ## Dictionary traffic inside the module (R438) -/

theorem meshHeader_parts {type words dest source : Nat} (htype : type < 16) (hwords : words < 4) (hdest : dest < 256)
    (hsource : source < 256) (w1 w2 w3 : W32) :
    msgType ⟨meshHeader type words dest source, w1, w2, w3⟩ = type ∧ msgDest ⟨meshHeader type words dest source, w1, w2, w3⟩ = dest := by
  simp only [msgType, msgDest, meshHeader, BitVec.toNat_ofNat]
  split <;> omega

theorem odWord_parts {op tag idx sub : Nat} (hop : op < 4) (htag : tag < 64) (hidx : idx < 2 ^ 16) (hsub : sub < 2 ^ 8) :
    natBits (odWord op tag idx sub).toNat 31 30 = op ∧ natBits (odWord op tag idx sub).toNat 29 24 = tag ∧
      natBits (odWord op tag idx sub).toNat 23 8 = idx ∧ natBits (odWord op tag idx sub).toNat 7 0 = sub := by
  simp only [odWord, natBits, BitVec.toNat_ofNat]
  omega

theorem lo32_hi32 {n : Nat} (h : n < 2 ^ 64) : (lo32 n).toNat + 2 ^ 32 * (hi32 n).toNat = n := by
  simp only [lo32, hi32, BitVec.toNat_ofNat]
  omega

theorem nextM_onMessage {s : State} {node type : Nat} {x : MeshMsg} (h : Addressed s.m node type x) (act : Mach → Mach) :
    nextM s (fun m => onMessage m node type x act) = .next { s with m := act (hears s.m node x) } := by
  rw [nextM, onMessage_addressed h]

theorem objBytesWith_hears (m : Mach) (node : Nat) (x : MeshMsg) (v : Via) (hash : List Byte) (o : ObjInfo) :
    objBytesWith (hears m node x) v hash o = objBytesWith m v hash o := rfl

theorem stewardAnswers_read {m : Mach} {e idx sub : Nat} {o : ObjInfo} (hlo : 0x8000 ≤ idx) (hhi : idx < 0x8C00)
    (herg : idx / 64 % 4 = e) (hfind : findObj idx sub = .inl o) (hshort : (objBytesWith m .mailbox [] o).length ≤ 8) :
    stewardAnswers m e 0 idx sub = (0, leNat (objBytesWith m .mailbox [] o), m) := by
  simp [stewardAnswers, hfind, hlo, hhi, herg, hshort]

theorem duneOf_duneNode (d : DuneId) : duneOf (48 * (duneNode d / 64) + duneNode d % 64) = d := by
  have hnum := d.num.isLt
  have hkey : 48 * (duneNode d / 64) + duneNode d % 64 = duneKey d := by simp only [duneNode, duneKey]; omega
  rw [hkey, duneOf_duneKey]

theorem remoteObj_lt {idx e : Nat} (h : remoteObj idx = some e) : e < 4 := by
  unfold remoteObj at h
  split at h
  · cases h
    exact Nat.mod_lt _ (by omega)
  · cases h

/-! ## The statement -/

theorem subscribe_engineKept (m : Mach) (v : Via) (mask : W64) : EngineKept m (subscribe m v mask) := by
  cases v
  · exact .refl m
  · exact ⟨rfl, rfl, rfl, rfl, rfl, rfl, rfl, rfl, rfl, rfl⟩

section
variable {s : State} {v : Via} {i : BitVec 16} {k : BitVec 8}

section
variable (hserves : koaServes s.m = true)
include hserves

theorem execOdRead_local {offset len : Nat} (hlocal : remoteObj i.toNat = none) :
    execOdRead v i k offset len s = .next { s with m := giveRead s.m v i.toNat k.toNat offset len } := by
  simp [execOdRead, nextM, hserves, hlocal]

theorem execOdRead_remote {e t offset len : Nat} (hremote : remoteObj i.toNat = some e) (htag : freeTag s.m = some t)
    (hcode : (readObject s.m v i.toNat k.toNat offset len).1 = 0) : execOdRead v i k offset len s = .next { s with
      m := sendMesh { s.m with odAsked := s.m.odAsked ++ [(t, v, i.toNat, k.toNat, offset, len)] } 8 3 (stewardNode e) (stewardNode 0)
        (odWord 0 t i.toNat k.toNat) 0 0 } := by
  simp only [execOdRead, nextM, hserves, hremote, htag, hcode]
  rfl

theorem execOdSubscribe_eq {mask : W64} : execOdSubscribe v mask s =
    .next { s with m := emit (subscribe s.m v mask) (.odResult v 0 0 []) } := by
  simp [execOdSubscribe, nextM, hserves]

section
variable {data : List Byte} (hown : ownRow (objKey i.toNat k.toNat) = false)
  (hcommand : ∀ o, findObj i.toNat k.toNat = .inl o → o.acc ≠ 2)
include hown hcommand

theorem execOdWrite_eq : execOdWrite v i k data s = .next { s with m := match writeCheck s.m v i.toNat k.toNat data with
    | some code => answer s.m v none code
    | none => if isNv i.toNat k.toNat then queueNv s.m { via := v, items := [(objKey i.toNat k.toNat, leNat data)] }
      else answer (applyWrite s.m i.toNat k.toNat data) v none 0 } := by
  cases hfind : findObj i.toNat k.toNat with
  | inl o =>
    have hacc : (o.acc == 2) = false := beq_false_of_ne (hcommand o hfind)
    simp only [execOdWrite, nextM, hserves, hown, hfind, hacc]
    rfl
  | inr gone =>
    simp only [execOdWrite, nextM, hserves, hown, hfind]
    rfl

end

end

/-- The stored writes once the oldest has been taken. -/
def withNvQueue (m : Mach) (ws : List NvWrite) : Mach := { m with nvQueue := ws }

section
variable {w : NvWrite} {rest : List NvWrite} (hqueue : s.m.nvQueue = w :: rest) (hreply : w.reply = none)
include hqueue hreply

theorem execNvStoreComplete_failed : execNvStoreComplete false s =
    .next { s with m := emit (withNvQueue s.m rest) (.odResult w.via (BitVec.ofNat 32 nvFailure) 0 []) } := by
  simp only [execNvStoreComplete, nextM, hqueue, failStore, hreply]
  cases w.command <;> rfl

theorem execNvStoreComplete_stored : execNvStoreComplete true s =
    .next { s with m := afterStore (answer (storedValues (withNvQueue s.m rest) w) w.via none 0) s.m.sec.keys w } := by
  simp only [execNvStoreComplete, nextM, hqueue, hreply]
  cases w.command <;> rfl

end

end

/-- Settles O55: each operation by the lemma about it. -/
theorem objectsAreServed : Obligations.ObjectsAreServed := by
  intro s v i k hp hb plain
  have hserves := koaServes_of_booted hp hb
  have hi : i.toNat < 2 ^ 16 := i.isLt
  have hk : k.toNat < 2 ^ 8 := k.isLt
  refine ⟨fun o p test offset len hlocal hrecovery hfind hreadable hrights hpriv hoffset => ?read,
    fun e t offset len hremote htag hcode => ?remote, fun data hplain => ?write, fun o hrecovery hfind hwritable hshort => ?describe,
    fun num mask => ?subscribe, fun w rest hqueue hreply hkeys => ?stored, fun data hcheck => ?restore,
    fun e x o haddressed hword hlo hhi herg hfind hshort => ?request, fun x t a b u haddressed hasked hword ht => ?response,
    fun d x haddressed hsource => ?telemetry⟩
  case read =>
    refine ⟨_, execOdRead_local hserves hlocal, ?_⟩
    rw [giveRead, readObject_readable hrecovery hfind hreadable hrights hpriv hoffset]
    rfl
  case remote =>
    have he := remoteObj_lt hremote
    obtain ⟨htype, hdest⟩ := meshHeader_parts (type := 8) (words := 3) (dest := stewardNode e) (source := stewardNode 0)
      (by omega) (by omega) (by simp only [stewardNode]; omega) (by simp [stewardNode]) (odWord 0 t i.toNat k.toNat) 0 0
    exact ⟨_, execOdRead_remote hserves hremote htag hcode, rfl, ⟨_, rfl, htype, hdest, rfl⟩,
      ⟨rfl, rfl, rfl, rfl, rfl, rfl, rfl, rfl, rfl, rfl⟩⟩
  case write =>
    obtain ⟨hown, hplain⟩ := Bool.and_eq_true_iff.mp hplain
    have hcommand (o : ObjInfo) (hfind : findObj i.toNat k.toNat = .inl o) : o.acc ≠ 2 := by
      rw [hfind] at hplain
      simpa using hplain
    have hwrite := execOdWrite_eq (v := v) (data := data) hserves ((Bool.not_eq_true' _).mp hown) hcommand
    refine ⟨fun code hcheck => ⟨_, hwrite, ?_⟩, fun hcheck hnv => ⟨_, hwrite, ?_⟩, fun o hcheck hfind hnv hidx hsub => ⟨_, hwrite, ?_⟩⟩
    · rw [hcheck]
      rfl
    · rw [hcheck, hnv]
      rfl
    · have hset := (accept_objectSet s.m o (leNat data)).answered v
      rw [hidx, hsub] at hset
      have hvolatile : isNv i.toNat k.toNat = false := by simp [isNv, hfind, hnv]
      simp only [hcheck, hvolatile, applyWrite_stores ((Bool.not_eq_true' _).mp hown) hk hfind]
      exact ⟨hset.value, odResult_mem_answer .., hset.engine⟩
  case describe =>
    have hdescribes := describeObject_writable hrecovery hfind hwritable hshort
    refine ⟨_, show execOdDescribe v i k s = _ by simp only [execOdDescribe, nextM, hserves, hdescribes]; rfl, rfl⟩
  case subscribe =>
    exact ⟨_, execOdSubscribe_eq hserves, rfl, rfl, (subscribe_engineKept ..).trans (emit_onlyHostSide ..).engineKept⟩
  case stored =>
    refine ⟨⟨_, execNvStoreComplete_failed hqueue hreply, rfl⟩, fun o x hitems hfind hidx hsub =>
      ⟨_, execNvStoreComplete_stored hqueue hreply, ?_⟩⟩
    have hset := (accept_objectSet (withNvQueue s.m rest) o x).answered w.via
    have hqueued := accept_nvQueue (withNvQueue s.m rest) o x
    rw [hidx, hsub] at hset
    rw [storedValues_single hkeys hitems hk hfind]
    obtain ⟨hkept, hvalue⟩ := afterStore_single (m := answer (accept (withNvQueue s.m rest) o x) w.via none 0) (old := s.m.sec.keys)
      hkeys hitems hk
    exact ⟨hkept.nvQueue.trans hqueued, hvalue.trans hset.value, hkept.out ▸ odResult_mem_answer .., hkept.sram.trans hset.engine.sram,
      hkept.hbm.trans hset.engine.hbm, hkept.threads.trans hset.engine.threads⟩
  case restore =>
    exact ⟨_, show execRestoreDefaults v data s = _ by simp only [execRestoreDefaults, nextM, hcheck, commandRow]; rfl, rfl⟩
  case request =>
    obtain ⟨hop, htag, hindex, hsubindex⟩ := odWord_parts (op := 0) (tag := natBits x.w1.toNat 29 24) (by omega)
      (Nat.mod_lt _ (by omega)) hi hk
    rw [← hword] at hop hindex hsubindex
    have hvalue : leNat (objBytesWith s.m .mailbox [] o) < 2 ^ 64 :=
      (leNat_lt _).trans_le (Nat.pow_le_pow_right (by omega) hshort)
    have hanswers := stewardAnswers_read (m := hears s.m (stewardNode e.val) x) hlo hhi herg hfind hshort
    obtain ⟨htype, hdest⟩ := meshHeader_parts (type := 9) (words := 3) (dest := msgSource x) (source := stewardNode e.val)
      (by omega) (by omega) (Nat.mod_lt _ (by omega)) (by simp only [stewardNode]; omega) x.w1
      (lo32 (leNat (objBytesWith s.m .mailbox [] o))) (hi32 (leNat (objBytesWith s.m .mailbox [] o)))
    refine ⟨_, nextM_onMessage haddressed _, _, ?_, htype, hdest, rfl,
      lo32_hi32 hvalue⟩
    simp only [hop, hindex, hsubindex, hanswers, objBytesWith_hears, ← hword]
    rfl
  case response =>
    obtain ⟨hop, htag, hindex, hsubindex⟩ := odWord_parts (op := 1) (by omega) ht hi hk
    rw [← hword] at hop htag hindex hsubindex
    refine ⟨_, nextM_onMessage haddressed _, ?_⟩
    simp only [hop, htag, hindex, hsubindex, show (hears s.m (stewardNode 0) x).odAsked = _ from hasked]
    simp
  case telemetry =>
    have hnum := d.num.isLt
    have herg : msgSource x / 64 = d.erg.val := by rw [hsource, duneNode]; omega
    have hdune : duneOf (48 * (msgSource x / 64) + msgSource x % 64) = d := by rw [hsource, duneOf_duneNode]
    have hshort : ¬48 ≤ msgSource x % 64 := by rw [hsource, duneNode]; omega
    refine ⟨_, nextM_onMessage (herg ▸ haddressed) _, ?_⟩
    simp only [hshort, if_false, hdune]
    refine ⟨congrArg DuneState.telemetry (getDune_setDune_same ..), fun e he => ?_,
      (hears_onlyBookkeeping ..).engineKept.trans (setDune_engineKept ..)⟩
    rw [getDune_setDune_ne _ _ he, getDune_hears]

end Sys2Proof.Machine

/-! SUPPORT. Time that passes (R4, R131, R149, R168, R195–R208) leaves the power board, with what it has measured, and the faults armed
with FaultProvoke as they are. -/

namespace Sys2Proof.Machine

/-- From `a` to `n` neither the power board's state nor an armed provocation has changed. -/
structure SupplyKept (a n : Mach) : Prop where
  power : n.power = a.power
  provocations : n.provocations = a.provocations

namespace SupplyKept

variable {a m n : Mach}

theorem of_eq (hpower : n.power = a.power) (hprovocations : n.provocations = a.provocations) : SupplyKept a n :=
  ⟨hpower, hprovocations⟩

theorem refl (a : Mach) : SupplyKept a a := .of_eq rfl rfl

theorem trans (h : SupplyKept a m) (h' : SupplyKept m n) : SupplyKept a n :=
  ⟨h'.power.trans h.power, h'.provocations.trans h.provocations⟩

/-- `trans` with the later step first, so that its statement says which machine stands between. -/
theorem after (h' : SupplyKept m n) (h : SupplyKept a m) : SupplyKept a n := h.trans h'

theorem ite {p : Prop} [Decidable p] (h : SupplyKept a m) (h' : SupplyKept a n) : SupplyKept a (if p then m else n) := by
  split
  · exact h
  · exact h'

theorem foldl {α : Type} {g : Mach → α → Mach} (hg : ∀ m x, SupplyKept m (g m x)) (l : List α) (a : Mach) :
    SupplyKept a (l.foldl g a) :=
  List.foldlRecOn l g (.refl a) fun m hm x _ => hm.trans (hg m x)

end SupplyKept

theorem OnlyHostSide.supplyKept {a n : Mach} (h : OnlyHostSide a n) : SupplyKept a n := by
  constructor <;> rw [h.frame]

theorem OnlyAnnounced.supplyKept {a n : Mach} (h : OnlyAnnounced a n) : SupplyKept a n := by
  constructor <;> rw [h.frame]

/-! ## Faults (R477) -/

theorem openFault_supplyKept (m : Mach) : SupplyKept m (openFault m) := by
  rw [openFault_eq]
  exact .of_eq rfl rfl

theorem keepDetail_supplyKept (m : Mach) (erg dune detail : Nat) : SupplyKept m (keepDetail m erg dune detail) :=
  .ite (.of_eq rfl rfl) (.refl m)

theorem countDune_supplyKept (m : Mach) (erg num idx sub n : Nat) : SupplyKept m (countDune m erg num idx sub n) :=
  (countDune_onlyHostSide ..).supplyKept

theorem raiseFault_supplyKept (m : Mach) (code erg dune row thread beat detail : Nat) :
    SupplyKept m (raiseFault m code erg dune row thread beat detail) := by
  unfold raiseFault
  extract_lets sev rec_ src m1 m2 m3
  have h0 : SupplyKept m { m with raised := m.raised ++ [rec_] } := .of_eq rfl rfl
  have h1 : SupplyKept m m1 := (h0.trans (openFault_supplyKept _)).trans (keepDetail_supplyKept ..)
  have h2 : SupplyKept m m2 := .ite (h1.trans (countDune_supplyKept ..)) h1
  have h3 : SupplyKept m m3 := .ite (h2.trans (.of_eq rfl rfl)) (.ite (h2.trans (.of_eq rfl rfl)) h2)
  exact h3.trans (.of_eq rfl rfl)

theorem stopRow_supplyKept (m : Mach) (r : RowId) : SupplyKept m (stopRow m r) := .of_eq rfl rfl

theorem rowFault_supplyKept (m : Mach) (r : RowId) (code thread detail : Nat) :
    SupplyKept m (rowFault m r code thread detail) :=
  .after (raiseFault_supplyKept ..) (.of_eq rfl rfl)

theorem duneFault_supplyKept (m : Mach) (d : DuneId) (code row detail : Nat) :
    SupplyKept m (duneFault m d code row detail) :=
  .after (raiseFault_supplyKept ..) (.foldl (fun m k => stopRow_supplyKept m ⟨d, Fin.ofNat 96 k⟩) _ m)

/-! ## What lands, and loads (R131, R168) -/

theorem landOne_supplyKept (m : Mach) (l : Landing) : SupplyKept m (landOne m l) := by
  constructor <;> rw [(landOne_onlyCopied m l).frame]

theorem landUpTo_supplyKept (m : Mach) (t : Nat) : SupplyKept m (landUpTo m t) :=
  .after (.foldl landOne_supplyKept _ _) (.of_eq rfl rfl)

theorem readSram_supplyKept (m : Mach) (addr n : Nat) : SupplyKept m (readSram m addr n).2 :=
  List.foldlRecOn (motive := fun (x : List Byte × Mach) => SupplyKept m x.2) _ _ (.refl m)
    fun _ hx _ _ => hx.trans (.of_eq rfl rfl)

theorem serveLoad_supplyKept (m : Mach) (l : LoadReq) : SupplyKept m (serveLoad m l) := by
  unfold serveLoad
  extract_lets m1 x m2 m3 k m4
  have h2 : SupplyKept m m2 := (landUpTo_supplyKept m l.service).trans (readSram_supplyKept ..)
  have h4 : SupplyKept m m4 := .after (countDune_supplyKept ..) (h2.trans (.of_eq rfl rfl))
  split
  · exact h4
  · exact h4.trans (.of_eq rfl rfl)

theorem settle_supplyKept (m : Mach) (t : Nat) : SupplyKept m (settle m t) :=
  .after (landUpTo_supplyKept ..) (.after (.foldl serveLoad_supplyKept _ _) (.of_eq rfl rfl))

/-! ## The fabric, cycle by cycle (R149, R195–R208) -/

theorem linksRun_supplyKept (since t : Nat) (m : Mach) : SupplyKept m (linksRun since t m) :=
  .foldl (fun m b => (bundleRun_onlyAnnounced since t m b).supplyKept) _ m

theorem slotOut_supplyKept (m : Mach) (t k i : Nat) (bytes : List Byte) : SupplyKept m (slotOut m t k i bytes) := by
  unfold slotOut
  split
  · exact .refl m
  next e _ =>
    extract_lets last b m1
    have hsent : SupplyKept m m1 := (sendClass_onlyAnnounced ..).supplyKept
    exact .ite (hsent.trans (.of_eq rfl rfl)) hsent

theorem discardAt_supplyKept (m : Mach) (router id : Nat) : SupplyKept m (discardAt m router id) :=
  .after (countDune_supplyKept ..) (.of_eq rfl rfl)

theorem steerPacket_supplyKept (m : Mach) (f : Flit) : SupplyKept m (steerPacket m f) := by
  unfold steerPacket
  split
  · exact .refl m
  next p _ =>
    extract_lets here target held
    split
    · exact .refl m
    · extract_lets d way
      refine .ite (.refl m) (.ite (.ite (discardAt_supplyKept ..) (.refl m)) ?_)
      clear_value way
      cases way with
      | some l => exact .of_eq rfl rfl
      | none => exact .ite (.of_eq rfl rfl) (discardAt_supplyKept ..)

theorem judgePacket_supplyKept (m : Mach) (p : Packet) : SupplyKept m (judgePacket m p) := by
  unfold judgePacket
  split
  · exact .refl m
  · exact .ite (.of_eq rfl rfl) (.after (rowFault_supplyKept ..) (.of_eq rfl rfl))

theorem reachPort_supplyKept (m : Mach) (u : PortUnit) : SupplyKept m (reachPort m u) := by
  unfold reachPort
  split
  · exact .refl m
  · exact .ite ((countDune_supplyKept ..).trans (judgePacket_supplyKept ..)) (countDune_supplyKept ..)

theorem scratchArrives_supplyKept (m : Mach) (c : Cargo) : SupplyKept m (scratchArrives m c) := by
  unfold scratchArrives
  split
  · exact .ite (.of_eq rfl rfl) (.refl m)
  · exact .of_eq rfl rfl
  · exact .refl m

theorem answerSlot_supplyKept (m : Mach) (t : Nat) (p : Packet) (k : Nat) : SupplyKept m (answerSlot m t p k) := by
  unfold answerSlot
  split
  · extract_lets bytes
    refine .foldl (fun m i => ?_) _ m
    exact .of_eq rfl rfl
  · exact .refl m

theorem slotWritten_supplyKept (m : Mach) (k n t : Nat) : SupplyKept m (slotWritten m k n t) := by
  unfold slotWritten
  split
  · exact .refl m
  · split
    · exact .refl m
    · extract_lets x m1 beat late m2
      have h1 : SupplyKept m m1 := .of_eq rfl rfl
      have h2 : SupplyKept m m2 := h1.trans (.of_eq rfl rfl)
      exact .ite h1 (.ite (h2.trans (.of_eq rfl rfl)) h2)

theorem writeUnit_supplyKept (m : Mach) (T : Nat) (u : PortUnit) : SupplyKept m (writeUnit m T u) := by
  unfold writeUnit
  split
  · exact .refl m
  next p _ =>
    extract_lets done written m1 m2
    have h1 : SupplyKept m m1 := .ite (.of_eq rfl rfl) (.refl m)
    have h2 : SupplyKept m m2 := .after (scratchArrives_supplyKept ..) (h1.trans (.of_eq rfl rfl))
    refine .ite h1 ?_
    split
    · exact h2.trans (answerSlot_supplyKept ..)
    · exact .ite (h2.trans (slotWritten_supplyKept ..)) h2
    · exact h2

theorem portCycle_supplyKept (T : Nat) (m : Mach) (row : Nat) : SupplyKept m (portCycle T m row) := by
  unfold portCycle
  extract_lets m1
  have h1 : SupplyKept m m1 := .foldl reachPort_supplyKept _ m
  split
  · exact h1
  · exact .ite (.after (writeUnit_supplyKept ..) (h1.trans (.of_eq rfl rfl))) h1

theorem leavePacket_supplyKept (m : Mach) (t : Nat) (p : Packet) : SupplyKept m (leavePacket m t p) := by
  have hgone : SupplyKept m (removePacket m p.id) := .of_eq rfl rfl
  unfold leavePacket
  split
  · exact hgone.trans (slotOut_supplyKept ..)
  · exact hgone.trans (postEventAt_onlyHostSide ..).supplyKept
  · exact hgone

theorem pushFlit_supplyKept (m : Mach) (w : Want) (T cycles : Nat) : SupplyKept m (pushFlit m w T cycles) := by
  unfold pushFlit
  split
  · exact .refl m
  · exact .of_eq rfl rfl

theorem spendInjection_supplyKept (m : Mach) (a : Armed) (n : Nat) : SupplyKept m (spendInjection m a n) := by
  have hcounted : SupplyKept m (if a.left == armedBits a 191 160 then count m 0x61A0 6 1 else m) :=
    .ite (.of_eq rfl rfl) (.refl m)
  exact hcounted.trans (.of_eq rfl rfl)

theorem crossBridge_supplyKept (m : Mach) (erg e b cls flits target beat : Nat) :
    SupplyKept m (crossBridge m erg e b cls flits target beat).1 := by
  unfold crossBridge
  split
  · exact .refl m
  · split
    · exact (spendInjection_supplyKept ..).trans (raiseFault_supplyKept ..)
    · extract_lets n m1
      have h1 : SupplyKept m m1 := spendInjection_supplyKept ..
      split
      · exact h1.trans (.of_eq rfl rfl)
      · exact h1.trans (raiseFault_supplyKept ..)

theorem sendFlit_supplyKept (m : Mach) (T : Nat) (w : Want) : SupplyKept m (sendFlit m T w) := by
  unfold sendFlit
  extract_lets +onlyGivenNames m1 vc m2
  have h1 : SupplyKept m m1 := .ite (countDune_supplyKept ..) (.refl m)
  have h2 : SupplyKept m m2 := h1.trans (.of_eq rfl rfl)
  clear_value m2
  split
  case h_1 => exact h2.trans (pushFlit_supplyKept ..)
  case h_2 => exact .after (pushFlit_supplyKept ..) (h2.trans (.of_eq rfl rfl))
  case h_3 e b _ =>
    extract_lets router erg d m3 x
    have h3 : SupplyKept m m3 := .after (countDune_supplyKept ..) (h2.trans (.of_eq rfl rfl))
    have hx : SupplyKept m x.1 := by
      unfold x
      split
      · exact h3.trans (crossBridge_supplyKept ..)
      · exact h3
    exact .ite (hx.trans (pushFlit_supplyKept ..)) (hx.trans (.of_eq rfl rfl))
  case h_4 => exact .ite (.ite h2 (h2.trans (leavePacket_supplyKept ..))) (h2.trans (.of_eq rfl rfl))

theorem collide_supplyKept (T link : Nat) (sent : List Nat) (m : Mach) : SupplyKept m (collide T link sent m) := by
  unfold collide
  extract_lets holder waits
  clear_value waits
  cases waits with
  | none => exact .refl m
  | some w => exact .after (duneFault_supplyKept ..) (.after (countDune_supplyKept ..) (.of_eq rfl rfl))

theorem sendOn_supplyKept (T link n : Nat) (x : Mach × List Nat) : SupplyKept x.1 (sendOn T link n x).1 := by
  induction n generalizing x with
  | zero => exact .refl _
  | succ n ih =>
    unfold sendOn
    split
    · exact .refl _
    · exact .after (ih _) (sendFlit_supplyKept ..)

theorem portSends_supplyKept (T : Nat) (m : Mach) (link : Nat) : SupplyKept m (portSends T m link) :=
  (sendOn_supplyKept T link _ (m, [])).trans (collide_supplyKept ..)

theorem fabricCycle_supplyKept (m : Mach) : SupplyKept m (fabricCycle m) := by
  unfold fabricCycle
  extract_lets T m1 m2 m3
  have h1 : SupplyKept m m1 := .after (.foldl (portCycle_supplyKept T) _ _) (.of_eq rfl rfl)
  have h2 : SupplyKept m m2 := h1.trans (.foldl (fun m (e : Nat × Flit) => steerPacket_supplyKept m e.2) _ _)
  have h3 : SupplyKept m m3 := h2.trans (.foldl (portSends_supplyKept T) _ _)
  exact h3.trans (linksRun_supplyKept ..)

theorem fabricRun_supplyKept (fuel : Nat) (m : Mach) (t : Nat) : SupplyKept m (fabricRun fuel m t) := by
  induction fuel generalizing m with
  | zero => exact .refl m
  | succ fuel ih =>
    unfold fabricRun
    exact .ite (.refl m) (((settle_supplyKept ..).trans (fabricCycle_supplyKept _)).trans (ih _))

/-- Time that passes leaves the power board and the armed provocations as they are. -/
theorem advance_supplyKept (m : Mach) (t : Nat) : SupplyKept m (advance m t) := by
  unfold advance
  extract_lets since m1
  have h1 : SupplyKept m m1 := .ite (fabricRun_supplyKept ..) (.refl m)
  have hlinks : SupplyKept m (if since < t then linksRun since t m1 else m1) := .ite (h1.trans (linksRun_supplyKept ..)) h1
  exact hlinks.trans (settle_supplyKept ..)

end Sys2Proof.Machine

/-! SUPPORT. Power (R440–R447, R524, R534, R547). The model's readings: no copy of HTC survives in OFF and HTC counts from 0 at power-up
(assumption 47), a low of PWR_EN of 1 s releases THERM_TRIP_N (assumption 48), the slot pins stay driven (assumption 66), and an OFF dune
keeps its memories (assumption 72); a module whose steward is lost is dead until a power cycle (assumption 104). -/

namespace Sys2Proof.Machine

/-! ## Faults recorded (R477) -/

/-- The record of a fault that is raised. -/
def raisedRecord (m : Mach) (code erg dune row thread beat detail : Nat) : FaultRec :=
  ⟨BitVec.ofNat 16 code, faultSeverity code, erg, dune, row, BitVec.ofNat 8 thread, beat, BitVec.ofNat 64 detail, htcNow m⟩

theorem raiseFault_raised (m : Mach) (code erg dune row thread beat detail : Nat) :
    (raiseFault m code erg dune row thread beat detail).raised =
      m.raised ++ [raisedRecord m code erg dune row thread beat detail] := by
  unfold raiseFault
  extract_lets sev rec_ src m1 m2 m3
  have h1 : m1.raised = m.raised ++ [rec_] := by
    unfold m1 keepDetail
    rw [openFault_eq]
    split <;> rfl
  have h2 : OnlyBookkeeping m1 m2 := .ite (countDune_onlyBookkeeping ..) (.refl m1)
  have h3 : OnlyBookkeeping m1 m3 :=
    .ite (h2.trans (count_onlyBookkeeping ..)) (.ite (h2.trans (count_onlyBookkeeping ..)) h2)
  show m3.raised = _
  rw [h3.frame]
  exact h1

/-! ## A module state entered (R459, R523) -/

/-- Leaving bask rests on whether a dune basks. -/
theorem leaveBask_engineKept_of_any {a n : Mach} (hdunes : (n.dunes.any fun d => d.2.basking) = a.dunes.any fun d => d.2.basking)
    (h : EngineKept a n) : EngineKept (leaveBask a) (leaveBask n) := by
  unfold leaveBask
  rw [hdunes]
  split
  · exact { h with rows := by simp only [stopBask, h.rows] }
  · exact h

/-- From `a` to `n` the module has gone over into a state: bask has ended, and the event has been posted. -/
structure StateEntered (st : ModState) (a n : Mach) : Prop where
  frame : n = { a with mode := st, power := { a.power with faultN := modFaulted st }, rows := n.rows, dunes := n.dunes,
                       baskFired := n.baskFired, waitingB := n.waitingB, od := n.od, events := n.events, fns := n.fns, ctxs := n.ctxs,
                       chains := n.chains, ledger := n.ledger, sessions := n.sessions, out := n.out }
  engine : EngineKept (leaveBask a) n
  objects : ∀ key, key ≠ objKey 0x6030 8 → sget 0 n.od key = sget 0 a.od key

theorem setState_entered {m : Mach} {st : ModState} (h : m.mode ≠ st) : StateEntered st m (setState m st) := by
  suffices hboth : ∃ m2 : Mach, EngineKept (leaveBask m) m2 ∧ OnlyHostSide m2 (setState m st) ∧
      m2 = { m with mode := st, power := { m.power with faultN := modFaulted st }, rows := m2.rows, dunes := m2.dunes,
                    baskFired := m2.baskFired, waitingB := m2.waitingB } by
    obtain ⟨m2, hengine, hposted, hframe⟩ := hboth
    refine ⟨?_, hengine.trans hposted.engineKept, fun key hkey => sget_od_setState_ne m hkey st⟩
    rw [hposted.frame, hframe]
  unfold setState
  rw [if_neg h]
  extract_lets power m1 m2
  have hleft : OnlyBaskStopped { m with mode := st, power := { power with faultN := modFaulted st } } m1 := leaveBask_onlyBaskStopped _
  have hengine : EngineKept (leaveBask m) m1 := leaveBask_engineKept rfl ⟨rfl, rfl, rfl, rfl, rfl, rfl, rfl, rfl, rfl, rfl⟩
  have h2 : m2 = { m1 with waitingB := m2.waitingB } := by
    unfold m2
    split <;> rfl
  refine ⟨m2, ?_, postEventAt_onlyHostSide .., ?_⟩
  · rw [h2]
    exact hengine.trans ⟨rfl, rfl, rfl, rfl, rfl, rfl, rfl, rfl, rfl, rfl⟩
  · rw [h2, hleft.frame]

theorem StateEntered.mode {st : ModState} {a n : Mach} (h : StateEntered st a n) : n.mode = st := by rw [h.frame]

theorem StateEntered.odGet_eq {st : ModState} {a n : Mach} (h : StateEntered st a n) {idx sub : Nat}
    (hkey : objKey idx sub ≠ objKey 0x6030 8) : odGet n idx sub = odGet a idx sub := by
  have hdefault : objDefault n (objKey idx sub) = objDefault a (objKey idx sub) := by rw [h.frame]; rfl
  rw [odGet, h.objects _ hkey, hdefault, odGet]

/-! ## PWR_EN asserted (R445, R447, R524, R547) -/

/-- Whether some entry has a property that the default lacks does not change with an entry replaced by one like it. -/
theorem any_sput {α : Type} (d : α) (p : α → Bool) (m : SMap α) (k : Nat) {v : α} (hv : p v = p (sget d m k)) (hd : p d = false) :
    ((sput m k v).any fun e => p e.2) = m.any fun e => p e.2 := by
  induction m with
  | nil => simp [sput, hv, sget, hd]
  | cons e rest ih =>
    obtain ⟨j, w⟩ := e
    by_cases hj : j = k
    · simp [sput, hj, hv, sget]
    · simp only [sget, hj, if_false] at hv
      by_cases hk : k < j
      · cases hfound : p v
        · simp [sput, hj, hk, hfound]
        · have hne : sget d rest k ≠ d := fun h => by simp [h, hd, hfound] at hv
          have hmem : (rest.any fun e => p e.2) = true := List.any_eq_true.mpr ⟨_, mem_of_sget_ne hne, by rw [← hv, hfound]⟩
          simp [sput, hj, hk, hfound, hmem]
      · simp [sput, hj, hk, ih hv]

/-- A dune held off at power-up. -/
def holdOff (m : Mach) (k : Nat) : Mach := setDune m (duneOf k) { getDune m (duneOf k) with power := .off }

theorem holdOff_basking (m : Mach) (k : Nat) :
    ((holdOff m k).dunes.any fun d => d.2.basking) = m.dunes.any fun d => d.2.basking := by
  have hoff : { getDune m (duneOf k) with power := .off } ≠ ({} : DuneState) := fun h => nomatch congrArg DuneState.power h
  rw [holdOff, setDune, sset, if_neg hoff]
  exact any_sput (v := { getDune m (duneOf k) with power := .off }) {} (fun d => d.basking) m.dunes (duneKey (duneOf k)) rfl rfl

/-- From `a` to `n` dunes have been held off. -/
structure OnlyHeldOff (a n : Mach) : Prop where
  frame : n = { a with dunes := n.dunes }
  basking : (n.dunes.any fun d => d.2.basking) = a.dunes.any fun d => d.2.basking

theorem foldl_holdOff (l : List Nat) (m : Mach) : OnlyHeldOff m (l.foldl holdOff m) :=
  List.foldlRecOn (motive := OnlyHeldOff m) l holdOff ⟨rfl, rfl⟩ fun n hn k _ => by
    refine ⟨?_, (holdOff_basking n k).trans hn.basking⟩
    rw [hn.frame]
    rfl

/-- HTC and the dune domains of a module that powers up. -/
def startClocks (m : Mach) : Mach :=
  { m with htcOffset := -((m.now / 217 : Nat) : Int), power := { m.power with dunesUp := true, slotId := m.power.slotPins } }

/-- A thumbnail kept in flash is readable again. -/
def readThumbnail (m : Mach) : Mach :=
  match m.flashThumb with
  | some x => odSet { m with thumbnail := some x } 0x6030 6 2
  | none => m

theorem readThumbnail_spec (m : Mach) :
    readThumbnail m = { m with od := (readThumbnail m).od, thumbnail := (readThumbnail m).thumbnail } ∧
      odGet (readThumbnail m) 0x4000 7 = odGet m 0x4000 7 := by
  unfold readThumbnail
  split
  · exact ⟨rfl, odGet_odSet_ne _ (by decide) 2⟩
  · exact ⟨rfl, rfl⟩

/-- The machine that goes over into POWERING. -/
def poweringUp (m : Mach) : Mach :=
  readThumbnail (odSet (startClocks (((List.range 192).filter fun k => sget 0 m.power.efuse k == 2).foldl holdOff m)) 0x4000 7 0xFFF)

theorem enterPowering_eq (m : Mach) : enterPowering m = setState (poweringUp m) .powering := rfl

/-- From `a` to `n` the clocks have started and the domains are up. -/
structure PoweringUp (a n : Mach) : Prop where
  frame : n = { a with dunes := n.dunes, od := n.od, thumbnail := n.thumbnail, htcOffset := -((a.now / 217 : Nat) : Int),
                       power := { a.power with dunesUp := true, slotId := a.power.slotPins } }
  basking : (n.dunes.any fun d => d.2.basking) = a.dunes.any fun d => d.2.basking
  converters : odGet n 0x4000 7 = 0xFFF

theorem poweringUp_spec (m : Mach) : PoweringUp m (poweringUp m) := by
  obtain ⟨hframe, hbasking⟩ := foldl_holdOff ((List.range 192).filter fun k => sget 0 m.power.efuse k == 2) m
  unfold poweringUp
  generalize ((List.range 192).filter fun k => sget 0 m.power.efuse k == 2).foldl holdOff m = held at hframe hbasking
  obtain ⟨hread, hvalue⟩ := readThumbnail_spec (odSet (startClocks held) 0x4000 7 0xFFF)
  generalize readThumbnail (odSet (startClocks held) 0x4000 7 0xFFF) = n at hread hvalue
  have hdunes : n.dunes = held.dunes := by
    rw [hread]
    rfl
  refine ⟨?_, by rw [hdunes, hbasking], hvalue.trans (odGet_odSet_same ..)⟩
  rw [hread, hframe]
  rfl

theorem endCycle_frame (m : Mach) : ∃ efuse, endCycle m = { m with power := { m.power with
    thermTrip := m.power.thermTrip && decide (m.now < m.power.lowSince + 217000000000), efuse } } := by
  unfold endCycle
  generalize m.power.lowSince + 217000000000 = until_
  by_cases hlow : m.now < until_
  · rw [if_pos hlow, decide_eq_true hlow, Bool.and_true]
    exact ⟨_, rfl⟩
  · rw [if_neg hlow, decide_eq_false hlow, Bool.and_false]
    exact ⟨_, rfl⟩

/-- The machine at which PWR_EN is asserted, before the module powers up. -/
def asserted (m : Mach) (lowUs : Nat) (slot : BitVec 6) : Mach :=
  let m := endCycle (passOff m (m.power.lowSince + 217000 * lowUs))
  { m with power := { m.power with pwrEn := true, slotPins := slot } }

/-- The clock stands at the end of the low, which releases THERM_TRIP_N where it has lasted 1 s. -/
theorem asserted_frame (m : Mach) (lowUs : Nat) (slot : BitVec 6) : ∃ efuse, asserted m lowUs slot =
    { m with now := max m.now (m.power.lowSince + 217000 * lowUs), power := { m.power with
      thermTrip := m.power.thermTrip &&
        decide (max m.now (m.power.lowSince + 217000 * lowUs) < m.power.lowSince + 217000000000),
      efuse, pwrEn := true, slotPins := slot } } := by
  obtain ⟨efuse, hcycle⟩ := endCycle_frame (passOff m (m.power.lowSince + 217000 * lowUs))
  refine ⟨efuse, ?_⟩
  unfold asserted
  rw [hcycle]
  unfold passOff
  generalize 217000000000 = second
  generalize m.power.lowSince + 217000 * lowUs = high
  rfl

theorem execPwrEnAssert_eq {s : State} {lowUs : Nat} {slot : BitVec 6} (hlow : s.m.power.pwrEn = false) :
    execPwrEnAssert lowUs slot s = .next { s with m := tryPower (asserted s.m lowUs slot) } := by
  show Host.Outcome.next { s with m := if s.m.power.pwrEn then s.m else tryPower (asserted s.m lowUs slot) } = _
  rw [hlow, if_neg Bool.false_ne_true]

theorem tryPower_powers {m : Mach} (hoff : m.mode = .off) (henabled : m.power.pwrEn = true) (hfeeds : m.power.feeds ≠ 0) :
    tryPower m = enterPowering m := if_pos ⟨hoff, henabled, hfeeds⟩

/-- The module powers up: POWERING, HTC 0, every converter working. -/
theorem enterPowering_spec {m : Mach} (hoff : m.mode = .off) :
    ∃ u, PoweringUp m u ∧ StateEntered .powering u (enterPowering m) := by
  have hup := poweringUp_spec m
  have hmode : (poweringUp m).mode ≠ .powering := by
    rw [hup.frame, hoff]
    decide
  exact ⟨_, hup, enterPowering_eq m ▸ setState_entered hmode⟩

theorem htcNow_of_start {m : Mach} (h : m.htcOffset = -((m.now / 217 : Nat) : Int)) : htcNow m = 0 := by
  rw [htcNow, h]
  omega

/-! ## Power lost (R442, R534) -/

/-- From `a` to `n` what a loss of power finds is as it was: the retirement list, the thumbnail in flash, the clock and the power board. -/
structure LossKept (a n : Mach) : Prop where
  retirement : n.retirement = a.retirement
  flashThumb : n.flashThumb = a.flashThumb
  now : n.now = a.now
  power : n.power = a.power

theorem LossKept.refl (a : Mach) : LossKept a a := ⟨rfl, rfl, rfl, rfl⟩

theorem LossKept.trans {a m n : Mach} (h : LossKept a m) (h' : LossKept m n) : LossKept a n :=
  ⟨h'.retirement.trans h.retirement, h'.flashThumb.trans h.flashThumb, h'.now.trans h.now, h'.power.trans h.power⟩

theorem OnlyAnnounced.lossKept {a n : Mach} (h : OnlyAnnounced a n) : LossKept a n := by
  constructor <;> rw [h.frame]

theorem cutNv_lossKept (m : Mach) (w : NvWrite) : LossKept m (cutNv m w) := by
  unfold cutNv
  extract_lets m1
  have h1 : LossKept m m1 := List.foldlRecOn (motive := LossKept m) _ _ (.refl m) fun n hn e _ => hn.trans (by
    dsimp only
    split <;> exact ⟨rfl, rfl, rfl, rfl⟩)
  clear_value m1
  split
  · split <;> exact h1.trans ⟨rfl, rfl, rfl, rfl⟩
  · exact h1

theorem cutFirmware_lossKept (m : Mach) : LossKept m (cutFirmware m) := by
  unfold cutFirmware
  split
  · exact ⟨rfl, rfl, rfl, rfl⟩
  · exact .refl m

theorem odSet_lossKept (m : Mach) (idx sub v : Nat) : LossKept m (odSet m idx sub v) := ⟨rfl, rfl, rfl, rfl⟩

/-- A loss of power recorded, and the dunes frozen. -/
def lossRecorded (m : Mach) (cause : Nat) : Mach :=
  if powered m then odSet (sendFreeze m (beatNumber m)) 0x6040 4 (powerLossRecord m cause) else m

theorem lossRecorded_lossKept (m : Mach) (cause : Nat) : LossKept m (lossRecorded m cause) := by
  have hfrozen : LossKept m (sendFreeze m (beatNumber m)) := (broadcastJob_onlyAnnounced ..).lossKept
  unfold lossRecorded
  split
  · exact hfrozen.trans (odSet_lossKept ..)
  · exact .refl m

theorem foldl_cutNv_lossKept (l : List NvWrite) (m : Mach) : LossKept m (l.foldl cutNv m) :=
  List.foldlRecOn (motive := LossKept m) l cutNv (.refl m) fun n hn w _ => hn.trans (cutNv_lossKept n w)

/-- A module that loses its power is left as `offState` says. -/
theorem powerDown_off {m : Mach} (h : m.mode ≠ .off) (cause : Nat) : ∃ w, LossKept m w ∧ powerDown m cause = offState w :=
  ⟨_, ((lossRecorded_lossKept m cause).trans (foldl_cutNv_lossKept _ _)).trans (cutFirmware_lossKept _), if_neg h⟩

theorem htcNow_offState (m : Mach) : htcNow (offState m) = 0 := htcNow_of_start rfl

/-! ## Feeds and converters (R443) -/

theorem odGet_postEvent_ne (m : Mach) {idx sub : Nat} (h : objKey idx sub ≠ objKey 0x6030 8) (code erg dune value : Nat) :
    odGet (postEvent m code erg dune value) idx sub = odGet m idx sub := by
  have hposted : OnlyHostSide m (postEvent m code erg dune value) := postEventAt_onlyHostSide ..
  have hdefault : objDefault (postEvent m code erg dune value) (objKey idx sub) = objDefault m (objKey idx sub) := by
    rw [hposted.frame]
    rfl
  rw [odGet, sget_od_postEvent_ne m h, hdefault, odGet]

/-- From `a` to `n` a fault has been recorded and sent, and no object has changed. -/
structure OnlyFaulted (a n : Mach) : Prop where
  frame : n = { a with raised := n.raised, job := n.job, ctrl := n.ctrl, out := n.out }

theorem OnlyFaulted.refl (a : Mach) : OnlyFaulted a a := ⟨rfl⟩

theorem OnlyFaulted.engineKept {a n : Mach} (h : OnlyFaulted a n) : EngineKept a n := by
  constructor <;> rw [h.frame]

theorem OnlyFaulted.odGet_eq {a n : Mach} (h : OnlyFaulted a n) (idx sub : Nat) : odGet n idx sub = odGet a idx sub := by
  rw [h.frame]
  rfl

/-- A fault of no dune, and of no HBM word, changes no object. -/
theorem raiseFault_onlyFaulted (m : Mach) {code dune : Nat} (hdune : 48 ≤ dune) (hcode : code ≠ 0x501 ∧ code ≠ 0x502)
    (erg row thread beat detail : Nat) : OnlyFaulted m (raiseFault m code erg dune row thread beat detail) := by
  have hnone : ¬dune < 48 := Nat.not_lt.mpr hdune
  unfold raiseFault
  extract_lets sev rec_ src m1 m2 m3
  have h3 : m3 = m1 := by
    unfold m3 m2
    rw [if_neg hcode.1, if_neg hcode.2, if_neg fun h => hnone h.2]
  have h1 : OnlyFaulted m m1 := by
    unfold m1 keepDetail
    rw [if_neg hnone, openFault_eq]
    exact ⟨rfl⟩
  clear_value m1
  rw [h3]
  refine ⟨?_⟩
  rw [h1.frame]
  rfl

/-- A converter's failure noted and reported. -/
def converterNoted (m : Mach) (k : Nat) : Mach :=
  postEvent (odSet m 0x4000 7 (odGet m 0x4000 7 - 2 ^ k)) 0x8005 (k / 3) 63 k

/-- How many of an erg's converters have failed. -/
def failedOf (ok k : Nat) : Nat := ((List.range 3).filter fun i => ok / 2 ^ (3 * (k / 3) + i) % 2 = 0).length

theorem converterFails_eq {m : Mach} {k : Nat} (hworks : odGet m 0x4000 7 / 2 ^ k % 2 = 1) : converterFails m k =
    if failedOf (odGet m 0x4000 7 - 2 ^ k) k = 2 then
      raiseFault (converterNoted m k) 0x702 (k / 3) 63 127 0 (beatHere (converterNoted m k)) 0
    else converterNoted m k := by
  have hfails : ¬odGet m 0x4000 7 / 2 ^ k % 2 = 0 := by omega
  simp only [converterFails, hfails, if_false, failedOf, converterNoted]
  rfl

theorem converterFails_onlyFaulted {m : Mach} {k : Nat} (hworks : odGet m 0x4000 7 / 2 ^ k % 2 = 1) :
    OnlyFaulted (converterNoted m k) (converterFails m k) := by
  rw [converterFails_eq hworks]
  split
  · exact raiseFault_onlyFaulted _ (by omega) (by omega) ..
  · exact .refl _

/-- The first converter that fails is the only one of its erg. -/
theorem failedOf_first (k : Fin 12) : failedOf (0xFFF - 2 ^ k.val) k.val ≠ 2 := by
  revert k
  decide

/-! ## E-fuses (R444–R446) -/

/-- From `a` to `n` a dune has lost its supply, with its work in progress and its packets. -/
structure OnlyDuneDown (a n : Mach) : Prop where
  frame : n = { a with od := n.od, dunes := n.dunes, packets := n.packets, flits := n.flits, holders := n.holders,
                       arrivals := n.arrivals, fabricAt := n.fabricAt, rows := n.rows, loads := n.loads, queues := n.queues,
                       tablesStale := n.tablesStale }
  objects : ∀ {idx sub}, objKey idx sub ≠ objKey 0x5110 5 → odGet n idx sub = odGet a idx sub

/-- A dune that goes off is off, before a load takes note of it. -/
theorem duneGoesOff_down {m : Mach} {d : DuneId} (husable : (getDune m d).power = .usable) (p : DunePower) :
    ∃ n, OnlyDuneDown m n ∧ (getDune n d).power = p ∧ duneGoesOff m d p = loadLosesDune n (duneKey d) := by
  unfold duneGoesOff
  extract_lets x k second m1 m2 m3 m4
  rw [if_neg (not_not_intro husable)]
  have h1 : OnlyDuneDown m m1 := by
    unfold m1
    split
    · exact ⟨rfl, fun h => odGet_odSet_ne m h _⟩
    · exact ⟨rfl, fun _ => rfl⟩
  have h2 : OnlyDuneDown m m2 := ⟨by unfold m2; rw [h1.frame]; rfl, fun h => h1.objects h⟩
  have hlost : OnlyTraffic m2.packets m2 m3 := (OnlyTraffic.refl m2).loseAll (fun q hq => (List.mem_filter.mp hq).1) k
  have h3 : OnlyDuneDown m m3 := ⟨by rw [hlost.frame, h2.frame], fun h => by rw [hlost.frame]; exact h2.objects h⟩
  refine ⟨m4, ⟨?_, fun h => h3.objects h⟩, ?_, rfl⟩
  · unfold m4
    clear_value m3
    rw [h3.frame]
  · have hdune : getDune m4 d = getDune m2 d := hlost.getDune_eq d
    rw [hdune, getDune_setDune_same]

/-- A job that is not being loaded takes no note of a lost dune. -/
theorem loadLosesDune_of_loaded {m : Mach} (h : ∀ j, m.job = some j → m.mode ≠ .loading ∨ j.loaded = true) (k : Nat) :
    loadLosesDune m k = m := by
  unfold loadLosesDune
  split
  · rfl
  next j hjob => exact if_pos (h j hjob)

theorem jobHas_loaded {m : Mach} {d : DuneId} (h : jobHas m d = true) (j : Job) (hjob : m.job = some j) :
    m.mode ≠ .loading ∨ j.loaded = true := by
  by_cases hmode : m.mode = .loading
  · right
    simp only [jobHas, beatsRun, waitsForT0, hmode, hjob] at h
    simp at h
    exact h.1.1
  · exact .inl hmode

/-- The sensors' readings among the objects (R449, R463). -/
def sensorObjs : List (Nat × Nat) := [(0x4000, 5), (0x4200, 1), (0x4200, 3)]

/-- From `a` to `n` the power board but for FAULT_N, HBM, the clock and the sensors' readings are as they were. -/
structure BoardKept (a n : Mach) : Prop where
  power : n.power = { a.power with faultN := n.power.faultN }
  hbm : n.hbm = a.hbm
  now : n.now = a.now
  objects : ∀ o ∈ sensorObjs, odGet n o.1 o.2 = odGet a o.1 o.2

namespace BoardKept

variable {a m n : Mach}

theorem refl (a : Mach) : BoardKept a a := ⟨rfl, rfl, rfl, fun _ _ => rfl⟩

theorem trans (h : BoardKept a m) (h' : BoardKept m n) : BoardKept a n :=
  ⟨h'.power.trans (by rw [h.power]), h'.hbm.trans h.hbm, h'.now.trans h.now, fun o ho => (h'.objects o ho).trans (h.objects o ho)⟩

theorem ite {p : Prop} [Decidable p] (h : BoardKept a m) (h' : BoardKept a n) : BoardKept a (if p then m else n) := by
  split
  · exact h
  · exact h'

theorem foldl {α : Type} {g : Mach → α → Mach} (hg : ∀ m x, BoardKept m (g m x)) (l : List α) (a : Mach) :
    BoardKept a (l.foldl g a) :=
  List.foldlRecOn l g (.refl a) fun m hm x _ => hm.trans (hg m x)

theorem odSet (m : Mach) {idx sub : Nat} (h : ∀ o ∈ sensorObjs, objKey o.1 o.2 ≠ objKey idx sub) (v : Nat) :
    BoardKept m (odSet m idx sub v) := ⟨rfl, rfl, rfl, fun o ho => odGet_odSet_ne m (h o ho) v⟩

end BoardKept

theorem OnlyDuneDown.boardKept {a n : Mach} (h : OnlyDuneDown a n) : BoardKept a n :=
  ⟨by rw [h.frame], by rw [h.frame], by rw [h.frame], fun o ho => h.objects (by revert o; decide)⟩

theorem OnlyAnswered.boardKept {a n : Mach} (h : OnlyAnswered a n) : BoardKept a n :=
  ⟨by rw [h.frame], by rw [h.frame], by rw [h.frame], fun o _ => h.odGet_eq o.1 o.2⟩

theorem StateEntered.boardKept {st : ModState} {a n : Mach} (h : StateEntered st a n) : BoardKept a n :=
  ⟨by rw [h.frame], by rw [h.frame], by rw [h.frame], fun o ho => h.odGet_eq (by revert o; decide)⟩

theorem OnlyClocks.boardKept {a n : Mach} (h : OnlyClocks a n) : BoardKept a n :=
  ⟨by rw [h.frame], by rw [h.frame], by rw [h.frame], fun _ _ => by rw [h.frame]; rfl⟩

theorem setState_boardKept (m : Mach) (st : ModState) : BoardKept m (setState m st) := by
  by_cases h : m.mode = st
  · rw [setState, if_pos h]
    exact .refl m
  · exact (setState_entered h).boardKept

theorem enterStandby_boardKept (m : Mach) : BoardKept m (enterStandby m) := by
  unfold enterStandby
  extract_lets moved m1 k x m2
  have hmoved : OnlyClocks m moved := moveRoot_onlyClocks ..
  clear_value moved
  have hstepped : BoardKept moved (odSet { moved with pendingStep := 0 } 0x5300 8 0) :=
    .trans (m := { moved with pendingStep := 0 }) ⟨rfl, rfl, rfl, fun _ _ => rfl⟩ (.odSet _ (by decide) 0)
  have h1 : BoardKept m m1 := .ite (hmoved.boardKept.trans hstepped) (.refl m)
  have h2 : BoardKept m m2 := .ite (h1.trans ⟨rfl, rfl, rfl, fun _ _ => rfl⟩) h1
  have h3 : BoardKept m2 (reviveDunes m2) := ⟨rfl, rfl, rfl, fun _ _ => rfl⟩
  exact (h2.trans h3).trans (setState_boardKept ..)

theorem refuseLoad_boardKept (m : Mach) (code detail : Nat) : BoardKept m (refuseLoad m code detail) := by
  unfold refuseLoad
  extract_lets m1
  have h1 : BoardKept m m1 := ⟨rfl, rfl, rfl, fun _ _ => rfl⟩
  have h2 : BoardKept m1 (setLoadResult m1 code detail) := (BoardKept.odSet m1 (by decide) code).trans (.odSet _ (by decide) detail)
  exact ((h1.trans h2).trans (enterStandby_boardKept _)).trans (giveAnswers_onlyAnswered ..).boardKept

theorem placeJob_boardKept (m : Mach) (j : Job) (mp : List (Nat × Nat)) (g : Nat) : BoardKept m (placeJob m j mp g) := by
  have hmapped (m : Mach) (img : Image) (st : SiteState) : BoardKept m (mapAllSites m img mp st) := by
    refine .foldl (fun m k => .foldl (fun m r => ?_) _ m) _ m
    exact .ite ⟨rfl, rfl, rfl, fun _ _ => rfl⟩ (.ite (.refl m) ⟨rfl, rfl, rfl, fun _ _ => rfl⟩)
  have hstamped (m : Mach) : BoardKept m (stampDunes m mp) := by
    refine .foldl (fun m d => ?_) _ m
    exact .ite (.refl m) ⟨rfl, rfl, rfl, fun _ _ => rfl⟩
  unfold placeJob
  extract_lets m1 size m2
  have h1 : BoardKept m m1 := ⟨rfl, rfl, rfl, fun _ _ => rfl⟩
  have h2 : BoardKept m1 m2 := (BoardKept.odSet m1 (by decide) _).trans ((BoardKept.odSet _ (by decide) _).trans (.odSet _ (by decide) size))
  exact (h1.trans h2).trans ((hmapped ..).trans (hstamped _))

theorem loadLosesDune_boardKept (m : Mach) (k : Nat) : BoardKept m (loadLosesDune m k) := by
  unfold loadLosesDune
  split
  · exact .refl m
  · split
    · exact .refl m
    · extract_lets vd j'
      split
      · exact refuseLoad_boardKept ..
      · split
        · exact refuseLoad_boardKept ..
        · exact placeJob_boardKept ..

theorem duneGoesOff_boardKept (m : Mach) (d : DuneId) (p : DunePower) : BoardKept m (duneGoesOff m d p) := by
  by_cases husable : (getDune m d).power = .usable
  · obtain ⟨n, hdown, -, hoff⟩ := duneGoesOff_down husable p
    rw [hoff]
    exact hdown.boardKept.trans (loadLosesDune_boardKept ..)
  · rw [duneGoesOff, if_pos husable]
    exact .refl m

/-- From `a` to `n` the e-fuses, HBM and the clock are as they were. -/
structure FusesKept (a n : Mach) : Prop where
  efuse : n.power.efuse = a.power.efuse
  hbm : n.hbm = a.hbm
  now : n.now = a.now

theorem FusesKept.trans {a m n : Mach} (h : FusesKept a m) (h' : FusesKept m n) : FusesKept a n :=
  ⟨h'.efuse.trans h.efuse, h'.hbm.trans h.hbm, h'.now.trans h.now⟩

theorem BoardKept.fusesKept {a n : Mach} (h : BoardKept a n) : FusesKept a n := ⟨by rw [h.power], h.hbm, h.now⟩

theorem FaultRaised.fusesKept {a n : Mach} {code : Nat} (h : FaultRaised a n code) : FusesKept a n := by
  constructor <;> rw [h.frame]

theorem OnlyHostSide.fusesKept {a n : Mach} (h : OnlyHostSide a n) : FusesKept a n := by
  constructor <;> rw [h.frame]

/-! ### Bundles (R355, R361, R371, R372) -/

/-- From `a` to `n` only links have changed, with the counters, faults and frames that their loss brings. -/
structure OnlyLanesLost (a n : Mach) : Prop where
  frame : n = { a with bundles := n.bundles, out := n.out, od := n.od, raised := n.raised, job := n.job, ctrl := n.ctrl }
  faults : FaultsNoted a n

namespace OnlyLanesLost

variable {a m n : Mach}

theorem refl (a : Mach) : OnlyLanesLost a a := ⟨rfl, .refl a⟩

theorem trans (h : OnlyLanesLost a m) (h' : OnlyLanesLost m n) : OnlyLanesLost a n :=
  ⟨h'.frame.trans (by rw [h.frame]), h.faults.trans h'.faults⟩

theorem ite {p : Prop} [Decidable p] (h : OnlyLanesLost a m) (h' : OnlyLanesLost a n) : OnlyLanesLost a (if p then m else n) := by
  split
  · exact h
  · exact h'

theorem foldl {α : Type} {g : Mach → α → Mach} (hg : ∀ m x, OnlyLanesLost m (g m x)) (l : List α) (a : Mach) :
    OnlyLanesLost a (l.foldl g a) :=
  List.foldlRecOn l g (.refl a) fun m hm x _ => hm.trans (hg m x)

theorem engineKept (h : OnlyLanesLost a n) : EngineKept a n := by constructor <;> rw [h.frame]

theorem fusesKept (h : OnlyLanesLost a n) : FusesKept a n := by constructor <;> rw [h.frame]

/-- Without a job there is none afterwards. -/
theorem job_none (h : OnlyLanesLost a n) (hnone : a.job = none) : n.job = none := by
  have hsame := h.faults.job
  rw [jobButFault, jobButFault, hnone] at hsame
  exact Option.map_eq_none_iff.mp hsame

end OnlyLanesLost

theorem FramesSent.onlyLanesLost {b : Nat} {a n : Mach} (h : FramesSent b a n) : OnlyLanesLost a n :=
  ⟨h.frame.trans (by rw [h.frame]), .of_eq (by rw [h.frame])⟩

theorem setBundle_onlyLanesLost (m : Mach) (b : Nat) (x : Bundle) : OnlyLanesLost m (setBundle m b x) := ⟨rfl, .of_eq rfl⟩

theorem count_onlyLanesLost (m : Mach) (idx sub n : Nat) : OnlyLanesLost m (count m idx sub n) := ⟨rfl, .of_eq rfl⟩

theorem bundleFault_onlyLanesLost (m : Mach) (b code detail : Nat) : OnlyLanesLost m (bundleFault m b code detail) := by
  obtain ⟨q, job, od, ctrl, out, h, -, -⟩ := bundleFault_eq m b code detail
  refine ⟨?_, raiseFault_faultsNoted ..⟩
  rw [h]

theorem replayWhere_onlyLanesLost (m : Mach) (b c : Nat) (p : Nat × Nat × Nat × List Byte → Bool) (fresh : Bool) :
    OnlyLanesLost m (replayWhere m b c p fresh) := by
  unfold replayWhere
  extract_lets x cl again cl' ws old
  exact .ite (.refl m) (.trans ((setBundle_onlyLanesLost ..).trans (count_onlyLanesLost ..)) (bundleRun_framesSent ..).onlyLanesLost)

theorem lanesChanged_onlyLanesLost (m : Mach) (b before : Nat) : OnlyLanesLost m (lanesChanged m b before) := by
  unfold lanesChanged
  extract_lets x st m1 y m2 n
  have h1 : OnlyLanesLost m m1 := setBundle_onlyLanesLost ..
  have h2 : OnlyLanesLost m m2 :=
    .ite (.trans (h1.trans (setBundle_onlyLanesLost ..)) (sendFrame_framesSent ..).onlyLanesLost) h1
  split
  · exact h2
  · refine .ite h2 (.ite (h2.trans (bundleFault_onlyLanesLost ..)) (.ite ?_ h2))
    exact h2.trans ((count_onlyLanesLost ..).trans (bundleFault_onlyLanesLost ..))

theorem laneLost_onlyLanesLost (m : Mach) (b lane : Nat) : OnlyLanesLost m (laneLost m b lane) := by
  unfold laneLost
  extract_lets x before bit m1 m2 m3
  have h2 : OnlyLanesLost m m2 := (setBundle_onlyLanesLost ..).trans (count_onlyLanesLost ..)
  have h3 : OnlyLanesLost m m3 := h2.trans (.foldl (fun m c => replayWhere_onlyLanesLost m b c _ true) _ m2)
  exact .ite (.refl m) (h3.trans (lanesChanged_onlyLanesLost ..))

theorem bundleLost_onlyLanesLost (m : Mach) (b : Nat) : OnlyLanesLost m (bundleLost m b) :=
  .foldl (fun m k => laneLost_onlyLanesLost m b k) _ m

/-! ### EFUSE_TRIP -/

/-- An e-fuse that has opened, and how. -/
def fuseOpened (m : Mach) (key v : Nat) : Mach := { m with power := { m.power with efuse := sset 0 m.power.efuse key v } }

theorem fuseOpened_open (m : Mach) (key : Nat) {v : Nat} (hv : v ≠ 0) : sget 0 (fuseOpened m key v).power.efuse key ≠ 0 := by
  rw [fuseOpened, sget_sset_same]
  exact hv

/-- A dune whose e-fuse has opened, before it goes off. -/
def duneTripped (m : Mach) (d : DuneId) : Mach :=
  let trips := arrayIndex 11 d.erg.val d.num.val
  count (fuseOpened m (duneKey d) (if m.mode = .powering ∧ odGet m trips 3 ≠ 0 then 2 else 1)) trips 3 1

theorem jobHas_duneTripped (m : Mach) (d : DuneId) : jobHas (duneTripped m d) d = jobHas m d := rfl

/-- A dune that has gone off for its e-fuse reported: a fault where the job uses it, an event elsewhere. -/
def duneTripReported (m : Mach) (d : DuneId) (used : Bool) : Mach :=
  if used then raiseFault m 0x601 d.erg.val d.num.val 127 0 (beatHere m) 0
  else postEvent m 0x8006 d.erg.val d.num.val (duneKey d)

/-- What an e-fuse that opens leaves. -/
def efuseTripped (m : Mach) : Domain → Mach
  | .dune d => duneTripReported (duneGoesOff (duneTripped m d) d .off) d (jobHas (duneTripped m d) d)
  | .hbm k => raiseFault (fuseOpened m (domainKey (.hbm k)) 1) 0x703 (k.val / 8) 63 127 0 (beatHere m) 0
  | .bundle k =>
    let n := bundleLost (fuseOpened m (domainKey (.bundle k)) 1) k.val
    setBundle n k.val { getBundle n k.val with supply := false }
  | .edge e =>
    if e = 0 then stewardLost (fuseOpened m (domainKey (.edge e)) 1)
    else raiseFault (fuseOpened m (domainKey (.edge e)) 1) 0x704 e.val 63 127 0 (beatHere m) 0

theorem execEfuseTrip_eq {s : State} (hpowered : powered s.m = true) {dom : Domain} (hclosed : sget 0 s.m.power.efuse (domainKey dom) = 0) :
    execEfuseTrip dom s = .next { s with m := efuseTripped s.m dom } := by
  have hfirst : ¬((!powered s.m) = true ∨ sget 0 s.m.power.efuse (domainKey dom) ≠ 0) := by simp [hpowered, hclosed]
  rw [execEfuseTrip, nextM]
  dsimp only
  rw [if_neg hfirst]
  cases dom <;> rfl

theorem fusesKept_open {a n : Mach} (h : FusesKept a n) {key : Nat} (hopen : sget 0 a.power.efuse key ≠ 0) :
    sget 0 n.power.efuse key ≠ 0 := by
  rw [h.efuse]
  exact hopen

theorem duneTripped_open (m : Mach) (d : DuneId) : sget 0 (duneTripped m d).power.efuse (duneKey d) ≠ 0 :=
  fuseOpened_open m (duneKey d) (by split <;> decide)

theorem duneTripReported_fusesKept (m : Mach) (d : DuneId) (used : Bool) : FusesKept m (duneTripReported m d used) := by
  unfold duneTripReported
  split
  · exact (raiseFault_faultRaised ..).fusesKept
  · exact (postEventAt_onlyHostSide ..).fusesKept

theorem efuseTripped_dune_fusesKept (m : Mach) (d : DuneId) : FusesKept (duneTripped m d) (efuseTripped m (.dune d)) :=
  ((duneGoesOff_boardKept ..).fusesKept).trans (duneTripReported_fusesKept ..)

section
variable {m : Mach} {d : DuneId} (husable : (getDune m d).power = .usable)
include husable

/-- A dune that no job uses goes off for its e-fuse without a fault. -/
theorem efuseTripped_dune_unused (hused : jobHas m d = false) (hjob : m.job = none) :
    (getDune (efuseTripped m (.dune d)) d).power = .off ∧ (efuseTripped m (.dune d)).raised = m.raised ∧
      (efuseTripped m (.dune d)).sram = m.sram := by
  obtain ⟨n, hdown, hoff, heq⟩ := duneGoesOff_down (m := duneTripped m d) (d := d) husable .off
  have hnone : n.job = none := by
    rw [hdown.frame]
    exact hjob
  have hposted : OnlyHostSide n (efuseTripped m (.dune d)) := by
    rw [efuseTripped, jobHas_duneTripped, hused, heq, loadLosesDune_of_no_job hnone]
    show OnlyHostSide n (postEvent n 0x8006 d.erg.val d.num.val (duneKey d))
    exact postEventAt_onlyHostSide ..
  refine ⟨?_, ?_, ?_⟩
  · rw [getDune, hposted.frame]
    exact hoff
  · rw [hposted.frame, hdown.frame]
    rfl
  · rw [hposted.frame, hdown.frame]
    rfl

/-- A dune that the job uses goes off for its e-fuse with a fault. -/
theorem efuseTripped_dune_used (hused : jobHas m d = true) : (getDune (efuseTripped m (.dune d)) d).power = .off ∧
    ∃ x, (efuseTripped m (.dune d)).raised = m.raised ++ [x] ∧ x.code = 0x0601 ∧ x.erg = d.erg.val ∧ x.dune = d.num.val := by
  obtain ⟨n, hdown, hoff, heq⟩ := duneGoesOff_down (m := duneTripped m d) (d := d) husable .off
  have hloaded (j : Job) (hj : n.job = some j) : n.mode ≠ .loading ∨ j.loaded = true := by
    rw [hdown.frame] at hj ⊢
    exact jobHas_loaded hused j hj
  have hfault : efuseTripped m (.dune d) = raiseFault n 0x601 d.erg.val d.num.val 127 0 (beatHere n) 0 := by
    rw [efuseTripped, jobHas_duneTripped, hused, heq, loadLosesDune_of_loaded hloaded]
    rfl
  have hraised : n.raised = m.raised := by
    rw [hdown.frame]
    rfl
  rw [hfault]
  refine ⟨?_, raisedRecord n 0x601 d.erg.val d.num.val 127 0 (beatHere n) 0, ?_, rfl, rfl, rfl⟩
  · rw [getDune, (raiseFault_faultRaised ..).frame]
    exact hoff
  · rw [raiseFault_raised, hraised]

end

theorem OnlyHostPort.fusesKept {a n : Mach} (h : OnlyHostPort a n) : FusesKept a n := by
  constructor <;> rw [h.frame]

theorem withPort_fusesKept (m : Mach) (p : Port) : FusesKept m (withPort m p) := ⟨rfl, rfl, rfl⟩

theorem odSet_fusesKept (m : Mach) (idx sub v : Nat) : FusesKept m (odSet m idx sub v) := ⟨rfl, rfl, rfl⟩

theorem endAllFunctions_fusesKept (m : Mach) : FusesKept m (endAllFunctions m) := by
  have hport := (foldl_resetFunction (List.range 16) m).1
  unfold endAllFunctions
  generalize (List.range 16).foldl (fun m f => resetMsix (endFunction m f) f) m = n at hport
  exact hport.fusesKept.trans ⟨rfl, rfl, rfl⟩

theorem linkGone_fusesKept (m : Mach) : FusesKept m (linkGone m) := by
  rw [linkGone_eq]
  exact (endAllFunctions_fusesKept m).trans ((withPort_fusesKept ..).trans ((odSet_fusesKept ..).trans (odSet_fusesKept ..)))

/-- The module steward is dead, and FAULT_N asserted. -/
def withSteward (m : Mach) : Mach := { m with power := { m.power with dead := true, faultN := true } }

theorem stewardLost_eq (m : Mach) : stewardLost m = withSteward (linkGone m) := rfl

theorem withSteward_dead (m : Mach) : (withSteward m).power.dead = true ∧ (withSteward m).power.faultN = true ∧
    (withSteward m).port = m.port ∧ FusesKept m (withSteward m) := ⟨rfl, rfl, rfl, rfl, rfl, rfl⟩

theorem stewardLost_dead (m : Mach) : (stewardLost m).power.dead = true ∧ (stewardLost m).power.faultN = true ∧
    (stewardLost m).port.linkUp = false ∧ FusesKept m (stewardLost m) := by
  obtain ⟨hdead, hfault, hport, hkept⟩ := withSteward_dead (linkGone m)
  rw [stewardLost_eq, hport]
  exact ⟨hdead, hfault, (linkGone_ended m).2, (linkGone_fusesKept m).trans hkept⟩

/-- The machine at the root's next whole second. -/
def nextSecond (m : Mach) : Mach := advance m (tuAt m ((htcNow m / 1000000000 + 1) * 1000000000))

theorem execPpsSecond_eq {s : State} (hpowered : powered s.m = true) (hmode : s.m.mode ≠ .powering) (hroot : rootState s.m ≠ .acquire) :
    execPpsSecond s = .next { s with
      m := { nextSecond s.m with power := { (nextSecond s.m).power with pps := (nextSecond s.m).power.pps + 1 } } } := by
  have hruns : (!powered s.m || s.m.mode == .powering || rootState s.m == .acquire) = false := by simp [hpowered, hmode, hroot]
  simp only [execPpsSecond, nextM, hruns]
  rfl

/-- The power board of a module that has powered up. -/
def boardUp (p : Power) (trip : Bool) (efuse : SMap Nat) (slot : BitVec 6) : Power :=
  { p with thermTrip := trip, efuse, pwrEn := true, slotPins := slot, dunesUp := true, slotId := slot, faultN := false }

/-- A module that has gone over into POWERING at the instant `t`. -/
theorem StateEntered.powering {m u n : Mach} {t : Nat} {trip : Bool} {efuse : SMap Nat} {slot : BitVec 6}
    (hentered : StateEntered .powering u n)
    (hup : PoweringUp { m with now := t, power := { m.power with thermTrip := trip, efuse, pwrEn := true, slotPins := slot } } u) :
    n.power = boardUp m.power trip efuse slot ∧ n.now = t ∧ htcNow n = 0 ∧ odGet n 0x4000 7 = 0xFFF ∧
      EngineKept (leaveBask { m with now := t }) n := by
  have hengine : EngineKept { m with now := t } u := by
    rw [hup.frame]
    exact ⟨rfl, rfl, rfl, rfl, rfl, rfl, rfl, rfl, rfl, rfl⟩
  have hclock : n.htcOffset = -((n.now / 217 : Nat) : Int) := by
    rw [hentered.frame, hup.frame]
  refine ⟨?_, ?_, htcNow_of_start hclock, by rw [hentered.odGet_eq (by decide), hup.converters],
    (leaveBask_engineKept_of_any (a := { m with now := t }) hup.basking hengine).trans hentered.engine⟩
  · rw [hentered.frame, hup.frame]
    rfl
  · rw [hentered.frame, hup.frame]

theorem enterPowering_asserted {m : Mach} (hoff : m.mode = .off) (lowUs : Nat) (slot : BitVec 6) :
    ∃ n efuse, enterPowering (asserted m lowUs slot) = n ∧ n.mode = .powering ∧ n.now = max m.now (m.power.lowSince + 217000 * lowUs) ∧
      n.power = boardUp m.power (m.power.thermTrip && decide (n.now < m.power.lowSince + 217000000000)) efuse slot ∧
      htcNow n = 0 ∧ odGet n 0x4000 7 = 0xFFF ∧ EngineKept (leaveBask { m with now := n.now }) n := by
  obtain ⟨efuse, hframe⟩ := asserted_frame m lowUs slot
  generalize max m.now (m.power.lowSince + 217000 * lowUs) = t at hframe ⊢
  have hoff' : (asserted m lowUs slot).mode = .off := by
    rw [hframe]
    exact hoff
  obtain ⟨u, hup, hentered⟩ := enterPowering_spec hoff'
  rw [hframe] at hup
  obtain ⟨hpower, hnow, hhtc, hconverters, hengine⟩ := hentered.powering hup
  rw [← hnow] at hpower hengine
  exact ⟨_, efuse, rfl, hentered.mode, hnow, hpower, hhtc, hconverters, hengine⟩

theorem execPwrEnAssert_powers {s : State} {lowUs : Nat} {slot : BitVec 6} (hlow : s.m.power.pwrEn = false) (hoff : s.m.mode = .off)
    (hfeeds : s.m.power.feeds ≠ 0) : execPwrEnAssert lowUs slot s = .next { s with m := enterPowering (asserted s.m lowUs slot) } := by
  obtain ⟨efuse, hframe⟩ := asserted_frame s.m lowUs slot
  rw [execPwrEnAssert_eq hlow, tryPower_powers]
  · rw [hframe]
    exact hoff
  · rw [hframe]
  · rw [hframe]
    exact hfeeds

theorem postEvent_onlyHostSide (m : Mach) (code erg dune value : Nat) : OnlyHostSide m (postEvent m code erg dune value) :=
  postEventAt_onlyHostSide ..

theorem converterNoted_onlyHostSide (m : Mach) (k : Nat) : OnlyHostSide m (converterNoted m k) :=
  (odSet_onlyHostSide ..).trans (postEvent_onlyHostSide ..)

theorem fuseOpened_engineKept (m : Mach) (key v : Nat) : EngineKept m (fuseOpened m key v) :=
  ⟨rfl, rfl, rfl, rfl, rfl, rfl, rfl, rfl, rfl, rfl⟩

/-- The fault of a domain that is no dune's, once its e-fuse has opened. -/
theorem fuseFault_spec (m : Mach) (key : Nat) {code : Nat} (hcode : code ≠ 0x501 ∧ code ≠ 0x502) (erg beat : Nat) :
    let n := raiseFault (fuseOpened m key 1) code erg 63 127 0 beat 0
    sget 0 n.power.efuse key ≠ 0 ∧ EngineKept m n ∧
      ∃ x, n.raised = m.raised ++ [x] ∧ x.code = BitVec.ofNat 16 code ∧ x.erg = erg := by
  intro n
  have hfault : OnlyFaulted (fuseOpened m key 1) n := raiseFault_onlyFaulted _ (by omega) hcode ..
  refine ⟨?_, (fuseOpened_engineKept ..).trans hfault.engineKept, _, raiseFault_raised .., rfl, rfl⟩
  rw [hfault.frame]
  exact fuseOpened_open m key Nat.one_ne_zero

/-- A bundle whose e-fuse has opened has no supply and no live lane. -/
theorem efuseTripped_bundle (m : Mach) (k : Fin 8) :
    FusesKept (fuseOpened m (domainKey (.bundle k)) 1) (efuseTripped m (.bundle k)) ∧
      (getBundle (efuseTripped m (.bundle k)) k.val).live = 0 ∧ (getBundle (efuseTripped m (.bundle k)) k.val).supply = false ∧
      EngineKept m (efuseTripped m (.bundle k)) := by
  have hlost := bundleLost_onlyLanesLost (fuseOpened m (domainKey (.bundle k)) 1) k.val
  have hlive := (bundleLost_lanes (fuseOpened m (domainKey (.bundle k)) 1) k.val).2.1
  have hkept := hlost.trans (setBundle_onlyLanesLost _ k.val
    { getBundle (bundleLost (fuseOpened m (domainKey (.bundle k)) 1) k.val) k.val with supply := false })
  refine ⟨hkept.fusesKept, ?_, ?_, (fuseOpened_engineKept ..).trans hkept.engineKept⟩
  · rw [efuseTripped, getBundle_setBundle_same]
    exact hlive
  · rw [efuseTripped, getBundle_setBundle_same]

/-- A feed that has changed. -/
def withFeeds (m : Mach) (n : Nat) : Mach := { m with power := { m.power with feeds := n } }

theorem tryPower_of_on {m : Mach} (h : m.mode ≠ .off) : tryPower m = m := if_neg fun hoff => h hoff.1

theorem execFeedRejoin_eq {s : State} {b : Bool} (hmode : s.m.mode ≠ .off) (hfeeds : s.m.power.feeds = if b then 1 else 2) :
    execFeedRejoin b s = .next { s with m := withFeeds s.m 3 } := by
  have hjoined : ¬s.m.power.feeds / feedBit b % 2 = 1 ∧ s.m.power.feeds + feedBit b = 3 := by
    cases b <;> simp [hfeeds, feedBit]
  rw [execFeedRejoin, nextM]
  dsimp only
  rw [if_neg hjoined.1, hjoined.2]
  exact congrArg (fun n => Host.Outcome.next { s with m := n }) (tryPower_of_on (m := withFeeds s.m 3) hmode)

/-- A feed isolated while the other carries the load: counted and reported. -/
def feedIsolated (m : Mach) (b : Bool) : Mach :=
  postEvent (count (withFeeds m (if b then 1 else 2)) 0x4000 8 1) 0x8004 0 0xFF (feedBit b - 1)

theorem feedIsolated_onlyHostSide (m : Mach) (b : Bool) : OnlyHostSide (withFeeds m (if b then 1 else 2)) (feedIsolated m b) :=
  (count_onlyHostSide ..).trans (postEvent_onlyHostSide ..)

theorem feedIsolated_feeds (m : Mach) (b : Bool) : (feedIsolated m b).power.feeds = if b then 1 else 2 :=
  congrArg Power.feeds (feedIsolated_onlyHostSide m b).supplyKept.power

theorem execFeedIsolate_eq {s : State} {b : Bool} (hpowered : powered s.m = true) (hfeeds : s.m.power.feeds = 3) :
    execFeedIsolate b s = .next { s with m := feedIsolated s.m b } := by
  have hleft : ¬s.m.power.feeds / feedBit b % 2 = 0 ∧ s.m.power.feeds - feedBit b = if b then 1 else 2 := by
    cases b <;> simp [hfeeds, feedBit]
  have hremains : ¬(feedIsolated s.m b).power.feeds = 0 := by
    rw [feedIsolated_feeds]
    cases b <;> decide
  have hon : powered (withFeeds s.m (if b then 1 else 2)) = true := hpowered
  rw [execFeedIsolate, nextM]
  dsimp only
  rw [if_neg hleft.1, hleft.2]
  exact congrArg (fun n => Host.Outcome.next { s with m := n }) ((congrArg (fun m : Mach => if m.power.feeds = 0 then powerDown m 1 else m) (if_pos hon)).trans (if_neg hremains))

/-- Settles O56: PWR_EN and the feeds by `enterPowering_spec` and `powerDown_off`, converters and e-fuses by `converterFails_onlyFaulted`
and the lemmas about `efuseTripped`; time that passes leaves the power board (`advance_supplyKept`). -/
theorem powerComesAndGoes : Obligations.PowerComesAndGoes := by
  intro s p off
  refine ⟨fun lowUs slot hlow hoff hfeeds hdead => ?assert, fun henabled hmode => ?deassert, fun hmode => ?lost,
    fun b hpowered hfeeds => ?isolate, fun b hmode hfeeds => ?rejoin, fun k hpowered hworks => ?converter,
    fun d hpowered hclosed => ?efuse, fun hpowered hmode hroot => ?pps⟩
  case assert =>
    obtain ⟨n, efuse, hn, hmode, hnow, hpower, hhtc, hconverters, hengine⟩ := enterPowering_asserted hoff lowUs slot
    have hexec := execPwrEnAssert_powers (lowUs := lowUs) (slot := slot) hlow hoff hfeeds
    rw [hn] at hexec
    refine ⟨n, hexec, hmode, ?_, ?_, ?_, ?_, hnow, hhtc, hconverters, ?_, hengine⟩
    · rw [hpower, boardUp]
    · rw [hpower, boardUp]
    · rw [hpower, boardUp]
    · rw [hpower, boardUp]
    · rw [powered, hmode, hpower, boardUp]
      exact congrArg (fun b => !b) hdead
  case deassert =>
    let low := { s.m with power := { p with pwrEn := false, lowSince := s.m.now } }
    obtain ⟨w, hkept, hdown⟩ := powerDown_off (m := low) hmode 2
    have hexec : execPwrEnDeassert s = .next { s with m := powerDown low 2 } := by
      show Host.Outcome.next { s with m := if p.pwrEn then powerDown low 2 else s.m } = _
      rw [if_pos henabled]
    have hpower : w.power = low.power := hkept.power
    rw [hdown] at hexec
    refine ⟨_, hexec, ⟨rfl, rfl, rfl, rfl, rfl, rfl, hkept.retirement, hkept.flashThumb, hkept.now, htcNow_offState w⟩, ?_, ?_, ?_⟩
    · show w.power.pwrEn = false
      rw [hpower]
    · show w.power.lowSince = s.m.now
      rw [hpower]
    · show w.power.feeds = p.feeds
      rw [hpower]
  case lost =>
    let dark := { s.m with power := { p with feeds := 0 } }
    obtain ⟨w, hkept, hdown⟩ := powerDown_off (m := dark) hmode 1
    have hexec : execFeedsLost s = .next { s with m := powerDown dark 1 } := rfl
    rw [hdown] at hexec
    refine ⟨_, hexec, ⟨rfl, rfl, rfl, rfl, rfl, rfl, hkept.retirement, hkept.flashThumb, hkept.now, htcNow_offState w⟩, ?_⟩
    show w.power.feeds = 0
    rw [hkept.power]
  case isolate =>
    have hkept := feedIsolated_onlyHostSide s.m b
    have hfed : EngineKept s.m (withFeeds s.m (if b then 1 else 2)) := ⟨rfl, rfl, rfl, rfl, rfl, rfl, rfl, rfl, rfl, rfl⟩
    obtain ⟨e, hlast, hcode⟩ := postEvent_events (count (withFeeds s.m (if b then 1 else 2)) 0x4000 8 1) 0x8004 0 0xFF (feedBit b - 1)
    refine ⟨_, execFeedIsolate_eq hpowered hfeeds, feedIsolated_feeds s.m b, hkept.mode, ?_, ⟨e, hlast, hcode⟩, hfed.trans hkept.engineKept⟩
    rw [feedIsolated, odGet_postEvent_ne _ (by decide), odGet_count_same]
    rfl
  case rejoin => exact ⟨_, execFeedRejoin_eq hmode hfeeds, rfl⟩
  case converter =>
    have hnoted := converterNoted_onlyHostSide s.m k.val
    have hfails := converterFails_onlyFaulted hworks
    obtain ⟨e, hlast, hcode⟩ := postEvent_events (odSet s.m 0x4000 7 (odGet s.m 0x4000 7 - 2 ^ k.val)) 0x8005 (k.val / 3) 63 k.val
    have hexec : execConverterFailure k s = .next { s with m := converterFails s.m k.val } := by
      simp only [execConverterFailure, nextM, hpowered, if_true]
    refine ⟨_, hexec, ?_, ⟨e, ?_, hcode⟩, hnoted.engineKept.trans hfails.engineKept, fun hall => ?_⟩
    · rw [hfails.odGet_eq, converterNoted, odGet_postEvent_ne _ (by decide), odGet_odSet_same]
    · have hevents : (converterFails s.m k.val).events = (converterNoted s.m k.val).events := by rw [hfails.frame]
      rw [hevents]
      exact hlast
    · rw [converterFails_eq hworks, hall, if_neg (failedOf_first k), hnoted.frame]
  case efuse =>
    refine ⟨_, execEfuseTrip_eq hpowered hclosed, ?_⟩
    cases d with
    | dune e =>
      have hkept := efuseTripped_dune_fusesKept s.m e
      exact ⟨⟨fusesKept_open hkept (duneTripped_open s.m e), hkept.hbm, hkept.now⟩, fun husable =>
        ⟨fun hused hjob => efuseTripped_dune_unused husable hused hjob, fun hused => efuseTripped_dune_used husable hused⟩⟩
    | hbm k =>
      obtain ⟨hopen, hkept, hraised⟩ := fuseFault_spec s.m (domainKey (.hbm k)) (code := 0x703) (by omega) (k.val / 8) (beatHere s.m)
      exact ⟨⟨hopen, hkept.hbm, hkept.now⟩, hkept.sram, hraised⟩
    | bundle k =>
      obtain ⟨hfuses, hlive, hsupply, hkept⟩ := efuseTripped_bundle s.m k
      exact ⟨⟨fusesKept_open hfuses (fuseOpened_open _ _ Nat.one_ne_zero), hkept.hbm, hkept.now⟩, hlive, hsupply, hkept⟩
    | edge e =>
      by_cases he : e = 0
      · obtain ⟨hdead, hfault, hlink, hkept⟩ := stewardLost_dead (fuseOpened s.m (domainKey (.edge e)) 1)
        rw [efuseTripped, if_pos he]
        exact ⟨⟨fusesKept_open hkept (fuseOpened_open _ _ Nat.one_ne_zero), hkept.hbm, hkept.now⟩, (if_pos he).mpr ⟨hdead, hfault, hlink⟩⟩
      · obtain ⟨hopen, hkept, hraised⟩ := fuseFault_spec s.m (domainKey (.edge e)) (code := 0x704) (by omega) e.val (beatHere s.m)
        rw [efuseTripped, if_neg he]
        exact ⟨⟨hopen, hkept.hbm, hkept.now⟩, (if_neg he).mpr ⟨hkept.sram, hraised⟩⟩
  case pps =>
    have hkept := advance_supplyKept s.m (tuAt s.m ((htcNow s.m / 1000000000 + 1) * 1000000000))
    have hnow := advance_now s.m (tuAt s.m ((htcNow s.m / 1000000000 + 1) * 1000000000))
    have hhbm := (advance_driversKept s.m (tuAt s.m ((htcNow s.m / 1000000000 + 1) * 1000000000))).hbm
    exact ⟨_, execPpsSecond_eq hpowered hmode hroot, congrArg (·.pps + 1) hkept.power, hnow, hhbm⟩

end Sys2Proof.Machine

/-! SUPPORT. Keys, rollback counters, root keys, evidence and entropy: every command is its check and then either its code or its
run (R505, R508, R510–R512, R516, R518). -/

namespace Sys2Proof.Machine

/-! ## A command is refused with its code, or run -/

/-- A command whose write fails a check answers the code and nothing else; one that passes is run. -/
theorem commandRow_yields {s : State} {i : Instr} {v : Via} {check : Option Nat} {run : Mach → Mach} {P : Mach → Prop}
    (hexec : exec i s = nextM s fun m => commandRow m v check run) (hrun : check = none → P (run s.m)) :
    Yields s i fun n => (∀ c, check = some c → n = emit s.m (.odResult v (BitVec.ofNat 32 c) 0 [])) ∧
      (check = none → P n) := by
  refine ⟨_, hexec, ?_⟩
  cases check with
  | some c => exact ⟨fun _ hc => Option.some.inj hc ▸ rfl, fun hnone => absurd hnone (by simp)⟩
  | none => exact ⟨fun _ hc => absurd hc (by simp), fun _ => hrun rfl⟩

/-- An object changed and the command answered: the answer is sent, and the engine is as it was. -/
theorem answer_odSet_done (m : Mach) (idx sub x : Nat) (v : Via) :
    (answer (odSet m idx sub x) v none 0).out = m.out ++ [.odResult v 0 0 []] ∧
      EngineKept m (answer (odSet m idx sub x) v none 0) ∧ odGet (answer (odSet m idx sub x) v none 0) idx sub = x :=
  ⟨rfl, ⟨rfl, rfl, rfl, rfl, rfl, rfl, rfl, rfl, rfl, rfl⟩, odGet_odSet_same m idx sub x⟩

/-! ## Keys (R510) -/

theorem keyRun_enrolls {data : List Byte} (hop : field data 0 1 = 1) (m : Mach) (v : Via) : keyRun m v data none =
    { m with nvQueue := m.nvQueue ++ [{ via := v, items := [], command := true,
                                        keys := some (comingKeys m ++ [commandKey data]) }] } := by
  simp only [keyRun, hop, if_true, queueNv]

theorem keyRun_removes {data : List Byte} (hop : field data 0 1 = 2) (m : Mach) (v : Via) : keyRun m v data none =
    { m with nvQueue := m.nvQueue ++ [{ via := v, items := [], command := true,
                                        keys := some ((comingKeys m).filter fun k => k.keyId != commandKeyId data) }] } := by
  have hnot : ¬field data 0 1 = 1 := by omega
  simp only [keyRun, hnot, if_false, queueNv]

/-! ## Evidence (R516) -/

theorem length_padTo (n : Nat) (bs : List Byte) : (padTo n bs).length = n := by
  simp only [padTo, List.length_append, List.length_take, List.length_replicate]
  omega

theorem length_bytes384 (x : BitVec 384) : (bytes384 x).length = 48 := by rw [bytes384, List.length_reverse, leBytes_length]

theorem length_measurements (regs : Vector (BitVec 384) 6) : (regs.toList.flatMap bytes384).length = 288 := by
  simp [List.length_flatMap, length_bytes384]

/-- What stands in evidence after the nonce. -/
def evidenceRest (m : Mach) : List Byte :=
  leBytes 8 (htcNow m) ++ leBytes 4 (firmwareVersion m) ++ leBytes 1 (modCode m.mode) ++ leBytes 1 (if m.gradeE then 1 else 0)
  ++ leBytes 1 (if m.steppingB1 then 1 else 0) ++ [0] ++ m.sec.meas.toList.flatMap bytes384 ++ bytes384 (imageHash m)
  ++ bytes384 (configHash m) ++ (List.range 3).flatMap (fun t => leBytes 1 (odGet m 0x7010 (t + 1))) ++ List.replicate 13 0
  ++ padTo 32 Config.serialNumber

theorem length_evidenceRest (m : Mach) : (evidenceRest m).length = 448 := by
  simp [evidenceRest, leBytes_length, length_padTo, length_bytes384, List.length_flatMap]

/-- Evidence names its format, and holds the nonce from byte 16 on. -/
theorem evidenceBody_parts (m : Mach) (nonce : List Byte) : ∃ version, version.length = 8 ∧
    evidenceBody m nonce = asciiBytes "KE8EVIDN" ++ version ++ padTo 32 nonce ++ evidenceRest m := by
  unfold evidenceBody
  extract_lets bit flags
  refine ⟨leBytes 2 1 ++ leBytes 2 flags ++ leBytes 4 ((m.job.map (·.id.toNat)).getD 0), by simp [leBytes_length], ?_⟩
  simp only [evidenceRest, List.append_assoc]

/-- Evidence is its body and three digests of 48 bytes: a key_id and the halves of a signature. -/
theorem makeEvidence_bytes (m : Mach) (nonce : List Byte) : ∃ id r s : BitVec 384,
    (makeEvidence m nonce).1 = evidenceBody m nonce ++ bytes384 id ++ bytes384 r ++ bytes384 s := ⟨_, _, _, rfl⟩

/-- Evidence is 640 bytes, names its format, and holds the nonce. -/
theorem makeEvidence_spec (m : Mach) (nonce : List Byte) : (makeEvidence m nonce).1.length = 640 ∧
    (makeEvidence m nonce).1.take 8 = asciiBytes "KE8EVIDN" ∧ ((makeEvidence m nonce).1.drop 16).take 32 = padTo 32 nonce := by
  obtain ⟨id, r, s, hbytes⟩ := makeEvidence_bytes m nonce
  obtain ⟨version, hversion, hbody⟩ := evidenceBody_parts m nonce
  have hname : (asciiBytes "KE8EVIDN").length = 8 := by decide
  have hhead : (asciiBytes "KE8EVIDN" ++ version).length = 16 := by rw [List.length_append, hname, hversion]
  rw [hbytes, hbody]
  refine ⟨by simp only [List.length_append, length_padTo, length_evidenceRest, length_bytes384, hname, hversion], ?_, ?_⟩
  · simp only [List.append_assoc]
    exact List.take_left' hname
  · rw [List.append_assoc, List.append_assoc, List.append_assoc, List.append_assoc, List.drop_left' hhead]
    exact List.take_left' (length_padTo 32 nonce)

/-- AttestNonce carried out answers, leaves the engine, and keeps the evidence of the mailbox's client. -/
theorem nonceRun_done (m : Mach) (v : Via) (data : List Byte) :
    ((nonceRun m v data none).out = m.out ++ [.odResult v 0 0 []] ∧ EngineKept m (nonceRun m v data none)) ∧
      (v = .mailbox → (nonceRun m v data none).sec.evidence0 = (makeEvidence m data).1) := by
  cases v with
  | mailbox => exact ⟨⟨rfl, rfl, rfl, rfl, rfl, rfl, rfl, rfl, rfl, rfl, rfl⟩, fun _ => rfl⟩
  | session k => exact ⟨⟨rfl, rfl, rfl, rfl, rfl, rfl, rfl, rfl, rfl, rfl, rfl⟩, nofun⟩

/-! ## Entropy (R508) -/

/-- One bit of a word of four taken away. -/
theorem getLsbD_clear (x : BitVec 4) (e : Fin 4) : (x &&& ~~~BitVec.ofNat 4 (2 ^ e.val)).getLsbD e.val = false ∧
    ∀ k, k ≠ e.val → (x &&& ~~~BitVec.ofNat 4 (2 ^ e.val)).getLsbD k = x.getLsbD k := by
  have hbit (k : Nat) : (BitVec.ofNat 4 (2 ^ e.val)).getLsbD k = (decide (k < 4) && decide (e.val = k)) := by
    rw [BitVec.getLsbD_ofNat, Nat.testBit_two_pow]
  simp only [BitVec.getLsbD_and, BitVec.getLsbD_not, hbit]
  refine ⟨by simp, fun k hk => ?_⟩
  have hother : decide (e.val = k) = false := by simp [hk.symm]
  by_cases hlt : k < 4
  · simp [hother, hlt]
  · simp [BitVec.getLsbD_of_ge x k (by omega)]

/-- The element of erg `e` serves no more. -/
def servesNoMore (m : Mach) (e : Fin 4) : Mach :=
  { m with sec := { m.sec with serving := m.sec.serving &&& ~~~BitVec.ofNat 4 (2 ^ e.val) } }

theorem exec_healthTestFailure {s : State} (hpowered : powered s.m = true) (e : Fin 4) :
    exec (.healthTestFailure e) s = .next { s with m := raiseFault (servesNoMore s.m e) 0x70A e.val 63 127 0 (beatHere s.m) 0 } := by
  simp only [exec, execHealthTestFailure, nextM, hpowered, Bool.not_true, Bool.false_eq_true, if_false]
  rfl

theorem healthTestFailure_yields {s : State} (hpowered : powered s.m = true) (e : Fin 4) :
    Yields s (.healthTestFailure e) fun n => EngineKept s.m n ∧
      n.sec.serving.getLsbD e.val = false ∧ (∀ k, k ≠ e.val → n.sec.serving.getLsbD k = s.m.sec.serving.getLsbD k) ∧
      ∃ x, n.raised = s.m.raised ++ [x] ∧ x.code = 0x070A ∧ x.erg = e.val := by
  refine ⟨_, exec_healthTestFailure hpowered e, ?_⟩
  have hfaulted : OnlyFaulted (servesNoMore s.m e)
      (raiseFault (servesNoMore s.m e) 0x70A e.val 63 127 0 (beatHere s.m) 0) :=
    raiseFault_onlyFaulted _ (by omega) (by omega) ..
  have hraised := raiseFault_raised (servesNoMore s.m e) 0x70A e.val 63 127 0 (beatHere s.m) 0
  have hstops : EngineKept s.m (servesNoMore s.m e) := ⟨rfl, rfl, rfl, rfl, rfl, rfl, rfl, rfl, rfl, rfl⟩
  have hserving : (raiseFault (servesNoMore s.m e) 0x70A e.val 63 127 0 (beatHere s.m) 0).sec.serving =
      s.m.sec.serving &&& ~~~BitVec.ofNat 4 (2 ^ e.val) := by
    rw [hfaulted.frame]
    rfl
  dsimp only
  rw [hserving]
  exact ⟨hstops.trans hfaulted.engineKept, (getLsbD_clear _ e).1, (getLsbD_clear _ e).2, _, hraised, rfl, rfl⟩

/-- Settles O59: every command is its check and its run; what waits for storage is only queued, and the element whose test fails is
the one that stops. -/
theorem keysAndAttestation : Obligations.KeysAndAttestation := by
  unfold Obligations.KeysAndAttestation
  intro s v data refused stores done
  refine ⟨fun hop => ?enroll, fun hop => ?remove, ?release, ?vendor, ?rollback, ?revoke, ?nonce,
    fun e hpowered => healthTestFailure_yields hpowered e⟩
  case enroll => exact commandRow_yields rfl fun _ => keyRun_enrolls hop s.m v
  case remove =>
    refine commandRow_yields rfl fun _ => ⟨_, keyRun_removes hop s.m v, fun x => ?_⟩
    rw [List.mem_filter, bne_iff_ne]
  case release => exact commandRow_yields rfl fun _ => ⟨_, rfl, rfl, rfl, .head _, .tail _ (.head _)⟩
  case vendor =>
    exact commandRow_yields (run := fun m => queueNv m { via := v, items := [(objKey 0x7100 4, leNat data)] }) rfl fun _ => rfl
  case rollback =>
    refine commandRow_yields rfl fun _ => ?_
    obtain ⟨hout, hkept, hvalue⟩ := answer_odSet_done s.m 0x7010 (leNat data + 1)
      (max (odGet s.m 0x7010 (leNat data + 1)) (min (runningSecurity s.m (leNat data)) 64)) v
    exact ⟨⟨hout, hkept⟩, hvalue⟩
  case revoke =>
    refine commandRow_yields rfl fun _ => ?_
    obtain ⟨hout, hkept, hvalue⟩ := answer_odSet_done s.m 0x7000 6 (odGet s.m 0x7000 6 ||| 2 ^ field data 0 1) v
    exact ⟨⟨hout, hkept⟩, hvalue⟩
  case nonce =>
    refine commandRow_yields rfl fun _ => ?_
    obtain ⟨hdone, hevidence⟩ := nonceRun_done s.m v data
    refine ⟨hdone, fun hmailbox => ?_⟩
    rw [hevidence hmailbox]
    exact makeEvidence_spec s.m data

end Sys2Proof.Machine

/-! SUPPORT. What entry into STANDBY leaves as it was, bask ended included (R375, R378, R455, R459, R525). -/

namespace Sys2Proof.Machine

/-! ## Whether a dune basks -/

/-- Whether some entry has a property that the default lacks does not change where every entry is changed to one like it. -/
theorem any_smap {α : Type} [DecidableEq α] (d : α) (p : α → Bool) (f : Nat → α → α) (m : SMap α) (hf : ∀ k v, p (f k v) = p v)
    (hd : p d = false) : ((smap d m f).any fun e => p e.2) = m.any fun e => p e.2 := by
  induction m with
  | nil => rfl
  | cons e rest ih =>
    obtain ⟨k, v⟩ := e
    by_cases hv : f k v = d
    · have hlacks : p v = false := by rw [← hf k v, hv, hd]
      simpa [smap, hv, hlacks] using ih
    · simp only [smap, List.filterMap_cons, hv, if_false, List.any_cons, hf]
      exact congrArg (p v || ·) ih

/-- Some dune basks (R459). -/
def anyBasks (m : Mach) : Bool := m.dunes.any fun d => d.2.basking

theorem anyBasks_smap (m : Mach) (f : Nat → DuneState → DuneState) (hf : ∀ k d, (f k d).basking = d.basking) :
    anyBasks { m with dunes := smap {} m.dunes f } = anyBasks m :=
  any_smap ({} : DuneState) (fun d => d.basking) f m.dunes hf rfl

theorem anyBasks_stopBask (m : Mach) : anyBasks (stopBask m) = false := by
  rw [anyBasks, List.any_eq_false]
  intro e he
  simp only [stopBask, smap, List.mem_filterMap] at he
  obtain ⟨x, -, hx⟩ := he
  split at hx
  · cases hx
  · rw [← Option.some.inj hx]
    simp

theorem anyBasks_leaveBask (m : Mach) : anyBasks (leaveBask m) = false := by
  unfold leaveBask
  split
  next => exact anyBasks_stopBask m
  next hnone => simpa [anyBasks] using hnone

theorem leaveBask_of_anyBasks {m : Mach} (h : anyBasks m = false) : leaveBask m = m := by
  rw [leaveBask, if_neg]
  simpa [anyBasks] using h

/-- The dunes of an island that is set: the island is not in ACQUIRE, so that a dune of it stays listed. -/
theorem anyBasks_setIsland (m : Mach) (i : Island) {x : IslandState} (hx : x.time ≠ .acquire) :
    anyBasks (setIsland m i x) = anyBasks m := by
  cases i with
  | dune d =>
    have hlisted : { getDune m d with time := x.time, exchanged := x.exchanged, holdSince := x.holdSince, copy := x.copy } ≠
        ({} : DuneState) := fun h => hx (congrArg DuneState.time h)
    rw [setIsland, anyBasks, setDune, sset, if_neg hlisted]
    exact any_sput (v := { getDune m d with time := x.time, exchanged := x.exchanged, holdSince := x.holdSince, copy := x.copy })
      {} (fun d => d.basking) m.dunes (duneKey d) rfl rfl
  | _ => rfl

theorem anyBasks_moveRoot (m : Mach) (ns : Int) : anyBasks (moveRoot m ns) = anyBasks m := by
  unfold moveRoot
  refine List.foldlRecOn (motive := fun n : Mach => anyBasks n = anyBasks m) _ _ rfl fun n hn i _ => ?_
  dsimp only
  split
  next => exact hn
  next hi => exact Eq.trans (anyBasks_setIsland n i fun h => hi (.inr h)) hn

/-! ## A state entered, with bask ended -/

theorem anyBasks_setState {m : Mach} {st : ModState} (h : m.mode ≠ st) : anyBasks (setState m st) = false := by
  unfold setState
  rw [if_neg h]
  extract_lets power m1 m2
  have h1 : anyBasks m1 = false := anyBasks_leaveBask _
  have h2 : anyBasks m2 = anyBasks m1 := by
    unfold m2
    split <;> rfl
  have hposted : OnlyHostSide m2 (postEvent m2 0x800C 0 0xFF (modCode st)) := postEvent_onlyHostSide ..
  rw [anyBasks, hposted.frame]
  exact h2.trans h1

/-- Bask ends at the latest with the next change of state. -/
theorem setState_leaveBask (m : Mach) (st : ModState) : EngineKept (leaveBask m) (leaveBask (setState m st)) := by
  by_cases h : m.mode = st
  · rw [setState, if_pos h]
    exact ⟨rfl, rfl, rfl, rfl, rfl, rfl, rfl, rfl, rfl, rfl⟩
  · rw [leaveBask_of_anyBasks (anyBasks_setState h)]
    exact (setState_entered h).engine

/-! ## STANDBY entered -/

/-- From `a` to `n` the module has changed its state, STANDBY perhaps among them: bask ended, clocks and dunes readied, and the
event posted. -/
structure OnlyStateChanged (a n : Mach) : Prop where
  frame : n = { a with mode := n.mode, power := n.power, rows := n.rows, dunes := n.dunes, baskFired := n.baskFired,
                       waitingB := n.waitingB, od := n.od, events := n.events, fns := n.fns, ctxs := n.ctxs, chains := n.chains,
                       ledger := n.ledger, sessions := n.sessions, out := n.out, islands := n.islands, htcOffset := n.htcOffset,
                       pendingStep := n.pendingStep }
  objects : ∀ key, key ≠ objKey 0x5300 8 → key ≠ objKey 0x6030 8 → sget 0 n.od key = sget 0 a.od key

/-- From `a` to `n` STANDBY has been entered, and bask ended. -/
structure StandbyEntered (a n : Mach) : Prop extends OnlyStateChanged a n where
  mode : n.mode = .standby
  engine : EngineKept (leaveBask a) n

namespace OnlyStateChanged

variable {a m n : Mach}

theorem refl (a : Mach) : OnlyStateChanged a a := ⟨rfl, fun _ _ _ => rfl⟩

theorem trans (h : OnlyStateChanged a m) (h' : OnlyStateChanged m n) : OnlyStateChanged a n :=
  ⟨h'.frame.trans (by rw [h.frame]), fun key hstep hevents =>
    (h'.objects key hstep hevents).trans (h.objects key hstep hevents)⟩

theorem odGet_eq (h : OnlyStateChanged a n) {idx sub : Nat} (hstep : objKey idx sub ≠ objKey 0x5300 8)
    (hevents : objKey idx sub ≠ objKey 0x6030 8) : odGet n idx sub = odGet a idx sub := by
  have hdefault : objDefault n (objKey idx sub) = objDefault a (objKey idx sub) := by rw [h.frame]; rfl
  rw [odGet, h.objects _ hstep hevents, hdefault, odGet]

theorem hbmByte_eq (h : OnlyStateChanged a n) (y : Nat) : hbmByte n y = hbmByte a y :=
  hbmByte_congr (by rw [h.frame]) (by rw [h.frame])
    (laidByte_congr (by rw [h.frame]) (by rw [h.frame]) (by rw [h.frame]) (by rw [h.frame]) (h.odGet_eq (by decide) (by decide)) y)

theorem sec (h : OnlyStateChanged a n) : n.sec = a.sec := by rw [h.frame]
theorem answers (h : OnlyStateChanged a n) : n.answers = a.answers := by rw [h.frame]

end OnlyStateChanged

theorem setState_onlyStateChanged (m : Mach) (st : ModState) : OnlyStateChanged m (setState m st) := by
  by_cases h : m.mode = st
  · rw [setState, if_pos h]
    exact .refl m
  · have hentered := setState_entered h
    refine ⟨?_, fun key _ hevents => hentered.objects key hevents⟩
    rw [hentered.frame]

theorem reviveDunes_basks (m : Mach) : anyBasks (reviveDunes m) = anyBasks m :=
  anyBasks_smap m _ fun _ d => by split <;> rfl

/-- From `a` to `n` clocks, islands and dunes have been readied for STANDBY, and as many dunes bask. -/
structure OnlyReadied (a n : Mach) : Prop where
  frame : n = { a with dunes := n.dunes, od := n.od, islands := n.islands, htcOffset := n.htcOffset, pendingStep := n.pendingStep }
  basking : anyBasks n = anyBasks a

theorem enterStandby_entered {m : Mach} (h : m.mode ≠ .standby) : StandbyEntered m (enterStandby m) := by
  obtain ⟨-, hobjects⟩ := enterStandby_standby m
  obtain ⟨w, ⟨hframe, hbasks⟩, heq⟩ : ∃ w : Mach, OnlyReadied m w ∧ enterStandby m = setState w .standby := by
    unfold enterStandby
    extract_lets moved m1 k x m2
    have hmoved : OnlyClocks m moved := moveRoot_onlyClocks ..
    have hmovedBasks : anyBasks moved = anyBasks m := anyBasks_moveRoot ..
    clear_value moved
    have h1 : OnlyReadied m m1 := by
      unfold m1
      split
      · exact ⟨by rw [hmoved.frame]; rfl, hmovedBasks⟩
      · exact ⟨rfl, rfl⟩
    have h2 : m2 = { m1 with islands := m2.islands } := by
      unfold m2
      split <;> rfl
    clear_value m1 m2
    refine ⟨reviveDunes m2, ⟨?_, ?_⟩, rfl⟩
    · rw [h2, h1.frame]
      rfl
    · rw [reviveDunes_basks, h2]
      exact h1.basking
  have hmode : w.mode ≠ .standby := by rwa [hframe]
  have hentered := setState_entered hmode
  have hkept : EngineKept m w := by constructor <;> rw [hframe]
  refine ⟨⟨?_, hobjects⟩, ?_, ?_⟩
  · rw [heq, hentered.frame, hframe]
  · rw [heq, hentered.mode]
  · rw [heq]
    exact (leaveBask_engineKept_of_any hbasks hkept).trans hentered.engine

end Sys2Proof.Machine

/-! SUPPORT. Boot ROMs, the ends of POWERING and SELFTEST, and firmware installed, written and synchronised (R503, R524–R527, R532).
The model's readings: the result of a package is known at acceptance (assumptions 68 and 112), self-test leaves memories and stores
empty (assumption 109), and SYNC ends at once (assumption 113). -/

namespace Sys2Proof.Machine

/-! ## Bits of BootCopy (R536) -/

theorem natBits_splice_same (x k b : Nat) (hb : b < 2) : natBits (spliceBits x k 1 b) k k = b := by
  have hwidth : k + 1 - k = 1 := by omega
  simp only [natBits, spliceBits, hwidth, Nat.pow_succ, Nat.pow_zero, one_mul]
  have hlow : x % 2 ^ k < 2 ^ k := Nat.mod_lt _ (by positivity)
  rw [show x % 2 ^ k + 2 ^ k * (b % 2) + 2 ^ k * 2 * (x / (2 ^ k * 2)) = x % 2 ^ k + 2 ^ k * (b % 2 + 2 * (x / (2 ^ k * 2))) by ring,
    Nat.add_mul_div_left _ _ (by positivity), Nat.div_eq_of_lt hlow]
  omega

theorem natBits_splice_board (x b : Nat) : natBits (spliceBits x 4 1 b) 0 0 = natBits x 0 0 := by
  simp only [natBits, spliceBits]
  omega

/-! ## Boot ROMs (R503, R514) -/

/-- From `a` to `n` measurements have been extended. -/
structure OnlyMeasured (a n : Mach) : Prop where
  frame : n = { a with sec := { a.sec with meas := n.sec.meas } }

theorem OnlyMeasured.refl (a : Mach) : OnlyMeasured a a := ⟨rfl⟩

theorem OnlyMeasured.trans {a m n : Mach} (h : OnlyMeasured a m) (h' : OnlyMeasured m n) : OnlyMeasured a n :=
  ⟨h'.frame.trans (by rw [h.frame])⟩

theorem extendMeas_onlyMeasured (m : Mach) (k : Fin 6) (d : BitVec 384) : OnlyMeasured m (extendMeas m k d) := ⟨rfl⟩

theorem measureRunning_onlyMeasured (m : Mach) (reg : Fin 6) (type : Nat) (ks : List Nat) :
    OnlyMeasured m (measureRunning m reg type ks) :=
  List.foldlRecOn (motive := OnlyMeasured m) _ _ (.refl m) fun _ hn _ _ => hn.trans (extendMeas_onlyMeasured ..)

theorem measureOthers_onlyMeasured (m : Mach) : OnlyMeasured m (measureOthers m) := by
  unfold measureOthers
  split
  · exact measureRunning_onlyMeasured ..
  · exact .refl m

theorem OnlyMeasured.bootCopy_eq {a n : Mach} (h : OnlyMeasured a n) (k : Nat) : bootCopy n k = bootCopy a k := by
  rw [h.frame]
  rfl

/-- From `a` to `n` the firmware that runs at place `k` is `c`, which is copy B as `b` says. -/
structure Booted (k : Nat) (c : FlashCopy) (b : Bool) (a n : Mach) : Prop where
  frame : n = { a with sec := { a.sec with running := n.sec.running, booted := n.sec.booted, meas := n.sec.meas }, od := n.od }
  running : sget none n.sec.running k = some c
  bit : natBits (odGet n 0x7040 3) k k = if b then 1 else 0

/-- The machine in which place `k` runs `c`, out of reset. -/
def released (m : Mach) (k : Nat) (c : FlashCopy) : Mach :=
  { m with sec := { m.sec with
      running := sset none m.sec.running k (some c)
      booted := if k < 4 then m.sec.booted ||| BitVec.ofNat 4 (2 ^ k) else m.sec.booted } }

theorem startFirmware_eq (m : Mach) (k : Nat) (c : FlashCopy) (b : Bool) :
    startFirmware m k c b = setBootCopy (released m k c) k b := by
  by_cases hk : k < 4 <;> simp only [startFirmware, released, hk, if_true, if_false]

theorem startFirmware_booted (m : Mach) (k : Nat) (c : FlashCopy) (b : Bool) : Booted k c b m (startFirmware m k c b) := by
  have hbit : (if b then 1 else 0) < 2 := by split <;> omega
  rw [startFirmware_eq]
  refine ⟨rfl, sget_sset_same none m.sec.running k (some c), ?_⟩
  rw [setBootCopy, odGet_odSet_same]
  exact natBits_splice_same _ _ _ hbit

theorem startFirmware_bit (m : Mach) (e : Fin 4) (c : FlashCopy) (b : Bool) :
    (startFirmware m e.val c b).sec.booted.getLsbD e.val = true := by
  have hbooted : (startFirmware m e.val c b).sec.booted = m.sec.booted ||| BitVec.ofNat 4 (2 ^ e.val) := by
    rw [startFirmware_eq]
    exact if_pos e.isLt
  rw [hbooted, BitVec.getLsbD_or, BitVec.getLsbD_ofNat, Nat.testBit_two_pow]
  simp

theorem Booted.measured {k : Nat} {c : FlashCopy} {b : Bool} {a m n : Mach} (h : Booted k c b a m) (h' : OnlyMeasured m n) :
    Booted k c b a n ∧ n.sec.booted = m.sec.booted := by
  refine ⟨⟨?_, ?_, ?_⟩, by rw [h'.frame]⟩
  · rw [h'.frame, h.frame]
  · rw [h'.frame]
    exact h.running
  · rw [h'.frame]
    exact h.bit

theorem Booted.after_measured {k : Nat} {c : FlashCopy} {b : Bool} {a m n : Mach} (h : OnlyMeasured a m) (h' : Booted k c b m n) :
    Booted k c b a n := ⟨h'.frame.trans (by rw [h.frame]), h'.running, h'.bit⟩

/-- The power board starts, and the module steward's firmware runs on. -/
theorem Booted.board {c : FlashCopy} {b : Bool} {a m : Mach} (h : Booted 0 c b a m) :
    Booted 0 c b a (bootBoard m) ∧ (bootBoard m).sec.booted = m.sec.booted := by
  unfold bootBoard
  split
  next c' b' _ =>
    have hstarted := startFirmware_booted m 4 c' b'
    have hsame : (startFirmware m 4 c' b').sec.booted = m.sec.booted := rfl
    have hboth : Booted 0 c b a (startFirmware m 4 c' b') := by
      refine ⟨?_, ?_, ?_⟩
      · rw [hstarted.frame, h.frame]
      · exact (sget_sset_ne none m.sec.running (some c') (by decide)).trans h.running
      · have hbits : odGet (startFirmware m 4 c' b') 0x7040 3 = spliceBits (odGet m 0x7040 3) 4 1 (if b' then 1 else 0) :=
          odGet_odSet_same ..
        rw [hbits, natBits_splice_board]
        exact h.bit
    obtain ⟨hmeasured, hkept⟩ := hboth.measured (measureRunning_onlyMeasured (startFirmware m 4 c' b') 3 1 [4])
    exact ⟨hmeasured, hkept.trans hsame⟩
  next => exact ⟨h, rfl⟩

/-- What a boot ROM makes of the machine whose boot ROM of erg 0 has been measured. -/
def romStarts (m : Mach) (e : Fin 4) (c : FlashCopy) (b : Bool) : Mach :=
  measureOthers (if e = 0 then bootBoard (measureRunning (startFirmware m e.val c b) 1 0 [0]) else startFirmware m e.val c b)

theorem romStarts_booted (m : Mach) (e : Fin 4) (c : FlashCopy) (b : Bool) :
    Booted e.val c b m (romStarts m e c b) ∧ (romStarts m e c b).sec.booted.getLsbD e.val = true := by
  have hstarted := startFirmware_booted m e.val c b
  have hbit := startFirmware_bit m e c b
  unfold romStarts
  split
  next he =>
    subst he
    obtain ⟨hmeasured, hkept⟩ := hstarted.measured (measureRunning_onlyMeasured (startFirmware m 0 c b) 1 0 [0])
    obtain ⟨hboard, hkept'⟩ := hmeasured.board
    obtain ⟨hothers, hkept''⟩ := hboard.measured (measureOthers_onlyMeasured _)
    exact ⟨hothers, (congrArg (·.getLsbD 0) (hkept''.trans (hkept'.trans hkept))).trans hbit⟩
  next =>
    obtain ⟨hothers, hkept⟩ := hstarted.measured (measureOthers_onlyMeasured _)
    exact ⟨hothers, by rw [hkept]; exact hbit⟩

theorem execBootRomCheck_starts {s : State} {e : Fin 4} {c : FlashCopy} {b : Bool} (hpowered : powered s.m = true)
    (hmode : s.m.mode = .powering) (hreset : s.m.sec.booted.getLsbD e.val = false) (hcopy : bootCopy s.m e.val = some (c, b)) :
    ∃ m, OnlyMeasured s.m m ∧ execBootRomCheck e s = .next { s with m := romStarts m e c b } := by
  obtain ⟨m, hm, hmeasured⟩ : ∃ m, m = (if e = 0 then extendMeas s.m 0 Config.bootRomDigest else s.m) ∧ OnlyMeasured s.m m := by
    refine ⟨_, rfl, ?_⟩
    split
    · exact extendMeas_onlyMeasured ..
    · exact .refl _
  refine ⟨m, hmeasured, ?_⟩
  have hguard : ¬(s.m.mode ≠ .powering ∨ (!powered s.m) = true ∨ s.m.sec.booted.getLsbD e.val = true) := by
    simp only [hmode, hpowered, hreset]
    decide
  simp only [execBootRomCheck, nextM]
  rw [if_neg hguard, ← hm, hmeasured.bootCopy_eq, hcopy]
  rfl

/-! ## POWERING complete (R525) -/

/-- The Tj at which an extended self-test starts, noted. -/
def noteWarming (m : Mach) : Mach := { m with warming := if coefficientsStale m then some (duneTemperatures m) else none }

theorem execPoweringComplete_selftest {s : State} (hpowered : powered s.m = true) (hmode : s.m.mode = .powering)
    (hbooted : s.m.sec.booted = 15) :
    execPoweringComplete s = .next { s with m := setState (drawModuleKey (noteWarming s.m)) .selftest } := by
  simp only [execPoweringComplete, nextM]
  rw [if_pos ⟨hmode, hpowered, hbooted⟩]
  rfl

theorem poweringComplete_yields {s : State} (hpowered : powered s.m = true) (hmode : s.m.mode = .powering)
    (hbooted : s.m.sec.booted = 15) : Yields s .poweringComplete fun n => n.mode = .selftest ∧
      n.moduleKey = Config.freeWord s.m.fresh ∧ EngineKept (leaveBask s.m) n := by
  have hdiffers : (drawModuleKey (noteWarming s.m)).mode ≠ .selftest := fun h => by
    rw [show (drawModuleKey (noteWarming s.m)).mode = s.m.mode from rfl, hmode] at h
    cases h
  have hentered := setState_entered hdiffers
  have hdrawn : EngineKept (leaveBask s.m) (leaveBask (drawModuleKey (noteWarming s.m))) :=
    leaveBask_engineKept rfl ⟨rfl, rfl, rfl, rfl, rfl, rfl, rfl, rfl, rfl, rfl⟩
  refine ⟨_, execPoweringComplete_selftest hpowered hmode hbooted, hentered.mode, ?_, hdrawn.trans hentered.engine⟩
  rw [hentered.frame]
  rfl

/-! ## Self-test complete (R526, R527) -/

/-- The counts of one dune's strips. -/
def stripsCounted (m : Mach) (k n : Nat) : Mach :=
  countDune (countDune (countDune m (k / 48) (k % 48) 0x6140 1 n) (k / 48) (k % 48) 0x6130 2 (8 * n)) (k / 48) (k % 48) 0x6130 1 (16 * n)

/-- From `a` to `n` strips of self-test have been counted. -/
structure OnlyStripped (a n : Mach) : Prop where
  frame : n = { a with od := n.od }
  result : odGet n 0x6040 2 = odGet a 0x6040 2

theorem OnlyStripped.trans {a m n : Mach} (h : OnlyStripped a m) (h' : OnlyStripped m n) : OnlyStripped a n :=
  ⟨h'.frame.trans (by rw [h.frame]), h'.result.trans h.result⟩

theorem countDune_onlyStripped (m : Mach) {i k : Nat} (hne : objKey 0x6040 2 ≠ objKey i k) (erg num n : Nat) :
    OnlyStripped m (countDune m erg num i k n) := by
  refine ⟨?_, odGet_countDune_ne m hne (by decide) erg num n⟩
  obtain ⟨od, heq⟩ := countDune_eq m erg num i k n
  rw [heq]

theorem stripsCounted_onlyStripped (m : Mach) (k n : Nat) : OnlyStripped m (stripsCounted m k n) :=
  (countDune_onlyStripped m (by decide) ..).trans
    ((countDune_onlyStripped _ (by decide) ..).trans (countDune_onlyStripped _ (by decide) ..))

/-- From `a` to `n` the plates have been tested: counts, the Tj of the test, and the coefficients. -/
structure PlatesTested (a n : Mach) : Prop where
  frame : n = { a with od := n.od, selftest := n.selftest, warming := none, coeffFrom := n.coeffFrom, coeffTest := n.coeffTest,
                       fresh := n.fresh }
  result : odGet n 0x6040 2 = odGet a 0x6040 2
  extended : ∃ x, n.selftest = some x ∧ x.extended = a.warming.isSome

theorem plateTest_tested (m : Mach) : PlatesTested m (plateTest m) := by
  unfold plateTest
  extract_lets extended w
  have hw : OnlyStripped m w := by
    refine List.foldlRecOn (motive := OnlyStripped m) _ _ ⟨rfl, rfl⟩ fun n hn k _ => ?_
    dsimp only
    split
    · exact hn
    · exact hn.trans (stripsCounted_onlyStripped ..)
  clear_value w
  refine ⟨?_, ?_, ⟨_, rfl, rfl⟩⟩
  · rw [hw.frame]
  · exact hw.result

theorem execSelftestComplete_passed {s : State} (hpowered : powered s.m = true) (hmode : s.m.mode = .selftest)
    (hwarmed : warmed s.m = true) : execSelftestComplete [] s =
      .next { s with m := enterStandby (plateTest (odSet (wiped s.m) 0x6040 2 0)) } := by
  have hguard : ¬(s.m.mode ≠ .selftest ∨ (!powered s.m) = true ∨ (!warmed s.m) = true) := by
    simp only [hmode, hpowered, hwarmed]
    decide
  simp only [execSelftestComplete, nextM]
  rw [if_neg hguard]
  rfl

theorem selftestComplete_yields {s : State} (hpowered : powered s.m = true) (hmode : s.m.mode = .selftest)
    (hwarmed : warmed s.m = true) : Yields s (.selftestComplete []) fun n => n.mode = .standby ∧ n.sram = [] ∧
      n.hbm = [] ∧ n.rows = [] ∧ n.threads = [] ∧ odGet n 0x6040 2 = 0 ∧ n.retirement = s.m.retirement ∧
      (∃ x, n.selftest = some x ∧ x.extended = s.m.warming.isSome) ∧ n.warming = none := by
  refine ⟨_, execSelftestComplete_passed hpowered hmode hwarmed, ?_⟩
  have htested := plateTest_tested (odSet (wiped s.m) 0x6040 2 0)
  generalize plateTest (odSet (wiped s.m) 0x6040 2 0) = w at htested ⊢
  have hdiffers : w.mode ≠ .standby := fun h => by
    rw [htested.frame, show ({ odSet (wiped s.m) 0x6040 2 0 with } : Mach).mode = s.m.mode from rfl, hmode] at h
    cases h
  have hentered := enterStandby_entered hdiffers
  have hrows : w.rows = [] := by rw [htested.frame]; rfl
  have hresult : odGet w 0x6040 2 = 0 := htested.result.trans (odGet_odSet_same ..)
  generalize enterStandby w = n at hentered ⊢
  refine ⟨hentered.mode, ?_, ?_, ?_, ?_, (hentered.odGet_eq (by decide) (by decide)).trans hresult, ?_, ?_, ?_⟩
  · rw [hentered.frame, htested.frame]; rfl
  · rw [hentered.frame, htested.frame]; rfl
  · have hleft : (leaveBask w).rows = [] := by
      unfold leaveBask
      split
      · simp [stopBask, hrows, smap]
      · exact hrows
    exact hentered.engine.rows.trans hleft
  · rw [hentered.frame, htested.frame]; rfl
  · rw [hentered.frame, htested.frame]; rfl
  · rw [show n.selftest = w.selftest by rw [hentered.frame]]
    exact htested.extended
  · rw [hentered.frame, htested.frame]

end Sys2Proof.Machine

/-! SUPPORT. Firmware read, installed, written and synchronised, and the stewards restarted (R503, R532, R533). -/

namespace Sys2Proof.Machine

/-! ## A package read (R187, R532) -/

/-- The machine that has read a package of a FirmwareCommand. -/
def packageFetched (m : Mach) (data : List Byte) (p : Package) : Mach :=
  readPackage (hostRead (setState m .update) 0 (field data 8 8) (field data 16 8)) p

/-- From `a` to `n` the module is in UPDATE and the file of a package stands in HBM. -/
structure PackageFetched (a n : Mach) (p : Package) : Prop where
  mode : n.mode = .update
  sram : n.sram = a.sram
  threads : n.threads = a.threads
  now : n.now = a.now
  sec : n.sec = a.sec
  answers : n.answers = a.answers
  file : ∃ addr, hbmBytes n addr p.file.length = p.file
  objects : ∀ {idx sub}, objKey idx sub ≠ objKey 0x5300 8 → objKey idx sub ≠ objKey 0x6030 8 → odGet n idx sub = odGet a idx sub

theorem packageFetched_spec (m : Mach) (data : List Byte) (p : Package) : PackageFetched m (packageFetched m data p) p := by
  have hchanged := setState_onlyStateChanged m .update
  have hmode : (setState m .update).mode = .update := (setState_loadKept m .update).mode
  unfold packageFetched
  rw [hostRead_eq]
  generalize setState m .update = w at hchanged hmode
  obtain ⟨hread, hfile, -⟩ := dmaHbm_stored { w with out := w.out ++ readsOf w 0 (field data 8 8) (field data 16 8), fresh := w.fresh + 1 }
    (firmwareBase + Config.promptPlace w.fresh % (hbmEnd - firmwareBase - p.file.length + 1)) p.file
  have heq : readPackage { w with out := w.out ++ readsOf w 0 (field data 8 8) (field data 16 8) } p =
      dmaHbm { w with out := w.out ++ readsOf w 0 (field data 8 8) (field data 16 8), fresh := w.fresh + 1 }
        (firmwareBase + Config.promptPlace w.fresh % (hbmEnd - firmwareBase - p.file.length + 1)) p.file := rfl
  rw [heq]
  generalize dmaHbm _ _ _ = n at hread hfile ⊢
  exact {
    mode := by rw [hread.frame]; exact hmode
    sram := by rw [hread.frame, hchanged.frame]
    threads := by rw [hread.frame, hchanged.frame]
    now := by rw [hread.frame, hchanged.frame]
    sec := by rw [hread.frame]; exact hchanged.sec
    answers := by rw [hread.frame]; exact hchanged.answers
    file := ⟨_, hfile⟩
    objects := fun hstep hevents => by
      rw [← hchanged.odGet_eq hstep hevents, hread.frame]
      rfl }

/-- A package's result rests on the keys that are trusted and on the rollback counter. -/
theorem PackageFetched.packageResult_eq {a n : Mach} {p : Package} (h : PackageFetched a n p) (type : Nat) (q : Package) :
    packageResult n type q = packageResult a type q := by
  have hroots : odGet n 0x7000 6 = odGet a 0x7000 6 := h.objects (by decide) (by decide)
  have hcounter : odGet n 0x7010 (type + 1) = odGet a 0x7010 (type + 1) :=
    h.objects (by simp only [objKey]; omega) (by simp only [objKey]; omega)
  simp only [packageResult, trustedKey, hroots, hcounter]
  rfl

/-! ## An update refused (R532, R536) -/

theorem updateEnds_onlyStateChanged (m : Mach) (hmode : m.mode = .update) : OnlyStateChanged m (updateEnds m) := by
  have hdiffers : m.mode ≠ .standby := by rw [hmode]; decide
  unfold updateEnds
  split
  · exact .refl m
  · exact (enterStandby_entered hdiffers).toOnlyStateChanged

theorem updateEnds_standby {m : Mach} (hmode : m.mode = .update) (hbooted : m.sec.booted.getLsbD 0 = true) :
    StandbyEntered m (updateEnds m) := by
  have hdiffers : m.mode ≠ .standby := by rw [hmode]; decide
  have hnormal : inRecovery m = false := by simp [inRecovery, hbooted]
  rw [updateEnds, hnormal]
  exact enterStandby_entered hdiffers

/-! ## FIRMWARE_INSTALL (R532) -/

/-- A package that waits to be written. -/
def withInstall (m : Mach) (p : Package) : Mach := { m with sec := { m.sec with install := some p } }

theorem firmwareRun_installs {data : List Byte} (hop : field data 0 1 = 1) (m : Mach) (v : Via) (p : Package) :
    firmwareRun m v data (some p) none =
      if packageResult (packageFetched m data p) (field data 1 1) p ≠ 0
      then updateRefused (packageFetched m data p) (packageResult (packageFetched m data p) (field data 1 1) p) v none
      else holdAnswer (withInstall (packageFetched m data p) p) v (objKey 0x7040 1) none := by
  have hinstall : ¬field data 0 1 = 2 := by omega
  simp only [firmwareRun, hinstall, if_false]
  rfl

theorem execFirmwareInstall_runs {s : State} {v : Via} {data : List Byte} (hcheck : firmwareCheck s.m v data = none) (p : Package) :
    execFirmwareInstall v data p s = .next { s with m := firmwareRun s.m v data (some p) none } := by
  simp only [execFirmwareInstall, nextM, commandRow, hcheck]

theorem execFirmwareSync_runs {s : State} {v : Via} {data : List Byte} (hcheck : firmwareCheck s.m v data = none) :
    execFirmwareSync v data s = .next { s with m := firmwareRun s.m v data none none } := by
  simp only [execFirmwareSync, nextM, commandRow, hcheck]

theorem firmwareInstall_yields {s : State} {v : Via} {data : List Byte} (p : Package) (hcheck : firmwareCheck s.m v data = none)
    (hop : field data 0 1 = 1) : Yields s (.firmwareInstall v data p) fun n =>
      let r := packageResult s.m (field data 1 1) p
      n.sram = s.m.sram ∧ n.threads = s.m.threads ∧ n.now = s.m.now ∧ (∃ a, hbmBytes n a p.file.length = p.file) ∧
      (r = 0 → n.mode = .update ∧ n.sec.install = some p ∧ n.answers = s.m.answers ++ [⟨v, objKey 0x7040 1, none⟩]) ∧
      (r ≠ 0 → odGet n 0x7040 2 = r ∧ n.sec.install = s.m.sec.install ∧ .odResult v 0 0 [] ∈ n.out) := by
  refine ⟨_, execFirmwareInstall_runs hcheck p, ?_⟩
  have hfetched := packageFetched_spec s.m data p
  rw [firmwareRun_installs hop, hfetched.packageResult_eq]
  generalize packageFetched s.m data p = w at hfetched ⊢
  generalize packageResult s.m (field data 1 1) p = r
  dsimp only
  by_cases hr : r = 0
  · rw [if_neg (not_not.mpr hr)]
    refine ⟨hfetched.sram, hfetched.threads, hfetched.now, hfetched.file, fun _ => ⟨hfetched.mode, rfl, ?_⟩, fun h => absurd hr h⟩
    exact congrArg (· ++ [_]) hfetched.answers
  · rw [if_pos hr]
    have hended := updateEnds_onlyStateChanged (odSet w 0x7040 2 r) hfetched.mode
    have hanswered : OnlyAnswered (updateEnds (odSet w 0x7040 2 r)) (updateRefused w r v none) := answer_onlyAnswered ..
    have hfile (addr k : Nat) : hbmBytes (updateRefused w r v none) addr k = hbmBytes w addr k := by
      refine hbmBytes_congr (fun y => ?_) addr k
      have hbase : odGet (odSet w 0x7040 2 r) 0x2230 2 = odGet w 0x2230 2 := odGet_odSet_ne w (by decide) r
      have hlaid : laidByte (odSet w 0x7040 2 r) y = laidByte w y :=
        laidByte_congr (n := odSet w 0x7040 2 r) (a := w) rfl rfl rfl rfl hbase y
      have hobject : hbmByte (odSet w 0x7040 2 r) y = hbmByte w y :=
        hbmByte_congr (n := odSet w 0x7040 2 r) (a := w) rfl rfl hlaid
      exact (hended.hbmByte_eq y).trans hobject
    obtain ⟨addr, haddr⟩ := hfetched.file
    refine ⟨?_, ?_, ?_, ⟨addr, (hfile ..).trans haddr⟩, fun h => absurd h hr, fun _ => ⟨?_, ?_, odResult_mem_answer _ v⟩⟩
    · rw [hanswered.frame, hended.frame]; exact hfetched.sram
    · rw [hanswered.frame, hended.frame]; exact hfetched.threads
    · rw [hanswered.frame, hended.frame]; exact hfetched.now
    · rw [hanswered.odGet_eq, hended.odGet_eq (by decide) (by decide)]
      exact odGet_odSet_same ..
    · rw [hanswered.frame, hended.frame]; exact congrArg _ hfetched.sec

/-! ## FIRMWARE_SYNC (R532) -/

/-- Places set one after another: each holds its own value. -/
theorem sget_foldl_sset {α : Type} [DecidableEq α] (d : α) (g : Nat → α) (l : List Nat) (f : SMap α) (k : Nat) :
    sget d (l.foldl (fun f k => sset d f k (g k)) f) k = if k ∈ l then g k else sget d f k := by
  induction l generalizing f with
  | nil => rfl
  | cons i rest ih =>
    rw [List.foldl_cons, ih, sget_sset]
    by_cases hk : k = i <;> by_cases hrest : k ∈ rest <;> simp [hk, hrest]

/-- The machine of a SYNC: its copies written, in UPDATE. -/
def synced (m : Mach) (data : List Byte) : Mach := odSet (syncCopies (setState m .update) (field data 1 1)) 0x7040 2 0

theorem commandAnswered_engineKept (m : Mach) (v : Via) (code : Nat) : EngineKept m (answer m v none code) :=
  ⟨rfl, rfl, rfl, rfl, rfl, rfl, rfl, rfl, rfl, rfl⟩

theorem syncCopies_leaveBask (m : Mach) (type : Nat) :
    EngineKept (leaveBask m) (leaveBask (odSet (syncCopies m type) 0x7040 2 0)) :=
  leaveBask_engineKept rfl ⟨rfl, rfl, rfl, rfl, rfl, rfl, rfl, rfl, rfl, rfl⟩

theorem firmwareRun_syncs {data : List Byte} (hop : field data 0 1 = 2) (m : Mach) (v : Via) :
    firmwareRun m v data none none = answer (updateEnds (synced m data)) v none 0 := by
  simp only [firmwareRun, hop, if_true]
  rfl

theorem firmwareSync_yields {s : State} {v : Via} {data : List Byte} (hcheck : firmwareCheck s.m v data = none)
    (hop : field data 0 1 = 2) (hbooted : s.m.sec.booted.getLsbD 0 = true) : Yields s (.firmwareSync v data) fun n =>
      n.mode = .standby ∧ odGet n 0x7040 2 = 0 ∧ (∀ k ∈ (if field data 1 1 = 0 then [0, 1, 2, 3] else [4]),
        sget (some .factory) n.sec.copyB k = sget (some .factory) s.m.sec.copyA k) ∧ n.sec.copyA = s.m.sec.copyA ∧
      EngineKept (leaveBask s.m) n := by
  refine ⟨_, execFirmwareSync_runs hcheck, ?_⟩
  have hmode : (setState s.m .update).mode = .update := (setState_loadKept s.m .update).mode
  have hchanged := setState_onlyStateChanged s.m .update
  have hbask : EngineKept (leaveBask s.m) (leaveBask (synced s.m data)) :=
    (setState_leaveBask s.m .update).trans (syncCopies_leaveBask ..)
  have hsec : (synced s.m data).sec = (syncCopies s.m (field data 1 1)).sec := by
    show (syncCopies (setState s.m .update) (field data 1 1)).sec = _
    rw [syncCopies, hchanged.sec]
    rfl
  have hsynced : (synced s.m data).mode = .update := hmode
  have hrunning : (synced s.m data).sec.booted = s.m.sec.booted := by
    rw [hsec]
    rfl
  have hended := updateEnds_standby hsynced (hrunning ▸ hbooted)
  have hanswered := answer_onlyAnswered (updateEnds (synced s.m data)) v none 0
  have hresult : odGet (synced s.m data) 0x7040 2 = 0 := odGet_odSet_same ..
  rw [firmwareRun_syncs hop]
  have hkept := commandAnswered_engineKept (updateEnds (synced s.m data)) v 0
  have hsecs : (answer (updateEnds (synced s.m data)) v none 0).sec = (syncCopies s.m (field data 1 1)).sec := by
    rw [hanswered.frame]
    exact hended.sec.trans hsec
  generalize answer (updateEnds (synced s.m data)) v none 0 = n at hanswered hkept hsecs ⊢
  generalize updateEnds (synced s.m data) = w at hended hanswered hkept
  refine ⟨hanswered.mode.trans hended.mode, ?_, fun k hk => ?_, ?_, hbask.trans (hended.engine.trans hkept)⟩
  · rw [hanswered.odGet_eq, hended.odGet_eq (by decide) (by decide), hresult]
  · rw [hsecs]
    exact (sget_foldl_sset ..).trans (if_pos hk)
  · rw [hsecs]
    rfl

/-! ## FIRMWARE_WRITE_COMPLETE (R532) -/

/-- From `a` to `n` plates, threads and the clock are as they were. -/
structure PlatesKept (a n : Mach) : Prop where
  sram : n.sram = a.sram
  hbm : n.hbm = a.hbm
  threads : n.threads = a.threads
  now : n.now = a.now

theorem PlatesKept.trans {a m n : Mach} (h : PlatesKept a m) (h' : PlatesKept m n) : PlatesKept a n :=
  ⟨h'.sram.trans h.sram, h'.hbm.trans h.hbm, h'.threads.trans h.threads, h'.now.trans h.now⟩

theorem OnlyStateChanged.platesKept {a n : Mach} (h : OnlyStateChanged a n) : PlatesKept a n := by
  constructor <;> rw [h.frame]

theorem OnlyAnswered.platesKept {a n : Mach} (h : OnlyAnswered a n) : PlatesKept a n := by
  constructor <;> rw [h.frame]

/-- A write of copy A that has ended: what it leaves there, and LastUpdateResult. -/
def writeEnded (m : Mach) (p : Package) (c : Option FlashCopy) (result : Nat) : Mach :=
  odSet (setCopyA { m with sec := { m.sec with install := none } } p.imageType c) 0x7040 2 result

theorem writeEnded_copyA (m : Mach) (p : Package) (c : Option FlashCopy) (result : Nat) :
    ∀ k ∈ (if p.imageType = 0 then [0, 1, 2, 3] else [4]), sget (some .factory) (writeEnded m p c result).sec.copyA k = c :=
  fun k hk => (sget_foldl_sset (some .factory) (fun _ => c) _ m.sec.copyA k).trans (if_pos hk)

theorem writeEnded_result (m : Mach) (p : Package) (c : Option FlashCopy) (result : Nat) :
    odGet (writeEnded m p c result) 0x7040 2 = result := odGet_odSet_same ..

theorem writeEnded_platesKept (m : Mach) (p : Package) (c : Option FlashCopy) (result : Nat) :
    PlatesKept m (writeEnded m p c result) := ⟨rfl, rfl, rfl, rfl⟩

/-- What a verified write replaced restarts: the stewards, or the power board. -/
def replacedRestarts (m : Mach) (p : Package) : Mach :=
  if p.imageType = 0 then restartStewards m else updateEnds (bootBoard m)

section
variable {s : State} {p : Package} (hpowered : powered s.m = true) (hinstall : s.m.sec.install = some p)
  (hmode : s.m.mode = .update)
include hpowered hinstall hmode

theorem execFirmwareWriteComplete_failed : execFirmwareWriteComplete false s =
    .next { s with m := giveAnswers (updateEnds (writeEnded s.m p none 4)) (objKey 0x7040 1) 0 } := by
  have hguard : ¬(s.m.mode ≠ .update ∨ (!powered s.m) = true) := by
    simp only [hmode, hpowered]
    decide
  simp only [execFirmwareWriteComplete, nextM, hinstall]
  rw [if_neg hguard]
  rfl

theorem execFirmwareWriteComplete_verified : execFirmwareWriteComplete true s = 
    .next { s with m := replacedRestarts (giveAnswers (writeEnded s.m p (some (.written p)) 0) (objKey 0x7040 1) 0) p } := by
  have hguard : ¬(s.m.mode ≠ .update ∨ (!powered s.m) = true) := by
    simp only [hmode, hpowered]
    decide
  simp only [execFirmwareWriteComplete, nextM, hinstall]
  rw [if_neg hguard]
  rfl

end

/-! ### The power board restarts -/

/-- From `a` to `n` firmware has started: what runs, its measurements and BootCopy. -/
structure OnlyBooted (a n : Mach) : Prop where
  frame : n = { a with sec := { a.sec with running := n.sec.running, booted := n.sec.booted, meas := n.sec.meas }, od := n.od }
  result : odGet n 0x7040 2 = odGet a 0x7040 2

theorem bootBoard_onlyBooted (m : Mach) : OnlyBooted m (bootBoard m) := by
  unfold bootBoard
  split
  next c b _ =>
    have hstarted := startFirmware_booted m 4 c b
    have hmeasured := measureRunning_onlyMeasured (startFirmware m 4 c b) 3 1 [4]
    have hresult : odGet (startFirmware m 4 c b) 0x7040 2 = odGet m 0x7040 2 := by
      rw [startFirmware_eq]
      exact odGet_odSet_ne (released m 4 c) (idx := 0x7040) (sub := 3) (idx' := 0x7040) (sub' := 2) (by decide) _
    generalize startFirmware m 4 c b = w at hstarted hmeasured hresult
    refine ⟨?_, ?_⟩
    · rw [hmeasured.frame, hstarted.frame]
    · rw [hmeasured.frame]
      exact hresult
  next => exact ⟨rfl, rfl⟩

/-! ### The stewards restart (R420) -/

theorem setCauses_noSessions {m : Mach} (h : m.sessions = []) (bits : Nat) : (setCauses m bits).sessions = [] := by
  unfold setCauses
  split
  · exact h
  · refine List.map_eq_nil_iff.mpr (List.foldlRecOn (motive := fun n : Mach => n.sessions = []) _ _ h fun n hn f _ => ?_)
    dsimp only
    split
    · exact hn
    · rw [msixGenerate_frame]
      exact hn

theorem postEvent_noSessions {m : Mach} (h : m.sessions = []) (code erg dune value : Nat) :
    (postEvent m code erg dune value).sessions = [] := by
  unfold postEvent postEventAt
  refine setCauses_noSessions ?_ _
  exact h

theorem setState_noSessions {m : Mach} (h : m.sessions = []) (st : ModState) : (setState m st).sessions = [] := by
  unfold setState
  split
  · exact h
  · extract_lets power m1 m2
    have h1 : m1.sessions = [] := by
      unfold m1
      rw [(leaveBask_onlyBaskStopped _).frame]
      exact h
    have h2 : m2.sessions = m1.sessions := by
      unfold m2
      split <;> rfl
    exact postEvent_noSessions (h2.trans h1) ..

/-- From `a` to `n` the stewards have been put back into reset. -/
structure StewardsRestarted (a n : Mach) : Prop where
  mode : n.mode = .powering
  booted : n.sec.booted = 0
  sessions : n.sessions = []
  copyA : n.sec.copyA = a.sec.copyA
  install : n.sec.install = a.sec.install
  result : odGet n 0x7040 2 = odGet a 0x7040 2
  plates : PlatesKept a n

/-- The machine whose stewards are in reset, its sessions closed. -/
def stewardsReset (m : Mach) : Mach :=
  { m with sessions := m.sessions.filter fun _ => !true
           sec := { m.sec with booted := 0, rewritten := 0, running := m.sec.running.filter (4 ≤ ·.1) } }

theorem restartStewards_restarted (m : Mach) : StewardsRestarted m (restartStewards m) := by
  have heq : restartStewards m = setState (stewardsReset m) .powering := rfl
  have hchanged := setState_onlyStateChanged (stewardsReset m) .powering
  have hmode : (setState (stewardsReset m) .powering).mode = .powering := (setState_loadKept ..).mode
  have hclosed : (stewardsReset m).sessions = [] := List.filter_eq_nil_iff.mpr fun _ _ => nofun
  have hsessions := setState_noSessions hclosed .powering
  have hplates : PlatesKept m (stewardsReset m) := ⟨rfl, rfl, rfl, rfl⟩
  rw [heq]
  generalize setState (stewardsReset m) .powering = n at hchanged hmode hsessions
  exact {
    mode := hmode
    booted := by rw [hchanged.sec]; rfl
    sessions := hsessions
    copyA := by rw [hchanged.sec]; rfl
    install := by rw [hchanged.sec]; rfl
    result := hchanged.odGet_eq (by decide) (by decide)
    plates := hplates.trans hchanged.platesKept }

theorem firmwareWriteComplete_verified_yields {s : State} {p : Package} (hpowered : powered s.m = true)
    (hinstall : s.m.sec.install = some p) (hmode : s.m.mode = .update) : Yields s (.firmwareWriteComplete true) fun n =>
      n.sec.install = none ∧ odGet n 0x7040 2 = 0 ∧ PlatesKept s.m n ∧
      (∀ k ∈ (if p.imageType = 0 then [0, 1, 2, 3] else [4]), sget (some .factory) n.sec.copyA k = some (.written p)) ∧
      (p.imageType = 0 → n.mode = .powering ∧ n.sec.booted = 0 ∧ n.sessions = []) := by
  refine ⟨_, execFirmwareWriteComplete_verified hpowered hinstall hmode, ?_⟩
  have hcopies := writeEnded_copyA s.m p (some (.written p)) 0
  have hresult := writeEnded_result s.m p (some (.written p)) 0
  have hplates := writeEnded_platesKept s.m p (some (.written p)) 0
  have hwaits : (writeEnded s.m p (some (.written p)) 0).sec.install = none := rfl
  have hstays : (writeEnded s.m p (some (.written p)) 0).mode = .update := hmode
  generalize writeEnded s.m p (some (.written p)) 0 = e at hcopies hresult hplates hwaits hstays ⊢
  have hanswered := giveAnswers_onlyAnswered e (objKey 0x7040 1) 0
  have hsec : (giveAnswers e (objKey 0x7040 1) 0).sec = e.sec := by rw [hanswered.frame]
  generalize giveAnswers e (objKey 0x7040 1) 0 = w at hanswered hsec ⊢
  dsimp only
  unfold replacedRestarts
  by_cases htype : p.imageType = 0
  · have hrestarted := restartStewards_restarted w
    rw [if_pos htype]
    refine ⟨?_, ?_, hplates.trans (hanswered.platesKept.trans hrestarted.plates), fun k hk => ?_,
      fun _ => ⟨hrestarted.mode, hrestarted.booted, hrestarted.sessions⟩⟩
    · rw [hrestarted.install, hsec, hwaits]
    · rw [hrestarted.result, hanswered.odGet_eq, hresult]
    · rw [hrestarted.copyA, hsec]
      exact hcopies k hk
  · have hboard := bootBoard_onlyBooted w
    have hboots : PlatesKept w (bootBoard w) := by constructor <;> rw [hboard.frame]
    have hinstalls : (bootBoard w).sec.install = w.sec.install := by rw [hboard.frame]
    have hcopy : (bootBoard w).sec.copyA = w.sec.copyA := by rw [hboard.frame]
    have hupdates : (bootBoard w).mode = .update := by rw [hboard.frame]; exact hanswered.mode.trans hstays
    have hended := updateEnds_onlyStateChanged (bootBoard w) hupdates
    rw [if_neg htype]
    rw [if_neg htype] at hcopies
    refine ⟨?_, ?_, hplates.trans (hanswered.platesKept.trans (hboots.trans hended.platesKept)), fun k hk => ?_,
      fun h => absurd h htype⟩
    · rw [hended.sec, hinstalls, hsec, hwaits]
    · have hsame : odGet (updateEnds (bootBoard w)) 0x7040 2 = odGet (bootBoard w) 0x7040 2 :=
        hended.odGet_eq (by decide) (by decide)
      rw [hsame, hboard.result, hanswered.odGet_eq, hresult]
    · rw [hended.sec, hcopy, hsec]
      exact hcopies k (by simpa [htype] using hk)

theorem firmwareWriteComplete_failed_yields {s : State} {p : Package} (hpowered : powered s.m = true)
    (hinstall : s.m.sec.install = some p) (hmode : s.m.mode = .update) : Yields s (.firmwareWriteComplete false) fun n =>
      n.sec.install = none ∧ odGet n 0x7040 2 = 4 ∧ PlatesKept s.m n ∧
      (∀ k ∈ (if p.imageType = 0 then [0, 1, 2, 3] else [4]), sget (some .factory) n.sec.copyA k = none) := by
  refine ⟨_, execFirmwareWriteComplete_failed hpowered hinstall hmode, ?_⟩
  have hcopies := writeEnded_copyA s.m p none 4
  have hresult := writeEnded_result s.m p none 4
  have hplates := writeEnded_platesKept s.m p none 4
  have hwaits : (writeEnded s.m p none 4).sec.install = none := rfl
  have hstays : (writeEnded s.m p none 4).mode = .update := hmode
  generalize writeEnded s.m p none 4 = e at hcopies hresult hplates hwaits hstays ⊢
  have hended := updateEnds_onlyStateChanged e hstays
  have hanswered := giveAnswers_onlyAnswered (updateEnds e) (objKey 0x7040 1) 0
  have hsec : (giveAnswers (updateEnds e) (objKey 0x7040 1) 0).sec = e.sec := by
    rw [hanswered.frame]
    exact hended.sec
  refine ⟨?_, ?_, hplates.trans (hended.platesKept.trans hanswered.platesKept), fun k hk => ?_⟩
  · rw [hsec, hwaits]
  · rw [hanswered.odGet_eq, hended.odGet_eq (by decide) (by decide), hresult]
  · rw [hsec]
    exact hcopies k hk

/-- Settles O60: a boot ROM by `romStarts_booted`, self-test by `plateTest_tested`, and every way back to STANDBY by
`enterStandby_entered`. -/
theorem bootAndFirmware : Obligations.BootAndFirmware := by
  unfold Obligations.BootAndFirmware
  intro s hpowered
  refine ⟨fun e c b hmode hreset hcopy => ?rom, poweringComplete_yields hpowered, selftestComplete_yields hpowered,
    fun v data p hcheck => ⟨firmwareInstall_yields p hcheck, firmwareSync_yields hcheck⟩, fun p hinstall hmode => ?write⟩
  case rom =>
    obtain ⟨m, hmeasured, hexec⟩ := execBootRomCheck_starts hpowered hmode hreset hcopy
    obtain ⟨hbooted, hbit⟩ := romStarts_booted m e c b
    have hboth := Booted.after_measured hmeasured hbooted
    refine ⟨_, hexec, ?_⟩
    generalize romStarts m e c b = n at hbit hboth
    refine ⟨hbit, hboth.running, hboth.bit, ?_, ?_⟩
    · rw [hboth.frame]
      exact hmode
    · constructor <;> rw [hboth.frame]
  case write =>
    intro ks kept
    obtain ⟨n, hexec, hdone, hresult, hplates, hcopies, hrestart⟩ := firmwareWriteComplete_verified_yields hpowered hinstall hmode
    obtain ⟨n', hexec', hdone', hresult', hplates', hcopies'⟩ := firmwareWriteComplete_failed_yields hpowered hinstall hmode
    exact ⟨⟨n, hexec, hdone, hresult, ⟨hplates.sram, hplates.hbm, hplates.threads, hplates.now⟩, hcopies, hrestart⟩,
      ⟨n', hexec', hdone', hresult', ⟨hplates'.sram, hplates'.hbm, hplates'.threads, hplates'.now⟩, hcopies'⟩⟩

end Sys2Proof.Machine

/-! SUPPORT. What stops a module for heat leaves and takes away (R456, R464–R466): waiting commands, module state, dunes, the job and
the links. That the HBM's contents are lost at a comparator trip, and that the thumbnail is what EDGE_FIELD_HOT keeps, is the model's
reading (assumptions 102 and 103). -/

namespace Sys2Proof.Machine

/-! ## Waiting commands answered (assumption 38) -/

theorem dropAnswers_onlyAnswered (m : Mach) : OnlyAnswered m (dropAnswers m) :=
  List.foldlRecOn (motive := OnlyAnswered m) _ _ ⟨rfl⟩ fun _ hn _ _ => hn.trans (answer_onlyAnswered ..)

/-! ## THERMAL_HALT (R456, R465) -/

/-- The machine without restart and replacement. -/
def withoutWork (m : Mach) : Mach := { m with restart := none, repl := none }

/-- From `a` to `n` a module that stops has abandoned its load, restart and replacement, answered what waits and changed its state. -/
structure OnlyStopped (a n : Mach) : Prop where
  frame : n = { a with mode := n.mode, power := { a.power with faultN := n.power.faultN }, rows := n.rows, dunes := n.dunes,
                       baskFired := n.baskFired, waitingB := n.waitingB, od := n.od, events := n.events, fns := n.fns, ctxs := n.ctxs,
                       chains := n.chains, ledger := n.ledger, sessions := n.sessions, out := n.out, answers := n.answers,
                       bar0 := n.bar0, port := n.port, restart := n.restart, repl := n.repl }
  objects : ∀ key, key ≠ objKey 0x6030 8 → key ≠ objKey 0x3140 2 → sget 0 n.od key = sget 0 a.od key

namespace OnlyStopped

variable {a m n : Mach}

theorem refl (a : Mach) : OnlyStopped a a := ⟨rfl, fun _ _ _ => rfl⟩

theorem trans (h : OnlyStopped a m) (h' : OnlyStopped m n) : OnlyStopped a n :=
  ⟨h'.frame.trans (by rw [h.frame]), fun key hevents hrepl => (h'.objects key hevents hrepl).trans (h.objects key hevents hrepl)⟩

theorem odGet_eq (h : OnlyStopped a n) {idx sub : Nat} (hevents : objKey idx sub ≠ objKey 0x6030 8)
    (hrepl : objKey idx sub ≠ objKey 0x3140 2) : odGet n idx sub = odGet a idx sub := by
  have hdefault : objDefault n (objKey idx sub) = objDefault a (objKey idx sub) := by rw [h.frame]; rfl
  rw [odGet, h.objects _ hevents hrepl, hdefault, odGet]

end OnlyStopped

theorem OnlyAnswered.onlyStopped {a n : Mach} (h : OnlyAnswered a n) : OnlyStopped a n :=
  ⟨by rw [h.frame], fun key _ _ => by rw [h.frame]⟩

theorem setReplState_onlyStopped (m : Mach) (k : Nat) : OnlyStopped m (setReplState m k) :=
  ⟨rfl, fun _ _ hrepl => sget_od_odSet_ne m hrepl k⟩

theorem setState_onlyStopped (m : Mach) (st : ModState) : OnlyStopped m (setState m st) := by
  by_cases h : m.mode = st
  · rw [setState, if_pos h]
    exact .refl m
  · have hentered := setState_entered h
    refine ⟨?_, fun key hevents _ => hentered.objects key hevents⟩
    rw [hentered.frame]

/-- A module with waiting commands dropped goes over into a state. -/
theorem stopped_spec (m : Mach) (st : ModState) :
    OnlyStopped m (setState (setReplState (dropAnswers (withoutWork m)) 0) st) ∧
      (setState (setReplState (dropAnswers (withoutWork m)) 0) st).mode = st ∧
      (setState (setReplState (dropAnswers (withoutWork m)) 0) st).restart = none ∧
      (setState (setReplState (dropAnswers (withoutWork m)) 0) st).repl = none := by
  have hbare : OnlyStopped m (withoutWork m) := ⟨rfl, fun _ _ _ => rfl⟩
  have hanswered := dropAnswers_onlyAnswered (withoutWork m)
  have hrestart : (dropAnswers (withoutWork m)).restart = none := by rw [hanswered.frame]; rfl
  have hrepl : (dropAnswers (withoutWork m)).repl = none := by rw [hanswered.frame]; rfl
  generalize dropAnswers (withoutWork m) = w at hanswered hrestart hrepl
  have hstate := setState_onlyStateChanged (setReplState w 0) st
  refine ⟨hbare.trans (hanswered.onlyStopped.trans ((setReplState_onlyStopped w 0).trans (setState_onlyStopped _ st))),
    (setState_loadKept _ st).mode, ?_, ?_⟩
  · rw [hstate.frame]
    exact hrestart
  · rw [hstate.frame]
    exact hrepl

theorem abandonLoad_onlyStopped (m : Mach) : OnlyStopped m (abandonLoad m) := ⟨rfl, fun _ _ _ => rfl⟩

theorem haltModule_spec (m : Mach) : OnlyStopped m (haltModule m) ∧ (haltModule m).mode = .thermalHalt := by
  have hload : OnlyStopped m (if m.mode = .loading then abandonLoad m else m) := by
    split
    · exact abandonLoad_onlyStopped m
    · exact .refl m
  have heq : haltModule m = setState (setReplState (dropAnswers (withoutWork (if m.mode = .loading then abandonLoad m else m))) 0)
    .thermalHalt := rfl
  rw [heq]
  generalize (if m.mode = .loading then abandonLoad m else m) = w at hload
  obtain ⟨hstopped, hmode, -, -⟩ := stopped_spec w .thermalHalt
  exact ⟨hload.trans hstopped, hmode⟩

/-! ## FREEZE at every dune (R478) -/

theorem freezeDune_frozen (m : Mach) (d : DuneId) : (getDune (freezeDune m d) d).frozen = true := by
  have hdune : getDune (freezeDune m d) d = { getDune m d with frozen := true } := getDune_setDune_same ..
  rw [hdune]

theorem getDune_freezeDune_ne (m : Mach) {d e : DuneId} (h : e ≠ d) : getDune (freezeDune m d) e = getDune m e :=
  getDune_setDune_ne (m := m) { getDune m d with frozen := true } h

/-- From `a` to `n` dunes have been frozen. -/
structure OnlyFrozen (a n : Mach) : Prop where
  frame : n = { a with dunes := n.dunes, rows := n.rows }

theorem OnlyFrozen.trans {a m n : Mach} (h : OnlyFrozen a m) (h' : OnlyFrozen m n) : OnlyFrozen a n :=
  ⟨h'.frame.trans (by rw [h.frame])⟩

theorem freezeDune_onlyFrozen (m : Mach) (d : DuneId) : OnlyFrozen m (freezeDune m d) := ⟨rfl⟩

theorem freezeAll_onlyFrozen (m : Mach) : OnlyFrozen m (freezeAll m) :=
  List.foldlRecOn (motive := OnlyFrozen m) _ _ ⟨rfl⟩ fun n hn d _ => hn.trans (freezeDune_onlyFrozen n d)

theorem foldl_freezeDune_frozen (l : List DuneId) (m : Mach) (d : DuneId) (h : d ∈ l ∨ (getDune m d).frozen = true) :
    (getDune (l.foldl freezeDune m) d).frozen = true := by
  induction l generalizing m with
  | nil => simpa using h
  | cons e rest ih =>
    refine ih (freezeDune m e) ?_
    by_cases he : d = e
    · rw [he]
      exact .inr (freezeDune_frozen m e)
    · rw [getDune_freezeDune_ne m he]
      simpa [he] using h

theorem mem_allDunes (d : DuneId) : d ∈ allDunes := by
  have hkey : duneKey d < 192 := by
    have herg := d.erg.isLt
    have hnum := d.num.isLt
    simp only [duneKey]
    omega
  exact List.mem_map.mpr ⟨duneKey d, List.mem_range.mpr hkey, duneOf_duneKey d⟩

theorem freezeAll_frozen (m : Mach) (d : DuneId) : (getDune (freezeAll m) d).frozen = true :=
  foldl_freezeDune_frozen allDunes m d (.inl (mem_allDunes d))

/-! ## Dunes off, and the job gone (R219, R484, R530) -/

/-- From `a` to `n` every dune domain is off. -/
structure OnlyDunesOff (a n : Mach) : Prop where
  frame : n = { a with dunes := n.dunes, rows := n.rows, packets := n.packets, flits := n.flits, holders := n.holders,
                       arrivals := n.arrivals, power := { a.power with dunesUp := false } }

/-- The dunes' domains switched off. -/
def domainsOff (m : Mach) : Mach :=
  { m with
    dunes := smap {} m.dunes fun _ d =>
      { d with power := if d.power = .usable then .off else d.power, time := .acquire, copy := {}, beat := none }
    power := { m.power with dunesUp := false } }

theorem dunesOff_onlyDunesOff (m : Mach) : OnlyDunesOff m (dunesOff m) := by
  have heq : dunesOff m = domainsOff (emptyFabric (freezeAll m)) := rfl
  have hfrozen := freezeAll_onlyFrozen m
  rw [heq]
  generalize freezeAll m = w at hfrozen
  have hoff : OnlyDunesOff w (domainsOff (emptyFabric w)) := ⟨rfl⟩
  refine ⟨hoff.frame.trans ?_⟩
  rw [hfrozen.frame]

/-- From `a` to `n` the job has gone. -/
structure OnlyJobDropped (a n : Mach) : Prop where
  frame : n = { a with avoided := n.avoided, queues := n.queues, landings := n.landings, loads := n.loads, bankServed := n.bankServed,
                       packets := n.packets, flits := n.flits, holders := n.holders, arrivals := n.arrivals, rows := n.rows,
                       dunes := n.dunes, job := none, repl := none, restart := none, unloading := n.unloading, draining := n.draining,
                       threads := n.threads, istore := n.istore, ctxs := n.ctxs, passes := n.passes, chains := n.chains,
                       ledger := n.ledger, entries := n.entries, lastEntryFix := n.lastEntryFix, listsHere := n.listsHere,
                       driftGroup := n.driftGroup, driftSince := n.driftSince, adapters := n.adapters, slotRuns := n.slotRuns,
                       od := n.od }

/-- The job's state gone from the module. -/
def withoutJob (m : Mach) : Mach :=
  { m with
    job := none, repl := none, restart := none, unloading := false, draining := false, threads := [], istore := []
    ctxs := m.ctxs.filter fun e => e.2.state == .ending
    passes := [], chains := [], ledger := [], entries := [], lastEntryFix := none, listsHere := [], driftGroup := false, driftSince := 0
    adapters := [], slotRuns := []
    rows := smap {} m.rows fun _ w => { w with strip := none, bask := none, writer := none, softPlates := [], upkeep := [] }
    dunes := smap {} m.dunes fun _ d =>
      { d with beat := none, changes := [], fixes := [], pausedFrom := none, frozen := false, hosted := none, period := 0
               level := 0, anchor := 0, anchorBeat := 0, nextBeat := 0 } }

/-- From `a` to `n` the rows' work in progress has been cleared. -/
structure OnlyRowsCleared (a n : Mach) : Prop where
  frame : n = { a with queues := n.queues, landings := n.landings, loads := n.loads, bankServed := n.bankServed, packets := n.packets,
                       flits := n.flits, holders := n.holders, arrivals := n.arrivals, rows := n.rows }

theorem dropPackets_onlyRowsCleared (m : Mach) : OnlyRowsCleared m (dropPackets m) :=
  List.foldlRecOn (motive := OnlyRowsCleared m) _ _ ⟨rfl⟩ fun n hn _ _ => ⟨by rw [hn.frame]; rfl⟩

theorem clearRows_onlyRowsCleared (m : Mach) : OnlyRowsCleared m (clearRows m) := by
  unfold clearRows
  extract_lets m1
  have h1 : OnlyRowsCleared m m1 := ⟨(dropPackets_onlyRowsCleared _).frame.trans rfl⟩
  clear_value m1
  exact ⟨by rw [h1.frame]⟩

theorem dropJob_onlyJobDropped (m : Mach) : OnlyJobDropped m (dropJob m) := by
  have heq : dropJob m = setReplState (withoutJob (clearRows (freezeAll { m with avoided := [] }))) 0 := rfl
  have hfrozen := freezeAll_onlyFrozen { m with avoided := [] }
  rw [heq]
  generalize freezeAll { m with avoided := [] } = w at hfrozen
  have hcleared := clearRows_onlyRowsCleared w
  generalize clearRows w = x at hcleared
  have hdropped : OnlyJobDropped x (setReplState (withoutJob x) 0) := ⟨rfl⟩
  refine ⟨hdropped.frame.trans ?_⟩
  rw [hcleared.frame, hfrozen.frame]

/-! ## Every link lost (R446, R456) -/

theorem foldl_bundleLost_onlyLanesLost (l : List Nat) (m : Mach) : OnlyLanesLost m (l.foldl bundleLost m) :=
  .foldl bundleLost_onlyLanesLost l m

theorem foldl_bundleLost_live (l : List Nat) (m : Mach) (b : Nat) (h : b ∈ l ∨ (getBundle m b).live = 0) :
    (getBundle (l.foldl bundleLost m) b).live = 0 := by
  induction l generalizing m with
  | nil => simpa using h
  | cons e rest ih =>
    refine ih (bundleLost m e) ?_
    obtain ⟨honly, hlive, -⟩ := bundleLost_lanes m e
    by_cases he : b = e
    · rw [he]
      exact .inr hlive
    · rw [honly.others b he]
      simpa [he] using h

end Sys2Proof.Machine

/-! SUPPORT. The thermal trips, HBM stacks, scrubs and a module still cold (R456, R460, R461, R464–R466, R473). -/

namespace Sys2Proof.Machine

/-! ## COMPARATOR_TRIP (R456) -/

/-- The contact sheet at a comparator trip: one being written stays incomplete, one that stands is lost with HBM. -/
def sheetLost (m : Mach) : Mach :=
  match m.sheetWriting with
  | some k => incompleteSheet m k
  | none => if m.sheet.isSome then odSet { m with sheet := none } 0x6030 1 0 else m

/-- HBM without supply, at the comparators' trip. -/
def hbmTripped (m : Mach) : Mach :=
  { m with hbm := [], hbmPatch := [], golden := [], staging := [], power := { m.power with thermTrip := true } }

theorem execComparatorTrip_eq {s : State} (hpowered : powered s.m = true) : execComparatorTrip s =
    .next { s with m := hbmTripped ((List.range 8).foldl bundleLost (dropJob (dunesOff (sheetLost (haltModule s.m))))) } := by
  simp only [execComparatorTrip, nextM, hpowered, Bool.not_true, Bool.false_eq_true, if_false]
  rfl

/-- From `a` to `n` a contact sheet has been given up. -/
structure OnlySheetLost (a n : Mach) : Prop where
  frame : n = { a with sheetWriting := n.sheetWriting, sheet := n.sheet, od := n.od }

theorem sheetLost_onlySheetLost (m : Mach) : OnlySheetLost m (sheetLost m) := by
  unfold sheetLost
  split
  · exact ⟨rfl⟩
  · split
    · exact ⟨rfl⟩
    · exact ⟨rfl⟩

/-- From `a` to `n` the module has lost its dunes, its job and its links. -/
structure Unplugged (a n : Mach) : Prop where
  mode : n.mode = a.mode
  dunesUp : n.power.dunesUp = false
  job : n.job = none
  links : ∀ b, b < 8 → (getBundle n b).live = 0
  retirement : n.retirement = a.retirement
  flashThumb : n.flashThumb = a.flashThumb
  linkUp : n.port.linkUp = a.port.linkUp

theorem unplugged_spec (m : Mach) : Unplugged m ((List.range 8).foldl bundleLost (dropJob (dunesOff m))) := by
  have hoff := dunesOff_onlyDunesOff m
  generalize dunesOff m = w at hoff ⊢
  have hdropped := dropJob_onlyJobDropped w
  generalize dropJob w = x at hdropped ⊢
  have hlinks (b : Nat) (hb : b < 8) : (getBundle ((List.range 8).foldl bundleLost x) b).live = 0 :=
    foldl_bundleLost_live _ x b (.inl (List.mem_range.mpr hb))
  have hlost := foldl_bundleLost_onlyLanesLost (List.range 8) x
  generalize (List.range 8).foldl bundleLost x = n at hlinks hlost ⊢
  have hnone : x.job = none := by rw [hdropped.frame]
  exact {
    mode := by rw [hlost.frame, hdropped.frame, hoff.frame]
    dunesUp := by rw [hlost.frame, hdropped.frame, hoff.frame]
    job := hlost.job_none hnone
    links := hlinks
    retirement := by rw [hlost.frame, hdropped.frame, hoff.frame]
    flashThumb := by rw [hlost.frame, hdropped.frame, hoff.frame]
    linkUp := by rw [hlost.frame, hdropped.frame, hoff.frame] }

theorem comparatorTrip_yields {s : State} (hpowered : powered s.m = true) : Yields s .comparatorTrip fun n =>
    n.mode = .thermalHalt ∧ n.power.thermTrip = true ∧ n.power.dunesUp = false ∧ n.job = none ∧ n.hbm = [] ∧
      (∀ b, b < 8 → (getBundle n b).live = 0) ∧ n.retirement = s.m.retirement := by
  refine ⟨_, execComparatorTrip_eq hpowered, ?_⟩
  obtain ⟨hstopped, hmode⟩ := haltModule_spec s.m
  generalize haltModule s.m = h at hstopped hmode ⊢
  have hsheet := sheetLost_onlySheetLost h
  generalize sheetLost h = w at hsheet ⊢
  have hout := unplugged_spec w
  generalize (List.range 8).foldl bundleLost (dropJob (dunesOff w)) = n at hout ⊢
  refine ⟨?_, rfl, hout.dunesUp, hout.job, rfl, hout.links, ?_⟩
  · refine hout.mode.trans ?_
    rw [hsheet.frame]
    exact hmode
  · refine hout.retirement.trans ?_
    rw [hsheet.frame, hstopped.frame]

/-! ## FLOW_STOP (R465, R466) -/

/-- A flow stop counted. -/
def flowCounted (m : Mach) : Mach := count (odSet (count m 0x4200 7 1) 0x4200 5 3) 0x6010 5 1

/-- The record of a flow stop (R465). -/
def flowFault (m : Mach) : FaultRec := ⟨0x706, 3, 0, 0xFF, 127, 0, beatNumber m, 0, htcNow m⟩

/-- A flow stop counted and recorded. -/
def flowNoted (m : Mach) : Mach := recordFault (flowCounted m) (flowFault (flowCounted m))

/-- The sheet that a flow stop leaves: one that is being written goes on as a summary. -/
def flowSheet (m : Mach) : Mach :=
  match m.sheetWriting with
  | some k => { m with sheetWriting := some 1, sheetCut := k == 2 }
  | none => beginSheet m 1

theorem flowStops_running {m : Mach} (hpowered : powered m = true) (hmode : m.mode = .running) : flowStops m =
    flowSheet (freezeAll (haltModule (sendFreeze (flowNoted m) (beatNumber (flowCounted m))))) := by
  have hruns : ¬((!powered m) = true ∨ m.mode = .thermalHalt) := by
    rw [hpowered, hmode]
    decide
  have hnormal : ¬(m.mode = .standby ∨ m.mode = .loading) := by
    rw [hmode]
    decide
  unfold flowStops
  rw [if_neg hruns]
  extract_lets was m1 f m2 m3
  rw [if_neg hnormal]
  rfl

theorem odSet_frame (m : Mach) (idx sub v : Nat) : odSet m idx sub v = { m with od := (odSet m idx sub v).od } := rfl

theorem recordFault_frame (m : Mach) (f : FaultRec) : recordFault m f = { m with od := (recordFault m f).od } := odSet_frame ..

theorem odGet_recordFault_ne (m : Mach) (f : FaultRec) {idx sub : Nat} (h : objKey idx sub ≠ objKey 0x6010 1) :
    odGet (recordFault m f) idx sub = odGet m idx sub := odGet_odSet_ne m h _

theorem flowCounted_frame (m : Mach) : flowCounted m = { m with od := (flowCounted m).od } := rfl

theorem odGet_flowCounted (m : Mach) :
    odGet (flowCounted m) 0x4200 5 = 3 ∧ odGet (flowCounted m) 0x4200 7 = odGet m 0x4200 7 + 1 := by
  unfold flowCounted
  rw [odGet_count_ne _ (by decide), odGet_count_ne _ (by decide), odGet_odSet_same, odGet_odSet_ne _ (by decide), odGet_count_same]
  exact ⟨rfl, rfl⟩

/-- A flow stop noted: the state of the coolant and the count, and nothing but objects. -/
theorem flowNoted_spec (m : Mach) : flowNoted m = { m with od := (flowNoted m).od } ∧ odGet (flowNoted m) 0x4200 5 = 3 ∧
    odGet (flowNoted m) 0x4200 7 = odGet m 0x4200 7 + 1 := by
  obtain ⟨hstate, hcount⟩ := odGet_flowCounted m
  have hframe := flowCounted_frame m
  unfold flowNoted
  generalize flowFault (flowCounted m) = f
  generalize flowCounted m = w at hstate hcount hframe ⊢
  refine ⟨?_, (odGet_recordFault_ne w f (by decide)).trans hstate, (odGet_recordFault_ne w f (by decide)).trans hcount⟩
  rw [recordFault_frame, hframe]

/-- From `a` to `n` the sheet of a flow stop has begun. -/
structure FlowSheetBegun (a n : Mach) : Prop where
  frame : n = { a with sheetWriting := some 1, sheetCut := n.sheetCut, od := n.od }
  objects : ∀ {idx sub}, objKey idx sub ≠ objKey 0x6030 1 → objKey idx sub ≠ objKey 0x6030 2 → odGet n idx sub = odGet a idx sub

theorem beginSheet_frame (m : Mach) (k : Nat) : beginSheet m k = { m with sheetWriting := some k, od := (beginSheet m k).od } := rfl

theorem odGet_beginSheet (m : Mach) (k : Nat) {idx sub : Nat} (hstate : objKey idx sub ≠ objKey 0x6030 1)
    (hcount : objKey idx sub ≠ objKey 0x6030 2) : odGet (beginSheet m k) idx sub = odGet m idx sub := by
  unfold beginSheet
  rw [odGet_odSet_ne _ hstate, odGet_count_ne _ hcount]
  rfl

theorem flowSheet_begun (m : Mach) : FlowSheetBegun m (flowSheet m) := by
  unfold flowSheet
  split
  · exact ⟨rfl, fun _ _ => rfl⟩
  · exact ⟨beginSheet_frame m 1, odGet_beginSheet m 1⟩

theorem execFlowStop_eq (s : State) : exec .flowStop s = .next { s with m := flowStops s.m } := rfl

/-- From `a` to `n` the module has stopped for want of coolant: its dunes are frozen, and a summary sheet is written. -/
structure FlowStopped (a n : Mach) : Prop where
  mode : n.mode = .thermalHalt
  sheet : n.sheetWriting = some 1
  sram : n.sram = a.sram
  hbm : n.hbm = a.hbm
  frozen : ∀ d, (getDune n d).frozen = true
  objects : ∀ {idx sub}, objKey idx sub ≠ objKey 0x6030 1 → objKey idx sub ≠ objKey 0x6030 2 → objKey idx sub ≠ objKey 0x6030 8 →
    objKey idx sub ≠ objKey 0x3140 2 → odGet n idx sub = odGet a idx sub

theorem flowSheet_stopped (m : Mach) (beat : Nat) :
    FlowStopped m (flowSheet (freezeAll (haltModule (sendFreeze m beat)))) := by
  have hsent : OnlyAnnounced m (sendFreeze m beat) := broadcastJob_onlyAnnounced ..
  generalize sendFreeze m beat = v at hsent ⊢
  obtain ⟨hstopped, hhalted⟩ := haltModule_spec v
  generalize haltModule v = w at hstopped hhalted ⊢
  have hfrozen := freezeAll_onlyFrozen w
  have hdunes := freezeAll_frozen w
  generalize freezeAll w = x at hfrozen hdunes ⊢
  have hsheet := flowSheet_begun x
  generalize flowSheet x = n at hsheet ⊢
  have hfrozenObject (idx sub : Nat) : odGet x idx sub = odGet w idx sub := by rw [hfrozen.frame]; rfl
  have hsentObject (idx sub : Nat) : odGet v idx sub = odGet m idx sub := by rw [hsent.frame]; rfl
  exact {
    mode := by rw [hsheet.frame, hfrozen.frame]; exact hhalted
    sheet := by rw [hsheet.frame]
    sram := by rw [hsheet.frame, hfrozen.frame, hstopped.frame, hsent.frame]
    hbm := by rw [hsheet.frame, hfrozen.frame, hstopped.frame, hsent.frame]
    frozen := fun d => by rw [hsheet.frame]; exact hdunes d
    objects := fun hstate hcount hevents hrepl => by
      rw [hsheet.objects hstate hcount, hfrozenObject, hstopped.odGet_eq hevents hrepl, hsentObject] }

theorem flowStop_yields {s : State} (hpowered : powered s.m = true) (hmode : s.m.mode = .running) :
    Yields s .flowStop fun n => n.mode = .thermalHalt ∧ odGet n 0x4200 5 = 3 ∧ odGet n 0x4200 7 = odGet s.m 0x4200 7 + 1 ∧
      n.sheetWriting = some 1 ∧ n.sram = s.m.sram ∧ n.hbm = s.m.hbm ∧ ∀ d, (getDune n d).frozen = true := by
  refine ⟨_, execFlowStop_eq s, ?_⟩
  rw [flowStops_running hpowered hmode]
  obtain ⟨hnoted, hstate, hcount⟩ := flowNoted_spec s.m
  have hsram : (flowNoted s.m).sram = s.m.sram := by rw [hnoted]
  have hhbm : (flowNoted s.m).hbm = s.m.hbm := by rw [hnoted]
  have hstopped := flowSheet_stopped (flowNoted s.m) (beatNumber (flowCounted s.m))
  exact ⟨hstopped.mode, (hstopped.objects (by decide) (by decide) (by decide) (by decide)).trans hstate,
    (hstopped.objects (by decide) (by decide) (by decide) (by decide)).trans hcount, hstopped.sheet, hstopped.sram.trans hsram,
    hstopped.hbm.trans hhbm, hstopped.frozen⟩

/-! ## EDGE_FIELD_HOT (R465) -/

/-- The thumbnail that goes to the power board's flash, with the machine that has made it. -/
def lastThumbnail (m : Mach) : Sheet × Mach :=
  match m.thumbnail with
  | some x => (x, m)
  | none => signSheet m (makeSheet m 3 1)

/-- The thumbnail kept in flash. -/
def thumbKept (m : Mach) (x : Sheet) : Mach := { m with flashThumb := some x, sheet := none, sheetWriting := none }

/-- Every remaining domain off. -/
def allOff (m : Mach) : Mach := { m with hbm := [], hbmPatch := [], power := { m.power with dead := true } }

theorem odSet_flashThumb (m : Mach) (idx sub v : Nat) : (odSet m idx sub v).flashThumb = m.flashThumb := rfl

theorem withPort_flashThumb (m : Mach) (p : Port) : (withPort m p).flashThumb = m.flashThumb := rfl

theorem endAllFunctions_flashThumb (m : Mach) : (endAllFunctions m).flashThumb = m.flashThumb := by
  obtain ⟨hport, -⟩ := foldl_resetFunction (List.range 16) m
  unfold endAllFunctions
  generalize (List.range 16).foldl (fun m f => resetMsix (endFunction m f) f) m = n at hport
  show n.flashThumb = m.flashThumb
  rw [hport.frame]

theorem linkGone_flashThumb (m : Mach) : (linkGone m).flashThumb = m.flashThumb := by
  rw [linkGone_eq, odSet_flashThumb, odSet_flashThumb, withPort_flashThumb, endAllFunctions_flashThumb]

theorem execEdgeFieldHot_eq {s : State} (hpowered : powered s.m = true) (hmode : s.m.mode = .thermalHalt)
    (hflow : odGet s.m 0x4200 5 = 3) : execEdgeFieldHot s = .next { s with m := allOff ((List.range 8).foldl bundleLost
      (dropJob (dunesOff (linkGone (thumbKept (lastThumbnail s.m).2 (lastThumbnail s.m).1))))) } := by
  have hguard : ¬((!powered s.m) = true ∨ s.m.mode ≠ .thermalHalt ∨ odGet s.m 0x4200 5 ≠ 3) := by
    simp [hpowered, hmode, hflow]
  simp only [execEdgeFieldHot, nextM]
  rw [if_neg hguard]
  rfl

theorem edgeFieldHot_yields {s : State} (hpowered : powered s.m = true) (hmode : s.m.mode = .thermalHalt)
    (hflow : odGet s.m 0x4200 5 = 3) : Yields s .edgeFieldHot fun n => n.power.dead = true ∧ n.hbm = [] ∧
      n.flashThumb.isSome = true ∧ n.port.linkUp = false ∧ n.job = none ∧ ∀ b, b < 8 → (getBundle n b).live = 0 := by
  refine ⟨_, execEdgeFieldHot_eq hpowered hmode hflow, ?_⟩
  have hthumb : (thumbKept (lastThumbnail s.m).2 (lastThumbnail s.m).1).flashThumb = some (lastThumbnail s.m).1 := rfl
  generalize thumbKept (lastThumbnail s.m).2 (lastThumbnail s.m).1 = u at hthumb ⊢
  have hkept : (linkGone u).flashThumb = u.flashThumb := linkGone_flashThumb u
  have hlink := (linkGone_ended u).2
  generalize linkGone u = v at hkept hlink ⊢
  have hout := unplugged_spec v
  generalize (List.range 8).foldl bundleLost (dropJob (dunesOff v)) = n at hout ⊢
  refine ⟨rfl, rfl, ?_, hout.linkUp.trans hlink, hout.job, hout.links⟩
  have hsame : (allOff n).flashThumb = some (lastThumbnail s.m).1 := hout.flashThumb.trans (hkept.trans hthumb)
  rw [hsame]
  rfl

/-! ## HBM stacks (R461, R473) -/

theorem hbmBandOf_trip (old c : Nat) : hbmBandOf old c = 115 ↔ 115 ≤ c := by
  unfold hbmBandOf
  split <;> rename_i h
  · simp [h]
  · simp only [h, iff_false]
    repeat' split
    all_goals omega

/-- The band of stack `k` noted, with the stacks that have reached 115 °C. -/
def bandNoted (m : Mach) (k band : Nat) (hot : List Nat) : Mach :=
  { m with power := { m.power with hbmBand := sset 0 m.power.hbmBand k band, hbmHot := hot } }

/-- A stack whose refresh has doubled counts (R461). -/
def bandCounted (m : Mach) (p : Prop) [Decidable p] : Mach := if p then count m 0x4300 8 1 else m

/-- The fault of a stack that a running job can no longer use. -/
def bandFaulted (m : Mach) (k : Nat) (p : Prop) [Decidable p] : Mach :=
  if p then raiseFault m 0x505 (k / 8) 63 127 0 (beatHere m) 0 else m

/-- The stacks that have reached 115 °C and not fallen below 95 °C. -/
def hotStacks (m : Mach) (k new c : Nat) : List Nat :=
  if 115 ≤ new then (m.power.hbmHot.filter (· != k)) ++ [k]
  else if c < 95 then m.power.hbmHot.filter (· != k) else m.power.hbmHot

/-- A stack whose temperature has been read: its band, the count, and the fault at 115 °C. -/
def stackRead (m : Mach) (k old new : Nat) (hot : List Nat) : Mach :=
  let w := bandCounted (bandNoted m k new hot) (old < 95 ∧ 95 ≤ new)
  bandFaulted w k (old < 115 ∧ new = 115 ∧ w.job.isSome = true)

theorem execHbmStackTemperature_eq {s : State} (hpowered : powered s.m = true) (k : Fin 32) (c : Nat) :
    let old := sget 0 s.m.power.hbmBand k.val
    let new := hbmBandOf old c
    execHbmStackTemperature k c s = .next { s with m := stackRead s.m k.val old new (hotStacks s.m k.val new c) } := by
  simp only [execHbmStackTemperature, nextM, hpowered, Bool.not_true, Bool.false_eq_true, if_false]
  rfl

theorem bandNoted_engineKept (m : Mach) (k band : Nat) (hot : List Nat) : EngineKept m (bandNoted m k band hot) :=
  ⟨rfl, rfl, rfl, rfl, rfl, rfl, rfl, rfl, rfl, rfl⟩

theorem bandCounted_spec (m : Mach) (p : Prop) [Decidable p] :
    EngineKept m (bandCounted m p) ∧ (bandCounted m p).power = m.power ∧ (bandCounted m p).raised = m.raised ∧
      (bandCounted m p).job = m.job := by
  unfold bandCounted
  split <;> exact ⟨⟨rfl, rfl, rfl, rfl, rfl, rfl, rfl, rfl, rfl, rfl⟩, rfl, rfl, rfl⟩

theorem bandFaulted_onlyFaulted (m : Mach) (k : Nat) (p : Prop) [Decidable p] : OnlyFaulted m (bandFaulted m k p) := by
  unfold bandFaulted
  split
  · exact raiseFault_onlyFaulted _ (by omega) (by omega) ..
  · exact .refl m

theorem bandFaulted_raised (m : Mach) {k : Nat} {p : Prop} [Decidable p] (hp : p) :
    ∃ x, (bandFaulted m k p).raised = m.raised ++ [x] ∧ x.code = 0x0505 ∧ x.erg = k / 8 := by
  unfold bandFaulted
  rw [if_pos hp]
  exact ⟨_, raiseFault_raised .., rfl, rfl⟩

/-- What reading the temperature of stack `k` leaves: its band, the others', the engine, and the fault of a stack that a job uses. -/
theorem stackRead_spec (m : Mach) (k old new : Nat) (hot : List Nat) :
    (stackRead m k old new hot).power.hbmBand = sset 0 m.power.hbmBand k new ∧ EngineKept m (stackRead m k old new hot) ∧
      (old < 115 → new = 115 → m.job ≠ none →
        ∃ x, (stackRead m k old new hot).raised = m.raised ++ [x] ∧ x.code = 0x0505 ∧ x.erg = k / 8) ∧
      (new ≠ 115 → (stackRead m k old new hot).raised = m.raised) := by
  unfold stackRead
  have hnoted := bandNoted_engineKept m k new hot
  obtain ⟨hcounted, hpower, hraised, hjob⟩ := bandCounted_spec (bandNoted m k new hot) (old < 95 ∧ 95 ≤ new)
  extract_lets w
  have hw : w = bandCounted (bandNoted m k new hot) (old < 95 ∧ 95 ≤ new) := rfl
  rw [← hw] at hcounted hpower hraised hjob
  clear_value w
  have hfaulted := bandFaulted_onlyFaulted w k (old < 115 ∧ new = 115 ∧ w.job.isSome = true)
  refine ⟨?_, hnoted.trans (hcounted.trans hfaulted.engineKept), fun hbelow hhot hhas => ?_, fun hcool => ?_⟩
  · rw [hfaulted.frame]
    exact congrArg Power.hbmBand hpower
  · have hjobSome : w.job.isSome = true := by
      rw [hjob]
      exact Option.isSome_iff_ne_none.mpr hhas
    obtain ⟨x, hx, hcode, herg⟩ := bandFaulted_raised w (k := k) (p := old < 115 ∧ new = 115 ∧ w.job.isSome = true)
      ⟨hbelow, hhot, hjobSome⟩
    exact ⟨x, by rw [hx, hraised]; rfl, hcode, herg⟩
  · unfold bandFaulted
    rw [if_neg fun h => hcool h.2.1, hraised]
    rfl

theorem hbmStackTemperature_yields {s : State} (hpowered : powered s.m = true) (k : Fin 32) (c : Nat) :
    Yields s (.hbmStackTemperature k c) fun n =>
      sget 0 n.power.hbmBand k.val = hbmBandOf (sget 0 s.m.power.hbmBand k.val) c ∧
      (∀ j, j ≠ k.val → sget 0 n.power.hbmBand j = sget 0 s.m.power.hbmBand j) ∧ EngineKept s.m n ∧
      (115 ≤ c → sget 0 s.m.power.hbmBand k.val < 115 → s.m.job ≠ none →
        ∃ x, n.raised = s.m.raised ++ [x] ∧ x.code = 0x0505 ∧ x.erg = k.val / 8) ∧
      (c < 115 → n.raised = s.m.raised) := by
  refine ⟨_, execHbmStackTemperature_eq hpowered k c, ?_⟩
  have htrip := hbmBandOf_trip (sget 0 s.m.power.hbmBand k.val) c
  obtain ⟨hband, hkept, hfault, hcool⟩ := stackRead_spec s.m k.val (sget 0 s.m.power.hbmBand k.val)
    (hbmBandOf (sget 0 s.m.power.hbmBand k.val) c) (hotStacks s.m k.val (hbmBandOf (sget 0 s.m.power.hbmBand k.val) c) c)
  refine ⟨?_, fun j hj => ?_, hkept, fun hhot hbelow => hfault hbelow (htrip.mpr hhot), fun hc => hcool fun h => ?_⟩
  · rw [hband, sget_sset_same]
  · rw [hband, sget_sset_ne _ _ _ hj]
  · have := htrip.mp h
    omega

/-! ## HBM_SCRUB (R473) -/

/-- From `a` to `n` so many corrected and so many uncorrected words of a scrub have been counted. -/
structure ScrubCounted (a n : Mach) (corrected uncorrected : Nat) : Prop where
  corrected : odGet n 0x6020 6 = odGet a 0x6020 6 + corrected
  uncorrected : odGet n 0x6020 7 = odGet a 0x6020 7 + uncorrected
  engine : EngineKept a n

theorem ScrubCounted.trans {a m n : Mach} {c u c' u' : Nat} (h : ScrubCounted a m c u) (h' : ScrubCounted m n c' u') :
    ScrubCounted a n (c + c') (u + u') :=
  ⟨by rw [h'.corrected, h.corrected, Nat.add_assoc], by rw [h'.uncorrected, h.uncorrected, Nat.add_assoc], h.engine.trans h'.engine⟩

theorem count_engineKept (m : Mach) (idx sub n : Nat) : EngineKept m (count m idx sub n) :=
  ⟨rfl, rfl, rfl, rfl, rfl, rfl, rfl, rfl, rfl, rfl⟩

theorem scrubHit_corrected (m : Mach) (k : Nat) {h : ScrubHit} (hc : h.corrected = true) : ScrubCounted m (scrubHit k m h) 1 0 := by
  rw [scrubHit, if_pos hc]
  exact ⟨odGet_count_same .., odGet_count_ne m (by decide) 1, count_engineKept ..⟩

theorem scrubHit_uncorrected (m : Mach) (k : Nat) {h : ScrubHit} (hc : h.corrected = false) : ScrubCounted m (scrubHit k m h) 0 1 := by
  have hposted : OnlyHostSide (count m 0x6020 7 1) (postEvent (count m 0x6020 7 1) 0x8009 (k / 8) 63 h.address) :=
    postEvent_onlyHostSide ..
  rw [scrubHit, if_neg (by simp [hc])]
  refine ⟨?_, ?_, (count_engineKept ..).trans hposted.engineKept⟩
  · rw [odGet_postEvent_ne _ (by decide), odGet_count_ne _ (by decide)]
    rfl
  · rw [odGet_postEvent_ne _ (by decide), odGet_count_same]

theorem foldl_scrubHit (k : Nat) (hits : List ScrubHit) (m : Mach) : ScrubCounted m (hits.foldl (scrubHit k) m)
    (hits.filter (·.corrected)).length (hits.filter fun h => !h.corrected).length := by
  induction hits generalizing m with
  | nil => exact ⟨rfl, rfl, .refl m⟩
  | cons h rest ih =>
    cases hc : h.corrected
    · have hboth := (scrubHit_uncorrected m k hc).trans (ih (scrubHit k m h))
      simpa [hc, Nat.add_comm] using hboth
    · have hboth := (scrubHit_corrected m k hc).trans (ih (scrubHit k m h))
      simpa [hc, Nat.add_comm] using hboth

theorem hbmScrub_yields {s : State} (hpowered : powered s.m = true) (k : Fin 32) (hits : List ScrubHit) :
    Yields s (.hbmScrub k hits) fun n =>
      odGet n 0x6020 6 = odGet s.m 0x6020 6 + (hits.filter (·.corrected)).length ∧
      odGet n 0x6020 7 = odGet s.m 0x6020 7 + (hits.filter fun h => !h.corrected).length ∧ EngineKept s.m n := by
  have hexec : execHbmScrub k hits s = .next { s with m := hits.foldl (scrubHit k.val) s.m } := by
    simp only [execHbmScrub, nextM, hpowered, if_true]
  have hcounted := foldl_scrubHit k.val hits s.m
  exact ⟨_, hexec, hcounted.corrected, hcounted.uncorrected, hcounted.engine⟩

/-! ## A module still cold after its bask (R460) -/

theorem baskShortfall_yields {s : State} (hmode : s.m.mode = .standby) (hbask : odGet s.m 0x4300 3 = 1) (hlevel : odGet s.m 0x4100 1 = 0)
    (hbasks : ∃ e ∈ s.m.dunes, e.2.basking = true)
    (hcold : ∃ d, duneIsOff s.m (duneKey d) = false ∧ (getDune s.m d).tj < 16 * odGet s.m 0x4300 4) :
    Yields s .baskShortfallTimeout fun n => n = odSet (advance s.m (s.m.baskSince + 600 * 217000000000)) 0x4300 6 1 := by
  have hany : (s.m.dunes.any fun e => e.2.basking) = true := List.any_eq_true.mpr hbasks
  have hcolds : (allDunes.any fun d => !duneIsOff s.m (duneKey d) && decide ((getDune s.m d).tj < 16 * (odGet s.m 0x4300 4 : Int))) =
      true := by
    obtain ⟨d, hon, htj⟩ := hcold
    exact List.any_eq_true.mpr ⟨d, mem_allDunes d, by simp [hon, htj]⟩
  have hexec : execBaskShortfallTimeout s =
      .next { s with m := odSet (advance s.m (s.m.baskSince + 600 * 217000000000)) 0x4300 6 1 } := by
    simp only [execBaskShortfallTimeout, nextM]
    rw [if_pos ⟨hmode, hbask, hlevel, hany, hcolds⟩]
  exact ⟨_, hexec, rfl⟩

/-! ## The wanted level (R453, R454) -/

/-- From `a` to `n` a level may have been announced, and no object has changed. -/
structure OnlyLevelSaid (a n : Mach) : Prop where
  frame : n = { a with job := n.job, fresh := n.fresh, bundles := n.bundles, ctrl := n.ctrl, ctrlSeq := n.ctrlSeq,
                       ctrlSeen := n.ctrlSeen, out := n.out }

theorem OnlyLevelSaid.engineKept {a n : Mach} (h : OnlyLevelSaid a n) : EngineKept a n := by constructor <;> rw [h.frame]

theorem OnlyLevelSaid.odGet_eq {a n : Mach} (h : OnlyLevelSaid a n) (idx sub : Nat) : odGet n idx sub = odGet a idx sub := by
  rw [h.frame]
  rfl

theorem announcePeriod_onlyLevelSaid (m : Mach) (n level period : Nat) : OnlyLevelSaid m (announcePeriod m n level period) := by
  unfold announcePeriod
  extract_lets m1 m2
  have hsent : OnlyAnnounced m2 (broadcastJob m2 3 3 (lo32 n) (hi32 n) (changeWord 0 level period)) := broadcastJob_onlyAnnounced ..
  have h2 : m2 = { m with job := m2.job } := rfl
  clear_value m2
  generalize broadcastJob m2 3 3 (lo32 n) (hi32 n) (changeWord 0 level period) = w at hsent
  exact ⟨by rw [hsent.frame, h2]⟩

theorem announceLevel_onlyLevelSaid (m : Mach) : OnlyLevelSaid m (announceLevel m) := by
  unfold announceLevel
  split
  · exact ⟨rfl⟩
  · split
    · extract_lets own
      split
      · exact ⟨rfl⟩
      · exact ⟨rfl⟩
    · extract_lets d own level m1
      have h1 : m1 = { m with fresh := m1.fresh } := by
        unfold m1
        split <;> rfl
      clear_value m1
      split
      · exact ⟨by rw [h1]⟩
      · have hsaid := announcePeriod_onlyLevelSaid m1 (firstAnnounceable m1) level (periodOf m1 level)
        generalize announcePeriod m1 (firstAnnounceable m1) level (periodOf m1 level) = w at hsaid
        exact ⟨by rw [hsaid.frame, h1]⟩

/-- A level that is asked for and higher than the one in force is set and announced. -/
theorem askLevel_raises (m : Mach) {k : Nat} (hlevel : odGet m 0x4100 2 = k) (hk : k < 8) :
    askLevel m [k + 1] = announceLevel (odSet m 0x4100 2 (k + 1)) := by
  have hnew : min 8 (max k (k + 1)) = k + 1 := by omega
  simp only [askLevel, hlevel, List.foldl_cons, List.foldl_nil, hnew]
  rw [if_neg (by omega)]

/-- The step interval's start and the temperature it starts at. -/
def stepBegun (m : Mach) (due : Nat) : Mach := { m with power := { m.power with stepBase := hottestNow m, stepAt := due } }

theorem odGet_stepBegun (m : Mach) (due idx sub : Nat) : odGet (stepBegun m due) idx sub = odGet m idx sub := rfl

theorem stepBegun_engineKept (m : Mach) (due : Nat) : EngineKept m (stepBegun m due) :=
  ⟨rfl, rfl, rfl, rfl, rfl, rfl, rfl, rfl, rfl, rfl⟩

theorem odSet_engineKept (m : Mach) (idx sub v : Nat) : EngineKept m (odSet m idx sub v) :=
  ⟨rfl, rfl, rfl, rfl, rfl, rfl, rfl, rfl, rfl, rfl⟩

/-- The end of a LengthenStep interval at the instant `due` (R453). -/
def stepExpired (m : Mach) (due : Nat) : Mach :=
  if hottestNow m + 16 ≤ m.power.stepBase then stepBegun m due
  else askLevel (stepBegun m due) [odGet (stepBegun m due) 0x4100 2 + 1]

theorem execLengthenStepExpiry_eq {s : State} (hpowered : powered s.m = true) (hlevel : odGet s.m 0x4100 1 ≠ 0) {due : Nat}
    (hdue : s.m.power.stepAt + odGet s.m 0x4100 3 * 217000000 = due) :
    execLengthenStepExpiry s = .next { s with m := stepExpired (advance s.m due) due } := by
  have hguard : ¬((!powered s.m) = true ∨ (odGet s.m 0x4100 1 = 0 ∧ (!s.m.power.powerLengthening) = true)) := by
    simp [hpowered, hlevel]
  simp only [execLengthenStepExpiry, nextM]
  rw [if_neg hguard, hdue]
  rfl

/-- The interval has not cooled the hottest spot by 0.5 °C: one step more. -/
theorem stepExpired_lengthens {m : Mach} (hwarm : m.power.stepBase < hottestNow m + 16) (hlevel : odGet m 0x4100 2 < 8) (due : Nat) :
    odGet (stepExpired m due) 0x4100 2 = odGet m 0x4100 2 + 1 ∧ (stepExpired m due).power.stepBase = hottestNow m ∧
      (stepExpired m due).power.stepAt = due ∧ EngineKept m (stepExpired m due) := by
  have hbegun := stepBegun_engineKept m due
  have hbase : (stepBegun m due).power.stepBase = hottestNow m := rfl
  have hat : (stepBegun m due).power.stepAt = due := rfl
  have hsame := odGet_stepBegun m due 0x4100 2
  unfold stepExpired
  rw [if_neg (by omega), askLevel_raises (stepBegun m due) rfl (hsame ▸ hlevel), hsame]
  generalize stepBegun m due = w at hbegun hbase hat
  generalize odGet m 0x4100 2 = k
  have hset : odGet (odSet w 0x4100 2 (k + 1)) 0x4100 2 = k + 1 := odGet_odSet_same ..
  have hsaid := announceLevel_onlyLevelSaid (odSet w 0x4100 2 (k + 1))
  have hframe := odSet_frame w 0x4100 2 (k + 1)
  have hkept := odSet_engineKept w 0x4100 2 (k + 1)
  generalize odSet w 0x4100 2 (k + 1) = u at hset hsaid hframe hkept ⊢
  have hpower : (announceLevel u).power = w.power := by rw [hsaid.frame, hframe]
  rw [hpower]
  exact ⟨(hsaid.odGet_eq ..).trans hset, hbase, hat, hbegun.trans (hkept.trans hsaid.engineKept)⟩

/-- The relax interval's start. -/
def relaxBegun (m : Mach) (due : Nat) : Mach := { m with power := { m.power with relaxAt := due } }

/-- The end of a LengthenRelax interval at the instant `due` (R453). -/
def relaxExpired (m : Mach) (due : Nat) : Mach :=
  if odGet (relaxBegun m due) 0x4100 2 = 0 then relaxBegun m due
  else announceLevel (odSet (relaxBegun m due) 0x4100 2 (odGet (relaxBegun m due) 0x4100 2 - 1))

theorem execLengthenRelaxExpiry_eq {s : State} (hpowered : powered s.m = true) (hlevel : odGet s.m 0x4100 1 = 0)
    (hpower : s.m.power.powerLengthening = false) {due : Nat} (hdue : s.m.power.relaxAt + odGet s.m 0x4100 4 * 217000000 = due) :
    execLengthenRelaxExpiry s = .next { s with m := relaxExpired (advance s.m due) due } := by
  have hguard : ¬((!powered s.m) = true ∨ odGet s.m 0x4100 1 ≠ 0 ∨ s.m.power.powerLengthening = true) := by
    simp [hpowered, hlevel, hpower]
  simp only [execLengthenRelaxExpiry, nextM]
  rw [if_neg hguard, hdue]
  rfl

theorem odGet_relaxBegun (m : Mach) (due idx sub : Nat) : odGet (relaxBegun m due) idx sub = odGet m idx sub := rfl

theorem relaxBegun_engineKept (m : Mach) (due : Nat) : EngineKept m (relaxBegun m due) :=
  ⟨rfl, rfl, rfl, rfl, rfl, rfl, rfl, rfl, rfl, rfl⟩

theorem relaxExpired_relaxes {m : Mach} (hlevel : 0 < odGet m 0x4100 2) (due : Nat) :
    odGet (relaxExpired m due) 0x4100 2 = odGet m 0x4100 2 - 1 ∧ (relaxExpired m due).power.relaxAt = due ∧
      EngineKept m (relaxExpired m due) := by
  have hbegun := relaxBegun_engineKept m due
  have hat : (relaxBegun m due).power.relaxAt = due := rfl
  unfold relaxExpired
  rw [odGet_relaxBegun, if_neg (by omega)]
  generalize relaxBegun m due = w at hbegun hat
  generalize odGet m 0x4100 2 - 1 = k
  have hset : odGet (odSet w 0x4100 2 k) 0x4100 2 = k := odGet_odSet_same ..
  have hsaid := announceLevel_onlyLevelSaid (odSet w 0x4100 2 k)
  have hframe := odSet_frame w 0x4100 2 k
  have hkept := odSet_engineKept w 0x4100 2 k
  generalize odSet w 0x4100 2 k = u at hset hsaid hframe hkept ⊢
  have hpower : (announceLevel u).power = w.power := by rw [hsaid.frame, hframe]
  rw [hpower]
  exact ⟨(hsaid.odGet_eq ..).trans hset, hat, hbegun.trans (hkept.trans hsaid.engineKept)⟩

end Sys2Proof.Machine

/-! SUPPORT. A sample of the sensors (R449–R455, R459–R463): a pair that agrees gives its spot's effective temperature, and nothing
that follows from the sample changes a spot or a reading. That a sample is taken at the present clock is the model's reading
(assumption 94). -/

namespace Sys2Proof.Machine

/-! ## What follows from a sample keeps its readings -/

/-- From `a` to `n` the spots, the sensors' readings, HBM and the clock are as they were. -/
structure SensedKept (a n : Mach) : Prop where
  spots : n.power.spots = a.power.spots
  samples : n.power.samples = a.power.samples
  hbm : n.hbm = a.hbm
  now : n.now = a.now
  objects : ∀ o ∈ sensorObjs, odGet n o.1 o.2 = odGet a o.1 o.2

namespace SensedKept

variable {a m n : Mach}

theorem refl (a : Mach) : SensedKept a a := ⟨rfl, rfl, rfl, rfl, fun _ _ => rfl⟩

theorem trans (h : SensedKept a m) (h' : SensedKept m n) : SensedKept a n :=
  ⟨h'.spots.trans h.spots, h'.samples.trans h.samples, h'.hbm.trans h.hbm, h'.now.trans h.now,
    fun o ho => (h'.objects o ho).trans (h.objects o ho)⟩

theorem ite {p : Prop} [Decidable p] (h : SensedKept a m) (h' : SensedKept a n) : SensedKept a (if p then m else n) := by
  split
  · exact h
  · exact h'

theorem foldl {α : Type} {g : Mach → α → Mach} (hg : ∀ m x, SensedKept m (g m x)) (l : List α) (a : Mach) :
    SensedKept a (l.foldl g a) :=
  List.foldlRecOn l g (.refl a) fun m hm x _ => hm.trans (hg m x)

theorem odSet (m : Mach) {idx sub : Nat} (h : ∀ o ∈ sensorObjs, objKey o.1 o.2 ≠ objKey idx sub) (v : Nat) :
    SensedKept m (odSet m idx sub v) := ⟨rfl, rfl, rfl, rfl, fun o ho => odGet_odSet_ne m (h o ho) v⟩

theorem count (m : Mach) {idx sub : Nat} (h : ∀ o ∈ sensorObjs, objKey o.1 o.2 ≠ objKey idx sub) (v : Nat) :
    SensedKept m (count m idx sub v) := .odSet m h _

theorem getSpot_eq (h : SensedKept a n) (k : Nat) : getSpot n k = getSpot a k := by rw [getSpot, h.spots, getSpot]

end SensedKept

theorem BoardKept.sensedKept {a n : Mach} (h : BoardKept a n) : SensedKept a n :=
  ⟨by rw [h.power], by rw [h.power], h.hbm, h.now, h.objects⟩

theorem postEvent_sensedKept (m : Mach) (code erg dune value : Nat) : SensedKept m (postEvent m code erg dune value) := by
  have hposted := postEvent_onlyHostSide m code erg dune value
  refine ⟨?_, ?_, ?_, ?_, fun o ho => odGet_postEvent_ne m (by revert o; decide) code erg dune value⟩
  all_goals rw [hposted.frame]

theorem OnlyLevelSaid.sensedKept {a n : Mach} (h : OnlyLevelSaid a n) : SensedKept a n :=
  ⟨by rw [h.frame], by rw [h.frame], by rw [h.frame], by rw [h.frame], fun o _ => h.odGet_eq o.1 o.2⟩

/-- A fault raised counts, and changes no reading. -/
theorem raiseFault_sensedKept (m : Mach) (code erg dune row thread beat detail : Nat) :
    SensedKept m (raiseFault m code erg dune row thread beat detail) := by
  unfold raiseFault
  extract_lets sev rec_ src m1 m2 m3
  have h1 : SensedKept m m1 := by
    unfold m1 keepDetail
    rw [openFault_eq]
    split <;> exact ⟨rfl, rfl, rfl, rfl, fun _ _ => rfl⟩
  have hcounted : SensedKept m1 (countDune m1 erg dune 0x6150 4 1) := by
    obtain ⟨od, heq⟩ := countDune_eq m1 erg dune 0x6150 4 1
    refine ⟨?_, ?_, ?_, ?_, fun o ho => odGet_countDune_ne m1 (by revert o; decide) (by revert o; decide) erg dune 1⟩
    all_goals rw [heq]
  have h2 : SensedKept m m2 := h1.trans (.ite hcounted (.refl m1))
  have h3 : SensedKept m2 m3 := .ite (.count m2 (by decide) 1) (.ite (.count m2 (by decide) 1) (.refl m2))
  exact (h2.trans h3).trans ⟨rfl, rfl, rfl, rfl, fun _ _ => rfl⟩

/-! ## One pair of sensors (R450) -/

/-- The module at its next sample. -/
def sampleBegun (m : Mach) : Mach := { m with power := { m.power with samples := m.power.samples + 1 } }

theorem sampleSpot_same {m : Mach} {r : SpotReading} (hplain : failsNow (getSpot m r.spot) r = (false, false))
    (hclose : (r.first - r.second).natAbs ≤ 64) : (getSpot (sampleSpot m r) r.spot).eff = r.first + r.second := by
  have hd : (2 * r.first - 2 * r.second).natAbs ≤ 128 := by omega
  have hmean : (2 * r.first + 2 * r.second) / 2 = r.first + r.second := by omega
  have hpair (n : Int) (at_ : Nat) : (samplePair (getSpot m r.spot) r n at_).eff = r.first + r.second := by
    simp only [samplePair, hplain, hd, if_true, hmean]
  unfold sampleSpot getSpot
  dsimp only
  rw [sget_sset_same]
  exact hpair ..

theorem sampleSpot_ne (m : Mach) (r : SpotReading) {k : Nat} (h : k ≠ r.spot) : getSpot (sampleSpot m r) k = getSpot m k :=
  sget_sset_ne _ _ _ h

/-! ## Dunes, coolant, levels and power (R451–R454, R463) -/

theorem sampleDune_sensedKept (m : Mach) (k : Nat) : SensedKept m (sampleDune m k) := by
  unfold sampleDune
  extract_lets d xs
  exact .ite ⟨rfl, rfl, rfl, rfl, fun _ _ => rfl⟩ (.refl m)

/-- From `a` to `n` the readings of input power, inlet and flow have become these. -/
structure ReadingsSet (power inlet flow : Nat) (a n : Mach) : Prop where
  spots : n.power.spots = a.power.spots
  samples : n.power.samples = a.power.samples
  hbm : n.hbm = a.hbm
  now : n.now = a.now
  inputPower : odGet n 0x4000 5 = power
  inlet : odGet n 0x4200 1 = inlet
  flow : odGet n 0x4200 3 = flow

section
variable {power inlet flow : Nat} {a m n : Mach}

theorem ReadingsSet.kept (h : ReadingsSet power inlet flow a m) (h' : SensedKept m n) : ReadingsSet power inlet flow a n where
  spots := h'.spots.trans h.spots
  samples := h'.samples.trans h.samples
  hbm := h'.hbm.trans h.hbm
  now := h'.now.trans h.now
  inputPower := (h'.objects (0x4000, 5) (by decide)).trans h.inputPower
  inlet := (h'.objects (0x4200, 1) (by decide)).trans h.inlet
  flow := (h'.objects (0x4200, 3) (by decide)).trans h.flow

theorem ReadingsSet.after_kept (h : SensedKept a m) (h' : ReadingsSet power inlet flow m n) : ReadingsSet power inlet flow a n :=
  { h' with spots := h'.spots.trans h.spots, samples := h'.samples.trans h.samples, hbm := h'.hbm.trans h.hbm
            now := h'.now.trans h.now }

end

theorem odSet_power (m : Mach) (idx sub v : Nat) : (odSet m idx sub v).power = m.power := rfl
theorem odSet_hbm (m : Mach) (idx sub v : Nat) : (odSet m idx sub v).hbm = m.hbm := rfl
theorem odSet_now (m : Mach) (idx sub v : Nat) : (odSet m idx sub v).now = m.now := rfl

/-- The readings set as objects: input power, inlet, outlet, flow, and the flow that is estimated. -/
theorem readingsSet_of_odSet (m : Mach) (power inlet outlet flow est : Nat) : ReadingsSet power inlet flow m
    (odSet (odSet (odSet (odSet (odSet m 0x4000 5 power) 0x4200 1 inlet) 0x4200 2 outlet) 0x4200 3 flow) 0x4200 4 est) where
  spots := by simp only [odSet_power]
  samples := by simp only [odSet_power]
  hbm := by simp only [odSet_hbm]
  now := by simp only [odSet_now]
  inputPower := by
    rw [odGet_odSet_ne _ (by decide), odGet_odSet_ne _ (by decide), odGet_odSet_ne _ (by decide), odGet_odSet_ne _ (by decide),
      odGet_odSet_same]
  inlet := by
    rw [odGet_odSet_ne _ (by decide), odGet_odSet_ne _ (by decide), odGet_odSet_ne _ (by decide), odGet_odSet_same]
  flow := by rw [odGet_odSet_ne _ (by decide), odGet_odSet_same]

/-- The samples in a row with full flow. -/
def flowOkSet (m : Mach) (v : Nat) : Mach := { m with power := { m.power with flowOk := v } }

theorem flowOkSet_sensedKept (m : Mach) (v : Nat) : SensedKept m (flowOkSet m v) := ⟨rfl, rfl, rfl, rfl, fun _ _ => rfl⟩

theorem senseCoolant_sensed (m : Mach) (o : SensorObs) :
    ReadingsSet o.inputPower (f32Of o.inlet 4) (f32Milli o.flow) m (senseCoolant m o) := by
  unfold senseCoolant
  extract_lets dt d r m1 m2 new old m3 power m4
  have hdrawn : SensedKept m r.2 := by
    unfold r
    split
    · exact .refl m
    · split
      · exact ⟨rfl, rfl, rfl, rfl, fun _ _ => rfl⟩
      · exact .refl m
  have h2 : ReadingsSet o.inputPower (f32Of o.inlet 4) (f32Milli o.flow) m m2 := .after_kept hdrawn (readingsSet_of_odSet ..)
  clear_value m2
  have h3 : SensedKept m2 m3 := .odSet m2 (by decide) new
  have h4 : SensedKept m3 m4 := flowOkSet_sensedKept m3 _
  clear_value m4
  exact (h2.kept (h3.trans h4)).kept (.ite (postEvent_sensedKept ..) (.refl m4))

theorem senseLevel_sensedKept (m : Mach) : SensedKept m (senseLevel m).1 := by
  unfold senseLevel
  extract_lets old top new lam hot m1 m2 m3 m4 at_ m5 m6 m7
  have h4 : SensedKept m m4 :=
    ((((SensedKept.odSet m (by decide) new).trans (.odSet m1 (by decide) _)).trans (.odSet _ (by decide) _)).trans
      (.odSet m2 (by decide) _)).trans (.odSet m3 (by decide) _)
  clear_value m4
  have h5 : SensedKept m m5 := h4.trans (.ite (postEvent_sensedKept ..) (.refl m4))
  have h6 : SensedKept m m6 := h5.trans (.ite ⟨rfl, rfl, rfl, rfl, fun _ _ => rfl⟩ (.refl m5))
  exact h6.trans (.ite ⟨rfl, rfl, rfl, rfl, fun _ _ => rfl⟩ (.refl m6))

theorem sensePower_sensedKept (m : Mach) (o : SensorObs) : SensedKept m (sensePower m o).1 := by
  unfold sensePower
  extract_lets tdp old was now above m1 m2 m3
  have h1 : SensedKept m m1 := .ite (.count m (by decide) 1) (.refl m)
  have h2 : SensedKept m m2 := h1.trans (.ite ⟨rfl, rfl, rfl, rfl, fun _ _ => rfl⟩ (.refl m1))
  have h3 : SensedKept m m3 := h2.trans (.ite ⟨rfl, rfl, rfl, rfl, fun _ _ => rfl⟩ (.refl m2))
  exact h3.trans ⟨rfl, rfl, rfl, rfl, fun _ _ => rfl⟩

theorem askLevel_sensedKept (m : Mach) (asks : List Nat) : SensedKept m (askLevel m asks) := by
  unfold askLevel
  extract_lets old new
  exact .ite (.refl m) ((SensedKept.odSet m (by decide) new).trans (announceLevel_onlyLevelSaid _).sensedKept)

/-! ## Hot spots (R455) -/

theorem shutDune_sensedKept (m : Mach) (d : DuneId) : SensedKept m (shutDune m d) := by
  unfold shutDune
  split
  · exact .refl m
  · extract_lets used m1
    have h1 : SensedKept m m1 := (SensedKept.count m (by decide) 1).trans (duneGoesOff_boardKept ..).sensedKept
    exact .ite (h1.trans (raiseFault_sensedKept ..)) h1

theorem hotSpot_sensedKept (m : Mach) (k : Nat) : SensedKept m (hotSpot m k) :=
  .ite (shutDune_sensedKept ..) (.ite (.refl m) (raiseFault_sensedKept ..))

/-! ## Cold dunes and bask (R459, R460) -/

theorem senseCold_sensedKept (m : Mach) : SensedKept m (senseCold m) := by
  unfold senseCold
  extract_lets sec cold power m1 target warm
  clear_value sec
  have hcounted : SensedKept m (count { m with power := { m.power with lastColdSecond := sec } } 0x4300 7 1) :=
    .trans (m := { m with power := { m.power with lastColdSecond := sec } }) ⟨rfl, rfl, rfl, rfl, fun _ _ => rfl⟩
      (.count _ (by decide) 1)
  have h1 : SensedKept m m1 := .ite hcounted (.refl m)
  exact .ite (h1.trans (.odSet m1 (by decide) 0)) h1

theorem baskDune_sensedKept (m : Mach) (d : DuneId) : SensedKept m (baskDune m d) := by
  unfold baskDune
  extract_lets x limit on
  exact .ite (.refl m) ⟨rfl, rfl, rfl, rfl, fun _ _ => rfl⟩

theorem baskNext_sensedKept (m : Mach) (r : RowId) (after : Nat) : SensedKept m (baskNext m r after) := by
  unfold baskNext
  extract_lets w d idle
  have hidle : SensedKept m idle := ⟨rfl, rfl, rfl, rfl, fun _ _ => rfl⟩
  split
  · exact .ite ⟨rfl, rfl, rfl, rfl, fun _ _ => rfl⟩ hidle
  · exact hidle

theorem stopBask_sensedKept (m : Mach) : SensedKept m (stopBask m) := ⟨rfl, rfl, rfl, rfl, fun _ _ => rfl⟩

theorem baskSample_sensedKept (m : Mach) : SensedKept m (baskSample m) := by
  unfold baskSample
  extract_lets before m1 m2
  have h1 : SensedKept m m1 := .foldl baskDune_sensedKept allDunes m
  clear_value m1
  have h2 : SensedKept m m2 := h1.trans (.ite (.refl m1) ⟨rfl, rfl, rfl, rfl, fun _ _ => rfl⟩)
  refine .ite (.ite (stopBask_sensedKept m) (.refl m)) (h2.trans (.foldl (fun m d => ?_) _ m2))
  exact .foldl (fun m r => .ite (baskNext_sensedKept ..) (.refl m)) _ m

/-! ## The sample (R449) -/

/-- The dunes of which a sample reads a spot. -/
def sampledDunes (o : SensorObs) : List Nat :=
  ((o.spots.filter fun r => r.spot < 2364).filterMap fun r => if r.spot < 2304 then some (r.spot / 12) else none).eraseDups

/-- Levels and power after a sample, and the level asked for. -/
def levelsSensed (m : Mach) (o : SensorObs) : Mach :=
  askLevel (sensePower (senseLevel m).1 o).1 ((senseLevel m).2 ++ (sensePower (senseLevel m).1 o).2)

/-- The spots that a sample finds at T3. -/
def hotSpots (before m : Mach) (o : SensorObs) : List Nat :=
  (((o.spots.filter fun r => r.spot < 2364).map (·.spot)).eraseDups).filter fun n =>
    (getSpot m n).level == 3 && (n < 2304 || (getSpot before n).level != 3)

/-- What follows from a sample, its spots read. -/
def sampleFollowed (before m : Mach) (o : SensorObs) : Mach :=
  let w := levelsSensed (senseCoolant ((sampledDunes o).foldl sampleDune m) o) o
  baskSample (senseCold ((hotSpots before w o).foldl hotSpot w))

/-- A pair of plausible readings at most 15 °C apart. -/
def agrees (m : Mach) (r : SpotReading) : Bool :=
  failsNow (getSpot m r.spot) r == (false, false) && decide ((r.first - r.second).natAbs ≤ 240)

/-- The readings in the order in which they are taken: pairs that agree first. -/
def orderedReadings (m : Mach) (o : SensorObs) : List SpotReading :=
  (o.spots.filter fun r => r.spot < 2364).filter (agrees m) ++ (o.spots.filter fun r => r.spot < 2364).filter fun r => !agrees m r

/-- A whole sample taken. -/
def sampleTaken (m : Mach) (o : SensorObs) : Mach :=
  sampleFollowed (sampleBegun m) ((orderedReadings (sampleBegun m) o).foldl sampleSpot (sampleBegun m)) o

theorem execSensorSample_eq {s : State} (hpowered : powered s.m = true) (o : SensorObs) :
    execSensorSample o s = .next { s with m := sampleTaken s.m o } := by
  simp only [execSensorSample, nextM, hpowered, Bool.not_true, Bool.false_eq_true, if_false]
  rfl

theorem orderedReadings_single {m : Mach} {o : SensorObs} {r : SpotReading} (hone : o.spots = [r]) (hspot : r.spot < 2364)
    (hplain : failsNow (getSpot m r.spot) r = (false, false)) (hclose : (r.first - r.second).natAbs ≤ 64) :
    orderedReadings m o = [r] := by
  have hagrees : agrees m r = true := by
    simp only [agrees, hplain, beq_self_eq_true, Bool.true_and, decide_eq_true_eq]
    omega
  simp [orderedReadings, hone, hspot, hagrees]

theorem sampleFollowed_sensed (before m : Mach) (o : SensorObs) :
    ReadingsSet o.inputPower (f32Of o.inlet 4) (f32Milli o.flow) m (sampleFollowed before m o) := by
  have hdunes : SensedKept m ((sampledDunes o).foldl sampleDune m) := .foldl sampleDune_sensedKept _ m
  unfold sampleFollowed
  generalize (sampledDunes o).foldl sampleDune m = u at hdunes
  extract_lets w
  have hlevels : SensedKept (senseCoolant u o) w :=
    ((senseLevel_sensedKept _).trans (sensePower_sensedKept ..)).trans (askLevel_sensedKept ..)
  clear_value w
  have hafter : SensedKept w (baskSample (senseCold ((hotSpots before w o).foldl hotSpot w))) :=
    ((SensedKept.foldl hotSpot_sensedKept _ w).trans (senseCold_sensedKept _)).trans (baskSample_sensedKept _)
  exact .after_kept hdunes (((senseCoolant_sensed u o).kept hlevels).kept hafter)

theorem sampleSpot_board (m : Mach) (r : SpotReading) : (sampleSpot m r).power.samples = m.power.samples ∧
    (sampleSpot m r).hbm = m.hbm ∧ (sampleSpot m r).now = m.now := ⟨rfl, rfl, rfl⟩

theorem sensorSample_yields {s : State} {o : SensorObs} {r : SpotReading} (hpowered : powered s.m = true) (hone : o.spots = [r])
    (hspot : r.spot < 2364) (hplain : failsNow (getSpot s.m r.spot) r = (false, false)) (hclose : (r.first - r.second).natAbs ≤ 64) :
    Yields s (.sensorSample o) fun n => (getSpot n r.spot).eff = r.first + r.second ∧
      (∀ k, k ≠ r.spot → getSpot n k = getSpot s.m k) ∧ n.power.samples = s.m.power.samples + 1 ∧
      odGet n 0x4000 5 = o.inputPower ∧ odGet n 0x4200 1 = f32Of o.inlet 4 ∧ odGet n 0x4200 3 = f32Milli o.flow ∧
      n.hbm = s.m.hbm ∧ n.now = s.m.now := by
  refine ⟨_, execSensorSample_eq hpowered o, ?_⟩
  have hbegun : (sampleBegun s.m).power.samples = s.m.power.samples + 1 ∧ (sampleBegun s.m).hbm = s.m.hbm ∧
      (sampleBegun s.m).now = s.m.now ∧ ∀ k, getSpot (sampleBegun s.m) k = getSpot s.m k := ⟨rfl, rfl, rfl, fun _ => rfl⟩
  unfold sampleTaken
  generalize sampleBegun s.m = u at hbegun ⊢
  obtain ⟨hsamples, hhbm, hnow, hspots⟩ := hbegun
  rw [← hspots] at hplain
  rw [orderedReadings_single hone hspot hplain hclose, List.foldl_cons, List.foldl_nil]
  have hsame := sampleSpot_same hplain hclose
  have hothers (k : Nat) (hk : k ≠ r.spot) : getSpot (sampleSpot u r) k = getSpot u k := sampleSpot_ne u r hk
  obtain ⟨hsamples', hhbm', hnow'⟩ := sampleSpot_board u r
  generalize sampleSpot u r = w at hsame hothers hsamples' hhbm' hnow' ⊢
  have hset := sampleFollowed_sensed u w o
  generalize sampleFollowed u w o = n at hset ⊢
  have hspot' (k : Nat) : getSpot n k = getSpot w k := by rw [getSpot, hset.spots, getSpot]
  refine ⟨?_, fun k hk => ?_, ?_, hset.inputPower, hset.inlet, hset.flow, hset.hbm.trans (hhbm'.trans hhbm),
    hset.now.trans (hnow'.trans hnow)⟩
  · rw [hspot', hsame]
  · rw [hspot', hothers k hk, hspots]
  · rw [hset.samples, hsamples', hsamples]

/-- Settles O57: a sample by `sampleFollowed_sensed`, the expiries by `stepExpired_lengthens` and `relaxExpired_relaxes`, the trips by
`haltModule_spec` and `unplugged_spec`, and the stacks by `stackRead_spec` and `foldl_scrubHit`. -/
theorem heatAndCoolant : Obligations.HeatAndCoolant := by
  unfold Obligations.HeatAndCoolant
  intro s hpowered step relax
  refine ⟨fun o r hone hspot hplain hclose => sensorSample_yields hpowered hone hspot hplain hclose, fun hlevel => ?steps,
    fun hlevel hpower => ?relaxes, comparatorTrip_yields hpowered, flowStop_yields hpowered, edgeFieldHot_yields hpowered,
    hbmStackTemperature_yields hpowered, fun hmode hbask hlevel hbasks hcold => baskShortfall_yields hmode hbask hlevel hbasks hcold,
    hbmScrub_yields hpowered⟩
  case steps =>
    have hexec := execLengthenStepExpiry_eq hpowered hlevel (due := step) rfl
    clear_value step
    intro a
    refine ⟨fun hwarm hbelow => ⟨_, hexec, stepExpired_lengthens hwarm hbelow step⟩, fun hcooled => ⟨_, hexec, ?_⟩⟩
    exact if_pos hcooled
  case relaxes =>
    have hexec := execLengthenRelaxExpiry_eq hpowered hlevel hpower (due := relax) rfl
    clear_value relax
    exact fun hlam => ⟨_, hexec, relaxExpired_relaxes hlam relax⟩

end Sys2Proof.Machine

/-! SUPPORT. FREEZE at an island, a silent steward, REINIT and provocations (R476, R478, R494, R531). -/

namespace Sys2Proof.Machine

/-! ## Maps whose every entry is changed -/

/-- What the default and every changed entry satisfy, each read satisfies. -/
theorem sget_smap_holds {α : Type} [DecidableEq α] {d : α} {f : Nat → α → α} {k : Nat} {p : α → Prop} (hd : p d)
    (hf : ∀ v, p (f k v)) (m : SMap α) : p (sget d (smap d m f) k) := by
  induction m with
  | nil => exact hd
  | cons e rest ih =>
    obtain ⟨j, v⟩ := e
    by_cases hv : f j v = d
    · simpa [smap, hv] using ih
    · simp only [smap, List.filterMap_cons, hv, if_false, sget]
      split
      next hj => exact hj ▸ hf v
      next => exact ih

/-- A key that is not listed reads the default. -/
theorem sget_eq_of_not_mem {α : Type} {d : α} {m : SMap α} {k : Nat} (h : k ∉ m.map (·.1)) : sget d m k = d := by
  by_contra hne
  exact h (List.mem_map.mpr ⟨_, mem_of_sget_ne hne, rfl⟩)

theorem smap_keys_subset {α : Type} [DecidableEq α] (d : α) (m : SMap α) (f : Nat → α → α) {k : Nat}
    (h : k ∈ (smap d m f).map (·.1)) : k ∈ m.map (·.1) := by
  obtain ⟨e, he, rfl⟩ := List.mem_map.mp h
  obtain ⟨x, hx, hsome⟩ := List.mem_filterMap.mp he
  split at hsome
  · cases hsome
  · rw [← Option.some.inj hsome]
    exact List.mem_map.mpr ⟨x, hx, rfl⟩

/-- An entry that is not changed reads as before, where no key is listed twice. -/
theorem sget_smap_same {α : Type} [DecidableEq α] {d : α} {f : Nat → α → α} {k : Nat} (hf : ∀ v, f k v = v) (m : SMap α)
    (hkeys : (m.map (·.1)).Nodup) : sget d (smap d m f) k = sget d m k := by
  induction m with
  | nil => rfl
  | cons e rest ih =>
    obtain ⟨j, v⟩ := e
    rw [List.map_cons, List.nodup_cons] at hkeys
    obtain ⟨hfresh, hrest⟩ := hkeys
    by_cases hj : j = k
    · subst hj
      by_cases hv : v = d
      · have hgone : sget d (smap d rest f) j = d := sget_eq_of_not_mem fun h => hfresh (smap_keys_subset d rest f h)
        simpa [smap, sget, hf, hv] using hgone
      · simp [smap, sget, hf, hv]
    · have hskip : sget d (smap d ((j, v) :: rest) f) k = sget d (smap d rest f) k := by
        by_cases hv : f j v = d <;> simp [smap, sget, hv, hj]
      rw [hskip, ih hrest, sget, if_neg hj]

/-! ## FREEZE (R478) -/

theorem rowKey_div (r : RowId) : rowKey r / 96 = duneKey r.dune := by
  have hrow := r.num.isLt
  simp only [rowKey]
  omega

/-- A row, by its key, after its dune has been frozen. -/
def rowFrozen (d : DuneId) (k : Nat) (w : RowState) : RowState :=
  if k / 96 = duneKey d then
    { w with stopped := true, firing := none, bask := none, strip := w.strip.map fun s => { s with running := false } }
  else w

theorem getRow_freezeDune (m : Mach) (d : DuneId) (r : RowId) :
    getRow (freezeDune m d) r = sget {} (smap {} m.rows (rowFrozen d)) (rowKey r) := rfl

theorem freezeDune_firing (m : Mach) (d : DuneId) (k : Fin 96) : (getRow (freezeDune m d) ⟨d, k⟩).firing = none := by
  have hdefault : ({} : RowState).firing = none := rfl
  rw [getRow_freezeDune]
  refine sget_smap_holds (p := fun w : RowState => w.firing = none) hdefault (fun v => ?_) m.rows
  rw [rowFrozen, if_pos (rowKey_div ⟨d, k⟩)]

theorem getRow_freezeDune_ne {m : Mach} {d : DuneId} {r : RowId} (h : r.dune ≠ d) (hkeys : (m.rows.map (·.1)).Nodup) :
    getRow (freezeDune m d) r = getRow m r := by
  rw [getRow_freezeDune]
  refine sget_smap_same (fun v => ?_) m.rows hkeys
  rw [rowFrozen, if_neg fun hkey => h (duneKey_inj ((rowKey_div r).symm.trans hkey))]

theorem freeze_yields {s : State} {d : DuneId} {x : MeshMsg} (haddressed : Addressed s.m (duneNode d) 5 x)
    (hruns : (getDune s.m d).frozen = false) : Yields s (.freeze d x) fun n => (getDune n d).frozen = true ∧
      (∀ e, e ≠ d → getDune n e = getDune s.m e) ∧ (∀ k : Fin 96, (getRow n ⟨d, k⟩).firing = none) ∧
      ((s.m.rows.map (·.1)).Nodup → ∀ r : RowId, r.dune ≠ d → getRow n r = getRow s.m r) ∧
      n = { hears s.m (duneNode d) x with dunes := n.dunes, rows := n.rows } := by
  refine ⟨freezeDune (hears s.m (duneNode d) x) d, ?_, freezeDune_frozen .., fun e he => getDune_freezeDune_ne _ he,
    freezeDune_firing _ d, fun hkeys r hr => getRow_freezeDune_ne hr hkeys, (freezeDune_onlyFrozen ..).frame⟩
  refine (nextM_onMessage haddressed _).trans ?_
  simp only [getDune_hears, hruns, Bool.false_eq_true, if_false]

theorem freeze_again_yields {s : State} {d : DuneId} {x : MeshMsg} (haddressed : Addressed s.m (duneNode d) 5 x)
    (hfrozen : (getDune s.m d).frozen = true) : Yields s (.freeze d x) fun n => n = hears s.m (duneNode d) x := by
  refine ⟨_, (nextM_onMessage haddressed _).trans ?_, rfl⟩
  simp only [getDune_hears, hfrozen, if_true]

/-! ## A silent steward (R476) -/

theorem stewardTimeout_yields {s : State} (hpowered : powered s.m = true) {e : Fin 4} (he : e ≠ 0) :
    Yields s (.stewardTimeout e) fun n => EngineKept s.m n ∧
      ∃ x, n.raised = s.m.raised ++ [x] ∧ x.code = 0x070A ∧ x.erg = e.val := by
  refine ⟨raiseFault s.m 0x70A e.val 63 127 0 (beatHere s.m) 0, ?_,
    (raiseFault_onlyFaulted _ (by decide) (by decide) ..).engineKept, _, raiseFault_raised .., rfl, rfl⟩
  have hguard : ¬((!powered s.m) = true ∨ e = 0) := by simp [hpowered, he]
  simp only [exec, execStewardTimeout, nextM]
  rw [if_neg hguard]

/-! ## REINIT (R531) -/

/-- A write that passes its checks passes the check of state that its object adds. -/
theorem state_passes_of_checkWrite {m : Mach} {v : Via} {idx sub : Nat} {data : List Byte} {value state : Option Nat}
    (h : checkWrite m v idx sub data value state = none) : state = none := by
  unfold checkWrite at h
  split at h
  · cases h
  · simp only [Option.orElse_eq_orElse, Option.orElse_eq_or, Option.or_eq_none_iff] at h
    obtain ⟨-, -, -, -, -, -, -, hstate, -⟩ := h
    exact hstate

theorem reinitOk_of_check {m : Mach} {v : Via} {data : List Byte} (h : reinitCheck m v data = none) : reinitOk m = true := by
  have hstate := state_passes_of_checkWrite h
  by_contra hnot
  rw [Bool.not_eq_true] at hnot
  simp [hnot, failIf] at hstate

theorem reinitOk_mode {m : Mach} (h : reinitOk m = true) : m.mode ≠ .powering := by
  intro hmode
  simp [reinitOk, hmode] at h

/-- A dune, by its key, as REINIT leaves it: it is on again, but where its e-fuse is open or self-test has switched it off. -/
def duneBack (m : Mach) (k : Nat) (d : DuneState) : DuneState :=
  if d.power == .off && sget 0 m.power.efuse k == 0 && !m.selftestDunes.contains k then { d with power := .usable, time := .acquire } else d

theorem duneBack_basking (m : Mach) (k : Nat) (d : DuneState) : (duneBack m k d).basking = d.basking := by
  unfold duneBack
  split <;> rfl

/-- The dune domains on again. -/
def domainsOn (m : Mach) : Mach := { m with dunes := smap {} m.dunes (duneBack m), power := { m.power with dunesUp := true } }

theorem domainsOn_basks (m : Mach) : anyBasks (domainsOn m) = anyBasks m := anyBasks_smap m (duneBack m) (duneBack_basking m)

/-- What a REINIT measures anew. -/
def bootMeasured (m : Mach) : Mach :=
  measureRunning (measureOthers (measureRunning (extendMeas m 0 Config.bootRomDigest) 1 0 [0])) 3 1 [4]

theorem bootMeasured_onlyMeasured (m : Mach) : OnlyMeasured m (bootMeasured m) :=
  ((extendMeas_onlyMeasured ..).trans (measureRunning_onlyMeasured ..)).trans
    ((measureOthers_onlyMeasured _).trans (measureRunning_onlyMeasured ..))

/-- The domains on again, and StopCause 0. -/
def reinitBegun (m : Mach) : Mach := odSet (domainsOn m) 0x4200 5 0

theorem reinitRun_eq (m : Mach) (v : Via) :
    reinitRun m v none = answer (setState (bootMeasured (reinitBegun m)) .powering) v none 0 := rfl

theorem reinitBegun_frame (m : Mach) : reinitBegun m =
    { m with dunes := (reinitBegun m).dunes, power := { m.power with dunesUp := true }, od := (reinitBegun m).od } := rfl

/-- The machine of which REINIT goes over into POWERING. -/
structure ReinitReady (a n : Mach) : Prop where
  frame : n = { a with dunes := n.dunes, power := { a.power with dunesUp := true }, od := n.od,
                       sec := { a.sec with meas := n.sec.meas } }
  basking : anyBasks n = anyBasks a
  stopCause : odGet n 0x4200 5 = 0

theorem reinitReady (m : Mach) : ReinitReady m (bootMeasured (reinitBegun m)) := by
  have hbasks : anyBasks (reinitBegun m) = anyBasks m := domainsOn_basks m
  have hframe := reinitBegun_frame m
  have hzero : odGet (reinitBegun m) 0x4200 5 = 0 := odGet_odSet_same ..
  generalize reinitBegun m = w at hbasks hframe hzero ⊢
  have hmeasured := bootMeasured_onlyMeasured w
  generalize bootMeasured w = n at hmeasured ⊢
  refine ⟨?_, ?_, ?_⟩
  · rw [hmeasured.frame, hframe]
  · rw [← hbasks, hmeasured.frame]
    rfl
  · rw [← hzero, hmeasured.frame]
    rfl

theorem reinit_yields {s : State} {v : Via} {data : List Byte} (hcheck : reinitCheck s.m v data = none) :
    Yields s (.reinit v data) fun n => n.mode = .powering ∧ n.power.dunesUp = true ∧ odGet n 0x4200 5 = 0 ∧
      .odResult v 0 0 [] ∈ n.out ∧ EngineKept (leaveBask s.m) n := by
  have hexec : exec (.reinit v data) s = .next { s with m := reinitRun s.m v none } := by
    simp only [exec, execReinit, nextM, commandRow, hcheck]
  have hmode := reinitOk_mode (reinitOk_of_check hcheck)
  rw [reinitRun_eq] at hexec
  refine ⟨_, hexec, ?_⟩
  have hready := reinitReady s.m
  generalize bootMeasured (reinitBegun s.m) = w at hready ⊢
  have hentered : StateEntered .powering w (setState w .powering) := setState_entered (by rwa [hready.frame])
  generalize setState w .powering = x at hentered ⊢
  have hkept : EngineKept s.m w := by constructor <;> rw [hready.frame]
  refine ⟨hentered.mode, ?_, ?_, odResult_mem_answer x v,
    ((leaveBask_engineKept_of_any hready.basking hkept).trans hentered.engine).trans (commandAnswered_engineKept x v 0)⟩
  · show x.power.dunesUp = true
    rw [hentered.frame, hready.frame]
  · exact (hentered.odGet_eq (by decide)).trans hready.stopCause

end Sys2Proof.Machine

/-! SUPPORT. Contact sheets completed and provocations armed and performed (R485–R490, R493, R494). -/

namespace Sys2Proof.Machine

/-! ## Provocations (R493, R494) -/

/-- The field of a written value that names the action survives in the 256 bits that are kept. -/
theorem armedBits_action (x k : Nat) : armedBits ⟨BitVec.ofNat 256 x, k⟩ 79 72 = natBits x 79 72 := by
  simp only [armedBits, natBits, BitVec.toNat_ofNat]
  omega

/-- The machine with a provocation armed. -/
def provocationKept (m : Mach) (data : List Byte) : Mach :=
  { m with provocations := m.provocations ++ [⟨BitVec.ofNat 256 (leNat data), 1⟩], sec := { m.sec with injectSeen := true } }

/-- A provocation of an action that no instant performs is armed and answered. -/
theorem execFaultProvoke_armed {s : State} {v : Via} {data : List Byte} (hcheck : provokeCheck s.m v data = none)
    (haction : natBits (leNat data) 79 72 ≤ 4) :
    exec (.faultProvoke v data) s = .next { s with m := emit (provocationKept s.m data) (.odResult v 0 0 []) } := by
  have huntimed : timedProvocation ⟨BitVec.ofNat 256 (leNat data), 1⟩ = false := by
    have h5 : ¬natBits (leNat data) 79 72 = 5 := by omega
    have h6 : ¬natBits (leNat data) 79 72 = 6 := by omega
    simp [timedProvocation, armedBits_action, h5, h6]
  simp only [exec, execFaultProvoke, nextM, commandRow, hcheck, provokeRun, huntimed, Bool.false_eq_true, false_and, if_false]
  rfl

theorem faultProvoke_yields {s : State} {v : Via} {data : List Byte} (hcheck : provokeCheck s.m v data = none)
    (haction : natBits (leNat data) 79 72 ≤ 4) : Yields s (.faultProvoke v data) fun n =>
      n.provocations = s.m.provocations ++ [⟨BitVec.ofNat 256 (leNat data), 1⟩] ∧ n.sec.injectSeen = true ∧
      n.out = s.m.out ++ [.odResult v 0 0 []] ∧ EngineKept s.m n :=
  ⟨_, execFaultProvoke_armed hcheck haction, rfl, rfl, rfl, ⟨rfl, rfl, rfl, rfl, rfl, rfl, rfl, rfl, rfl, rfl⟩⟩

theorem execProvocationArmed_eq {s : State} {a : Armed} (hpowered : powered s.m = true) (hone : s.m.provocations = [a])
    (haction : armedBits a 79 72 = 5) : exec .provocationArmed s =
      .next { s with m := provokedFault (spendProvocation (advance s.m (tuAt s.m (armedBits a 255 192))) a) a } := by
  have htimed : timedProvocation a = true := by simp [timedProvocation, haction]
  have hfirst : s.m.provocations.filter timedProvocation = [a] := by simp [hone, htimed]
  simp only [exec, execProvocationArmed, nextM, hfirst, List.foldl_cons, List.foldl_nil, hpowered, if_true, perform, haction]

theorem provocationArmed_yields {s : State} {a : Armed} (hpowered : powered s.m = true) (hone : s.m.provocations = [a])
    (haction : armedBits a 79 72 = 5) : Yields s .provocationArmed fun n => n.provocations = [] ∧
      n.now = max s.m.now (tuAt s.m (armedBits a 255 192)) ∧ (∃ x, n.raised.getLast? = some x ∧ x.code = 0x0F01 ∧
        x.severity = faultSeverity (armedBits a 127 112) ∧ x.detail = BitVec.ofNat 64 (armedBits a 127 112)) ∧
      n.hbm = s.m.hbm := by
  refine ⟨_, execProvocationArmed_eq hpowered hone haction, ?_⟩
  have hsupply := (advance_supplyKept s.m (tuAt s.m (armedBits a 255 192))).provocations
  have hnow := advance_now s.m (tuAt s.m (armedBits a 255 192))
  have hhbm := (advance_driversKept s.m (tuAt s.m (armedBits a 255 192))).hbm
  generalize advance s.m (tuAt s.m (armedBits a 255 192)) = w at hsupply hnow hhbm ⊢
  refine ⟨?_, hnow, ⟨_, List.getLast?_concat .., rfl, rfl, rfl⟩, hhbm⟩
  show w.provocations.erase a = []
  rw [hsupply, hone, List.erase_cons_head]

/-! ## Contact sheets (R485–R490) -/

theorem signSheet_frame (m : Mach) (x : Sheet) : (signSheet m x).2 = { m with fresh := (signSheet m x).2.fresh } := by
  unfold signSheet
  split <;> rfl

/-- A complete sheet kept: a thumbnail as such, another one in the contact-sheet area of HBM. -/
def sheetKept (m : Mach) (x : Sheet) (kind : Nat) : Mach :=
  if kind = 3 then odSet { m with thumbnail := some x } 0x6030 6 1
  else serveHbm (clearPatch { m with sheet := some x } sheetBase (sheetLength kind)) sheetBase (sheetLength kind)

/-- ContactSheetState after a sheet that was being written: it is ready. -/
def sheetReady (m : Mach) (before : Nat) : Mach := if before = 1 then odSet m 0x6030 1 2 else m

theorem completeSheet_eq (m : Mach) (kind : Nat) (cut : Bool) : ∃ (x : Sheet) (w : Mach), w = { m with fresh := w.fresh } ∧
    completeSheet m kind cut =
    postEvent (sheetReady (sheetKept { w with sheetWriting := none } x kind) (odGet m 0x6030 1)) 0x800B 0 0xFF kind :=
  ⟨_, _, signSheet_frame .., rfl⟩

/-- From `a` to `n` a full sheet has been kept in its area of HBM. -/
structure FullSheetKept (x : Sheet) (a n : Mach) : Prop where
  frame : n = { a with sheet := some x, hbmPatch := n.hbmPatch, hbmServed := n.hbmServed, hbmMoved := n.hbmMoved }

theorem sheetKept_full {m : Mach} {kind : Nat} (x : Sheet) (h : kind ≠ 3) : FullSheetKept x m (sheetKept m x kind) := by
  rw [sheetKept, if_neg h]
  exact ⟨by rw [(serveHbm_onlyServed ..).frame]; rfl⟩

/-- From `a` to `n` a sheet has been kept. -/
structure SheetKept (kind : Nat) (a n : Mach) : Prop where
  mode : n.mode = a.mode
  writing : n.sheetWriting = none
  kept : if kind = 3 then n.thumbnail.isSome = true else n.sheet.isSome = true
  engine : EngineKept a n

theorem sheetKept_spec (m : Mach) (x : Sheet) (kind : Nat) (hwriting : m.sheetWriting = none) :
    SheetKept kind m (sheetKept m x kind) := by
  by_cases h : kind = 3
  · rw [sheetKept, if_pos h]
    exact ⟨rfl, hwriting, by rw [if_pos h]; rfl, ⟨rfl, rfl, rfl, rfl, rfl, rfl, rfl, rfl, rfl, rfl⟩⟩
  · obtain ⟨hframe⟩ := sheetKept_full (m := m) x h
    generalize sheetKept m x kind = w at hframe ⊢
    refine ⟨by rw [hframe], by rw [hframe]; exact hwriting, ?_, by constructor <;> rw [hframe]⟩
    rw [if_neg h, hframe]
    rfl

theorem sheetReady_spec {kind : Nat} {a m : Mach} (h : SheetKept kind a m) (before : Nat) :
    SheetKept kind a (sheetReady m before) ∧ (before = 1 → odGet (sheetReady m before) 0x6030 1 = 2) := by
  by_cases hbefore : before = 1
  · rw [sheetReady, if_pos hbefore]
    exact ⟨⟨h.mode, h.writing, h.kept, h.engine.trans (odSet_engineKept ..)⟩, fun _ => odGet_odSet_same ..⟩
  · rw [sheetReady, if_neg hbefore]
    exact ⟨h, fun hone => absurd hone hbefore⟩

theorem completeSheet_spec (m : Mach) (kind : Nat) (cut : Bool) : SheetKept kind m (completeSheet m kind cut) ∧
    (odGet m 0x6030 1 = 1 → odGet (completeSheet m kind cut) 0x6030 1 = 2) ∧
    ∃ e, (completeSheet m kind cut).events.getLast? = some e ∧ e.code = 0x800B := by
  obtain ⟨x, w, hdrawn, heq⟩ := completeSheet_eq m kind cut
  rw [heq]
  have hbare : EngineKept m { w with sheetWriting := none } := by constructor <;> rw [hdrawn]
  have hmode : w.mode = m.mode := by rw [hdrawn]
  have hkept := sheetKept_spec { w with sheetWriting := none } x kind rfl
  generalize sheetKept { w with sheetWriting := none } x kind = k at hkept ⊢
  obtain ⟨hready, hstate⟩ := sheetReady_spec hkept (odGet m 0x6030 1)
  generalize sheetReady k (odGet m 0x6030 1) = r at hready hstate ⊢
  have hposted : OnlyHostSide r (postEvent r 0x800B 0 0xFF kind) := postEvent_onlyHostSide ..
  have hsaid : odGet (postEvent r 0x800B 0 0xFF kind) 0x6030 1 = odGet r 0x6030 1 := odGet_postEvent_ne r (by decide) ..
  have hevent := postEvent_events r 0x800B 0 0xFF kind
  generalize postEvent r 0x800B 0 0xFF kind = n at hposted hsaid hevent ⊢
  refine ⟨⟨?_, ?_, ?_, (hbare.trans hready.engine).trans hposted.engineKept⟩, fun hone => hsaid.trans (hstate hone), hevent⟩
  · rw [hposted.frame]
    exact hready.mode.trans hmode
  · rw [hposted.frame]
    exact hready.writing
  · rw [hposted.frame]
    exact hready.kept

theorem afterSheet_none {m : Mach} (hdump : m.mode ≠ .dumping) (hhalt : m.mode ≠ .thermalHalt) : afterSheet m = m := by
  rw [afterSheet, if_neg hdump, if_neg hhalt]

/-- The sheet being written is complete, and no longer marked as cut. -/
def sheetClosed (m : Mach) (kind : Nat) : Mach := { completeSheet m kind m.sheetCut with sheetCut := false }

theorem contactSheetComplete_yields {s : State} {k : Nat} (hpowered : powered s.m = true) (hwriting : s.m.sheetWriting = some k)
    (hdump : s.m.mode ≠ .dumping) (hhalt : s.m.mode ≠ .thermalHalt) : Yields s (.contactSheetComplete false) fun n =>
      n.sheetWriting = none ∧ (if k = 3 then n.thumbnail.isSome = true else n.sheet.isSome = true) ∧
      (odGet s.m 0x6030 1 = 1 → k ≠ 3 → odGet n 0x6030 1 = 2) ∧ (∃ e, n.events.getLast? = some e ∧ e.code = 0x800B) ∧
      EngineKept s.m n := by
  have hexec : exec (.contactSheetComplete false) s = .next { s with m := afterSheet (sheetClosed s.m k) } := by
    simp only [exec, execContactSheetComplete, nextM, hwriting, hpowered, Bool.not_true, Bool.false_eq_true, Bool.not_false, if_true,
      if_false, sheetClosed]
  obtain ⟨hkept, hready, hevent⟩ := completeSheet_spec s.m k s.m.sheetCut
  have hmode : (sheetClosed s.m k).mode = s.m.mode := hkept.mode
  rw [afterSheet_none (by rwa [hmode]) (by rwa [hmode]), sheetClosed] at hexec
  refine ⟨_, hexec, ?_⟩
  generalize completeSheet s.m k s.m.sheetCut = w at hkept hready hevent ⊢
  obtain ⟨hsram, hhbm, hthreads, hrows, histore, hqueues, hpackets, hlandings, hloads, hnow⟩ := hkept.engine
  exact ⟨hkept.writing, hkept.kept, fun hone _ => hready hone, hevent,
    ⟨hsram, hhbm, hthreads, hrows, histore, hqueues, hpackets, hlandings, hloads, hnow⟩⟩

/-- A sheet whose writing failed, marked incomplete, with a thumbnail begun in its place. -/
def sheetFailed (m : Mach) (kind : Nat) : Mach := odSet (beginSheet (incompleteSheet { m with sheetCut := false } kind) 3) 0x6030 1 3

theorem contactSheetFailed_yields {s : State} {k : Nat} (hpowered : powered s.m = true) (hwriting : s.m.sheetWriting = some k)
    (hfull : k ≠ 3) : Yields s (.contactSheetComplete true) fun n => n.sheetWriting = some 3 ∧ n.sheet.isSome = true ∧
      odGet n 0x6030 1 = 3 ∧ EngineKept s.m n := by
  have hexec : exec (.contactSheetComplete true) s = .next { s with m := sheetFailed s.m k } := by
    simp only [exec, execContactSheetComplete, nextM, hwriting, hpowered, Bool.not_true, Bool.false_eq_true, if_false, hfull, sheetFailed]
  have hgiven : EngineKept s.m (incompleteSheet { s.m with sheetCut := false } k) := ⟨rfl, rfl, rfl, rfl, rfl, rfl, rfl, rfl, rfl, rfl⟩
  have hsheet : (incompleteSheet { s.m with sheetCut := false } k).sheet.isSome = true := rfl
  rw [sheetFailed] at hexec
  refine ⟨_, hexec, ?_⟩
  generalize incompleteSheet { s.m with sheetCut := false } k = w at hgiven hsheet ⊢
  have hbegun := beginSheet_frame w 3
  have hkept : EngineKept w (beginSheet w 3) := by constructor <;> rw [hbegun]
  have hwrites : (beginSheet w 3).sheetWriting = some 3 := by rw [hbegun]
  have hstands : (beginSheet w 3).sheet.isSome = true := by rw [hbegun]; exact hsheet
  generalize beginSheet w 3 = n at hkept hwrites hstands ⊢
  exact ⟨hwrites, hstands, odGet_odSet_same .., (hgiven.trans hkept).trans (odSet_engineKept ..)⟩

end Sys2Proof.Machine

/-! SUPPORT. Time that passes (R4, R131, R149, R168, R195–R208) leaves the level of λ that is wanted (R454), and a drain or an unload that
is still to come (R529, R530), as they are. -/

namespace Sys2Proof.Machine

/-- The ends of a job that are still to come. -/
def pendingEnds (m : Mach) : Bool × Bool := (m.draining, m.unloading)

/-- From `a` to `n` neither the level of λ that is wanted nor a pending end of the job has changed. -/
structure LevelKept (a n : Mach) : Prop where
  level : odGet n 0x4100 2 = odGet a 0x4100 2
  pending : pendingEnds n = pendingEnds a

namespace LevelKept

variable {a m n : Mach}

theorem of_eq (hod : n.od = a.od) (hpending : pendingEnds n = pendingEnds a) : LevelKept a n where
  level := by
    have hdefault : objDefault n (objKey 0x4100 2) = objDefault a (objKey 0x4100 2) := rfl
    rw [odGet, hod, hdefault, odGet]
  pending := hpending

theorem refl (a : Mach) : LevelKept a a := ⟨rfl, rfl⟩

theorem trans (h : LevelKept a m) (h' : LevelKept m n) : LevelKept a n :=
  ⟨h'.level.trans h.level, h'.pending.trans h.pending⟩

/-- `trans` with the later step first, so that its statement says which machine stands between. -/
theorem after (h' : LevelKept m n) (h : LevelKept a m) : LevelKept a n := h.trans h'

theorem ite {p : Prop} [Decidable p] (h : LevelKept a m) (h' : LevelKept a n) : LevelKept a (if p then m else n) := by
  split
  · exact h
  · exact h'

theorem foldl {α : Type} {g : Mach → α → Mach} (hg : ∀ m x, LevelKept m (g m x)) (l : List α) (a : Mach) :
    LevelKept a (l.foldl g a) :=
  List.foldlRecOn l g (.refl a) fun m hm x _ => hm.trans (hg m x)

theorem draining (h : LevelKept a n) : n.draining = a.draining := congrArg (·.1) h.pending
theorem unloading (h : LevelKept a n) : n.unloading = a.unloading := congrArg (·.2) h.pending

end LevelKept

theorem odSet_levelKept (m : Mach) {idx sub : Nat} (h : objKey 0x4100 2 ≠ objKey idx sub) (v : Nat) : LevelKept m (odSet m idx sub v) :=
  ⟨odGet_odSet_ne m h v, rfl⟩

theorem count_levelKept (m : Mach) {idx sub : Nat} (h : objKey 0x4100 2 ≠ objKey idx sub) (n : Nat) : LevelKept m (count m idx sub n) :=
  odSet_levelKept m h _

theorem countDune_levelKept (m : Mach) {idx sub : Nat} (h : objKey 0x4100 2 ≠ objKey idx sub) (erg num n : Nat) :
    LevelKept m (countDune m erg num idx sub n) := by
  refine ⟨odGet_countDune_ne m h (by decide) .., ?_⟩
  rw [pendingEnds, (countDune_onlyHostSide m erg num idx sub n).frame, pendingEnds]

theorem setCauses_levelKept (m : Mach) (bits : Nat) : LevelKept m (setCauses m bits) := by
  refine .of_eq (setCauses_od ..) ?_
  rw [pendingEnds, (setCauses_onlyHostSide m bits).frame, pendingEnds]

theorem events_levelKept (m : Mach) (es : List Event) : LevelKept m { m with events := es } := .of_eq rfl rfl

theorem postEventAt_levelKept (m : Mach) (code erg dune beat value : Nat) : LevelKept m (postEventAt m code erg dune beat value) := by
  unfold postEventAt
  extract_lets e log
  exact ((events_levelKept m _).trans (count_levelKept _ (by decide) _)).trans (setCauses_levelKept ..)

theorem OnlyAnnounced.levelKept {a n : Mach} (h : OnlyAnnounced a n) : LevelKept a n := by
  have hod : n.od = a.od := by rw [h.frame]
  have hpending : pendingEnds n = pendingEnds a := by rw [pendingEnds, h.frame, pendingEnds]
  exact .of_eq hod hpending

/-! ## Faults (R477) -/

theorem openFault_levelKept (m : Mach) : LevelKept m (openFault m) := by
  rw [openFault_eq]
  exact .of_eq rfl rfl

theorem keepDetail_levelKept (m : Mach) (erg dune detail : Nat) : LevelKept m (keepDetail m erg dune detail) :=
  .ite (.of_eq rfl rfl) (.refl m)

theorem raiseFault_levelKept (m : Mach) (code erg dune row thread beat detail : Nat) :
    LevelKept m (raiseFault m code erg dune row thread beat detail) := by
  unfold raiseFault
  extract_lets sev rec_ src m1 m2 m3
  have h0 : LevelKept m { m with raised := m.raised ++ [rec_] } := .of_eq rfl rfl
  have h1 : LevelKept m m1 := (h0.trans (openFault_levelKept _)).trans (keepDetail_levelKept ..)
  have h2 : LevelKept m m2 := .ite (h1.trans (countDune_levelKept _ (by decide) ..)) h1
  have h3 : LevelKept m m3 :=
    .ite (h2.trans (count_levelKept _ (by decide) _)) (.ite (h2.trans (count_levelKept _ (by decide) _)) h2)
  exact h3.trans (.of_eq rfl rfl)

theorem stopRow_levelKept (m : Mach) (r : RowId) : LevelKept m (stopRow m r) := .of_eq rfl rfl

theorem rowFault_levelKept (m : Mach) (r : RowId) (code thread detail : Nat) :
    LevelKept m (rowFault m r code thread detail) :=
  .after (raiseFault_levelKept ..) (.of_eq rfl rfl)

theorem duneFault_levelKept (m : Mach) (d : DuneId) (code row detail : Nat) :
    LevelKept m (duneFault m d code row detail) :=
  .after (raiseFault_levelKept ..) (.foldl (fun m k => stopRow_levelKept m ⟨d, Fin.ofNat 96 k⟩) _ m)

/-! ## What lands, and loads (R131, R168) -/

theorem landOne_levelKept (m : Mach) (l : Landing) : LevelKept m (landOne m l) := by
  have honly := landOne_onlyCopied m l
  generalize landOne m l = n at honly
  have hod : n.od = m.od := by rw [honly.frame]
  have hpending : pendingEnds n = pendingEnds m := by rw [pendingEnds, honly.frame, pendingEnds]
  exact .of_eq hod hpending

theorem landUpTo_levelKept (m : Mach) (t : Nat) : LevelKept m (landUpTo m t) :=
  .after (.foldl landOne_levelKept _ _) (.of_eq rfl rfl)

theorem readSram_levelKept (m : Mach) (addr n : Nat) : LevelKept m (readSram m addr n).2 :=
  List.foldlRecOn (motive := fun (x : List Byte × Mach) => LevelKept m x.2) _ _ (.refl m)
    fun _ hx _ _ => hx.trans (.of_eq rfl rfl)

theorem serveLoad_levelKept (m : Mach) (l : LoadReq) : LevelKept m (serveLoad m l) := by
  unfold serveLoad
  extract_lets m1 x m2 m3 k m4
  have h2 : LevelKept m m2 := (landUpTo_levelKept m l.service).trans (readSram_levelKept ..)
  have h4 : LevelKept m m4 := .after (countDune_levelKept _ (by decide) ..) (h2.trans (.of_eq rfl rfl))
  split
  · exact h4
  · exact h4.trans (.of_eq rfl rfl)

theorem settle_levelKept (m : Mach) (t : Nat) : LevelKept m (settle m t) :=
  .after (landUpTo_levelKept ..) (.after (.foldl serveLoad_levelKept _ _) (.of_eq rfl rfl))

/-! ## The fabric, cycle by cycle (R149, R195–R208) -/

theorem linksRun_levelKept (since t : Nat) (m : Mach) : LevelKept m (linksRun since t m) :=
  .foldl (fun m b => (bundleRun_onlyAnnounced since t m b).levelKept) _ m

theorem slotOut_levelKept (m : Mach) (t k i : Nat) (bytes : List Byte) : LevelKept m (slotOut m t k i bytes) := by
  unfold slotOut
  split
  · exact .refl m
  next e _ =>
    extract_lets last b m1
    have hsent : LevelKept m m1 := (sendClass_onlyAnnounced ..).levelKept
    exact .ite (hsent.trans (count_levelKept _ (by decide) _)) hsent

theorem discardAt_levelKept (m : Mach) (router id : Nat) : LevelKept m (discardAt m router id) :=
  .after (countDune_levelKept _ (by decide) ..) (.of_eq rfl rfl)

theorem steerPacket_levelKept (m : Mach) (f : Flit) : LevelKept m (steerPacket m f) := by
  unfold steerPacket
  split
  · exact .refl m
  next p _ =>
    extract_lets here target held
    split
    · exact .refl m
    · extract_lets d way
      refine .ite (.refl m) (.ite (.ite (discardAt_levelKept ..) (.refl m)) ?_)
      clear_value way
      cases way with
      | some l => exact .of_eq rfl rfl
      | none => exact .ite (.of_eq rfl rfl) (discardAt_levelKept ..)

theorem judgePacket_levelKept (m : Mach) (p : Packet) : LevelKept m (judgePacket m p) := by
  unfold judgePacket
  split
  · exact .refl m
  · exact .ite (.of_eq rfl rfl) (.after (rowFault_levelKept ..) (.of_eq rfl rfl))

theorem reachPort_levelKept (m : Mach) (u : PortUnit) : LevelKept m (reachPort m u) := by
  unfold reachPort
  split
  · exact .refl m
  next p _ =>
    have hcounter : objKey 0x4100 2 ≠ objKey 0x5101 (p.cls + 1) := by
      simp only [objKey]
      omega
    exact .ite ((countDune_levelKept m hcounter ..).trans (judgePacket_levelKept ..)) (countDune_levelKept m hcounter ..)

theorem scratchArrives_levelKept (m : Mach) (c : Cargo) : LevelKept m (scratchArrives m c) := by
  unfold scratchArrives
  split
  · exact .ite (.of_eq rfl rfl) (.refl m)
  · exact .of_eq rfl rfl
  · exact .refl m

theorem answerSlot_levelKept (m : Mach) (t : Nat) (p : Packet) (k : Nat) : LevelKept m (answerSlot m t p k) := by
  unfold answerSlot
  split
  · extract_lets bytes
    refine .foldl (fun m i => ?_) _ m
    exact .of_eq rfl rfl
  · exact .refl m

theorem slotWritten_levelKept (m : Mach) (k n t : Nat) : LevelKept m (slotWritten m k n t) := by
  unfold slotWritten
  split
  · exact .refl m
  · split
    · exact .refl m
    · extract_lets x m1 beat late m2
      have h1 : LevelKept m m1 := .of_eq rfl rfl
      have h2 : LevelKept m m2 := h1.trans (count_levelKept _ (by decide) _)
      exact .ite h1 (.ite (h2.trans (count_levelKept _ (by decide) _)) h2)

theorem writeUnit_levelKept (m : Mach) (T : Nat) (u : PortUnit) : LevelKept m (writeUnit m T u) := by
  unfold writeUnit
  split
  · exact .refl m
  next p _ =>
    extract_lets done written m1 m2
    have h1 : LevelKept m m1 := .ite (.of_eq rfl rfl) (.refl m)
    have h2 : LevelKept m m2 := .after (scratchArrives_levelKept ..) (h1.trans (.of_eq rfl rfl))
    refine .ite h1 ?_
    split
    · exact h2.trans (answerSlot_levelKept ..)
    · exact .ite (h2.trans (slotWritten_levelKept ..)) h2
    · exact h2

theorem portCycle_levelKept (T : Nat) (m : Mach) (row : Nat) : LevelKept m (portCycle T m row) := by
  unfold portCycle
  extract_lets m1
  have h1 : LevelKept m m1 := .foldl reachPort_levelKept _ m
  split
  · exact h1
  · exact .ite (.after (writeUnit_levelKept ..) (h1.trans (.of_eq rfl rfl))) h1

theorem leavePacket_levelKept (m : Mach) (t : Nat) (p : Packet) : LevelKept m (leavePacket m t p) := by
  have hgone : LevelKept m (removePacket m p.id) := .of_eq rfl rfl
  unfold leavePacket
  split
  · exact hgone.trans (slotOut_levelKept ..)
  · exact hgone.trans (postEventAt_levelKept ..)
  · exact hgone

theorem pushFlit_levelKept (m : Mach) (w : Want) (T cycles : Nat) : LevelKept m (pushFlit m w T cycles) := by
  unfold pushFlit
  split
  · exact .refl m
  · exact .of_eq rfl rfl

theorem spendInjection_levelKept (m : Mach) (a : Armed) (n : Nat) : LevelKept m (spendInjection m a n) := by
  have hcounted : LevelKept m (if a.left == armedBits a 191 160 then count m 0x61A0 6 1 else m) :=
    .ite (count_levelKept m (by decide) 1) (.refl m)
  exact hcounted.trans (.of_eq rfl rfl)

theorem crossBridge_levelKept (m : Mach) (erg e b cls flits target beat : Nat) :
    LevelKept m (crossBridge m erg e b cls flits target beat).1 := by
  unfold crossBridge
  split
  · exact .refl m
  · split
    · exact (spendInjection_levelKept ..).trans (raiseFault_levelKept ..)
    · extract_lets n m1
      have h1 : LevelKept m m1 := spendInjection_levelKept ..
      split
      · exact h1.trans (count_levelKept _ (by decide) _)
      · exact h1.trans (raiseFault_levelKept ..)

theorem sendFlit_levelKept (m : Mach) (T : Nat) (w : Want) : LevelKept m (sendFlit m T w) := by
  unfold sendFlit
  extract_lets +onlyGivenNames m1 vc m2
  have h1 : LevelKept m m1 := .ite (countDune_levelKept _ (by decide) ..) (.refl m)
  have h2 : LevelKept m m2 := h1.trans (.of_eq rfl rfl)
  clear_value m2
  split
  case h_1 => exact h2.trans (pushFlit_levelKept ..)
  case h_2 => exact .after (pushFlit_levelKept ..) (h2.trans (.of_eq rfl rfl))
  case h_3 e b _ =>
    extract_lets router erg d m3 x
    have h3 : LevelKept m m3 := .after (countDune_levelKept _ (by decide) ..) (h2.trans (.of_eq rfl rfl))
    have hx : LevelKept m x.1 := by
      unfold x
      split
      · exact h3.trans (crossBridge_levelKept ..)
      · exact h3
    exact .ite (hx.trans (pushFlit_levelKept ..)) (hx.trans (.of_eq rfl rfl))
  case h_4 => exact .ite (.ite h2 (h2.trans (leavePacket_levelKept ..))) (h2.trans (.of_eq rfl rfl))

theorem collide_levelKept (T link : Nat) (sent : List Nat) (m : Mach) : LevelKept m (collide T link sent m) := by
  unfold collide
  extract_lets holder waits
  clear_value waits
  cases waits with
  | none => exact .refl m
  | some w => exact .after (duneFault_levelKept ..) (.after (countDune_levelKept _ (by decide) ..) (.of_eq rfl rfl))

theorem sendOn_levelKept (T link n : Nat) (x : Mach × List Nat) : LevelKept x.1 (sendOn T link n x).1 := by
  induction n generalizing x with
  | zero => exact .refl _
  | succ n ih =>
    unfold sendOn
    split
    · exact .refl _
    · exact .after (ih _) (sendFlit_levelKept ..)

theorem portSends_levelKept (T : Nat) (m : Mach) (link : Nat) : LevelKept m (portSends T m link) :=
  (sendOn_levelKept T link _ (m, [])).trans (collide_levelKept ..)

theorem fabricCycle_levelKept (m : Mach) : LevelKept m (fabricCycle m) := by
  unfold fabricCycle
  extract_lets T m1 m2 m3
  have h1 : LevelKept m m1 := .after (.foldl (portCycle_levelKept T) _ _) (.of_eq rfl rfl)
  have h2 : LevelKept m m2 := h1.trans (.foldl (fun m (e : Nat × Flit) => steerPacket_levelKept m e.2) _ _)
  have h3 : LevelKept m m3 := h2.trans (.foldl (portSends_levelKept T) _ _)
  exact h3.trans (linksRun_levelKept ..)

theorem fabricRun_levelKept (fuel : Nat) (m : Mach) (t : Nat) : LevelKept m (fabricRun fuel m t) := by
  induction fuel generalizing m with
  | zero => exact .refl m
  | succ fuel ih =>
    unfold fabricRun
    exact .ite (.refl m) (((settle_levelKept ..).trans (fabricCycle_levelKept _)).trans (ih _))

/-- Time that passes leaves the level that is wanted, and what is still to end, as they are. -/
theorem advance_levelKept (m : Mach) (t : Nat) : LevelKept m (advance m t) := by
  unfold advance
  extract_lets since m1
  have h1 : LevelKept m m1 := .ite (fabricRun_levelKept ..) (.refl m)
  have hlinks : LevelKept m (if since < t then linksRun since t m1 else m1) := .ite (h1.trans (linksRun_levelKept ..)) h1
  exact hlinks.trans (settle_levelKept ..)

end Sys2Proof.Machine

/-! SUPPORT. Beats that close and requests that end while a restart begins (R245, R304, R315–R323, R346, R481) leave LastFault and the
restart as they are. -/

namespace Sys2Proof.Machine

/-- The module's state and its restarts. -/
def restartView (m : Mach) : ModState × Option Restart × List Nat := (m.mode, m.restart, m.restartTimes)

/-- From `a` to `n` neither the state, the restarts nor LastFault have changed. -/
structure RestartKept (a n : Mach) : Prop where
  lastFault : odGet n 0x6010 1 = odGet a 0x6010 1
  view : restartView n = restartView a

namespace RestartKept

variable {a m n : Mach}

theorem of_eq (hod : n.od = a.od) (hview : restartView n = restartView a) : RestartKept a n where
  lastFault := by
    have hdefault : objDefault n (objKey 0x6010 1) = objDefault a (objKey 0x6010 1) := rfl
    rw [odGet, hod, hdefault, odGet]
  view := hview

theorem refl (a : Mach) : RestartKept a a := ⟨rfl, rfl⟩

theorem trans (h : RestartKept a m) (h' : RestartKept m n) : RestartKept a n :=
  ⟨h'.lastFault.trans h.lastFault, h'.view.trans h.view⟩

/-- `trans` with the later step first, so that its statement says which machine stands between. -/
theorem after (h' : RestartKept m n) (h : RestartKept a m) : RestartKept a n := h.trans h'

theorem ite {p : Prop} [Decidable p] (h : RestartKept a m) (h' : RestartKept a n) : RestartKept a (if p then m else n) := by
  split
  · exact h
  · exact h'

theorem foldl {α : Type} {g : Mach → α → Mach} (hg : ∀ m x, RestartKept m (g m x)) (l : List α) (a : Mach) :
    RestartKept a (l.foldl g a) :=
  List.foldlRecOn l g (.refl a) fun m hm x _ => hm.trans (hg m x)

theorem mode (h : RestartKept a n) : n.mode = a.mode := congrArg (·.1) h.view
theorem restart (h : RestartKept a n) : n.restart = a.restart := congrArg (·.2.1) h.view
theorem restartTimes (h : RestartKept a n) : n.restartTimes = a.restartTimes := congrArg (·.2.2) h.view

end RestartKept

theorem odSet_restartKept (m : Mach) {idx sub : Nat} (h : objKey 0x6010 1 ≠ objKey idx sub) (v : Nat) :
    RestartKept m (odSet m idx sub v) :=
  ⟨odGet_odSet_ne m h v, rfl⟩

theorem count_restartKept (m : Mach) {idx sub : Nat} (h : objKey 0x6010 1 ≠ objKey idx sub) (n : Nat) :
    RestartKept m (count m idx sub n) :=
  odSet_restartKept m h _

theorem OnlyAnswered.restartKept {a n : Mach} (h : OnlyAnswered a n) : RestartKept a n := by
  refine ⟨h.odGet_eq .., ?_⟩
  rw [restartView, h.frame, restartView]

theorem OnlyAnnounced.restartKept {a n : Mach} (h : OnlyAnnounced a n) : RestartKept a n := by
  have hod : n.od = a.od := by rw [h.frame]
  have hview : restartView n = restartView a := by rw [restartView, h.frame, restartView]
  exact .of_eq hod hview

/-- What changes the host's side without an object. -/
theorem OnlyHostSide.restartKept {a n : Mach} (h : OnlyHostSide a n) (hod : n.od = a.od) : RestartKept a n := by
  refine .of_eq hod ?_
  rw [restartView, h.frame, restartView]

theorem postEvent_restartKept (m : Mach) (code erg dune value : Nat) : RestartKept m (postEvent m code erg dune value) := by
  refine ⟨odGet_postEvent_ne m (by decide) .., ?_⟩
  rw [restartView, (postEvent_onlyHostSide m code erg dune value).frame, restartView]

theorem setCtx_restartKept (m : Mach) (c : Nat) (v : Context) : RestartKept m (setCtx m c v) := .of_eq rfl rfl

theorem setFn_restartKept (m : Mach) (f : Nat) (v : Fn) : RestartKept m (setFn m f v) := .of_eq rfl rfl

theorem serves_restartKept (m : Mach) (sub : Nat) (h : objKey 0x6010 1 ≠ objKey 0x6180 sub) : RestartKept m (serves m sub) :=
  count_restartKept m h 1

/-! ## Records on their way out (R315–R318, R401, R554) -/

theorem emit_restartKept (m : Mach) (o : Output) : RestartKept m (emit m o) := .of_eq rfl rfl

theorem hostWrite_restartKept (m : Mach) (fn addr : Nat) (bytes : List Byte) : RestartKept m (hostWrite m fn addr bytes) := by
  unfold hostWrite
  exact .ite (.refl m) (.foldl (fun m _ => emit_restartKept m _) _ m)

theorem hostRead_restartKept (m : Mach) (fn addr n : Nat) : RestartKept m (hostRead m fn addr n) :=
  .foldl (fun m _ => emit_restartKept m _) _ m

theorem msixHeld_restartKept (m : Mach) (f v : Nat) : RestartKept m (msixHeld m f v) := by
  refine (msixHeld_onlyHostSide m f v).restartKept ?_
  unfold msixHeld
  extract_lets fn last
  split
  · rfl
  · exact msixGenerate_od ..

theorem flushOne_restartKept {m n : Mach} {c : Nat} (h : flushOne m c = some n) : RestartKept m n := by
  unfold flushOne at h
  extract_lets x at h
  split at h
  next d b r rest _ _ =>
    split at h
    · cases h
    · split at h
      · split at h
        · cases h
        · cases h
          exact (setFn_restartKept ..).trans (setCtx_restartKept ..)
      · split at h
        · cases h
          exact ((hostWrite_restartKept ..).trans (count_restartKept _ (by decide) _)).trans (setCtx_restartKept ..)
        · cases h
  next => cases h

theorem flushLoop_restartKept (fuel : Nat) (m : Mach) (c : Nat) : RestartKept m (flushLoop fuel m c) := by
  induction fuel generalizing m with
  | zero => exact .refl m
  | succ fuel ih =>
    unfold flushLoop
    split
    next n hn => exact (flushOne_restartKept hn).trans (ih n)
    next => exact .refl m

theorem pollTail_restartKept (m : Mach) (c : Nat) : RestartKept m (pollTail m c) := by
  unfold pollTail
  extract_lets x
  split
  · exact .refl m
  · exact .ite (.refl m) (.after (hostRead_restartKept ..) (setCtx_restartKept ..))

theorem flushCtx_restartKept (m : Mach) (c : Nat) : RestartKept m (flushCtx m c) :=
  (flushLoop_restartKept ..).trans (pollTail_restartKept ..)

theorem writeBlock_restartKept {m n : Mach} {f : Nat} (h : writeBlock m f = some n) : RestartKept m n := by
  unfold writeBlock at h
  extract_lets fn size at h
  split at h
  · cases h
  next b _ r0 _ _ =>
    split at h
    extract_lets at h
    split at h
    · cases h
    · cases h
      exact .after (setFn_restartKept ..) (.after (count_restartKept _ (by decide) _)
        (.after (.foldl (fun m e => hostWrite_restartKept ..) _ _) (hostWrite_restartKept ..)))

theorem blockLoop_restartKept (fuel : Nat) (m : Mach) (f : Nat) : RestartKept m (blockLoop fuel m f) := by
  induction fuel generalizing m with
  | zero => exact .refl m
  | succ fuel ih =>
    unfold blockLoop
    split
    next n hn => exact (writeBlock_restartKept hn).trans (ih n)
    next => exact .refl m

theorem pollStep_restartKept (m : Mach) (f : Nat) : RestartKept m (pollStep m f) := by
  unfold pollStep
  exact .ite (.refl m) (.after (hostRead_restartKept ..) (setFn_restartKept ..))

theorem flushFn_restartKept (m : Mach) (f : Nat) : RestartKept m (flushFn m f) := by
  unfold flushFn
  extract_lets before m1 m2
  have h1 : RestartKept m m1 := .foldl flushCtx_restartKept _ m
  have h2 : RestartKept m m2 := (h1.trans (blockLoop_restartKept ..)).trans (pollStep_restartKept ..)
  exact .ite (h2.trans (msixHeld_restartKept ..)) h2

theorem flushAll_restartKept (m : Mach) : RestartKept m (flushAll m) := .foldl flushFn_restartKept _ m

/-! ## Ends of requests (R320–R323) -/

theorem endChain_restartKept (m : Mach) (c : Nat) : RestartKept m (endChain m c) := by
  rw [endChain_eq]
  exact .of_eq rfl rfl

theorem toEnding_restartKept (m : Mach) (c : Nat) : RestartKept m (toEnding m c) :=
  (endChain_restartKept m c).trans (setCtx_restartKept ..)

theorem lastRefusal_restartKept (m : Mach) (f tag code position : Nat) : RestartKept m (lastRefusal m f tag code position) := by
  have hobject : objKey 0x6010 1 ≠ objKey (0x3110 + f) 7 := by
    simp only [objKey]
    omega
  exact (serves_restartKept m 13 (by decide)).trans (odSet_restartKept _ hobject _)

theorem endStatus_restartKept (m : Mach) (c code flags : Nat) (toStep : Bool) :
    RestartKept m (endStatus m c code flags toStep) := by
  unfold endStatus
  extract_lets m1 x
  have h1 : RestartKept m m1 := toEnding_restartKept m c
  split
  · exact h1
  · exact .ite (h1.trans ((lastRefusal_restartKept ..).trans (setCtx_restartKept ..)))
      (h1.trans ((setCtx_restartKept ..).trans (flushFn_restartKept ..)))

theorem stopRestore_restartKept (m : Mach) (c : Nat) : RestartKept m (stopRestore m c) := by
  unfold stopRestore
  exact .ite ((endChain_restartKept ..).trans (setCtx_restartKept ..)) (.refl m)

/-- A request that the restart ends. -/
theorem endAtRestart_restartKept (m : Mach) (c : Nat) : RestartKept m (serves (endStatus m c 8 fRestart false) 5) :=
  (endStatus_restartKept ..).trans (serves_restartKept _ 5 (by decide))

theorem restartRequests_restartKept (m : Mach) : RestartKept m (restartRequests m) := by
  unfold restartRequests
  extract_lets m1 ends m2 back m3 hit m4
  have h2 : RestartKept m m2 := (flushAll_restartKept m).trans (.foldl endAtRestart_restartKept _ _)
  have h3 : RestartKept m m3 := h2.trans (.foldl stopRestore_restartKept _ _)
  clear_value m3
  have h4 : RestartKept m m4 := h3.trans (.foldl endAtRestart_restartKept _ _)
  clear_value m4
  exact h4.trans (.of_eq rfl rfl)

/-! ## Beats that close (R245, R304–R308) -/

theorem passNoise_restartKept (m : Mach) (j : Job) (x : Context) : RestartKept m (passNoise m j x).2 := by
  unfold passNoise
  split
  · exact .refl m
  · exact .of_eq rfl rfl

theorem adaptDepth_restartKept (m : Mach) (c d k n spec : Nat) : RestartKept m (adaptDepth m c d k n spec) := by
  unfold adaptDepth
  exact .ite ((setCtx_restartKept ..).trans (serves_restartKept _ 10 (by decide)))
    (.ite (setCtx_restartKept ..) (setCtx_restartKept ..))

theorem samplePass_restartKept (m : Mach) (j : Job) (n : Nat) (p : Pass) : RestartKept m (samplePass m j n p) := by
  unfold samplePass
  extract_lets x w m1 text clamped flags
  have h1 : RestartKept m m1 := passNoise_restartKept m j x
  split
  · exact .refl m
  · refine .ite (.refl m) ?_
    extract_lets k ts left posted base rs done m2 m3
    have h2 : RestartKept m m2 := h1.trans (setCtx_restartKept ..)
    have h3 : RestartKept m m3 := h2.trans (count_restartKept _ (by decide) _)
    exact .ite h3 (h3.trans (adaptDepth_restartKept ..))

theorem draftCtx_restartKept (m : Mach) (j : Job) (n c : Nat) : RestartKept m (draftCtx m j n c) := by
  unfold draftCtx
  extract_lets x w
  have hw : RestartKept m w.2 := by
    unfold w
    split
    · exact .refl m
    · exact passNoise_restartKept ..
  split
  · exact .ite (.refl m) (hw.trans (setCtx_restartKept ..))
  · exact .refl m

theorem sampleBeat_restartKept (m : Mach) (j : Job) (n : Nat) : RestartKept m (sampleBeat m j n) :=
  .after (.foldl (fun m c => draftCtx_restartKept m j n c) _ _) (.foldl (fun m p => samplePass_restartKept m j n p) _ m)

theorem sampleUpTo_restartKept (m : Mach) (n : Nat) : RestartKept m (sampleUpTo m n) := by
  unfold sampleUpTo
  split
  · exact .refl m
  next j _ =>
    have hsampled : RestartKept m ((List.range (n - j.sampledTo)).foldl (fun m i => sampleBeat m j (j.sampledTo + i)) m) :=
      .foldl (fun m i => sampleBeat_restartKept m j (j.sampledTo + i)) _ m
    exact hsampled.trans (.of_eq rfl rfl)

theorem closeCtx_restartKept (m : Mach) (n time c : Nat) : RestartKept m (closeCtx m n time c) := by
  unfold closeCtx
  extract_lets x mine held pos m1
  have h1 : RestartKept m m1 := setCtx_restartKept ..
  exact .ite (.refl m) (.ite ((h1.trans (toEnding_restartKept ..)).trans (serves_restartKept _ 3 (by decide))) h1)

theorem retirePasses_restartKept (m : Mach) (stages n : Nat) : RestartKept m (retirePasses m stages n) := by
  unfold retirePasses
  extract_lets done m1
  have h1 : RestartKept m m1 := .of_eq rfl rfl
  exact h1.trans (.foldl (fun m p => .ite (setCtx_restartKept ..) (.refl m)) _ _)

theorem serveClose_restartKept (m : Mach) (n time : Nat) : RestartKept m (serveClose m n time) := by
  unfold serveClose
  extract_lets m1
  have h1 : RestartKept m m1 := sampleUpTo_restartKept ..
  split
  · exact h1
  · exact (h1.trans (.foldl (fun m c => closeCtx_restartKept m n time c) _ _)).trans
      ((retirePasses_restartKept ..).trans (flushAll_restartKept _))

theorem closeBeat_restartKept (m : Mach) (n : Nat) : RestartKept m (closeBeat m n) :=
  .after (serveClose_restartKept ..) (.of_eq rfl rfl)

theorem closeDue_restartKept (fuel : Nat) (m : Mach) (t : Nat) : RestartKept m (closeDue fuel m t) := by
  induction fuel generalizing m with
  | zero => exact .refl m
  | succ fuel ih =>
    unfold closeDue
    split
    · exact .refl m
    · exact .ite (.refl m) ((closeBeat_restartKept ..).trans (ih _))

/-! ## The replacement abandoned, and the sheet begun (R346, R481) -/

theorem endRepl_restartKept (m : Mach) (code : Nat) : RestartKept m (endRepl m code) :=
  .after (count_restartKept _ (by decide) _) (.after (odSet_restartKept _ (by decide) _) (.after (odSet_restartKept _ (by decide) _)
    (.of_eq rfl rfl)))

theorem dropLatent_restartKept (m : Mach) : RestartKept m (dropLatent m) := by
  unfold dropLatent
  split
  · exact .refl m
  · exact .of_eq rfl rfl

theorem abandonRepl_restartKept (m : Mach) : RestartKept m (abandonRepl m) := by
  unfold abandonRepl
  split
  · exact .refl m
  · exact .after (endRepl_restartKept ..) (.ite (dropLatent_restartKept m) (.refl m))

theorem replAtFault_restartKept (m : Mach) : RestartKept m (replAtFault m) := by
  unfold replAtFault
  split
  · exact .refl m
  · exact .ite (.refl m) ((abandonRepl_restartKept m).trans (giveFirst_onlyAnswered ..).restartKept)

theorem beginSheet_restartKept (m : Mach) (k : Nat) : RestartKept m (beginSheet m k) :=
  .after (odSet_restartKept _ (by decide) _) (.after (count_restartKept _ (by decide) _) (.of_eq rfl rfl))

/-- From `a` to `n` the requests of a restart have perhaps ended: the module's state and LastFault are as they were, and a restart differs at
most by that mark. -/
structure StepTwoTaken (a n : Mach) : Prop where
  mode : n.mode = a.mode
  lastFault : odGet n 0x6010 1 = odGet a 0x6010 1
  restartTimes : n.restartTimes = a.restartTimes
  restart : ∀ r, a.restart = some r → ∃ e, n.restart = some { r with ended := e }

theorem RestartKept.stepTwoTaken {a n : Mach} (h : RestartKept a n) : StepTwoTaken a n :=
  ⟨h.mode, h.lastFault, h.restartTimes, fun r hr => ⟨r.ended, h.restart.trans hr⟩⟩

theorem stepTwo_taken (m : Mach) : StepTwoTaken m (stepTwo m) := by
  unfold stepTwo
  split
  next r j hrestart _ =>
    split
    · exact (RestartKept.refl m).stepTwoTaken
    · extract_lets m1 m2 k
      have h1 : RestartKept m m1 := restartRequests_restartKept m
      have h2 : RestartKept { m1 with restart := some { r with ended := true } } m2 := replAtFault_restartKept _
      clear_value m1
      have hsheet : RestartKept { m1 with restart := some { r with ended := true } } (if k = 0 then m2 else beginSheet m2 k) :=
        .ite h2 (h2.trans (beginSheet_restartKept ..))
      generalize (if k = 0 then m2 else beginSheet m2 k) = n at hsheet ⊢
      refine ⟨hsheet.mode.trans h1.mode, hsheet.lastFault.trans h1.lastFault, hsheet.restartTimes.trans h1.restartTimes, ?_⟩
      intro r' hr'
      obtain rfl : r = r' := Option.some.inj (hrestart.symm.trans hr')
      exact ⟨true, hsheet.restart⟩
  next => exact (RestartKept.refl m).stepTwoTaken

end Sys2Proof.Machine

/-! SUPPORT. A FAULT at the module steward (R475–R484): outside a job it is recorded, in a running job it begins a restart, and of module
severity it begins a sheet. -/

namespace Sys2Proof.Machine

/-! ## A FAULT that arrives (R369, R477) -/

/-- The machine with a fault's message taken up by the module steward. -/
def faultHeard (m : Mach) (rec_ : FaultRec) : Mach :=
  { m with raised := m.raised.erase rec_, ctrl := arrivesAt (stewardNode 0) (faultMessage rec_) m.ctrl }

/-- The machine to whose steward a fault has come: the fault is relayed, and a hard verdict's record taken up. -/
def faultArrived (m : Mach) (rec_ : FaultRec) : Mach :=
  let n := originate (faultHeard m rec_) (faultMessage rec_)
  if rec_.code = 0x101 then hardArrives n rec_.erg rec_.dune rec_.row rec_.beat else n

theorem execFault_eq {s : State} {rec_ : FaultRec} (hpowered : powered s.m = true) (hlow : 1 ≤ rec_.severity) (hhigh : rec_.severity ≤ 3)
    (horder : overtakes s.m (stewardNode 0) (faultMessage rec_) = false) :
    exec (.fault rec_) s = .next { s with m := handleFault (faultArrived s.m rec_) rec_ } := by
  have hguard : ¬((!powered s.m) = true ∨ rec_.severity < 1 ∨ 3 < rec_.severity ∨
      overtakes s.m (stewardNode 0) (faultMessage rec_) = true) := by
    simp [hpowered, horder, Nat.not_lt.mpr hlow, Nat.not_lt.mpr hhigh]
  simp only [exec, execFault, nextM]
  rw [if_neg hguard]
  rfl

/-- From `a` to `n` a fault has come to the steward and been noted; what executes is as it was. -/
structure FaultTaken (a n : Mach) : Prop where
  frame : n = { a with raised := n.raised, ctrl := n.ctrl, bundles := n.bundles, ctrlSeq := n.ctrlSeq, ctrlSeen := n.ctrlSeen,
                       out := n.out, hardWaiting := n.hardWaiting, hardAt := n.hardAt, od := n.od, job := n.job, answers := n.answers,
                       bar0 := n.bar0, port := n.port, fns := n.fns, sessions := n.sessions, restart := n.restart, repl := n.repl }

namespace FaultTaken

variable {a m n : Mach}

theorem refl (a : Mach) : FaultTaken a a := ⟨rfl⟩

theorem trans (h : FaultTaken a m) (h' : FaultTaken m n) : FaultTaken a n := ⟨h'.frame.trans (by rw [h.frame])⟩

theorem engineKept (h : FaultTaken a n) : EngineKept a n := by constructor <;> rw [h.frame]

theorem mode (h : FaultTaken a n) : n.mode = a.mode := by rw [h.frame]
theorem dunes (h : FaultTaken a n) : n.dunes = a.dunes := by rw [h.frame]
theorem now (h : FaultTaken a n) : n.now = a.now := by rw [h.frame]
theorem restartTimes (h : FaultTaken a n) : n.restartTimes = a.restartTimes := by rw [h.frame]

end FaultTaken

theorem OnlyAnnounced.faultTaken {a n : Mach} (h : OnlyAnnounced a n) : FaultTaken a n := ⟨by rw [h.frame]⟩

theorem OnlyAnswered.faultTaken {a n : Mach} (h : OnlyAnswered a n) : FaultTaken a n := ⟨by rw [h.frame]⟩

theorem odSet_faultTaken (m : Mach) (idx sub v : Nat) : FaultTaken m (odSet m idx sub v) := ⟨rfl⟩

theorem count_faultTaken (m : Mach) (idx sub n : Nat) : FaultTaken m (count m idx sub n) := ⟨rfl⟩

theorem recordFault_faultTaken (m : Mach) (f : FaultRec) : FaultTaken m (recordFault m f) :=
  odSet_faultTaken m 0x6010 1 (faultRecord f)

/-- From `a` to `n` a fault has come to the steward: nothing is noted of it yet but a hard verdict's record. -/
structure FaultArrived (rec_ : FaultRec) (a n : Mach) : Prop where
  taken : FaultTaken a n
  raised : n.raised = a.raised.erase rec_
  job : n.job = a.job
  restart : n.restart = a.restart
  objects : ∀ idx sub, objKey idx sub ≠ objKey 0x6130 7 → odGet n idx sub = odGet a idx sub

/-- From `a` to `n` a hard verdict's record has been taken up. -/
structure OnlyHardNoted (a n : Mach) : Prop where
  frame : n = { a with hardWaiting := n.hardWaiting, hardAt := n.hardAt, od := n.od }
  objects : ∀ idx sub, objKey idx sub ≠ objKey 0x6130 7 → odGet n idx sub = odGet a idx sub

theorem recordHard_onlyHardNoted (m : Mach) (h : HardVerdict) : OnlyHardNoted m (recordHard m h) := by
  unfold recordHard
  extract_lets old all first
  split
  · exact ⟨rfl, fun idx sub hne => odGet_odSet_ne m hne _⟩
  · refine ⟨rfl, fun idx sub hne => ?_⟩
    exact (odGet_odSet_ne { m with hardAt := m.now } hne _).trans rfl

theorem hardArrives_onlyHardNoted (m : Mach) (erg dune row beat : Nat) : OnlyHardNoted m (hardArrives m erg dune row beat) := by
  unfold hardArrives
  extract_lets mine
  split
  next h _ =>
    have hnoted := recordHard_onlyHardNoted { m with hardWaiting := m.hardWaiting.erase h } h
    generalize recordHard { m with hardWaiting := m.hardWaiting.erase h } h = n at hnoted ⊢
    exact ⟨hnoted.frame.trans rfl, fun idx sub hne => (hnoted.objects idx sub hne).trans rfl⟩
  next => exact ⟨rfl, fun _ _ _ => rfl⟩

theorem faultArrived_arrived (m : Mach) (rec_ : FaultRec) : FaultArrived rec_ m (faultArrived m rec_) := by
  unfold faultArrived
  extract_lets n
  have hsent : OnlyAnnounced (faultHeard m rec_) n := originate_onlyAnnounced ..
  have hheard : FaultTaken m (faultHeard m rec_) := ⟨rfl⟩
  have hn : FaultArrived rec_ m n :=
    ⟨hheard.trans hsent.faultTaken, by rw [hsent.frame]; rfl, by rw [hsent.frame]; rfl, by rw [hsent.frame]; rfl,
      fun idx sub _ => (hsent.odGet_eq idx sub).trans rfl⟩
  clear_value n
  split
  · have hnoted := hardArrives_onlyHardNoted n rec_.erg rec_.dune rec_.row rec_.beat
    generalize hardArrives n rec_.erg rec_.dune rec_.row rec_.beat = w at hnoted ⊢
    have htaken : FaultTaken n w := ⟨by rw [hnoted.frame]⟩
    exact ⟨hn.taken.trans htaken, by rw [hnoted.frame]; exact hn.raised, by rw [hnoted.frame]; exact hn.job,
      by rw [hnoted.frame]; exact hn.restart, fun idx sub hne => (hnoted.objects idx sub hne).trans (hn.objects idx sub hne)⟩
  · exact hn

/-! ## Outside a job (R475) -/

theorem giveUpDune_of_code {f : FaultRec} (h : f.code ≠ 0x103) (m : Mach) : giveUpDune m f = m := if_neg fun hlost => h hlost.1

theorem handleFault_idle {m : Mach} {f : FaultRec} (hsev : f.severity ≤ 2) (hcode : f.code ≠ 0x103) (hmode : m.mode = .standby)
    (hrestart : m.restart = none) : handleFault m f = recordFault (count m 0x6010 2 1) f := by
  have hminor : f.severity ≠ 3 := by omega
  have hcounted : (count m 0x6010 2 1).mode = .standby := hmode
  have hnone : (count m 0x6010 2 1).restart = none := hrestart
  unfold handleFault
  rw [if_neg hminor, giveUpDune_of_code hcode]
  generalize count m 0x6010 2 1 = n at hcounted hnone ⊢
  simp [hcounted, hnone, waitsForT0]

theorem odGet_recordFault (m : Mach) (f : FaultRec) : odGet (recordFault m f) 0x6010 1 = faultRecord f :=
  odGet_odSet_same m 0x6010 1 (faultRecord f)

theorem fault_idle_yields {s : State} {rec_ : FaultRec} (hpowered : powered s.m = true) (hlow : 1 ≤ rec_.severity)
    (hcode : rec_.code ≠ 0x0103) (horder : overtakes s.m (stewardNode 0) (faultMessage rec_) = false) (hsev : rec_.severity ≤ 2)
    (hmode : s.m.mode = .standby) (hrestart : s.m.restart = none) : Yields s (.fault rec_) fun n =>
      odGet n 0x6010 1 = faultRecord rec_ ∧ odGet n 0x6010 2 = odGet s.m 0x6010 2 + 1 ∧ n.mode = .standby ∧
      n.raised = s.m.raised.erase rec_ ∧ EngineKept s.m n := by
  have hexec := execFault_eq hpowered hlow (by omega) horder
  have harrived := faultArrived_arrived s.m rec_
  rw [handleFault_idle hsev hcode (harrived.taken.mode.trans hmode) (harrived.restart.trans hrestart)] at hexec
  refine ⟨_, hexec, ?_⟩
  generalize faultArrived s.m rec_ = w at harrived ⊢
  have htaken : FaultTaken w (recordFault (count w 0x6010 2 1) rec_) := (count_faultTaken ..).trans (recordFault_faultTaken ..)
  have hraised : (recordFault (count w 0x6010 2 1) rec_).raised = w.raised := by rw [recordFault_frame]; rfl
  refine ⟨odGet_recordFault .., ?_, htaken.mode.trans (harrived.taken.mode.trans hmode), hraised.trans harrived.raised,
    (harrived.taken.trans htaken).engineKept⟩
  rw [odGet_recordFault_ne _ _ (by decide), odGet_count_same, harrived.objects _ _ (by decide)]

/-! ## In a running job (R479–R481, R483) -/

/-- A job whose beat is held by a fault is all that a held beat changes. -/
theorem holdBeat_frame (m : Mach) (b : Nat) : holdBeat m b = { m with job := (holdBeat m b).job } := by
  unfold holdBeat
  extract_lets n
  have hopen : n = { m with job := n.job } := openFault_eq m
  clear_value n
  rw [hopen]

theorem holdBeat_faultTaken (m : Mach) (b : Nat) : FaultTaken m (holdBeat m b) := ⟨by rw [holdBeat_frame]⟩

theorem odGet_holdBeat (m : Mach) (b idx sub : Nat) : odGet (holdBeat m b) idx sub = odGet m idx sub := by
  rw [holdBeat_frame]
  rfl

theorem handleFault_running {m : Mach} {f : FaultRec} (hsev : f.severity ≤ 2) (hcode : f.code ≠ 0x103) (hmode : m.mode = .running)
    (hrestart : m.restart = none) : handleFault m f = beginRestart (holdBeat (count m 0x6010 2 1) f.beat) f := by
  have hminor : f.severity ≠ 3 := by omega
  have hcounted : (count m 0x6010 2 1).mode = .running := hmode
  have hnone : (count m 0x6010 2 1).restart = none := hrestart
  unfold handleFault
  rw [if_neg hminor, giveUpDune_of_code hcode]
  generalize count m 0x6010 2 1 = n at hcounted hnone ⊢
  have hheld : (holdBeat n f.beat).restart = none := by rw [holdBeat_frame]; exact hnone
  simp [hcounted, hheld]

/-- The machine with a restart begun: its instant, and what it goes back to. -/
def restartMarked (m : Mach) (f : FaultRec) : Mach :=
  { m with restartTimes := [m.now], restart := some ⟨m.mode, f.severity, m.now, false⟩ }

/-- The restart told: event 0x800A, and FREEZE to every island. -/
def restartTold (m : Mach) (f : FaultRec) : Mach := sendFreeze (postEvent m 0x800A f.erg f.dune f.code.toNat) f.beat

theorem restartTold_restartKept (m : Mach) (f : FaultRec) : RestartKept m (restartTold m f) :=
  (postEvent_restartKept ..).trans (broadcastJob_onlyAnnounced ..).restartKept

/-- The restart's first steps from a machine on which the fault has been recorded. -/
def restartStarted (m : Mach) (f : FaultRec) : Mach :=
  let n := restartTold (restartMarked m f) f
  stepTwo (closeDue (openBeat n + 1 - ((n.job.map (·.nextClose)).getD 0)) (setState n .restarting) (htcNow n))

theorem beginRestart_first {m : Mach} {f : FaultRec} (hmode : m.mode = .running) (htimes : m.restartTimes = [])
    (hallowed : 1 ≤ odGet m 0x6000 2) : beginRestart m f = restartStarted (recordFault m f) f := by
  unfold beginRestart
  extract_lets n window recent marked told
  have hrecorded : FaultTaken m n := recordFault_faultTaken m f
  have hlimit : 1 ≤ odGet n 0x6000 2 := hallowed.trans_eq (odGet_recordFault_ne m f (by decide)).symm
  change _ = restartStarted n f
  clear_value n
  have hrecent : recent = [] := by
    unfold recent
    rw [hrecorded.restartTimes.trans htimes, List.filter_nil]
  have hmarked : marked = restartMarked n f := by
    unfold marked
    rw [hrecent, List.nil_append]
    rfl
  have htold : told = restartTold (restartMarked n f) f := by
    unfold told
    rw [hmarked]
    rfl
  have hmarkedMode : (restartMarked n f).mode = n.mode := rfl
  have htoldMode : told.mode = .running := by
    rw [htold, (restartTold_restartKept ..).mode, hmarkedMode, hrecorded.mode, hmode]
  have hallows : ¬odGet n 0x6000 2 ≤ recent.length := by
    rw [hrecent, List.length_nil]
    omega
  have hruns : ¬told.mode = .loading := by
    rw [htoldMode]
    decide
  rw [if_neg hallows, if_neg hruns, htold, restartStarted]

/-- What a restart that has begun has noted. -/
structure RestartNoted (f : FaultRec) (began : Nat) (n : Mach) : Prop where
  mode : n.mode = .restarting
  lastFault : odGet n 0x6010 1 = faultRecord f
  restart : ∃ r, n.restart = some r ∧ r.from_ = .running ∧ r.severity = f.severity ∧ r.began = began
  restartTimes : n.restartTimes = [began]

theorem restartStarted_noted {m : Mach} {f : FaultRec} (hmode : m.mode = .running) (hfault : odGet m 0x6010 1 = faultRecord f) :
    RestartNoted f m.now (restartStarted m f) := by
  unfold restartStarted
  extract_lets n
  have htold : RestartKept (restartMarked m f) n := restartTold_restartKept ..
  have hmarkedFault : odGet (restartMarked m f) 0x6010 1 = odGet m 0x6010 1 := rfl
  have hmarkedMode : (restartMarked m f).mode = m.mode := rfl
  have hmarked : (restartMarked m f).restart = some ⟨m.mode, f.severity, m.now, false⟩ := rfl
  have hmarkedTimes : (restartMarked m f).restartTimes = [m.now] := rfl
  generalize restartMarked m f = k at htold hmarkedFault hmarkedMode hmarked hmarkedTimes
  clear_value n
  have hruns : n.mode ≠ .restarting := by
    rw [htold.mode, hmarkedMode, hmode]
    decide
  have hentered : StateEntered .restarting n (setState n .restarting) := setState_entered hruns
  generalize setState n .restarting = x at hentered ⊢
  have hclosed : RestartKept x (closeDue (openBeat n + 1 - ((n.job.map (·.nextClose)).getD 0)) x (htcNow n)) :=
    closeDue_restartKept ..
  generalize closeDue (openBeat n + 1 - ((n.job.map (·.nextClose)).getD 0)) x (htcNow n) = y at hclosed ⊢
  have htaken := stepTwo_taken y
  have hrestart : y.restart = some ⟨m.mode, f.severity, m.now, false⟩ := by
    rw [hclosed.restart, hentered.frame]
    exact htold.restart.trans hmarked
  have htimes : y.restartTimes = [m.now] := by
    rw [hclosed.restartTimes, hentered.frame]
    exact htold.restartTimes.trans hmarkedTimes
  obtain ⟨e, hended⟩ := htaken.restart _ hrestart
  refine ⟨htaken.mode.trans (hclosed.mode.trans hentered.mode), ?_, ⟨_, hended, hmode, rfl, rfl⟩, htaken.restartTimes.trans htimes⟩
  rw [htaken.lastFault, hclosed.lastFault, hentered.odGet_eq (by decide), htold.lastFault, hmarkedFault, hfault]

theorem fault_running_yields {s : State} {rec_ : FaultRec} (hpowered : powered s.m = true) (hlow : 1 ≤ rec_.severity)
    (hcode : rec_.code ≠ 0x0103) (horder : overtakes s.m (stewardNode 0) (faultMessage rec_) = false) (hsev : rec_.severity ≤ 2)
    (hmode : s.m.mode = .running) (hrestart : s.m.restart = none) (htimes : s.m.restartTimes = [])
    (hallowed : 1 ≤ odGet s.m 0x6000 2) : Yields s (.fault rec_) fun n => n.mode = .restarting ∧
      odGet n 0x6010 1 = faultRecord rec_ ∧
      (∃ r, n.restart = some r ∧ r.from_ = .running ∧ r.severity = rec_.severity ∧ r.began = s.m.now) ∧
      n.restartTimes = [s.m.now] := by
  have hexec := execFault_eq hpowered hlow (by omega) horder
  have harrived := faultArrived_arrived s.m rec_
  rw [handleFault_running hsev hcode (harrived.taken.mode.trans hmode) (harrived.restart.trans hrestart)] at hexec
  generalize faultArrived s.m rec_ = w at harrived hexec
  have hheld : FaultTaken s.m (holdBeat (count w 0x6010 2 1) rec_.beat) :=
    (harrived.taken.trans (count_faultTaken ..)).trans (holdBeat_faultTaken ..)
  have hlimit : odGet (holdBeat (count w 0x6010 2 1) rec_.beat) 0x6000 2 = odGet s.m 0x6000 2 := by
    rw [odGet_holdBeat, odGet_count_ne _ (by decide), harrived.objects _ _ (by decide)]
  generalize holdBeat (count w 0x6010 2 1) rec_.beat = h at hheld hlimit hexec
  rw [beginRestart_first (hheld.mode.trans hmode) (hheld.restartTimes.trans htimes) (hlimit ▸ hallowed)] at hexec
  refine ⟨_, hexec, ?_⟩
  have hrecorded : FaultTaken s.m (recordFault h rec_) := hheld.trans (recordFault_faultTaken ..)
  have hnoted := restartStarted_noted (hrecorded.mode.trans hmode) (odGet_recordFault h rec_)
  rw [hrecorded.now] at hnoted
  exact ⟨hnoted.mode, hnoted.lastFault, hnoted.restart, hnoted.restartTimes⟩

/-! ## Of module severity (R484, R490) -/

/-- A module fault noted, and FREEZE sent. -/
def moduleFaultNoted (m : Mach) (f : FaultRec) : Mach := sendFreeze (recordFault (count m 0x6010 5 1) f) f.beat

theorem moduleFault_idle {m : Mach} {f : FaultRec} (hmode : m.mode = .standby) : moduleFault m f =
    beginSheet (setState (setReplState (dropAnswers (withoutWork (moduleFaultNoted m f))) 0) .dumping) (if thumbCode f then 3 else 1) := by
  have hcounted : (count m 0x6010 5 1).mode = .standby := hmode
  have hstands : ¬((count m 0x6010 5 1).mode = .thermalHalt ∨ (count m 0x6010 5 1).mode = .off ∨
      (count m 0x6010 5 1).mode = .dumping) := by
    rw [hcounted]
    decide
  unfold moduleFault
  extract_lets n x y
  rw [if_neg hstands]
  rfl

theorem moduleFaultNoted_taken (m : Mach) (f : FaultRec) : FaultTaken m (moduleFaultNoted m f) :=
  ((count_faultTaken ..).trans (recordFault_faultTaken ..)).trans (broadcastJob_onlyAnnounced ..).faultTaken

theorem odGet_moduleFaultNoted (m : Mach) (f : FaultRec) : odGet (moduleFaultNoted m f) 0x6010 1 = faultRecord f ∧
    odGet (moduleFaultNoted m f) 0x6010 5 = odGet m 0x6010 5 + 1 := by
  have hsent : OnlyAnnounced (recordFault (count m 0x6010 5 1) f) (moduleFaultNoted m f) := broadcastJob_onlyAnnounced ..
  rw [hsent.odGet_eq, hsent.odGet_eq, odGet_recordFault, odGet_recordFault_ne _ _ (by decide), odGet_count_same]
  exact ⟨rfl, rfl⟩

/-- What a module that stops for a fault drops first: waiting commands, its restart and its replacement. -/
def workDropped (m : Mach) : Mach := setReplState (dropAnswers (withoutWork m)) 0

/-- From `a` to `n` a module has dropped its work. -/
structure WorkDropped (a n : Mach) : Prop where
  taken : FaultTaken a n
  restart : n.restart = none
  repl : n.repl = none
  objects : ∀ idx sub, objKey idx sub ≠ objKey 0x3140 2 → odGet n idx sub = odGet a idx sub

theorem workDropped_dropped (m : Mach) : WorkDropped m (workDropped m) := by
  have hbare : FaultTaken m (withoutWork m) := ⟨rfl⟩
  have hsame (idx sub : Nat) : odGet (withoutWork m) idx sub = odGet m idx sub := rfl
  have hanswered := dropAnswers_onlyAnswered (withoutWork m)
  have hrestart : (dropAnswers (withoutWork m)).restart = none := by rw [hanswered.frame]; rfl
  have hrepl : (dropAnswers (withoutWork m)).repl = none := by rw [hanswered.frame]; rfl
  unfold workDropped
  generalize dropAnswers (withoutWork m) = w at hanswered hrestart hrepl
  refine ⟨(hbare.trans hanswered.faultTaken).trans (odSet_faultTaken w 0x3140 2 0), hrestart, hrepl, fun idx sub hne => ?_⟩
  exact (odGet_odSet_ne w hne 0).trans ((hanswered.odGet_eq idx sub).trans (hsame idx sub))

theorem fault_module_yields {s : State} {rec_ : FaultRec} (hpowered : powered s.m = true) (hlow : 1 ≤ rec_.severity)
    (horder : overtakes s.m (stewardNode 0) (faultMessage rec_) = false) (hsev : rec_.severity = 3)
    (hmode : s.m.mode = .standby) : Yields s (.fault rec_) fun n => n.mode = .dumping ∧ odGet n 0x6010 1 = faultRecord rec_ ∧
      odGet n 0x6010 5 = odGet s.m 0x6010 5 + 1 ∧ n.restart = none ∧ n.repl = none ∧ n.sheetWriting.isSome = true ∧
      EngineKept (leaveBask s.m) n := by
  have hexec := execFault_eq hpowered hlow (by omega) horder
  have harrived := faultArrived_arrived s.m rec_
  rw [handleFault, if_pos hsev] at hexec
  generalize faultArrived s.m rec_ = w at harrived hexec
  have hheld : FaultTaken w (if w.job.isSome = true then holdBeat w rec_.beat else w) := by
    split
    · exact holdBeat_faultTaken ..
    · exact .refl w
  have hcount : odGet (if w.job.isSome = true then holdBeat w rec_.beat else w) 0x6010 5 = odGet s.m 0x6010 5 := by
    rw [← harrived.objects _ _ (by decide)]
    split
    · exact odGet_holdBeat ..
    · rfl
  generalize (if w.job.isSome = true then holdBeat w rec_.beat else w) = h at hheld hcount hexec
  have hfirst := harrived.taken.trans hheld
  rw [moduleFault_idle (hfirst.mode.trans hmode)] at hexec
  refine ⟨_, hexec, ?_⟩
  have hnoted := hfirst.trans (moduleFaultNoted_taken h rec_)
  obtain ⟨hfault, htotal⟩ := odGet_moduleFaultNoted h rec_
  generalize moduleFaultNoted h rec_ = x at hnoted hfault htotal ⊢
  have hdropped := workDropped_dropped x
  rw [workDropped] at hdropped
  generalize setReplState (dropAnswers (withoutWork x)) 0 = y at hdropped ⊢
  have hkept := hnoted.trans hdropped.taken
  have hstands : y.mode ≠ .dumping := by
    rw [hkept.mode, hmode]
    decide
  have hentered : StateEntered .dumping y (setState y .dumping) := setState_entered hstands
  generalize setState y .dumping = z at hentered ⊢
  generalize (if thumbCode rec_ = true then 3 else 1) = kind
  have hsheet := beginSheet_frame z kind
  have hlast : odGet (beginSheet z kind) 0x6010 1 = odGet z 0x6010 1 := odGet_beginSheet z kind (by decide) (by decide)
  have hfaults : odGet (beginSheet z kind) 0x6010 5 = odGet z 0x6010 5 := odGet_beginSheet z kind (by decide) (by decide)
  generalize beginSheet z kind = n at hsheet hlast hfaults ⊢
  have hengine : EngineKept z n := by constructor <;> rw [hsheet]
  refine ⟨?_, ?_, ?_, ?_, ?_, ?_, ((leaveBask_engineKept hkept.dunes hkept.engineKept).trans hentered.engine).trans hengine⟩
  · rw [hsheet]
    exact hentered.mode
  · rw [hlast, hentered.odGet_eq (by decide), hdropped.objects _ _ (by decide), hfault]
  · rw [hfaults, hentered.odGet_eq (by decide), hdropped.objects _ _ (by decide), htotal, hcount]
  · rw [hsheet, hentered.frame]
    exact hdropped.restart
  · rw [hsheet, hentered.frame]
    exact hdropped.repl
  · rw [hsheet]
    rfl

end Sys2Proof.Machine

/-! SUPPORT. A restart whose work is done goes on from its anchor (R225, R241, R481 steps 7 and 8). -/

namespace Sys2Proof.Machine

/-! ## The islands set to the anchor (R481 step 7) -/

theorem injectFlits_levelKept (m : Mach) (p : Packet) (at_ : Nat → Nat) : LevelKept m (injectFlits m p at_) := .of_eq rfl rfl

theorem releaseHeld_levelKept (m : Mach) (p : Packet) : LevelKept m (releaseHeld m p) := by
  unfold releaseHeld
  extract_lets here target way m'
  clear_value way
  cases way with
  | none => exact discardAt_levelKept ..
  | some l => exact .ite (.refl m) (.of_eq rfl rfl)

theorem writeTables_levelKept (m : Mach) (bad : List Nat) : LevelKept m (writeTables m bad) :=
  .after (.foldl releaseHeld_levelKept _ _) (.of_eq rfl rfl)

theorem setDune_levelKept (m : Mach) (d : DuneId) (v : DuneState) : LevelKept m (setDune m d v) := .of_eq rfl rfl

theorem setAnchor_pendingEnds (m : Mach) (anchor n level : Nat) : pendingEnds (setAnchor m anchor n level) = pendingEnds m := by
  unfold setAnchor
  extract_lets p
  have hdunes : LevelKept m ((jobDunes m).foldl (fun m d => setDune m d { getDune m d with
      anchor, anchorBeat := n, period := p, level, nextBeat := n, beat := none, pausedFrom := none, changes := [], fixes := []
      frozen := false }) (writeTables m ((m.job.map fun j => unusableDunes m j.lost).getD []))) :=
    .after (.foldl (fun m d => setDune_levelKept m d _) _ _) (writeTables_levelKept ..)
  exact hdunes.pending

/-! ## The job goes on (R481 step 8) -/

/-- A job that goes on from beat `n` at a level. -/
def resumedJob (n level : Nat) (k : Job) : Job :=
  { k with faultBeat := none, faultNext := none, lastStarted := if n = 0 then none else some (n - 1), nextClose := n, sampledTo := n
           clampedBeats := [], starts := [], unloadAt := none, slotBase := n, announcedTo := 0, levelAnnounced := level
           planHeld := none, startAt := none }

/-- Open faults of the job before make no difference to the job that goes on. -/
theorem resumedJob_of_faultsNoted {a m : Mach} (h : FaultsNoted a m) (n level : Nat) :
    m.job.map (resumedJob n level) = a.job.map (resumedJob n level) := by
  have hmap (x : Mach) : (jobButFault x).map (resumedJob n level) = x.job.map (resumedJob n level) := by
    rw [jobButFault, Option.map_map]
    rfl
  rw [← hmap m, h.job, hmap a]

/-- The machine whose islands have been given the anchor, at the instant of the anchor. -/
def anchorGiven (m : Mach) (anchor n : Nat) : Mach :=
  let x := advance m (tuAt m anchor)
  setAnchor (applyClassB (rollFallback x)) anchor n (odGet x 0x4100 2)

/-- The job's beats counted on from the anchor, and the restart gone. -/
def beatsResumed (m : Mach) (n : Nat) : Mach :=
  { m with restart := none, slotRuns := [], job := m.job.map fun j =>
    { j with faultBeat := none, faultNext := none, lastStarted := if n = 0 then none else some (n - 1), nextClose := n, sampledTo := n
             clampedBeats := [], starts := [], unloadAt := none, slotBase := n } }

/-- A restart counted, with its duration. -/
def restartCounted (m : Mach) (r : Restart) : Mach :=
  let m := count m 0x6010 3 1
  let m := if 2 ≤ r.severity then count m 0x6010 4 1 else m
  odSet m 0x6010 6 (min ((m.now - r.began) / 217000) 0xFFFFFFFF)

theorem resumeJob_running {r : Restart} (h : r.from_ = .running) (m : Mach) (anchor n : Nat) :
    resumeJob m r anchor n = setState (restartCounted (beatsResumed (anchorGiven m anchor n) n) r) .running := by
  unfold resumeJob
  extract_lets
  rw [h]
  rfl

theorem rollFallback_frame (m : Mach) : rollFallback m = { m with fallback := (rollFallback m).fallback } := by
  unfold rollFallback
  extract_lets sec
  split <;> rfl

/-- From `a` to `n` the job has been set going again from beat `first`. -/
structure JobResumed (first level : Nat) (a n : Mach) : Prop where
  job : n.job = a.job.map (resumedJob first level)
  pending : pendingEnds n = pendingEnds a

theorem anchorGiven_resumed (m : Mach) (anchor n : Nat) :
    JobResumed n (odGet m 0x4100 2) m (beatsResumed (anchorGiven m anchor n) n) := by
  have hlevel := advance_levelKept m (tuAt m anchor)
  have hfaults := advance_faultsNoted m (tuAt m anchor)
  unfold anchorGiven
  extract_lets x
  have hx : x = advance m (tuAt m anchor) := rfl
  rw [← hx] at hlevel hfaults
  clear_value x
  have hrolled : applyClassB (rollFallback x) = { x with fallback := (rollFallback x).fallback, waitingB := [] } := by
    rw [applyClassB, rollFallback_frame]
  have hpending : pendingEnds (applyClassB (rollFallback x)) = pendingEnds x := by rw [hrolled]; rfl
  have hjob : (applyClassB (rollFallback x)).job = x.job := by rw [hrolled]
  generalize applyClassB (rollFallback x) = y at hpending hjob
  have hanchor := (setAnchor_loadKept y anchor n (odGet x 0x4100 2)).job
  have hanchorEnds := setAnchor_pendingEnds y anchor n (odGet x 0x4100 2)
  generalize setAnchor y anchor n (odGet x 0x4100 2) = z at hanchor hanchorEnds
  refine ⟨?_, hanchorEnds.trans (hpending.trans hlevel.pending)⟩
  rw [← hlevel.level, ← resumedJob_of_faultsNoted hfaults, ← hjob]
  unfold beatsResumed
  rw [hanchor, Option.map_map]
  rfl

theorem restartCounted_frame (m : Mach) (r : Restart) : restartCounted m r = { m with od := (restartCounted m r).od } := by
  unfold restartCounted
  extract_lets m1 m2
  have h2 : m2 = { m with od := m2.od } := by
    unfold m2
    split <;> rfl
  clear_value m2
  rw [h2]
  rfl

theorem resumeJob_resumed {r : Restart} (h : r.from_ = .running) (m : Mach) (anchor n : Nat) :
    JobResumed n (odGet m 0x4100 2) m (resumeJob m r anchor n) ∧ (resumeJob m r anchor n).mode = .running ∧
      (resumeJob m r anchor n).restart = none := by
  rw [resumeJob_running h]
  obtain ⟨hjob, hpending⟩ := anchorGiven_resumed m anchor n
  have hgone : (beatsResumed (anchorGiven m anchor n) n).restart = none := rfl
  generalize beatsResumed (anchorGiven m anchor n) n = x at hjob hpending hgone ⊢
  have hcounted := restartCounted_frame x r
  generalize restartCounted x r = y at hcounted ⊢
  have hstate := setState_onlyStateChanged y .running
  have hmode := (setState_loadKept y .running).mode
  generalize setState y .running = z at hstate hmode ⊢
  refine ⟨⟨?_, ?_⟩, hmode, ?_⟩
  · rw [hstate.frame, hcounted]
    exact hjob
  · rw [pendingEnds, hstate.frame, hcounted]
    exact hpending
  · rw [hstate.frame, hcounted]
    exact hgone

theorem resumePendingEnd_none {m : Mach} (h : pendingEnds m = (false, false)) : resumePendingEnd m = m := by
  have hdraining : m.draining = false := congrArg (·.1) h
  have hunloading : m.unloading = false := congrArg (·.2) h
  simp [resumePendingEnd, hdraining, hunloading]

theorem restartDone_resumed {r : Restart} (h : r.from_ = .running) {m : Mach} (hpending : pendingEnds m = (false, false)) (anchor n : Nat) :
    restartDone m r anchor n = resumeJob m r anchor n := by
  have hfrom : ¬r.from_ = .loading := by rw [h]; decide
  have hends := (resumeJob_resumed h m anchor n).1.pending.trans hpending
  unfold restartDone
  extract_lets x y
  have hy : y = x := if_neg hfrom
  rw [hy]
  split
  · exact resumePendingEnd_none hends
  · rfl

/-- The machine that has drawn its anchor. -/
theorem chooseAnchor_frame (m : Mach) (began lead : Nat) :
    (chooseAnchor m began lead).2 = { m with fresh := (chooseAnchor m began lead).2.fresh } := rfl

theorem restartAnchorOf_single {m : Mach} (h : multiModule m = false) (r : Restart) (j : Job) : restartAnchorOf m r j =
    (some (chooseAnchor m r.began 100000).1, (chooseAnchor m r.began 100000).2) := by
  simp only [restartAnchorOf, h, Bool.not_false, if_true]

/-- A restart whose work is done on `m` goes on from an anchor of its choice. -/
def anchored (m : Mach) (r : Restart) (n : Nat) : Mach :=
  restartDone (chooseAnchor m r.began 100000).2 r (chooseAnchor m r.began 100000).1 n

theorem anchored_resumed {r : Restart} (hfrom : r.from_ = .running) {m : Mach} (hpending : pendingEnds m = (false, false)) (n : Nat) :
    (anchored m r n).mode = .running ∧ (anchored m r n).restart = none ∧
      (anchored m r n).job = m.job.map (resumedJob n (odGet m 0x4100 2)) := by
  unfold anchored
  have hdrawn := chooseAnchor_frame m r.began 100000
  generalize chooseAnchor m r.began 100000 = x at hdrawn ⊢
  have hends : pendingEnds x.2 = (false, false) := by
    rw [hdrawn]
    exact hpending
  have hlevel : odGet x.2 0x4100 2 = odGet m 0x4100 2 := by
    rw [hdrawn]
    rfl
  have hsame : x.2.job = m.job := by rw [hdrawn]
  rw [restartDone_resumed hfrom hends]
  obtain ⟨hresumed, hmode, hnone⟩ := resumeJob_resumed hfrom x.2 x.1 n
  exact ⟨hmode, hnone, by rw [hresumed.job, hlevel, hsame]⟩

section
variable {s : State} {a w : Mach} {r : Restart} {j : Job} {rounds : List (List SiteTrial)}

theorem execRestartAnchor_eq (hpowered : powered s.m = true) (ha : a = finishStepTwo s.m) (hrestart : a.restart = some r)
    (hjob : a.job = some j) (hended : r.ended = true) (hwaits : restartWaits a j = false) (hsingle : multiModule a = false)
    (hwork : restartWork (finishRewrite a j (restartBeat a)) j (restartBeat a) rounds = (w, false)) (hstays : multiModule w = false) :
    exec (.restartAnchor rounds) s = .next { s with m := anchored w r (restartBeat a) } := by
  have hgoes : ¬(restartWaits a j = true ∨ (r.from_ ≠ .loading ∧ (!r.ended) = true) ∨
      (multiModule a = true ∧ (!beatMaster a) = true ∧ j.startAt.isNone = true)) := by
    simp [hwaits, hended, hsingle]
  simp only [exec, execRestartAnchor, nextM, hpowered, Bool.not_true, Bool.false_eq_true, if_false, ← ha, hrestart, hjob]
  rw [if_neg (by simpa using hgoes)]
  simp only [hwork, Bool.false_eq_true, if_false, restartAnchorOf_single hstays, anchored]

theorem restartAnchor_yields (hpowered : powered s.m = true) (ha : a = finishStepTwo s.m) (hrestart : a.restart = some r)
    (hjob : a.job = some j) (hfrom : r.from_ = .running) (hended : r.ended = true) (hwaits : restartWaits a j = false) (hsingle : multiModule a = false)
    (hwork : restartWork (finishRewrite a j (restartBeat a)) j (restartBeat a) rounds = (w, false)) (hstays : multiModule w = false)
    (hdraining : w.draining = false) (hunloading : w.unloading = false) : Yields s (.restartAnchor rounds) fun n =>
      n.mode = .running ∧ n.restart = none ∧ n.job = w.job.map (resumedJob (restartBeat a) (odGet w 0x4100 2)) := by
  have hpending : pendingEnds w = (false, false) := by rw [pendingEnds, hdraining, hunloading]
  exact ⟨_, execRestartAnchor_eq hpowered ha hrestart hjob hended hwaits hsingle hwork hstays, anchored_resumed hfrom hpending _⟩

end

/-- Settles O58: a fault by `fault_idle_yields`, `fault_running_yields` and `fault_module_yields`, FREEZE by `freeze_yields`, the restart's
anchor by `restartAnchor_yields`, sheets by `completeSheet_spec`, REINIT by `reinit_yields`, provocations by `provocationArmed_yields`. -/
theorem faultsAndSheets : Obligations.FaultsAndSheets := by
  intro s hpowered
  refine ⟨fun rec_ hlow hcode horder => ⟨?idle, ?running, ?module⟩, fun d x haddressed => ⟨?freeze, ?again⟩, ?anchor, ?steward,
    fun k hwriting hdump hhalt => ⟨?complete, ?failed⟩, ?reinit, ?provoke, ?armed⟩
  case idle => exact fun hsev hmode hrestart => fault_idle_yields hpowered hlow hcode horder hsev hmode hrestart
  case running =>
    exact fun hsev j _ hmode hrestart htimes hallowed =>
      fault_running_yields hpowered hlow hcode horder hsev hmode hrestart htimes hallowed
  case module => exact fun hsev hmode => fault_module_yields hpowered hlow horder hsev hmode
  case freeze => exact fun hruns => freeze_yields haddressed hruns
  case again => exact fun hfrozen => freeze_again_yields haddressed hfrozen
  case anchor =>
    intro r j w rounds a hrestart hjob hfrom hended hwaits hsingle hwork hstays hdraining hunloading
    exact restartAnchor_yields hpowered rfl hrestart hjob hfrom hended hwaits hsingle hwork hstays hdraining hunloading
  case steward => exact fun e he => stewardTimeout_yields hpowered he
  case complete => exact contactSheetComplete_yields hpowered hwriting hdump hhalt
  case failed => exact fun hfull => contactSheetFailed_yields hpowered hwriting hfull
  case reinit => exact fun v data hcheck => reinit_yields hcheck
  case provoke => exact fun v data hcheck haction => faultProvoke_yields hcheck haction
  case armed => exact fun a hone haction => provocationArmed_yields hpowered hone haction

end Sys2Proof.Machine
